-- ==== Sys2Proof/Word.lean ====
section
/-! DEFINITION. The words of the device: a byte, a 32-bit register word, and byte strings. Byte order is
little-endian throughout (R11). -/

namespace Sys2Proof

/-- An 8-bit byte. -/
abbrev Byte := BitVec 8

/-- A 32-bit register word (R11). -/
abbrev W32 := BitVec 32

/-- A string of bytes, lowest address first. -/
abbrev Bytes := List (BitVec 8)

end Sys2Proof
end

