-- ==== Sys2Proof/Machine/Store.lean ====
section
/-! DEFINITION. Plain data helpers: bit fields of a number, little-endian bytes (R11), and finite maps held as lists
of key and value pairs in ascending key order. -/

namespace Sys2Proof.Machine
open Sys2Proof

/-- Bits [lo + w - 1 : lo] of n. -/
def bits (n lo w : Nat) : Nat := (n >>> lo) % 2 ^ w

/-- One bit of n. -/
def bit (n i : Nat) : Bool := n.testBit i

/-- n with bits [lo + w - 1 : lo] replaced by v. -/
def setBits (n lo w v : Nat) : Nat := n - (bits n lo w) * 2 ^ lo + (v % 2 ^ w) * 2 ^ lo

/-- The two's complement reading of the w-bit number v. -/
def signed (w v : Nat) : Int := if v % 2 ^ w < 2 ^ (w - 1) then (v % 2 ^ w : Nat) else ((v % 2 ^ w : Nat) : Int) - 2 ^ w

/-- The w-bit two's complement code of i. -/
def unsigned (w : Nat) (i : Int) : Nat := (i % (2 ^ w : Nat)).toNat

/-- The number a little-endian byte string holds (R11). -/
def bytesToNat : Bytes → Nat
  | [] => 0
  | b :: t => b.toNat + 256 * bytesToNat t

/-- The len lowest bytes of n, little-endian (R11). -/
def natToBytes : Nat → Nat → Bytes
  | 0, _ => []
  | len + 1, n => BitVec.ofNat 8 n :: natToBytes len (n / 256)

/-- `len` bytes of a string from offset `off`, padded with zeros beyond its end. -/
def slice (b : Bytes) (off len : Nat) : Bytes :=
  let t := (b.drop off).take len
  t ++ List.replicate (len - t.length) 0

/-- The little-endian number in `len` bytes of a string from offset `off`. -/
def leAt (b : Bytes) (off len : Nat) : Nat := bytesToNat (slice b off len)

/-- `b` with the bytes `v` put at offset `off`, within the length of `b`. -/
def patch (b : Bytes) (off : Nat) (v : Bytes) : Bytes :=
  if off + v.length ≤ b.length then b.take off ++ v ++ b.drop (off + v.length) else b

/-- Division rounded up. -/
def ceilDiv (a b : Nat) : Nat := (a + b - 1) / b

/-- Saturating increment of a counter of `w` bits. -/
def satAdd (w n k : Nat) : Nat := min (n + k) (2 ^ w - 1)

/-- A finite map: key and value pairs in ascending key order. -/
abbrev SMap (α : Type) := List (Nat × α)

/-- The value listed at a key. -/
def SMap.find {α : Type} : SMap α → Nat → Option α
  | [], _ => none
  | (a, v) :: t, k => if a = k then some v else SMap.find t k

/-- The value at a key, with the default of an unlisted key. -/
def SMap.get {α : Type} (d : α) (m : SMap α) (k : Nat) : α := (SMap.find m k).getD d

/-- The map with a value listed at a key. -/
def SMap.put {α : Type} : SMap α → Nat → α → SMap α
  | [], k, v => [(k, v)]
  | (a, w) :: t, k, v =>
    if k < a then (k, v) :: (a, w) :: t
    else if a = k then (k, v) :: t
    else (a, w) :: SMap.put t k v

/-- The map with nothing listed at a key. -/
def SMap.erase {α : Type} (m : SMap α) (k : Nat) : SMap α := m.filter (fun p => p.1 ≠ k)

/-- The map with nothing listed at keys lo to hi - 1. -/
def SMap.eraseRange {α : Type} (m : SMap α) (lo hi : Nat) : SMap α :=
  m.filter (fun p => p.1 < lo ∨ hi ≤ p.1)

/-- Keys strictly rising from a lower bound. -/
def SMap.sortedFrom {α : Type} : Nat → SMap α → Bool
  | _, [] => true
  | lo, (a, _) :: t => decide (lo ≤ a) && SMap.sortedFrom (a + 1) t

end Sys2Proof.Machine
end

