-- ==== Sys2Proof/Machine/Crypto.lean ====
section
/-! DEFINITION. SHA-512 and the verification of RSASSA-PSS (R509: PKCS #1 v2.2 with SHA-512, MGF1 over SHA-512, a 64-byte
salt, trailer 0xBC), and the CRC-32 of R363. -/

namespace Sys2Proof.Machine
open Sys2Proof

/-! ### SHA-512 -/

/-- A word of SHA-512. -/
abbrev W64 := BitVec 64

/-- The round constants of SHA-512, first half. -/
def shaK1 : List W64 := [
   0x428A2F98D728AE22, 0x7137449123EF65CD, 0xB5C0FBCFEC4D3B2F, 0xE9B5DBA58189DBBC,
   0x3956C25BF348B538, 0x59F111F1B605D019, 0x923F82A4AF194F9B, 0xAB1C5ED5DA6D8118,
   0xD807AA98A3030242, 0x12835B0145706FBE, 0x243185BE4EE4B28C, 0x550C7DC3D5FFB4E2,
   0x72BE5D74F27B896F, 0x80DEB1FE3B1696B1, 0x9BDC06A725C71235, 0xC19BF174CF692694,
   0xE49B69C19EF14AD2, 0xEFBE4786384F25E3, 0x0FC19DC68B8CD5B5, 0x240CA1CC77AC9C65,
   0x2DE92C6F592B0275, 0x4A7484AA6EA6E483, 0x5CB0A9DCBD41FBD4, 0x76F988DA831153B5,
   0x983E5152EE66DFAB, 0xA831C66D2DB43210, 0xB00327C898FB213F, 0xBF597FC7BEEF0EE4,
   0xC6E00BF33DA88FC2, 0xD5A79147930AA725, 0x06CA6351E003826F, 0x142929670A0E6E70,
   0x27B70A8546D22FFC, 0x2E1B21385C26C926, 0x4D2C6DFC5AC42AED, 0x53380D139D95B3DF,
   0x650A73548BAF63DE, 0x766A0ABB3C77B2A8, 0x81C2C92E47EDAEE6, 0x92722C851482353B]

/-- The round constants of SHA-512, second half. -/
def shaK2 : List W64 := [
   0xA2BFE8A14CF10364, 0xA81A664BBC423001, 0xC24B8B70D0F89791, 0xC76C51A30654BE30,
   0xD192E819D6EF5218, 0xD69906245565A910, 0xF40E35855771202A, 0x106AA07032BBD1B8,
   0x19A4C116B8D2D0C8, 0x1E376C085141AB53, 0x2748774CDF8EEB99, 0x34B0BCB5E19B48A8,
   0x391C0CB3C5C95A63, 0x4ED8AA4AE3418ACB, 0x5B9CCA4F7763E373, 0x682E6FF3D6B2B8A3,
   0x748F82EE5DEFB2FC, 0x78A5636F43172F60, 0x84C87814A1F0AB72, 0x8CC702081A6439EC,
   0x90BEFFFA23631E28, 0xA4506CEBDE82BDE9, 0xBEF9A3F7B2C67915, 0xC67178F2E372532B,
   0xCA273ECEEA26619C, 0xD186B8C721C0C207, 0xEADA7DD6CDE0EB1E, 0xF57D4F7FEE6ED178,
   0x06F067AA72176FBA, 0x0A637DC5A2C898A6, 0x113F9804BEF90DAE, 0x1B710B35131C471B,
   0x28DB77F523047D84, 0x32CAAB7B40C72493, 0x3C9EBE0A15C9BEBC, 0x431D67C49C100D4C,
   0x4CC5D4BECB3E42B6, 0x597F299CFC657E2A, 0x5FCB6FAB3AD6FAEC, 0x6C44198C4A475817]

/-- The initial hash value of SHA-512. -/
def shaInit : List W64 := [
   0x6A09E667F3BCC908, 0xBB67AE8584CAA73B, 0x3C6EF372FE94F82B, 0xA54FF53A5F1D36F1,
   0x510E527FADE682D1, 0x9B05688C2B3E6C1F, 0x1F83D9ABFB41BD6B, 0x5BE0CD19137E2179]

/-- The big-endian number a byte string holds. -/
def beNat (b : Bytes) : Nat := b.foldl (fun n x => n * 256 + x.toNat) 0

/-- The n bytes of a number, big-endian. -/
def beBytes (n v : Nat) : Bytes := (natToBytes n v).reverse

/-- One entry of the message schedule from the sixteen before it, newest first. -/
def shaNext (w : List W64) : W64 :=
  let a := w.getD 14 0
  let b := w.getD 1 0
  let s0 := a.rotateRight 1 ^^^ a.rotateRight 8 ^^^ (a >>> 7)
  let s1 := b.rotateRight 19 ^^^ b.rotateRight 61 ^^^ (b >>> 6)
  w.getD 15 0 + s0 + w.getD 6 0 + s1

/-- The message schedule of a block: eighty words. -/
def shaSchedule (b : Bytes) : List W64 :=
  let w := (List.range 16).map (fun i => BitVec.ofNat 64 (beNat (slice b (8 * i) 8)))
  ((List.range 64).foldl (fun l _ => shaNext l :: l) w.reverse).reverse

/-- One round on the eight working variables. -/
def shaRound (v : List W64) (kw : W64 × W64) : List W64 :=
  match v with
  | [a, b, c, d, e, f, g, h] =>
    let t1 := h + (e.rotateRight 14 ^^^ e.rotateRight 18 ^^^ e.rotateRight 41) + ((e &&& f) ^^^ (~~~e &&& g)) + kw.1 + kw.2
    let t2 := (a.rotateRight 28 ^^^ a.rotateRight 34 ^^^ a.rotateRight 39) + ((a &&& b) ^^^ (a &&& c) ^^^ (b &&& c))
    [t1 + t2, a, b, c, d + t1, e, f, g]
  | _ => v

/-- One block taken into the hash value. -/
def shaBlock (h : List W64) (b : Bytes) : List W64 :=
  let v := ((shaK1 ++ shaK2).zip (shaSchedule b)).foldl shaRound h
  (h.zip v).map (fun p => p.1 + p.2)

/-- The message padded to blocks of 128 bytes. -/
def shaPad (m : Bytes) : Bytes :=
  let z := (239 - m.length % 128) % 128
  m ++ [0x80] ++ List.replicate z 0 ++ beBytes 16 (8 * m.length)

/-- Blocks of a padded message taken in order. -/
def shaBlocks : Nat → List W64 → Bytes → List W64
  | 0, h, _ => h
  | n + 1, h, m => shaBlocks n (shaBlock h (m.take 128)) (m.drop 128)

/-- The SHA-512 of a byte string. -/
def sha512 (m : Bytes) : Bytes :=
  let p := shaPad m
  (shaBlocks (p.length / 128) shaInit p).flatMap (fun w => beBytes 8 w.toNat)

/-! ### RSASSA-PSS -/

/-- MGF1 over SHA-512: n bytes. -/
def mgf1 (seed : Bytes) (n : Nat) : Bytes :=
  ((List.range (ceilDiv n 64)).flatMap (fun i => sha512 (seed ++ beBytes 4 i))).take n

/-- b ^ (2 ^ k) modulo m. -/
def squareMod (m : Nat) : Nat → Nat → Nat
  | 0, b => b % m
  | k + 1, b => squareMod m k (b * b % m)

/-- s ^ 65537 modulo n. -/
def rsaPublic (n s : Nat) : Nat := squareMod n 16 s * s % n

/-- The signature is valid for a message under modulus n and exponent 65,537 (R509). -/
def pssVerify (nBytes sig msg : Bytes) : Bool :=
  let n := beNat nBytes
  let s := beNat sig
  let bits := n.log2
  let emLen := ceilDiv bits 8
  let m := rsaPublic n s
  let em := beBytes emLen m
  let db := emLen - 65
  let masked := em.take db
  let h := slice em db 64
  let plain := (masked.zip (mgf1 h db)).map (fun p => p.1 ^^^ p.2)
  let top := 8 * emLen - bits
  let plain := natToBytes 1 ((plain.headD 0).toNat % 2 ^ (8 - top)) ++ plain.drop 1
  let salt := plain.drop (db - 64)
  decide (s < n) && decide (m < 2 ^ (8 * emLen)) && em.getD (emLen - 1) 0 = 0xBC &&
    decide ((masked.headD 0).toNat < 2 ^ (8 - top)) &&
    plain.take (db - 65) = List.replicate (db - 65) 0 && plain.getD (db - 65) 0 = 1 &&
    h = sha512 (List.replicate 8 0 ++ sha512 msg ++ salt)

/-- b ^ e modulo n, by the lowest k bits of e. -/
def powMod (n : Nat) : Nat → Nat → Nat → Nat
  | 0, _, _ => 1 % n
  | k + 1, e, b => (if e % 2 = 1 then b % n else 1) * powMod n k (e / 2) (b * b % n) % n

/-- The encoded message of RSASSA-PSS for a modulus, with a salt of 64 bytes (R509). -/
def pssEncode (n : Nat) (salt msg : Bytes) : Bytes :=
  let len := ceilDiv n.log2 8
  let h := sha512 (List.replicate 8 0 ++ sha512 msg ++ salt)
  let db := List.replicate (len - 130) 0 ++ [1] ++ salt
  let masked := (db.zip (mgf1 h (len - 65))).map (fun p => p.1 ^^^ p.2)
  let top := 8 * len - n.log2
  natToBytes 1 ((masked.headD 0).toNat % 2 ^ (8 - top)) ++ masked.drop 1 ++ h ++ [0xBC]

/-- The RSASSA-PSS signature of a message under a private key: modulus and exponent, 512 bytes each, big-endian (R509). -/
def pssSign (key salt msg : Bytes) : Bytes :=
  let n := beNat (slice key 0 512)
  beBytes 512 (powMod n 4096 (beNat (slice key 512 512)) (beNat (pssEncode n salt msg)))

/-! ### CRC-32 (R363) -/

/-- One bit of the reflected CRC-32. -/
def crc32Bit (c : Nat) : Nat := if c % 2 = 1 then (c / 2) ^^^ 0xEDB88320 else c / 2

/-- The CRC-32 register after a byte. -/
def crc32Byte (c : Nat) (b : Byte) : Nat := (List.range 8).foldl (fun x _ => crc32Bit x) (c ^^^ b.toNat)

/-- The CRC-32 of IEEE 802.3 (R363). -/
def crc32 (m : Bytes) : Nat := m.foldl crc32Byte 0xFFFFFFFF ^^^ 0xFFFFFFFF

end Sys2Proof.Machine
end

