-- ==== Sys2Proof/Config.lean ====
section
/-! DEFINITION. What an implementation fixes and what the spec leaves open, as constants without a body: no proof can
see a value of them. -/

namespace Sys2Proof

/-- A byte of memory whose contents a reset made undefined (Table 14.7): the number of the loss and the address. -/
opaque Config.undefByte : Nat → Nat → BitVec 8

/-- A placement the steward is free to make (R243, R265, R370): the number of the choice. -/
opaque Config.choice : Nat → Nat

/-- A word of the hub's entropy source (R106, R536): the number of the draw. -/
opaque Config.entropy : Nat → BitVec 32

/-- The identity private key that a record unwraps to under WRAPKEY with AES-256-GCM, none where its tag does not match (R518):
the modulus and the private exponent, 512 bytes each, big-endian. How the record lays out nonce, tag and key is not stated. -/
opaque Config.unwrap : Nat → List (BitVec 8) → Option (List (BitVec 8))

/-- The measurement of the boot ROM of a stepping (Table 15.9): 64 bytes, by stepping. -/
opaque Config.romDigest : Bool → BitVec 512

/-- Measurement 1 (Table 15.9) of REVOKE, KEYUSE, SVN_FW, POLICY and the slot that verified the firmware, in the number of
these fields: how they are packed into bytes is not stated. -/
opaque Config.hwDigest : Nat → BitVec 512

/-- A field of SPDM CAPABILITIES that the spec gives no value: 0 CTExponent, 1 DataTransferSize, 2 MaxSPDMmsgSize (R523). -/
opaque Config.spdmField : Nat → Nat

/-- The hex digits above 9 of the monitor are small letters (R528 leaves their case open). -/
opaque Config.hexSmall : Bool

/-- A dword of the configuration space for which the spec gives no value, by offset and the fresh number of the read
(R395, R480). -/
opaque Config.cfgDword : Nat → Nat → BitVec 32

/-- The SECDED check bits C0 or C1 over 32 data bytes of an LPDDR4X line (Table 8.12, R303): the code is not stated. -/
opaque Config.secdedHalf : List (BitVec 8) → BitVec 10

/-- ACHK, the check of device address bits [37:6] of a line (Table 8.12): the code is not stated. -/
opaque Config.addrCheck : Nat → BitVec 8

/-- A burst of a MOVE without BAR is still on its way when its channel goes on, by the fresh number of the burst (R330). -/
opaque Config.lateWrite : Nat → Bool

/-- The levels at the lands of the boundary register at a scan, by the fresh number of the scan (R542). -/
opaque Config.landLevels : Nat → BitVec 128

/-- What the tester shifts in on TDI at a scan of the boundary register, by the fresh number of the scan (R542). -/
opaque Config.tdiBits : Nat → BitVec 128

/-- The stream slot and sequence number in the record of an output token on a port and tag on which no CONTROL token has come,
by the fresh number of the record (R418). -/
opaque Config.lostFrame : Nat → BitVec 64

/-- The level of BOOTSEL at the release of a reset that no pin ends, by the fresh number of the reset (Table 17.8). -/
opaque Config.bootselLevel : Nat → Bool

/-- The Device Serial Number that the configuration space shows (R393): no value is stated. -/
opaque Config.serialNumber : BitVec 64

end Sys2Proof
end

