-- ==== Sys2Proof/Machine/Image.lean ====
section
/-! DEFINITION. The plan image (R359 to R384): its header, section table and sections as functions of its bytes, and the
gale tables of the two steppings (Table 1.2). -/

namespace Sys2Proof.Machine
open Sys2Proof

/-- Bits set in a mask of `n` bits, ascending. -/
def maskBits (n m : Nat) : List Nat := (List.range n).filter (fun i => m.testBit i)

/-! ### The gale table (R26) -/

/-- Table 1.2 in ps, entries 0 to 31. -/
def galeTable (b0 : Bool) : List Nat :=
  [1150, 1200, 1100, 900, 850, 950, 1300, 1400, if b0 then 2000 else 2100, if b0 then 24000 else 22000, 1000, 4500] ++
    List.replicate 20 0

/-! ### Header and section table (Tables 10.1 and 10.2) -/

def imNSECT (b : Bytes) : Nat := leAt b 0x0C 4
def imLEN (b : Bytes) : Nat := leAt b 0x10 8
def imFEATURES (b : Bytes) : Nat := leAt b 0x18 4
def imCRC (b : Bytes) : Nat := leAt b 0x1C 4
def imSECTAB (b : Bytes) : Nat := leAt b 0x30 8

/-- A section table entry. -/
structure Sect where
  typ : Nat
  flags : Nat
  cfg : Nat
  region : Nat
  off : Nat
  len : Nat
  dest : Nat
deriving DecidableEq, Repr

/-- Entry i of the section table. -/
def sectAt (b : Bytes) (i : Nat) : Sect :=
  let e := imSECTAB b + 32 * i
  ⟨leAt b e 1, leAt b (e + 1) 1, leAt b (e + 2) 1, leAt b (e + 3) 1, leAt b (e + 8) 8, leAt b (e + 16) 8, leAt b (e + 24) 8⟩

/-- The section table with each entry's index. -/
def sects (b : Bytes) : List (Nat × Sect) := (List.range (imNSECT b)).map (fun i => (i, sectAt b i))

/-- The sections of a type. -/
def sectsOf (b : Bytes) (t : Nat) : List (Nat × Sect) := (sects b).filter (fun p => p.2.typ = t)

/-- The file offset of the first section of a type. -/
def sectOff (b : Bytes) (t : Nat) : Option Nat := ((sectsOf b t).head?).map (fun p => p.2.off)

/-- Bytes of a section. -/
def sectBytes (b : Bytes) (x : Sect) : Bytes := slice b x.off x.len

/-! ### PLANINFO (Table 10.4) -/

def planInfo (b : Bytes) (off len : Nat) : Nat := leAt b ((sectOff b 1).getD 0 + off) len

def piPADM (b : Bytes) : Nat := planInfo b 0x00 4
def piLPLAN (b : Bytes) : Nat := planInfo b 0x04 4
def piGRID (b : Bytes) : Nat := planInfo b 0x08 4
def piMARGIN (b : Bytes) : Nat := planInfo b 0x0C 2
def piNSEG (b : Bytes) : Nat := planInfo b 0x0E 1
def piBSEG (b : Bytes) : Nat := planInfo b 0x10 2
def piPBATCH (b : Bytes) : Nat := planInfo b 0x14 4
def piKILNPADM (b : Bytes) : Nat := planInfo b 0x18 4
def piLULLUS (b : Bytes) : Nat := planInfo b 0x1C 4
def piSWEEPUS (b : Bytes) : Nat := planInfo b 0x20 4
def piNHANDLE (b : Bytes) : Nat := planInfo b 0x24 2
def piHUBSHARE (b : Bytes) : Nat := planInfo b 0x2C 4
def piLPBUDGET (b : Bytes) (d : Nat) : Nat := planInfo b (0x30 + 4 * d) 4

/-- The plan carries kiln configurations (R362). -/
def imKiln (b : Bytes) : Bool := bit (imFEATURES b) 1

/-- The configurations present (R362). -/
def imConfigs (b : Bytes) : List Nat :=
  List.range (piNSEG b) ++ (if imKiln b then (List.range (piNSEG b)).map (· + 16) else [])

/-- Release entries reserved (R37). -/
def imRelease (b : Bytes) : Nat := ceilDiv (piLPLAN b + piGRID b) (piPADM b)

/-! ### CLAIMS (Tables 10.5 and 10.6) -/

def claims (b : Bytes) (off len : Nat) : Nat := leAt b ((sectOff b 4).getD 0 + off) len

def clHELD (b : Bytes) : Nat := claims b 0x00 16
def clSPARE (b : Bytes) : Nat := claims b 0x10 16
def clRLU (b : Bytes) : Nat := claims b 0x20 2
def clMOVER (b : Bytes) : Nat := claims b 0x22 2
def clHUBCH (b : Bytes) : Nat := claims b 0x24 4
def clGUST (b : Bytes) : Nat := claims b 0x28 16
def clEDGE (b : Bytes) : Nat := claims b 0x38 8
def clNCM (b : Bytes) : Nat := claims b 0x40 2
def clNTR (b : Bytes) : Nat := claims b 0x42 2
def clNLD (b : Bytes) : Nat := claims b 0x44 2

/-- Cluster-memory ranges: cluster, first and last unit. -/
def clRanges (b : Bytes) : List (Nat × Nat × Nat) :=
  (List.range (clNCM b)).map (fun i =>
    let r := claims b (0x60 + 8 * i) 8
    (bits r 0 4, bits r 16 18, bits r 34 18))

/-- A transit or lend record: core, port, tag. -/
def ctRecord (r : Nat) : Nat × Nat × Nat := (bits r 0 7, bits r 8 2, bits r 16 5)

def clTransits (b : Bytes) : List (Nat × Nat × Nat) :=
  (List.range (clNTR b)).map (fun i => ctRecord (claims b (0x60 + 8 * clNCM b + 4 * i) 4))

def clLends (b : Bytes) : List (Nat × Nat × Nat) :=
  (List.range (clNLD b)).map (fun i => ctRecord (claims b (0x60 + 8 * clNCM b + 4 * clNTR b + 4 * i) 4))

/-! ### REGIONS (Table 10.7) -/

/-- A region record. -/
structure Region where
  die : Nat
  align : Nat
  kind : Nat
  init : Nat
  size : Nat
deriving DecidableEq, Repr

def imRegions (b : Bytes) : List Region :=
  match (sectsOf b 5).head? with
  | none => []
  | some (_, x) => (List.range (x.len / 32)).map (fun i =>
      let o := x.off + 32 * i
      ⟨leAt b (o + 1) 1, leAt b (o + 2) 1, leAt b (o + 3) 1, leAt b (o + 4) 1, leAt b (o + 8) 8⟩)

/-! ### PROOF (Tables 10.13 and 10.14) -/

/-- The file offset of the PROOF section of a configuration. -/
def proofOff (b : Bytes) (cfg : Nat) : Option Nat :=
  (((sectsOf b 3).filter (fun p => p.2.cfg = cfg)).head?).map (fun p => p.2.off)

def pfNSTAGE (b : Bytes) (o : Nat) : Nat := leAt b (o + 2) 2
def pfSWEPT (b : Bytes) (o : Nat) : Bool := bit (leAt b (o + 1) 1) 0
def pfC (b : Bytes) (o k : Nat) : Nat := leAt b (o + 0x20 + 4 * k) 4
def pfRLU (b : Bytes) (o j : Nat) : Nat := leAt b (o + 0xA0 + 4 * j) 4
/-- Offset of stage record i. -/
def pfStage (o i : Nat) : Nat := o + 256 + 192 * i
def sgS (b : Bytes) (o : Nat) : Nat := leAt b (o + 8) 8
def sgCORES (b : Bytes) (o : Nat) : Nat := leAt b (o + 16) 16
def sgN (b : Bytes) (o k : Nat) : Nat := leAt b (o + 32 + 4 * k) 4

/-- The cores that carry a stage in a configuration (R18). -/
def stageMask (b : Bytes) (cfg : Nat) : Nat :=
  match proofOff b cfg with
  | none => 0
  | some o => (List.range (pfNSTAGE b o)).foldl (fun m i => m ||| sgCORES b (pfStage o i)) 0

/-- Σ_k count_k × g_k in ps (R27). -/
def galeSum (g : List Nat) (count : Nat → Nat) : Nat :=
  (List.range 32).foldl (fun t k => t + count k * g.getD k 0) 0

/-- The stage time of a stage record under a gale table (R384). -/
def stageTime (b : Bytes) (g : List Nat) (o i : Nat) : Nat :=
  let base := galeSum g (sgN b (pfStage o i))
  let sw := piSWEEPUS b
  base + (if pfSWEPT b o ∧ sw ≠ 0 then 2000000 * ceilDiv base (sw * 1000000) else 0)

/-- PERIOD, LBOUND and switch cost of a configuration under a gale table (R384). -/
def cfgTimes (b : Bytes) (g : List Nat) (cfg : Nat) : Nat × Nat × Nat :=
  match proofOff b cfg with
  | none => (0, 0, 0)
  | some o =>
    let ts := (List.range (pfNSTAGE b o)).map (stageTime b g o)
    (ts.foldl max 0, ts.foldl (· + ·) 0, galeSum g (pfC b o))

/-- T_round of a segmented plan in ps (R45, R384). -/
def roundTime (b : Bytes) (g : List Nat) : Nat :=
  (List.range (piNSEG b)).foldl (fun t c => let x := cfgTimes b g c; t + (piBSEG b - 1) * x.1 + x.2.1 + x.2.2) 0

/-! ### Configuration content (R371 to R374) -/

/-- What a configuration section writes: a register word, or bytes of SRAM. -/
inductive CfgWrite
  /-- Register address and value. -/
  | reg (addr value : Nat)
  /-- SRAM address and bytes. -/
  | sram (addr : Nat) (data : Bytes)
deriving DecidableEq, Repr

/-- A register write record (Table 10.8) at a file offset. -/
def regRecord (b : Bytes) (o : Nat) : CfgWrite := .reg (leAt b o 6) (leAt b (o + 8) 4)

/-- The writes of a section (R371). -/
def sectWrites (b : Bytes) (x : Sect) : List CfgWrite :=
  if x.typ = 8 then (List.range (x.len / 16)).map (fun i => regRecord b (x.off + 16 * i))
  else if x.typ = 9 then (List.range (x.len / 4)).map (fun i => .reg (x.dest + 4 * i) (leAt b (x.off + 4 * i) 4))
  else if x.typ = 7 then [.sram x.dest (sectBytes b x)]
  else []

/-- The writes of a configuration in order (R373). -/
def cfgWrites (b : Bytes) (cfg : Nat) : List CfgWrite :=
  ((sects b).filter (fun p => p.2.cfg = cfg ∨ (p.2.cfg = 0xFF ∧ p.2.typ = 7))).flatMap (fun p => sectWrites b p.2)

/-! ### Detours (Table 10.11) -/

/-- A detour record: section index, record index, FROM, TO, number of writes, their offset in the section. -/
structure Detour where
  sect : Nat
  idx : Nat
  from_ : Nat
  to_ : Nat
  n : Nat
  off : Nat
deriving DecidableEq, Repr

/-- Records of a DETOUR section: they lie before the first of the write records they name. -/
def detourCount (b : Bytes) (x : Sect) : Nat :=
  let step (st : Nat × Nat) (i : Nat) : Nat × Nat :=
    if st.1 ≠ i ∨ st.2 ≤ 16 * i then st
    else
      let n := leAt b (x.off + 16 * i + 4) 4
      let o := leAt b (x.off + 16 * i + 8) 4
      (i + 1, if n = 0 then st.2 else min st.2 o)
  ((List.range (x.len / 16)).foldl step (0, x.len)).1

/-- The detours of a configuration. -/
def detours (b : Bytes) (cfg : Nat) : List Detour :=
  ((sectsOf b 12).filter (fun p => p.2.cfg = cfg)).flatMap (fun p =>
    (List.range (detourCount b p.2)).map (fun i =>
      let o := p.2.off + 16 * i
      ⟨p.1, i, leAt b o 1, leAt b (o + 1) 1, leAt b (o + 4) 4, leAt b (o + 8) 4⟩))

/-- The register writes of a detour. -/
def detourWrites (b : Bytes) (d : Detour) : List CfgWrite :=
  let x := sectAt b d.sect
  (List.range d.n).map (fun i => regRecord b (x.off + d.off + 16 * i))

/-- The spare of each configuration that a core's detour names, none where a configuration has no record (R380). -/
def detourOf (b : Bytes) (c : Nat) : Option (List (Nat × Nat)) :=
  (imConfigs b).foldr (fun cfg t =>
    match t, (detours b cfg).find? (fun d => d.from_ = c) with
    | some l, some d => some ((cfg, d.to_) :: l)
    | _, _ => none) (some [])

/-! ### Relocation records (Tables 10.9 and 10.10) -/

/-- A relocation record. -/
structure Rel where
  kind : Nat
  lsb : Nat
  width : Nat
  rsv : Nat
  arg : Nat
  sect : Nat
  off : Nat
  addend : Int
deriving DecidableEq, Repr

def relAt (b : Bytes) (o : Nat) : Rel :=
  let r := leAt b o 16
  ⟨bits r 0 6, bits r 6 6, bits r 12 6 + 1, bits r 18 6, bits r 24 8, bits r 32 16, bits r 48 32, signed 48 (bits r 80 48)⟩

def rels (b : Bytes) : List Rel :=
  match (sectsOf b 11).head? with
  | none => []
  | some (_, x) => (List.range (x.len / 16)).map (fun i => relAt b (x.off + 16 * i))

/-- The file offset of a record's 64-bit window. -/
def relWindow (b : Bytes) (r : Rel) : Nat := (sectAt b r.sect).off + r.off

/-- The field of a record replaced in the image (R377). -/
def relPut (b : Bytes) (r : Rel) (v : Nat) : Bytes :=
  let w := relWindow b r
  patch b w (natToBytes 8 (setBits (leAt b w 8) r.lsb r.width v))

end Sys2Proof.Machine
end

