-- ==== Sys2Proof/Machine/Number.lean ====
section
/-! DEFINITION. Number formats (R91 to R95), exact values, rounding (R101 to R103) and the random source (R104). Values
are computed exactly and rounded once, as the rules say. -/

namespace Sys2Proof.Machine

/-! ### Exact fractions -/

/-- An exact fraction n / d, with d > 0. -/
structure Q where
  n : Int
  d : Nat
deriving DecidableEq, Repr

/-- A whole number. -/
def Q.ofInt (i : Int) : Q := ⟨i, 1⟩

/-- 2 to an integer power. -/
def Q.pow2 (k : Int) : Q := if 0 ≤ k then ⟨2 ^ k.toNat, 1⟩ else ⟨1, 2 ^ (-k).toNat⟩

def Q.mul (a b : Q) : Q := ⟨a.n * b.n, a.d * b.d⟩

/-- Multiplication by 2 to an integer power. -/
def Q.shift (a : Q) (k : Int) : Q := if 0 ≤ k then ⟨a.n * 2 ^ k.toNat, a.d⟩ else ⟨a.n, a.d * 2 ^ (-k).toNat⟩

/-- Sum; one denominator divides the other wherever both are powers of two. -/
def Q.add (a b : Q) : Q :=
  if a.d = b.d then ⟨a.n + b.n, a.d⟩
  else if b.d % a.d = 0 then ⟨a.n * (b.d / a.d : Nat) + b.n, b.d⟩
  else if a.d % b.d = 0 then ⟨a.n + b.n * (a.d / b.d : Nat), a.d⟩
  else ⟨a.n * b.d + b.n * a.d, a.d * b.d⟩

def Q.neg (a : Q) : Q := ⟨-a.n, a.d⟩

def Q.sub (a b : Q) : Q := a.add b.neg

def Q.abs (a : Q) : Q := ⟨a.n.natAbs, a.d⟩

/-- Division by a positive whole number. -/
def Q.divNat (a : Q) (k : Nat) : Q := ⟨a.n, a.d * k⟩

def Q.le (a b : Q) : Bool := decide (a.n * b.d ≤ b.n * a.d)

def Q.lt (a b : Q) : Bool := decide (a.n * b.d < b.n * a.d)

def Q.eq (a b : Q) : Bool := decide (a.n * b.d = b.n * a.d)

def Q.floor (a : Q) : Int := a.n.fdiv a.d

/-- The integer k with 2^k ≤ |a| < 2^(k+1), for a nonzero a. -/
def Q.log2 (a : Q) : Int :=
  let m := a.n.natAbs
  let e : Int := (Nat.log2 m : Int) - (Nat.log2 a.d : Int)
  if Q.lt ⟨m, a.d⟩ (Q.pow2 e) then e - 1 else e

/-! ### Rounding -/

/-- The two rounding modes: to nearest with ties away from zero (R102), and stochastic with a 32-bit draw (R103). -/
inductive Rnd | rna | sr (u : Nat)
deriving DecidableEq, Repr

/-- A fraction rounded to a whole number (R102, R103). -/
def Q.round (r : Rnd) (x : Q) : Int :=
  let lo := x.floor
  let rem := (x.n - lo * x.d).toNat
  if rem = 0 then lo else
  match r with
  | .rna => if 2 * rem < x.d then lo else if x.d < 2 * rem then lo + 1 else if 0 ≤ x.n then lo + 1 else lo
  | .sr u => if 2 ^ 32 ≤ rem * 2 ^ 32 / x.d + u then lo + 1 else lo

def clampInt (x lo hi : Int) : Int := if x < lo then lo else if hi < x then hi else x

/-- Newton's iteration for the whole square root. -/
def isqrtStep : Nat → Nat → Nat → Nat
  | 0, _, x => x
  | fuel + 1, n, x =>
    let y := (x + n / x) / 2
    if y < x then isqrtStep fuel n y else x

/-- The whole square root. -/
def isqrt (n : Nat) : Nat := if n = 0 then 0 else isqrtStep 200 n (2 ^ (Nat.log2 n / 2 + 1))

/-- x × 2^(k/16) (R159, R161) for rounding: exact where the power is whole, and otherwise the middle of the interval of
relative width 2^−219 that holds the irrational value, which lies on the same side of every grid value and midpoint. -/
def Q.mulRoot16 (x : Q) (k : Int) : Q :=
  if k % 16 = 0 then x.shift (k / 16) else
  if x.n = 0 then x else
  let s : Int := 220 - x.log2
  let a := x.n.natAbs
  let p := (⟨(a ^ 16 : Nat), x.d ^ 16⟩ : Q).shift (k + 16 * s)
  let root := isqrt (isqrt (isqrt (isqrt p.floor.toNat)))
  let v := (Q.ofInt (2 * root + 1)).shift (-(s + 1))
  if x.n < 0 then v.neg else v

/-- The natural logarithm of 2 (R160), to 300 bits: the sum of 1 / (k 2^k). -/
def ln2 : Q := ⟨((List.range 320).foldl (fun a k => a + 2 ^ 320 / ((k + 1) * 2 ^ (k + 1))) 0 : Nat), 2 ^ 320⟩

/-! ### Format codes (R15, Table 3.2) -/

/-- Bits per element. -/
def fmtBits : Nat → Nat
  | 0x0 => 4 | 0x1 => 4 | 0x2 => 8 | 0x3 => 8 | 0x4 => 16 | 0x5 => 32 | 0x6 => 4 | 0x7 => 8 | 0x8 => 8
  | 0x9 => 16 | 0xA => 16 | 0xB => 32 | 0xC => 2 | 0xD => 4 | 0xE => 8 | _ => 4

def fmtFloat (f : Nat) : Bool := f = 6 || f = 7 || f = 8 || f = 9 || f = 0xA || f = 0xB || f = 0xF

def fmtGroup (f : Nat) : Bool := f = 0xD || f = 0xE || f = 0xF

def fmtInt (f : Nat) : Bool := !fmtFloat f

/-- BINT4 and BINT8: the integer group formats. -/
def fmtBint (f : Nat) : Bool := f = 0xD || f = 0xE

/-- The range of an integer element (Table 3.5). -/
def intMin : Nat → Int
  | 0x0 => -8 | 0x1 => 0 | 0x2 => -128 | 0x3 => 0 | 0x4 => -32768 | 0x5 => -2147483648 | 0xD => -8 | 0xE => -128 | _ => -1

def intMax : Nat → Int
  | 0x0 => 7 | 0x1 => 15 | 0x2 => 127 | 0x3 => 255 | 0x4 => 32767 | 0x5 => 2147483647 | 0xD => 7 | 0xE => 127 | _ => 1

/-- The value of an integer element code (R92); TERN2 by Table 3.6. -/
def intElem (f c : Nat) : Int :=
  match f with
  | 0x0 => signed 4 c | 0x1 => (c % 16 : Nat) | 0x2 => signed 8 c | 0x3 => (c % 256 : Nat) | 0x4 => signed 16 c
  | 0x5 => signed 32 c | 0xD => signed 4 c | 0xE => signed 8 c
  | 0xC => if c % 4 = 1 then 1 else if c % 4 = 3 then -1 else 0
  | _ => 0

/-- A floating format: exponent bits, mantissa bits, bias (Table 3.2). -/
structure FFmt where
  ew : Nat
  mw : Nat
  bias : Int
deriving DecidableEq, Repr

/-- The layout of a floating format code; BFP4 elements are FP4-E2M1. -/
def ffmt : Nat → FFmt
  | 0x7 => ⟨4, 3, 7⟩ | 0x8 => ⟨5, 2, 15⟩ | 0x9 => ⟨5, 10, 15⟩ | 0xA => ⟨8, 7, 127⟩ | 0xB => ⟨8, 23, 127⟩
  | _ => ⟨2, 1, 1⟩

/-- The format has infinities and NaNs by its highest exponent (Table 3.3). -/
def fmtIeee (f : Nat) : Bool := f = 8 || f = 9 || f = 0xA || f = 0xB

/-- The largest finite value (Table 3.3). -/
def fmtMax (f : Nat) : Q :=
  match f with
  | 0x7 => ⟨448, 1⟩
  | 0x8 => ⟨57344, 1⟩ | 0x9 => ⟨65504, 1⟩
  | 0xA => (Q.ofInt (2 ^ 8 - 1)).shift 120
  | 0xB => (Q.ofInt (2 ^ 24 - 1)).shift 104
  | _ => ⟨6, 1⟩

/-- A floating value: NaN, an infinity, or a finite value with its sign, which tells −0 from +0. -/
inductive FV
  | nan
  | inf (neg : Bool)
  | fin (neg : Bool) (q : Q)
deriving DecidableEq, Repr

/-- A finite value; a zero takes the sign given. -/
def FV.ofQ (q : Q) (zneg : Bool) : FV := if q.n = 0 then .fin zneg ⟨0, 1⟩ else .fin (decide (q.n < 0)) q

/-- The value of a floating code (R93, Table 3.3). -/
def floatElem (f c : Nat) : FV :=
  let l := ffmt f
  let neg := bit c (l.ew + l.mw)
  let e := bits c l.mw l.ew
  let m := bits c 0 l.mw
  let sgn (q : Q) : Q := if neg then q.neg else q
  if fmtIeee f && e = 2 ^ l.ew - 1 then (if m = 0 then .inf neg else .nan)
  else if f = 7 && e = 15 && m = 7 then .nan
  else if e = 0 then FV.ofQ (sgn ((Q.ofInt m).shift (1 - l.bias - l.mw))) neg
  else .fin neg (sgn ((Q.ofInt ((2 ^ l.mw + m : Nat) : Int)).shift (e - l.bias - l.mw)))

/-- The value of an element of any format with its group exponent byte (Table 3.5). -/
def elemVal (f c ex : Nat) : FV :=
  if fmtBint f then FV.ofQ ((Q.ofInt (intElem f c)).shift (signed 8 ex)) false
  else if f = 0xF then
    if ex = 255 then .nan else
    match floatElem 6 c with
    | .fin neg q => .fin neg (q.shift ((ex : Int) - 127))
    | v => v
  else if fmtFloat f then floatElem f c
  else FV.ofQ (Q.ofInt (intElem f c)) false

/-- A finite nonzero value rounded to the grid of a floating format with no upper exponent limit (R101). -/
def roundGrid (f : Nat) (r : Rnd) (x : Q) : Q :=
  let l := ffmt f
  let k := max x.log2 (1 - l.bias) - (l.mw : Int)
  (Q.ofInt ((x.shift (-k)).round r)).shift k

/-- The code of a value on the format's grid, of magnitude at most the largest finite one. -/
def encodeGrid (f : Nat) (neg : Bool) (x : Q) : Nat :=
  let l := ffmt f
  let s := if neg then 2 ^ (l.ew + l.mw) else 0
  if x.n = 0 then s else
  let e := x.log2
  if e < 1 - l.bias then s + (x.abs.shift (l.bias - 1 + l.mw)).floor.toNat
  else s + (e + l.bias).toNat * 2 ^ l.mw + ((x.abs.shift (l.mw - e)).floor.toNat - 2 ^ l.mw)

/-- The canonical NaN of a format that has NaN (R94). -/
def canonNaN : Nat → Nat
  | 0x7 => 0x7F | 0x8 => 0x7E | 0x9 => 0x7E00 | 0xA => 0x7FC0 | 0xB => 0x7FC00000 | _ => 0

/-- The code of an infinity (Table 3.3). -/
def infCode (f : Nat) (neg : Bool) : Nat :=
  let l := ffmt f
  (if neg then 2 ^ (l.ew + l.mw) else 0) + (2 ^ l.ew - 1) * 2 ^ l.mw

/-! ### Exact operations with the special values (Table 3.8) -/

def FV.isNaN : FV → Bool
  | .nan => true
  | _ => false

def FV.isFin : FV → Bool
  | .fin _ _ => true
  | _ => false

def FV.neg : FV → FV
  | .nan => .nan
  | .inf s => .inf (!s)
  | .fin s q => .fin (!s) q.neg

def FV.abs : FV → FV
  | .nan => .nan
  | .inf _ => .inf false
  | .fin _ q => .fin false q.abs

/-- The finite part, zero for the special values. -/
def FV.q : FV → Q
  | .fin _ q => q
  | _ => ⟨0, 1⟩

def FV.isZero : FV → Bool
  | .fin _ q => q.n = 0
  | _ => false

def FV.signBit : FV → Bool
  | .nan => false
  | .inf s => s
  | .fin s _ => s

/-- The exact product, and whether it is invalid: an infinity times a zero (order 2). -/
def FV.mul (a b : FV) : FV × Bool :=
  if a.isNaN || b.isNaN then (.nan, false)
  else if a.isFin && b.isFin then (.fin (a.signBit ^^ b.signBit) (a.q.mul b.q), false)
  else if a.isZero || b.isZero then (.nan, true)
  else (.inf (a.signBit ^^ b.signBit), false)

/-- The exact sum of a list, and whether it is invalid (orders 1 to 3 and 6 of Table 3.8). -/
def FV.sum (l : List FV) : FV × Bool :=
  if l.any FV.isNaN then (.nan, false)
  else
    let p := l.any (fun v => v = .inf false)
    let m := l.any (fun v => v = .inf true)
    if p && m then (.nan, true)
    else if p then (.inf false, false)
    else if m then (.inf true, false)
    else (FV.ofQ (l.foldl (fun a v => a.add v.q) ⟨0, 1⟩) (l.all FV.signBit), false)

/-- A value rounded by RNA to FP32, and whether it overflowed (S); an overflow gives an infinity (order 5). -/
def FV.fp32 (v : FV) : FV × Bool :=
  match v with
  | .fin neg q =>
    if q.n = 0 then (.fin neg ⟨0, 1⟩, false) else
    let r := roundGrid 0xB .rna q
    if (fmtMax 0xB).lt r.abs then (.inf (decide (q.n < 0)), true)
    else (FV.ofQ r (decide (q.n < 0)), false)
  | v => (v, false)

/-- Strictly less, with −0 below +0; false for NaN. -/
def FV.lt (a b : FV) : Bool :=
  match a, b with
  | .nan, _ => false
  | _, .nan => false
  | .inf s, .inf t => s && !t
  | .inf s, .fin _ _ => s
  | .fin _ _, .inf t => !t
  | .fin s p, .fin t q => p.lt q || (p.eq q && p.n = 0 && s && !t)

/-- The greater of two, NaN if either is NaN, +0 above −0. -/
def FV.max (a b : FV) : FV := if a.isNaN || b.isNaN then .nan else if a.lt b then b else a

def FV.min (a b : FV) : FV := if a.isNaN || b.isNaN then .nan else if b.lt a then b else a

/-- The FP32 code of a value that FP32 holds. -/
def FV.code32 : FV → Nat
  | .nan => canonNaN 0xB
  | .inf s => infCode 0xB s
  | .fin s q => encodeGrid 0xB s q

/-- The FP32 code of a magnitude rounded toward +infinity (R142, R152). -/
def FV.code32Up (v : FV) : Nat :=
  match v.abs with
  | .nan => canonNaN 0xB
  | .inf _ => infCode 0xB false
  | .fin _ q =>
    if q.n = 0 then 0 else
    let k := Max.max q.log2 (-126) - 23
    let u := -((q.neg.shift (-k)).floor)
    let r := (Q.ofInt u).shift k
    if (fmtMax 0xB).lt r then infCode 0xB false else encodeGrid 0xB false r

/-! ### The random source (R104) -/

/-- The mixing function of R104, modulo 2^32. -/
def mix (x0 : Nat) : Nat :=
  let x := (x0 * 0x9E3779B1) % 2 ^ 32
  let x := x ^^^ (x >>> 15)
  let x := (x * 0x85EBCA77) % 2 ^ 32
  let x := x ^^^ (x >>> 13)
  let x := (x * 0xC2B2AE3D) % 2 ^ 32
  x ^^^ (x >>> 16)

/-- The draw of index n under seed k and frame sequence fs (R104). -/
def draw (k fs n : Nat) : Nat := mix (mix (k ^^^ fs) ^^^ n)

end Sys2Proof.Machine
end

