-- ==== Sys2Proof/Machine/Flags.lean ====
section
/-! DEFINITION. Conversions and their condition flags (R108, R109), multiply-accumulate with its flags (R96 to R100,
Tables 3.7 and 3.8), the limit and the shifts of a row or group (R139 to R141), pooling accumulation (Table 3.12). -/

namespace Sys2Proof.Machine

/-- The condition flags of one element (R109): saturation, underflow, invalid, NaN. -/
structure CFlags where
  s : Bool
  u : Bool
  v : Bool
  n : Bool
deriving DecidableEq, Repr

def CFlags.none : CFlags := ⟨false, false, false, false⟩

def CFlags.or (a b : CFlags) : CFlags := ⟨a.s || b.s, a.u || b.u, a.v || b.v, a.n || b.n⟩

def CFlags.setS (a : CFlags) (b : Bool) : CFlags := { a with s := a.s || b }

def CFlags.setV (a : CFlags) (b : Bool) : CFlags := { a with v := a.v || b }

/-- The code of the bound that a value beyond the range takes (Table 3.9). -/
def satCode (f : Nat) (neg : Bool) : Nat :=
  if fmtInt f then unsigned (fmtBits f) (if neg then intMin f else intMax f)
  else if fmtIeee f then infCode f neg
  else encodeGrid f neg (if neg then (fmtMax f).neg else fmtMax f)

/-- Conversion into an output format (Table 3.9): the code and the flags raised. -/
def convert (f : Nat) (r : Rnd) (v : FV) : Nat × CFlags :=
  match v with
  | .nan =>
    if fmtInt f || ffmt f = ffmt 6 then (0, ⟨false, false, true, false⟩)
    else (canonNaN f, ⟨false, false, false, true⟩)
  | .inf neg => (satCode f neg, ⟨true, false, false, false⟩)
  | .fin neg q =>
    if fmtInt f then
      if q.n = 0 then (0, CFlags.none) else
      let y := q.round r
      if y < intMin f then (satCode f true, ⟨true, false, false, false⟩)
      else if intMax f < y then (satCode f false, ⟨true, false, false, false⟩)
      else (unsigned (fmtBits f) y, ⟨false, decide (y = 0), false, false⟩)
    else
      if q.n = 0 then (encodeGrid f neg ⟨0, 1⟩, CFlags.none) else
      let y := roundGrid f r q
      let sgn := decide (q.n < 0)
      if (fmtMax f).lt y.abs then (satCode f sgn, ⟨true, false, false, false⟩)
      else (encodeGrid f sgn y, ⟨false, decide (y.n = 0), false, false⟩)

/-! ### Accumulators -/

/-- One entry of the accumulation buffer (R53): the 48-bit integer of an integer pair or the FP32 value of a floating
pair, the flags raised on it so far, and whether the last tile of its reduction has been applied. -/
structure Acc where
  i : Int
  f : FV
  fl : CFlags
  fin : Bool
deriving DecidableEq, Repr

def Acc.zero : Acc := ⟨0, .fin false ⟨0, 1⟩, CFlags.none, false⟩

/-- The exact products of one segment summed into a saturating group partial of w bits (R96), and whether it saturated. -/
def partialSum (w : Nat) (products : List Int) : Int × Bool :=
  products.foldl (fun p x =>
    let t := p.1 + x
    let c := clampInt t (-(2 ^ (w - 1))) (2 ^ (w - 1) - 1)
    (c, p.2 || c != t)) (0, false)

/-- The fold of a group partial with exponent sum t into an accumulator (R96), and whether it was clamped. -/
def foldAcc (acc p : Int) (t : Int) : Int × Bool :=
  let c := if 0 ≤ t then p * 2 ^ t.toNat else p.fdiv (2 ^ (-t).toNat)
  let n := acc + c
  let r := clampInt n (-(2 ^ 47)) (2 ^ 47 - 1)
  (r, r != n)

/-- One vector folded into a floating accumulator (R99, Table 3.8): the new value, V, and overflow (S). -/
def foldFloat (acc : FV) (pairs : List (FV × FV)) : FV × Bool × Bool :=
  let anyNaN := acc.isNaN || pairs.any (fun p => p.1.isNaN || p.2.isNaN)
  if anyNaN then (.nan, false, false) else
  let ps := pairs.map (fun p => p.1.mul p.2)
  if ps.any (fun p => p.2) then (.nan, true, false) else
  let t := FV.sum (acc :: ps.map (fun p => p.1))
  if t.2 then (.nan, true, false) else
  let r := t.1.fp32
  (r.1, false, r.2)

/-! ### Row shifts and group exponents -/

/-- The smallest integer of lo, lo + 1, …, lo + n - 1 that satisfies a test, or lo + n - 1. -/
def leastShift (lo : Int) (n : Nat) (ok : Int → Bool) : Int :=
  match (List.range n).find? (fun (k : Nat) => ok (lo + k)) with
  | some k => lo + k
  | none => lo + n - 1

/-- The limit L of an output format under zero point zp (R139). -/
def rowLimit (f : Nat) (zp : Int) : Q :=
  if fmtFloat f then fmtMax f
  else if zp = intMin f then Q.ofInt (intMax f - zp)
  else Q.ofInt (min (intMax f - zp) (zp - intMin f))

/-- The row shift for magnitude m and guard count g (R140). -/
def rowShift (f : Nat) (zp : Int) (m : FV) (g : Nat) : Int :=
  if !m.isFin || m.isZero then -32
  else leastShift (-32) 160 (fun r => (m.q.abs.shift ((g : Int) - r)).le (rowLimit f zp))

/-- The exponent byte of an output group with largest magnitude m (R141). -/
def groupExp (f : Nat) (m : FV) : Nat :=
  if f = 0xF then
    if m.isZero then 0
    else if !m.isFin then 254
    else (leastShift 0 255 (fun e => (m.q.abs.shift (127 - e)).le ⟨6, 1⟩)).toNat
  else
    if m.isZero then unsigned 8 (-128)
    else if !m.isFin then 127
    else unsigned 8 (leastShift (-128) 256 (fun e => (m.q.abs.shift (-e)).le (Q.ofInt (intMax f))))

/-- The greater of two magnitudes; a NaN is not counted (R150), in rows and groups neither (log 124, DESIGN CHOICE). -/
def magMax (m v : FV) : FV := if v.isNaN then m else if m.lt v.abs then v.abs else m

/-! ### Pooling (Table 3.12) -/

/-- One contribution to a floating sum, rounded RNA (R113): the sum, V, S. -/
def poolAdd (a b : FV) : FV × Bool × Bool :=
  let t := FV.sum [a, b]
  if t.2 then (.nan, true, false) else
  let r := t.1.fp32
  (r.1, false, r.2)

end Sys2Proof.Machine
end

