-- ==== Sys2Proof/Machine/Regs.lean ====
section
/-! DEFINITION. The register map (R9, R10, R12, R282): every field of every register table of the spec, with its
place, its access type (Table 0.6) and its reset value. A `Fld` is a field's place within its block; a `FSpec` is a
row of the map, its address given by a window, an offset and the strides at which the row repeats. -/

namespace Sys2Proof.Machine

/-- The access types of Table 0.6 (R12); a reserved bit has no row. -/
inductive Access | ro | rw | w1c | w1s | rc | wo
deriving DecidableEq, Repr

/-- The kinds of register window of R282. -/
inductive Win | core | cluster | die | hub
deriving DecidableEq, Repr

/-- A field: byte offset of its word within its block, lowest bit, width (R11). -/
structure Fld where
  off : Nat
  lsb : Nat
  width : Nat
deriving DecidableEq, Repr

/-- A row of the register map: window, offset of the first instance, (stride, count) of its repetitions from the widest
stride inward, lowest bit, width, access, reset value (R10 to R13). -/
structure FSpec where
  win : Win
  off : Nat
  reps : List (Nat × Nat)
  lsb : Nat
  width : Nat
  acc : Access
  reset : Nat
deriving DecidableEq, Repr

end Sys2Proof.Machine

namespace Sys2Proof.Machine.Reg


/-! Fields of Table 1.3. -/
def CAD_LATENCY_L_PLAN : Fld := ⟨0x0, 0, 32⟩
def CAD_ADMIT_P_ADM : Fld := ⟨0x4, 0, 32⟩
def CAD_GRID_PERIOD : Fld := ⟨0x8, 0, 32⟩
def CAD_ORIGIN_OFFSET : Fld := ⟨0xC, 0, 32⟩
def CAD_STATE_SLOT : Fld := ⟨0x10, 0, 3⟩
def CAD_STATE_SQUALL_HOLD : Fld := ⟨0x10, 3, 1⟩
def CAD_STATE_SEGMENT : Fld := ⟨0x10, 4, 4⟩
def CAD_STATE_STREAMS : Fld := ⟨0x10, 8, 8⟩
def CAD_STATE_KILN : Fld := ⟨0x10, 16, 1⟩
def CAD_LATE_CNT_COUNT : Fld := ⟨0x14, 0, 32⟩
def CAD_LRISK_CNT_COUNT : Fld := ⟨0x18, 0, 32⟩
def CAD_MAX_RUN_NS : Fld := ⟨0x1C, 0, 32⟩

/-! Fields of Table 1.4. -/
def CAD_TIME_LO_NS : Fld := ⟨0x800, 0, 32⟩
def CAD_TIME_HI_NS : Fld := ⟨0x804, 0, 32⟩

/-! Fields of Table 2.4. -/
def SEQ_BND_LO_BASE : Fld := ⟨0x40, 0, 17⟩
def SEQ_BND_HI_LIMIT : Fld := ⟨0x44, 0, 17⟩
def SEQ_BND_HI_READ : Fld := ⟨0x44, 29, 1⟩
def SEQ_BND_HI_WRITE : Fld := ⟨0x44, 30, 1⟩

/-! Fields of Table 2.5. -/
def SAG_BASE_BASE : Fld := ⟨0x0, 0, 23⟩
def SAG_CFG_ELEM : Fld := ⟨0x4, 0, 3⟩
def SAG_CFG_NDIM : Fld := ⟨0x4, 3, 3⟩
def SAG_CFG_MODE : Fld := ⟨0x4, 6, 1⟩
def SAG_CFG_DIR : Fld := ⟨0x4, 7, 1⟩
def SAG_CFG_VLEN : Fld := ⟨0x4, 8, 6⟩
def SAG_CFG_HQ : Fld := ⟨0x4, 14, 4⟩
def SAG_CFG_HREL : Fld := ⟨0x4, 18, 1⟩
def SAG_CNT_COUNT : Fld := ⟨0x8, 0, 16⟩
def SAG_STR_STRIDE : Fld := ⟨0xC, 0, 24⟩
def SAG_PSTART_START : Fld := ⟨0x30, 0, 6⟩
def SAG_STATUS_BUSY : Fld := ⟨0x34, 0, 1⟩
def SAG_EMITTED_COUNT : Fld := ⟨0x38, 0, 32⟩

/-! Fields of Table 2.9. -/
def SEQ_CTRL_ENTRY : Fld := ⟨0x0, 0, 10⟩
def SEQ_CTRL_FRAME_Q : Fld := ⟨0x0, 10, 4⟩
def SEQ_STATUS_STATE : Fld := ⟨0x4, 0, 3⟩
def SEQ_STATUS_DRAINED : Fld := ⟨0x4, 3, 1⟩
def SEQ_STATUS_PC : Fld := ⟨0x4, 4, 10⟩
def SEQ_EPOCH_EPOCH : Fld := ⟨0x8, 0, 12⟩
def SEQ_FRAME_SLOT : Fld := ⟨0xC, 0, 7⟩
def SEQ_FRAME_VALID : Fld := ⟨0xC, 7, 1⟩
def SEQ_FRAME_SEQ_SEQ : Fld := ⟨0x10, 0, 32⟩
def SEQ_FAULT_CODE : Fld := ⟨0x14, 0, 8⟩
def SEQ_FAULT_MORE : Fld := ⟨0x14, 8, 1⟩
def SEQ_FAULT_INFO : Fld := ⟨0x14, 16, 16⟩
def SEQ_FAULT_ADDR_OFFSET : Fld := ⟨0x18, 0, 23⟩
def SEQ_WDOG_LIMIT : Fld := ⟨0x1C, 0, 20⟩
def SEQ_ERR_CFG_BUSY : Fld := ⟨0x20, 0, 1⟩
def SEQ_FRAMES_COUNT : Fld := ⟨0x24, 0, 32⟩

/-! Fields of Table 2.10. -/
def STU_ROUTE_ACCEPT : Fld := ⟨0x0, 0, 8⟩
def STU_ROUTE_JOIN : Fld := ⟨0x0, 8, 2⟩
def STU_ROUTE_DEST : Fld := ⟨0x0, 10, 4⟩
def STU_ROUTE_INDEX : Fld := ⟨0x0, 14, 4⟩
def STU_ROUTE_EMASK : Fld := ⟨0x0, 18, 8⟩
def STU_ROUTE_RETAG : Fld := ⟨0x0, 26, 5⟩
def STU_ROUTE_RUN : Fld := ⟨0x4, 0, 12⟩
def STU_ROUTE_EXPECT : Fld := ⟨0x4, 12, 8⟩
def STU_STATUS_EMPTY : Fld := ⟨0x1000, 0, 1⟩
def STU_PASS_MASK : Fld := ⟨0x1010, 0, 32⟩
def STU_OSEQ : Fld := ⟨0x1040, 0, 32⟩

/-! Fields of Table 3.18. -/
def ENG_STATUS_BUSY : Fld := ⟨0x0, 0, 1⟩
def ENG_STATUS_SHADOW_READY : Fld := ⟨0x0, 1, 1⟩
def ENG_STATUS_TILE_VALID : Fld := ⟨0x0, 2, 1⟩
def ENG_FMT_FMT_A : Fld := ⟨0x4, 0, 4⟩
def ENG_FMT_FMT_B : Fld := ⟨0x4, 4, 4⟩
def ENG_FMT_FMT_OUT : Fld := ⟨0x4, 8, 4⟩
def ENG_FMT_RND : Fld := ⟨0x4, 12, 1⟩
def ENG_FMT_ACCF : Fld := ⟨0x4, 13, 1⟩
def ENG_SEED_SEED : Fld := ⟨0x8, 0, 32⟩
def ENG_DRAWS_COUNT : Fld := ⟨0xC, 0, 32⟩
def ENG_PSAT_CNT_COUNT : Fld := ⟨0x10, 0, 32⟩
def ENG_ASAT_CNT_COUNT : Fld := ⟨0x14, 0, 32⟩
def ENG_INVALID_CNT_COUNT : Fld := ⟨0x18, 0, 32⟩
def ENG_NAN_CNT_COUNT : Fld := ⟨0x1C, 0, 32⟩
def ENG_VECTORS_COUNT : Fld := ⟨0x20, 0, 32⟩

/-! Fields of Table 4.4. -/
def PPU_CTRL_RSMODE : Fld := ⟨0x0, 0, 2⟩
def PPU_CTRL_TSEL : Fld := ⟨0x0, 2, 1⟩
def PPU_CTRL_HDEPTH : Fld := ⟨0x0, 3, 3⟩
def PPU_CTRL_GUARD : Fld := ⟨0x0, 6, 2⟩
def PPU_CTRL_CHMODE : Fld := ⟨0x0, 8, 1⟩
def PPU_CTRL_KILN : Fld := ⟨0x0, 9, 1⟩
def PPU_RTAB_A_BASE : Fld := ⟨0x4, 0, 17⟩
def PPU_RTAB_B_BASE : Fld := ⟨0x8, 0, 17⟩
def PPU_BTAB_A_BASE : Fld := ⟨0xC, 0, 17⟩
def PPU_BTAB_B_BASE : Fld := ⟨0x10, 0, 17⟩
def PPU_BOUND_BASE : Fld := ⟨0x14, 0, 17⟩
def PPU_ACT_BASE : Fld := ⟨0x18, 0, 17⟩
def PPU_ROW_LEN : Fld := ⟨0x28, 0, 24⟩
def PPU_CH_CHBASE : Fld := ⟨0x2C, 0, 16⟩
def PPU_CH_RPC : Fld := ⟨0x2C, 16, 16⟩
def PPU_NCH_COUNT : Fld := ⟨0x30, 0, 16⟩
def PPU_NCH_INIT : Fld := ⟨0x30, 16, 8⟩
def PPU_HIST_BASE : Fld := ⟨0x34, 0, 17⟩
def PPU_HMAP_BASE : Fld := ⟨0x38, 0, 17⟩
def PPU_STATS_BASE : Fld := ⟨0x3C, 0, 17⟩
def PPU_THR_SAT : Fld := ⟨0x40, 0, 16⟩
def PPU_THR_UFL : Fld := ⟨0x40, 16, 16⟩
def PPU_SIDE_SAG : Fld := ⟨0x44, 0, 4⟩
def PPU_SIDE_EN : Fld := ⟨0x44, 4, 1⟩
def PPU_SIDE_PER_TOKEN : Fld := ⟨0x44, 5, 6⟩
def PPU_KSTATE_BASE : Fld := ⟨0x48, 0, 17⟩
def PPU_FFLAGS_SAT : Fld := ⟨0x4C, 0, 1⟩
def PPU_FFLAGS_UFL : Fld := ⟨0x4C, 1, 1⟩
def PPU_FFLAGS_CONST : Fld := ⟨0x4C, 2, 1⟩
def PPU_SAT_TOT_COUNT : Fld := ⟨0x50, 0, 32⟩
def PPU_UFL_TOT_COUNT : Fld := ⟨0x54, 0, 32⟩

/-! Fields of Table 6.8. -/
def RLU_STATUS_FREE : Fld := ⟨0x0, 0, 10⟩
def RLU_STATUS_OPS : Fld := ⟨0x0, 10, 4⟩
def RLU_GATHERS_COUNT : Fld := ⟨0x4, 0, 32⟩
def RLU_OOR_CNT_COUNT : Fld := ⟨0x8, 0, 32⟩
def RLU_DISORDER_CNT_COUNT : Fld := ⟨0xC, 0, 32⟩
def RLU_TRUNC_CNT_COUNT : Fld := ⟨0x10, 0, 32⟩
def RLU_SAT_CNT_COUNT : Fld := ⟨0x14, 0, 32⟩
def RLU_UFL_CNT_COUNT : Fld := ⟨0x18, 0, 32⟩
def RLU_OVF_HWM_ENTRIES : Fld := ⟨0x1C, 0, 17⟩

/-! Fields of Table 7.4. -/
def STU_HQ_CFG_DEPTH : Fld := ⟨0x0, 0, 7⟩
def STU_HQ_CFG_INIT : Fld := ⟨0x0, 7, 7⟩
def STU_HQ_CFG_KIND : Fld := ⟨0x0, 14, 1⟩
def STU_HQ_CFG_SPILL : Fld := ⟨0x0, 15, 1⟩
def STU_HQ_CFG_CRT : Fld := ⟨0x0, 16, 5⟩
def STU_HQ_CFG_SRC : Fld := ⟨0x0, 21, 8⟩
def STU_HQ_RANGE_FIRST : Fld := ⟨0x4, 0, 16⟩
def STU_HQ_RANGE_COUNT : Fld := ⟨0x4, 16, 7⟩
def STU_HQ_BUF_BASE : Fld := ⟨0x8, 0, 17⟩
def STU_HQ_BUF_SIZE : Fld := ⟨0xC, 0, 17⟩
def STU_HQ_CEL_LO_BASE : Fld := ⟨0x10, 0, 32⟩
def STU_HQ_CEL_HI_BASE : Fld := ⟨0x14, 0, 16⟩
def STU_HQ_CEL_HI_CAP : Fld := ⟨0x14, 16, 16⟩
def STU_HQ_STATUS_OCC : Fld := ⟨0x18, 0, 7⟩
def STU_HQ_STATUS_HELD : Fld := ⟨0x18, 7, 1⟩
def STU_HQ_STATUS_SPILLING : Fld := ⟨0x18, 8, 1⟩
def STU_HQ_STATUS_CELLAR : Fld := ⟨0x18, 16, 16⟩
def STU_HQ_HELD_LO : Fld := ⟨0x1C, 0, 32⟩
def STU_HQ_HELD_HI : Fld := ⟨0x20, 0, 32⟩
def STU_HQ_PUSHES_COUNT : Fld := ⟨0x24, 0, 32⟩
def STU_HQ_POPS_COUNT : Fld := ⟨0x28, 0, 32⟩
def STU_HQ_SPILLED_COUNT : Fld := ⟨0x2C, 0, 32⟩
def STU_HQ_PEAK_OCC : Fld := ⟨0x30, 0, 7⟩

/-! Fields of Table 7.9. -/
def STU_PORT_STATUS_KIND : Fld := ⟨0x8000, 0, 2⟩
def STU_PORT_STATUS_IN_OCC : Fld := ⟨0x8000, 2, 2⟩
def STU_PORT_STATUS_PASS_FULL : Fld := ⟨0x8000, 4, 1⟩
def STU_PORT_ERR_COUNT : Fld := ⟨0x8004, 0, 32⟩
def STU_PORT_IN_COUNT : Fld := ⟨0x8008, 0, 32⟩
def STU_PORT_OUT_COUNT : Fld := ⟨0x800C, 0, 32⟩
def STU_PROBE_EXPECT : Fld := ⟨0x8100, 0, 8⟩
def STU_PROBE_SEEN : Fld := ⟨0x8100, 8, 8⟩
def STU_PSEND_MASK : Fld := ⟨0x8104, 0, 32⟩
def STU_EOFMASK_MASK : Fld := ⟨0x8108, 0, 32⟩
def STU_GUST_CHAN : Fld := ⟨0x810C, 0, 3⟩
def STU_SINK0 : Fld := ⟨0x8120, 0, 8⟩
def STU_SINK1 : Fld := ⟨0x8120, 8, 8⟩
def STU_SINK2 : Fld := ⟨0x8120, 16, 8⟩
def STU_SINK3 : Fld := ⟨0x8120, 24, 8⟩

/-! Fields of Table 7.10. -/
def GST_CH_MASK_CORES : Fld := ⟨0x0, 0, 8⟩
def GST_CH_STATUS_FEED : Fld := ⟨0x4, 0, 5⟩
def GST_CH_BEATS_COUNT : Fld := ⟨0x8, 0, 32⟩

/-! Fields of Table 7.11. -/
def LUL_CTRL_WINDOW : Fld := ⟨0x0, 0, 15⟩
def LUL_CTRL_EN : Fld := ⟨0x0, 15, 1⟩
def LUL_STATUS_LAST : Fld := ⟨0x4, 0, 2⟩
def LUL_STATUS_CORE : Fld := ⟨0x4, 2, 7⟩
def LUL_STATUS_QUEUE : Fld := ⟨0x4, 9, 4⟩
def LUL_STATUS_MEMBERS : Fld := ⟨0x4, 13, 8⟩
def LUL_CYCLE_MASK : Fld := ⟨0x8, 0, 32⟩
def LUL_LULLS_COUNT : Fld := ⟨0x18, 0, 32⟩
def LUL_ENTRIES_COUNT : Fld := ⟨0x1C, 0, 32⟩
def LUL_MAXAGE_US : Fld := ⟨0x20, 0, 32⟩

/-! Fields of Table 8.9. -/
def BNK_CTRL_SWEEP_EN : Fld := ⟨0x0, 0, 1⟩
def BNK_CTRL_RET_REQ : Fld := ⟨0x0, 1, 1⟩
def BNK_STATE_STATE : Fld := ⟨0x4, 0, 2⟩
def BNK_SWEEP_INTERVAL : Fld := ⟨0x8, 0, 20⟩
def BNK_SWEEP_POS_REGION : Fld := ⟨0xC, 0, 14⟩
def BNK_CE_CNT_COUNT : Fld := ⟨0x10, 0, 32⟩
def BNK_UE_CNT_COUNT : Fld := ⟨0x14, 0, 32⟩
def BNK_UE_ADDR_OFFSET : Fld := ⟨0x18, 0, 24⟩
def BNK_REPAIRS_USED : Fld := ⟨0x1C, 0, 9⟩
def BNK_REPAIRS_BAD : Fld := ⟨0x1C, 16, 9⟩
def BNK_SWEEPS_COUNT : Fld := ⟨0x20, 0, 32⟩
def BNK_WAKES_COUNT : Fld := ⟨0x24, 0, 32⟩

/-! Fields of Table 8.10. -/
def BNK_MA_WAITS_COUNT : Fld := ⟨0x0, 0, 32⟩
def BNK_MA_ABORTS_COUNT : Fld := ⟨0x4, 0, 32⟩
def BNK_MA_LAST_CODE : Fld := ⟨0x8, 0, 4⟩
def BNK_MA_LAST_GROUP : Fld := ⟨0x8, 4, 6⟩

/-! Fields of Table 8.11. -/
def LPC_CFG_RATE : Fld := ⟨0x0, 0, 2⟩
def LPC_STATUS_TRAINED : Fld := ⟨0x4, 0, 16⟩
def LPC_STATUS_SREF : Fld := ⟨0x4, 16, 16⟩
def LPC_SCRUB_EN : Fld := ⟨0x8, 0, 1⟩
def LPC_SCRUB_PERIOD : Fld := ⟨0x8, 1, 8⟩
def LPC_SCRUB_POS_BLOCK : Fld := ⟨0xC, 0, 22⟩
def LPC_CE_CNT_COUNT : Fld := ⟨0x10, 0, 32⟩
def LPC_UE_CNT_COUNT : Fld := ⟨0x14, 0, 32⟩
def LPC_UE_ADDR_LO_ADDR : Fld := ⟨0x18, 0, 32⟩
def LPC_UE_ADDR_HI_ADDR : Fld := ⟨0x1C, 0, 16⟩
def LPC_REFMULT_MULT : Fld := ⟨0x20, 0, 32⟩
def LPC_ZQ_CNT_COUNT : Fld := ⟨0x24, 0, 32⟩
def LPC_TRAIN_MS_MS : Fld := ⟨0x28, 0, 16⟩

/-! Fields of Table 9.9. -/
def MVR_CFG_PRIO : Fld := ⟨0x0, 0, 2⟩
def MVR_CFG_RETRY : Fld := ⟨0x0, 2, 3⟩
def MVR_CFG_PLAN : Fld := ⟨0x0, 5, 4⟩
def MVR_CTRL_ABORT : Fld := ⟨0x4, 0, 1⟩
def MVR_ARM_LO_ADDR : Fld := ⟨0x8, 4, 28⟩
def MVR_ARM_HI_ADDR : Fld := ⟨0xC, 0, 16⟩
def MVR_ARM_HI_NINSTR : Fld := ⟨0xC, 16, 6⟩
def MVR_STATUS_STATE : Fld := ⟨0x10, 0, 3⟩
def MVR_STATUS_PENDING : Fld := ⟨0x10, 3, 1⟩
def MVR_STATUS_OVERRUN : Fld := ⟨0x10, 4, 1⟩
def MVR_STATUS_INT : Fld := ⟨0x10, 5, 1⟩
def MVR_STATUS_CAUSE : Fld := ⟨0x10, 6, 4⟩
def MVR_STATUS_PC : Fld := ⟨0x10, 10, 6⟩
def MVR_STATUS_HELD : Fld := ⟨0x10, 16, 1⟩
def MVR_STADDR_LO_ADDR : Fld := ⟨0x14, 6, 26⟩
def MVR_STADDR_HI_ADDR : Fld := ⟨0x18, 0, 16⟩
def MVR_EVT_PEND : Fld := ⟨0x1C, 0, 32⟩
def MVR_BURSTS_COUNT : Fld := ⟨0x20, 0, 32⟩
def MVR_RETRIES_COUNT : Fld := ⟨0x24, 0, 32⟩
def MVR_OVR_CNT_COUNT : Fld := ⟨0x28, 0, 32⟩
def MVR_SW : Fld := ⟨0x40, 0, 32⟩

/-! Fields of Table 9.10. -/
def FIF_CFG_SIZE : Fld := ⟨0x0, 0, 4⟩
def FIF_CFG_ELEM : Fld := ⟨0x0, 4, 2⟩
def FIF_CFG_SRC : Fld := ⟨0x0, 6, 2⟩
def FIF_CFG_MRRS : Fld := ⟨0x0, 8, 2⟩
def FIF_CFG_READER : Fld := ⟨0x0, 10, 1⟩
def FIF_LEVEL_BYTES : Fld := ⟨0x4, 0, 17⟩
def FIF_ADMIT_BYTES : Fld := ⟨0x8, 0, 17⟩
def FIF_STATUS_OCC : Fld := ⟨0xC, 0, 17⟩
def FIF_STATUS_OPEN : Fld := ⟨0xC, 17, 1⟩
def FIF_STATUS_LVL_INT : Fld := ⟨0xC, 18, 1⟩
def FIF_STATUS_OVF : Fld := ⟨0xC, 19, 1⟩
def FIF_STATUS_ERR : Fld := ⟨0xC, 20, 1⟩
def FIF_STATUS_PULL_ERR : Fld := ⟨0xC, 21, 1⟩
def FIF_REMAIN_BYTES : Fld := ⟨0x10, 0, 27⟩
def FIF_LASTV_VALID : Fld := ⟨0x14, 0, 7⟩
def FIF_FREE_BYTES : Fld := ⟨0x18, 0, 17⟩
def FIF_FRAMES_COUNT : Fld := ⟨0x1C, 0, 32⟩
def FIF_BYTES_COUNT : Fld := ⟨0x20, 0, 32⟩
def FIF_DROPS_COUNT : Fld := ⟨0x24, 0, 32⟩
def FIF_DATA : Fld := ⟨0x80, 0, 32⟩

/-! Fields of Table 9.11. -/
def FIF_FD_CTRL_NT : Fld := ⟨0x0, 0, 3⟩
def FIF_FD_CTRL_HDR : Fld := ⟨0x0, 3, 1⟩
def FIF_FD_STATUS_SLOT : Fld := ⟨0x4, 0, 7⟩
def FIF_FD_STATUS_BUSY : Fld := ⟨0x4, 7, 1⟩
def FIF_FD_STATUS_TARGET : Fld := ⟨0x4, 8, 3⟩
def FIF_FD_STATUS_STARVED : Fld := ⟨0x4, 11, 1⟩
def FIF_FD_EPOCH_EPOCH : Fld := ⟨0x8, 0, 12⟩
def FIF_FD_WORDS_COUNT : Fld := ⟨0xC, 0, 32⟩
def FIF_FD_STARVE_NS : Fld := ⟨0x10, 0, 32⟩
def FIF_FDT_PORT_PORT : Fld := ⟨0x40, 0, 6⟩
def FIF_FDT_PORT_RT : Fld := ⟨0x40, 6, 5⟩
def FIF_FDT_PORT_CRT : Fld := ⟨0x40, 11, 5⟩
def FIF_FDT_PORT_DEPTH : Fld := ⟨0x40, 16, 7⟩
def FIF_FDT_RANGE_FIRST : Fld := ⟨0x44, 0, 16⟩
def FIF_FDT_RANGE_COUNT : Fld := ⟨0x44, 16, 7⟩
def FIF_FDT_BUF_SIZE : Fld := ⟨0x48, 0, 12⟩
def FIF_FDT_STATUS_OCC : Fld := ⟨0x4C, 0, 7⟩
def FIF_FDT_BUFS_COUNT : Fld := ⟨0x50, 0, 32⟩

/-! Fields of Table 11.4. -/
def MBX_ID_MINOR : Fld := ⟨0x0, 0, 16⟩
def MBX_ID_MAJOR : Fld := ⟨0x0, 16, 16⟩
def MBX_STATUS_READY : Fld := ⟨0x4, 0, 1⟩
def MBX_STATUS_BOOTFAIL : Fld := ⟨0x4, 1, 1⟩
def MBX_STATUS_HOSTBOOT : Fld := ⟨0x4, 2, 1⟩
def MBX_STATUS_RESETTING : Fld := ⟨0x4, 3, 1⟩
def MBX_STATUS_RING_ERR : Fld := ⟨0x4, 4, 1⟩
def MBX_STATUS_HEAD : Fld := ⟨0x4, 5, 1⟩
def MBX_STATUS_DEVNUM : Fld := ⟨0x4, 6, 6⟩
def MBX_FWVER_VERSION : Fld := ⟨0x8, 0, 32⟩
def MBX_EVT_SEQ_SEQ : Fld := ⟨0xC, 0, 32⟩
def MBX_BAR2_LO_ADDR : Fld := ⟨0x18, 28, 4⟩
def MBX_BAR2_HI_ADDR : Fld := ⟨0x1C, 0, 16⟩
def MBX_BAR2_CTRL_EN : Fld := ⟨0x20, 0, 1⟩
def MBX_BAR2_CTRL_WEN : Fld := ⟨0x20, 1, 1⟩
def MBX_FIF_PEND_SLOTS : Fld := ⟨0x40, 0, 32⟩

/-! Fields of Table 11.5. -/
def MBX_CR_BASE_LO_ADDR : Fld := ⟨0x1000, 0, 32⟩
def MBX_CR_BASE_HI_ADDR : Fld := ⟨0x1004, 0, 32⟩
def MBX_CR_CFG_SIZE : Fld := ⟨0x1008, 0, 4⟩
def MBX_CR_CFG_EN : Fld := ⟨0x1008, 4, 1⟩
def MBX_CR_TAIL_INDEX : Fld := ⟨0x100C, 0, 12⟩
def MBX_CR_HEAD_INDEX : Fld := ⟨0x1010, 0, 12⟩
def MBX_CC_BASE_LO_ADDR : Fld := ⟨0x1014, 0, 32⟩
def MBX_CC_BASE_HI_ADDR : Fld := ⟨0x1018, 0, 32⟩
def MBX_CC_CFG_SIZE : Fld := ⟨0x101C, 0, 4⟩
def MBX_CC_CFG_EN : Fld := ⟨0x101C, 4, 1⟩
def MBX_CC_HEAD_INDEX : Fld := ⟨0x1020, 0, 12⟩
def MBX_CC_TAIL_INDEX : Fld := ⟨0x1024, 0, 12⟩
def MBX_CC_TAIL_PHASE : Fld := ⟨0x1024, 12, 1⟩

/-! Fields of Table 11.7. -/
def MBX_FR_TAIL_INDEX : Fld := ⟨0x0, 0, 12⟩
def MBX_FR_HEAD_INDEX : Fld := ⟨0x4, 0, 12⟩
def MBX_RR_HEAD_INDEX : Fld := ⟨0x8, 0, 12⟩
def MBX_RR_STATUS_TAIL : Fld := ⟨0xC, 0, 12⟩
def MBX_RR_STATUS_PHASE : Fld := ⟨0xC, 12, 1⟩
def MBX_RR_STATUS_BOUND : Fld := ⟨0xC, 13, 1⟩

/-! Fields of Table 12.10. -/
def TXU_CTRL_COMMIT : Fld := ⟨0x0, 0, 1⟩
def TXU_CTRL_CLEAR : Fld := ⟨0x0, 1, 1⟩
def TXU_STATUS_COUNT : Fld := ⟨0x4, 0, 7⟩
def TXU_STATUS_STATE : Fld := ⟨0x4, 7, 3⟩
def TXU_STATUS_FAIL_IDX : Fld := ⟨0x4, 10, 6⟩
def TXU_STATUS_FAIL_WHY : Fld := ⟨0x4, 16, 4⟩
def TXU_STATUS_BUSY_ERR : Fld := ⟨0x4, 20, 1⟩
def TXU_GROUP_GID : Fld := ⟨0x8, 0, 16⟩
def TXU_DRAINED_CORES : Fld := ⟨0xC, 0, 8⟩
def TXU_FENCE_FENCED : Fld := ⟨0x10, 0, 8⟩
def TXU_FENCE_SET : Fld := ⟨0x10, 8, 8⟩
def TXU_COMMITS_COUNT : Fld := ⟨0x14, 0, 32⟩
def TXU_FAILS_COUNT : Fld := ⟨0x18, 0, 32⟩
def TXU_ACT : Fld := ⟨0x100, 0, 32⟩

/-! Fields of Table 12.11. -/
def TXU_PART_CLUSTERS : Fld := ⟨0x600, 0, 16⟩
def TXU_DECISION_VALUE : Fld := ⟨0x604, 0, 2⟩
def TXU_DECISION_VOTES : Fld := ⟨0x604, 2, 16⟩
def TXU_INJ_TARGET : Fld := ⟨0x800, 0, 32⟩
def TXU_INJ_COUNT : Fld := ⟨0x804, 0, 16⟩
def TXU_INJ_FIRED : Fld := ⟨0x808, 0, 32⟩

/-! Fields of Table 13.7. -/
def RLY_P_STATUS_STATE : Fld := ⟨0x0, 0, 3⟩
def RLY_P_STATUS_PEER : Fld := ⟨0x0, 3, 6⟩
def RLY_P_STATUS_PEERPORT : Fld := ⟨0x0, 9, 3⟩
def RLY_P_CTRL_EN : Fld := ⟨0x4, 0, 1⟩
def RLY_P_CTRL_RETRAIN : Fld := ⟨0x4, 1, 1⟩
def RLY_P_FEC_CE_COUNT : Fld := ⟨0x8, 0, 32⟩
def RLY_P_FEC_UE_COUNT : Fld := ⟨0xC, 0, 32⟩
def RLY_P_REPLAY_COUNT : Fld := ⟨0x10, 0, 32⟩
def RLY_P_PROTO_COUNT : Fld := ⟨0x14, 0, 32⟩
def RLY_P_DOWNS_COUNT : Fld := ⟨0x18, 0, 32⟩
def RLY_ID_DEVNUM : Fld := ⟨0x800, 0, 6⟩
def RLY_ID_HEAD : Fld := ⟨0x800, 6, 1⟩
def RLY_ID_NDEV : Fld := ⟨0x800, 8, 6⟩
def RLY_ROUTE_PORTS : Fld := ⟨0x804, 0, 32⟩
def RLY_SYNC_OFFSET : Fld := ⟨0x840, 0, 16⟩
def RLY_SYNC_LOCKED : Fld := ⟨0x840, 16, 1⟩
def RLY_OUT_CFG_EN : Fld := ⟨0xA00, 0, 1⟩
def RLY_OUT_CFG_DEV : Fld := ⟨0xA00, 1, 6⟩
def RLY_OUT_CFG_SLOT : Fld := ⟨0xA00, 7, 7⟩
def RLY_OUT_LEN_BYTES : Fld := ⟨0xA04, 0, 27⟩
def RLY_TIMED_SLOTS : Fld := ⟨0xA40, 0, 32⟩

/-! Fields of Table 14.9. -/
def PWR_VMON_MV : Fld := ⟨0x0, 0, 10⟩
def PWR_VMIN_MV : Fld := ⟨0x4, 0, 10⟩
def PWR_TEMP_HOT : Fld := ⟨0x8, 0, 16⟩
def PWR_TEMP_SENSOR : Fld := ⟨0x8, 16, 3⟩
def PWR_TMAX_PEAK : Fld := ⟨0xC, 0, 16⟩
def PWR_STATUS_SQUALL : Fld := ⟨0x10, 0, 1⟩
def PWR_STATUS_OVERTEMP : Fld := ⟨0x10, 1, 1⟩
def PWR_STATUS_SHUTDOWN : Fld := ⟨0x10, 2, 1⟩
def PWR_STATUS_OFF : Fld := ⟨0x10, 3, 1⟩
def PWR_SQ_CNT_COUNT : Fld := ⟨0x14, 0, 32⟩
def PWR_SQ_TIME_US : Fld := ⟨0x18, 0, 32⟩
def PWR_OT_CNT_COUNT : Fld := ⟨0x1C, 0, 32⟩

/-! Fields of Table 14.10. -/
def PWR_SQ_CFG_WARN : Fld := ⟨0x0, 0, 10⟩
def PWR_TH_CFG_WARN : Fld := ⟨0x4, 0, 8⟩
def PWR_VSET_MV : Fld := ⟨0x8, 0, 10⟩
def PWR_STATE_OFF : Fld := ⟨0x18, 0, 4⟩
def PWR_STATE_SHUT : Fld := ⟨0x18, 4, 4⟩
def PWR_STATE_STANDBY : Fld := ⟨0x18, 8, 1⟩
def PWR_STATE_IDLE : Fld := ⟨0x18, 9, 1⟩
def PWR_STATE_HOLDN : Fld := ⟨0x18, 10, 8⟩
def PWR_HOLD_CORES : Fld := ⟨0x1C, 0, 32⟩
def PWR_WDOG_LIMIT : Fld := ⟨0x2C, 0, 16⟩
def PWR_WDOG_KICK : Fld := ⟨0x30, 0, 32⟩
def PWR_RST_CAUSE : Fld := ⟨0x34, 0, 4⟩
def PWR_RST_DIE : Fld := ⟨0x34, 4, 2⟩
def PWR_WD_RESTARTS_COUNT : Fld := ⟨0x38, 0, 32⟩

/-! Fields of Table 15.7. -/
def MBX_BOOT_STAGE_STAGE : Fld := ⟨0x100, 0, 8⟩
def MBX_BOOT_STAGE_SRC : Fld := ⟨0x100, 8, 2⟩
def MBX_BOOT_REASON_SLOT0 : Fld := ⟨0x104, 0, 8⟩
def MBX_BOOT_REASON_SLOT1 : Fld := ⟨0x104, 8, 8⟩
def MBX_BOOT_REASON_HOST : Fld := ⟨0x104, 16, 8⟩
def MBX_BOOT_REASON_FINAL : Fld := ⟨0x104, 24, 8⟩
def MBX_HB_LEN_BYTES : Fld := ⟨0x108, 0, 24⟩
def MBX_HB_GO_GO : Fld := ⟨0x10C, 0, 1⟩
def MBX_BOOT_MS_MS : Fld := ⟨0x110, 0, 16⟩

/-! Fields of Table 15.13. -/
def SEC_KEYHASH : Fld := ⟨0x0, 0, 32⟩
def SEC_FUSE_REVOKE : Fld := ⟨0x100, 0, 4⟩
def SEC_FUSE_KEYUSE : Fld := ⟨0x100, 4, 8⟩
def SEC_FUSE_SVN : Fld := ⟨0x100, 12, 7⟩
def SEC_POLICY_WORD : Fld := ⟨0x104, 0, 32⟩
def SEC_SERIAL : Fld := ⟨0x108, 0, 32⟩
def SEC_STATUS_IDENT : Fld := ⟨0x118, 0, 1⟩
def SEC_STATUS_KEYSLOT : Fld := ⟨0x118, 1, 2⟩
def SEC_STATUS_UNVERIFIED : Fld := ⟨0x118, 3, 1⟩
def SEC_QUOTES_COUNT : Fld := ⟨0x11C, 0, 32⟩

/-! Fields of Table 16.3. -/
def DBG_STATUS_LOCKED : Fld := ⟨0x0, 0, 1⟩
def DBG_STATUS_LOCKOUT : Fld := ⟨0x0, 1, 1⟩
def DBG_STATUS_CHAL : Fld := ⟨0x0, 2, 1⟩
def DBG_STATUS_KEYSLOT : Fld := ⟨0x0, 3, 2⟩
def DBG_UART_BAUD : Fld := ⟨0x4, 0, 4⟩
def DBG_LOCK_LOCK : Fld := ⟨0x8, 0, 1⟩
def DBG_CMDS_COUNT : Fld := ⟨0xC, 0, 32⟩
def DBG_LINEERR_COUNT : Fld := ⟨0x10, 0, 32⟩
def DBG_FAILS_COUNT : Fld := ⟨0x14, 0, 32⟩
def DBG_UNLOCKS_COUNT : Fld := ⟨0x18, 0, 32⟩

/-! Fields of Table 2.1. -/
def SAG_PROG : Fld := ⟨0x0, 0, 32⟩
def SEQ_PROG : Fld := ⟨0x0, 0, 32⟩

/-! Fields of Table 11.3. -/
def MBX_MSIX_ADDR_LO : Fld := ⟨0x0, 0, 32⟩
def MBX_MSIX_ADDR_HI : Fld := ⟨0x4, 0, 32⟩
def MBX_MSIX_DATA : Fld := ⟨0x8, 0, 32⟩
def MBX_MSIX_MASK : Fld := ⟨0xC, 0, 1⟩
def MBX_MSIX_PBA : Fld := ⟨0x4800, 0, 32⟩

end Sys2Proof.Machine.Reg

namespace Sys2Proof.Machine

/-- Rows of Table 1.3 in the hub window. -/
def regsT1_3_hub : List FSpec := [
  ⟨.hub, 0x10000, [(256, 8)], 0, 32, .ro, 0⟩,  -- CAD_LATENCY.L_PLAN
  ⟨.hub, 0x10004, [(256, 8)], 0, 32, .ro, 0⟩,  -- CAD_ADMIT.P_ADM
  ⟨.hub, 0x10008, [(256, 8)], 0, 32, .ro, 0⟩,  -- CAD_GRID.PERIOD
  ⟨.hub, 0x1000C, [(256, 8)], 0, 32, .rw, 0⟩,  -- CAD_ORIGIN.OFFSET
  ⟨.hub, 0x10010, [(256, 8)], 0, 3, .ro, 0⟩,  -- CAD_STATE.SLOT
  ⟨.hub, 0x10010, [(256, 8)], 3, 1, .ro, 0⟩,  -- CAD_STATE.SQUALL_HOLD
  ⟨.hub, 0x10010, [(256, 8)], 4, 4, .ro, 0⟩,  -- CAD_STATE.SEGMENT
  ⟨.hub, 0x10010, [(256, 8)], 8, 8, .ro, 0⟩,  -- CAD_STATE.STREAMS
  ⟨.hub, 0x10010, [(256, 8)], 16, 1, .ro, 0⟩,  -- CAD_STATE.KILN
  ⟨.hub, 0x10014, [(256, 8)], 0, 32, .rc, 0⟩,  -- CAD_LATE_CNT.COUNT
  ⟨.hub, 0x10018, [(256, 8)], 0, 32, .rc, 0⟩,  -- CAD_LRISK_CNT.COUNT
  ⟨.hub, 0x1001C, [(256, 8)], 0, 32, .rc, 0⟩]  -- CAD_MAX_RUN.NS

/-- Rows of Table 1.4 in the hub window. -/
def regsT1_4_hub : List FSpec := [
  ⟨.hub, 0x10800, [], 0, 32, .ro, 0⟩,  -- CAD_TIME_LO.NS
  ⟨.hub, 0x10804, [], 0, 32, .ro, 0⟩]  -- CAD_TIME_HI.NS

/-- Rows of Table 2.4 in the core window. -/
def regsT2_4_core : List FSpec := [
  ⟨.core, 0x40, [(8, 8)], 0, 17, .rw, 0⟩,  -- SEQ_BNDn_LO.BASE
  ⟨.core, 0x44, [(8, 8)], 0, 17, .rw, 0⟩,  -- SEQ_BNDn_HI.LIMIT
  ⟨.core, 0x44, [(8, 8)], 29, 1, .rw, 0⟩,  -- SEQ_BNDn_HI.READ
  ⟨.core, 0x44, [(8, 8)], 30, 1, .rw, 0⟩]  -- SEQ_BNDn_HI.WRITE

/-- Rows of Table 2.5 in the core window. -/
def regsT2_5_core : List FSpec := [
  ⟨.core, 0x2000, [(64, 16)], 0, 23, .rw, 0⟩,  -- SAG_BASE.BASE
  ⟨.core, 0x2004, [(64, 16)], 0, 3, .rw, 0⟩,  -- SAG_CFG.ELEM
  ⟨.core, 0x2004, [(64, 16)], 3, 3, .rw, 0⟩,  -- SAG_CFG.NDIM
  ⟨.core, 0x2004, [(64, 16)], 6, 1, .rw, 0⟩,  -- SAG_CFG.MODE
  ⟨.core, 0x2004, [(64, 16)], 7, 1, .rw, 0⟩,  -- SAG_CFG.DIR
  ⟨.core, 0x2004, [(64, 16)], 8, 6, .rw, 0⟩,  -- SAG_CFG.VLEN
  ⟨.core, 0x2004, [(64, 16)], 14, 4, .rw, 0⟩,  -- SAG_CFG.HQ
  ⟨.core, 0x2004, [(64, 16)], 18, 1, .rw, 0⟩,  -- SAG_CFG.HREL
  ⟨.core, 0x2008, [(64, 16), (8, 5)], 0, 16, .rw, 0⟩,  -- SAG_CNTd.COUNT
  ⟨.core, 0x200C, [(64, 16), (8, 5)], 0, 24, .rw, 0⟩,  -- SAG_STRd.STRIDE
  ⟨.core, 0x2030, [(64, 16)], 0, 6, .rw, 0⟩,  -- SAG_PSTART.START
  ⟨.core, 0x2034, [(64, 16)], 0, 1, .ro, 0⟩,  -- SAG_STATUS.BUSY
  ⟨.core, 0x2038, [(64, 16)], 0, 32, .ro, 0⟩]  -- SAG_EMITTED.COUNT

/-- Rows of Table 2.9 in the core window. -/
def regsT2_9_core : List FSpec := [
  ⟨.core, 0x0, [], 0, 10, .rw, 0⟩,  -- SEQ_CTRL.ENTRY
  ⟨.core, 0x0, [], 10, 4, .rw, 0⟩,  -- SEQ_CTRL.FRAME_Q
  ⟨.core, 0x4, [], 0, 3, .ro, 0⟩,  -- SEQ_STATUS.STATE
  ⟨.core, 0x4, [], 3, 1, .ro, 1⟩,  -- SEQ_STATUS.DRAINED
  ⟨.core, 0x4, [], 4, 10, .ro, 0⟩,  -- SEQ_STATUS.PC
  ⟨.core, 0x8, [], 0, 12, .ro, 0⟩,  -- SEQ_EPOCH.EPOCH
  ⟨.core, 0xC, [], 0, 7, .ro, 0⟩,  -- SEQ_FRAME.SLOT
  ⟨.core, 0xC, [], 7, 1, .ro, 0⟩,  -- SEQ_FRAME.VALID
  ⟨.core, 0x10, [], 0, 32, .ro, 0⟩,  -- SEQ_FRAME_SEQ.SEQ
  ⟨.core, 0x14, [], 0, 8, .ro, 0⟩,  -- SEQ_FAULT.CODE
  ⟨.core, 0x14, [], 8, 1, .ro, 0⟩,  -- SEQ_FAULT.MORE
  ⟨.core, 0x14, [], 16, 16, .ro, 0⟩,  -- SEQ_FAULT.INFO
  ⟨.core, 0x18, [], 0, 23, .ro, 0⟩,  -- SEQ_FAULT_ADDR.OFFSET
  ⟨.core, 0x1C, [], 0, 20, .rw, 0⟩,  -- SEQ_WDOG.LIMIT
  ⟨.core, 0x20, [], 0, 1, .w1c, 0⟩,  -- SEQ_ERR.CFG_BUSY
  ⟨.core, 0x24, [], 0, 32, .rc, 0⟩]  -- SEQ_FRAMES.COUNT

/-- Rows of Table 2.10 in the core window. -/
def regsT2_10_core : List FSpec := [
  ⟨.core, 0x1100, [(8, 32)], 0, 8, .rw, 0⟩,  -- STU_ROUTE_ACCEPT
  ⟨.core, 0x1100, [(8, 32)], 8, 2, .rw, 0⟩,  -- STU_ROUTE_JOIN
  ⟨.core, 0x1100, [(8, 32)], 10, 4, .rw, 0⟩,  -- STU_ROUTE_DEST
  ⟨.core, 0x1100, [(8, 32)], 14, 4, .rw, 0⟩,  -- STU_ROUTE_INDEX
  ⟨.core, 0x1100, [(8, 32)], 18, 8, .rw, 0⟩,  -- STU_ROUTE_EMASK
  ⟨.core, 0x1100, [(8, 32)], 26, 5, .rw, 0⟩,  -- STU_ROUTE_RETAG
  ⟨.core, 0x1104, [(8, 32)], 0, 12, .rw, 0⟩,  -- STU_ROUTE_RUN
  ⟨.core, 0x1104, [(8, 32)], 12, 8, .rw, 0⟩,  -- STU_ROUTE_EXPECT
  ⟨.core, 0x1000, [], 0, 1, .ro, 1⟩,  -- STU_STATUS.EMPTY
  ⟨.core, 0x1010, [(4, 4)], 0, 32, .rw, 0⟩,  -- STU_PASSp.MASK
  ⟨.core, 0x1040, [(4, 8)], 0, 32, .rw, 0⟩]  -- STU_OSEQw

/-- Rows of Table 3.18 in the core window. -/
def regsT3_18_core : List FSpec := [
  ⟨.core, 0x4000, [(256, 8)], 0, 1, .ro, 0⟩,  -- ENG_STATUS.BUSY
  ⟨.core, 0x4000, [(256, 8)], 1, 1, .ro, 0⟩,  -- ENG_STATUS.SHADOW_READY
  ⟨.core, 0x4000, [(256, 8)], 2, 1, .ro, 0⟩,  -- ENG_STATUS.TILE_VALID
  ⟨.core, 0x4004, [(256, 8)], 0, 4, .ro, 0⟩,  -- ENG_FMT.FMT_A
  ⟨.core, 0x4004, [(256, 8)], 4, 4, .ro, 0⟩,  -- ENG_FMT.FMT_B
  ⟨.core, 0x4004, [(256, 8)], 8, 4, .ro, 0⟩,  -- ENG_FMT.FMT_OUT
  ⟨.core, 0x4004, [(256, 8)], 12, 1, .ro, 0⟩,  -- ENG_FMT.RND
  ⟨.core, 0x4004, [(256, 8)], 13, 1, .ro, 0⟩,  -- ENG_FMT.ACCF
  ⟨.core, 0x4008, [(256, 8)], 0, 32, .rw, 0⟩,  -- ENG_SEED.SEED
  ⟨.core, 0x400C, [(256, 8)], 0, 32, .ro, 0⟩,  -- ENG_DRAWS.COUNT
  ⟨.core, 0x4010, [(256, 8)], 0, 32, .rc, 0⟩,  -- ENG_PSAT_CNT.COUNT
  ⟨.core, 0x4014, [(256, 8)], 0, 32, .rc, 0⟩,  -- ENG_ASAT_CNT.COUNT
  ⟨.core, 0x4018, [(256, 8)], 0, 32, .rc, 0⟩,  -- ENG_INVALID_CNT.COUNT
  ⟨.core, 0x401C, [(256, 8)], 0, 32, .rc, 0⟩,  -- ENG_NAN_CNT.COUNT
  ⟨.core, 0x4020, [(256, 8)], 0, 32, .rc, 0⟩]  -- ENG_VECTORS.COUNT

/-- Rows of Table 4.4 in the core window. -/
def regsT4_4_core : List FSpec := [
  ⟨.core, 0x5000, [(256, 8)], 0, 2, .rw, 0⟩,  -- PPU_CTRL.RSMODE
  ⟨.core, 0x5000, [(256, 8)], 2, 1, .rw, 0⟩,  -- PPU_CTRL.TSEL
  ⟨.core, 0x5000, [(256, 8)], 3, 3, .rw, 0⟩,  -- PPU_CTRL.HDEPTH
  ⟨.core, 0x5000, [(256, 8)], 6, 2, .rw, 0⟩,  -- PPU_CTRL.GUARD
  ⟨.core, 0x5000, [(256, 8)], 8, 1, .rw, 0⟩,  -- PPU_CTRL.CHMODE
  ⟨.core, 0x5000, [(256, 8)], 9, 1, .rw, 0⟩,  -- PPU_CTRL.KILN
  ⟨.core, 0x5004, [(256, 8)], 0, 17, .rw, 0⟩,  -- PPU_RTAB_A.BASE
  ⟨.core, 0x5008, [(256, 8)], 0, 17, .rw, 0⟩,  -- PPU_RTAB_B.BASE
  ⟨.core, 0x500C, [(256, 8)], 0, 17, .rw, 0⟩,  -- PPU_BTAB_A.BASE
  ⟨.core, 0x5010, [(256, 8)], 0, 17, .rw, 0⟩,  -- PPU_BTAB_B.BASE
  ⟨.core, 0x5014, [(256, 8)], 0, 17, .rw, 0⟩,  -- PPU_BOUND.BASE
  ⟨.core, 0x5018, [(256, 8), (4, 4)], 0, 17, .rw, 0⟩,  -- PPU_ACTa.BASE
  ⟨.core, 0x5028, [(256, 8)], 0, 24, .rw, 0⟩,  -- PPU_ROW.LEN
  ⟨.core, 0x502C, [(256, 8)], 0, 16, .rw, 0⟩,  -- PPU_CH.CHBASE
  ⟨.core, 0x502C, [(256, 8)], 16, 16, .rw, 0⟩,  -- PPU_CH.RPC
  ⟨.core, 0x5030, [(256, 8)], 0, 16, .rw, 0⟩,  -- PPU_NCH.COUNT
  ⟨.core, 0x5030, [(256, 8)], 16, 8, .rw, 0⟩,  -- PPU_NCH.INIT
  ⟨.core, 0x5034, [(256, 8)], 0, 17, .rw, 0⟩,  -- PPU_HIST.BASE
  ⟨.core, 0x5038, [(256, 8)], 0, 17, .rw, 0⟩,  -- PPU_HMAP.BASE
  ⟨.core, 0x503C, [(256, 8)], 0, 17, .rw, 0⟩,  -- PPU_STATS.BASE
  ⟨.core, 0x5040, [(256, 8)], 0, 16, .rw, 0⟩,  -- PPU_THR.SAT
  ⟨.core, 0x5040, [(256, 8)], 16, 16, .rw, 0⟩,  -- PPU_THR.UFL
  ⟨.core, 0x5044, [(256, 8)], 0, 4, .rw, 0⟩,  -- PPU_SIDE.SAG
  ⟨.core, 0x5044, [(256, 8)], 4, 1, .rw, 0⟩,  -- PPU_SIDE.EN
  ⟨.core, 0x5044, [(256, 8)], 5, 6, .rw, 0⟩,  -- PPU_SIDE.PER_TOKEN
  ⟨.core, 0x5048, [(256, 8)], 0, 17, .rw, 0⟩,  -- PPU_KSTATE.BASE
  ⟨.core, 0x504C, [(256, 8)], 0, 1, .ro, 0⟩,  -- PPU_FFLAGS.SAT
  ⟨.core, 0x504C, [(256, 8)], 1, 1, .ro, 0⟩,  -- PPU_FFLAGS.UFL
  ⟨.core, 0x504C, [(256, 8)], 2, 1, .ro, 0⟩,  -- PPU_FFLAGS.CONST
  ⟨.core, 0x5050, [(256, 8)], 0, 32, .rc, 0⟩,  -- PPU_SAT_TOT.COUNT
  ⟨.core, 0x5054, [(256, 8)], 0, 32, .rc, 0⟩]  -- PPU_UFL_TOT.COUNT

/-- Rows of Table 6.8 in the cluster window. -/
def regsT6_8_cluster : List FSpec := [
  ⟨.cluster, 0x3000, [], 0, 10, .ro, 512⟩,  -- RLU_STATUS.FREE
  ⟨.cluster, 0x3000, [], 10, 4, .ro, 0⟩,  -- RLU_STATUS.OPS
  ⟨.cluster, 0x3004, [], 0, 32, .rc, 0⟩,  -- RLU_GATHERS.COUNT
  ⟨.cluster, 0x3008, [], 0, 32, .rc, 0⟩,  -- RLU_OOR_CNT.COUNT
  ⟨.cluster, 0x300C, [], 0, 32, .rc, 0⟩,  -- RLU_DISORDER_CNT.COUNT
  ⟨.cluster, 0x3010, [], 0, 32, .rc, 0⟩,  -- RLU_TRUNC_CNT.COUNT
  ⟨.cluster, 0x3014, [], 0, 32, .rc, 0⟩,  -- RLU_SAT_CNT.COUNT
  ⟨.cluster, 0x3018, [], 0, 32, .rc, 0⟩,  -- RLU_UFL_CNT.COUNT
  ⟨.cluster, 0x301C, [], 0, 17, .rc, 0⟩]  -- RLU_OVF_HWM.ENTRIES

/-- Rows of Table 7.4 in the core window. -/
def regsT7_4_core : List FSpec := [
  ⟨.core, 0x8400, [(64, 16)], 0, 7, .rw, 0⟩,  -- STU_HQ_CFG.DEPTH
  ⟨.core, 0x8400, [(64, 16)], 7, 7, .rw, 0⟩,  -- STU_HQ_CFG.INIT
  ⟨.core, 0x8400, [(64, 16)], 14, 1, .rw, 0⟩,  -- STU_HQ_CFG.KIND
  ⟨.core, 0x8400, [(64, 16)], 15, 1, .rw, 0⟩,  -- STU_HQ_CFG.SPILL
  ⟨.core, 0x8400, [(64, 16)], 16, 5, .rw, 0⟩,  -- STU_HQ_CFG.CRT
  ⟨.core, 0x8400, [(64, 16)], 21, 8, .rw, 255⟩,  -- STU_HQ_CFG.SRC
  ⟨.core, 0x8404, [(64, 16)], 0, 16, .rw, 0⟩,  -- STU_HQ_RANGE.FIRST
  ⟨.core, 0x8404, [(64, 16)], 16, 7, .rw, 0⟩,  -- STU_HQ_RANGE.COUNT
  ⟨.core, 0x8408, [(64, 16)], 0, 17, .rw, 0⟩,  -- STU_HQ_BUF.BASE
  ⟨.core, 0x840C, [(64, 16)], 0, 17, .rw, 0⟩,  -- STU_HQ_BUF.SIZE
  ⟨.core, 0x8410, [(64, 16)], 0, 32, .rw, 0⟩,  -- STU_HQ_CEL_LO.BASE
  ⟨.core, 0x8414, [(64, 16)], 0, 16, .rw, 0⟩,  -- STU_HQ_CEL_HI.BASE
  ⟨.core, 0x8414, [(64, 16)], 16, 16, .rw, 0⟩,  -- STU_HQ_CEL_HI.CAP
  ⟨.core, 0x8418, [(64, 16)], 0, 7, .ro, 0⟩,  -- STU_HQ_STATUS.OCC
  ⟨.core, 0x8418, [(64, 16)], 7, 1, .ro, 0⟩,  -- STU_HQ_STATUS.HELD
  ⟨.core, 0x8418, [(64, 16)], 8, 1, .ro, 0⟩,  -- STU_HQ_STATUS.SPILLING
  ⟨.core, 0x8418, [(64, 16)], 16, 16, .ro, 0⟩,  -- STU_HQ_STATUS.CELLAR
  ⟨.core, 0x841C, [(64, 16)], 0, 32, .ro, 0⟩,  -- STU_HQ_HELD_LO
  ⟨.core, 0x8420, [(64, 16)], 0, 32, .ro, 0⟩,  -- STU_HQ_HELD_HI
  ⟨.core, 0x8424, [(64, 16)], 0, 32, .rc, 0⟩,  -- STU_HQ_PUSHES.COUNT
  ⟨.core, 0x8428, [(64, 16)], 0, 32, .rc, 0⟩,  -- STU_HQ_POPS.COUNT
  ⟨.core, 0x842C, [(64, 16)], 0, 32, .rc, 0⟩,  -- STU_HQ_SPILLED.COUNT
  ⟨.core, 0x8430, [(64, 16)], 0, 7, .rc, 0⟩]  -- STU_HQ_PEAK.OCC

/-- Rows of Table 7.9 in the core window. -/
def regsT7_9_core : List FSpec := [
  ⟨.core, 0x8000, [(64, 4)], 0, 2, .ro, 0⟩,  -- STU_PORTp_STATUS.KIND
  ⟨.core, 0x8000, [(64, 4)], 2, 2, .ro, 0⟩,  -- STU_PORTp_STATUS.IN_OCC
  ⟨.core, 0x8000, [(64, 4)], 4, 1, .ro, 0⟩,  -- STU_PORTp_STATUS.PASS_FULL
  ⟨.core, 0x8004, [(64, 4)], 0, 32, .rc, 0⟩,  -- STU_PORTp_ERR.COUNT
  ⟨.core, 0x8008, [(64, 4)], 0, 32, .rc, 0⟩,  -- STU_PORTp_IN.COUNT
  ⟨.core, 0x800C, [(64, 4)], 0, 32, .rc, 0⟩,  -- STU_PORTp_OUT.COUNT
  ⟨.core, 0x8100, [], 0, 8, .rw, 0⟩,  -- STU_PROBE.EXPECT
  ⟨.core, 0x8100, [], 8, 8, .ro, 0⟩,  -- STU_PROBE.SEEN
  ⟨.core, 0x8104, [], 0, 32, .rw, 0⟩,  -- STU_PSEND.MASK
  ⟨.core, 0x8108, [], 0, 32, .rw, 0⟩,  -- STU_EOFMASK.MASK
  ⟨.core, 0x810C, [], 0, 3, .rw, 0⟩,  -- STU_GUST.CHAN
  ⟨.core, 0x8120, [(4, 8)], 0, 8, .rw, 255⟩,  -- STU_SINK0
  ⟨.core, 0x8120, [(4, 8)], 8, 8, .rw, 255⟩,  -- STU_SINK1
  ⟨.core, 0x8120, [(4, 8)], 16, 8, .rw, 255⟩,  -- STU_SINK2
  ⟨.core, 0x8120, [(4, 8)], 24, 8, .rw, 255⟩]  -- STU_SINK3

/-- Rows of Table 7.10 in the cluster window. -/
def regsT7_10_cluster : List FSpec := [
  ⟨.cluster, 0x4000, [(32, 8)], 0, 8, .rw, 0⟩,  -- GST_CHc_MASK.CORES
  ⟨.cluster, 0x4004, [(32, 8)], 0, 5, .ro, 0⟩,  -- GST_CHc_STATUS.FEED
  ⟨.cluster, 0x4008, [(32, 8)], 0, 32, .rc, 0⟩]  -- GST_CHc_BEATS.COUNT

/-- Rows of Table 7.11 in the hub window. -/
def regsT7_11_hub : List FSpec := [
  ⟨.hub, 0x20000, [(64, 8)], 0, 15, .rw, 200⟩,  -- LUL_CTRL.WINDOW
  ⟨.hub, 0x20000, [(64, 8)], 15, 1, .rw, 1⟩,  -- LUL_CTRL.EN
  ⟨.hub, 0x20004, [(64, 8)], 0, 2, .ro, 0⟩,  -- LUL_STATUS.LAST
  ⟨.hub, 0x20004, [(64, 8)], 2, 7, .ro, 0⟩,  -- LUL_STATUS.CORE
  ⟨.hub, 0x20004, [(64, 8)], 9, 4, .ro, 0⟩,  -- LUL_STATUS.QUEUE
  ⟨.hub, 0x20004, [(64, 8)], 13, 8, .ro, 0⟩,  -- LUL_STATUS.MEMBERS
  ⟨.hub, 0x20008, [(64, 8), (4, 4)], 0, 32, .ro, 0⟩,  -- LUL_CYCLEn.MASK
  ⟨.hub, 0x20018, [(64, 8)], 0, 32, .rc, 0⟩,  -- LUL_LULLS.COUNT
  ⟨.hub, 0x2001C, [(64, 8)], 0, 32, .rc, 0⟩,  -- LUL_ENTRIES.COUNT
  ⟨.hub, 0x20020, [(64, 8)], 0, 32, .rc, 0⟩]  -- LUL_MAXAGE.US

/-- Rows of Table 8.9 in the core window. -/
def regsT8_9_core : List FSpec := [
  ⟨.core, 0x6000, [], 0, 1, .rw, 1⟩,  -- BNK_CTRL.SWEEP_EN
  ⟨.core, 0x6000, [], 1, 1, .rw, 0⟩,  -- BNK_CTRL.RET_REQ
  ⟨.core, 0x6004, [], 0, 2, .ro, 0⟩,  -- BNK_STATE.STATE
  ⟨.core, 0x6008, [], 0, 20, .rw, 1000⟩,  -- BNK_SWEEP.INTERVAL
  ⟨.core, 0x600C, [], 0, 14, .ro, 0⟩,  -- BNK_SWEEP_POS.REGION
  ⟨.core, 0x6010, [], 0, 32, .rc, 0⟩,  -- BNK_CE_CNT.COUNT
  ⟨.core, 0x6014, [], 0, 32, .rc, 0⟩,  -- BNK_UE_CNT.COUNT
  ⟨.core, 0x6018, [], 0, 24, .ro, 0⟩,  -- BNK_UE_ADDR.OFFSET
  ⟨.core, 0x601C, [], 0, 9, .ro, 0⟩,  -- BNK_REPAIRS.USED
  ⟨.core, 0x601C, [], 16, 9, .ro, 0⟩,  -- BNK_REPAIRS.BAD
  ⟨.core, 0x6020, [], 0, 32, .rc, 0⟩,  -- BNK_SWEEPS.COUNT
  ⟨.core, 0x6024, [], 0, 32, .rc, 0⟩]  -- BNK_WAKES.COUNT

/-- Rows of Table 8.9 in the cluster window. -/
def regsT8_9_cluster : List FSpec := [
  ⟨.cluster, 0x6000, [], 0, 1, .rw, 1⟩,  -- BNK_CTRL.SWEEP_EN
  ⟨.cluster, 0x6000, [], 1, 1, .rw, 0⟩,  -- BNK_CTRL.RET_REQ
  ⟨.cluster, 0x6004, [], 0, 2, .ro, 0⟩,  -- BNK_STATE.STATE
  ⟨.cluster, 0x6008, [], 0, 20, .rw, 1000⟩,  -- BNK_SWEEP.INTERVAL
  ⟨.cluster, 0x600C, [], 0, 14, .ro, 0⟩,  -- BNK_SWEEP_POS.REGION
  ⟨.cluster, 0x6010, [], 0, 32, .rc, 0⟩,  -- BNK_CE_CNT.COUNT
  ⟨.cluster, 0x6014, [], 0, 32, .rc, 0⟩,  -- BNK_UE_CNT.COUNT
  ⟨.cluster, 0x6018, [], 0, 24, .ro, 0⟩,  -- BNK_UE_ADDR.OFFSET
  ⟨.cluster, 0x601C, [], 0, 9, .ro, 0⟩,  -- BNK_REPAIRS.USED
  ⟨.cluster, 0x601C, [], 16, 9, .ro, 0⟩,  -- BNK_REPAIRS.BAD
  ⟨.cluster, 0x6020, [], 0, 32, .rc, 0⟩,  -- BNK_SWEEPS.COUNT
  ⟨.cluster, 0x6024, [], 0, 32, .rc, 0⟩]  -- BNK_WAKES.COUNT

/-- Rows of Table 8.10 in the die window. -/
def regsT8_10_die : List FSpec := [
  ⟨.die, 0x1000, [], 0, 32, .rc, 0⟩,  -- BNK_MA_WAITS.COUNT
  ⟨.die, 0x1004, [], 0, 32, .rc, 0⟩,  -- BNK_MA_ABORTS.COUNT
  ⟨.die, 0x1008, [], 0, 4, .ro, 0⟩,  -- BNK_MA_LAST.CODE
  ⟨.die, 0x1008, [], 4, 6, .ro, 0⟩]  -- BNK_MA_LAST.GROUP

/-- Rows of Table 8.11 in the die window. -/
def regsT8_11_die : List FSpec := [
  ⟨.die, 0x0, [], 0, 2, .ro, 0⟩,  -- LPC_CFG.RATE
  ⟨.die, 0x4, [], 0, 16, .ro, 0⟩,  -- LPC_STATUS.TRAINED
  ⟨.die, 0x4, [], 16, 16, .ro, 0⟩,  -- LPC_STATUS.SREF
  ⟨.die, 0x8, [], 0, 1, .rw, 1⟩,  -- LPC_SCRUB.EN
  ⟨.die, 0x8, [], 1, 8, .rw, 24⟩,  -- LPC_SCRUB.PERIOD
  ⟨.die, 0xC, [], 0, 22, .ro, 0⟩,  -- LPC_SCRUB_POS.BLOCK
  ⟨.die, 0x10, [], 0, 32, .rc, 0⟩,  -- LPC_CE_CNT.COUNT
  ⟨.die, 0x14, [], 0, 32, .rc, 0⟩,  -- LPC_UE_CNT.COUNT
  ⟨.die, 0x18, [], 0, 32, .ro, 0⟩,  -- LPC_UE_ADDR_LO.ADDR
  ⟨.die, 0x1C, [], 0, 16, .ro, 0⟩,  -- LPC_UE_ADDR_HI.ADDR
  ⟨.die, 0x20, [], 0, 32, .ro, 0⟩,  -- LPC_REFMULT.MULT
  ⟨.die, 0x24, [], 0, 32, .rc, 0⟩,  -- LPC_ZQ_CNT.COUNT
  ⟨.die, 0x28, [], 0, 16, .ro, 0⟩]  -- LPC_TRAIN_MS.MS

/-- Rows of Table 9.9 in the cluster window. -/
def regsT9_9_cluster : List FSpec := [
  ⟨.cluster, 0x2000, [(256, 16)], 0, 2, .rw, 0⟩,  -- MVR_CHn_CFG.PRIO
  ⟨.cluster, 0x2000, [(256, 16)], 2, 3, .rw, 0⟩,  -- MVR_CHn_CFG.RETRY
  ⟨.cluster, 0x2000, [(256, 16)], 5, 4, .rw, 15⟩,  -- MVR_CHn_CFG.PLAN
  ⟨.cluster, 0x2004, [(256, 16)], 0, 1, .wo, 0⟩,  -- MVR_CHn_CTRL.ABORT
  ⟨.cluster, 0x2008, [(256, 16)], 4, 28, .rw, 0⟩,  -- MVR_CHn_ARM_LO.ADDR
  ⟨.cluster, 0x200C, [(256, 16)], 0, 16, .rw, 0⟩,  -- MVR_CHn_ARM_HI.ADDR
  ⟨.cluster, 0x200C, [(256, 16)], 16, 6, .rw, 0⟩,  -- MVR_CHn_ARM_HI.NINSTR
  ⟨.cluster, 0x2010, [(256, 16)], 0, 3, .ro, 0⟩,  -- MVR_CHn_STATUS.STATE
  ⟨.cluster, 0x2010, [(256, 16)], 3, 1, .ro, 0⟩,  -- MVR_CHn_STATUS.PENDING
  ⟨.cluster, 0x2010, [(256, 16)], 4, 1, .w1c, 0⟩,  -- MVR_CHn_STATUS.OVERRUN
  ⟨.cluster, 0x2010, [(256, 16)], 5, 1, .w1c, 0⟩,  -- MVR_CHn_STATUS.INT
  ⟨.cluster, 0x2010, [(256, 16)], 6, 4, .ro, 0⟩,  -- MVR_CHn_STATUS.CAUSE
  ⟨.cluster, 0x2010, [(256, 16)], 10, 6, .ro, 0⟩,  -- MVR_CHn_STATUS.PC
  ⟨.cluster, 0x2010, [(256, 16)], 16, 1, .ro, 0⟩,  -- MVR_CHn_STATUS.HELD
  ⟨.cluster, 0x2014, [(256, 16)], 6, 26, .rw, 0⟩,  -- MVR_CHn_STADDR_LO.ADDR
  ⟨.cluster, 0x2018, [(256, 16)], 0, 16, .rw, 0⟩,  -- MVR_CHn_STADDR_HI.ADDR
  ⟨.cluster, 0x201C, [(256, 16)], 0, 32, .ro, 0⟩,  -- MVR_CHn_EVT.PEND
  ⟨.cluster, 0x2020, [(256, 16)], 0, 32, .rc, 0⟩,  -- MVR_CHn_BURSTS.COUNT
  ⟨.cluster, 0x2024, [(256, 16)], 0, 32, .rc, 0⟩,  -- MVR_CHn_RETRIES.COUNT
  ⟨.cluster, 0x2028, [(256, 16)], 0, 32, .rc, 0⟩,  -- MVR_CHn_OVR_CNT.COUNT
  ⟨.cluster, 0x2040, [(256, 16), (4, 8)], 0, 32, .ro, 0⟩]  -- MVR_CHn_SWi

/-- Rows of Table 9.9 in the hub window. -/
def regsT9_9_hub : List FSpec := [
  ⟨.hub, 0x50000, [(256, 32)], 0, 2, .rw, 0⟩,  -- MVR_CHn_CFG.PRIO
  ⟨.hub, 0x50000, [(256, 32)], 2, 3, .rw, 0⟩,  -- MVR_CHn_CFG.RETRY
  ⟨.hub, 0x50000, [(256, 32)], 5, 4, .rw, 15⟩,  -- MVR_CHn_CFG.PLAN
  ⟨.hub, 0x50004, [(256, 32)], 0, 1, .wo, 0⟩,  -- MVR_CHn_CTRL.ABORT
  ⟨.hub, 0x50008, [(256, 32)], 4, 28, .rw, 0⟩,  -- MVR_CHn_ARM_LO.ADDR
  ⟨.hub, 0x5000C, [(256, 32)], 0, 16, .rw, 0⟩,  -- MVR_CHn_ARM_HI.ADDR
  ⟨.hub, 0x5000C, [(256, 32)], 16, 6, .rw, 0⟩,  -- MVR_CHn_ARM_HI.NINSTR
  ⟨.hub, 0x50010, [(256, 32)], 0, 3, .ro, 0⟩,  -- MVR_CHn_STATUS.STATE
  ⟨.hub, 0x50010, [(256, 32)], 3, 1, .ro, 0⟩,  -- MVR_CHn_STATUS.PENDING
  ⟨.hub, 0x50010, [(256, 32)], 4, 1, .w1c, 0⟩,  -- MVR_CHn_STATUS.OVERRUN
  ⟨.hub, 0x50010, [(256, 32)], 5, 1, .w1c, 0⟩,  -- MVR_CHn_STATUS.INT
  ⟨.hub, 0x50010, [(256, 32)], 6, 4, .ro, 0⟩,  -- MVR_CHn_STATUS.CAUSE
  ⟨.hub, 0x50010, [(256, 32)], 10, 6, .ro, 0⟩,  -- MVR_CHn_STATUS.PC
  ⟨.hub, 0x50010, [(256, 32)], 16, 1, .ro, 0⟩,  -- MVR_CHn_STATUS.HELD
  ⟨.hub, 0x50014, [(256, 32)], 6, 26, .rw, 0⟩,  -- MVR_CHn_STADDR_LO.ADDR
  ⟨.hub, 0x50018, [(256, 32)], 0, 16, .rw, 0⟩,  -- MVR_CHn_STADDR_HI.ADDR
  ⟨.hub, 0x5001C, [(256, 32)], 0, 32, .ro, 0⟩,  -- MVR_CHn_EVT.PEND
  ⟨.hub, 0x50020, [(256, 32)], 0, 32, .rc, 0⟩,  -- MVR_CHn_BURSTS.COUNT
  ⟨.hub, 0x50024, [(256, 32)], 0, 32, .rc, 0⟩,  -- MVR_CHn_RETRIES.COUNT
  ⟨.hub, 0x50028, [(256, 32)], 0, 32, .rc, 0⟩,  -- MVR_CHn_OVR_CNT.COUNT
  ⟨.hub, 0x50040, [(256, 32), (4, 8)], 0, 32, .ro, 0⟩]  -- MVR_CHn_SWi

/-- Rows of Table 9.10 in the hub window. -/
def regsT9_10_hub : List FSpec := [
  ⟨.hub, 0x40000, [(256, 128)], 0, 4, .rw, 15⟩,  -- FIF_CFG.SIZE
  ⟨.hub, 0x40000, [(256, 128)], 4, 2, .rw, 0⟩,  -- FIF_CFG.ELEM
  ⟨.hub, 0x40000, [(256, 128)], 6, 2, .rw, 0⟩,  -- FIF_CFG.SRC
  ⟨.hub, 0x40000, [(256, 128)], 8, 2, .rw, 0⟩,  -- FIF_CFG.MRRS
  ⟨.hub, 0x40000, [(256, 128)], 10, 1, .rw, 0⟩,  -- FIF_CFG.READER
  ⟨.hub, 0x40004, [(256, 128)], 0, 17, .rw, 0⟩,  -- FIF_LEVEL.BYTES
  ⟨.hub, 0x40008, [(256, 128)], 0, 17, .rw, 64⟩,  -- FIF_ADMIT.BYTES
  ⟨.hub, 0x4000C, [(256, 128)], 0, 17, .ro, 0⟩,  -- FIF_STATUS.OCC
  ⟨.hub, 0x4000C, [(256, 128)], 17, 1, .ro, 0⟩,  -- FIF_STATUS.OPEN
  ⟨.hub, 0x4000C, [(256, 128)], 18, 1, .w1c, 0⟩,  -- FIF_STATUS.LVL_INT
  ⟨.hub, 0x4000C, [(256, 128)], 19, 1, .w1c, 0⟩,  -- FIF_STATUS.OVF
  ⟨.hub, 0x4000C, [(256, 128)], 20, 1, .w1c, 0⟩,  -- FIF_STATUS.ERR
  ⟨.hub, 0x4000C, [(256, 128)], 21, 1, .w1c, 0⟩,  -- FIF_STATUS.PULL_ERR
  ⟨.hub, 0x40010, [(256, 128)], 0, 27, .ro, 0⟩,  -- FIF_REMAIN.BYTES
  ⟨.hub, 0x40014, [(256, 128)], 0, 7, .ro, 0⟩,  -- FIF_LASTV.VALID
  ⟨.hub, 0x40018, [(256, 128)], 0, 17, .ro, 65536⟩,  -- FIF_FREE.BYTES
  ⟨.hub, 0x4001C, [(256, 128)], 0, 32, .rc, 0⟩,  -- FIF_FRAMES.COUNT
  ⟨.hub, 0x40020, [(256, 128)], 0, 32, .rc, 0⟩,  -- FIF_BYTES.COUNT
  ⟨.hub, 0x40024, [(256, 128)], 0, 32, .rc, 0⟩,  -- FIF_DROPS.COUNT
  ⟨.hub, 0x40080, [(256, 128), (4, 32)], 0, 32, .wo, 0⟩]  -- FIF_DATA

/-- Rows of Table 9.11 in the hub window. -/
def regsT9_11_hub : List FSpec := [
  ⟨.hub, 0x48000, [(1024, 8)], 0, 3, .rw, 0⟩,  -- FIF_FDp_CTRL.NT
  ⟨.hub, 0x48000, [(1024, 8)], 3, 1, .rw, 0⟩,  -- FIF_FDp_CTRL.HDR
  ⟨.hub, 0x48004, [(1024, 8)], 0, 7, .ro, 0⟩,  -- FIF_FDp_STATUS.SLOT
  ⟨.hub, 0x48004, [(1024, 8)], 7, 1, .ro, 0⟩,  -- FIF_FDp_STATUS.BUSY
  ⟨.hub, 0x48004, [(1024, 8)], 8, 3, .ro, 0⟩,  -- FIF_FDp_STATUS.TARGET
  ⟨.hub, 0x48004, [(1024, 8)], 11, 1, .ro, 0⟩,  -- FIF_FDp_STATUS.STARVED
  ⟨.hub, 0x48008, [(1024, 8)], 0, 12, .ro, 0⟩,  -- FIF_FDp_EPOCH.EPOCH
  ⟨.hub, 0x4800C, [(1024, 8)], 0, 32, .rc, 0⟩,  -- FIF_FDp_WORDS.COUNT
  ⟨.hub, 0x48010, [(1024, 8)], 0, 32, .rc, 0⟩,  -- FIF_FDp_STARVE.NS
  ⟨.hub, 0x48040, [(1024, 8), (32, 8)], 0, 6, .rw, 0⟩,  -- FIF_FDt_PORT.PORT
  ⟨.hub, 0x48040, [(1024, 8), (32, 8)], 6, 5, .rw, 0⟩,  -- FIF_FDt_PORT.RT
  ⟨.hub, 0x48040, [(1024, 8), (32, 8)], 11, 5, .rw, 0⟩,  -- FIF_FDt_PORT.CRT
  ⟨.hub, 0x48040, [(1024, 8), (32, 8)], 16, 7, .rw, 0⟩,  -- FIF_FDt_PORT.DEPTH
  ⟨.hub, 0x48044, [(1024, 8), (32, 8)], 0, 16, .rw, 0⟩,  -- FIF_FDt_RANGE.FIRST
  ⟨.hub, 0x48044, [(1024, 8), (32, 8)], 16, 7, .rw, 0⟩,  -- FIF_FDt_RANGE.COUNT
  ⟨.hub, 0x48048, [(1024, 8), (32, 8)], 0, 12, .rw, 0⟩,  -- FIF_FDt_BUF.SIZE
  ⟨.hub, 0x4804C, [(1024, 8), (32, 8)], 0, 7, .ro, 0⟩,  -- FIF_FDt_STATUS.OCC
  ⟨.hub, 0x48050, [(1024, 8), (32, 8)], 0, 32, .rc, 0⟩]  -- FIF_FDt_BUFS.COUNT

/-- Rows of Table 11.4 in the hub window. -/
def regsT11_4_hub : List FSpec := [
  ⟨.hub, 0x0, [], 0, 16, .ro, 0⟩,  -- MBX_ID.MINOR
  ⟨.hub, 0x0, [], 16, 16, .ro, 1⟩,  -- MBX_ID.MAJOR
  ⟨.hub, 0x4, [], 0, 1, .ro, 0⟩,  -- MBX_STATUS.READY
  ⟨.hub, 0x4, [], 1, 1, .ro, 0⟩,  -- MBX_STATUS.BOOTFAIL
  ⟨.hub, 0x4, [], 2, 1, .ro, 0⟩,  -- MBX_STATUS.HOSTBOOT
  ⟨.hub, 0x4, [], 3, 1, .ro, 0⟩,  -- MBX_STATUS.RESETTING
  ⟨.hub, 0x4, [], 4, 1, .w1c, 0⟩,  -- MBX_STATUS.RING_ERR
  ⟨.hub, 0x4, [], 5, 1, .ro, 1⟩,  -- MBX_STATUS.HEAD
  ⟨.hub, 0x4, [], 6, 6, .ro, 0⟩,  -- MBX_STATUS.DEVNUM
  ⟨.hub, 0x8, [], 0, 32, .ro, 0⟩,  -- MBX_FWVER.VERSION
  ⟨.hub, 0xC, [], 0, 32, .ro, 4294967295⟩,  -- MBX_EVT_SEQ.SEQ
  ⟨.hub, 0x18, [], 28, 4, .rw, 0⟩,  -- MBX_BAR2_LO.ADDR
  ⟨.hub, 0x1C, [], 0, 16, .rw, 0⟩,  -- MBX_BAR2_HI.ADDR
  ⟨.hub, 0x20, [], 0, 1, .rw, 0⟩,  -- MBX_BAR2_CTRL.EN
  ⟨.hub, 0x20, [], 1, 1, .rw, 0⟩,  -- MBX_BAR2_CTRL.WEN
  ⟨.hub, 0x40, [(4, 4)], 0, 32, .ro, 0⟩]  -- MBX_FIF_PENDi.SLOTS

/-- Rows of Table 11.5 in the hub window. -/
def regsT11_5_hub : List FSpec := [
  ⟨.hub, 0x1000, [], 0, 32, .rw, 0⟩,  -- MBX_CR_BASE_LO.ADDR
  ⟨.hub, 0x1004, [], 0, 32, .rw, 0⟩,  -- MBX_CR_BASE_HI.ADDR
  ⟨.hub, 0x1008, [], 0, 4, .rw, 0⟩,  -- MBX_CR_CFG.SIZE
  ⟨.hub, 0x1008, [], 4, 1, .rw, 0⟩,  -- MBX_CR_CFG.EN
  ⟨.hub, 0x100C, [], 0, 12, .rw, 0⟩,  -- MBX_CR_TAIL.INDEX
  ⟨.hub, 0x1010, [], 0, 12, .ro, 0⟩,  -- MBX_CR_HEAD.INDEX
  ⟨.hub, 0x1014, [], 0, 32, .rw, 0⟩,  -- MBX_CC_BASE_LO.ADDR
  ⟨.hub, 0x1018, [], 0, 32, .rw, 0⟩,  -- MBX_CC_BASE_HI.ADDR
  ⟨.hub, 0x101C, [], 0, 4, .rw, 0⟩,  -- MBX_CC_CFG.SIZE
  ⟨.hub, 0x101C, [], 4, 1, .rw, 0⟩,  -- MBX_CC_CFG.EN
  ⟨.hub, 0x1020, [], 0, 12, .rw, 0⟩,  -- MBX_CC_HEAD.INDEX
  ⟨.hub, 0x1024, [], 0, 12, .ro, 0⟩,  -- MBX_CC_TAIL.INDEX
  ⟨.hub, 0x1024, [], 12, 1, .ro, 1⟩]  -- MBX_CC_TAIL.PHASE

/-- Rows of Table 11.7 in the hub window. -/
def regsT11_7_hub : List FSpec := [
  ⟨.hub, 0x2000, [(16, 128)], 0, 12, .rw, 0⟩,  -- MBX_FRs_TAIL.INDEX
  ⟨.hub, 0x2004, [(16, 128)], 0, 12, .ro, 0⟩,  -- MBX_FRs_HEAD.INDEX
  ⟨.hub, 0x2008, [(16, 128)], 0, 12, .rw, 0⟩,  -- MBX_RRs_HEAD.INDEX
  ⟨.hub, 0x200C, [(16, 128)], 0, 12, .ro, 0⟩,  -- MBX_RRs_STATUS.TAIL
  ⟨.hub, 0x200C, [(16, 128)], 12, 1, .ro, 1⟩,  -- MBX_RRs_STATUS.PHASE
  ⟨.hub, 0x200C, [(16, 128)], 13, 1, .ro, 0⟩]  -- MBX_RRs_STATUS.BOUND

/-- Rows of Table 12.10 in the cluster window. -/
def regsT12_10_cluster : List FSpec := [
  ⟨.cluster, 0x0, [], 0, 1, .wo, 0⟩,  -- TXU_CTRL.COMMIT
  ⟨.cluster, 0x0, [], 1, 1, .wo, 0⟩,  -- TXU_CTRL.CLEAR
  ⟨.cluster, 0x4, [], 0, 7, .ro, 0⟩,  -- TXU_STATUS.COUNT
  ⟨.cluster, 0x4, [], 7, 3, .ro, 0⟩,  -- TXU_STATUS.STATE
  ⟨.cluster, 0x4, [], 10, 6, .ro, 0⟩,  -- TXU_STATUS.FAIL_IDX
  ⟨.cluster, 0x4, [], 16, 4, .ro, 0⟩,  -- TXU_STATUS.FAIL_WHY
  ⟨.cluster, 0x4, [], 20, 1, .w1c, 0⟩,  -- TXU_STATUS.BUSY_ERR
  ⟨.cluster, 0x8, [], 0, 16, .rw, 0⟩,  -- TXU_GROUP.GID
  ⟨.cluster, 0xC, [], 0, 8, .ro, 255⟩,  -- TXU_DRAINED.CORES
  ⟨.cluster, 0x10, [], 0, 8, .ro, 0⟩,  -- TXU_FENCE.FENCED
  ⟨.cluster, 0x10, [], 8, 8, .w1s, 0⟩,  -- TXU_FENCE.SET
  ⟨.cluster, 0x14, [], 0, 32, .rc, 0⟩,  -- TXU_COMMITS.COUNT
  ⟨.cluster, 0x18, [], 0, 32, .rc, 0⟩,  -- TXU_FAILS.COUNT
  ⟨.cluster, 0x100, [(16, 64), (4, 4)], 0, 32, .rw, 0⟩]  -- TXU_ACT

/-- Rows of Table 12.10 in the hub window. -/
def regsT12_10_hub : List FSpec := [
  ⟨.hub, 0x30000, [], 0, 1, .wo, 0⟩,  -- TXU_CTRL.COMMIT
  ⟨.hub, 0x30000, [], 1, 1, .wo, 0⟩,  -- TXU_CTRL.CLEAR
  ⟨.hub, 0x30004, [], 0, 7, .ro, 0⟩,  -- TXU_STATUS.COUNT
  ⟨.hub, 0x30004, [], 7, 3, .ro, 0⟩,  -- TXU_STATUS.STATE
  ⟨.hub, 0x30004, [], 10, 6, .ro, 0⟩,  -- TXU_STATUS.FAIL_IDX
  ⟨.hub, 0x30004, [], 16, 4, .ro, 0⟩,  -- TXU_STATUS.FAIL_WHY
  ⟨.hub, 0x30004, [], 20, 1, .w1c, 0⟩,  -- TXU_STATUS.BUSY_ERR
  ⟨.hub, 0x30008, [], 0, 16, .rw, 0⟩,  -- TXU_GROUP.GID
  ⟨.hub, 0x3000C, [], 0, 8, .ro, 255⟩,  -- TXU_DRAINED.CORES
  ⟨.hub, 0x30010, [], 0, 8, .ro, 0⟩,  -- TXU_FENCE.FENCED
  ⟨.hub, 0x30010, [], 8, 8, .w1s, 0⟩,  -- TXU_FENCE.SET
  ⟨.hub, 0x30014, [], 0, 32, .rc, 0⟩,  -- TXU_COMMITS.COUNT
  ⟨.hub, 0x30018, [], 0, 32, .rc, 0⟩,  -- TXU_FAILS.COUNT
  ⟨.hub, 0x30100, [(16, 64), (4, 4)], 0, 32, .rw, 0⟩]  -- TXU_ACT

/-- Rows of Table 12.11 in the hub window. -/
def regsT12_11_hub : List FSpec := [
  ⟨.hub, 0x30600, [], 0, 16, .rw, 0⟩,  -- TXU_PART.CLUSTERS
  ⟨.hub, 0x30604, [], 0, 2, .ro, 0⟩,  -- TXU_DECISION.VALUE
  ⟨.hub, 0x30604, [], 2, 16, .ro, 0⟩,  -- TXU_DECISION.VOTES
  ⟨.hub, 0x30810, [(16, 19)], 0, 32, .rw, 0⟩,  -- TXU_INJd_TARGET
  ⟨.hub, 0x30814, [(16, 19)], 0, 16, .rw, 0⟩,  -- TXU_INJd_COUNT
  ⟨.hub, 0x30818, [(16, 19)], 0, 32, .rc, 0⟩]  -- TXU_INJd_FIRED

/-- Rows of Table 13.7 in the hub window. -/
def regsT13_7_hub : List FSpec := [
  ⟨.hub, 0x60000, [(256, 8)], 0, 3, .ro, 0⟩,  -- RLY_Pp_STATUS.STATE
  ⟨.hub, 0x60000, [(256, 8)], 3, 6, .ro, 63⟩,  -- RLY_Pp_STATUS.PEER
  ⟨.hub, 0x60000, [(256, 8)], 9, 3, .ro, 0⟩,  -- RLY_Pp_STATUS.PEERPORT
  ⟨.hub, 0x60004, [(256, 8)], 0, 1, .rw, 1⟩,  -- RLY_Pp_CTRL.EN
  ⟨.hub, 0x60004, [(256, 8)], 1, 1, .wo, 0⟩,  -- RLY_Pp_CTRL.RETRAIN
  ⟨.hub, 0x60008, [(256, 8)], 0, 32, .rc, 0⟩,  -- RLY_Pp_FEC_CE.COUNT
  ⟨.hub, 0x6000C, [(256, 8)], 0, 32, .rc, 0⟩,  -- RLY_Pp_FEC_UE.COUNT
  ⟨.hub, 0x60010, [(256, 8)], 0, 32, .rc, 0⟩,  -- RLY_Pp_REPLAY.COUNT
  ⟨.hub, 0x60014, [(256, 8)], 0, 32, .rc, 0⟩,  -- RLY_Pp_PROTO.COUNT
  ⟨.hub, 0x60018, [(256, 8)], 0, 32, .rc, 0⟩,  -- RLY_Pp_DOWNS.COUNT
  ⟨.hub, 0x60800, [], 0, 6, .ro, 0⟩,  -- RLY_ID.DEVNUM
  ⟨.hub, 0x60800, [], 6, 1, .ro, 0⟩,  -- RLY_ID.HEAD
  ⟨.hub, 0x60800, [], 8, 6, .ro, 0⟩,  -- RLY_ID.NDEV
  ⟨.hub, 0x60804, [(4, 8)], 0, 32, .ro, 4294967295⟩,  -- RLY_ROUTEi.PORTS
  ⟨.hub, 0x60840, [], 0, 16, .ro, 0⟩,  -- RLY_SYNC.OFFSET
  ⟨.hub, 0x60840, [], 16, 1, .ro, 0⟩,  -- RLY_SYNC.LOCKED
  ⟨.hub, 0x60A00, [(8, 8)], 0, 1, .ro, 0⟩,  -- RLY_OUTp_CFG.EN
  ⟨.hub, 0x60A00, [(8, 8)], 1, 6, .ro, 0⟩,  -- RLY_OUTp_CFG.DEV
  ⟨.hub, 0x60A00, [(8, 8)], 7, 7, .ro, 0⟩,  -- RLY_OUTp_CFG.SLOT
  ⟨.hub, 0x60A04, [(8, 8)], 0, 27, .ro, 0⟩,  -- RLY_OUTp_LEN.BYTES
  ⟨.hub, 0x60A40, [(4, 4)], 0, 32, .ro, 0⟩]  -- RLY_TIMEDi.SLOTS

/-- Rows of Table 14.9 in the die window. -/
def regsT14_9_die : List FSpec := [
  ⟨.die, 0x2000, [], 0, 10, .ro, 0⟩,  -- PWR_VMON.MV
  ⟨.die, 0x2004, [], 0, 10, .rc, 1023⟩,  -- PWR_VMIN.MV
  ⟨.die, 0x2008, [], 0, 16, .ro, 0⟩,  -- PWR_TEMP.HOT
  ⟨.die, 0x2008, [], 16, 3, .ro, 0⟩,  -- PWR_TEMP.SENSOR
  ⟨.die, 0x200C, [], 0, 16, .rc, 32768⟩,  -- PWR_TMAX.PEAK
  ⟨.die, 0x2010, [], 0, 1, .ro, 0⟩,  -- PWR_STATUS.SQUALL
  ⟨.die, 0x2010, [], 1, 1, .ro, 0⟩,  -- PWR_STATUS.OVERTEMP
  ⟨.die, 0x2010, [], 2, 1, .ro, 0⟩,  -- PWR_STATUS.SHUTDOWN
  ⟨.die, 0x2010, [], 3, 1, .ro, 0⟩,  -- PWR_STATUS.OFF
  ⟨.die, 0x2014, [], 0, 32, .rc, 0⟩,  -- PWR_SQ_CNT.COUNT
  ⟨.die, 0x2018, [], 0, 32, .rc, 0⟩,  -- PWR_SQ_TIME.US
  ⟨.die, 0x201C, [], 0, 32, .rc, 0⟩]  -- PWR_OT_CNT.COUNT

/-- Rows of Table 14.10 in the hub window. -/
def regsT14_10_hub : List FSpec := [
  ⟨.hub, 0x70000, [], 0, 10, .rw, 700⟩,  -- PWR_SQ_CFG.WARN
  ⟨.hub, 0x70004, [], 0, 8, .rw, 105⟩,  -- PWR_TH_CFG.WARN
  ⟨.hub, 0x70008, [(4, 4)], 0, 10, .rw, 750⟩,  -- PWR_VSETd.MV
  ⟨.hub, 0x70018, [], 0, 4, .ro, 0⟩,  -- PWR_STATE.OFF
  ⟨.hub, 0x70018, [], 4, 4, .ro, 0⟩,  -- PWR_STATE.SHUT
  ⟨.hub, 0x70018, [], 8, 1, .ro, 0⟩,  -- PWR_STATE.STANDBY
  ⟨.hub, 0x70018, [], 9, 1, .ro, 0⟩,  -- PWR_STATE.IDLE
  ⟨.hub, 0x70018, [], 10, 8, .ro, 0⟩,  -- PWR_STATE.HOLDN
  ⟨.hub, 0x7001C, [(4, 4)], 0, 32, .ro, 0⟩,  -- PWR_HOLDn.CORES
  ⟨.hub, 0x7002C, [], 0, 16, .rw, 1000⟩,  -- PWR_WDOG.LIMIT
  ⟨.hub, 0x70030, [], 0, 32, .wo, 0⟩,  -- PWR_WDOG_KICK
  ⟨.hub, 0x70034, [], 0, 4, .ro, 0⟩,  -- PWR_RST.CAUSE
  ⟨.hub, 0x70034, [], 4, 2, .ro, 0⟩,  -- PWR_RST.DIE
  ⟨.hub, 0x70038, [], 0, 32, .rc, 0⟩]  -- PWR_WD_RESTARTS.COUNT

/-- Rows of Table 15.7 in the hub window. -/
def regsT15_7_hub : List FSpec := [
  ⟨.hub, 0x100, [], 0, 8, .ro, 0⟩,  -- MBX_BOOT_STAGE.STAGE
  ⟨.hub, 0x100, [], 8, 2, .ro, 0⟩,  -- MBX_BOOT_STAGE.SRC
  ⟨.hub, 0x104, [], 0, 8, .ro, 0⟩,  -- MBX_BOOT_REASON.SLOT0
  ⟨.hub, 0x104, [], 8, 8, .ro, 0⟩,  -- MBX_BOOT_REASON.SLOT1
  ⟨.hub, 0x104, [], 16, 8, .ro, 0⟩,  -- MBX_BOOT_REASON.HOST
  ⟨.hub, 0x104, [], 24, 8, .ro, 0⟩,  -- MBX_BOOT_REASON.FINAL
  ⟨.hub, 0x108, [], 0, 24, .rw, 0⟩,  -- MBX_HB_LEN.BYTES
  ⟨.hub, 0x10C, [], 0, 1, .wo, 0⟩,  -- MBX_HB_GO.GO
  ⟨.hub, 0x110, [], 0, 16, .ro, 0⟩]  -- MBX_BOOT_MS.MS

/-- Rows of Table 15.13 in the hub window. -/
def regsT15_13_hub : List FSpec := [
  ⟨.hub, 0x80000, [(64, 4), (4, 16)], 0, 32, .ro, 0⟩,  -- SEC_KEYHASHk_i
  ⟨.hub, 0x80100, [], 0, 4, .ro, 0⟩,  -- SEC_FUSE.REVOKE
  ⟨.hub, 0x80100, [], 4, 8, .ro, 0⟩,  -- SEC_FUSE.KEYUSE
  ⟨.hub, 0x80100, [], 12, 7, .ro, 0⟩,  -- SEC_FUSE.SVN
  ⟨.hub, 0x80104, [], 0, 32, .ro, 0⟩,  -- SEC_POLICY.WORD
  ⟨.hub, 0x80108, [(4, 4)], 0, 32, .ro, 0⟩,  -- SEC_SERIALi
  ⟨.hub, 0x80118, [], 0, 1, .ro, 0⟩,  -- SEC_STATUS.IDENT
  ⟨.hub, 0x80118, [], 1, 2, .ro, 0⟩,  -- SEC_STATUS.KEYSLOT
  ⟨.hub, 0x80118, [], 3, 1, .ro, 0⟩,  -- SEC_STATUS.UNVERIFIED
  ⟨.hub, 0x8011C, [], 0, 32, .rc, 0⟩]  -- SEC_QUOTES.COUNT

/-- Rows of Table 16.3 in the hub window. -/
def regsT16_3_hub : List FSpec := [
  ⟨.hub, 0x90000, [], 0, 1, .ro, 1⟩,  -- DBG_STATUS.LOCKED
  ⟨.hub, 0x90000, [], 1, 1, .ro, 0⟩,  -- DBG_STATUS.LOCKOUT
  ⟨.hub, 0x90000, [], 2, 1, .ro, 0⟩,  -- DBG_STATUS.CHAL
  ⟨.hub, 0x90000, [], 3, 2, .ro, 0⟩,  -- DBG_STATUS.KEYSLOT
  ⟨.hub, 0x90004, [], 0, 4, .rw, 0⟩,  -- DBG_UART.BAUD
  ⟨.hub, 0x90008, [], 0, 1, .wo, 0⟩,  -- DBG_LOCK.LOCK
  ⟨.hub, 0x9000C, [], 0, 32, .rc, 0⟩,  -- DBG_CMDS.COUNT
  ⟨.hub, 0x90010, [], 0, 32, .rc, 0⟩,  -- DBG_LINEERR.COUNT
  ⟨.hub, 0x90014, [], 0, 32, .rc, 0⟩,  -- DBG_FAILS.COUNT
  ⟨.hub, 0x90018, [], 0, 32, .rc, 0⟩]  -- DBG_UNLOCKS.COUNT

/-- Rows of Table 2.1 in the core window. -/
def regsT2_1_core : List FSpec := [
  ⟨.core, 0x3000, [(256, 16), (4, 64)], 0, 32, .rw, 0⟩,  -- SAG_PROG
  ⟨.core, 0x10000, [(4, 4096)], 0, 32, .rw, 0⟩]  -- SEQ_PROG

/-- Rows of Table 11.3 in the hub window. -/
def regsT11_3_hub : List FSpec := [
  ⟨.hub, 0x4000, [(16, 64)], 0, 32, .rw, 0⟩,  -- MBX_MSIX_ADDR_LO
  ⟨.hub, 0x4004, [(16, 64)], 0, 32, .rw, 0⟩,  -- MBX_MSIX_ADDR_HI
  ⟨.hub, 0x4008, [(16, 64)], 0, 32, .rw, 0⟩,  -- MBX_MSIX_DATA
  ⟨.hub, 0x400C, [(16, 64)], 0, 1, .rw, 1⟩,  -- MBX_MSIX_MASK
  ⟨.hub, 0x4800, [(4, 2)], 0, 32, .ro, 0⟩]  -- MBX_MSIX_PBA

/-- The whole register map. -/
def regMap : List FSpec :=
  regsT1_3_hub ++ regsT1_4_hub ++ regsT2_4_core ++ regsT2_5_core ++
  regsT2_9_core ++ regsT2_10_core ++ regsT3_18_core ++ regsT4_4_core ++
  regsT6_8_cluster ++ regsT7_4_core ++ regsT7_9_core ++ regsT7_10_cluster ++
  regsT7_11_hub ++ regsT8_9_core ++ regsT8_9_cluster ++ regsT8_10_die ++
  regsT8_11_die ++ regsT9_9_cluster ++ regsT9_9_hub ++ regsT9_10_hub ++
  regsT9_11_hub ++ regsT11_4_hub ++ regsT11_5_hub ++ regsT11_7_hub ++
  regsT12_10_cluster ++ regsT12_10_hub ++ regsT12_11_hub ++ regsT13_7_hub ++
  regsT14_9_die ++ regsT14_10_hub ++ regsT15_7_hub ++ regsT15_13_hub ++
  regsT16_3_hub ++ regsT2_1_core ++ regsT11_3_hub

/-- The rows whose reset value is not zero, from regMap; every other register field resets to zero. -/
def regNonzero : List FSpec := [
  ⟨.core, 0x4, [], 3, 1, .ro, 1⟩,  -- SEQ_STATUS.DRAINED
  ⟨.core, 0x1000, [], 0, 1, .ro, 1⟩,  -- STU_STATUS.EMPTY
  ⟨.cluster, 0x3000, [], 0, 10, .ro, 512⟩,  -- RLU_STATUS.FREE
  ⟨.core, 0x8400, [(64, 16)], 21, 8, .rw, 255⟩,  -- STU_HQ_CFG.SRC
  ⟨.core, 0x8120, [(4, 8)], 0, 8, .rw, 255⟩,  -- STU_SINK0
  ⟨.core, 0x8120, [(4, 8)], 8, 8, .rw, 255⟩,  -- STU_SINK1
  ⟨.core, 0x8120, [(4, 8)], 16, 8, .rw, 255⟩,  -- STU_SINK2
  ⟨.core, 0x8120, [(4, 8)], 24, 8, .rw, 255⟩,  -- STU_SINK3
  ⟨.hub, 0x20000, [(64, 8)], 0, 15, .rw, 200⟩,  -- LUL_CTRL.WINDOW
  ⟨.hub, 0x20000, [(64, 8)], 15, 1, .rw, 1⟩,  -- LUL_CTRL.EN
  ⟨.core, 0x6000, [], 0, 1, .rw, 1⟩,  -- BNK_CTRL.SWEEP_EN
  ⟨.cluster, 0x6000, [], 0, 1, .rw, 1⟩,  -- BNK_CTRL.SWEEP_EN
  ⟨.core, 0x6008, [], 0, 20, .rw, 1000⟩,  -- BNK_SWEEP.INTERVAL
  ⟨.cluster, 0x6008, [], 0, 20, .rw, 1000⟩,  -- BNK_SWEEP.INTERVAL
  ⟨.die, 0x8, [], 0, 1, .rw, 1⟩,  -- LPC_SCRUB.EN
  ⟨.die, 0x8, [], 1, 8, .rw, 24⟩,  -- LPC_SCRUB.PERIOD
  ⟨.cluster, 0x2000, [(256, 16)], 5, 4, .rw, 15⟩,  -- MVR_CHn_CFG.PLAN
  ⟨.hub, 0x50000, [(256, 32)], 5, 4, .rw, 15⟩,  -- MVR_CHn_CFG.PLAN
  ⟨.hub, 0x40000, [(256, 128)], 0, 4, .rw, 15⟩,  -- FIF_CFG.SIZE
  ⟨.hub, 0x40008, [(256, 128)], 0, 17, .rw, 64⟩,  -- FIF_ADMIT.BYTES
  ⟨.hub, 0x40018, [(256, 128)], 0, 17, .ro, 65536⟩,  -- FIF_FREE.BYTES
  ⟨.hub, 0x0, [], 16, 16, .ro, 1⟩,  -- MBX_ID.MAJOR
  ⟨.hub, 0x4, [], 5, 1, .ro, 1⟩,  -- MBX_STATUS.HEAD
  ⟨.hub, 0xC, [], 0, 32, .ro, 4294967295⟩,  -- MBX_EVT_SEQ.SEQ
  ⟨.hub, 0x1024, [], 12, 1, .ro, 1⟩,  -- MBX_CC_TAIL.PHASE
  ⟨.hub, 0x200C, [(16, 128)], 12, 1, .ro, 1⟩,  -- MBX_RRs_STATUS.PHASE
  ⟨.cluster, 0xC, [], 0, 8, .ro, 255⟩,  -- TXU_DRAINED.CORES
  ⟨.hub, 0x3000C, [], 0, 8, .ro, 255⟩,  -- TXU_DRAINED.CORES
  ⟨.hub, 0x60000, [(256, 8)], 3, 6, .ro, 63⟩,  -- RLY_Pp_STATUS.PEER
  ⟨.hub, 0x60004, [(256, 8)], 0, 1, .rw, 1⟩,  -- RLY_Pp_CTRL.EN
  ⟨.hub, 0x60804, [(4, 8)], 0, 32, .ro, 4294967295⟩,  -- RLY_ROUTEi.PORTS
  ⟨.die, 0x2004, [], 0, 10, .rc, 1023⟩,  -- PWR_VMIN.MV
  ⟨.die, 0x200C, [], 0, 16, .rc, 32768⟩,  -- PWR_TMAX.PEAK
  ⟨.hub, 0x70000, [], 0, 10, .rw, 700⟩,  -- PWR_SQ_CFG.WARN
  ⟨.hub, 0x70004, [], 0, 8, .rw, 105⟩,  -- PWR_TH_CFG.WARN
  ⟨.hub, 0x70008, [(4, 4)], 0, 10, .rw, 750⟩,  -- PWR_VSETd.MV
  ⟨.hub, 0x7002C, [], 0, 16, .rw, 1000⟩,  -- PWR_WDOG.LIMIT
  ⟨.hub, 0x90000, [], 0, 1, .ro, 1⟩,  -- DBG_STATUS.LOCKED
  ⟨.hub, 0x400C, [(16, 64)], 0, 1, .rw, 1⟩]  -- MBX_MSIX_MASK

end Sys2Proof.Machine
end

