-- ==== Sys2Proof/Syntax.lean ====
section
/-! DEFINITION. The commands of the device: one constructor for each row of the command table, with the unit it acts on
and what it brings from outside (a written value, data fetched from host memory, a sensor reading). A core is named by
its flat number, a cluster by 4 × die + cluster, a port by 0 N, 1 E, 2 S, 3 W. -/

namespace Sys2Proof

/-- A command of the block (the rows of the command table, in the table's order). -/
inductive Instr where
  /-- CR_ENABLE (R401): Host writes MBX_CR_CFG with EN = 1, which enables the command ring and sets its head and tail to 0, or sets RING_ERR if the base or SIZE is bad. -/
  | crEnable (size : BitVec 4)
  /-- CR_DISABLE (R401): Host writes MBX_CR_CFG with EN = 0, which disables the command ring so that its base and size may be rewritten. -/
  | crDisable (size : BitVec 4)
  /-- CC_ENABLE (R401): Host writes MBX_CC_CFG with EN = 1, which enables the completion ring with head and tail at 0 and phase 1. -/
  | ccEnable (size : BitVec 4)
  /-- CC_DISABLE (R401): Host writes MBX_CC_CFG with EN = 0, which disables the completion ring. -/
  | ccDisable (size : BitVec 4)
  /-- CR_TAIL_WRITE (R403): Host rings the command doorbell by writing MBX_CR_TAIL; an index out of range stops the ring. -/
  | crTailWrite (v : BitVec 32)
  /-- CC_HEAD_WRITE (R403): Host writes MBX_CC_HEAD to consume completions, which frees completion entries; an index out of range stops the ring. -/
  | ccHeadWrite (v : BitVec 32)
  /-- COMMAND_TAKE (R404): The steward takes the command at MBX_CR_HEAD once a completion entry is free, and starts it under the rules for serial commands. -/
  | commandTake (got : Option (BitVec 512))
  /-- DEV_INFO (R407): Writes the 256-byte device information record to the host buffer. -/
  | devInfo (k : Nat)
  /-- PLAN_LOAD (R387): Checks, places, relocates and writes a plan image into a plan slot by the load sequence, leaving the slot READY or EMPTY. -/
  | planLoad (k : Nat) (got : List (BitVec 8)) (failAt : Option Nat)
  /-- PLAN_START (R407): Moves a READY plan slot to RUNNING. -/
  | planStart (k : Nat)
  /-- PLAN_STOP (R47): Closes admission of a plan and lets its frames in flight drain to READY, immediately or after the round in progress. -/
  | planStop (k : Nat)
  /-- PLAN_UNLOAD (R391): Releases everything a READY or FAULTED plan slot holds and returns it to EMPTY. -/
  | planUnload (k : Nat)
  /-- STREAM_OPEN (R409): Checks its arguments and binds a stream slot to a plan slot with its FIFO and ring settings. -/
  | streamOpen (k : Nat)
  /-- STREAM_CLOSE (R46): Stops admission for a stream, writes NOTRUN for unadmitted frames, and sends EOF or frees the slot directly. -/
  | streamClose (k : Nat)
  /-- KILN_RUN (R164): Runs the kiln passes of the selected segments through their kiln configurations. -/
  | kilnRun (k : Nat)
  /-- FENCE_CORE (R441): Fences a core and relocates its stage, or reports why no relocation was made. -/
  | fenceCore (k : Nat)
  /-- RESET_DEVICE (R410): Performs a device warm reset or a cluster reset, as SCOPE selects. -/
  | resetDevice (k : Nat)
  /-- POWER_STATE (R562): Enters ACTIVE, HOLD, DIE-OFF or STANDBY, or refuses when a plan holds the resources concerned. -/
  | powerState (k : Nat)
  /-- ATTEST_QUOTE (R521): Writes a quote of the selected measurements, signed under the identity key. -/
  | attestQuote (k : Nat)
  /-- LOG_READ (R407): Copies event records from a given record number into a host buffer. -/
  | logRead (k : Nat)
  /-- INJECT (R449): Arms or disarms a fault injection point, subject to the INJECT policy fuse. -/
  | inject (k : Nat)
  /-- RELAY_TOPOLOGY (R463): Reads, discovers or writes the relay topology record of the chain. -/
  | relayTopology (k : Nat) (net : List (List (BitVec 8))) (got : List (BitVec 8)) (failAt : Option Nat)
  /-- FR_TAIL_WRITE (R412): Host writes a stream's MBX_FRs_TAIL frame doorbell; a write while unbound or out of range is ignored and logged. -/
  | frTailWrite (k : Fin 128) (v : BitVec 32)
  /-- RR_HEAD_WRITE (R412): Host writes a stream's MBX_RRs_HEAD to consume results. -/
  | rrHeadWrite (k : Fin 128) (v : BitVec 32)
  /-- DESCRIPTOR_FETCH (R413): The hub fetches the next frame descriptor once ring, FIFO and result room allow, and opens the frame. -/
  | descriptorFetch (k : Fin 128) (got : Option (List (BitVec 8)))
  /-- BAR2_READ (R400): Host reads device memory or registers through the BAR2 window. -/
  | bar2Read (n : BitVec 28) (len : Fin 4097)
  /-- BAR2_WRITE (R400): Host writes device memory or registers through the BAR2 window, subject to WEN. -/
  | bar2Write (n : BitVec 28) (data : Bytes)
  /-- BAR0_INVALID_ACCESS (R397): A BAR0 access of an illegal width or alignment completes with Completer Abort or is discarded, and AER logs it. -/
  | bar0InvalidAccess (write : Bool)
  /-- FUNCTION_LEVEL_RESET (R501): PCI Express Function Level Reset resets the function, rings, plans and streams. -/
  | functionLevelReset
  /-- HOT_RESET (R501): PCI Express hot reset resets the function like FLR. -/
  | hotReset
  /-- PERST_N_ASSERT (R501): PERST_N goes low and resets everything except power-on-only state. -/
  | perstNAssert (ns : Nat)
  /-- PERST_N_RELEASE (R480): PERST_N is released and the endpoint comes up, answering with retry status until it is ready. -/
  | perstNRelease (bootsel trains : Bool)
  /-- FRAME_ADMISSION (R23): The admission pacer admits a qualifying stream's frame into the first stage and fixes T_sub and T_rel. -/
  | frameAdmission (p : Fin 8)
  /-- ROUND_WINDOW_CLOSE (R43): The admission window of a segmented plan's round closes when its P_BATCH time runs out. -/
  | roundWindowClose (p : Fin 8)
  /-- FRAME_END_REPORT (R154): The hub receives a core's frame-end report carrying the frame's SAT and UFL. -/
  | frameEndReport (k : Nat)
  /-- RESULT_PUBLISH (R433): At T_rel the hub TXU publishes a held result, writing the result entry and freeing the release entry. -/
  | resultPublish
  /-- RESULT_MODERATION_TIMER (R424): MODUS microseconds after the first uncounted result, the result ring raises its vector. -/
  | resultModerationTimer (k : Fin 128)
  /-- OUTPUT_TIMEOUT (R419): 10 ms after T_rel with an output run still incomplete, the result is committed with OUTCUT and LATE. -/
  | outputTimeout (k : Fin 128) (seq : BitVec 32)
  /-- HUB_TOKEN_RECEIVE (R417): A token reaching the hub through a claimed edge port is sorted into credit, EOF, probe or output. -/
  | hubTokenReceive (c : Fin 128) (p : Fin 4) (noise : BitVec 560)
  /-- DRAIN_PROBE_START (R262): Once every core reports DRAINED, the TXU clears SEEN and the cores send EPOCH probes. -/
  | drainProbeStart (p : Fin 8)
  /-- DRAIN_TIMEOUT (R264): A drain not confirmed within 10 ms abandons the switch or close, and the plan enters FAULTED. -/
  | drainTimeout (p : Fin 8)
  /-- TXU_COMMIT (R429): A write of TXU_CTRL.COMMIT commits the staged group, either locally or through the two-phase protocol. -/
  | txuCommit (u : Fin 17)
  /-- TXU_CLEAR (R451): A write of TXU_CTRL.CLEAR discards the staged actions. -/
  | txuClear (u : Fin 17)
  /-- TXU_ACT_WRITE (R451): A write of an action record stages it and extends COUNT, or is refused with BUSY_ERR. -/
  | txuActWrite (u : Fin 17) (j : Fin 64) (k : Fin 4) (v : BitVec 32)
  /-- TXU_FENCE_SET (R439): A write of one to TXU_FENCE.SET fences a core. -/
  | txuFenceSet (u : Fin 17) (mask : BitVec 8)
  /-- TXU_PREPARE (R431): A participant receives PREPARE, checks its staged actions, locks the units they name and votes. -/
  | txuPrepare (u : Fin 16)
  /-- TXU_VOTE (R431): The hub TXU receives a vote and writes COMMIT or ABORT once the votes decide. -/
  | txuVote (k : Nat)
  /-- TXU_VOTE_TIMEOUT (R431): 100 µs after PREPARE without every vote, the hub writes ABORT. -/
  | txuVoteTimeout
  /-- TXU_APPLY (R428): A participant receives COMMIT, applies its actions in staging order and acknowledges. -/
  | txuApply (u : Fin 16)
  /-- TXU_DISCARD (R431): A participant receives ABORT, discards its staged actions and releases its locks. -/
  | txuDiscard (u : Fin 16)
  /-- TXU_ACK (R431): The hub TXU receives the acknowledgements and enters DONE or FAILED. -/
  | txuAck (k : Nat)
  /-- NOP (R69): Sequencer macro-operation that does nothing. -/
  | nop (c : Fin 128)
  /-- CONV (R175): Convolution macro-operation over planar input. -/
  | conv (c : Fin 128)
  /-- WINO (R182): Winograd 3x3 convolution macro-operation. -/
  | wino (c : Fin 128)
  /-- DWCONV (R186): Depthwise or grouped convolution by the diagonal mapping. -/
  | dwconv (c : Fin 128)
  /-- MATMUL (R115): Matrix product macro-operation. -/
  | matmul (c : Fin 128)
  /-- POOL (R190): Max, average or global pooling macro-operation. -/
  | pool (c : Fin 128)
  /-- RESIZE (R193): Nearest or bilinear resize macro-operation. -/
  | resize (c : Fin 128)
  /-- ELTWISE (R118): Element-wise operation in the PPUs. -/
  | eltwise (c : Fin 128)
  /-- REDUCE (R119): Reduction of runs along one axis. -/
  | reduce (c : Fin 128)
  /-- GATHER (R208): Relation-unit gather of rows or of neighbourhoods. -/
  | gather (c : Fin 128)
  /-- SCATTER (R209): Relation-unit scatter add or max into a table. -/
  | scatter (c : Fin 128)
  /-- SEGMENT (R211): Relation-unit segment sum, max or mean. -/
  | segment (c : Fin 128)
  /-- TOPK (R213): Top-k selection over runs. -/
  | topk (c : Fin 128)
  /-- SORT (R214): Stable key sort. -/
  | sort (c : Fin 128)
  /-- KNN (R216): k-nearest-neighbour search. -/
  | knn (c : Fin 128)
  /-- FPS (R217): Farthest-point sampling. -/
  | fps (c : Fin 128)
  /-- BALL (R218): Radius query. -/
  | ball (c : Fin 128)
  /-- COPY (R254): Local copy, or a buffer fill or raw DATA send on a route. -/
  | copy (c : Fin 128)
  /-- HALO (R180): Sends and receives the halo rows at stripe edges. -/
  | halo (c : Fin 128)
  /-- CROP (R196): Crop-and-resize from a box list. -/
  | crop (c : Fin 128)
  /-- S2D (R187): Space-to-depth regrouping. -/
  | s2d (c : Fin 128)
  /-- D2S (R187): Depth-to-space regrouping. -/
  | d2s (c : Fin 128)
  /-- LOADW (R52): Preloads the shadow tiles of the named engines from SAG_B or the gust bus. -/
  | loadw (c : Fin 128)
  /-- KILN (R160): One kiln step that updates each channel's log-scale correction. -/
  | kiln (c : Fin 128)
  /-- WAIT (R252): Pops the head entry of a local queue into its held register once the queue is nonempty. -/
  | wait (c : Fin 128)
  /-- SIGNAL (R252): Sends the held entry as a HANDLE token on a route. -/
  | signal (c : Fin 128)
  /-- RELEASE (R252): Returns the held handle as a credit on a route. -/
  | release (c : Fin 128)
  /-- LOOP (R71): Counted branch of the stage sequencer. -/
  | loop (c : Fin 128)
  /-- JUMP (R69): Sequencer jump to TARGET. -/
  | jump (c : Fin 128)
  /-- BARRIER (R69): Waits until no mover channel or gather issued by the core is outstanding. -/
  | barrier (c : Fin 128)
  /-- END (R72): Ends the frame program after all macro-operations complete, and returns to ENTRY. -/
  | endOp (c : Fin 128)
  /-- MACRO_OP_COMPLETE (R70): An issued macro-operation completes and frees its engines and SAGs. -/
  | macroOpComplete (c : Fin 128) (k : Nat)
  /-- SEQ_EOF_TOKEN (R72): An EOF token routed to the sequencer is acted on once the sequencer is at ENTRY with no frame. -/
  | seqEofToken (c : Fin 128)
  /-- STAGE_WATCHDOG_TICK (R74): On the 1 µs tick the stage watchdog counts, and raises WATCHDOG at LIMIT. -/
  | stageWatchdogTick (c : Fin 128)
  /-- ENGINE_VECTOR (R51): One cell handshake applies an activation vector to the active tile and folds the column results. -/
  | engineVector (c : Fin 128) (e : Fin 8)
  /-- SHADOW_BEAT (R52): One 64-byte weight or exponent beat is loaded into the shadow tile. -/
  | shadowBeat (c : Fin 128) (e : Fin 8)
  /-- SHADOW_SWAP (R52): The shadow tile becomes active once it is complete and the active tile's vector count is met. -/
  | shadowSwap (c : Fin 128) (e : Fin 8)
  /-- PPU_ELEMENT (R110): A PPU post-processes and converts one output element. -/
  | ppuElement (c : Fin 128) (e : Fin 8)
  /-- SAG_STEP (R61): One SAG step delivers or stores a run within a 64-byte word. -/
  | sagStep (c : Fin 128) (n : Fin 16)
  /-- SAG_NOP (R66): Address-program NOP. -/
  | sagNop (c : Fin 128) (n : Fin 16)
  /-- SETI (R66): Address-program instruction that sets A[RD] to an immediate. -/
  | sagSeti (c : Fin 128) (n : Fin 16)
  /-- ADDI (R66): Address-program instruction that adds a signed immediate. -/
  | sagAddi (c : Fin 128) (n : Fin 16)
  /-- ADD (R66): Address-program register add. -/
  | sagAdd (c : Fin 128) (n : Fin 16)
  /-- MODI (R66): Address-program modulo by an immediate. -/
  | sagModi (c : Fin 128) (n : Fin 16)
  /-- EMIT (R66): Address-program access of consecutive elements. -/
  | sagEmit (c : Fin 128) (n : Fin 16)
  /-- EMITZ (R66): Address-program delivery of zero elements, or discard of incoming elements. -/
  | sagEmitz (c : Fin 128) (n : Fin 16)
  /-- SETC (R66): Address-program instruction that sets a loop counter. -/
  | sagSetc (c : Fin 128) (n : Fin 16)
  /-- SAG_LOOP (R66): Address-program counted branch. -/
  | sagLoop (c : Fin 128) (n : Fin 16)
  /-- JMP (R66): Address-program jump. -/
  | sagJmp (c : Fin 128) (n : Fin 16)
  /-- SAG_END (R66): Address-program end of sequence. -/
  | sagEnd (c : Fin 128) (n : Fin 16)
  /-- ENG_SEED_WRITE (R122): A write to ENG_SEED takes effect only while the core is drained, and otherwise sets CFG_BUSY. -/
  | engSeedWrite (c : Fin 128) (e : Fin 8) (v : BitVec 32)
  /-- CORE_CONFIG_WRITE (R84): A core configuration register write takes effect only while the core is drained, and otherwise sets CFG_BUSY. -/
  | coreConfigWrite (c : Fin 128) (off : BitVec 32) (v : BitVec 32)
  /-- HQ_CONFIG_WRITE (R245): A handle-queue configuration write resets the queue to its INIT entries. -/
  | hqConfigWrite (c : Fin 128) (q : Fin 16) (off : BitVec 6) (v : BitVec 32)
  /-- TOKEN_ARRIVE (R236): A link handshake delivers a token to an input port, or refuses it on a CRC mismatch. -/
  | tokenArrive (c : Fin 128) (p : Fin 4) (noise : BitVec 560)
  /-- PASS_THROUGH_FORWARD (R76): A pass-through register forwards a token to the opposite port once there is room. -/
  | passThroughForward (c : Fin 128) (p : Fin 4)
  /-- TOKEN_STEER (R82): The steering unit takes a token, checks its epoch and type, and acts by its route entry. -/
  | tokenSteer (c : Fin 128) (src : Fin 5)
  /-- JOIN_FIRE (R82): A pending DATA token fires under its armed route and is delivered to its destination. -/
  | joinFire (c : Fin 128) (r : Fin 32)
  /-- GUST_FEED_WRITE (R259): A 64-byte write places one beat in a gust channel's feed buffer once it has room. -/
  | gustFeedWrite (cl : Fin 16) (ch : Fin 8) (off : BitVec 12) (data : List (BitVec 8))
  /-- GUST_BEAT (R260): A beat is multicast to every subscribing core once all have room. -/
  | gustBeat (cl : Fin 16) (ch : Fin 8)
  /-- LULL_TICK (R269): On each 1 µs tick the lull detector looks for closed wait cycles that have aged past the window. -/
  | lullTick (p : Fin 8)
  /-- SPILL_COMPLETE (R273): The spill of the victim's newest entries to the cellar completes and their handles return as credits. -/
  | spillComplete (cl : Fin 16)
  /-- ROTATION_COMPLETE (R274): A cellar rotation finishes and the head entry is pushed. -/
  | rotationComplete (cl : Fin 16)
  /-- REFILL_COMPLETE (R274): A cellar refill into a released buffer finishes and its entry is pushed. -/
  | refillComplete (cl : Fin 16)
  /-- RLU_ACCEPT (R198): The relation unit accepts an operation once it has room and enough free gather slots. -/
  | rluAccept (cl : Fin 16)
  /-- RLU_GATHER_ISSUE (R199): The relation unit issues one gather handshake in round-robin order. -/
  | rluGatherIssue (cl : Fin 16)
  /-- RLU_GATHER_RETURN (R220): A gathered row returns and is combined or placed. -/
  | rluGatherReturn (cl : Fin 16) (k : Nat) (j : Nat)
  /-- OVERFLOW_PASS (R225): After the main pass, GATHER NBR works its overflow lane within its budget. -/
  | overflowPass (cl : Fin 16) (k : Nat)
  /-- RLU_OP_COMPLETE (R202): A relation operation completes, writes its history pairs and frees its slots. -/
  | rluOpComplete (cl : Fin 16) (k : Nat)
  /-- ABORT_NOTICE (R435): A core latches an abort notice and the frame runs dark; a full latch stops the plan. -/
  | abortNotice (c : Fin 128) (k : Nat)
  /-- ABORT_HISTORY_INVALIDATE (R434): The steward invalidates history pairs written by an aborted frame. -/
  | abortHistoryInvalidate (k : Nat)
  /-- MVR_ARM (R317): A write to MVR_CHn_ARM_HI starts, latches or overruns a mover program. -/
  | mvrArm (u : Fin 17) (n : Fin 32) (v : BitVec 32)
  /-- MVR_ABORT (R336): A write of MVR_CHn_CTRL.ABORT halts the channel with CAUSE 1. -/
  | mvrAbort (u : Fin 17) (n : Fin 32)
  /-- MVR_BURST (R327): The mover completes one burst of up to 256 bytes for a ready channel, retrying on a bus error. -/
  | mvrBurst (u : Fin 17)
  /-- MVR_NOP (R319): Mover NOP instruction. -/
  | mvrNop (u : Fin 17) (n : Fin 32)
  /-- MOVE (R321): Mover copy of 64-byte units. -/
  | mvrMove (u : Fin 17) (n : Fin 32)
  /-- MOVE2D (R321): Mover two-dimensional copy, on B0 only. -/
  | mvrMove2d (u : Fin 17) (n : Fin 32)
  /-- MVR_LOOP (R322): Mover counted loop with offset increments. -/
  | mvrLoop (u : Fin 17) (n : Fin 32)
  /-- MVR_WAIT (R323): Mover wait for an event line or a queue entry. -/
  | mvrWait (u : Fin 17) (n : Fin 32)
  /-- MVR_SIGNAL (R324): Mover event pulse, or push of the held entry. -/
  | mvrSignal (u : Fin 17) (n : Fin 32)
  /-- MVR_END (R325): Mover end, which waits for its writes and pulses its event line. -/
  | mvrEnd (u : Fin 17) (n : Fin 32)
  /-- FIF_APERTURE_WRITE (R342): Host push write into a FIFO's write aperture. -/
  | fifApertureWrite (k : Fin 128) (off : BitVec 7) (data : List (BitVec 8))
  /-- FIF_CONFIG_WRITE (R349): A write of FIF_CFG, LEVEL or ADMIT takes effect only while the slot is unbound. -/
  | fifConfigWrite (k : Fin 128) (j : Fin 3) (v : BitVec 32)
  /-- PULL_REQUEST (R343): The hub issues a pull read once reserved free space covers it. -/
  | pullRequest (k : Fin 128)
  /-- PULL_COMPLETION (R343): A pull completion is placed in its reserved space, or aborts the frame. -/
  | pullCompletion (k : Fin 128) (j : Nat) (data : Option (List (BitVec 8)))
  /-- PULL_TIMEOUT (R343): A pull request's completion timeout aborts the frame with PULL_ERR. -/
  | pullTimeout (k : Fin 128) (j : Nat)
  /-- FEEDER_BUFFER_START (R352): The feeder pops a credit and sends the CONTROL token of the next buffer. -/
  | feederBufferStart (p : Fin 8)
  /-- FEEDER_WORD (R356): The feeder reads a FIFO word and sends it as a DATA token. -/
  | feederWord (p : Fin 8)
  /-- FEEDER_EOF (R355): The feeder sends a stream's EOF on every target behind its last buffer. -/
  | feederEof (p : Fin 8)
  /-- BANK_SWEEP_CLAIM (R292): The sweep claims the next region once per interval. -/
  | bankSweepClaim (d : Fin 4) (g : Fin 36)
  /-- SWEEP_REGION_DONE (R293): The march test of a region completes, restoring or remapping it. -/
  | sweepRegionDone (d : Fin 4) (g : Fin 36) (pass : Bool)
  /-- RETENTION_REQUEST (R290): A write of one to BNK_CTRL.RET_REQ requests retention of the group. -/
  | retentionRequest (d : Fin 4) (g : Fin 36)
  /-- WAKE_REQUEST (R290): A write of zero to BNK_CTRL.RET_REQ requests wake of the group. -/
  | wakeRequest (d : Fin 4) (g : Fin 36)
  /-- RETENTION_ENTRY_DONE (R290): The group completes its entry into retention. -/
  | retentionEntryDone (d : Fin 4) (g : Fin 36)
  /-- WAKE_DONE (R290): 20 µs after the wake request, the group accepts accesses again. -/
  | wakeDone (d : Fin 4) (g : Fin 36)
  /-- MAINTENANCE_GRANT (R298): The maintenance arbiter grants a waiting activity on a group. -/
  | maintenanceGrant (d : Fin 4) (g : Fin 52)
  /-- LPDDR_REFRESH (R301): An all-bank refresh falls due and takes the channel. -/
  | lpddrRefresh (d : Fin 4) (c : Fin 16)
  /-- ZQ_CALIBRATION (R307): A channel's 128 ms ZQ calibration falls due. -/
  | zqCalibration (d : Fin 4) (c : Fin 16)
  /-- DQS_OSC_CHECK (R307): A channel's 64 ms DQS oscillator check falls due. -/
  | dqsOscCheck (d : Fin 4) (c : Fin 16)
  /-- PATROL_SCRUB_STEP (R309): The patrol scrub reads and corrects one block. -/
  | patrolScrubStep (d : Fin 4) (c : Fin 16)
  /-- MR4_POLL (R306): The 1 ms read of mode register 4 sets the refresh multiplier. -/
  | mr4Poll (d : Fin 4) (c : Fin 16) (rate : BitVec 3)
  /-- POR_N_ASSERT (R501): POR_N goes low and resets everything. -/
  | porNAssert (ns : Nat)
  /-- POR_N_RELEASE (R478): POR_N is released and the boot ROM starts. -/
  | porNRelease (bootsel trains : Bool)
  /-- HOST_BOOT_GO (R515): A write of MBX_HB_GO starts verification of the host-written firmware. -/
  | hostBootGo
  /-- FIRMWARE_VERIFIED (R516): Verification of a firmware image completes, and the steward starts or the failure is recorded. -/
  | firmwareVerified (flash : List (BitVec 8)) (fail0 fail1 : Bool) (identRec : Option (List (BitVec 8) × List (BitVec 8)))
  /-- MEMORY_TRAINING_DONE (R305): LPDDR4X training completes and READY is set, or BOOTFAIL with reason 15. -/
  | memoryTrainingDone (trained ms : BitVec 64) (rate : Fin 3) (net : List (List (BitVec 8)))
  /-- SQUALL_BEGIN (R486): The warning comparator asserts: admission is held and frames in flight are flagged LATE-RISK. -/
  | squallBegin (d : Fin 4)
  /-- VDD_MONITOR_SAMPLE (R485): The 1 µs reading of a die's VDD_CORE monitor. -/
  | vddMonitorSample (d : Fin 4) (mv : BitVec 10)
  /-- SQUALL_END (R487): After 50 µs of readings above the warning level, the squall ends and is logged. -/
  | squallEnd (d : Fin 4)
  /-- BROWN_OUT (R490): VDD_CORE falls below 0.600 V and causes a device warm reset. -/
  | brownOut (d : Fin 4) (below : BitVec 4)
  /-- DIE_BROWNOUT_RECOVERY (R490): A die held in reset after a brown-out leaves it after 50 µs of good readings. -/
  | dieBrownoutRecovery (d : Fin 4)
  /-- TEMP_SAMPLE (R485): The 100 µs reading of the temperature sensors. -/
  | tempSample (d : Fin 5) (w : BitVec 128)
  /-- OVERTEMP_END (R492): After 1 ms below WARN − 3 °C the notice ends and is logged. -/
  | overtempEnd (d : Fin 4)
  /-- DIE_HEAT_RECOVERY (R493): A die shut down for heat is powered again once every sensor reads below 95 °C. -/
  | dieHeatRecovery (d : Fin 4)
  /-- PMBUS_POLL (R482): The 10 ms telemetry and STATUS_WORD poll of each regulator. -/
  | pmbusPoll (addr : BitVec 7) (status : BitVec 16)
  /-- PMB_ALERT (R546): An assertion of PMB_ALERT_N starts an immediate STATUS_WORD poll. -/
  | pmbAlert (answers : List (BitVec 7 × BitVec 16))
  /-- VSET_WRITE (R483): A write of PWR_VSETd sends a clamped VDD_CORE target over AVSBus. -/
  | vsetWrite (d : Fin 4) (mv : BitVec 10)
  /-- STEWARD_WATCHDOG_EXPIRY (R502): The steward watchdog expires and the steward is restarted, or a second expiry causes a warm reset. -/
  | stewardWatchdogExpiry
  /-- WDOG_KICK (R502): A write of PWR_WDOG_KICK restarts the steward watchdog. -/
  | wdogKick
  /-- FLUSH_SETTLE_END (R441): The 100 µs settle time of a relocation flush ends. -/
  | flushSettleEnd (p : Fin 8)
  /-- RLY_PORT_ENABLE (R459): A write of RLY_Pp_CTRL.EN = 1 moves the port from DOWN to DETECT. -/
  | rlyPortEnable (p : Fin 8)
  /-- RLY_PORT_DISABLE (R459): A write of RLY_Pp_CTRL.EN = 0 takes the port DOWN. -/
  | rlyPortDisable (p : Fin 8)
  /-- RLY_RETRAIN (R459): A write of RLY_Pp_CTRL.RETRAIN sends the port back to DETECT. -/
  | rlyRetrain (p : Fin 8)
  /-- RLY_SIGNAL_DETECT (R459): Signal is detected on all four lanes and the port enters TRAIN. -/
  | rlySignalDetect (p : Fin 8)
  /-- RLY_TRAINING_DONE (R459): All four lanes complete training and the port enters LOCK. -/
  | rlyTrainingDone (p : Fin 8)
  /-- RLY_TRAINING_TIMEOUT (R459): After 500 ms of training the port returns to DETECT. -/
  | rlyTrainingTimeout (p : Fin 8)
  /-- RLY_LOCK_DONE (R459): FEC lock, deskew and flit alignment complete and the port enters ID. -/
  | rlyLockDone (p : Fin 8)
  /-- RLY_LOCK_TIMEOUT (R459): Lock not achieved within 100 µs returns the port to DETECT. -/
  | rlyLockTimeout (p : Fin 8)
  /-- IDLE_FLIT (R456): Receipt of an IDLE flit carrying credits and ACK. -/
  | idleFlit (p : Fin 8) (w : BitVec 2048) (ce : BitVec 4)
  /-- TRAIN_FLIT (R460): Receipt of a TRAIN flit during ID, which moves the port to UP or keeps it in ID. -/
  | trainFlit (p : Fin 8) (w : BitVec 2048) (ce : BitVec 4)
  /-- SYNC_FLIT (R474): Receipt of a SYNC flit, which corrects the time base toward the head's. -/
  | syncFlit (p : Fin 8) (w : BitVec 2048) (ce : BitVec 4)
  /-- CMD_FLIT (R465): Receipt of a forwarded command for execution on this module. -/
  | cmdFlit (p : Fin 8) (w : BitVec 2048) (ce : BitVec 4)
  /-- CPL_FLIT (R465): Receipt of a forwarded completion, which the head writes into its completion ring. -/
  | cplFlit (p : Fin 8) (w : BitVec 2048) (ce : BitVec 4)
  /-- FCRED_FLIT (R470): Receipt of a FIFO space grant for a relay stream. -/
  | fcredFlit (p : Fin 8) (w : BitVec 2048) (ce : BitVec 4)
  /-- MRD_FLIT (R466): The head receives a proxied host read request. -/
  | mrdFlit (p : Fin 8) (w : BitVec 2048) (ce : BitVec 4) (got : Option (List (BitVec 8)))
  /-- MWR_FLIT (R466): The head receives a proxied host write. -/
  | mwrFlit (p : Fin 8) (w : BitVec 2048) (ce : BitVec 4)
  /-- IRQ_FLIT (R466): The head receives an interrupt to send as MSI-X. -/
  | irqFlit (p : Fin 8) (w : BitVec 2048) (ce : BitVec 4)
  /-- MCPL_FLIT (R466): Receipt of read data or a failure for a proxied host read. -/
  | mcplFlit (p : Fin 8) (w : BitVec 2048) (ce : BitVec 4)
  /-- FHDR_FLIT (R469): Receipt of a relay frame header, which announces and opens a frame. -/
  | fhdrFlit (p : Fin 8) (w : BitVec 2048) (ce : BitVec 4)
  /-- FDATA_FLIT (R470): Receipt of relay frame data appended to the open frame. -/
  | fdataFlit (p : Fin 8) (w : BitVec 2048) (ce : BitVec 4)
  /-- FEND_FLIT (R472): Receipt of a relay frame end carrying the upstream result flags. -/
  | fendFlit (p : Fin 8) (w : BitVec 2048) (ce : BitVec 4)
  /-- FLIT_CORRUPT (R458): A flit that fails its CRC or FEC is discarded and NAK is set. -/
  | flitCorrupt (p : Fin 8) (ue : Bool)
  /-- REPLAY_TIMEOUT (R458): No ACK for 1 µs makes the sender replay. -/
  | replayTimeout (p : Fin 8)
  /-- SYNC_TIMER (R474): Every 1 ms a SYNC flit is sent on each UP port. -/
  | syncTimer (p : Fin 8)
  /-- CREDIT_RETURN (R456): A freed buffer's credit is returned within 40 ns, in an IDLE flit if nothing else is leaving. -/
  | creditReturn (p : Fin 8)
  /-- FLIT_FORWARD (R456): A flit is forwarded once the next port grants a credit. -/
  | flitForward (p : Fin 8) (vc : Fin 4)
  /-- DOE_DISCOVERY (R523): DOE Discovery request. -/
  | doeDiscovery (index : BitVec 8)
  /-- GET_VERSION (R523): SPDM GET_VERSION request. -/
  | getVersion (req : Bytes)
  /-- GET_CAPABILITIES (R523): SPDM GET_CAPABILITIES request. -/
  | getCapabilities (req : Bytes)
  /-- NEGOTIATE_ALGORITHMS (R523): SPDM NEGOTIATE_ALGORITHMS request. -/
  | negotiateAlgorithms (req : Bytes)
  /-- GET_DIGESTS (R523): SPDM GET_DIGESTS request. -/
  | getDigests (req : Bytes)
  /-- GET_CERTIFICATE (R523): SPDM GET_CERTIFICATE request for slot 0. -/
  | getCertificate (req : Bytes)
  /-- CHALLENGE (R523): SPDM CHALLENGE request. -/
  | challenge (req : Bytes)
  /-- GET_MEASUREMENTS (R522): SPDM GET_MEASUREMENTS request, read at one instant. -/
  | getMeasurements (req : Bytes)
  /-- DOE_ABORT (R524): A DOE abort discards the SPDM request in progress. -/
  | doeAbort
  /-- HELP (R530): Monitor command that lists the commands. -/
  | monHelp (args : Bytes)
  /-- ID (R530): Monitor command that prints identity and boot status. -/
  | monId (args : Bytes)
  /-- STAT (R530): Monitor command that prints device status. -/
  | monStat (args : Bytes)
  /-- BAUD (R529): Monitor command that changes the UART rate after the prompt. -/
  | monBaud (args : Bytes)
  /-- CHAL (R534): Monitor command that issues an unlock challenge. -/
  | monChal (args : Bytes)
  /-- RSP (R530): Monitor command that writes bytes into the response buffer. -/
  | monRsp (args : Bytes)
  /-- UNLK (R535): Monitor command that verifies the response and unlocks the monitor. -/
  | monUnlk (args : Bytes)
  /-- LOCK (R537): Monitor command that locks the monitor. -/
  | monLock (args : Bytes)
  /-- RD (R531): Monitor register read with side effects. -/
  | monRd (args : Bytes)
  /-- PK (R532): Monitor register peek without side effects. -/
  | monPk (args : Bytes)
  /-- WR (R531): Monitor register write. -/
  | monWr (args : Bytes)
  /-- MRD (R531): Monitor memory read. -/
  | monMrd (args : Bytes)
  /-- MWR (R531): Monitor memory write. -/
  | monMwr (args : Bytes)
  /-- LOG (R530): Monitor command that reads event records. -/
  | monLog (args : Bytes)
  /-- FUSE (R530): Monitor command that prints the fuse array except WRAPKEY. -/
  | monFuse (args : Bytes)
  /-- BURN (R538): Monitor command that burns one fuse bit. -/
  | monBurn (args : Bytes) (low : Bool)
  /-- MONITOR_UNKNOWN_COMMAND (R530): A monitor line that names no command is answered with ER 01 and the prompt. -/
  | monitorUnknownCommand (line : Bytes)
  /-- LINE_DISCARD (R528): A line with a framing error, an overflow or excess length is discarded with ER 03. -/
  | lineDiscard
  /-- CHALLENGE_EXPIRY (R534): A challenge is discarded 600 s after issue. -/
  | challengeExpiry
  /-- LOCKOUT_END (R536): The 60 s unlock lockout ends. -/
  | lockoutEnd
  /-- DBG_LOCK_WRITE (R537): The steward writes DBG_LOCK.LOCK and locks the monitor. -/
  | dbgLockWrite
  /-- EXTEST (R543): JTAG EXTEST instruction. -/
  | jtagExtest
  /-- SAMPLE_PRELOAD (R540): JTAG SAMPLE/PRELOAD instruction. -/
  | jtagSamplePreload
  /-- IDCODE (R541): JTAG IDCODE instruction. -/
  | jtagIdcode
  /-- CLAMP (R540): JTAG CLAMP instruction. -/
  | jtagClamp
  /-- HIGHZ (R540): JTAG HIGHZ instruction. -/
  | jtagHighz
  /-- EXTEST_PULSE (R540): JTAG 1149.6 EXTEST_PULSE instruction. -/
  | jtagExtestPulse
  /-- EXTEST_TRAIN (R540): JTAG 1149.6 EXTEST_TRAIN instruction. -/
  | jtagExtestTrain
  /-- BYPASS (R540): JTAG BYPASS instruction, and every unlisted code. -/
  | jtagBypass (code : BitVec 8)
  /-- TRST_N_ASSERT (R539): TRST_N asynchronously resets the TAP. -/
  | trstNAssert
  /-- SMB_DIE_TEMP (R555): SMBus Read Byte 0x00 returns the hottest compute-die temperature. -/
  | smbDieTemp
  /-- SMB_HUB_TEMP (R555): SMBus Read Byte 0x01 returns the hottest hub temperature. -/
  | smbHubTemp
  /-- SMB_STATUS (R555): SMBus Read Byte 0x02 returns the health bits. -/
  | smbStatus
  /-- SMB_STEPPING (R555): SMBus Read Byte 0x03 returns the stepping. -/
  | smbStepping
  /-- CAD_TIME_LO_READ (R39): A read of CAD_TIME_LO latches time-base bits [63:32] into CAD_TIME_HI. -/
  | cadTimeLoRead (host : Bool)
  /-- READ_CLEAR (R12): A read of an RC field returns its value and clears it, with a coincident set taking effect. -/
  | readClear (host : Bool) (a : BitVec 48) (inc : Option (BitVec 32))
  /-- REGISTER_WRITE (R12): A write to any register without a row of its own, by its access type. -/
  | registerWrite (host : Bool) (a : BitVec 48) (v sets : BitVec 32)
  /-- VDD_HUB_LOW (R501): VDD_HUB falls below 0.68 V, which is a power-on reset of the whole device. -/
  | vddHubLow
  /-- CONFIGURATION_REQUEST (R480): The endpoint receives a PCI Express configuration request and answers with Configuration Request Retry Status until its configuration space is ready, or with the header values. -/
  | configurationRequest (write : Bool) (o : BitVec 12) (v : BitVec 32) (ready : Bool)
  /-- STEWARD_RESTART_COMPLETE (R502): The restarted steward comes back from its verified image, completes taken commands with STEWARD_RESTART and begins any relocation that waited for it. -/
  | stewardRestartComplete
  /-- POWER_STATE_EXIT_DONE (R562): The 5 ms DIE-OFF or 10 ms STANDBY exit time elapses, the dies are powered with their registers reset, and POWER_STATE 0 completes. -/
  | powerStateExitDone
  /-- SMB_UNSUPPORTED_REQUEST (R555): An SMBus Read Byte of an unlisted command returns 0x00, and any other SMBus protocol is answered with NACK on its command byte. -/
  | smbUnsupportedRequest (readByte : Bool) (command : BitVec 8)
  /-- SPDM_UNSUPPORTED_REQUEST (R523): An SPDM request outside the supported subset is answered with ERROR UnsupportedRequest. -/
  | spdmUnsupportedRequest (req : Bytes)
  /-- RESERVED_MACRO_OPERATION (R69): The sequencer fetches a reserved macro-operation code (0x1E or 0x20–0xFF) and raises an OPCODE fault. -/
  | reservedMacroOperation (c : Fin 128)
  /-- SAG_RESERVED_OPCODE (R67): An address program reaches a reserved opcode 0xA–0xE, raises SAG_PROG, and the SAG delivers nothing further. -/
  | sagReservedOpcode (c : Fin 128) (n : Fin 16)
  /-- MVR_RESERVED_OPCODE (R326): A mover channel reaches a reserved opcode (0x6 or 0x8–0xF) and halts with CAUSE 3 and DETAIL 3. -/
  | mvrReservedOpcode (u : Fin 17) (n : Fin 32)
  /-- RESERVED_FLIT (R455): A flit of a reserved kind, or one with a nonzero reserved field, is acknowledged, discarded and counted in RLY_Pp_PROTO. -/
  | reservedFlit (p : Fin 8) (w : BitVec 2048) (ce : BitVec 4)
deriving DecidableEq, Repr

end Sys2Proof
end

