-- ==== Sys2Proof/Machine/State.lean ====
section
/-! DEFINITION. The state of the device as plain data, its reset value, and the reasons a step can stop. Registers with
a place in the register map are held in `State.regs`, by their 48-bit device address (R9, R282); the other state of each
unit is held in the structures below. -/

namespace Sys2Proof.Machine
open Sys2Proof

/-- Raised by a command that arrives while the functional state is undefined. -/
inductive Fault
  /-- The device is between a boundary-scan instruction that leaves its functional state undefined and the next
  power-on reset (R543). Raised by every command but those of the TAP and of power-on. Safe: the device goes on in a way
  the spec does not give. -/
  | functionalStateUndefined
  /-- A pulse on POR_N or PERST_N longer than 1 µs and shorter than its minimum width (R554). Raised by the commands
  that assert the pin. Safe: the spec gives no effect. -/
  | pulseUndefined
deriving DecidableEq, Repr

/-- A command without a meaning in this model. -/
inductive Refusal
  /-- Raised by the dispatch for a command that has no meaning yet. Safe: the run stops. -/
  | notModelled (mnemonic : String)
deriving DecidableEq, Repr

/-! ### The core -/

/-- A link token (Table 7.1) without its check code, which is computed. -/
structure Token where
  typ : BitVec 3
  tag : BitVec 5
  epoch : BitVec 12
  jseq : BitVec 8
  payload : BitVec 512
deriving DecidableEq, Repr

/-- A handle queue (Table 7.4): entries oldest first, the held entry, spill mode, the head and the count of its cellar
ring. Counters and configuration are registers. -/
structure HqSt where
  entries : List (BitVec 64)
  held : Option (BitVec 64)
  spilling : Bool
  celHead : Nat
  celCount : Nat
deriving DecidableEq, Repr

/-- A joined route (R81, R82): pending DATA, CONTROL and SCALE tokens, governing heads of the present arming not yet
delivered, and the armed sequence with the run counter. -/
structure JoinSt where
  data : List Token
  ctl : List Token
  scl : List Token
  heads : List Token
  armed : Option (BitVec 8)
  run : Nat
deriving DecidableEq, Repr

/-- A stream address generator in a macro-operation (R60 to R67): its owner, the elements done in descriptor mode and
the bytes done of the present one, the registers of an address program, the pending part of an EMIT (address, bytes),
bytes delivered and bytes incoming since issue, an odd 4-bit element, bytes consumed, and whether its sequence has
ended. -/
structure SagSt where
  owner : Option Nat
  pos : Nat
  part : Nat
  a : List (BitVec 32)
  cnt : List Nat
  pc : Nat
  emAddr : Int
  emLeft : Nat
  dlv : Bytes
  used : Nat
  inb : Bytes
  half : Option Nat
  ended : Bool
deriving DecidableEq, Repr

/-- Statistics of one channel in the frame (R150), its history shift of the frame (R143), whether that came from
history, and the shift of its last row. -/
structure ChStat where
  maxAbs : FV
  sat : Nat
  ufl : Nat
  mn : FV
  mx : FV
  seen : Bool
  hshift : Option Int
  hist : Bool
  last : Int
deriving DecidableEq, Repr

/-- An engine and its PPU: the shadow tile (beats received so far) and the active tile (R52), tiles streamed and tiles
made active for the macro-operation, vectors applied to the active tile, activation vectors and exponents consumed from
SAGs, bytes that arrived as tokens (R82), the accumulation buffer (R53) and the rows of the summing column (R98), output
elements done, output element codes waiting for SAG_OUT, the shift of the row or group in progress, pending sidecar
bytes and the index of the first, the channel statistics of the frame, the PPU settings sampled at the frame context
load (R131). -/
structure EngSt where
  shadow : Bytes
  active : Bytes
  streamed : Nat
  tile : Nat
  vec : Nat
  apos : Nat
  xpos : Nat
  inb : Bytes
  sin : Bytes
  acc : SMap Acc
  rsum : SMap Acc
  outk : Nat
  outq : List Nat
  rsh : Option (Nat × Int)
  side : List Nat
  sideFirst : Nat
  chst : SMap ChStat
  samp : SMap (BitVec 32)
deriving DecidableEq, Repr

/-- A macro-operation in flight (R70): number, program index, word, parameter block, elements done, vectors issued, the engine whose
outputs SAG_OUT takes next, running values of a reduction, its results of the output group in progress, running values of a
kiln step, halo bytes received and tokens sent, whether a
relation unit has finished it. -/
structure Op where
  num : Nat
  pcAt : Nat
  word : BitVec 128
  block : Bytes
  k : Nat
  vecs : Nat
  turn : Nat
  red : Acc
  outs : List (FV × CFlags)
  kiln : SMap (FV × Nat)
  rxu : Nat
  rxd : Nat
  sent : Nat
  sent2 : Nat
  ctl : Bool
  done : Bool
deriving DecidableEq, Repr

def SagSt.reset : SagSt := ⟨none, 0, 0, List.replicate 8 0, List.replicate 4 0, 0, 0, 0, [], 0, [], none, false⟩

def ChStat.reset : ChStat :=
  ⟨.fin false ⟨0, 1⟩, 0, 0, .fin false ⟨0, 1⟩, .fin false ⟨0, 1⟩, false, none, false, 0⟩

def EngSt.reset : EngSt := ⟨[], [], 0, 0, 0, 0, 0, [], [], [], [], 0, [], none, [], 0, [], []⟩

def HqSt.reset : HqSt := ⟨[], none, false, 0, 0⟩

def JoinSt.reset : JoinSt := ⟨[], [], [], [], none, 0⟩

/-- A core (R49): the stage sequencer (loop counters, macro-operations in flight in issue order, the next number),
watchdog count and age in µs, its SAGs, engines, joined routes and handle queues, the input buffer (oldest first), the
pass-through register and the output register of each port, consecutive refusals at each input port, tokens it has
originated and not yet steered, by port the tag of an originated token in its output register, by tag the half of a
JOIN 3 pair sent under the present sequence (R80), the gust buffer with each beat's channel, EOF tokens for the sequencer, latched abort notices, the frame's SAT,
UFL and TRUNC, an abort notice in force for the frame, what the relation operations of the stage program have counted in the
frame, by program index (nodes by bucket, channel statistics: R224, R231, R232), ports disabled by LINK_PERSIST, a relocation
flush in progress, a TXU lock. -/
structure CoreSt where
  loops : List (Option Nat)
  ops : List Op
  nextOp : Nat
  wdog : Nat
  age : Nat
  sags : SMap SagSt
  engs : SMap EngSt
  joins : SMap JoinSt
  hqs : SMap HqSt
  inq : SMap (List Token)
  pass : SMap Token
  outp : SMap Token
  refus : SMap Nat
  orig : List Token
  own : SMap Nat
  halves : SMap Nat
  gust : List (Nat × BitVec 512)
  eof : List Token
  notices : List (Nat × Nat)
  fsat : Bool
  fufl : Bool
  ftrunc : Bool
  dark : Bool
  relFr : SMap (List Nat × SMap ChStat)
  deadPorts : List Nat
  flush : Bool
  locked : Bool
deriving DecidableEq, Repr

def CoreSt.reset : CoreSt :=
  { loops := [none, none, none, none], ops := [], nextOp := 0, wdog := 0, age := 0, sags := [], engs := [], joins := []
    hqs := [], inq := [], pass := [], outp := [], refus := [], orig := [], own := [], halves := [], gust := [], eof := [], notices := []
    fsat := false, fufl := false, ftrunc := false, dark := false, relFr := [], deadPorts := [], flush := false, locked := false }

/-! ### The cluster -/

/-- A node of GATHER NBR on the overflow lane: stream position, first unhandled edge, end edge (R224). -/
structure LaneEntry where
  pos : Nat
  first : Nat
  last : Nat
deriving DecidableEq, Repr

/-- A relation operation accepted by the unit (R198): issuing core, number of its macro-operation, word and block, the
frame it belongs to (R202), its program index, handshakes left of the fetch in hand (R219), units issued, the next neighbour of
the node in hand, gathers outstanding (by index, or for a neighbour by 256 times its node and its place), the indices of
neighbours fetched and not yet back, rows that have come back and wait for their turn with the index of the next (R208), bucket
counts of the frame, the edges each node in work takes in the main pass (first, count, whether the lane holds the rest), the
lane, partial rows of nodes held (by channel, and edges combined), per-channel counts of the frame's conversions, excess edges
found, the end of the overflow pass. -/
structure RluOp where
  core : Nat
  num : Nat
  word : BitVec 128
  block : Bytes
  slot : Nat
  seq : Nat
  valid : Bool
  pcAt : Nat
  hs : Nat
  issued : Nat
  nbr : Nat
  outst : List Nat
  ids : SMap Nat
  back : SMap Bytes
  wrote : Nat
  bkt : List Nat
  nodes : SMap (Nat × Nat × Bool)
  lane : List LaneEntry
  parts : SMap (List Acc × Nat)
  chst : SMap ChStat
  excess : Nat
  laneDone : Bool
deriving DecidableEq, Repr

/-- A cluster: requests waiting at the relation unit (issuing core, macro-operation word, parameter block, time of arrival), its accepted
operations, the place of its round robin, the feed buffers of the gust channels (R259), work waiting at the lull
channel (R276): core, queue, and the released or filled handle, or none for a spill of so many entries; bursts of the first of
them done. -/
structure ClusterSt where
  rluq : List (Nat × BitVec 128 × Bytes × Nat)
  rops : List RluOp
  rr : Nat
  feeds : SMap (List (BitVec 512))
  lull : List (Nat × Nat × Option (BitVec 64) × Nat)
  lullDone : Nat
deriving DecidableEq, Repr

def ClusterSt.reset : ClusterSt := ⟨[], [], 0, [], [], 0⟩

/-! ### The device -/

/-- A relay flit (Table 13.1) without its CRC, which is computed (R454). -/
structure Flit where
  kind : Nat
  dst : Nat
  vc : Nat
  src : Nat
  plen : Nat
  cret : Nat
  ack : Nat
  fseq : Nat
  nak : Bool
  args : Bytes
  payload : Bytes
deriving DecidableEq, Repr

/-- What the device sends outside itself, in the order sent. -/
inductive Out
  /-- Bytes written to host memory at a host address, and whether the request may carry Relaxed Ordering; No Snoop is never
  set (R396). -/
  | hostWrite (addr : Nat) (data : Bytes) (relaxed : Bool)
  /-- A read request for host memory: address and length, and whether it may carry Relaxed Ordering (R396). -/
  | hostRead (addr len : Nat) (relaxed : Bool)
  /-- An MSI-X message: vector, address, data (R423). -/
  | msix (vector addr data : Nat)
  /-- The completion of a host or monitor read of the device. -/
  | readData (data : Bytes)
  /-- Completer Abort of a host read (R397, R400). -/
  | completerAbort
  /-- A Completer Abort logged as an advisory non-fatal error in AER (R397). -/
  | aerAdvisory
  /-- Configuration Request Retry Status (R480). -/
  | configRetry
  /-- A flit sent on a relay port, with its CRC (R454). -/
  | flit (port : Nat) (f : Flit) (crc : BitVec 32)
  /-- Bytes sent on the UART. -/
  | uart (data : Bytes)
  /-- The byte of an SMBus Read Byte. -/
  | smbus (data : BitVec 8)
  /-- NACK on an SMBus command byte. -/
  | smbusNack
  /-- A VDD_CORE target sent over AVSBus: die, mV (R483). -/
  | avs (die mv : Nat)
  /-- VDD_CORE of a die switched on or off over PMBus (R482). -/
  | vddCore (die : Nat) (on : Bool)
  /-- A read of a regulator over PMBus: its address and the command code, of READ_VOUT, READ_IOUT, READ_TEMPERATURE_1 or
  STATUS_WORD (R482). -/
  | pmbusRead (addr command : Nat)
  /-- A read of the boot flash over SPI: opcode, SPI_CLK in kHz, flash offset and length (R513). -/
  | spiRead (opcode khz addr len : Nat)
  /-- THERM_N driven: true is asserted (R493). -/
  | therm (asserted : Bool)
  /-- A data object sent through the DOE mailbox (R523). -/
  | doe (data : Bytes)
  /-- Bits shifted out on TDO: width and value. -/
  | tdo (width value : Nat)
deriving DecidableEq, Repr

/-- A core's frame-end report on its way to the hub (R154): core, stream slot, sequence number, SAT, UFL, TRUNC. -/
structure Report where
  core : Nat
  slot : Nat
  seq : Nat
  sat : Bool
  ufl : Bool
  trunc : Bool
deriving DecidableEq, Repr

/-! ### The mailbox and the streams -/

/-- An event record (Table 11.13). -/
structure LogRec where
  seq : Nat
  code : Nat
  core : Nat
  slot : Nat
  time : Nat
  a0 : Nat
  a1 : Nat
  a2 : Nat
  a3 : Nat
deriving DecidableEq, Repr

/-- A command taken and not completed (R404): its 64 bytes, MBX_CR_HEAD after it was taken, the module it came from, none
for this module's own ring, whether it has started, whether its completion only waits for a free way out (status, detail,
result), two values the command keeps. -/
structure Taken where
  entry : Bytes
  crhead : Nat
  from_ : Option Nat
  started : Bool
  v0 : Nat
  v1 : Nat
deriving DecidableEq, Repr

/-- A command forwarded to another module (R405): its FLAGS, CID, DEV, and MBX_CR_HEAD after it was taken. -/
structure Forwarded where
  flags : Nat
  cid : Nat
  dev : Nat
  crhead : Nat
deriving DecidableEq, Repr

/-- A frame in an ingest FIFO (R340 to R347): its descriptor, frame ring index, the module a relay frame came from with
the flags of its header and its TREL, its length, bytes accepted, the FIFO position it starts at, closed, aborted on the
write side, the sequence number once admitted, words handed out, its words are dropped
(its frame was aborted by a flush), FLAGS of its FEND. -/
structure FFrame where
  desc : Bytes
  ring : Nat
  src : Option Nat
  upFlags : Nat
  trel : Nat
  len : Nat
  got : Nat
  base : Nat
  closed : Bool
  bad : Bool
  seq : Option Nat
  words : Nat
  drop : Bool
  fend : Option Nat
deriving DecidableEq, Repr

/-- A pull request issued (R343): offset in the frame, length, and its data once complete. -/
structure Pull where
  off : Nat
  len : Nat
  data : Option Bytes
deriving DecidableEq, Repr

/-- An ingest FIFO: frames oldest first, bytes written and read since it was last empty of history, pull requests in
order of issue, bytes of the open frame requested, bytes granted to a relay source and not yet received (R470). -/
structure FifoSt where
  frames : List FFrame
  wr : Nat
  rd : Nat
  pulls : List Pull
  asked : Nat
  granted : Nat
deriving DecidableEq, Repr

/-- A stream slot (R22, R409): the plan it is bound to, the settings of STREAM_OPEN, the next and last sequence numbers,
whether a frame was admitted, results not yet consumed, results counted since the last interrupt and the time of the
first of them (R424), the stage of its close (0 open, 1 EOF to send, 2 EOF sent, 3 EOF at the gate), MBX_FRs_HEAD at
the close and the time of the last progress of its drain (R264), TIMED in force (R464). -/
structure StreamSt where
  plan : Option Nat
  hblk : Nat
  ivec : Nat
  modcnt : Nat
  modus : Nat
  interval : Nat
  frbase : Nat
  rrbase : Nat
  rsize : Nat
  next : Nat
  last : Nat
  any : Bool
  unread : Nat
  since : Nat
  sinceT : Option Nat
  closing : Nat
  closeHead : Nat
  closeT : Nat
  timed : Bool
deriving DecidableEq, Repr

/-- A frame from admission to the end of its release entry (R31 to R38, R418, R434): plan, stream slot, sequence number,
descriptor, ring index, T_sub, T_rel, result flags, cores whose report has come for the segment in force, T_fin once its
result is held, aborted with its result written, open output runs by 64 × port + tag (next unit, PUSH, join sequence),
ports that carried a run and ports whose run with PUSH is over, the highest output unit written plus one, time starved, the module a relay
frame came from and FEND's flags, and for relay output the next unit expected. -/
structure Frame where
  plan : Nat
  slot : Nat
  seq : Nat
  desc : Bytes
  ring : Nat
  tsub : Nat
  trel : Nat
  flags : Nat
  cores : List Nat
  held : Option Nat
  aborted : Bool
  runs : SMap (Nat × Bool × Nat)
  ports : List Nat
  doneP : List Nat
  outHi : Nat
  starved : Bool
  src : Option Nat
  fend : Option Nat
  relayed : Option Nat
deriving DecidableEq, Repr

/-! ### Plans -/

/-- A relocation (Table 12.6): cores fenced for it, its stage (0 waiting for the steward, 1 flush, 2 settled and the group
staged, 3 committed), the time its flush has settled, frames aborted, cores that faulted after the commit point. -/
structure Reloc where
  cores : List Nat
  stage : Nat
  start : Nat
  aborted : Nat
  later : List Nat
deriving DecidableEq, Repr

/-- A kiln run (R164): segments still to pass, mask of segments committed, the cores that have finished the pass in
force, the kept image and tables that the switch out of the pass makes valid (R163), none before that switch writes. -/
structure Kiln where
  todo : List Nat
  done : Nat
  fin : List Nat
  next : Option (Bytes × List (Nat × Nat × Bytes))
deriving DecidableEq, Repr

/-- A plan slot that holds a plan: the patched image the steward keeps (R378), first handle, region addresses, the epoch
of its cores, its measurement (R520), the configuration in force, cores moved with their spare in each configuration
(R380), the last admission and the slot it admitted, the first admission, count and
open window of the round (R43), grid origin and relay output in force (R40, R464), a pending PLAN_STOP (R47), the stage
of a switch (0 none, 1 waiting for drained cores, 2 probes sent, 3 group staged, 4 committed) with its target configuration, the time
of the last frame's completion (R264), whether a drain serves only a stop, a kiln run, a relocation, dies that hold
admission by squall and by over-temperature, the engine seeds of its fenced cores by 8 × core + engine (R106), the table bytes
that kiln passes have committed: configuration, address, bytes (R163), and the slot and sequence number of the last CONTROL token
that the hub took on each output port and tag, by 64 × port + tag (R418). -/
structure PlanSt where
  img : Bytes
  first : Nat
  regions : List Nat
  epoch : Nat
  meas : Bytes
  cfg : Nat
  moved : List (Nat × List (Nat × Nat))
  lastAdm : Option Nat
  rr : Nat
  roundFirst : Option Nat
  roundN : Nat
  window : Bool
  origin : Nat
  outCfg : Nat
  outLen : Nat
  stopPend : Bool
  switch : Nat
  target : Nat
  lastDone : Nat
  kiln : Option Kiln
  reloc : Option Reloc
  squalls : List Nat
  overs : List Nat
  seeds : SMap Nat
  kept : List (Nat × Nat × Bytes)
  ctls : SMap (Nat × Nat)
deriving DecidableEq, Repr

/-- The feeder of a plan slot (R351 to R355): frames to feed (slot, sequence number) and streams whose EOF waits behind
them, the next word of the frame's buffers, the target and the DATA tokens left in the buffer in progress, credits and
join sequences of the targets, EOF tokens still to send (target, slot). -/
structure FeedSt where
  todo : List (Nat × Option Nat)
  buf : Nat
  left : Nat
  word : Nat
  credits : SMap (List (BitVec 64))
  jseq : SMap Nat
deriving DecidableEq, Repr

/-! ### Transactions -/

/-- A commit group led by the hub TXU (R431): what it serves (0 the steward, 1 a segment switch, 2 a relocation, 3
nothing any more, 4 a load), the plan, its actions by cluster, and the hub's own. -/
structure Group where
  kind : Nat
  plan : Nat
  acts : SMap (List (BitVec 128))
  hub : List (BitVec 128)
deriving DecidableEq, Repr

/-- The two-phase protocol (Table 12.3): the time of step 1, clusters PREPARE is on its way to, votes on their way,
clusters the decision is on its way to, clusters whose acknowledgement is on its way, and awaited. -/
structure TwoPhase where
  start : Nat
  prep : List Nat
  votes : List (Nat × Bool)
  dec : List Nat
  acks : List Nat
  await : List Nat
deriving DecidableEq, Repr

/-! ### Movers -/

/-- A mover channel (R315 to R333): the program store, bytes of it still to read and their address, a pending program
(address, slots), offsets, the active loop (index, runs left), the held entry with its core and queue, the core it is
outstanding for, the current MOVE (row, bytes done in it, started), repeats made of the last burst, the burst failed and is to
be repeated, what a burst read whose write failed, the last valid-byte tag read, a TXU lock, MVR_CHn_CFG as the last program start took it (R318), writes on their way to their destination (R330, R337):
address and data. The rest is in its registers. -/
structure MvrSt where
  prog : List (BitVec 128)
  loadAddr : Nat
  loadLeft : Nat
  next : Option (Nat × Nat)
  soff : Int
  doff : Int
  loop : Option (Nat × Nat)
  held : Option (BitVec 64 × Nat × Nat)
  outFor : Option Nat
  row : Nat
  done : Nat
  moving : Bool
  tries : Nat
  again : Bool
  kept : Option Bytes
  lastv : Nat
  locked : Bool
  cfg : Nat
  post : List (Nat × Bytes)
deriving DecidableEq, Repr

/-! ### Dies -/

/-- A compute die: the squall in progress (begin, lowest reading, good samples), the notice in progress (begin, peak,
cool samples), held in reset after a brown-out with its good samples, fallen below 0.600 V and
not risen since, the latest readings of its eight sensors in 1/16 °C, the maintenance activities running by group (R298) and
waiting (group, code, time of the request), groups on their way into retention that an access waits for (R291), the time of
each group's last sweep claim (R292) and of the last scrub step (R309), the spare regions used by group and bank and the bad
regions by group (R295), and the samples still to come of an injected dip of the rail (R450). -/
structure DieSt where
  sq : Option (Nat × Nat × Nat)
  ot : Option (Nat × Int × Nat)
  browned : Bool
  brGood : Nat
  low : Bool
  temps : List Int
  running : SMap Nat
  waiting : List (Nat × Nat × Nat)
  wakes : List Nat
  swept : SMap Nat
  scrubAt : Option Nat
  spares : SMap Nat
  bad : List (Nat × Nat)
  dip : Nat
deriving DecidableEq, Repr

/-! ### Relay, boot, trust, monitor, test -/

/-- A relay port (R456 to R458): sequence number to send, last received in order, a discard not yet made good, sequenced
flits not acknowledged with the number of times each was replayed, the time since which no acknowledgement has come, credits of
the four channels, credits to return, flits buffered in order of arrival, flits that wait for a credit, the last SYNC received
with its arrival time. -/
structure PortSt where
  tx : Nat
  rx : Nat
  nak : Bool
  unacked : List (Flit × Nat)
  ackT : Nat
  cred : List Nat
  ret : List Nat
  bufs : List Flit
  sendq : List Flit
  sync : Nat × Nat
deriving DecidableEq, Repr

/-- A host read a downstream module has sent to the head (R466): tag, host address, length, data so far, failed. -/
structure ProxyRd where
  tag : Nat
  addr : Nat
  len : Nat
  data : Bytes
  failed : Bool
deriving DecidableEq, Repr

/-- Boot (R514 to R516, R502): POR_N and PERST_N low, the image under verification (source 0, 1 SPI, 2 host), the
verified image, identity (0 usable, 1 absent, 2 unwrap failed) and certificate chain, the steward down, the time of its
last watchdog expiry, the time POR_N was released, memory is trained and READY waits for dies, the configuration space is
ready, the reset in progress until READY (Table 14.6: 0 none, 1 power-on, 2 PERST_N, 3 device warm reset, 4 FLR or hot
reset), the time of the last write of PWR_WDOG_KICK, BOOTSEL as sampled at the last release (Table 17.8),
the fields of measurement 1 as they were at boot (Table 15.9), the nanoseconds that POR_N has been released (R555), the identity
key that unwrapped (R518). -/
structure BootSt where
  porLow : Bool
  perstLow : Bool
  checking : Option (Nat × Bytes)
  image : Bytes
  ident : Nat
  chain : Bytes
  down : Bool
  expiry : Option Nat
  t0 : Nat
  waits : Bool
  cfgReady : Bool
  scope : Nat
  kick : Nat
  bootsel : Bool
  hw : Nat
  upNs : Nat
  key : Bytes
deriving DecidableEq, Repr

/-- SPDM negotiation (R523, R524): version, capabilities and algorithms agreed, the requests that wait in order of arrival, each
with the quotes that arrived before it, and the messages a signature covers: of the negotiation, of the digests and
certificates, of the measurements. -/
structure SpdmSt where
  version : Bool
  caps : Bool
  algs : Bool
  busy : List (Bytes × List Taken)
  vca : Bytes
  certs : Bytes
  meas : Bytes
deriving DecidableEq, Repr

/-- The Tapster monitor (R534 to R536): the current challenge with its time, the response buffer, failed unlocks in a
row, the time a lockout began. -/
structure MonSt where
  chal : Option (Bytes × Nat)
  resp : Bytes
  fails : Nat
  lockout : Option Nat
deriving DecidableEq, Repr

/-- The states of the TAP controller of IEEE 1149.1 (R539). -/
inductive TapState
  | testLogicReset | runTest | selectDr | captureDr | shiftDr | exit1Dr | pauseDr | exit2Dr | updateDr
  | selectIr | captureIr | shiftIr | exit1Ir | pauseIr | exit2Ir | updateIr
deriving DecidableEq, Repr

/-- The boundary register (R542): one cell for each digital board-level land (29), each receive pair (48), each transmit pair
(48) of the PCI Express and relay lanes, and each reference-clock input (3), in the order in which R542 lists them. What the
cells captured last, what their latches hold, and what drives the outputs: 0 the device, 1 the latches, 2 nothing (high
impedance), 3 a pulse and 4 a train of the latches (IEEE 1149.6). The state of the TAP controller (R539). -/
structure BScanSt where
  cap : BitVec 128
  latch : BitVec 128
  drive : Nat
  tap : TapState
deriving DecidableEq, Repr

def BScanSt.reset : BScanSt := ⟨0, 0, 0, .testLogicReset⟩

def FifoSt.reset : FifoSt := ⟨[], 0, 0, [], 0, 0⟩

def StreamSt.reset : StreamSt := ⟨none, 0, 0, 0, 0, 0, 0, 0, 0, 0, 0, false, 0, 0, none, 0, 0, 0, false⟩

def PlanSt.reset : PlanSt :=
  ⟨[], 0, [], 0, [], 0, [], none, 127, none, 0, false, 0, 0, 0, false, 0, 0, 0, none, none, [], [], [], [], []⟩

def FeedSt.reset : FeedSt := ⟨[], 0, 0, 0, [], []⟩

def TwoPhase.reset : TwoPhase := ⟨0, [], [], [], [], []⟩

def MvrSt.reset : MvrSt := ⟨[], 0, 0, none, 0, 0, none, none, none, 0, 0, false, 0, false, none, 0, false, 0x1E0, []⟩

def DieSt.reset : DieSt := ⟨none, none, false, 0, false, List.replicate 8 0, [], [], [], [], none, [], [], 0⟩

def PortSt.reset : PortSt := ⟨1, 0, false, [], 0, [16, 32, 64, 32], [0, 0, 0, 0], [], [], (0, 0)⟩

def BootSt.reset : BootSt := ⟨false, false, none, [], 1, [], false, none, 0, false, false, 1, 0, false, 0, 0, []⟩

def SpdmSt.reset : SpdmSt := ⟨false, false, false, [], [], [], []⟩

def MonSt.reset : MonSt := ⟨none, List.replicate 1024 0, 0, none⟩

/-- The state of the device. -/
structure State where
  /-- Commands waiting, first in, first out. -/
  pending : List Instr
  /-- Stepping: false A1, true B0 (R7). -/
  b0 : Bool
  /-- Nanoseconds since power-on reset (R30). -/
  timeBase : BitVec 64
  /-- Register words that differ from, or were written since, reset, by device address. -/
  regs : SMap (BitVec 32)
  /-- Bytes of memory, in canonical form. -/
  mem : List Host.Cell
  /-- Address ranges [lo, hi) whose contents a reset made undefined, with the number of the loss, newest first. -/
  lost : List (Nat × Nat × Nat)
  /-- Poisoned ECC words of on-chip SRAM by address, and poisoned 64-byte lines of LPDDR4X (R286, R308). -/
  poison : List Nat
  cores : SMap CoreSt
  clusters : SMap ClusterSt
  dies : SMap DieSt
  /-- Accesses by the host or the monitor that wait for a bank group to wake or a claimed region to be released (R291, R293),
  with their device addresses, and the monitor lines behind them (R528), oldest first. -/
  stuck : List (Nat × Instr)
  /-- Tokens the hub holds out to edge ports, by 4 × core + port (R240). -/
  edgeIn : SMap Token
  /-- Frame-end reports on their way to the hub, oldest first. -/
  reports : List Report
  /-- Aborts under way (Table 12.4): plan, stream slot, sequence number, cores whose notice is on its way. -/
  notices : List (Nat × Nat × Nat × List Nat)
  /-- History pairs the steward has still to invalidate: plan, stream slot, sequence number. -/
  purge : List (Nat × Nat × Nat)
  /-- The event log, oldest first (R411). -/
  log : List LogRec
  /-- Commands taken and not completed, in ring order. -/
  taken : List Taken
  forwarded : List Forwarded
  /-- Completions not yet written, 32 bytes without CRHEAD and PHASE filled: entry, no interrupt. -/
  ccWait : List (Bytes × Bool)
  /-- Completions the host has not consumed. -/
  ccUnread : Nat
  /-- The mailbox rings have stopped, and which have not been disabled since: command ring, completion ring (R403). -/
  crStop : Bool
  ccStop : Bool
  fifos : SMap FifoSt
  streams : SMap StreamSt
  frames : List Frame
  plans : SMap PlanSt
  feeds : SMap FeedSt
  /-- Commit groups waiting for the hub TXU; the first is in progress while `two` is under way. -/
  groups : List Group
  two : TwoPhase
  /-- Mover channels: 16 × cluster + channel, and 256 + channel of the hub. -/
  movers : SMap MvrSt
  /-- The channel each mover served last, by cluster, 16 for the hub. -/
  mvrLast : SMap Nat
  ports : SMap PortSt
  proxy : List ProxyRd
  nextTag : Nat
  /-- Relay output of this module's plans waiting for FIFO grants, in order, and the bytes granted by 128 × module +
  stream slot (R470). -/
  relayq : List Flit
  grants : SMap Nat
  boot : BootSt
  spdm : SpdmSt
  mon : MonSt
  /-- The fuse array (Table 15.1), and its value at the last power-on reset (R538). -/
  fuses : Nat
  fuses0 : Nat
  /-- Writable dwords of the configuration space, by offset (R395). -/
  cfgSpace : SMap (BitVec 32)
  /-- The TAP's instruction register (R540). -/
  jtagIr : Nat
  /-- The boundary register (R542). -/
  bscan : BScanSt
  /-- THERM_N is asserted (R493, R494), and the hub shut everything down for heat (R494). -/
  therm : Bool
  hubHot : Bool
  /-- Readings of the two hub sensors in 1/16 °C. -/
  hubTemps : List Int
  /-- What the device has sent outside, oldest first. -/
  out : List Out
  /-- The number of free values taken so far: the model's own field. -/
  fresh : Nat
  /-- The functional state is undefined until a power-on reset (R543). -/
  scanned : Bool
  /-- The bank group (die, group) that an access of the command under way found in retention, or holding a region that the
  sweep has claimed: the command's work waits for it (R291, R293). None between commands: the model's own field. -/
  met : Option (Nat × Nat)
  /-- Register writes of a commit group that has been applied, to hub registers of units the group logic does not contain: they
  are carried out before the command ends (R427). Empty between commands: the model's own field. -/
  writes : List (Nat × Nat)
  /-- Nanoseconds by which the time base is still to be slewed toward the head's, and nanoseconds since it last was (R474). -/
  slew : Int
  slewN : Nat
deriving DecidableEq, Repr

/-- The fuses of a part that nobody has programmed further: MONLOCK burned, and key slot 0 allowed for firmware and plans
(Table 15.2). The values a part carries beside them are its own: DESIGN CHOICE zero (log). -/
def resetFuses : Nat := 2 ^ 2129 + 3 * 2 ^ 2052

/-- The device right after power-on reset, with POR_N and PERST_N released and nothing booted: every register at its reset
value, memory unwritten. -/
def State.reset : State where
  pending := []
  b0 := true
  timeBase := 0
  regs := []
  mem := []
  lost := []
  poison := []
  cores := []
  clusters := []
  dies := []
  stuck := []
  edgeIn := []
  reports := []
  notices := []
  purge := []
  log := []
  taken := []
  forwarded := []
  ccWait := []
  ccUnread := 0
  crStop := false
  ccStop := false
  fifos := []
  streams := []
  frames := []
  plans := []
  feeds := []
  groups := []
  two := TwoPhase.reset
  movers := []
  mvrLast := []
  ports := []
  proxy := []
  nextTag := 0
  relayq := []
  grants := []
  boot := BootSt.reset
  spdm := SpdmSt.reset
  mon := MonSt.reset
  fuses := resetFuses
  fuses0 := resetFuses
  cfgSpace := []
  jtagIr := 2
  bscan := BScanSt.reset
  therm := false
  hubHot := false
  hubTemps := [0, 0]
  out := []
  fresh := 0
  scanned := false
  met := none
  writes := []
  slew := 0
  slewN := 0

end Sys2Proof.Machine
end

