-- ==== Sys2Proof/Machine/Ops.lean ====
section
/-! DEFINITION. The named operations over registers, memory and the units of the device. Every read and write of the
state by a meaning goes through them. -/

namespace Sys2Proof.Machine
open Sys2Proof

/-! ### Where units lie (R5, R9, R281, R282) -/

/-- The die, cluster and core fields of a window address: die d, cluster c of it, core index k. -/
def windowBits (d c k : Nat) : Nat := d * 2 ^ 40 + c * 2 ^ 36 + k * 2 ^ 32

/-- Register window of the core with flat number c. -/
def coreWin (c : Nat) : Nat := 0xF00000000000 + windowBits (c / 32) (c / 8 % 4) (c % 8)

/-- Register window of cluster cl (4 × die + cluster). -/
def clusterWin (cl : Nat) : Nat := 0xF00000000000 + windowBits (cl / 4) (cl % 4) 0xF

/-- Register window of a die. -/
def dieWin (d : Nat) : Nat := 0xF00000000000 + windowBits d 0xF 0xF

/-- The hub register window. -/
def hubWin : Nat := 0xF80000000000

/-- Scratch of a core. -/
def scratchWin (c : Nat) : Nat := 0x800000000000 + windowBits (c / 32) (c / 8 % 4) (c % 8)

/-- Cluster memory of a cluster. -/
def clusterMem (cl : Nat) : Nat := 0x800000000000 + windowBits (cl / 4) (cl % 4) 0xF

/-- Hub SRAM: the storage of the ingest FIFOs. -/
def hubSram : Nat := 0x880000000000

def sagBase (c n : Nat) : Nat := coreWin c + 0x2000 + 0x40 * n
def engBase (c e : Nat) : Nat := coreWin c + 0x4000 + 0x100 * e
def ppuBase (c e : Nat) : Nat := coreWin c + 0x5000 + 0x100 * e
def hqBase (c q : Nat) : Nat := coreWin c + 0x8400 + 0x40 * q
def routeBase (c r : Nat) : Nat := coreWin c + 0x1100 + 8 * r
def portBase (c p : Nat) : Nat := coreWin c + 0x40 * p
def rluBase (cl : Nat) : Nat := clusterWin cl + 0x3000
def gstBase (cl ch : Nat) : Nat := clusterWin cl + 0x4000 + 0x20 * ch

/-! ### Registers -/

/-- An offset lies on a row of the register map with the given repetitions. -/
def onRow : List (Nat × Nat) → Nat → Bool
  | [], d => d = 0
  | (stride, count) :: t, d => let i := min (d / stride) (count - 1); onRow t (d - i * stride)

/-- The register window an address lies in, with its offset in it. -/
def windowOf (a : Nat) : Option (Win × Nat) :=
  if hubWin ≤ a ∧ a < hubWin + 2 ^ 20 then some (.hub, a - hubWin)
  else if 0xF00000000000 ≤ a ∧ a < 0xF40000000000 then
    let c := bits a 36 4
    let k := bits a 32 4
    if c = 0xF ∧ k = 0xF then some (.die, a % 2 ^ 32)
    else if c < 4 ∧ k = 0xF then some (.cluster, a % 2 ^ 32)
    else if c < 4 ∧ k < 8 then some (.core, a % 2 ^ 32)
    else none
  else none

/-- The rows of the register map for the word at an offset of a window. -/
def rowsAt (m : List FSpec) (w : Win) (o : Nat) : List FSpec :=
  m.filter (fun f => f.win = w && decide (f.off ≤ o) && onRow f.reps (o - f.off))

/-- The reset value of a register word. -/
def resetWord (a : Nat) : Nat :=
  match windowOf a with
  | some (w, o) => (rowsAt regNonzero w o).foldl (fun v f => v + f.reset * 2 ^ f.lsb) 0
  | none => 0

/-- A register word as held. -/
def State.reg (s : State) (a : Nat) : Nat :=
  match s.regs.find a with
  | some v => v.toNat
  | none => resetWord a

/-- A register word replaced. -/
def State.setReg (s : State) (a v : Nat) : State := { s with regs := s.regs.put a (BitVec.ofNat 32 v) }

/-- A field of the block at a base address. -/
def State.getF (s : State) (base : Nat) (f : Fld) : Nat := bits (s.reg (base + f.off)) f.lsb f.width

/-- A field replaced. -/
def State.setF (s : State) (base : Nat) (f : Fld) (v : Nat) : State :=
  s.setReg (base + f.off) (setBits (s.reg (base + f.off)) f.lsb f.width v)

/-- A saturating counter field advanced. -/
def State.addF (s : State) (base : Nat) (f : Fld) (k : Nat) : State :=
  s.setF base f (satAdd f.width (s.getF base f) k)

/-- A field raised to a value if it is below it. -/
def State.maxF (s : State) (base : Nat) (f : Fld) (v : Nat) : State :=
  if s.getF base f < v then s.setF base f v else s

/-- The bits of a word with an access type, by the register map (Table 0.6). -/
def accMask (a : Nat) (k : Access) : Nat :=
  match windowOf a with
  | some (w, o) =>
    (rowsAt regMap w o).foldl (fun m f => if f.acc = k then setBits m f.lsb f.width (2 ^ f.width - 1) else m) 0
  | none => 0

/-- The RW fields of a word replaced by those of v; its other bits stay (R12). -/
def State.writeRW (s : State) (a v : Nat) : State :=
  let m := accMask a .rw
  s.setReg a ((s.reg a &&& (2 ^ 32 - 1 - m)) + (v &&& m))

/-- A write with no effect of its own: RW fields take the value, ones clear W1C bits (Table 0.6). -/
def State.writePlain (s : State) (a v : Nat) : State :=
  let s := s.writeRW a v
  s.setReg a (s.reg a &&& (2 ^ 32 - 1 - (v % 2 ^ 32 &&& accMask a .w1c)))

/-! ### Memory (R11, R280) -/

/-- The loss that made an address undefined, if a reset did. -/
def lostAt (l : List (Nat × Nat × Nat)) (a : Nat) : Option Nat :=
  match l.find? (fun r => decide (r.1 ≤ a) && decide (a < r.2.1)) with
  | some r => some r.2.2
  | none => none

/-- One byte of memory. An address nothing has written reads 0x00, and a free byte where a reset made the contents
undefined. -/
def State.byteAt (s : State) (a : Nat) : Byte :=
  match SMap.find s.mem a with
  | some b => b
  | none =>
    match lostAt s.lost a with
    | some g => Config.undefByte g a
    | none => 0

/-- One byte of memory replaced, in canonical form. -/
def State.putByte (s : State) (a : Nat) (b : Byte) : State :=
  if b = 0 && (lostAt s.lost a).isNone then { s with mem := SMap.erase s.mem a }
  else { s with mem := SMap.put s.mem a b }

/-- Bytes from an address upward. -/
def State.bytesAt (s : State) (a : Nat) : Nat → Bytes
  | 0 => []
  | n + 1 => s.byteAt a :: State.bytesAt s (a + 1) n

/-- Bytes put from an address upward. -/
def State.putBytes (s : State) (a : Nat) : Bytes → State
  | [] => s
  | b :: t => State.putBytes (s.putByte a b) (a + 1) t

/-- The little-endian number at an address. -/
def State.numAt (s : State) (a n : Nat) : Nat := bytesToNat (s.bytesAt a n)

/-- The contents of a range become undefined. -/
def State.loseRange (s : State) (lo hi : Nat) : State :=
  { s with mem := SMap.eraseRange s.mem lo hi, lost := (lo, hi, s.fresh) :: s.lost, fresh := s.fresh + 1
           poison := s.poison.filter (fun a => decide (a < lo) || decide (hi ≤ a)) }

/-! ### Units -/

def State.core (s : State) (c : Nat) : CoreSt := SMap.get CoreSt.reset s.cores c

def State.setCore (s : State) (c : Nat) (x : CoreSt) : State := { s with cores := s.cores.put c x }

def State.cluster (s : State) (cl : Nat) : ClusterSt := SMap.get ClusterSt.reset s.clusters cl

def State.setCluster (s : State) (cl : Nat) (x : ClusterSt) : State := { s with clusters := s.clusters.put cl x }

def State.eng (s : State) (c e : Nat) : EngSt := SMap.get EngSt.reset (s.core c).engs e

def State.setEng (s : State) (c e : Nat) (x : EngSt) : State :=
  s.setCore c { s.core c with engs := (s.core c).engs.put e x }

def State.sag (s : State) (c n : Nat) : SagSt := SMap.get SagSt.reset (s.core c).sags n

def State.setSag (s : State) (c n : Nat) (x : SagSt) : State :=
  s.setCore c { s.core c with sags := (s.core c).sags.put n x }

def State.hq (s : State) (c q : Nat) : HqSt := SMap.get HqSt.reset (s.core c).hqs q

def State.setHq (s : State) (c q : Nat) (x : HqSt) : State :=
  s.setCore c { s.core c with hqs := (s.core c).hqs.put q x }

/-- The macro-operation in flight with a number. -/
def State.op (s : State) (c num : Nat) : Option Op := (s.core c).ops.find? (fun o => o.num = num)

/-- A macro-operation in flight replaced. -/
def State.setOp (s : State) (c : Nat) (o : Op) : State :=
  s.setCore c { s.core c with ops := (s.core c).ops.map (fun p => if p.num = o.num then o else p) }

def State.die (s : State) (d : Nat) : DieSt := SMap.get DieSt.reset s.dies d

def State.setDie (s : State) (d : Nat) (x : DieSt) : State := { s with dies := s.dies.put d x }

def State.fifo (s : State) (k : Nat) : FifoSt := SMap.get FifoSt.reset s.fifos k

def State.setFifo (s : State) (k : Nat) (x : FifoSt) : State := { s with fifos := s.fifos.put k x }

def State.stream (s : State) (k : Nat) : StreamSt := SMap.get StreamSt.reset s.streams k

def State.setStream (s : State) (k : Nat) (x : StreamSt) : State := { s with streams := s.streams.put k x }

def State.feed (s : State) (p : Nat) : FeedSt := SMap.get FeedSt.reset s.feeds p

def State.setFeed (s : State) (p : Nat) (x : FeedSt) : State := { s with feeds := s.feeds.put p x }

/-- Mover channel n of cluster u, or of the hub for u = 16. -/
def State.mvr (s : State) (u n : Nat) : MvrSt := SMap.get MvrSt.reset s.movers (16 * u + n)

def State.setMvr (s : State) (u n : Nat) (x : MvrSt) : State := { s with movers := s.movers.put (16 * u + n) x }

def State.port (s : State) (p : Nat) : PortSt := SMap.get PortSt.reset s.ports p

def State.setPort (s : State) (p : Nat) (x : PortSt) : State := { s with ports := s.ports.put p x }

/-- Something sent outside the device. -/
def State.emit (s : State) (o : Out) : State := { s with out := s.out ++ [o] }

/-- The outcome of a command whose effect is `t`: every command but those of the TAP and of power-on stops while the
functional state is undefined (R543). -/
def live (s t : State) : Host.Outcome State Fault Refusal :=
  if s.scanned then .fault .functionalStateUndefined else .next t

/-! ### The mesh (R5, R239, R240) -/

/-- Row and column of a core in the grid of 8 rows and 16 columns. -/
def rowOf (c : Nat) : Nat := 4 * (c / 32 / 2) + 2 * (c / 8 % 4 / 2) + c % 8 / 4

def colOf (c : Nat) : Nat := 8 * (c / 32 % 2) + 4 * (c / 8 % 4 % 2) + c % 8 % 4

/-- The flat number of the core at a row and column. -/
def coreAt (r q : Nat) : Nat :=
  32 * (2 * (r / 4) + q / 8) + 8 * (2 * (r % 4 / 2) + q % 8 / 4) + 4 * (r % 2) + q % 4

/-- What lies beyond a port of the grid: another core, or the hub on an outer edge. -/
def meshBeyond (c p : Nat) : Option Nat :=
  let r := rowOf c
  let q := colOf c
  match p with
  | 0 => if r = 0 then none else some (coreAt (r - 1) q)
  | 1 => if q = 15 then none else some (coreAt r (q + 1))
  | 2 => if r = 7 then none else some (coreAt (r + 1) q)
  | _ => if q = 0 then none else some (coreAt r (q - 1))

/-- The die is in DIE-OFF (R499). -/
def dieOff (s : State) (d : Nat) : Bool := s.getF (dieWin d + 0x2000) Reg.PWR_STATUS_OFF = 1

/-- Cadence gate registers of a plan slot (R39). -/
def cadBase (p : Nat) : Nat := hubWin + 0x10000 + 0x100 * p

/-- The state of a plan slot (Table 1.1). -/
def planState (s : State) (p : Nat) : Nat := s.getF (cadBase p) Reg.CAD_STATE_SLOT

/-- The plan a slot holds. -/
def State.plan (s : State) (p : Nat) : PlanSt := SMap.get PlanSt.reset s.plans p

def State.setPlan (s : State) (p : Nat) (x : PlanSt) : State := { s with plans := s.plans.put p x }

/-- The slots that hold a plan. -/
def occupied (s : State) : List Nat := (List.range 8).filter (fun p => planState s p ≠ 0)

/-- The number of an outer-edge port of the grid (R351). -/
def edgeIndex (c p : Nat) : Option Nat :=
  if p = 0 ∧ rowOf c = 0 then some (colOf c)
  else if p = 2 ∧ rowOf c = 7 then some (16 + colOf c)
  else if p = 3 ∧ colOf c = 0 then some (32 + rowOf c)
  else if p = 1 ∧ colOf c = 15 then some (40 + rowOf c)
  else none

/-- The core and port of an outer-edge port number (R351). -/
def edgePort (n : Nat) : Nat × Nat :=
  if n < 16 then (coreAt 0 n, 0)
  else if n < 32 then (coreAt 7 (n - 16), 2)
  else if n < 40 then (coreAt (n - 32) 0, 3)
  else (coreAt (n - 40) 15, 1)

/-- The occupied slot that names an edge port for hub entry or exit (R240). -/
def edgeOwner (s : State) (c p : Nat) : Option Nat :=
  match edgeIndex c p with
  | none => none
  | some n => (occupied s).find? (fun q => bit (clEDGE (s.plan q).img) n)

/-- An occupied plan slot names the edge port for hub entry or exit (R240). -/
def edgeNamed (s : State) (c p : Nat) : Bool := (edgeOwner s c p).isSome

/-- The neighbour of a port: 0 none, 1 core, 2 core across a die bridge, 3 hub (Table 7.9, R240). -/
def portKind (s : State) (c p : Nat) : Nat :=
  if (s.core c).deadPorts.contains p then 0 else
  match meshBeyond c p with
  | some d => if d / 32 = c / 32 then 1 else if dieOff s (d / 32) then 0 else 2
  | none => if edgeNamed s c p then 3 else 0

/-- The opposite port (R76). -/
def oppPort (p : Nat) : Nat := (p + 2) % 4

end Sys2Proof.Machine
end

