-- ==== Sys2Proof/Machine/Hub.lean ====
section
/-! DEFINITION. The operations the hub's parts share: register blocks, injection points, the event log (R411), MSI-X
(R423), host memory and flits (R396, R454 to R466), completions (R402, R403), results (R420 to R424). -/

namespace Sys2Proof.Machine
open Sys2Proof
open Sys2Proof.Machine.Reg

/-! ### Where blocks lie (Tables 8.2 to 8.4) -/

def lulBase (p : Nat) : Nat := hubWin + 0x20000 + 0x40 * p
def fifBase (k : Nat) : Nat := hubWin + 0x40000 + 0x100 * k
def fdBase (p : Nat) : Nat := hubWin + 0x48000 + 0x400 * p
/-- Target t of a feeder: its fields' offsets count from 0x40. -/
def fdtBase (p t : Nat) : Nat := fdBase p + 0x20 * t
/-- Registers of mover channel n of cluster u, or of the hub for u = 16. -/
def mvrBase (u n : Nat) : Nat := if u < 16 then clusterWin u + 0x2000 + 0x100 * n else hubWin + 0x50000 + 0x100 * n
def rlyBase : Nat := hubWin + 0x60000
def rlyPort (p : Nat) : Nat := rlyBase + 0x100 * p
def pwrDie (d : Nat) : Nat := dieWin d + 0x2000
def pwrHub : Nat := hubWin + 0x70000
def secBase : Nat := hubWin + 0x80000
def dbgBase : Nat := hubWin + 0x90000
/-- Ring registers of a stream slot (Table 11.7). -/
def ringBase (k : Nat) : Nat := hubWin + 0x2000 + 0x10 * k
/-- The transaction unit of cluster u, or of the hub for u = 16. -/
def txuBase (u : Nat) : Nat := if u < 16 then clusterWin u else hubWin + 0x30000
def lpcBase (d : Nat) : Nat := dieWin d
def maBase (d : Nat) : Nat := dieWin d + 0x1000
/-- Bank registers of a group of a die (R297): scratch of 32 cores, then four cluster memories. -/
def bnkBase (d g : Nat) : Nat :=
  if g < 32 then coreWin (32 * d + g) + 0x6000 else clusterWin (4 * d + (g - 32)) + 0x6000

/-- The time base in nanoseconds (R30). -/
def now (s : State) : Nat := s.timeBase.toNat

/-! ### Injection points (R449, R450) -/

def injBase (d : Nat) : Nat := hubWin + 0x30000 + 0x10 * d

/-- One occurrence of detector d, if its point is armed on this target. -/
def injected (s : State) (d target : Nat) : Bool × State :=
  let b := injBase d
  let n := s.getF b TXU_INJ_COUNT
  if n ≠ 0 ∧ s.getF b TXU_INJ_TARGET = target then (true, (s.setF b TXU_INJ_COUNT (n - 1)).addF b TXU_INJ_FIRED 1)
  else (false, s)

/-! ### Relay links: sending (R456 to R458, R462) -/

/-- This module's device number (R461). -/
def myDev (s : State) : Nat := s.getF rlyBase RLY_ID_DEVNUM

/-- This module is the head of its chain (R460). -/
def isHead (s : State) : Bool := s.getF hubWin MBX_STATUS_HEAD = 1

/-- The routing table entry toward a module (R462). -/
def routeTo (s : State) (d : Nat) : Nat := bits (s.reg (rlyBase + 0x804 + 4 * (d / 8))) (4 * (d % 8)) 4

def portUp (s : State) (p : Nat) : Bool := s.getF (rlyPort p) RLY_P_STATUS_STATE = 5

/-- Bytes 0 to 251 of a flit (Table 13.1). -/
def flitBytes (f : Flit) : Bytes :=
  natToBytes 1 f.kind ++ natToBytes 1 (f.dst + 64 * f.vc) ++ natToBytes 1 f.src ++ natToBytes 1 f.plen ++ natToBytes 2 f.cret ++
    natToBytes 2 f.ack ++ natToBytes 2 f.fseq ++ [if f.nak then 1 else 0, 0] ++ slice f.args 0 48 ++ slice f.payload 0 192

/-- A flit goes out on a port with its CRC (R454). -/
def emitFlit (s : State) (p : Nat) (f : Flit) : State := s.emit (.flit p f (BitVec.ofNat 32 (crc32 (flitBytes f))))

/-- A flit leaves a port: numbered if it is sequenced, with the acknowledgement, the credits to return and NAK
(Table 13.1, R456, R458). -/
def portXmit (s : State) (p : Nat) (f : Flit) : State :=
  let x := s.port p
  let seqd := decide (2 ≤ f.kind)
  let cret := (List.range 4).foldl (fun m v => m + min 15 (x.ret.getD v 0) * 16 ^ v) 0
  let g := { f with cret := cret, ack := x.rx, nak := x.nak, fseq := if seqd then x.tx else 0 }
  let x := { x with ret := x.ret.map (fun r => r - min 15 r) }
  let x := if seqd then
      { x with tx := (x.tx + 1) % 65536, unacked := x.unacked ++ [(g, 0)], cred := x.cred.set f.vc (x.cred.getD f.vc 0 - 1)
               ackT := if x.unacked.isEmpty then now s else x.ackT }
    else x
  emitFlit (s.setPort p x) p g

/-- A sequenced flit may leave: a credit of its channel, and room in the replay buffer (R456, R458). -/
def portMay (s : State) (p : Nat) (f : Flit) : Bool :=
  decide (0 < (s.port p).cred.getD f.vc 0) && decide ((s.port p).unacked.length < 128)

/-- Waiting flits sent as far as credits go, each channel in its order (R457). -/
def portDrain (s : State) (p : Nat) : State :=
  let r := (s.port p).sendq.foldl (fun (st : State × List Flit) f =>
    if (st.2.all (fun g => g.vc ≠ f.vc)) && portMay st.1 p f then (portXmit st.1 p f, st.2) else (st.1, st.2 ++ [f])) (s, [])
  r.1.setPort p { r.1.port p with sendq := r.2 }

/-- A flit for another module goes to the port its route names: false where the port is not UP or there is no route. -/
def flitSend (s : State) (f : Flit) : Bool × State :=
  let p := routeTo s f.dst
  if 8 ≤ p ∨ !portUp s p then (false, s)
  else (true, portDrain (s.setPort p { s.port p with sendq := (s.port p).sendq ++ [f] }) p)

/-- A flit of this module with its arguments padded to 48 bytes and its payload to 192. -/
def mkFlit (s : State) (kind dst vc : Nat) (args payload : Bytes) : Flit :=
  ⟨kind, dst, vc, myDev s, payload.length - 1, 0, 0, 0, false, slice args 0 48, slice payload 0 192⟩

/-- Cut bytes into cutBytes of n. -/
def cutBytes : Nat → Nat → Bytes → List Bytes
  | 0, _, _ => []
  | k + 1, n, b => if b.isEmpty then [] else b.take n :: cutBytes k n (b.drop n)

/-! ### The configuration space (R393, R395): capabilities at offsets of the model's own (log 132) -/

/-- A dword of the configuration space, with its value at reset. -/
def cfgHeld (s : State) (o dflt : Nat) : Nat :=
  match SMap.find s.cfgSpace o with
  | some v => v.toNat
  | none => dflt

/-- Message Control of MSI-X lies in this dword: [30] Function Mask, [31] MSI-X Enable. -/
def cfgMSIX : Nat := 0x50

/-- The uncorrectable and correctable status registers of AER, and the reset value of the mask behind the latter. -/
def cfgAERU : Nat := 0x104
def cfgAERC : Nat := 0x110
def cfgAERMask : Nat := 0x2000

/-- Device Control: [4] Enable Relaxed Ordering, [7:5] Max_Payload_Size, [14:12] Max_Read_Request_Size. -/
def cfgDEVCTL : Nat := 0x78
def devctlReset : Nat := 0x2810

/-- The host has enabled Relaxed Ordering (R396). -/
def relaxOn (s : State) : Bool := bit (cfgHeld s cfgDEVCTL devctlReset) 4

/-! ### Host memory (R396, R466) -/

/-- A write to host memory: on PCI Express at the head, as MWR flits elsewhere; none while the hub holds the endpoint in reset
for heat (R494). -/
def hostPut (s : State) (addr : Nat) (data : Bytes) (relaxed : Bool) : State :=
  if s.hubHot then s
  else if isHead s then s.emit (.hostWrite addr data relaxed)
  else
    ((cutBytes (data.length + 1) 192 data).foldl (fun (st : State × Nat) d =>
      ((flitSend st.1 (mkFlit st.1 0x21 0 1 (natToBytes 8 st.2) d)).2, st.2 + d.length)) (s, addr)).1

/-- A write of a completion, a result or a command's result, which never carries Relaxed Ordering (R396). -/
def hostWrite (s : State) (addr : Nat) (data : Bytes) : State := hostPut s addr data false

/-- A read of host memory: at the head the data are `got`, none where the access failed. A downstream module sends MRD
flits and waits (outer none) until their MCPL flits are in (R466). -/
def hostRead (s : State) (addr len : Nat) (got : Option Bytes) : Option (Option Bytes) × State :=
  if isHead s then (some (got.map (fun b => slice b 0 len)), s.emit (.hostRead addr len false))
  else
    let parts := (List.range (ceilDiv len 4096)).map (fun i => (addr + 4096 * i, min 4096 (len - 4096 * i)))
    let s := parts.foldl (fun t q =>
      if t.proxy.any (fun r => r.addr = q.1 ∧ r.len = q.2) then t
      else
        let tag := t.nextTag
        let f := mkFlit t 0x20 0 1 (natToBytes 8 q.1 ++ natToBytes 4 q.2 ++ natToBytes 2 tag) [0]
        let u := flitSend t f
        { u.2 with nextTag := (tag + 1) % 65536, proxy := u.2.proxy ++ [⟨tag, q.1, q.2, [], !u.1⟩] }) s
    let mine := parts.filterMap (fun q => s.proxy.find? (fun r => r.addr = q.1 ∧ r.len = q.2))
    if mine.any (·.failed) then (some none, { s with proxy := s.proxy.filter (fun r => !mine.contains r) })
    else if mine.all (fun r => r.data.length = r.len) then
      (some (some (mine.flatMap (·.data))), { s with proxy := s.proxy.filter (fun r => !mine.contains r) })
    else (none, s)

/-! ### Interrupts (R423) -/

def msixBase (v : Nat) : Nat := hubWin + 0x4000 + 16 * v

/-- Messages of a vector are held back: MSI-X is off, or the function or the vector is masked (log 132). -/
def vectorMasked (s : State) (v : Nat) : Bool :=
  bits (cfgHeld s cfgMSIX 0) 30 2 != 2 || s.getF (msixBase v) MBX_MSIX_MASK = 1

/-- The message of a vector sent, or its pending bit set under a mask; none while the hub holds the endpoint in reset for heat
(R494). Downstream modules send an IRQ flit (R466). -/
def raiseVector (s : State) (v : Nat) : State :=
  if s.hubHot then s
  else if !isHead s then (flitSend s (mkFlit s 0x22 0 1 [BitVec.ofNat 8 v] [0])).2
  else if vectorMasked s v then
    let a := hubWin + 0x4800 + 4 * (v / 32)
    s.setReg a (s.reg a ||| 2 ^ (v % 32))
  else
    s.emit (.msix v (s.getF (msixBase v) MBX_MSIX_ADDR_LO + s.getF (msixBase v) MBX_MSIX_ADDR_HI * 2 ^ 32)
      (s.getF (msixBase v) MBX_MSIX_DATA))

/-- The bit of MBX_FIF_PEND for a FIFO follows its four flags, and a rise raises vector 2 (Table 11.4, R423). -/
def fifPend (s : State) (k : Nat) : State :=
  let w := s.reg (fifBase k + 0xC)
  let a := hubWin + 0x40 + 4 * (k / 32)
  let on := bits w 18 4 ≠ 0
  let was := bit (s.reg a) (k % 32)
  let s := s.setReg a (setBits (s.reg a) (k % 32) 1 (if on then 1 else 0))
  if on ∧ !was then raiseVector s 2 else s

/-! ### The event log (R411) -/

/-- A record appended, the oldest overwritten beyond 4,096, and vector 1 raised. -/
def logEvent (s : State) (code core slot a0 a1 a2 a3 : Nat) : State :=
  let n := (s.getF hubWin MBX_EVT_SEQ_SEQ + 1) % 2 ^ 32
  let l := s.log ++ [⟨n, code, core, slot, now s, a0, a1, a2, a3⟩]
  raiseVector ({ s with log := l.drop (l.length - 4096) }.setF hubWin MBX_EVT_SEQ_SEQ n) 1

/-- The records held from number f on, in order; numbers go on modulo 2^32, so that a number above the newest may be older (R411;
log 81). -/
def logFrom (s : State) (f : Nat) : List LogRec :=
  let newest := s.getF hubWin MBX_EVT_SEQ_SEQ
  let age (n : Nat) : Nat := (newest + 2 ^ 32 - n) % 2 ^ 32
  if f ≤ newest ∨ (s.log.any (fun r => decide (newest < r.seq)) ∧ age f < 2 ^ 31) then
    s.log.filter (fun r => decide (age r.seq ≤ age f))
  else []

/-- The 32 bytes of an event record (Table 11.13). -/
def logBytes (r : LogRec) : Bytes :=
  natToBytes 4 r.seq ++ natToBytes 2 r.code ++ natToBytes 1 r.core ++ natToBytes 1 r.slot ++ natToBytes 8 r.time ++
    natToBytes 4 r.a0 ++ natToBytes 4 r.a1 ++ natToBytes 4 r.a2 ++ natToBytes 4 r.a3

/-- A bus error in the event log (R284). -/
def logBusError (s : State) (a : Nat) : State := logEvent s 0x8004 0xFF 0xFF (a % 2 ^ 32) (a / 2 ^ 32) 0 0

/-- An uncorrectable read in the event log (R561). -/
def logUncorrectable (s : State) (a req core : Nat) : State :=
  logEvent s 0x8005 core 0xFF (a % 2 ^ 32) (a / 2 ^ 32 % 2 ^ 16 + req * 2 ^ 16) 0 0

/-! ### Completions (R402, R403) -/

def ccSize (s : State) : Nat := 2 ^ s.getF hubWin MBX_CC_CFG_SIZE

/-- The completion ring takes entries: enabled, and not stopped. -/
def ccOpen (s : State) : Bool := s.getF hubWin MBX_CC_CFG_EN = 1 && !s.ccStop

/-- A completion written as one 32-byte write with the ring's phase; it waits while the ring is not open. `e` holds bytes
0x00 to 0x1B. -/
def writeCompletion (s : State) (e : Bytes) (noirq : Bool) : State :=
  if !ccOpen s then { s with ccWait := s.ccWait ++ [(e, noirq)] }
  else
    let t := s.getF hubWin MBX_CC_TAIL_INDEX
    let ph := s.getF hubWin MBX_CC_TAIL_PHASE
    let base := s.getF hubWin MBX_CC_BASE_LO_ADDR + s.getF hubWin MBX_CC_BASE_HI_ADDR * 2 ^ 32
    let s := hostWrite s (base + 32 * t) (slice e 0 28 ++ natToBytes 4 (ph * 2 ^ 31))
    let n := (t + 1) % ccSize s
    let s := (s.setF hubWin MBX_CC_TAIL_INDEX n).setF hubWin MBX_CC_TAIL_PHASE (if n = 0 then 1 - ph else ph)
    let s := { s with ccUnread := s.ccUnread + 1 }
    if noirq then s else raiseVector s 0

/-- Bytes 0x00 to 0x1B of a completion (Table 11.6). -/
def completionBytes (cid status detail : Nat) (result : Bytes) (crhead dev : Nat) : Bytes :=
  natToBytes 2 cid ++ natToBytes 2 status ++ natToBytes 4 detail ++ slice result 0 16 ++ natToBytes 2 crhead ++
    natToBytes 1 dev ++ [0]

def tkOPC (t : Taken) : Nat := leAt t.entry 0 1
def tkCID (t : Taken) : Nat := leAt t.entry 2 2
/-- An argument field of a taken command, by its offset within the entry. -/
def tkArg (t : Taken) (off len : Nat) : Nat := leAt t.entry off len

/-- The command at place i of the taken list completes (R402, R405). -/
def finish (s : State) (i status detail : Nat) (result : Bytes) : State :=
  match s.taken[i]? with
  | none => s
  | some t =>
    let s := { s with taken := s.taken.eraseIdx i }
    let e := completionBytes (tkCID t) status detail (if status = 0 then result else []) t.crhead (myDev s)
    match t.from_ with
    | none => writeCompletion s e (bit (leAt t.entry 1 1) 0)
    | some m => (flitSend s (mkFlit s 0x11 m 0 [] (e ++ natToBytes 4 0))).2

/-- The started commands that satisfy a test complete; while the steward is down they stay, to end with STEWARD_RESTART (R502). -/
def finishAll (s : State) (p : Taken → Bool) (r : Taken → Nat × Nat × Bytes) : State :=
  if s.boot.down then s else s.taken.foldl (fun t x =>
    if x.started && p x then
      match t.taken.findIdx? (fun y => y = x) with
      | some i => finish t i (r x).1 (r x).2.1 (r x).2.2
      | none => t
    else t) s

/-- The command at place i marked as started, with the values it keeps. -/
def startTaken (s : State) (i v0 v1 : Nat) : State :=
  match s.taken[i]? with
  | none => s
  | some t => { s with taken := s.taken.set i { t with started := true, v0 := v0, v1 := v1 } }

/-! ### Results (R420 to R424) -/

/-- Result flags (Table 11.15). -/
def fLATE : Nat := 0
def fLRISK : Nat := 1
def fSAT : Nat := 2
def fUFL : Nat := 3
def fTRUNC : Nat := 4
def fSPILLED : Nat := 5
def fABORTED : Nat := 6
def fINGEST : Nat := 7
def fOUTCUT : Nat := 8
def fNOTRUN : Nat := 9

/-- A flag set in a word of result flags. -/
def withFlag (w f : Nat) (b : Bool) : Nat := if b then w ||| 2 ^ f else w

/-- A result counted toward the ring's interrupt (R424). -/
def countResult (s : State) (k : Nat) : State :=
  let x := s.stream k
  if x.modcnt ≤ x.since + 1 then raiseVector (s.setStream k { x with since := 0, sinceT := none }) x.ivec
  else s.setStream k { x with since := x.since + 1, sinceT := some (x.sinceT.getD (now s)) }

/-- A result descriptor written to a stream's ring as one 32-byte write (R420), and counted unless NOIRQ. -/
def writeResult (s : State) (k user seq outBytes flags ring : Nat) (noirq : Bool) : State :=
  let x := s.stream k
  let b := ringBase k
  let t := s.getF b MBX_RR_STATUS_TAIL
  let ph := s.getF b MBX_RR_STATUS_PHASE
  let d := natToBytes 8 user ++ natToBytes 8 (now s) ++ natToBytes 4 seq ++ natToBytes 4 outBytes ++ natToBytes 2 flags ++
    natToBytes 2 ring ++ natToBytes 4 (k + ph * 2 ^ 31)
  let s := hostWrite s (x.rrbase + 32 * t) d
  let n := (t + 1) % 2 ^ x.rsize
  let s := (s.setF b MBX_RR_STATUS_TAIL n).setF b MBX_RR_STATUS_PHASE (if n = 0 then 1 - ph else ph)
  let s := s.setStream k { x with unread := x.unread + 1 }
  if noirq then s else countResult s k

def fdUSER (d : Bytes) : Nat := leAt d 0x20 8
def fdINLEN (d : Bytes) : Nat := leAt d 0x08 4
def fdINADDR (d : Bytes) : Nat := leAt d 0x00 8
def fdNOIRQ (d : Bytes) : Bool := bit (leAt d 0x0C 4) 0
def fdOUTADDR (d : Bytes) : Nat := leAt d 0x10 8
def fdOUTLEN (d : Bytes) : Nat := leAt d 0x18 4

/-- The relay output of a plan slot in force (R464, R471): enabled, module, stream slot, LEN. -/
def outEN (x : PlanSt) : Bool := bit x.outCfg 0
def outDEV (x : PlanSt) : Nat := bits x.outCfg 1 6
def outSLOT (x : PlanSt) : Nat := bits x.outCfg 7 7

/-- The frame in flight or held with a stream slot and sequence number. -/
def frameOf (s : State) (k seq : Nat) : Option Frame := s.frames.find? (fun f => f.slot = k ∧ f.seq = seq)

/-- A frame replaced. -/
def setFrame (s : State) (f : Frame) : State :=
  { s with frames := s.frames.map (fun g => if g.slot = f.slot ∧ g.seq = f.seq then f else g) }

/-! ### Relay output (R470, R471) -/

/-- The destination of a flit can be reached (R475). -/
def relayReach (s : State) (d : Nat) : Bool := decide (routeTo s d < 8) && portUp s (routeTo s d)

/-- The grant a relay flit draws on: FDATA takes its payload bytes from what the stream slot granted. -/
def relayKey (f : Flit) : Nat := 128 * f.dst + leAt f.args 0 1 % 128
def relayNeed (f : Flit) : Nat := if f.kind = 0x31 then f.plen + 1 else 0

/-- Waiting relay output sent as far as grants go, in order for each stream slot; output for a module that cannot be
reached is discarded (R475). -/
def relayPump (s : State) : State :=
  let r := s.relayq.foldl (fun (st : State × List Flit) f =>
    let k := relayKey f
    if !relayReach st.1 f.dst then st
    else if st.2.any (fun g => relayKey g = k) || decide (SMap.get 0 st.1.grants k < relayNeed f) then (st.1, st.2 ++ [f])
    else
      let t := { st.1 with grants := st.1.grants.put k (SMap.get 0 st.1.grants k - relayNeed f) }
      ((flitSend t f).2, st.2)) (s, [])
  { r.1 with relayq := r.2 }

/-- A relay output flit sent or made to wait. -/
def relaySend (s : State) (f : Flit) : State := relayPump { s with relayq := s.relayq ++ [f] }

/-- A frame's result written with these flags, and FEND sent where its output goes to another module (R433, R471). -/
def publish (s : State) (f : Frame) (flags : Nat) : State :=
  let x := s.plan f.plan
  let ob := if outEN x then x.outLen else min (64 * f.outHi) (fdOUTLEN f.desc)
  let s := writeResult s f.slot (fdUSER f.desc) f.seq ob flags f.ring (fdNOIRQ f.desc)
  if outEN x ∧ f.relayed.isSome then
    relaySend s (mkFlit s 0x32 (outDEV x) 2 (natToBytes 4 (outSLOT x) ++ natToBytes 4 f.seq ++ natToBytes 2 flags) [0])
  else s

/-! ### Release (R25, R33 to R38, R433) -/

/-- An earlier frame of the same stream is still to be published (R25). -/
def blockedBy (l : List Frame) (f : Frame) : Bool :=
  (l.takeWhile (fun g => !(g.slot = f.slot && g.seq = f.seq))).any (fun g => g.slot = f.slot && !g.aborted)

/-- A held frame is released: counted, logged if it is a breach (R35), published, its release entry freed. -/
def release (s : State) (f : Frame) : State :=
  let b := cadBase f.plan
  let late := bit f.flags fLATE
  let risk := bit f.flags fLRISK
  let s := if late then s.addF b CAD_LATE_CNT_COUNT 1 else s
  let s := if risk then s.addF b CAD_LRISK_CNT_COUNT 1 else s
  let s := if late && !risk then logEvent s (if f.starved then 0x8003 else 0x8001) 0xFF f.plan f.slot f.seq 0 0 else s
  let s := publish s f f.flags
  { s with frames := s.frames.filter (fun g => !(g.slot = f.slot && g.seq = f.seq)) }

/-- The held frames of a stream that are due are published, in order, before an ABORTED or NOTRUN result of the stream (R421). -/
def publishBefore (s : State) (k : Nat) : State :=
  s.frames.foldl (fun t f =>
    match frameOf t f.slot f.seq with
    | some g => if g.slot = k ∧ g.held.isSome ∧ g.trel ≤ now t ∧ !blockedBy t.frames g then release t g else t
    | none => t) s

end Sys2Proof.Machine
end

