-- ==== Sys2Proof/Machine/Bus.lean ====
section
/-! DEFINITION. The device address map (R280 to R284), memory accesses with their checks (R285 to R289, R295, R308),
retention wake by an access (R291), and the maintenance requests (R297, R298). -/

namespace Sys2Proof.Machine
open Sys2Proof
open Sys2Proof.Machine.Reg

/-- What stands at a device address (Table 8.1). -/
inductive Place
  /-- LPDDR4X of a die. -/
  | lpddr (d : Nat)
  /-- Scratch of a core. -/
  | scratch (c : Nat)
  /-- Cluster memory. -/
  | cmem (cl : Nat)
  /-- The hub SRAM window. -/
  | hubSram
  /-- A compute-die register window. -/
  | dieReg
  /-- The hub register window. -/
  | hubReg
  | unmapped
deriving DecidableEq, Repr

/-- The place of a device address (R280 to R282). -/
def placeOf (a : Nat) : Place :=
  let c := bits a 36 4
  let k := bits a 32 4
  let o := a % 2 ^ 32
  if a < 0x004000000000 then (if a % 2 ^ 36 < 0xF00000000 then .lpddr (a / 2 ^ 36) else .unmapped)
  else if 0x800000000000 ≤ a ∧ a < 0x840000000000 then
    let d := bits a 40 2
    if c < 4 ∧ k < 8 ∧ o < 0x600000 then .scratch (32 * d + 8 * c + k)
    else if c < 4 ∧ k = 15 ∧ o < 0x1000000 then .cmem (4 * d + c)
    else .unmapped
  else if 0x880000000000 ≤ a ∧ a < 0x880001000000 then .hubSram
  else match windowOf a with
    | some (.hub, _) => .hubReg
    | some (_, _) => .dieReg
    | none => .unmapped

/-- The die a place lies on. -/
def placeDie (a : Nat) : Option Nat :=
  match placeOf a with
  | .lpddr d => some d
  | .scratch c => some (c / 32)
  | .cmem cl => some (cl / 4)
  | .dieReg => some (bits a 40 2)
  | _ => none

/-- The address is reachable: mapped, and not on a die in DIE-OFF except its PWR block (R284, R485, R499). -/
def reachable (s : State) (a : Nat) : Bool :=
  placeOf a != .unmapped &&
    (match placeDie a with
     | some d => !dieOff s d || (placeOf a == .dieReg && decide (pwrDie d ≤ a) && decide (a < pwrDie d + 0x1000))
     | none => true)

/-! ### ECC of the banks (R286 to R288, R295) -/

/-- The accesses that [a, a + len) takes: one for each aligned unit of u bytes it touches (R61, R285, R287). -/
def accesses (u a len : Nat) : List (Nat × Nat) :=
  if len = 0 then []
  else (List.range ((a + len - 1) / u - a / u + 1)).map (fun i =>
    let lo := max a ((a / u + i) * u)
    (lo, min (a + len) ((a / u + i + 1) * u) - lo))

/-- The first poisoned ECC word under [a, a + len). -/
def badWord (s : State) (a len : Nat) : Option Nat :=
  s.poison.find? (fun p => decide (a < p + 8) && decide (p < a + len))

/-- The bank group of an SRAM address: die, group (R297), byte offset in the group. -/
def groupOf (a : Nat) : Nat × Nat × Nat :=
  let d := bits a 40 2
  let c := bits a 36 4
  let k := bits a 32 4
  (d, if k = 15 then 32 + c else 8 * c + k, a % 2 ^ 32)

/-- The activity that runs on a group. -/
def maRunning (s : State) (d g : Nat) : Nat := (SMap.find (s.die d).running g).getD 0

/-- The bank group accepts accesses: its cells are at their full supply (R290). -/
def groupAwake (s : State) (d g : Nat) : Bool := s.getF (bnkBase d g) BNK_STATE_STATE = 0

/-- The sweep has claimed a region under the access (R293). -/
def regionHeld (s : State) (a len : Nat) : Bool :=
  let g := groupOf a
  let r := s.getF (bnkBase g.1 g.2.1) BNK_SWEEP_POS_REGION
  maRunning s g.1 g.2.1 = 7 && decide (r * 1024 < g.2.2 + len) && decide (g.2.2 < (r + 1) * 1024)

/-- The group for which an access has to wait: a bank group in retention (R291), or one of which the sweep has claimed a region
under the access (R293), or in STANDBY a channel of LPDDR4X (Table 14.5; log 96). -/
def waitsOn (s : State) (a len : Nat) : Option (Nat × Nat) :=
  match placeOf a with
  | .scratch _ | .cmem _ =>
    let g := groupOf a
    if !groupAwake s g.1 g.2.1 || regionHeld s a len then some (g.1, g.2.1) else none
  | .lpddr d => if s.getF pwrHub PWR_STATE_STANDBY = 1 ∧ !dieOff s d then some (d, 36 + bits a 8 4) else none
  | _ => none

/-- An access noted where it has to wait; the first one counts. -/
def noteMet (s : State) (a len : Nat) : State := if s.met.isSome then s else { s with met := waitsOn s a len }

/-- A region marked bad lies under the access (R295). -/
def badRegion (s : State) (a len : Nat) : Bool :=
  let g := groupOf a
  (s.die g.1).bad.any (fun r => r.1 = g.2.1 && decide (r.2 * 1024 < g.2.2 + len) && decide (g.2.2 < (r.2 + 1) * 1024))

/-- The injection target of a bank group (Table 12.9). -/
def bankTarget (d g : Nat) : Nat := if g < 32 then 32 * d + g else 0x80 + 4 * d + (g - 32)

/-- An uncorrectable read noted in a bank group's registers (R288). -/
def noteUE (s : State) (bnk off : Nat) : State := (s.addF bnk BNK_UE_CNT_COUNT 1).setF bnk BNK_UE_ADDR_OFFSET off

/-- A read access of a bank, within one 64-byte word: the ECC word at which it is uncorrectable, if it is (R288). A
correctable error is an injected one, since the stored bits are right; an uncorrectable access is counted once, and the offset
of its ECC word recorded (DEDUCED, log 94). -/
def bankAccess (s : State) (a len : Nat) : Option Nat × State :=
  let g := groupOf a
  let t := bankTarget g.1 g.2.1
  let b := bnkBase g.1 g.2.1
  let i1 := injected s 0x01 t
  let s := if i1.1 then i1.2.addF b BNK_CE_CNT_COUNT 1 else i1.2
  let i2 := injected s 0x02 t
  match badWord i2.2 a len with
  | some w => (some w, noteUE i2.2 b (w % 2 ^ 32))
  | none => if i2.1 || badRegion i2.2 a len then (some (a / 8 * 8), noteUE i2.2 b (g.2.2 / 8 * 8)) else (none, i2.2)

/-- Accesses one after another: the first word or line that is uncorrectable. -/
def allAccess (f : State → Nat → Nat → Option Nat × State) (s : State) (l : List (Nat × Nat)) : Option Nat × State :=
  l.foldl (fun st p => let q := f st.2 p.1 p.2; (st.1.or q.1, q.2)) (none, s)

/-- The bytes of a checked read, or the word or line at which it failed. -/
def checkedBytes (r : Option Nat × State) (a len : Nat) : (Nat ⊕ Bytes) × State :=
  (match r.1 with
   | some w => .inl w
   | none => .inr (r.2.bytesAt a len), r.2)

/-- A checked read of on-chip SRAM: its first uncorrectable ECC word, or the bytes (R288). -/
def bankRead (s : State) (a len : Nat) : (Nat ⊕ Bytes) × State :=
  checkedBytes (allAccess bankAccess (noteMet s a len) (accesses 64 a len)) a len

/-- Units of u bytes that [a, a + len) covers in part, first and last. -/
def partUnits (u a len : Nat) : List Nat :=
  let e := a + len
  (if a % u ≠ 0 then [a / u * u] else []) ++ (if e % u ≠ 0 ∧ (e / u * u ≠ a / u * u ∨ a % u = 0) then [e / u * u] else [])

/-- The word or line at w is poisoned. -/
def poison (s : State) (w : Nat) : State := if s.poison.contains w then s else { s with poison := w :: s.poison }

/-- Bytes written to on-chip SRAM, and the first word that a merge could not correct. A write that covers a whole ECC
word clears its poison (Table 8.5); a word of which it covers a part is read first, and an uncorrectable one is written
poisoned; what falls into a bad region is discarded (R295). -/
def sramMerge (s : State) (a : Nat) (b : Bytes) : Option Nat × State :=
  let r := (partUnits 8 a b.length).foldl (fun (st : Option Nat × State) w =>
    if badRegion st.2 w 8 then st
    else
      let q := bankAccess st.2 w 8
      (st.1.or q.1, if q.1.isNone then q.2 else poison q.2 w)) (none, noteMet s a b.length)
  let t := (accesses 1024 a b.length).foldl (fun t p =>
    if badRegion t p.1 p.2 then t else t.putBytes p.1 (slice b (p.1 - a) p.2)) r.2
  (r.1, { t with poison := t.poison.filter (fun p =>
    !(decide (a ≤ p) && decide (p + 8 ≤ a + b.length) && !badRegion t p 8 && placeOf p != .lpddr (p / 2 ^ 36))) })

/-- Bytes written to on-chip SRAM. -/
def sramWrite (s : State) (a : Nat) (b : Bytes) : State := (sramMerge s a b).2

/-! ### LPDDR4X (R303, R308) -/

/-- The channel of a device address within its die (R303). -/
def channelOf (a : Nat) : Nat := bits a 8 4

/-- The data line of a device address within its channel (R303). -/
def lineOf (a : Nat) : Nat := a % 2 ^ 36 / 4096 * 4 + bits a 6 2

/-- The byte of its channel at which a device address lies (R303). -/
def lineLocation (a : Nat) : Nat := lineOf a / 15 * 1024 + lineOf a % 15 * 64 + a % 64

/-- The byte of its channel at which the check field of a device address's line lies (R303). -/
def lineCheck (a : Nat) : Nat := lineOf a / 15 * 1024 + 960 + lineOf a % 15 * 4

/-- Device address of line l of channel c of a die (R303). -/
def lineAddr (d c l : Nat) : Nat := d * 2 ^ 36 + l / 4 * 4096 + c * 256 + l % 4 * 64

/-- The check field of the line at a device address (Table 8.12). The check codes are free functions of what they cover (log
95); a line's data are stored right, so that a stored error is an injected one (R450) or POISON. -/
def checkField (s : State) (l : Nat) : Nat :=
  (Config.secdedHalf (s.bytesAt l 32)).toNat + (Config.secdedHalf (s.bytesAt (l + 32) 32)).toNat * 2 ^ 10 +
    (Config.addrCheck (bits l 6 32)).toNat * 2 ^ 20 + (if s.poison.contains l then 2 ^ 28 else 0)

/-- An uncorrectable line noted in a die's controller registers (R308). -/
def noteLine (s : State) (a : Nat) : State :=
  let b := lpcBase (a / 2 ^ 36)
  ((s.addF b LPC_UE_CNT_COUNT 1).setF b LPC_UE_ADDR_LO_ADDR (a % 2 ^ 32)).setF b LPC_UE_ADDR_HI_ADDR (a / 2 ^ 32)

/-- A read access of LPDDR4X, within one line: the line, where it is uncorrectable (R308). A corrected line is written back as
what it was stored as, since the stored bits are right and the error an injected one. -/
def lineAccess (s : State) (a _len : Nat) : Option Nat × State :=
  let l := a / 64 * 64
  let t := 16 * (a / 2 ^ 36) + channelOf a
  let i1 := injected s 0x03 t
  let s := if i1.1 then i1.2.addF (lpcBase (a / 2 ^ 36)) LPC_CE_CNT_COUNT 1 else i1.2
  let i2 := injected s 0x04 t
  if i2.1 || i2.2.poison.contains l then (some l, noteLine i2.2 l) else (none, i2.2)

/-- A checked read of LPDDR4X: its first uncorrectable line, or the bytes (R308). -/
def lineRead (s : State) (a len : Nat) : (Nat ⊕ Bytes) × State :=
  checkedBytes (allAccess lineAccess (noteMet s a len) (accesses 64 a len)) a len

/-- A write of LPDDR4X, and the first line that a merge could not correct: whole lines clear POISON; a line written in part
is read first, and poisoned if that read is uncorrectable (R308). -/
def lineMerge (s : State) (a : Nat) (b : Bytes) : Option Nat × State :=
  if b.isEmpty then (none, s) else
  let r := (partUnits 64 a b.length).foldl (fun (st : Option Nat × State) w =>
    let q := lineAccess st.2 w 64
    (st.1.or q.1, if q.1.isNone then q.2 else poison q.2 w)) (none, noteMet s a b.length)
  let t := r.2.putBytes a b
  (r.1, { t with poison := t.poison.filter (fun p =>
    !(decide (a ≤ p) && decide (p + 64 ≤ a + b.length) && decide (p < 0x004000000000))) })

/-- A write of LPDDR4X. -/
def lineWrite (s : State) (a : Nat) (b : Bytes) : State := (lineMerge s a b).2

/-! ### Any memory -/

/-- How a memory access ends. -/
inductive MemRes
  | ok (b : Bytes)
  /-- A bus error (R284). -/
  | bus
  /-- Uncorrectable, with the address of the word or line (R288, R308). -/
  | ue (a : Nat)
deriving DecidableEq, Repr

/-- A checked read as a memory access. -/
def MemRes.ofRead (r : (Nat ⊕ Bytes) × State) : MemRes × State :=
  (match r.1 with
   | .inl l => .ue l
   | .inr b => .ok b, r.2)

/-- A write as a memory access: it lands also where its merge met an uncorrectable word or line. -/
def MemRes.ofWrite (r : Option Nat × State) : MemRes × State :=
  (match r.1 with
   | some l => .ue l
   | none => .ok [], r.2)

/-- Both ends of an access are reachable, in one memory (R283, R284). -/
def oneMemory (s : State) (a len : Nat) : Bool :=
  reachable s a && reachable s (a + len - 1) && placeOf a == placeOf (a + len - 1)

/-- A read of memory by a requester that reaches every SRAM window and LPDDR4X; registers and unmapped addresses are bus
errors here. -/
def memRead (s : State) (a len : Nat) : MemRes × State :=
  if !oneMemory s a len then (.bus, s) else
  match placeOf a with
  | .lpddr _ => MemRes.ofRead (lineRead s a len)
  | .scratch _ | .cmem _ => MemRes.ofRead (bankRead s a len)
  | .hubSram => (.ok (s.bytesAt a len), s)
  | _ => (.bus, s)

/-- A write of memory by such a requester. Only the FIFO logic writes hub SRAM (R281). -/
def memWrite (s : State) (a : Nat) (b : Bytes) : MemRes × State :=
  if !oneMemory s a b.length then (.bus, s) else
  match placeOf a with
  | .lpddr _ => MemRes.ofWrite (lineMerge s a b)
  | .scratch _ | .cmem _ => MemRes.ofWrite (sramMerge s a b)
  | _ => (.bus, s)

/-! ### Bounds windows (R58) -/

/-- One bounds window grants an access of `len` bytes (R58, Table 2.4). -/
def windowGrants (s : State) (c i off len : Nat) (write : Bool) : Bool :=
  let b := coreWin c + 8 * i
  let lo := s.getF b SEQ_BND_LO_BASE
  let hi := s.getF b SEQ_BND_HI_LIMIT
  (if write then s.getF b SEQ_BND_HI_WRITE else s.getF b SEQ_BND_HI_READ) = 1 &&
    decide (lo ≤ hi) && decide (hi ≤ 0x17FFF) && decide (64 * lo ≤ off) && decide (off + len ≤ 64 * (hi + 1))

/-- An access lies in scratch and within one window that grants its kind (R56, R58). -/
def boundsOk (s : State) (c : Nat) (off : Int) (len : Nat) (write : Bool) : Bool :=
  decide (0 ≤ off) && decide (off + len ≤ 0x600000) &&
    (List.range 8).any (fun i => windowGrants s c i off.toNat len write)

/-! ### The maintenance arbiter (R297 to R301) -/

/-- Device address of a region of a bank group. -/
def regionAddr (d g r : Nat) : Nat :=
  (if g < 32 then scratchWin (32 * d + g) else clusterMem (4 * d + (g - 32))) + 1024 * r

/-- A group's activity ends. -/
def maEnd (s : State) (d g : Nat) : State := s.setDie d { s.die d with running := (s.die d).running.erase g }

/-- A request of a kind waits for a group. -/
def maWaits (s : State) (d g code : Nat) : Bool := (s.die d).waiting.any (fun w => w.1 = g && w.2.1 = code)

/-- A waiting request withdrawn. -/
def maWithdraw (s : State) (d g code : Nat) : State :=
  s.setDie d { s.die d with waiting := (s.die d).waiting.filter (fun w => !(w.1 = g && w.2.1 = code)) }

/-- One block of a channel read by the patrol scrub (R309): an uncorrectable line is counted and logged. -/
def scrubBlock (s : State) (d c blk : Nat) : State :=
  { (List.range 15).foldl (fun t i =>
    match lineRead t (lineAddr d c (15 * blk + i)) 64 with
    | (.inl l, u) => logUncorrectable u l 7 0xFF
    | (.inr _, u) => u) s with met := s.met }

/-- The region that the sweep has claimed is read into the spare buffer with its ECC checked (Table 8.6). -/
def sweepSave (s : State) (d g : Nat) : State :=
  let a := regionAddr d g (s.getF (bnkBase d g) BNK_SWEEP_POS_REGION)
  let q := bankRead s a 1024
  { (match q.1 with
    | .inl w => logUncorrectable q.2 w 6 0xFF
    | .inr _ => q.2) with met := s.met }

/-- A request reaches the arbiter for a group: it waits for its grant, and is counted where the group is busy (R298). A
preempting request does not wait for a yielding activity: that one gives up its unit at its safe point, and a scrub asks
again for its block (R299). -/
def maRequest (s : State) (d g code : Nat) : State :=
  let act := maRunning s d g
  let ask (t : State) (l : List (Nat × Nat × Nat)) : State := t.setDie d { t.die d with waiting := (t.die d).waiting ++ l }
  if (code = 1 ∨ code = 2) ∧ (act = 7 ∨ act = 8) then
    let s := if act = 8 then scrubBlock s d (g - 36) (s.getF (lpcBase d) LPC_SCRUB_POS_BLOCK) else sweepSave s d g
    (ask (maEnd s d g) ((g, code, 0) :: (if act = 8 then [(g, 8, now s)] else []))).addF (maBase d) BNK_MA_ABORTS_COUNT 1
  else
    let s := ask s [(g, code, now s)]
    if act = 0 then s else s.addF (maBase d) BNK_MA_WAITS_COUNT 1

/-- Self-refresh of a channel entered or left. -/
def setSref (s : State) (d c : Nat) (on : Bool) : State :=
  let a := lpcBase d + 4
  s.setReg a (setBits (s.reg a) (16 + c) 1 (if on then 1 else 0))

/-- A granted activity begins; those of a single short act end at once (Table 8.7). Retention entry withdraws a sweep that
waits. -/
def maBegin (s : State) (d g code : Nat) : State :=
  let x := s.die d
  let s := ((s.setDie d { x with running := x.running.put g code }).setF (maBase d) BNK_MA_LAST_CODE code).setF (maBase d)
    BNK_MA_LAST_GROUP g
  match code with
  | 1 => (maWithdraw s d g 7).setF (bnkBase d g) BNK_STATE_STATE 1
  | 2 => maEnd (setSref s d (g - 36) true) d g
  | 3 => s.setF (bnkBase d g) BNK_STATE_STATE 3
  | 4 => maEnd (setSref s d (g - 36) false) d g
  | 5 => maEnd (s.addF (lpcBase d) LPC_ZQ_CNT_COUNT 1) d g
  | 6 => maEnd s d g
  | _ => s

/-- The request of a group that is granted next: the oldest, and of those that came at one instant the lowest code (R298,
R300). -/
def maNext (s : State) (d g : Nat) : Option (Nat × Nat × Nat) :=
  ((s.die d).waiting.filter (fun w => w.1 = g)).foldl (fun b w =>
    match b with
    | none => some w
    | some v => if w.2.2 < v.2.2 ∨ (w.2.2 = v.2.2 ∧ w.2.1 < v.2.1) then some w else some v) none

/-- A grant on a group of a die. -/
def maGrant (s : State) (d g : Nat) : State :=
  if maRunning s d g ≠ 0 then s
  else match maNext s d g with
    | none => s
    | some w => maBegin (s.setDie d { s.die d with waiting := (s.die d).waiting.erase w }) d g w.2.1

/-- Grants on a group until one activity keeps it or none waits. -/
def maGrants (d g : Nat) (s : State) : State := (s.die d).waiting.foldl (fun t _ => maGrant t d g) s

/-- Self-refresh of a channel requested: entry (code 2) or exit (code 4) (R297). -/
def srefChannel (d : Nat) (on : Bool) (s : State) (c : Nat) : State :=
  let in_ := bit (s.reg (lpcBase d + 4)) (16 + c)
  if in_ = on then s else maGrants d (36 + c) (maRequest s d (36 + c) (if on then 2 else 4))

/-! ### Accesses that wait (R290, R291, R293) -/

/-- A core of the scratch group g of a die is in HOLD or not (PWR_HOLDn, Table 14.10). -/
def setHold (s : State) (d g : Nat) (on : Bool) : State :=
  let a := pwrHub + 0x1C + 4 * d
  if 32 ≤ g then s else s.setReg a (setBits (s.reg a) g 1 (if on then 1 else 0))

/-- An access that reached a group in retention: it waits, and wake is requested, once the entry is complete (R291); its
core leaves HOLD. -/
def wakeByAccess (s : State) (d g : Nat) : State :=
  let b := bnkBase d g
  if 36 ≤ g ∨ s.getF b BNK_CTRL_RET_REQ ≠ 1 then s
  else match s.getF b BNK_STATE_STATE with
    | 1 => if (s.die d).wakes.contains g then s else s.setDie d { s.die d with wakes := (s.die d).wakes ++ [g] }
    | 2 => maRequest (setHold ((s.setF b BNK_CTRL_RET_REQ 0).addF b BNK_WAKES_COUNT 1) d g false) d g 3
    | _ => s

/-- A memory access has to wait, for its bank group to wake or for the region that the sweep has claimed: the state with
the wake requested. -/
def asleep (s : State) (a len : Nat) : Option State := (waitsOn s a len).map (fun g => wakeByAccess s g.1 g.2)

/-- The state after work whose accesses may have to wait: where one of them did, nothing of the work has happened yet, and
wake is requested; the work is done when its command comes again (R291, R293; log 97, DESIGN CHOICE). -/
def awaited (s t : State) : State :=
  match s.met, t.met with
  | none, some g => wakeByAccess s g.1 g.2
  | _, _ => t

end Sys2Proof.Machine
end

