-- ==== Sys2Proof/Machine/Banks.lean ====
section
/-! DEFINITION. Background work of the memories: retention (R290), the bank sweep (R292 to R295), the maintenance arbiter
(R297 to R301), refresh, calibration and the patrol scrub of LPDDR4X (R301 to R309). -/

namespace Sys2Proof.Machine
open Sys2Proof
open Sys2Proof.Machine.Reg

/-- The die's units have their supply: neither DIE-OFF nor STANDBY. -/
def diePowered (s : State) (d : Nat) : Bool := !dieOff s d && s.getF pwrHub PWR_STATE_STANDBY = 0

/-- Regions of a bank group (R292). -/
def groupRegions (g : Nat) : Nat := if g < 32 then 6144 else 16384

/-- A region of a group is marked bad. -/
def regionBad (s : State) (d g r : Nat) : Bool := (s.die d).bad.contains (g, r)

/-- The first region from r upward, wrapping, that is not marked bad. -/
def nextRegion (s : State) (d g : Nat) : Nat → Nat → Nat
  | 0, r => r
  | n + 1, r => if regionBad s d g r then nextRegion s d g n ((r + 1) % groupRegions g) else r

/-! ### Retention (R290) -/

/-- RETENTION_REQUEST: a write of one to BNK_CTRL.RET_REQ. -/
def retentionRequest (s : State) (d g : Nat) : State :=
  let b := bnkBase d g
  if s.getF b BNK_CTRL_RET_REQ = 1 then s
  else maRequest (s.setF b BNK_CTRL_RET_REQ 1) d g 1

/-- WAKE_REQUEST: a write of zero to BNK_CTRL.RET_REQ. An entry that still waits for its grant is withdrawn. -/
def wakeRequest (s : State) (d g : Nat) : State :=
  let b := bnkBase d g
  if s.getF b BNK_CTRL_RET_REQ = 0 then s
  else
    let s := s.setF b BNK_CTRL_RET_REQ 0
    if maWaits s d g 1 then maWithdraw s d g 1 else maRequest s d g 3

/-- A write of BNK_CTRL (R290): SWEEP_EN, and a request of retention or wake where RET_REQ changes. -/
def bankCtrlWrite (s : State) (d g v : Nat) : State :=
  let s := s.setF (bnkBase d g) BNK_CTRL_SWEEP_EN v
  if bit v 1 then retentionRequest s d g else wakeRequest s d g

/-- RETENTION_ENTRY_DONE: an access that came during the entry now requests wake (R291). -/
def retentionEntryDone (s : State) (d g : Nat) : State :=
  if maRunning s d g = 1 then
    let s := maEnd (s.setF (bnkBase d g) BNK_STATE_STATE 2) d g
    let x := s.die d
    if x.wakes.contains g then wakeByAccess (s.setDie d { x with wakes := x.wakes.filter (· ≠ g) }) d g else s
  else s

/-- WAKE_DONE: the group accepts accesses again. -/
def wakeDone (s : State) (d g : Nat) : State :=
  if maRunning s d g = 3 then maEnd (s.setF (bnkBase d g) BNK_STATE_STATE 0) d g else s

/-! ### The bank sweep (R292 to R295) -/

/-- The sweep interval of a group has passed since its last claim: values below 100 µs are taken as 100 (Table 8.9). -/
def sweepDue (s : State) (d g : Nat) : Bool :=
  match SMap.find (s.die d).swept g with
  | none => true
  | some t => decide (t + 1000 * max 100 (s.getF (bnkBase d g) BNK_SWEEP_INTERVAL) ≤ now s)

/-- BANK_SWEEP_CLAIM: the next region of an awake group is due (R292). -/
def sweepClaim (s : State) (d g : Nat) : State :=
  let b := bnkBase d g
  if !diePowered s d || s.getF b BNK_CTRL_SWEEP_EN = 0 || !groupAwake s d g || maRunning s d g = 7 ||
      maWaits s d g 7 || !sweepDue s d g then s
  else
    let r := nextRegion s d g (groupRegions g) (s.getF b BNK_SWEEP_POS_REGION)
    maRequest ((s.setF b BNK_SWEEP_POS_REGION r).setDie d { s.die d with swept := (s.die d).swept.put g (now s) }) d g 7

/-- A region that failed its march test: remapped to a spare of its bank, or marked bad and logged (R295). -/
def regionFails (s : State) (d g r : Nat) : State :=
  let b := bnkBase d g
  let x := s.die d
  let key := 128 * g + r / 128
  let used := SMap.get 0 x.spares key
  if used < 2 then (s.setDie d { x with spares := x.spares.put key (used + 1) }).addF b BNK_REPAIRS_USED 1
  else
    logUncorrectable ((s.setDie d { x with bad := x.bad ++ [(g, r)] }).addF b BNK_REPAIRS_BAD 1) (regionAddr d g r) 6 0xFF

/-- SWEEP_REGION_DONE: `pass` is the result of the march test. -/
def sweepDone (s : State) (d g : Nat) (pass : Bool) : State :=
  if maRunning s d g ≠ 7 then s
  else
    let b := bnkBase d g
    let r := s.getF b BNK_SWEEP_POS_REGION
    let s := sweepSave s d g
    let s := if pass then s else regionFails s d g r
    let s := (s.addF b BNK_SWEEPS_COUNT 1).setF b BNK_SWEEP_POS_REGION
      (nextRegion s d g (groupRegions g) ((r + 1) % groupRegions g))
    maEnd s d g

/-! ### LPDDR4X (R301 to R309) -/

/-- A channel that is neither off nor in self-refresh. -/
def channelActive (s : State) (d c : Nat) : Bool := !dieOff s d && !bit (s.reg (lpcBase d + 4)) (16 + c)

/-- ZQ_CALIBRATION and DQS_OSC_CHECK fall due: a request for the channel. -/
def channelDue (s : State) (d c code : Nat) : State :=
  if !channelActive s d c || maWaits s d (36 + c) code then s else maRequest s d (36 + c) code

/-- A channel of the die has a block of the present index still to scrub. -/
def scrubOpen (s : State) (d : Nat) : Bool :=
  (s.die d).waiting.any (fun w => w.2.1 = 8) || (s.die d).running.any (fun w => w.2 = 8)

/-- The next block of the patrol scrub is due: 4,194,304 blocks in LPC_SCRUB.PERIOD hours, 0 taken as 1 (R309). -/
def scrubDue (s : State) (d : Nat) : Bool :=
  match (s.die d).scrubAt with
  | none => true
  | some t => decide (t + max 1 (s.getF (lpcBase d) LPC_SCRUB_PERIOD) * 3600000000000 / 4194304 ≤ now s)

/-- PATROL_SCRUB_STEP: a block that was granted its channel is read and corrected, and the last channel's block moves the
index on; where none is under way, the block at the index is claimed on the sixteen channels (R309). -/
def patrolScrub (s : State) (d c : Nat) : State :=
  let b := lpcBase d
  let pos := s.getF b LPC_SCRUB_POS_BLOCK
  if maRunning s d (36 + c) = 8 then
    let s := maEnd (scrubBlock s d c pos) d (36 + c)
    if scrubOpen s d then s else s.setF b LPC_SCRUB_POS_BLOCK ((pos + 1) % 4194304)
  else if s.getF b LPC_SCRUB_EN = 0 ∨ scrubOpen s d ∨ !(List.range 16).all (channelActive s d) ∨ !scrubDue s d then s
  else (List.range 16).foldl (fun t i => maRequest t d (36 + i) 8) (s.setDie d { s.die d with scrubAt := some (now s) })

/-- The multiplier of a mode-register 4 rate field: 1×, 2×, 4×, and above 4× as 4× (R306). The field's coding is JEDEC's
for LPDDR4X. PRESUMED. -/
def mr4Mult (rate : Nat) : Nat := if rate ≤ 3 then 0 else if rate = 4 then 1 else 2

/-- MR4_POLL of a channel: the multiplier, and a memory thermal event above 4× (R306, R495). -/
def mr4Poll (s : State) (d c rate : Nat) : State :=
  if !channelActive s d c then s
  else
    let a := lpcBase d + 0x20
    let s := s.setReg a (setBits (s.reg a) (2 * c) 2 (mr4Mult rate))
    if 6 < rate then logEvent s 0x800E 0xFF 0xFF (16 * d + c) rate 0 0 else s

def execBankSweepClaim (d : Fin 4) (g : Fin 36) (s : State) : Host.Outcome State Fault Refusal := live s (sweepClaim s d g)
def execMaintenanceGrant (d : Fin 4) (g : Fin 52) (s : State) : Host.Outcome State Fault Refusal := live s (maGrant s d g)
/-- LPDDR_REFRESH takes its channel at its due time and changes nothing a command can see (R301, R306). -/
def execLpddrRefresh (_d : Fin 4) (_c : Fin 16) (s : State) : Host.Outcome State Fault Refusal := live s s
def execZqCalibration (d : Fin 4) (c : Fin 16) (s : State) : Host.Outcome State Fault Refusal := live s (channelDue s d c 5)
def execDqsOscCheck (d : Fin 4) (c : Fin 16) (s : State) : Host.Outcome State Fault Refusal := live s (channelDue s d c 6)
def execPatrolScrubStep (d : Fin 4) (c : Fin 16) (s : State) : Host.Outcome State Fault Refusal := live s (patrolScrub s d c)
def execMr4Poll (d : Fin 4) (c : Fin 16) (rate : BitVec 3) (s : State) : Host.Outcome State Fault Refusal :=
  live s (mr4Poll s d c rate.toNat)

end Sys2Proof.Machine
end

