-- ==== Sys2Proof/Machine/Operands.lean ====
section
/-! DEFINITION. Operand forms: the fields of stage-program words (Table 2.7), of address-program instructions (Table 2.6),
of parameter blocks (Tables 2.3, 5.1, 6.1, 6.2), and the table of engine operand pairs (Table 3.1). A parameter block is
read as one little-endian number. -/

namespace Sys2Proof.Machine
open Sys2Proof

/-! ### Stage-program words (Table 2.7) -/

def wOPC (w : Nat) : Nat := bits w 0 8
def wEMASK (w : Nat) : Nat := bits w 8 8
def wFMTA (w : Nat) : Nat := bits w 16 4
def wFMTB (w : Nat) : Nat := bits w 20 4
def wFMTOUT (w : Nat) : Nat := bits w 24 4
def wRND (w : Nat) : Bool := bit w 28
def wSYNC (w : Nat) : Bool := bit w 29
def wSAGA (w : Nat) : Nat := bits w 32 4
def wSAGB (w : Nat) : Nat := bits w 36 4
def wSAGOUT (w : Nat) : Nat := bits w 40 4
def wSAGAUX (w : Nat) : Nat := bits w 44 4
def wIMM (w : Nat) : Nat := bits w 48 16
def wPARAM (w : Nat) : Nat := bits w 64 17
def wPLEN (w : Nat) : Nat := bits w 81 7
def wTARGET (w : Nat) : Nat := bits w 88 10
/-- The reserved bits [31:30] and [127:98] (R68). -/
def wReservedClear (w : Nat) : Bool := bits w 30 2 = 0 && bits w 98 30 = 0

/-- The set bits of an 8-bit mask, ascending. -/
def maskList (m : Nat) : List Nat := (List.range 8).filter (fun i => bit m i)

/-- The engines of a word's EMASK, ascending. -/
def wEngines (w : Nat) : List Nat := maskList (wEMASK w)

/-! ### The common header (Table 2.3) -/

def hENGMODE (b : Nat) : Nat := bits b 0 2
def hGLEN (b : Nat) : Nat := bits b 2 2
/-- Group length G. -/
def hG (b : Nat) : Nat := 32 * 2 ^ hGLEN b
/-- Weight tiles per engine. -/
def hTiles (b : Nat) : Nat := bits b 4 16 + 1
/-- Vectors per tile. -/
def hVpt (b : Nat) : Nat := bits b 20 32 + 1
def hWSRC (b : Nat) : Bool := bit b 52
/-- ENGMODE and GLEN not reserved, reserved bits zero (R55). -/
def hOk (b : Nat) : Bool := decide (hENGMODE b < 2) && decide (hGLEN b < 3) && bits b 53 75 = 0
/-- The fields that must be zero for ELTWISE, REDUCE and KILN (R117, R157). -/
def hPpuOnly (b : Nat) : Bool := hENGMODE b = 0 && bits b 4 16 = 0 && bits b 20 32 = 0 && !hWSRC b

/-! ### Engine operand pairs (Tables 2.2 and 3.1) -/

def isI8 (f : Nat) : Bool := f = 2 || f = 3 || f = 0xE
def isI4 (f : Nat) : Bool := f = 0 || f = 1 || f = 0xD
def isF8 (f : Nat) : Bool := f = 7 || f = 8
def isF4 (f : Nat) : Bool := f = 6 || f = 0xF
def isF16 (f : Nat) : Bool := f = 9 || f = 0xA

/-- The legal activation and weight pairs (Table 3.1). -/
def pairOk (a b : Nat) : Bool :=
  (isI8 b && isI8 a) || (isI4 b && (isI4 a || isI8 a)) || (b = 0xC && isI4 a) || (b = 4 && a = 4) ||
  (isF8 b && isF8 a) || (isF4 b && isF4 a) || (isF16 b && isF16 a) || (b = 0xB && a = 0xB)

/-- Elements per vector K of a weight format (Table 2.2). -/
def vecK (b : Nat) : Nat := if isI4 b || isF4 b then 64 else if b = 0xC then 128 else 32

/-- Bytes per tile of a weight format, weight bits only (Table 2.2). -/
def tileBytes (b : Nat) : Nat := if isF16 b || b = 4 then 2048 else if b = 0xB then 4096 else 1024

/-- Load beats per tile with the exponent beat of a group format (Table 2.2, R124). -/
def tileBeats (b : Nat) : Nat := tileBytes b / 64 + (if fmtGroup b then 1 else 0)

/-- Group segments of one vector (R96, Table 4.1). -/
def segments (k g : Nat) : Nat := k / min g k

/-! ### The window record (Table 5.1) -/

/-- The fields of a window record, counts as the values they stand for. -/
structure WinRec where
  h : Nat
  w : Nat
  kh : Nat
  kw : Nat
  sh : Nat
  sw : Nat
  dh : Nat
  dw : Nat
  pt : Nat
  pb : Nat
  pl : Nat
  pr : Nat
  pmode : Nat
  pval : Nat
  oy0 : Nat
  onr : Nat
  iy0 : Nat
  ihr : Nat
  cin : Nat
  cout : Nat
  exb : Nat
  resClear : Bool
deriving DecidableEq, Repr

/-- The window record at a bit position of a parameter block. -/
def winRec (blk at0 : Nat) : WinRec :=
  let r := bits blk at0 256
  { h := bits r 0 16 + 1, w := bits r 16 16 + 1, kh := bits r 32 4 + 1, kw := bits r 36 4 + 1
    sh := bits r 40 4 + 1, sw := bits r 44 4 + 1, dh := bits r 48 4 + 1, dw := bits r 52 4 + 1
    pt := bits r 56 8, pb := bits r 64 8, pl := bits r 72 8, pr := bits r 80 8
    pmode := bits r 88 3, pval := bits r 96 32, oy0 := bits r 128 16, onr := bits r 144 16 + 1
    iy0 := bits r 160 16, ihr := bits r 176 16 + 1, cin := bits r 192 16 + 1, cout := bits r 208 16 + 1
    exb := bits r 224 16 + 1, resClear := bits r 91 5 = 0 && bits r 240 16 = 0 }

/-- Output size along an axis (R168). -/
def outSize (n p0 p1 k st d : Nat) : Nat :=
  let e := (k - 1) * d + 1
  if e ≤ n + p0 + p1 then (n + p0 + p1 - e) / st + 1 else 0

def WinRec.oh (r : WinRec) : Nat := outSize r.h r.pt r.pb r.kh r.sh r.dh
def WinRec.ow (r : WinRec) : Nat := outSize r.w r.pl r.pr r.kw r.sw r.dw

/-- The checks of R167, for an output of oh rows. -/
def WinRec.ok (r : WinRec) (oh : Nat) : Bool :=
  decide (r.pmode < 5) && r.resClear && (oh = 0 || decide (r.oy0 + r.onr ≤ oh))

/-- The source index a position maps to, or none for a position that takes the padding constant (Table 5.2). -/
def mapIndex (pmode : Nat) (n : Nat) (i : Int) : Option Nat :=
  if 0 ≤ i ∧ i < n then some i.toNat else
  match pmode with
  | 0 => none
  | 1 => none
  | 2 =>
    if n = 1 then some 0 else
    let p := 2 * (n - 1)
    let j := (i % (p : Int)).toNat
    some (if j ≤ n - 1 then j else p - j)
  | 3 =>
    let p := 2 * n
    let j := (i % (p : Int)).toNat
    some (if j ≤ n - 1 then j else p - 1 - j)
  | _ => some (clampInt i 0 ((n : Int) - 1)).toNat

/-! ### Address-program instructions (R66) -/

def aOP (i : Nat) : Nat := bits i 28 4
def aRD (i : Nat) : Nat := bits i 25 3
def aRS (i : Nat) : Nat := bits i 22 3
def aIMM (i : Nat) : Nat := bits i 0 22

/-! ### Queue entries (Table 7.5) -/

def eHANDLE (e : Nat) : Nat := bits e 0 16
def eSLOT (e : Nat) : Nat := bits e 16 7
def eFRAME (e : Nat) : Bool := bit e 23
def eEOF (e : Nat) : Bool := bit e 24
def eSEQ (e : Nat) : Nat := bits e 32 32

/-! ### The relation header and the table descriptor (Tables 6.1, 6.2) -/

/-- A table descriptor: base, format, accumulation rows, rows, elements per row, pitch in bytes. -/
structure TabDesc where
  base : Nat
  fmt : Nat
  acc : Bool
  nrows : Nat
  rlen : Nat
  pitch : Nat
  resClear : Bool
deriving DecidableEq, Repr

/-- The descriptor at a bit position. -/
def tabDesc (blk at0 : Nat) : TabDesc :=
  let t := bits blk at0 128
  { base := bits t 0 48, fmt := bits t 48 4, acc := bit t 52, nrows := bits t 64 24 + 1, rlen := bits t 96 16 + 1
    pitch := 64 * (bits t 112 16 + 1), resClear := bits t 53 11 = 0 && bits t 88 8 = 0 }

/-- Bits of one table element. -/
def TabDesc.ebits (t : TabDesc) : Nat := if t.acc then 64 else fmtBits t.fmt

/-- Bytes of one table row. -/
def TabDesc.rowBytes (t : TabDesc) : Nat := ceilDiv (t.rlen * t.ebits) 8

end Sys2Proof.Machine
end

