-- ==== Sys2Proof/Machine/MvrOps.lean ====
section
/-! DEFINITION. The parts of a mover channel that other units need: the fields of its instructions (Tables 9.4 to 9.6),
effective addresses (R320, R321), halts with the status word (R336, R337), buffers of handles (R246, R248). -/

namespace Sys2Proof.Machine
open Sys2Proof
open Sys2Proof.Machine.Reg


/-- Buffer base of a handle in its queue, in bytes (R246). -/
def bufferBase (s : State) (c q h : Nat) : Int :=
  let b := hqBase c q
  64 * ((s.getF b STU_HQ_BUF_BASE : Int) +
    ((h : Int) - s.getF b STU_HQ_RANGE_FIRST) * (s.getF b STU_HQ_BUF_SIZE + 1))

/-- The handle exists (R243) and lies in the queue's range (R248). -/
def handleInRange (s : State) (c q h : Nat) : Bool :=
  let b := hqBase c q
  decide (h < 4096) && decide (s.getF b STU_HQ_RANGE_FIRST ≤ h) && decide (h < s.getF b STU_HQ_RANGE_FIRST + s.getF b STU_HQ_RANGE_COUNT)

/-! ### Instructions -/

/-- Instruction slots in the channel's program store. -/
def mvrLen (s : State) (u n : Nat) : Nat := (s.mvr u n).prog.length

def mvrPC (s : State) (u n : Nat) : Nat := s.getF (mvrBase u n) MVR_STATUS_PC

/-- Instruction slot i of the channel's program. -/
def mvrAt (s : State) (u n i : Nat) : Nat := ((s.mvr u n).prog.getD i 0).toNat

def mvrState (s : State) (u n : Nat) : Nat := s.getF (mvrBase u n) MVR_STATUS_STATE

def mvOP (w : Nat) : Nat := bits w 0 4
def mvSWAP (w : Nat) : Nat := bits w 4 2
def mvBAR (w : Nat) : Bool := bit w 6
def mvPACE (w : Nat) : Bool := bit w 7
def mvSREL (w : Nat) : Bool := bit w 8
def mvDREL (w : Nat) : Bool := bit w 9
def mvREQ (w : Nat) : Nat := bits w 10 7
def mvUNITS (w : Nat) : Nat := bits w 17 15 + 1
def mvSRC (w : Nat) : Nat := bits w 32 48
def mvDST (w : Nat) : Nat := bits w 80 48
/-- Rows and row strides of the second slot (Table 9.5). -/
def mv2ROWS (w : Nat) : Nat := bits w 0 24 + 1
def mv2SSTR (w : Nat) : Int := signed 32 (bits w 64 32)
def mv2DSTR (w : Nat) : Int := signed 32 (bits w 96 32)

/-- The current instruction moves data. -/
def mvrMoves (s : State) (u n : Nat) : Bool :=
  let o := mvOP (mvrAt s u n (mvrPC s u n))
  o = 1 || (o = 7 && s.b0)

/-- Rows of the current MOVE or MOVE2D. -/
def mvrRows (s : State) (u n : Nat) : Nat :=
  let pc := mvrPC s u n
  if mvOP (mvrAt s u n pc) = 7 then mv2ROWS (mvrAt s u n (pc + 1)) else 1

/-- The start of the held entry's buffer (R320). -/
def heldAddr (s : State) (u n : Nat) : Int :=
  match (s.mvr u n).held with
  | some (e, c, q) => (scratchWin c : Int) + bufferBase s c q (e.toNat % 2 ^ 16)
  | none => 0

/-- Effective source of row r of the current MOVE or MOVE2D (R320, R321). -/
def mvrSrc (s : State) (u n r : Nat) : Int :=
  let pc := mvrPC s u n
  let w := mvrAt s u n pc
  (mvSRC w : Int) + (s.mvr u n).soff + (if mvSREL w then heldAddr s u n else 0) +
    (if mvOP w = 7 then (r : Int) * mv2SSTR (mvrAt s u n (pc + 1)) else 0)

/-- Effective destination of row r. -/
def mvrDst (s : State) (u n r : Nat) : Int :=
  let pc := mvrPC s u n
  let w := mvrAt s u n pc
  (mvDST w : Int) + (s.mvr u n).doff + (if mvDREL w then heldAddr s u n else 0) +
    (if mvOP w = 7 then (r : Int) * mv2DSTR (mvrAt s u n (pc + 1)) else 0)

/-- Fields of MVR_CHn_CFG in force (R318). -/
def mvrPRIO (s : State) (u n : Nat) : Nat := bits (s.mvr u n).cfg 0 2
def mvrRETRY (s : State) (u n : Nat) : Nat := bits (s.mvr u n).cfg 2 3
def mvrPLAN (s : State) (u n : Nat) : Nat := bits (s.mvr u n).cfg 5 4

/-! ### Halts -/

/-- The status word of a halt (Table 9.7): of a MOVE that has not begun, the whole is not written. -/
def statusWord (s : State) (u n cause detail : Nat) : Nat :=
  let x := s.mvr u n
  let w := mvrAt s u n (mvrPC s u n)
  let mv := mvrMoves s u n && mvrState s u n != 1
  let residue := if mv then mvrRows s u n * mvUNITS w - (x.row * mvUNITS w + x.done / 64) else 0
  cause + detail * 2 ^ 4 + mvrPC s u n * 2 ^ 8 + (if x.next.isSome then 2 ^ 14 else 0) +
    (if x.held.isSome then 2 ^ 15 else 0) + x.tries % 8 * 2 ^ 16 + x.lastv % 128 * 2 ^ 19 + residue * 2 ^ 32 +
    (match x.loop with | some l => l.2 % 2 ^ 24 * 2 ^ 72 | none => 0) +
    (if mv ∧ residue ≠ 0 then
      unsigned 48 (mvrSrc s u n x.row + x.done) * 2 ^ 96 + unsigned 48 (mvrDst s u n x.row + x.done) * 2 ^ 144
     else 0) +
    (match x.held with | some h => h.1.toNat * 2 ^ 192 | none => 0)

/-- The writes of a channel that are on their way. -/
def setPosts (s : State) (u n : Nat) (l : List (Nat × Bytes)) : State := s.setMvr u n { s.mvr u n with post := l }

/-- Writes of bursts that were still on their way arrive, in order, up to one whose destination sleeps or is claimed (R291,
R293, R330, R336); one that fails is handed to `fail`. -/
def landList (u n : Nat) (fail : State → Nat → State) : List (Nat × Bytes) → State → State
  | [], s => setPosts s u n []
  | p :: rest, s =>
    match asleep s p.1 p.2.length with
    | some t => setPosts t u n (p :: rest)
    | none =>
      match memWrite s p.1 p.2 with
      | (.bus, t) => landList u n fail rest (fail t p.1)
      | (_, t) => landList u n fail rest t

/-- The writes of a channel that halts: one that fails is logged. -/
def landPosts (s : State) (u n : Nat) : State := landList u n logBusError (s.mvr u n).post s

/-- Address of the status word. -/
def statusAddr (s : State) (u n : Nat) : Nat :=
  s.getF (mvrBase u n) MVR_STADDR_LO_ADDR * 64 + s.getF (mvrBase u n) MVR_STADDR_HI_ADDR * 2 ^ 32

/-- The core whose bounds windows refuse the status word of a channel (R58). -/
def statusRefused (s : State) (u n : Nat) : Option Nat :=
  let a := statusAddr s u n
  match placeOf a with
  | .scratch c => if boundsOk s c (a % 2 ^ 32 : Nat) 32 true then none else some c
  | _ => none

/-- A fault recorded in a core's registers (R87): the first with its INFO and, for BOUNDS, its offset, and it halts the core;
a later one sets MORE. -/
def noteFault (s : State) (c code info : Nat) (off : Option Nat) : State :=
  let w := coreWin c
  if s.getF w SEQ_FAULT_CODE ≠ 0 then s.setF w SEQ_FAULT_MORE 1
  else
    let s := (s.setF w SEQ_FAULT_CODE code).setF w SEQ_FAULT_INFO info
    let s := match off with
      | some o => s.setF w SEQ_FAULT_ADDR_OFFSET o
      | none => s
    if s.getF w SEQ_STATUS_STATE = 4 then s else s.setF w SEQ_STATUS_STATE 3

/-- A channel halts: its writes arrive, the status word is written behind them and mirrored, the pending program and events are
discarded, INT is set (R332, R336, R337). What finds its bank group asleep is on its way until it wakes (R291). A failed status write is logged; one that R58 refuses is BOUNDS in that core
(R335, log 99). -/
def mvrHalt (s : State) (u n cause detail : Nat) : State :=
  let b := mvrBase u n
  let s := landPosts s u n
  let w := natToBytes 32 (statusWord s u n cause detail)
  let a := statusAddr s u n
  let s := (List.range 8).foldl (fun t i => t.setReg (b + 0x40 + 4 * i) (leAt w (4 * i) 4)) s
  let s := match statusRefused s u n with
    | some c => noteFault (logBusError s a) c 0x01 0 (some (a % 2 ^ 23))
    | none => landList u n logBusError ((s.mvr u n).post ++ [(a, w)]) s
  let s := (s.setF b MVR_STATUS_STATE 4).setF b MVR_STATUS_CAUSE cause
  let s := ((s.setF b MVR_STATUS_INT 1).setF b MVR_EVT_PEND 0).setF b MVR_STATUS_PENDING 0
  let x := s.mvr u n
  (s.setMvr u n { MvrSt.reset with prog := x.prog, locked := x.locked, cfg := x.cfg, post := x.post }).setF b MVR_STATUS_HELD 0

end Sys2Proof.Machine
end

