-- ==== Sys2Proof/Machine/Recover.lean ====
section
/-! DEFINITION. Faults above the core (R436 to R445): the cores of a plan, fences, frames aborted, a plan slot that enters
FAULTED, a relocation that starts, and the consequence of a core fault (Table 2.13). -/

namespace Sys2Proof.Machine
open Sys2Proof
open Sys2Proof.Machine.Reg

/-! ### The cores of a plan -/

/-- The occupied slot that holds a core (R19). -/
def holderOf (s : State) (c : Nat) : Option Nat := (occupied s).find? (fun p => bit (clHELD (s.plan p).img) c)

/-- The cores a slot holds. -/
def heldCores (s : State) (p : Nat) : List Nat := maskBits 128 (clHELD (s.plan p).img)

/-- The core that carries the stage of c in a configuration (R380). -/
def movedTo (x : PlanSt) (cfg c : Nat) : Nat :=
  match x.moved.find? (fun m => m.1 = c) with
  | some m => ((m.2.find? (fun y => y.1 = cfg)).map (·.2)).getD c
  | none => c

/-- The cores that carry a stage in the configuration in force: every frame passes them (R154). -/
def pathCores (s : State) (p : Nat) : List Nat :=
  let x := s.plan p
  (maskBits 128 (stageMask x.img x.cfg)).map (movedTo x x.cfg)

def seqStateOf (s : State) (c : Nat) : Nat := s.getF (coreWin c) SEQ_STATUS_STATE

/-- The core is fenced (R439). -/
def fenced (s : State) (c : Nat) : Bool := seqStateOf s c = 4

/-- A spare that some relocation of its plan has given a stage. -/
def servesDetour (x : PlanSt) (c : Nat) : Bool := x.moved.any (fun m => m.2.any (fun y => y.2 = c))

/-- The detour of a core, if it is usable (R444): every configuration has a record, and no spare it names is fenced or
serves another detour. -/
def usableDetour (s : State) (p c : Nat) : Option (List (Nat × Nat)) :=
  let x := s.plan p
  match detourOf x.img c with
  | none => none
  | some l =>
    if l.isEmpty || x.moved.any (fun m => m.1 = c) || l.any (fun y => fenced s y.2 || servesDetour x y.2) then none
    else some l

/-- The detours a load applies for cores fenced already: the cores moved, or the core that has none (R381). -/
def fencedMoves (s : State) (b : Bytes) : List (Nat × List (Nat × Nat)) × Option Nat :=
  (maskBits 128 (clHELD b &&& (2 ^ 128 - 1 - clSPARE b))).foldl (fun st c =>
    if st.2.isSome ∨ !fenced s c then st
    else
      let taken (d : Nat) : Bool := st.1.any (fun m => m.2.any (fun y => y.2 = d))
      match detourOf b c with
      | some l => if l.isEmpty || l.any (fun y => fenced s y.2 || taken y.2) then (st.1, some c) else (st.1 ++ [(c, l)], none)
      | none => (st.1, some c)) ([], none)

/-- Admission of the slot is held by a squall or an over-temperature notice (R486, R488, R492). -/
def heldByDie (s : State) (p : Nat) : Bool :=
  let x := s.plan p
  !x.squalls.isEmpty || !x.overs.isEmpty

/-! ### Registers of a unit at reset -/

/-- Every register of [lo, hi) at its reset value, but those of a list kept. -/
def resetRegs (s : State) (lo hi : Nat) (keep : List Nat) : State :=
  { s with regs := s.regs.filter (fun r => decide (r.1 < lo) || decide (hi ≤ r.1) || keep.contains r.1) }

/-- The transit and lend bits in force on a core, port and tag (R367). -/
def passInForce (s : State) (c p : Nat) : Nat :=
  (occupied s).foldl (fun m q =>
    (clTransits (s.plan q).img ++ (if bit (clHELD (s.plan q).img) c then clLends (s.plan q).img else [])).foldl
      (fun m r => if r.1 = c ∧ r.2.1 = p then m ||| 2 ^ r.2.2 else m) m) 0

/-- The groups a plan holds: its cores' scratch and the cluster memories of its ranges. -/
def planGroups (b : Bytes) : List (Nat × Nat) :=
  (maskBits 128 (clHELD b)).map (fun c => (c / 32, c % 32)) ++
    (((clRanges b).map (·.1)).eraseDups).map (fun j => (j / 4, 32 + j % 4))

/-- The sweep of one group under the images that hold it (R296, R364): off while one of them assumes none, and never at a
shorter interval than any of them assumes; the reset interval with none. -/
def sweepGroup (s : State) (g : Nat × Nat) (images : List Bytes) : State :=
  let l := (images.filter (fun b => (planGroups b).contains g)).map piSWEEPUS
  let us := l.foldl max 0
  let r := bnkBase g.1 g.2
  (if l.contains 0 then s.setF r BNK_CTRL_SWEEP_EN 0 else s).setF r BNK_SWEEP_INTERVAL (if us = 0 then 1000 else us)

/-- The challenge of the monitor is discarded (R534). -/
def dropChallenge (s : State) : State :=
  { s with mon := { s.mon with chal := none } }.setF dbgBase DBG_STATUS_CHAL 0

/-- The core fence reset (R439): registers at reset but STU_PASS, the bank repairs, retention (Table 14.7) and the fence
itself; the pass-through registers keep their tokens. -/
def fenceReset (s : State) (c : Nat) : State :=
  let w := coreWin c
  let x := s.core c
  let st := seqStateOf s c
  let s := (resetRegs s w (w + 2 ^ 32) [w + 0x6000, w + 0x6004, w + 0x601C]).setF (w + 0x6000) BNK_CTRL_SWEEP_EN 1
  let s := (List.range 4).foldl (fun t p => t.setReg (w + 0x1010 + 4 * p) (passInForce t c p)) s
  let s := s.setCore c { CoreSt.reset with
    inq := x.inq, pass := x.pass, outp := x.outp, deadPorts := x.deadPorts, locked := x.locked, flush := x.flush }
  if st = 4 then s.setF w SEQ_STATUS_STATE 4 else s

/-- CORE_FAULT in the event log (Table 2.13). -/
def logCoreFault (s : State) (c : Nat) : State :=
  let w := coreWin c
  logEvent s 0x8006 c ((holderOf s c).getD 0xFF) (s.reg (w + 0x14)) (s.reg (w + 0x18)) 0 0

/-- Operations that leave a relation unit, and its round robin, which is the number of a place in the list, follows (R199). -/
def dropRops (k : ClusterSt) (gone : RluOp → Bool) : ClusterSt :=
  { k with rops := k.rops.filter (fun r => !gone r), rr := ((k.rops.take k.rr).filter (fun r => !gone r)).length }

/-- A core's work at its relation unit and its lull channel ends. -/
def dropWork (s : State) (c : Nat) : State :=
  let k := dropRops (s.cluster (c / 8)) (fun r => r.core = c)
  let first := match k.lull with | l :: _ => decide (l.1 = c) | [] => false
  s.setCluster (c / 8) { k with
    rluq := k.rluq.filter (fun r => r.1 ≠ c), lull := k.lull.filter (fun l => l.1 ≠ c), lullDone := if first then 0 else k.lullDone }

/-- The seeds of a core's engines noted for the spare that will take its stage (R106). -/
def keepSeeds (s : State) (c : Nat) : State :=
  match holderOf s c with
  | none => s
  | some p => (List.range 8).foldl (fun t e =>
      t.setPlan p { t.plan p with seeds := (t.plan p).seeds.put (8 * c + e) (s.getF (engBase c e) ENG_SEED_SEED) }) s

/-- A core fenced: the fence bit, the state, and the core fence reset (R439). Work the core left at its relation unit is
abandoned. The sweep of its scratch goes on as the loaded plans assume it (R296, R364; log 128). -/
def fenceCore (s : State) (c : Nat) : State :=
  let t := txuBase (c / 8)
  let s := s.setF t TXU_FENCE_FENCED (s.getF t TXU_FENCE_FENCED ||| 2 ^ (c % 8))
  let s := keepSeeds s c
  let s := fenceReset ((dropWork (dropChallenge s) c).setF (coreWin c) SEQ_STATUS_STATE 4) c
  sweepGroup s (c / 32, c % 32) ((occupied s).map (fun p => (s.plan p).img))

/-! ### Frames aborted -/

/-- A frame's result written with ABORTED at once, after the publications of its stream due at the instant, with the flags of a
FEND that has come (R421, R472, Table 12.6 step 3); its release entry stays taken. -/
def abortOne (s : State) (f : Frame) (extra : Nat) : State :=
  let fl := f.flags ||| 2 ^ fABORTED ||| extra ||| f.fend.getD 0
  setFrame (publish (publishBefore s f.slot) f fl) { f with aborted := true, flags := fl }

/-- The words a flush leaves in a FIFO for frames it aborted are dropped. -/
def fifoTrim (s : State) (k : Nat) : State :=
  let x := s.fifo k
  match x.frames with
  | [] => s
  | f :: rest =>
    if !f.drop then s
    else if f.closed then s.setFifo k { x with frames := rest, rd := f.base + ceilDiv f.got 64 * 64 }
    else s.setFifo k { x with rd := x.wr }

/-- The frame of a stream is dropped from its FIFO. -/
def fifoDrop (s : State) (k seq : Nat) : State :=
  let x := s.fifo k
  fifoTrim (s.setFifo k { x with frames := x.frames.map (fun f => if f.seq = some seq then { f with drop := true } else f) }) k

/-- Every frame of a plan admitted and not yet held at the gate is aborted (R437, Table 12.6 step 3): the state and the
number of frames. -/
def abortPlanFrames (s : State) (p : Nat) : State × Nat :=
  let l := s.frames.filter (fun f => f.plan = p && f.held.isNone && !f.aborted)
  (l.foldl (fun t f =>
    let t := fifoDrop (abortOne t f 0) f.slot f.seq
    { t with purge := t.purge ++ [(p, f.slot, f.seq)] }) s, l.length)

/-! ### A plan stops (R437) -/

/-- RESULT of a FENCE_CORE: outcome, spare, plan slot, frames aborted (Table 11.8). -/
def fenceResult (outcome spare p n : Nat) : Bytes := [BitVec.ofNat 8 outcome, BitVec.ofNat 8 spare, BitVec.ofNat 8 p, 0] ++ natToBytes 4 n

/-- The feeder of a plan has nothing more to feed (R358). -/
def emptyFeeder (s : State) (p : Nat) : State :=
  ((s.setFeed p { s.feed p with todo := [], left := 0, buf := 0, word := 0 }).setF (fdBase p) FIF_FD_STATUS_BUSY 0).setF (fdBase p) FIF_FD_STATUS_STARVED 0

/-- The plan slot enters FAULTED (R437, R560): admission closes, frames not held are ABORTED, cores halt, commands in
progress on the slot end, and streams being closed wait for no EOF token: the steward forgets their history and frees them by
ABORT_HISTORY_INVALIDATE (R48). -/
def planFault (s : State) (p cause core a1 : Nat) : State :=
  let st := planState s p
  if st < 2 ∨ st = 6 then s else
  let x := s.plan p
  let s := s.setF (cadBase p) CAD_STATE_SLOT 6
  let s := logEvent s 0x8007 core p cause a1 0 0
  let r := abortPlanFrames s p
  let n := r.2 + (match x.reloc with | some q => q.aborted | none => 0)
  let s := (heldCores r.1 p).foldl (fun t c =>
    let t := if seqStateOf t c < 3 then t.setF (coreWin c) SEQ_STATUS_STATE 3 else t
    t.setCore c { t.core c with flush := false }) r.1
  let s := emptyFeeder s p
  let s := s.setPlan p { s.plan p with reloc := none, switch := 0, kiln := none, stopPend := false, window := false }
  let s := { s with groups := match s.groups with
    | [] => []
    | g :: rest => g :: rest.filter (fun h => h.kind = 0 || h.plan ≠ p) }
  let s := finishAll s (fun t => (tkOPC t = 4 || tkOPC t = 8) && tkArg t 8 1 = p) (fun _ => (0x5001, p, []))
  let s := finishAll s (fun t => tkOPC t = 9 && t.v1 = p) (fun _ => (0, 0, fenceResult 2 0xFF p n))
  (List.range 128).foldl (fun t k =>
    let y := t.stream k
    if y.plan = some p ∧ (y.closing = 1 ∨ y.closing = 2) then
      { t.setStream k { y with closing := 3 } with purge := t.purge ++ [(p, k, 2 ^ 32)] }
    else t) s

/-! ### Halts of a mover channel (R335 to R337) -/

/-- A channel halts; where R58 refused its status word, the BOUNDS fault stops the plan of that core (R85). -/
def haltChannel (s : State) (u n cause detail : Nat) : State :=
  let t := mvrHalt s u n cause detail
  match statusRefused s u n with
  | none => t
  | some c =>
    if s.getF (coreWin c) SEQ_FAULT_CODE ≠ 0 then t
    else
      let t := logCoreFault t c
      match holderOf t c with
      | none => t
      | some p => planFault t p 1 c (t.reg (coreWin c + 0x14))

/-- An abort of a channel: ignored while it is IDLE or HALTED (Table 9.2, R336). -/
def mvrAbort (s : State) (u n : Nat) : State :=
  let st := mvrState s u n
  if st = 0 ∨ st = 4 then s else haltChannel s u n 1 0

/-! ### A relocation starts (R441 to R443) -/

/-- What the registers say of tiles and macro-operations in progress ends: no engine holds a tile, and no SAG is busy (R443). -/
def engineIdle (s : State) (c : Nat) : State :=
  let s := (List.range 8).foldl (fun t e =>
    ((t.setF (engBase c e) ENG_STATUS_BUSY 0).setF (engBase c e) ENG_STATUS_SHADOW_READY 0).setF (engBase c e)
      ENG_STATUS_TILE_VALID 0) s
  (List.range 16).foldl (fun t g => t.setF (sagBase c g) SAG_STATUS_BUSY 0) s

/-- A core of the plan begins its flush (R443): what it was doing ends, and its sequencer stands at ENTRY. -/
def flushCore (s : State) (c : Nat) : State :=
  let x := s.core c
  let w := coreWin c
  let s := engineIdle (dropWork s c) c
  let s := ((s.setF w SEQ_STATUS_PC (s.getF w SEQ_CTRL_ENTRY)).setF w SEQ_FRAME_VALID 0).setF w SEQ_STATUS_STATE
    (if seqStateOf s c < 3 then 0 else seqStateOf s c)
  s.setCore c { x with
    flush := true, ops := [], sags := [], engs := [], orig := [], own := [], halves := [], joins := [], gust := [], eof := []
    notices := [], relFr := []
    loops := CoreSt.reset.loops, wdog := 0, age := 0, dark := false, fsat := false, fufl := false, ftrunc := false }

/-- The mover channels that belong to a plan, the lull channels of its clusters excepted. -/
def planChannels (s : State) (p : Nat) : List (Nat × Nat) :=
  (List.range 17).flatMap (fun u =>
    ((List.range (if u < 16 then 16 else 32)).filter (fun n => mvrPLAN s u n = p)).map (fun n => (u, n)))

/-- Steps 3 and 4 of Table 12.6: frames aborted, the flush begun; the settle time ends 100 µs on. -/
def flushPlan (s : State) (p c : Nat) (later : List Nat) : State :=
  let r := abortPlanFrames s p
  let s := (heldCores r.1 p).foldl flushCore r.1
  let s := (planChannels s p).foldl (fun t q => mvrAbort t q.1 q.2) s
  let s := emptyFeeder s p
  let down := s.boot.down
  s.setPlan p { s.plan p with
    reloc := some ⟨[c], if down then 0 else 1, now s + 100000, r.2, later⟩
    switch := match (s.plan p).switch with | 0 => 0 | 4 => 4 | _ => 1 }

/-- The group of a plan that waits or is before its commit point is dropped: a switch that a fault meets is aborted and
starts again, a relocation that a second fault joins is staged again (Table 12.7). -/
def dropGroup (s : State) (p : Nat) : State :=
  match s.groups with
  | [] => s
  | g :: rest =>
    let rest' := rest.filter (fun h => h.kind = 0 || h.plan ≠ p)
    if g.kind ≠ 0 ∧ g.plan = p ∧ s.getF (txuBase 16) TXU_DECISION_VALUE ≠ 1 then
      if s.getF (txuBase 16) TXU_STATUS_STATE ≠ 2 then { s with groups := rest' }
      else if s.getF (txuBase 16) TXU_DECISION_VALUE = 2 then { s with groups := { g with kind := 3 } :: rest' }
      else
        let s := ((s.setF (txuBase 16) TXU_DECISION_VALUE 2).addF (txuBase 16) TXU_FAILS_COUNT 1)
        let parts := maskBits 16 (s.getF (txuBase 16) TXU_PART_CLUSTERS)
        { s with groups := { g with kind := 3 } :: rest'
                 two := { s.two with prep := [], votes := [], dec := parts, await := parts } }
    else { s with groups := g :: rest' }

/-- The spares of a core's detour serve it from now on (R444). -/
def takeDetour (s : State) (p c : Nat) (l : List (Nat × Nat)) : State :=
  s.setPlan p { s.plan p with moved := (s.plan p).moved ++ [(c, l)] }

/-- Why a core has no usable detour (Table 11.19): 1 none, 2 a spare that is fenced or serves another. -/
def noDetour (x : PlanSt) (c : Nat) : Nat := if (detourOf x.img c).isNone || servesDetour x c then 1 else 2

/-- The relocation of a fenced core of a running plan starts, or joins one under way (R441, R445). -/
def startReloc (s : State) (p c : Nat) : State :=
  match (s.plan p).reloc with
  | some r =>
    if r.stage = 3 then s.setPlan p { s.plan p with reloc := some { r with later := r.later ++ [c] } }
    else match usableDetour s p c with
      | none => planFault s p 8 c (noDetour (s.plan p) c)
      | some l =>
        let s := takeDetour (dropGroup s p) p c l
        s.setPlan p { s.plan p with reloc := some { r with cores := r.cores ++ [c], stage := min r.stage 1 } }
  | none =>
    match usableDetour s p c with
    | none => planFault s p 8 c (noDetour (s.plan p) c)
    | some l => flushPlan (takeDetour (dropGroup s p) p c l) p c []

/-- A core of a plan that is READY is replaced at once: no frame is in flight and nothing moves (R442). -/
def relocReady (s : State) (p c : Nat) : State :=
  match (s.plan p).reloc with
  | some r =>
    if r.stage = 3 then s.setPlan p { s.plan p with reloc := some { r with later := r.later ++ [c] } }
    else match usableDetour s p c with
      | none => planFault s p 8 c (noDetour (s.plan p) c)
      | some l =>
        let s := takeDetour (dropGroup s p) p c l
        s.setPlan p { s.plan p with reloc := some { r with cores := r.cores ++ [c], stage := min r.stage 1 } }
  | none =>
    match usableDetour s p c with
    | none => planFault s p 8 c (noDetour (s.plan p) c)
    | some l =>
      let s := takeDetour s p c l
      s.setPlan p { s.plan p with reloc := some ⟨[c], if s.boot.down then 0 else 1, now s, 0, []⟩ }

/-- The core carries no stage of its plan: a spare that serves no detour. -/
def idleSpare (s : State) (p c : Nat) : Bool :=
  bit (clSPARE (s.plan p).img) c && !servesDetour (s.plan p) c

/-- A core is fenced, and what follows for the slot that holds it (R441, R442, Table 12.7). -/
def fenceAndMove (s : State) (c : Nat) : State :=
  let s := fenceCore s c
  match holderOf s c with
  | none => s
  | some p =>
    let st := planState s p
    if idleSpare s p c ∨ st = 6 ∨ st = 1 then s
    else if st = 2 then relocReady s p c
    else startReloc s p c

/-- What follows a core fault by its class (Table 2.13): the plan stops, or the core is fenced and its stage relocated. -/
def faultConsequence (s : State) (c code : Nat) : State :=
  let s := logCoreFault s c
  let word := s.reg (coreWin c + 0x14)
  if code < 0x10 then
    match holderOf s c with
    | none => s
    | some p => planFault s p 1 c word
  else fenceAndMove s c

/-- A single frame is aborted without fencing any core (Table 12.4 steps 2 and 3): its result is written at once with
ABORTED and TRUNC, and abort notices are sent to every core of the plan. -/
def abortFrame (s : State) (slot seq : Nat) : State :=
  match frameOf s slot seq with
  | none => s
  | some f =>
    if f.held.isSome || f.aborted then s
    else
      let s := abortOne s f (2 ^ fTRUNC)
      { s with notices := s.notices ++ [(f.plan, slot, seq, heldCores s f.plan)], purge := s.purge ++ [(f.plan, slot, seq)] }

end Sys2Proof.Machine
end

