-- ==== Sys2Proof/Machine/CoreOps.lean ====
section
/-! DEFINITION. The operations a core's parts share: faults, bounds, scratch, banks, frame context, token origination. -/

namespace Sys2Proof.Machine
open Sys2Proof
open Sys2Proof.Machine.Reg

/-! ### Faults (R85 to R87) -/

/-- The sequencer's state: 0 idle, 1 running, 2 waiting, 3 halted, 4 fenced. -/
def seqState (s : State) (c : Nat) : Nat := s.getF (coreWin c) SEQ_STATUS_STATE

/-- The core is halted by a fault or fenced (R86, R439). -/
def halted (s : State) (c : Nat) : Bool := decide (3 ≤ seqState s c)

def pcOf (s : State) (c : Nat) : Nat := s.getF (coreWin c) SEQ_STATUS_PC

/-- A core fault (R85, R87): recorded in the core, and for the first what follows from it. -/
def coreFault (s : State) (c code info : Nat) (off : Option Nat) : State :=
  let t := noteFault s c code info off
  if s.getF (coreWin c) SEQ_FAULT_CODE ≠ 0 then t else faultConsequence t c code

/-! ### Banks and bounds (R56 to R59, R286 to R289) -/

/-- A scratch read from within the core: BOUNDS or BANK_ECC is raised where the rules say, and then nothing is read; an
uncorrectable read is logged (R289, R561). -/
def scratchRead (s : State) (c : Nat) (off : Int) (len info : Nat) : Option Bytes × State :=
  if !boundsOk s c off len false then (none, coreFault s c 0x01 info (some (unsigned 23 off)))
  else
    match bankRead s (scratchWin c + off.toNat) len with
    | (.inr b, t) => (some b, t)
    | (.inl w, t) => (none, coreFault (logUncorrectable t w 1 c) c 0x10 info none)

/-- A read of a place in scratch that no bounds window is asked about (history areas, kiln state, the byte a narrow element
is merged into): BOUNDS beyond the scratch (R56), BANK_ECC where it is uncorrectable (R289). -/
def areaRead (s : State) (c off len info : Nat) : Option Bytes × State :=
  if 0x600000 < off + len then (none, coreFault s c 0x01 info (some (off % 2 ^ 23)))
  else
    match bankRead s (scratchWin c + off) len with
    | (.inr b, t) => (some b, t)
    | (.inl w, t) => (none, coreFault (logUncorrectable t w 1 c) c 0x10 info none)

/-- A write of such a place. -/
def areaWrite (s : State) (c off : Nat) (b : Bytes) (info : Nat) : State :=
  if off + b.length ≤ 0x600000 then sramWrite s (scratchWin c + off) b
  else coreFault s c 0x01 info (some (off % 2 ^ 23))

/-- A place of scratch read, changed and written back. -/
def areaEdit (s : State) (c off len info : Nat) (f : Nat → Nat) : State :=
  match areaRead s c off len info with
  | (none, t) => t
  | (some b, t) => areaWrite t c off (natToBytes len (f (bytesToNat b))) info

/-- A fold over a core's work that ends at the first fault (R86). -/
def whileRunning {α : Type} (c : Nat) (f : State → α → State) (s : State) (l : List α) : State :=
  l.foldl (fun t a => if halted t c then t else f t a) s

/-- A write of the steering unit into its core's scratch: the merge of an uncorrectable word is charged to the core (R289, log
98). -/
def steerWrite (s : State) (c : Nat) (off : Int) (b : Bytes) (info : Nat) : Bool × State :=
  if !boundsOk s c off b.length true then (false, coreFault s c 0x01 info (some (unsigned 23 off)))
  else
    match sramMerge s (scratchWin c + off.toNat) b with
    | (none, t) => (true, t)
    | (some w, t) => (false, coreFault (logUncorrectable t w 1 c) c 0x10 info none)

/-- A scratch write from within the core, checked by R58. -/
def scratchWrite (s : State) (c : Nat) (off : Int) (b : Bytes) (info : Nat) : Bool × State :=
  if !boundsOk s c off b.length true then (false, coreFault s c 0x01 info (some (unsigned 23 off)))
  else (true, sramWrite s (scratchWin c + off.toNat) b)

/-! ### Frame context (R72, R104) -/

/-- The frame sequence number for draws and records: FS of R104. -/
def frameFS (s : State) (c : Nat) : Nat :=
  if s.getF (coreWin c) SEQ_FRAME_VALID = 1 then s.getF (coreWin c) SEQ_FRAME_SEQ_SEQ else 0

/-! ### Handle queues (R245 to R248) -/

/-- The queue emptied, out of spill mode, with its INIT entries (R245). -/
def resetQueue (s : State) (c q : Nat) : State :=
  let b := hqBase c q
  let first := s.getF b STU_HQ_RANGE_FIRST
  let init := s.getF b STU_HQ_CFG_INIT
  (s.setHq c q { HqSt.reset with entries := (List.range init).map (fun i => BitVec.ofNat 64 (bits (first + i) 0 16)) }).maxF
    b STU_HQ_PEAK_OCC init

/-- A core moved on: its age returns to zero (R267). -/
def progress (s : State) (c : Nat) : State := s.setCore c { s.core c with age := 0 }

/-- Faults raised in a core at one instant, in ascending order of code: the lowest is recorded and the others set MORE
(R87). -/
def coreFaults (s : State) (c : Nat) (l : List (Nat × Nat)) : State := l.foldl (fun t f => coreFault t c f.1 f.2 none) s

/-- A queue entry without its reserved bits (Table 7.5, R13). -/
def entryBits (e : Nat) : Nat := setBits e 26 6 0

/-- A push that enters the queue itself, with HANDLE_RANGE and QUEUE_OVF (R248). -/
def pushEntry (s : State) (c q : Nat) (e : BitVec 64) (info : Nat) : State :=
  let h := s.hq c q
  let b := hqBase c q
  let bad := (if !eEOF e.toNat && !handleInRange s c q (eHANDLE e.toNat) then [(0x07, info)] else []) ++
    (if s.getF b STU_HQ_CFG_DEPTH ≤ h.entries.length then [(0x08, info)] else [])
  if !bad.isEmpty then coreFaults s c bad
  else
    let s := s.setHq c q { h with entries := h.entries ++ [BitVec.ofNat 64 (entryBits e.toNat)] }
    let s := (s.addF b STU_HQ_PUSHES_COUNT 1).maxF b STU_HQ_PEAK_OCC (h.entries.length + 1)
    progress s c

/-- A push into a queue: in spill mode it is diverted to the lull channel as a rotation (R274). -/
def pushQueue (s : State) (c q : Nat) (e : BitVec 64) (info : Nat) : State :=
  if (s.hq c q).spilling then
    if !eEOF e.toNat && !handleInRange s c q (eHANDLE e.toNat) then coreFault s c 0x07 info none
    else
      let k := s.cluster (c / 8)
      s.setCluster (c / 8) { k with lull := k.lull ++ [(c, q, some (BitVec.ofNat 64 (entryBits e.toNat)), 0)] }
  else pushEntry s c q e info

/-! ### Tokens (R80, R234 to R242) -/

/-- The outgoing join sequence of a tag (R80). -/
def oseq (s : State) (c t : Nat) : Nat := bits (s.reg (coreWin c + 0x1040 + 4 * (t / 4))) (8 * (t % 4)) 8

/-- The outgoing join sequence advanced by one. -/
def oseqStep (s : State) (c t : Nat) : State :=
  let a := coreWin c + 0x1040 + 4 * (t / 4)
  s.setReg a (setBits (s.reg a) (8 * (t % 4)) 8 (oseq s c t + 1))

/-- The core that steers a token sent out of port p of core c with a tag, past pass-through registers (R76). -/
def passFrom (s : State) (c p t : Nat) : Nat → Option Nat
  | 0 => none
  | n + 1 =>
    match meshBeyond c p with
    | none => none
    | some d => if bit (s.getF (coreWin d + 4 * oppPort p) STU_PASS_MASK) t then passFrom s d p t n else some d

/-- A route of JOIN 3 lies on the way of a token that stands in core c before its steering with a tag: the route entry
itself, or the next one that steers it after DEST 3 and pass-through registers, followed for so many hops. -/
def meetsPair (s : State) (c t : Nat) : Nat → Bool
  | 0 => false
  | n + 1 =>
    let b := routeBase c t
    if s.getF b STU_ROUTE_JOIN = 3 then true
    else if s.getF b STU_ROUTE_DEST ≠ 3 then false
    else match passFrom s c (s.getF b STU_ROUTE_INDEX % 4) (s.getF b STU_ROUTE_RETAG) 128 with
      | none => false
      | some d => meetsPair s d (s.getF b STU_ROUTE_RETAG) n

/-- A governing token of a type (2 CONTROL, 3 SCALE) has been sent on a tag: the tag's join sequence advances, once per
pair where the token's route has JOIN 3 (R80). There the first of the two marks its half, and a second token of the same
type before the other half comes leaves the sequence (DESIGN CHOICE, log 83). -/
def governed (s : State) (c t typ : Nat) : State :=
  if !meetsPair s c t 128 then oseqStep s c t
  else match SMap.find (s.core c).halves t with
    | none => s.setCore c { s.core c with halves := (s.core c).halves.put t typ }
    | some h => if h = typ then s else oseqStep (s.setCore c { s.core c with halves := (s.core c).halves.erase t }) c t

/-- A token originated by the core on a route tag, with the core's epoch and the tag's join sequence (R80, R242). -/
def originate (s : State) (c typ tag payload : Nat) : State :=
  let t : Token :=
    { typ := BitVec.ofNat 3 typ, tag := BitVec.ofNat 5 tag, epoch := BitVec.ofNat 12 (s.getF (coreWin c) SEQ_EPOCH_EPOCH)
      jseq := BitVec.ofNat 8 (oseq s c tag), payload := BitVec.ofNat 512 payload }
  s.setCore c { s.core c with orig := (s.core c).orig ++ [t] }

/-- Bits [543:0] of a token on the link (Table 7.1). -/
def tokenBits (t : Token) : Nat :=
  t.typ.toNat + t.tag.toNat * 2 ^ 3 + t.epoch.toNat * 2 ^ 8 + t.jseq.toNat * 2 ^ 20 + t.payload.toNat * 2 ^ 32

/-- The CRC-16 of n bits of v from bit 0: polynomial 0x1021 (R236). -/
def crc16 : Nat → Nat → Nat → Nat
  | 0, _, crc => crc
  | n + 1, v, crc =>
    let top := (crc / 2 ^ 15 + v) % 2
    let sh := crc * 2 % 2 ^ 16
    crc16 n (v / 2) (if top = 1 then sh ^^^ 0x1021 else sh)

/-- The token with its check code, 560 bits (R234, R236). -/
def linkBits (t : Token) : Nat := tokenBits t + crc16 544 (tokenBits t) 0xFFFF * 2 ^ 544

/-- The token that 560 bits spell, and whether its check code matches (R236). -/
def linkToken (v : Nat) : Token × Bool :=
  ({ typ := BitVec.ofNat 3 (bits v 0 3), tag := BitVec.ofNat 5 (bits v 3 5), epoch := BitVec.ofNat 12 (bits v 8 12)
     jseq := BitVec.ofNat 8 (bits v 20 8), payload := BitVec.ofNat 512 (bits v 32 512) },
   crc16 544 (bits v 0 544) 0xFFFF = bits v 544 16)

end Sys2Proof.Machine
end

