-- ==== Sys2Proof/Machine/Configs.lean ====
section
/-! DEFINITION. The configurations of a plan as the steward keeps them (R373, R378, R379, R444): core records, moved stages,
detour writes, and the writes of one configuration. -/

namespace Sys2Proof.Machine
open Sys2Proof
open Sys2Proof.Machine.Reg

/-- The flat core whose window an address lies in. -/
def coreNum (a : Nat) : Nat := 32 * bits a 40 2 + 8 * bits a 36 4 + bits a 32 4

/-- The cluster whose window an address lies in. -/
def clusterNum (a : Nat) : Nat := 4 * bits a 40 2 + bits a 36 4

/-- The core whose scratch or register window holds an address. -/
def coreHolding (a : Nat) : Option Nat :=
  match placeOf a, windowOf a with
  | .scratch c, _ => some c
  | .dieReg, some (.core, _) => some (coreNum a)
  | _, _ => none

/-- The base value of a core record for a core (Table 10.10). -/
def coreBase (kind c : Nat) : Nat := if kind = 4 then scratchWin c else if kind = 5 then coreWin c else c

/-- The kept image with the core records of every moved core applied for its spare in a configuration (R378, R444). -/
def effImage (x : PlanSt) (cfg : Nat) : Bytes :=
  (rels x.img).foldl (fun b r =>
    if 4 ≤ r.kind ∧ r.kind ≤ 6 then
      let d := movedTo x cfg r.arg
      if d = r.arg then b else relPut b r (unsigned r.width ((coreBase r.kind d : Int) + r.addend))
    else b) x.img

/-- An address in a moved core's windows taken to its spare's (R444). -/
def movedAddr (x : PlanSt) (cfg a : Nat) : Nat :=
  match coreHolding a with
  | some c =>
    let d := movedTo x cfg c
    if d = c then a else if placeOf a = .dieReg then a - coreWin c + coreWin d else a - scratchWin c + scratchWin d
  | none => a

/-- A write moved to a spare. -/
def movedWrite (x : PlanSt) (cfg : Nat) : CfgWrite → CfgWrite
  | .reg a v => .reg (movedAddr x cfg a) v
  | .sram a d => .sram (movedAddr x cfg a) d

/-- The detour writes of the moved cores in a configuration (R379). -/
def detourList (x : PlanSt) (cfg : Nat) (cores : List Nat) : List CfgWrite :=
  let b := effImage x cfg
  cores.flatMap (fun c => ((detours b cfg).filter (fun d => d.from_ = c)).flatMap (detourWrites b))

/-- The table bytes that kiln passes have committed in a configuration (R163), as writes at the addresses they were read from. -/
def keptWrites (x : PlanSt) (cfg : Nat) : List CfgWrite :=
  (x.kept.filter (fun k => k.1 = cfg)).map (fun k => .sram k.2.1 k.2.2)

/-- Every write of a configuration with its stages on the cores that carry them now. -/
def configList (x : PlanSt) (cfg : Nat) : List CfgWrite :=
  (cfgWrites (effImage x cfg) cfg ++ keptWrites x cfg).map (movedWrite x cfg) ++ detourList x cfg (x.moved.map (·.1))

/-- The configurations an image carries: its segments, and the kiln configuration of each (R156). -/
def planConfigs (b : Bytes) : List Nat :=
  List.range (piNSEG b) ++ (if imKiln b then (List.range (piNSEG b)).map (16 + ·) else [])

/-- The registers and SRAM that a configuration would write, over what stands there: what the steward knows of a configuration
that is not in force. -/
def viewAs (s : State) (x : PlanSt) (cfg : Nat) : State :=
  if cfg = x.cfg then s
  else (configList x cfg).foldl (fun t w => match w with
    | .reg a v => t.setReg a v
    | .sram a d => t.putBytes a d) s

end Sys2Proof.Machine
end

