-- ==== Sys2Proof/Machine/Sag.lean ====
section
/-! DEFINITION. Stream address generators (R60 to R67): descriptor mode, address programs, and what a delivered byte does
for the macro-operations that send what they read (COPY, HALO). -/

namespace Sys2Proof.Machine
open Sys2Proof
open Sys2Proof.Machine.Reg

/-- Element size in bytes. -/
def sagElem (s : State) (c n : Nat) : Nat := 2 ^ s.getF (sagBase c n) SAG_CFG_ELEM

/-- Vector length in bytes. -/
def sagVlen (s : State) (c n : Nat) : Nat := s.getF (sagBase c n) SAG_CFG_VLEN + 1

/-- Elements of dimension d, 1 at or above NDIM (R60). -/
def sagCount (s : State) (c n d : Nat) : Nat :=
  if s.getF (sagBase c n) SAG_CFG_NDIM ≤ d then 1 else s.getF (sagBase c n + 8 * d) SAG_CNT_COUNT + 1

/-- The signed stride of dimension d. -/
def sagStride (s : State) (c n d : Nat) : Int := signed 24 (s.getF (sagBase c n + 8 * d) SAG_STR_STRIDE)

/-- Elements of the whole sequence in descriptor mode. -/
def sagTotal (s : State) (c n : Nat) : Nat := (List.range 5).foldl (fun a d => a * sagCount s c n d) 1

/-- The origin of a SAG (R60). -/
def sagOrigin (s : State) (c n : Nat) : Int :=
  let b := sagBase c n
  let q := s.getF b SAG_CFG_HQ
  (s.getF b SAG_BASE_BASE : Int) +
    (if s.getF b SAG_CFG_HREL = 1 then
      match (s.hq c q).held with
      | some e => bufferBase s c q (eHANDLE e.toNat)
      | none => 0
    else 0)

/-- The address of element number `pos` in visiting order (R60). -/
def sagAddr (s : State) (c n pos : Nat) : Int :=
  ((List.range 5).foldl (fun (p : Nat × Int) d =>
    let m := sagCount s c n d
    (p.1 / m, p.2 + (p.1 % m : Nat) * sagStride s c n d)) (pos, sagOrigin s c n)).2

/-- A SAG that a macro-operation may name (R64). -/
def sagOk (s : State) (c n : Nat) : Bool :=
  let b := sagBase c n
  let nd := s.getF b SAG_CFG_NDIM
  decide (s.getF b SAG_CFG_ELEM < 7) && decide (1 ≤ nd) && decide (nd ≤ 5) && sagVlen s c n % sagElem s c n = 0 &&
    (s.getF b SAG_CFG_HREL = 0 || (s.hq c (s.getF b SAG_CFG_HQ)).held.isSome)

/-- The SAG taken by a macro-operation, from its first element (R63, R65). -/
def sagStart (s : State) (num c n : Nat) : State :=
  let b := sagBase c n
  let s := s.setSag c n { SagSt.reset with owner := some num, pc := s.getF b SAG_PSTART_START }
  (s.setF b SAG_STATUS_BUSY 1).setF b SAG_EMITTED_COUNT 0

/-- The SAG freed. -/
def sagFree (s : State) (c n : Nat) : State := (s.setSag c n SagSt.reset).setF (sagBase c n) SAG_STATUS_BUSY 0

/-- The SAG delivers nothing further, with a SAG_PROG fault (R67). -/
def sagFault (s : State) (c n : Nat) : State :=
  coreFault (s.setSag c n { s.sag c n with ended := true }) c 0x06 n none

/-- The SAG belongs to a macro-operation, runs in the given mode and has not ended. -/
def sagRuns (s : State) (c n mode : Nat) : Bool :=
  !halted s c && (s.sag c n).owner.isSome && !(s.sag c n).ended && s.getF (sagBase c n) SAG_CFG_MODE = mode

/-- The delivered bytes padded with zeros to a whole vector at the end of the sequence (R62). -/
def padVector (v : Nat) (b : Bytes) : Bytes := b ++ List.replicate ((v - b.length % v) % v) 0

/-! ### COPY and HALO fields (Tables 7.8, 5.5) -/

def cpMODE (b : Nat) : Nat := bits b 0 2
def cpRT (b : Nat) : Nat := bits b 2 5
def cpCQ (b : Nat) : Nat := bits b 7 4
def cpPUSH (b : Nat) : Nat := bits b 11 1
def cpKEEP (b : Nat) : Bool := bit b 12
def cpOFFSET (b : Nat) : Nat := bits b 16 17
def cpBYTES (b : Nat) : Nat := bits b 64 32
def haRTUP (b : Nat) : Nat := bits b 0 5
def haRTDN (b : Nat) : Nat := bits b 5 5
def haRXU (b : Nat) : Nat := bits b 10 4
def haRXD (b : Nat) : Nat := bits b 14 4
def haEXPU (b : Nat) : Nat := bits b 32 32
def haEXPD (b : Nat) : Nat := bits b 64 32
def haSNDU (b : Nat) : Nat := bits b 96 32
def haSNDD (b : Nat) : Nat := bits b 128 32

/-- The next 64 delivered bytes of a SAG, if they are there. -/
def sagVector (x : SagSt) : Option Bytes := if x.used + 64 ≤ x.dlv.length then some (slice x.dlv x.used 64) else none

/-- A delivered vector sent as a DATA token on a route tag (R179, R254). -/
def sendVector (s : State) (c n tag : Nat) (v : Bytes) : State :=
  let s := originate s c 0 tag (bytesToNat v)
  s.setSag c n { s.sag c n with used := (s.sag c n).used + 64 }

/-- The stripe whose rows the write SAG n of a HALO still takes: 0 above, 1 below, none when it takes nothing more. An
expected count of 0 means none, whatever its SAG field names (Table 5.5, R181). -/
def haloWants (o : Op) (n : Nat) : Option Nat :=
  let b := bytesToNat o.block
  if n = haRXU b ∧ o.rxu < haEXPU b then some 0
  else if n = haRXD b ∧ o.rxd < haEXPD b then some 1
  else none

/-- A write SAG leaves a HALO once its expected bytes are stored (R181). -/
def haloLeave (s : State) (c n : Nat) : State :=
  match (s.sag c n).owner with
  | none => s
  | some num =>
    match s.op c num with
    | none => s
    | some o =>
      let b := bytesToNat o.block
      if wOPC o.word.toNat = 0x12 ∧ ((n = haRXU b ∧ haEXPU b ≠ 0) ∨ (n = haRXD b ∧ haEXPD b ≠ 0)) ∧ haloWants o n = none ∧
        ((s.sag c n).inb = [] ∨ (s.sag c n).ended) then sagFree s c n
      else s

/-- What newly delivered bytes do for a macro-operation that sends or moves them (R179, R254). -/
def afterDelivery (s : State) (c n : Nat) : State :=
  match (s.sag c n).owner with
  | none => s
  | some num =>
    match s.op c num with
    | none => s
    | some o =>
      let w := o.word.toNat
      let b := bytesToNat o.block
      let x := s.sag c n
      if wOPC w = 0x11 then
        if cpMODE b = 0 then
          let new := (x.dlv.drop x.used).take (cpBYTES b - o.k)
          let s := s.setSag c n { x with used := x.dlv.length }
          let y := s.sag c (wSAGOUT w)
          let s := s.setSag c (wSAGOUT w) { y with inb := y.inb ++ new }
          s.setOp c { o with k := o.k + new.length }
        else if 64 * o.k < cpBYTES b then
          match sagVector x with
          | none => s
          | some v =>
            let s := (sendVector s c n (cpRT b) v).setOp c { o with k := o.k + 1 }
            if 64 * (o.k + 1) = cpBYTES b ∧ cpMODE b = 1 then governed s c (cpRT b) 2 else s
        else s
      else if wOPC w = 0x12 then
        match sagVector x with
        | none => s
        | some v =>
          if n = wSAGA w ∧ 64 * o.sent < haSNDU b then
            (sendVector s c n (haRTUP b) v).setOp c { o with sent := o.sent + 1 }
          else if n = wSAGB w ∧ 64 * o.sent2 < haSNDD b then
            (sendVector s c n (haRTDN b) v).setOp c { o with sent2 := o.sent2 + 1 }
          else s
      else s

/-- Every whole vector that has been delivered and not used, handed over (R62): a run at the end of a sequence may complete
one vector and leave a padded one. -/
def afterDeliveries (s : State) (c n : Nat) : State :=
  let x := s.sag c n
  (List.range ((x.dlv.length - x.used) / 64 + 1)).foldl (fun t _ => afterDelivery t c n) s

/-- One run of `len` bytes at an address, read or written (R61, R62): the new state of the SAG is given the bytes
delivered, or is given the incoming bytes that remain. -/
def sagAccess (s : State) (c n : Nat) (addr : Int) (len : Nat) (done : SagSt → SagSt) (emitted : Nat) : State :=
  let b := sagBase c n
  let x := s.sag c n
  let count (s : State) : State := s.setF b SAG_EMITTED_COUNT (s.getF b SAG_EMITTED_COUNT + emitted)
  if s.getF b SAG_CFG_DIR = 0 then
    match scratchRead s c addr len n with
    | (none, t) => t
    | (some v, t) =>
      let y := done { x with dlv := x.dlv ++ v }
      let y := if y.ended then { y with dlv := padVector (sagVlen s c n) y.dlv } else y
      afterDeliveries (count (t.setSag c n y)) c n
  else
    match scratchWrite s c addr (x.inb.take len) n with
    | (false, t) => t
    | (true, t) => haloLeave (count (t.setSag c n (done { x with inb := x.inb.drop len }))) c n

/-- The bytes a read SAG may still deliver in one step: 64, or the rest of a CROP's box list, of which the header and 4,096
records are read (R195). -/
def readRoom (s : State) (c n : Nat) : Nat :=
  match (s.sag c n).owner.bind (s.op c) with
  | none => 64
  | some o =>
    if wOPC o.word.toNat = 0x13 ∧ n = wSAGAUX o.word.toNat then min 64 (16 + 16 * 4096 - (s.sag c n).dlv.length) else 64

/-- One step in descriptor mode (R60, R61): the next run, or one side of an element that straddles a 64-byte word. In
the write direction the run is as long as the incoming bytes allow. -/
def sagStepDescriptor (s : State) (c n : Nat) : State :=
  let x := s.sag c n
  let es := sagElem s c n
  let a0 := sagAddr s c n x.pos
  let a := a0 + x.part
  let room := 64 - (a % 64).toNat
  let total := sagTotal s c n
  let write := s.getF (sagBase c n) SAG_CFG_DIR = 1
  let have_ := if write then x.inb.length else readRoom s c n
  if x.part = 0 ∧ es ≤ room then
    let n0 := sagCount s c n 0
    let row := if sagStride s c n 0 = es then n0 - x.pos % n0 else 1
    let k := min (min row (room / es)) (have_ / es)
    if k = 0 then s else
    sagAccess s c n a (k * es) (fun y => { y with pos := y.pos + k, ended := decide (total ≤ y.pos + k) }) k
  else
    let len := min room (es - x.part)
    if have_ < len then s else
    if x.part + len = es then
      sagAccess s c n a len (fun y => { y with pos := y.pos + 1, part := 0, ended := decide (total ≤ y.pos + 1) }) 1
    else
      sagAccess s c n a len (fun y => { y with part := y.part + len }) 0

/-- One step of a pending EMIT: the bytes of it within one 64-byte word (R65, R66), and of a CROP's box list none beyond the
records that are read (R195). The last step of an EMIT at
instruction 63 lets the program counter pass 63 (R67). -/
def sagStepProgram (s : State) (c n : Nat) : State :=
  let x := s.sag c n
  let es := sagElem s c n
  let word := min (64 - (x.emAddr % 64).toNat) x.emLeft
  let len := if s.getF (sagBase c n) SAG_CFG_DIR = 1 then word else min word (readRoom s c n)
  if len = 0 then s
  else if s.getF (sagBase c n) SAG_CFG_DIR = 1 ∧ x.inb.length < len then s
  else
    let t := sagAccess s c n x.emAddr len (fun y => { y with emAddr := y.emAddr + len, emLeft := y.emLeft - len })
      (x.emLeft / es - (x.emLeft - len) / es)
    if (t.sag c n).emLeft = 0 ∧ 64 ≤ (t.sag c n).pc then sagFault t c n else t

/-- SAG_STEP (R61): one run within a 64-byte word. -/
def sagStep (s : State) (c n : Nat) : State :=
  if sagRuns s c n 0 then sagStepDescriptor s c n
  else if sagRuns s c n 1 then sagStepProgram s c n
  else s

/-! ### Address programs (R65 to R67) -/

/-- The instruction at the SAG's program counter. -/
def apWord (s : State) (c n : Nat) : Nat := s.reg (coreWin c + 0x3000 + 0x100 * n + 4 * (s.sag c n).pc)

/-- The SAG stands at an instruction with this opcode, with no EMIT pending. -/
def apAt (s : State) (c n opc : Nat) : Bool :=
  sagRuns s c n 1 && (s.sag c n).emLeft = 0 && aOP (apWord s c n) = opc

/-- The instruction done: the SAG's new state and the next program counter, which must not pass 63 (R67). -/
def apNext (s : State) (c n : Nat) (x : SagSt) (pc : Nat) : State :=
  let t := s.setSag c n { x with pc := pc }
  if 64 ≤ pc then sagFault t c n else t

/-- An address register. -/
def apReg (x : SagSt) (r : Nat) : BitVec 32 := x.a.getD r 0

/-- A step of an instruction that writes A[RD]. -/
def apSet (s : State) (c n opc : Nat) (f : SagSt → Nat → BitVec 32) : State :=
  let x := s.sag c n
  let i := apWord s c n
  if apAt s c n opc then apNext s c n { x with a := x.a.set (aRD i) (f x i) } (x.pc + 1) else s

def sagNop (s : State) (c n : Nat) : State :=
  if apAt s c n 0x0 then apNext s c n (s.sag c n) ((s.sag c n).pc + 1) else s

def sagSeti (s : State) (c n : Nat) : State := apSet s c n 0x1 (fun _ i => BitVec.ofNat 32 (aIMM i))

def sagAddi (s : State) (c n : Nat) : State :=
  apSet s c n 0x2 (fun x i => apReg x (aRS i) + BitVec.ofInt 32 (signed 22 (aIMM i)))

def sagAdd (s : State) (c n : Nat) : State := apSet s c n 0x3 (fun x i => apReg x (aRD i) + apReg x (aRS i))

def sagModi (s : State) (c n : Nat) : State :=
  if apAt s c n 0x4 && aIMM (apWord s c n) = 0 then sagFault s c n
  else apSet s c n 0x4 (fun x i => BitVec.ofNat 32 ((apReg x (aRD i)).toNat % aIMM i))

/-- EMIT (Table 2.6): its elements are accessed by the steps that follow, and the program counter passes the EMIT before
they do. The sum of its address does not wrap: A[RS] counts as an unsigned number, and an address outside the bounds windows
is a bounds fault (log 82, DESIGN CHOICE). -/
def sagEmit (s : State) (c n : Nat) : State :=
  let x := s.sag c n
  let i := apWord s c n
  if apAt s c n 0x5 then
    s.setSag c n { x with
      emAddr := sagOrigin s c n + (apReg x (aRS i)).toNat + signed 16 (bits (aIMM i) 6 16)
      emLeft := (bits (aIMM i) 0 6 + 1) * sagElem s c n, pc := x.pc + 1 }
  else s

def sagEmitz (s : State) (c n : Nat) : State :=
  let x := s.sag c n
  let k := bits (aIMM (apWord s c n)) 0 6 + 1
  let len := k * sagElem s c n
  if apAt s c n 0x6 then
    if s.getF (sagBase c n) SAG_CFG_DIR = 0 then
      let t := s.setSag c n { x with dlv := x.dlv ++ List.replicate len 0 }
      let t := afterDeliveries (t.setF (sagBase c n) SAG_EMITTED_COUNT (t.getF (sagBase c n) SAG_EMITTED_COUNT + k)) c n
      apNext t c n (t.sag c n) (x.pc + 1)
    else if x.inb.length < len then s
    else apNext s c n { x with inb := x.inb.drop len } (x.pc + 1)
  else s

def sagSetc (s : State) (c n : Nat) : State :=
  let x := s.sag c n
  let i := apWord s c n
  if apAt s c n 0x7 then
    if 4 ≤ aRD i then sagFault s c n
    else apNext s c n { x with cnt := x.cnt.set (aRD i) (bits (aIMM i) 0 16 + 1) } (x.pc + 1)
  else s

def sagLoop (s : State) (c n : Nat) : State :=
  let x := s.sag c n
  let i := apWord s c n
  let v := x.cnt.getD (aRD i) 0
  if apAt s c n 0x8 then
    if 4 ≤ aRD i then sagFault s c n
    else if v = 0 then apNext s c n x (x.pc + 1)
    else apNext s c n { x with cnt := x.cnt.set (aRD i) (v - 1) } (if v = 1 then x.pc + 1 else bits (aIMM i) 0 6)
  else s

def sagJmp (s : State) (c n : Nat) : State :=
  if apAt s c n 0x9 then apNext s c n (s.sag c n) (bits (aIMM (apWord s c n)) 0 6) else s

def sagEnd (s : State) (c n : Nat) : State :=
  let x := s.sag c n
  if apAt s c n 0xF then
    afterDeliveries (s.setSag c n { x with ended := true, dlv := padVector (sagVlen s c n) x.dlv }) c n
  else s

/-- A reserved opcode 0xA to 0xE (R67). -/
def sagReserved (s : State) (c n : Nat) : State :=
  let o := aOP (apWord s c n)
  if apAt s c n o && decide (0xA ≤ o) && decide (o ≤ 0xE) then sagFault s c n else s

end Sys2Proof.Machine
end

