-- ==== Sys2Proof/Machine/Steering.lean ====
section
/-! DEFINITION. Tokens on the links and the steering unit (R75 to R83, R234 to R251), the gust bus (R259 to R261), and
writes of core configuration (R84, R122, R245). -/

namespace Sys2Proof.Machine
open Sys2Proof
open Sys2Proof.Machine.Reg

def State.join (s : State) (c r : Nat) : JoinSt := SMap.get JoinSt.reset (s.core c).joins r

def State.setJoin (s : State) (c r : Nat) (j : JoinSt) : State :=
  s.setCore c { s.core c with joins := (s.core c).joins.put r j }

/-- The input buffer of a port, oldest first (R238). -/
def State.inq (s : State) (c p : Nat) : List Token := SMap.get [] (s.core c).inq p

def State.setInq (s : State) (c p : Nat) (l : List Token) : State :=
  s.setCore c { s.core c with inq := (s.core c).inq.put p l }

/-! ### Drained (R73) -/

/-- A mover channel (R333) or a gather issued by the core is outstanding (R73). -/
def outstanding (s : State) (c : Nat) : Bool :=
  (s.cluster (c / 8)).rops.any (fun r => r.core = c) || (s.cluster (c / 8)).rluq.any (fun r => r.1 = c) ||
    (List.range 16).any (fun n => (s.mvr (c / 8) n).outFor = some c)

/-- The steering unit holds no token. A token in the input buffer of a port counts (log 127, DESIGN CHOICE). -/
def stuEmpty (s : State) (c : Nat) : Bool :=
  let x := s.core c
  x.inq.all (fun p => p.2.isEmpty) && x.orig.isEmpty &&
    x.joins.all (fun p => p.2.data.isEmpty && p.2.ctl.isEmpty && p.2.scl.isEmpty && p.2.heads.isEmpty)

/-- SEQ_STATUS.DRAINED (R73). -/
def drained (s : State) (c : Nat) : Bool :=
  let w := coreWin c
  pcOf s c = s.getF w SEQ_CTRL_ENTRY && s.getF w SEQ_FRAME_VALID = 0 && (s.core c).ops.isEmpty && !outstanding s c &&
    (s.core c).sags.all (fun p => p.2.owner.isNone) && stuEmpty s c

/-! ### Configuration writes (R84, R122, R245) -/

/-- Offsets of a core window that may be written only while the core is drained (R84, R257): the stage program,
SEQ_CTRL and the bounds windows, SAG descriptors and program stores, routes, pass masks and outgoing sequences, probe,
EOF, gust and sink settings, and queue settings. -/
def isCoreConfig (o : Nat) : Bool :=
  (decide (0x10000 ≤ o) && decide (o < 0x14000)) || o = 0 || (decide (0x40 ≤ o) && decide (o < 0x80)) ||
  (decide (0x2000 ≤ o) && decide (o < 0x2400) && decide (o % 0x40 < 0x34)) || (decide (0x3000 ≤ o) && decide (o < 0x4000)) ||
  (decide (0x1100 ≤ o) && decide (o < 0x1200)) || (decide (0x1010 ≤ o) && decide (o < 0x1020)) ||
  (decide (0x1040 ≤ o) && decide (o < 0x1060)) || (decide (0x8100 ≤ o) && decide (o < 0x8110)) ||
  (decide (0x8120 ≤ o) && decide (o < 0x8140)) ||
  (decide (0x8400 ≤ o) && decide (o < 0x8800) && decide ((o - 0x8400) % 0x40 < 0x18))

/-- A configuration register of a core takes a value. A write of a queue's configuration resets the queue (R245). A
sequencer that stands at ENTRY stands at the new one after a write of SEQ_CTRL: DEDUCED. -/
def coreConfigSet (s : State) (c off v : Nat) : State :=
  let s := s.writeRW (coreWin c + off) v
  if off = 0 then s.setF (coreWin c) SEQ_STATUS_PC (s.getF (coreWin c) SEQ_CTRL_ENTRY) else
  if 0x8400 ≤ off ∧ off < 0x8800 then resetQueue s c ((off - 0x8400) / 0x40) else s

/-- A configuration write of a core: refused with CFG_BUSY unless the core is drained (R84). -/
def coreConfigWrite (s : State) (c off v : Nat) : State :=
  if off % 4 ≠ 0 ∨ !isCoreConfig off then s
  else if drained s c then coreConfigSet s c off v
  else s.setF (coreWin c) SEQ_ERR_CFG_BUSY 1

/-- ENG_SEED written (R122). -/
def engSeedWrite (s : State) (c e v : Nat) : State :=
  if drained s c then s.setF (engBase c e) ENG_SEED_SEED v else s.setF (coreWin c) SEQ_ERR_CFG_BUSY 1

/-- GST_CHc_MASK written, while every core in its old and its new mask is drained (Table 7.10). -/
def gustMaskWrite (s : State) (cl ch v : Nat) : State :=
  let m := s.getF (gstBase cl ch) GST_CH_MASK_CORES ||| v % 256
  if (maskList m).all (fun k => drained s (8 * cl + k)) then s.setF (gstBase cl ch) GST_CH_MASK_CORES (v % 256) else s

/-- The channel whose GST_CHc_MASK lies at an offset of a cluster window. -/
def gustMaskAt (o : Nat) : Option Nat :=
  if 0x4000 ≤ o ∧ o < 0x4100 ∧ o % 0x20 = 0 then some ((o - 0x4000) / 0x20) else none

/-- The feed buffers of the channels whose mask includes a core are emptied (R261). -/
def emptyFeeds (s : State) (c : Nat) : State :=
  let cl := c / 8
  (List.range 8).foldl (fun t ch =>
    if bit (t.getF (gstBase cl ch) GST_CH_MASK_CORES) (c % 8) ∧ SMap.get [] (t.cluster cl).feeds ch ≠ [] then
      t.setCluster cl { t.cluster cl with feeds := (t.cluster cl).feeds.put ch [] }
    else t) s

/-! ### Delivery -/

/-- Fields of a SCALE payload (Table 4.6): KIND, COUNT, FIRST, legality. -/
def scKIND (p : Nat) : Nat := bits p 0 4
def scCOUNT (p : Nat) : Nat := bits p 8 6 + 1
def scFIRST (p : Nat) : Nat := bits p 16 24
def scOk (p : Nat) : Bool :=
  decide (scKIND p < 3) && decide (scCOUNT p ≤ 56) && bits p 4 4 = 0 && bits p 14 2 = 0 && bits p 40 24 = 0

/-- The entries of a SCALE payload. -/
def scEntries (p : Nat) : Bytes := natToBytes (scCOUNT p) (p >>> 64)

/-- A steering action that raises a fault with the route tag in INFO. -/
def stuFault (s : State) (c code r : Nat) : State := coreFault s c code r none

/-- Bytes given to the engines of a mask. -/
def giveEngines (s : State) (c mask : Nat) (f : EngSt → EngSt) : State :=
  (maskList mask).foldl (fun t e => t.setEng c e (f (t.eng c e))) s

/-- A token sent out of a port by a steering action (DEST 3): none while the output register is occupied (R77, R242). -/
def forwardOut (s : State) (c r port retag : Nat) (t : Token) : Option State :=
  if portKind s c port = 0 then some (stuFault s c 0x0A r)
  else if (SMap.find (s.core c).outp port).isSome then none
  else
    let s := s.setCore c { s.core c with
      outp := (s.core c).outp.put port { t with tag := BitVec.ofNat 5 retag }, own := (s.core c).own.erase port }
    some (s.addF (portBase c port) STU_PORT_OUT_COUNT 1)

/-- A DATA payload handed to a write SAG: none while the SAG belongs to no macro-operation (R181). -/
def giveSag (s : State) (c n : Nat) (t : Token) : Option State :=
  let x := s.sag c n
  match x.owner with
  | none => none
  | some num =>
    let give (s : State) : State := s.setSag c n { x with inb := x.inb ++ natToBytes 64 t.payload.toNat }
    match s.op c num with
    | none => some (give s)
    | some o =>
      if wOPC o.word.toNat = 0x12 then
        match haloWants o n with
        | none => none
        | some k =>
          some (haloLeave ((give s).setOp c (if k = 0 then { o with rxu := o.rxu + 64 } else { o with rxd := o.rxd + 64 })) c n)
      else some (give s)

/-- A SCALE payload stored by the SAG_AUX of the macro-operation that owns a write SAG (R149). -/
def storeScale (s : State) (c n : Nat) (p : Nat) : Option State :=
  match (s.sag c n).owner with
  | none => none
  | some num =>
    match s.op c num with
    | none => some s
    | some o =>
      let ax := wSAGAUX o.word.toNat
      let es := scEntries p
      some (whileRunning c (fun t i => (steerWrite t c (sagAddr t c ax (scFIRST p + i)) [es.getD i 0] ax).2) s
        (List.range es.length))

/-- Fill CONTROL payload (Table 7.7). -/
def fcENTRY (p : Nat) : Nat := bits p 0 64
def fcOFFSET (p : Nat) : Nat := bits p 64 17
def fcPUSH (p : Nat) : Bool := bit p 81

/-- DATA token number i of a run written into the buffer of the armed fill (R251). -/
def fillWrite (s : State) (c r q : Nat) (ctl t : Token) (i run : Nat) : State :=
  let p := ctl.payload.toNat
  let h := eHANDLE (fcENTRY p)
  let unit := fcOFFSET p + i
  let a := bufferBase s c q h + 64 * unit
  if s.getF (hqBase c q) STU_HQ_BUF_SIZE < unit then coreFault s c 0x01 r (some (unsigned 23 a))
  else
    match steerWrite s c a (natToBytes 64 t.payload.toNat) r with
    | (false, u) => u
    | (true, u) => if run = 1 ∧ fcPUSH p then pushQueue u c q (BitVec.ofNat 64 (fcENTRY p)) r else u

/-- A token handed to the destination of its route: none while the destination cannot take it. The spec names no use of a
CONTROL payload at DEST 0 or 1 (log 28, DESIGN CHOICE), nor of an accepted token of a type its destination has no use for, a
HANDLE or EOF at DEST 0, 1 and 5, DATA or CONTROL at DEST 4 and 5 (log 91, DESIGN CHOICE): such a token is taken and has no
effect. -/
def deliver (s : State) (c r : Nat) (t : Token) : Option State :=
  let b := routeBase c r
  let dest := s.getF b STU_ROUTE_DEST
  let idx := s.getF b STU_ROUTE_INDEX
  let em := s.getF b STU_ROUTE_EMASK
  let p := t.payload.toNat
  let typ := t.typ.toNat
  match dest with
  | 0 =>
    if typ = 3 then
      if scOk p then some (giveEngines s c em (fun x => { x with sin := x.sin ++ scEntries p })) else some (stuFault s c 0x05 r)
    else if typ = 0 then some (giveEngines s c em (fun x => { x with inb := x.inb ++ natToBytes 64 p }))
    else some s
  | 1 =>
    if typ = 3 then (if scOk p then storeScale s c idx p else some (stuFault s c 0x05 r))
    else if typ = 0 then giveSag s c idx t
    else some s
  | 2 =>
    if typ = 1 then some (pushQueue s c idx (BitVec.ofNat 64 p) r)
    else if typ = 5 then
      if (s.join c r).data.isEmpty then
        some (pushQueue s c idx (BitVec.ofNat 64 (2 ^ 24 + bits p 0 7 * 2 ^ 16 + bits p 32 32 * 2 ^ 32)) r)
      else none
    else some s
  | 3 => forwardOut s c r (idx % 4) (s.getF b STU_ROUTE_RETAG) t
  | 4 => some (if typ = 5 then s.setCore c { s.core c with eof := (s.core c).eof ++ [t] } else s)
  | 5 =>
    if typ = 3 then
      if scOk p then some (giveEngines s c em (fun x => { x with sin := x.sin ++ scEntries p })) else some (stuFault s c 0x05 r)
    else some s
  | _ => some s

/-! ### Joins (R81 to R83) -/

/-- The JOIN code of a route. -/
def joinCode (s : State) (c r : Nat) : Nat := s.getF (routeBase c r) STU_ROUTE_JOIN

/-- The governing types a JOIN code requires: CONTROL and SCALE. -/
def needsCtl (j : Nat) : Bool := j = 1 || j = 3
def needsScl (j : Nat) : Bool := j = 2 || j = 3

/-- The DATA token at the head must carry the armed sequence (Table 2.11). -/
def joinCheck (s : State) (c r : Nat) : State :=
  let j := s.join c r
  match j.armed, j.data with
  | some a, t :: _ => if t.jseq = a then s else stuFault s c 0x03 r
  | _, _ => s

/-- The route arms once every governing type is at the head of its buffer with equal sequences (Table 2.11). The heads
wait in `heads` until they are delivered; the CONTROL of a fill stays with the route, and its handle is checked (R248). -/
def tryArm (s : State) (c r : Nat) : State :=
  let j := s.join c r
  let code := joinCode s c r
  if j.armed.isSome || code = 0 then s else
  let hc := if needsCtl code then j.ctl.head? else none
  let hs := if needsScl code then j.scl.head? else none
  if (needsCtl code && hc.isNone) || (needsScl code && hs.isNone) then s else
  match (hc.orElse (fun _ => hs)) with
  | none => s
  | some t =>
    if hc.isSome && hs.isSome && hs.map (·.jseq) != hc.map (·.jseq) then s else
    let dest := s.getF (routeBase c r) STU_ROUTE_DEST
    let heads := if dest = 2 then [] else hc.toList ++ hs.toList
    let s := s.setJoin c r { j with armed := some t.jseq, run := s.getF (routeBase c r) STU_ROUTE_RUN + 1, heads := heads }
    let q := s.getF (routeBase c r) STU_ROUTE_INDEX
    if dest = 2 ∧ !handleInRange s c q (eHANDLE (fcENTRY t.payload.toNat)) then stuFault s c 0x07 r
    else joinCheck s c r

/-- The run is over: governing heads removed, EXPECT advanced, and the route may arm again (Table 2.11). -/
def runOver (s : State) (c r : Nat) : State :=
  let j := s.join c r
  let code := joinCode s c r
  let s := s.setJoin c r { j with
    armed := none, run := 0
    ctl := if needsCtl code then j.ctl.drop 1 else j.ctl
    scl := if needsScl code then j.scl.drop 1 else j.scl }
  let b := routeBase c r
  tryArm (s.setF b STU_ROUTE_EXPECT (s.getF b STU_ROUTE_EXPECT + 1)) c r

/-- JOIN_FIRE: a governing head not yet delivered, and then the DATA token at the head, is delivered (Table 2.11),
unless a commit group is being applied to the core (R428). -/
def joinFire (s : State) (c r : Nat) : State :=
  let j := s.join c r
  if halted s c || (s.core c).locked then s else
  match j.armed with
  | none => s
  | some a =>
    match j.heads with
    | t :: rest =>
      match deliver s c r t with
      | none => s
      | some u => u.setJoin c r { u.join c r with heads := rest }
    | [] =>
      match j.data with
      | [] => s
      | t :: rest =>
        if t.jseq ≠ a then stuFault s c 0x03 r else
        let b := routeBase c r
        let take (u : State) : State :=
          let u := u.setJoin c r { u.join c r with data := rest, run := j.run - 1 }
          if halted u c then u else if j.run ≤ 1 then runOver u c r else joinCheck u c r
        if s.getF b STU_ROUTE_DEST = 2 then
          match j.ctl.head? with
          | none => s
          | some ctl => take (fillWrite s c r (s.getF b STU_ROUTE_INDEX) ctl t (s.getF b STU_ROUTE_RUN + 1 - j.run) j.run)
        else
          match deliver s c r t with
          | none => s
          | some u => take u

/-- A token on a joined route held pending, or none where its buffer is full (R81, R82). A CONTROL or SCALE token whose type
the JOIN code does not require is delivered at once (log 92, DESIGN CHOICE). Each governing type counts its own pending tokens
as the sets already pending, also while only one half of a JOIN 3 set has come (log 93, DESIGN CHOICE). -/
def joinHold (s : State) (c r : Nat) (t : Token) : Option State :=
  let j := s.join c r
  let code := joinCode s c r
  let expect := s.getF (routeBase c r) STU_ROUTE_EXPECT
  if t.typ = 0 then
    if 4 ≤ j.data.length then none else some (joinCheck (s.setJoin c r { j with data := j.data ++ [t] }) c r)
  else if t.typ = 2 ∧ needsCtl code then
    let i := injected s 0x0B c
    if 4 ≤ j.ctl.length then none
    else if i.1 then some (stuFault i.2 c 0x03 r)
    else if t.jseq ≠ BitVec.ofNat 8 (expect + j.ctl.length) then some (stuFault s c 0x03 r)
    else some (tryArm (s.setJoin c r { j with ctl := j.ctl ++ [t] }) c r)
  else if t.typ = 3 ∧ needsScl code then
    let i := injected s 0x0B c
    if 4 ≤ j.scl.length then none
    else if i.1 then some (stuFault i.2 c 0x03 r)
    else if t.jseq ≠ BitVec.ofNat 8 (expect + j.scl.length) then some (stuFault s c 0x03 r)
    else some (tryArm (s.setJoin c r { j with scl := j.scl ++ [t] }) c r)
  else deliver s c r t

/-- One token steered by its route entry (R78, R79, R249, R263): none while it must stay where it is. -/
def steer (s : State) (c : Nat) (fromLink : Bool) (t : Token) : Option State :=
  let r := t.tag.toNat
  let b := routeBase c r
  let dest := s.getF b STU_ROUTE_DEST
  let code := joinCode s c r
  let typ := t.typ.toNat
  let inj := if fromLink then injected s 0x0A c else (false, s)
  if inj.1 then some (stuFault inj.2 c 0x02 r)
  else if fromLink ∧ t.epoch.toNat ≠ s.getF (coreWin c) SEQ_EPOCH_EPOCH then some (stuFault s c 0x02 r)
  else if 6 ≤ typ then some (stuFault s c 0x04 r)
  else if typ = 4 then
    if dest = 3 then deliver s c r t
    else some (s.setF (coreWin c) STU_PROBE_SEEN (min 255 (s.getF (coreWin c) STU_PROBE_SEEN + 1)))
  else if !bit (s.getF b STU_ROUTE_ACCEPT) typ then some (stuFault s c 0x04 r)
  else if 7 ≤ dest then some (stuFault s c 0x05 r)
  else if dest = 2 ∧ (typ = 3 ∨ ((typ = 0 ∨ typ = 2) ∧ code ≠ 1)) then some (stuFault s c 0x05 r)
  else if dest = 2 ∧ typ = 2 ∧ bits t.payload.toNat 82 430 ≠ 0 then some (stuFault s c 0x05 r)
  else if code ≠ 0 ∧ (typ = 0 ∨ typ = 2 ∨ typ = 3) then joinHold s c r t
  else deliver s c r t

/-- TOKEN_STEER: the token at the head of an input port (0 to 3), or the oldest token the core has originated (4). A
fenced core and a core in a flush absorb what is steered into them (R439, R443), and no token is steered while a commit group
is being applied (R428). -/
def tokenSteer (s : State) (c src : Nat) : State :=
  let st := seqState s c
  if src < 4 then
    match s.inq c src with
    | [] => s
    | t :: rest =>
      if st = 4 ∨ (s.core c).flush then s.setInq c src rest
      else if st = 3 ∨ (s.core c).locked then s
      else
        match steer s c true t with
        | none => s
        | some u => progress ((u.setInq c src rest).addF (portBase c src) STU_PORT_IN_COUNT 1) c
  else
    match (s.core c).orig with
    | [] => s
    | t :: rest =>
      if 3 ≤ st ∨ (s.core c).locked then s
      else
        match steer s c false t with
        | none => s
        | some u =>
          let u := u.setCore c { u.core c with orig := rest ++ (u.core c).orig.drop (rest.length + 1) }
          let b := routeBase c t.tag.toNat
          if s.getF b STU_ROUTE_DEST = 3 then
            u.setCore c { u.core c with own := (u.core c).own.put (s.getF b STU_ROUTE_INDEX % 4) t.tag.toNat }
          else u

/-! ### Links (R76, R77, R236 to R240) -/

/-- The token held out to a port, with the core that sends it (none for the hub). -/
def heldOut (s : State) (c p : Nat) : Option (Token × Option Nat) :=
  match meshBeyond c p with
  | some d => (SMap.find (s.core d).outp (oppPort p)).map (fun t => (t, some d))
  | none => (SMap.find s.edgeIn (4 * c + p)).map (fun t => (t, none))

/-- The output register that fed a port emptied. -/
def takeOut (s : State) (c p : Nat) : State :=
  match meshBeyond c p with
  | some d => s.setCore d { s.core d with outp := SMap.erase (s.core d).outp (oppPort p) }
  | none => { s with edgeIn := SMap.erase s.edgeIn (4 * c + p) }

/-- A port is disabled, with the port of the neighbour it leads to (R440). -/
def killLink (s : State) (c p : Nat) : State :=
  let kill (t : State) (d q : Nat) : State := t.setCore d { t.core d with deadPorts := q :: (t.core d).deadPorts }
  match meshBeyond c p with
  | some d => kill (kill s c p) d (oppPort p)
  | none => kill s c p

/-- A refused handshake (R236): counted, and LINK_PERSIST at the eighth in a row, in the sender where a die bridge
receives; the failing link is disabled in both directions (R440). -/
def refuse (s : State) (c p : Nat) (sender : Option Nat) : State :=
  let k := SMap.get 0 (s.core c).refus p + 1
  let bridge := portKind s c p = 2
  let s := (s.addF (portBase c p) STU_PORT_ERR_COUNT 1).setCore c { s.core c with refus := (s.core c).refus.put p (k % 8) }
  if k < 8 then s else
  let s := killLink s c p
  match sender with
  | some d => if bridge then coreFault s d 0x11 (oppPort p) none else coreFault s c 0x11 p none
  | none => coreFault s c 0x11 p none

/-- A configuration of a plan sets the pass bit of port p of core c for a tag, on the cores that carry its stages now: the last
write is in force (R367, R373, R379, R444). -/
def passSet (x : PlanSt) (c p r cfg : Nat) : Bool :=
  bit ((configList x cfg).foldl (fun m w => match w with
    | .reg a v => if a = coreWin c + 0x1010 + 4 * p then v else m
    | .sram _ _ => m) 0) r

/-- The plan a pass-through token is charged to (R77): the slot whose transit record names the core, port and tag, or
else the slot that holds the core and one of whose configurations set that bit: it stays set while no other writes it (R367). -/
def passOwner (s : State) (c p r : Nat) : Option Nat :=
  match (occupied s).find? (fun q => (clTransits (s.plan q).img).contains (c, p, r)) with
  | some q => some q
  | none => (holderOf s c).filter (fun q => (planConfigs (s.plan q).img).any (passSet (s.plan q) c p r))

/-- A pass-through token that meets no neighbour is discarded, its plan stops, and a CORE_FAULT record is written (R77). -/
def passDead (s : State) (c p r : Nat) : State :=
  let o := passOwner s c p r
  let a0 := 0x0A + (r + 32 * p) * 2 ^ 16
  let s := logEvent s 0x8006 c (o.getD 0xFF) a0 0 0 0
  match o with
  | some q => planFault s q 2 c a0
  | none => s

/-- TOKEN_ARRIVE: one handshake on the link into port p, with what the wires add to the token's bits (R236). -/
def tokenArrive (s : State) (c p noise : Nat) : State :=
  if portKind s c p = 0 then s else
  match heldOut s c p with
  | none => s
  | some (t0, sender) =>
    let pass := bit (s.getF (coreWin c + 4 * p) STU_PASS_MASK) t0.tag.toNat
    let room := if pass then (SMap.find (s.core c).pass p).isNone else decide ((s.inq c p).length < 2) && seqState s c != 3
    if !room then s else
    let inj := injected s 0x05 (4 * c + p)
    if inj.1 then refuse inj.2 c p sender else
    match linkToken (linkBits t0 ^^^ noise) with
    | (_, false) => refuse s c p sender
    | (t, true) =>
      let s := takeOut s c p
      let s := s.setCore c { s.core c with refus := (s.core c).refus.put p 0 }
      if bit (s.getF (coreWin c + 4 * p) STU_PASS_MASK) t.tag.toNat then
        if portKind s c (oppPort p) = 0 then passDead s c p t.tag.toNat
        else s.setCore c { s.core c with pass := (s.core c).pass.put p t }
      else s.setInq c p (s.inq c p ++ [t])

/-- PASS_THROUGH_FORWARD: the pass-through register fed by port p gives its token to the opposite port (R76). -/
def passForward (s : State) (c p : Nat) : State :=
  match SMap.find (s.core c).pass p with
  | none => s
  | some t =>
    let o := oppPort p
    if portKind s c o = 0 then passDead (s.setCore c { s.core c with pass := SMap.erase (s.core c).pass p }) c p t.tag.toNat
    else if (SMap.find (s.core c).outp o).isSome then s
    else s.setCore c { s.core c with
      pass := SMap.erase (s.core c).pass p, outp := (s.core c).outp.put o t, own := (s.core c).own.erase o }

/-! ### The gust bus (R259, R260) -/

/-- A write to a channel's feed window: one whole aligned 64-byte line is a beat; anything else is discarded; a full feed
buffer makes it wait. -/
def gustFeed (s : State) (cl ch off : Nat) (data : Bytes) : State :=
  let k := s.cluster cl
  let f := SMap.get [] k.feeds ch
  if off % 64 ≠ 0 ∨ data.length ≠ 64 ∨ 16 ≤ f.length then s
  else s.setCluster cl { k with feeds := k.feeds.put ch (f ++ [BitVec.ofNat 512 (bytesToNat data)]) }

/-- A beat taken by every core of the mask once all have room. -/
def gustBeat (s : State) (cl ch : Nat) : State :=
  let k := s.cluster cl
  match SMap.get [] k.feeds ch with
  | [] => s
  | b :: rest =>
    let m := maskList (s.getF (gstBase cl ch) GST_CH_MASK_CORES)
    if m.all (fun i => decide ((s.core (8 * cl + i)).gust.length < 4)) then
      let s := s.setCluster cl { k with feeds := k.feeds.put ch rest }
      let s := m.foldl (fun t i =>
        t.setCore (8 * cl + i) { t.core (8 * cl + i) with gust := (t.core (8 * cl + i)).gust ++ [(ch, b)] }) s
      s.addF (gstBase cl ch) GST_CH_BEATS_COUNT 1
    else s

/-! ### The meanings -/

def execEngSeedWrite (c : Fin 128) (e : Fin 8) (v : BitVec 32) (s : State) : Host.Outcome State Fault Refusal :=
  live s (engSeedWrite s c e v.toNat)
def execCoreConfigWrite (c : Fin 128) (off v : BitVec 32) (s : State) : Host.Outcome State Fault Refusal :=
  live s (coreConfigWrite s c off.toNat v.toNat)
def execHqConfigWrite (c : Fin 128) (q : Fin 16) (off : BitVec 6) (v : BitVec 32) (s : State) :
    Host.Outcome State Fault Refusal := live s (coreConfigWrite s c (0x8400 + 0x40 * q + off.toNat) v.toNat)
def execTokenArrive (c : Fin 128) (p : Fin 4) (noise : BitVec 560) (s : State) : Host.Outcome State Fault Refusal :=
  live s (tokenArrive s c p noise.toNat)
def execPassThroughForward (c : Fin 128) (p : Fin 4) (s : State) : Host.Outcome State Fault Refusal :=
  live s (passForward s c p)
def execJoinFire (c : Fin 128) (r : Fin 32) (s : State) : Host.Outcome State Fault Refusal := live s (awaited s (joinFire s c r))
def execGustFeedWrite (cl : Fin 16) (ch : Fin 8) (off : BitVec 12) (data : List (BitVec 8)) (s : State) :
    Host.Outcome State Fault Refusal := live s (gustFeed s cl ch off.toNat data)
def execGustBeat (cl : Fin 16) (ch : Fin 8) (s : State) : Host.Outcome State Fault Refusal := live s (gustBeat s cl ch)

end Sys2Proof.Machine
end

