-- ==== Sys2Proof/Machine/Engine.lean ====
section
/-! DEFINITION. Engines (R51 to R54, R88 to R100): the shapes of the engine operators (CONV, WINO, DWCONV, MATMUL), the
activation vectors they apply, the shadow and active tiles, and the folds into the accumulation buffer. -/

namespace Sys2Proof.Machine
open Sys2Proof
open Sys2Proof.Machine.Reg

/-- The macro-operation in flight that holds an engine. -/
def engOp (s : State) (c e : Nat) : Option Op := (s.core c).ops.find? (fun o => bit (wEMASK o.word.toNat) e)

/-- Code of element i of a packed byte string (R91). -/
def elemCode (f : Nat) (b : Bytes) (i : Nat) : Nat :=
  let w := fmtBits f
  if 8 ≤ w then leAt b (i * w / 8) (w / 8) else bits (leAt b (i * w / 8) 1) (i * w % 8) w

/-- The parameter block of a macro-operation as a number. -/
def Op.blk (o : Op) : Nat := bytesToNat o.block

def Op.opc (o : Op) : Nat := wOPC o.word.toNat

/-- F of R97: 16 when an operand is BINT4 or BINT8. -/
def accF (a b : Nat) : Nat := if fmtBint a || fmtBint b then 16 else 0

/-! ### DWCONV and WINO shapes (R182 to R186) -/

def dwGin (b : Nat) : Nat := bits b 384 5 + 1
def dwGout (b : Nat) : Nat := bits b 389 5 + 1
def woVar (b : Nat) : Nat := bits b 384 2

/-- Rows of the block of one group: k² gin. -/
def dwRows (r : WinRec) (b : Nat) : Nat := r.kh * r.kw * dwGin b

/-- Groups per band (R186). -/
def dwBand (r : WinRec) (b : Nat) : Nat := max 1 (min (32 / dwRows r b) (32 / dwGout b))

def dwGroups (r : WinRec) (b : Nat) : Nat := r.cin / dwGin b

def dwBands (r : WinRec) (b : Nat) : Nat := ceilDiv (dwGroups r b) (dwBand r b)

/-- Tiles of one band's reduction. -/
def dwTiles (r : WinRec) (b : Nat) : Nat := ceilDiv (dwRows r b) 32

/-- Output tile size m, input tile size, positions P of a Winograd variant (Table 5.7). -/
def woM (v : Nat) : Nat := if v = 0 then 2 else 4
def woIn (v : Nat) : Nat := woM v + 2
def woP (v : Nat) : Nat := woIn v * woIn v

/-- The engine position of a Winograd position: ⌊p n / P⌋ (R183). -/
def woEngine (v n p : Nat) : Nat := p * n / woP v

/-- The positions held by the i-th engine of n. -/
def woPositions (v n i : Nat) : List Nat := (List.range (woP v)).filter (fun p => woEngine v n p = i)

/-- Tiles in a tile row, tile rows, blocks of a tile row. -/
def woCols (r : WinRec) (v : Nat) : Nat := ceilDiv r.ow (woM v)
def woTileRows (r : WinRec) (v : Nat) : Nat := ceilDiv (r.oy0 % woM v + r.onr) (woM v)
def woBlocks (r : WinRec) (v tb : Nat) : Nat := ceilDiv (woCols r v) tb

/-- Input chunks of K channels. -/
def chunks (r : WinRec) (fb : Nat) : Nat := ceilDiv r.cin (vecK fb)

/-! ### Shape of an engine operator -/

/-- A CONV, WINO, DWCONV, POOL or CROP whose output has no rows or no columns: it reads nothing, writes nothing and completes
(R168). Global pooling ignores the fields that say so (R190). -/
def emptyOut (o : Op) : Bool :=
  let window := decide (1 ≤ o.opc) && decide (o.opc ≤ 3)
  let r := winRec o.blk (if window then 128 else 0)
  (window || (o.opc = 5 && decide (bits o.blk 256 3 < 2)) || o.opc = 0x13) && (r.oh = 0 || r.ow = 0)

/-- Weight tiles the engine at index i of n applies. -/
def engTiles (o : Op) (n i : Nat) : Nat :=
  let b := o.blk
  let r := winRec b 128
  if emptyOut o then 0 else
  match o.opc with
  | 0x02 => (woPositions (woVar b) n i).length * chunks r (wFMTB o.word.toNat) * woBlocks r (woVar b) (hVpt b) *
      woTileRows r (woVar b)
  | _ => hTiles b

/-- Tiles of one reduction: a slice (R116), a pixel block (R176), a band (R186). -/
def sliceTiles (o : Op) : Nat :=
  let b := o.blk
  let r := winRec b 128
  match o.opc with
  | 0x01 => r.kh * r.kw * chunks r (wFMTB o.word.toNat)
  | 0x03 => dwTiles r b
  | _ => bits b 128 16 + 1

/-- One vector of a macro-operation applied by an engine: where its results accumulate (a row of the accumulation buffer,
numbered through the macro-operation), whether it is the first or the last of its reduction. -/
structure VecPlace where
  row : Nat
  first : Bool
  last : Bool
deriving DecidableEq, Repr

/-- The place in slice number sl, row q of rows. -/
def placeIn (sl rows q : Nat) (first last : Bool) : VecPlace :=
  ⟨sl * rows + q, first, last⟩

/-- The place of vector `vec` of tile number `tile` (from 0) of the engine at index i of n. -/
def vecPlace (o : Op) (n i tile vec : Nat) : VecPlace :=
  let b := o.blk
  match o.opc with
  | 0x02 =>
    let np := (woPositions (woVar b) n i).length
    let ch := chunks (winRec b 128) (wFMTB o.word.toNat)
    let t := tile % (np * ch)
    placeIn (tile / (np * ch)) (np * hVpt b) ((t % np) * hVpt b + vec) (decide (t / np = 0)) (decide (t / np + 1 = ch))
  | _ =>
    let rt := sliceTiles o
    let lastEng := hENGMODE b = 0 || i + 1 = n
    placeIn (tile / rt) (hVpt b) vec (decide (tile % rt = 0) && (hENGMODE b = 0 || i = 0))
      (decide (tile % rt + 1 = rt) && lastEng)

/-! ### Planar operands (R165, R170, R171, R173) -/

/-- Address of element (ch, y, x) of a planar operand of a SAG, with first held row y0 and element bits w (R165). -/
def planarAddr (s : State) (c n ch : Nat) (y : Int) (y0 x w : Nat) : Int :=
  sagOrigin s c n + ch * sagStride s c n 2 + (y - y0) * sagStride s c n 1 + (x * w / 8 : Nat)

/-- One source element: code, exponent byte, and whether it is a constant of padding mode 0 or 1. -/
structure SrcEl where
  code : Nat
  exp : Nat
  pad : Bool
deriving DecidableEq, Repr

/-- FMT_A carries an exponent at a planar address (R173): BINT8 and BINT4, and BFP4 in POOL, RESIZE and CROP, for which the
spec names no other place of its exponents (log 84, DEDUCED). The exponents of a BFP4 engine operand come in vector order
(R125). -/
def planarExp (w : Nat) : Bool := fmtBint (wFMTA w) || (wFMTA w = 0xF && decide (5 ≤ wOPC w))

/-- The element at a window position, by the padding rule; none with a fault raised where it cannot be read. Of the aligned
64-byte word that a fetch takes (R172), the ECC words that hold the element are read and checked (log 116, DESIGN CHOICE). -/
def fetchEl (s : State) (c : Nat) (w : Nat) (r : WinRec) (ch : Nat) (iy ix : Int) : Option SrcEl × State :=
  let f := wFMTA w
  match mapIndex r.pmode r.h iy, mapIndex r.pmode r.w ix with
  | some y, some x =>
    if y < r.iy0 ∨ r.iy0 + r.ihr ≤ y then
      (none, coreFault s c 0x01 (wSAGA w) (some (unsigned 23 (sagOrigin s c (wSAGA w)))))
    else
      let eb := fmtBits f
      match scratchRead s c (planarAddr s c (wSAGA w) ch y r.iy0 x eb) (max 1 (eb / 8)) (wSAGA w) with
      | (none, t) => (none, t)
      | (some v, t) =>
        let code := if 8 ≤ eb then bytesToNat v else bits (bytesToNat v) (x * eb % 8) eb
        if planarExp w then
          match scratchRead t c (sagOrigin t c (wSAGAUX w) + ch * sagStride t c (wSAGAUX w) 2 +
              ((y : Int) - r.iy0) * sagStride t c (wSAGAUX w) 1 + (x / r.exb : Nat)) 1 (wSAGAUX w) with
          | (none, u) => (none, u)
          | (some e, u) => (some ⟨code, bytesToNat e, false⟩, u)
        else (some ⟨code, 0, false⟩, t)
  | _, _ => (some ⟨if r.pmode = 1 then r.pval else 0, 0, true⟩, s)

/-- Every element of a list of positions, or none with the fault of the first that cannot be read. -/
def fetchAll {α β : Type} (f : State → β → Option α × State) : State → List β → Option (List α) × State
  | s, [] => (some [], s)
  | s, b :: t =>
    match f s b with
    | (none, u) => (none, u)
    | (some a, u) =>
      match fetchAll f u t with
      | (none, v) => (none, v)
      | (some l, v) => (some (a :: l), v)

/-- Group elements aligned to the largest exponent among those that are not padding constants (R173). -/
def alignInts (f : Nat) (l : List SrcEl) : List Int × Int :=
  if fmtBint f then
    let es := (l.filter (fun x => !x.pad)).map (fun x => signed 8 x.exp)
    let m := es.foldl max (-128)
    let m := if es.isEmpty then 0 else m
    (l.map (fun x => if x.pad then 0 else ((Q.ofInt (intElem f x.code)).shift (signed 8 x.exp - m)).round .rna), m)
  else (l.map (fun x => intElem f x.code), 0)

/-! ### Activation vectors -/

/-- An activation vector: integer segments with their exponents, or floating elements. -/
inductive ActVec
  | int (segs : List (List Int × Int))
  | flt (els : List FV)
deriving DecidableEq, Repr

/-- A list cut into pieces of m. -/
def pieces {α : Type} (m : Nat) : Nat → List α → List (List α)
  | 0, _ => []
  | k + 1, l => l.take m :: pieces m k (l.drop m)

/-- The vector of K elements with one exponent per segment. -/
def mkVec (f k segs : Nat) (codes : List Nat) (exps : List Nat) : ActVec :=
  if fmtFloat f then
    .flt ((List.range k).map (fun i => elemVal f (codes.getD i 0) (exps.getD (i * segs / k) 127)))
  else
    .int ((pieces (k / segs) segs (codes.map (intElem f))).zip
      (((List.range segs).map (fun i => if fmtBint f then signed 8 (exps.getD i 0) else 0))))

/-- The vector of planar elements: integers aligned within each segment (R173), BFP4 elements with the exponent byte of
their segment (R125). -/
def mkPlanar (f k segs : Nat) (l : List SrcEl) (exps : Bytes) : ActVec :=
  if fmtFloat f then
    .flt ((l.zip (List.range k)).map (fun x => elemVal f x.1.code (exps.getD (x.2 * segs / k) 127).toNat))
  else .int ((pieces (k / segs) segs l).map (alignInts f))

/-- A vector of zeros, as a partial block is filled with (R176). -/
def zeroVec (f k segs : Nat) : ActVec := mkPlanar f k segs (List.replicate k ⟨0, 0, true⟩) []

/-- The positions a CONV vector takes: channel, row, column for each element, or none beyond the input channels. -/
def convPositions (r : WinRec) (k tl ch oy ox : Nat) : List (Option (Nat × Int × Int)) :=
  let tap := tl / ch
  let iy := (oy * r.sh : Nat) - (r.pt : Int) + (tap / r.kw * r.dh : Nat)
  let ix := (ox * r.sw : Nat) - (r.pl : Int) + (tap % r.kw * r.dw : Nat)
  (List.range k).map (fun j => if tl % ch * k + j < r.cin then some (tl % ch * k + j, iy, ix) else none)

/-- The positions a DWCONV vector takes (R186). -/
def dwPositions (r : WinRec) (b k part band oy ox : Nat) : List (Option (Nat × Int × Int)) :=
  let kk := r.kh * r.kw
  let rows := dwRows r b
  (List.range k).map (fun j =>
    let rho := part * 32 + j
    let g := rho / rows
    let q := rho % rows
    let grp := band * dwBand r b + g
    if 32 ≤ j ∨ dwBand r b ≤ g ∨ dwGroups r b ≤ grp then none
    else
      let tap := q % kk
      some (grp * dwGin b + q / kk, (oy * r.sh : Nat) - (r.pt : Int) + (tap / r.kw * r.dh : Nat),
        (ox * r.sw : Nat) - (r.pl : Int) + (tap % r.kw * r.dw : Nat)))

/-- The elements at a list of positions; none stands for a zero that costs no access. -/
def fetchPositions (s : State) (c w : Nat) (r : WinRec) (l : List (Option (Nat × Int × Int))) :
    Option (List SrcEl) × State :=
  fetchAll (fun t p => match p with
    | none => (some (⟨0, 0, true⟩ : SrcEl), t)
    | some (ch, y, x) => fetchEl t c w r ch y x) s l

/-! ### Winograd transforms (R183, R184) -/

def woBt (v : Nat) : List (List Int) :=
  if v = 0 then [[1, 0, -1, 0], [0, 1, 1, 0], [0, -1, 1, 0], [0, 1, 0, -1]]
  else [[4, 0, -5, 0, 1, 0], [0, -4, -4, 1, 1, 0], [0, 4, -4, -1, 1, 0], [0, -2, -1, 2, 1, 0], [0, 2, -1, -2, 1, 0],
    [0, 4, 0, -5, 0, 1]]

def woAt (v : Nat) : List (List Int) :=
  if v = 0 then [[1, 1, 1, 0], [0, 1, -1, -1]]
  else [[1, 1, 1, 1, 1, 0], [0, 1, -1, 2, -2, 0], [0, 1, 1, 4, 4, 0], [0, 1, -1, 8, -8, 1]]

/-- The coefficient of tile element q in transformed element (i, j) of a matrix M: M[i][a] M[j][b] with q = a n + b. -/
def woCoef (m : List (List Int)) (n i j q : Nat) : Int := (m.getD i []).getD (q / n) 0 * (m.getD j []).getD (q % n) 0

/-- One transformed integer element. -/
def woInt (m : List (List Int)) (n i j : Nat) (d : List Int) : Int :=
  (List.range (n * n)).foldl (fun a q => a + woCoef m n i j q * d.getD q 0) 0

/-- One transformed floating element, exact, and V (Table 3.8). -/
def woFlt (m : List (List Int)) (n i j : Nat) (d : List FV) : FV × Bool :=
  let terms := ((List.range (n * n)).filter (fun q => woCoef m n i j q ≠ 0)).map (fun q =>
    (d.getD q .nan).mul (FV.ofQ (Q.ofInt (woCoef m n i j q)) false))
  FV.sum (terms.map (fun p => p.1))

/-- The transformed vector of one tile at a position, for input channels from c0 (R183, R184), with the count of values
that overflow FMT_A. The whole input tile is fetched and must be held, rows that feed only discarded outputs among them (R171;
log 117, DESIGN CHOICE). -/
def woVec (s : State) (c w : Nat) (r : WinRec) (v k c0 ty tx p : Nat) : Option (ActVec × Nat) × State :=
  let n := woIn v
  let f := wFMTA w
  let y0 : Int := (woM v * ty : Nat) - (r.pt : Int)
  let x0 : Int := (woM v * tx : Nat) - (r.pl : Int)
  let pos := (List.range k).flatMap (fun j => (List.range (n * n)).map (fun q =>
    if c0 + j < r.cin then some (c0 + j, y0 + (q / n : Nat), x0 + (q % n : Nat)) else none))
  match fetchPositions s c w r pos with
  | (none, t) => (none, t)
  | (some l, t) =>
    if fmtFloat f then
      let vals := (pieces (n * n) k (l.map (fun x => floatElem f x.code))).map (fun d =>
        convert f .rna (woFlt (woBt v) n (p / n) (p % n) d).1)
      (some (.flt (vals.map (fun x => floatElem f x.1)), (vals.filter (fun x => x.2.s)).length), t)
    else
      let a := alignInts f l
      let ds := (pieces (n * n) k (if f = 3 then a.1.map (fun x => x - 128) else a.1)).zip (List.range k)
      let vals := ds.map (fun d => if c0 + d.2 < r.cin then woInt (woBt v) n (p / n) (p % n) d.1 else 0)
      (some (.int [(vals, a.2)], 0), t)

/-! ### Reading a vector -/

/-- What an engine finds when it looks for its next vector. -/
inductive VecIn
  | wait
  | stop (s : State)
  | vec (v : ActVec) (sat : Nat) (s : State)

/-- Bytes taken from a SAG of the macro-operation at a position of its delivered stream, or none while they are not
there. -/
def streamBytes (s : State) (c n at0 len : Nat) : Option Bytes :=
  let d := (s.sag c n).dlv
  if at0 + len ≤ d.length then some (slice d at0 len) else none

/-- A MATMUL vector: from tokens delivered to the engine, or from SAG_A and SAG_AUX (R90, R125). `v` is the vector's
place in the SAG stream. -/
def matmulVec (s : State) (c e : Nat) (o : Op) (v : Nat) : VecIn :=
  let w := o.word.toNat
  let f := wFMTA w
  let k := vecK (wFMTB w)
  let segs := segments k (hG o.blk)
  let nb := k * fmtBits f / 8
  let x := s.eng c e
  let nx := if fmtGroup f then segs else 0
  let mk (b xb : Bytes) : ActVec := mkVec f k segs ((List.range k).map (elemCode f b)) (xb.map (·.toNat))
  if nb ≤ x.inb.length then
    if x.sin.length < nx then .wait
    else .vec (mk (x.inb.take nb) (x.sin.take nx)) 0
      (s.setEng c e { x with inb := x.inb.drop nb, sin := x.sin.drop nx })
  else
    match streamBytes s c (wSAGA w) (v * nb) nb, streamBytes s c (wSAGAUX w) (v * nx) nx with
    | some b, some xb => .vec (mk b xb) 0 s
    | _, _ => .wait

/-- The vector of the engine at index i of n for tile `tile` and vector `vec`. -/
def engVec (s : State) (c e : Nat) (o : Op) (n i tile vec : Nat) : VecIn :=
  let w := o.word.toNat
  let b := o.blk
  let f := wFMTA w
  let k := vecK (wFMTB w)
  let segs := segments k (hG b)
  let r := winRec b 128
  let casc := hENGMODE b = 1
  let order := if casc then (tile * hVpt b + vec) * n + i else tile * hVpt b + vec
  let nx := if f = 0xF ∧ o.opc ≠ 0x04 then segs else 0
  let pack (xb : Bytes) (p : Option (List SrcEl) × State) : VecIn :=
    match p with
    | (none, t) => .stop t
    | (some l, t) => .vec (mkPlanar f k segs l xb) 0 t
  match streamBytes s c (wSAGAUX w) (order * nx) nx with
  | none => .wait
  | some xb =>
  match o.opc with
  | 0x01 =>
    let nb := hVpt b
    let t := sliceTiles o
    let sl := tile / t
    let blocks := ceilDiv r.ow nb
    let tl := if casc then tile % t * n + i else tile % t
    let ox := sl % blocks * nb + vec
    if r.ow ≤ ox ∨ t ≤ tl then .vec (zeroVec f k segs) 0 s
    else pack xb (fetchPositions s c w r (convPositions r k tl (chunks r (wFMTB w)) (r.oy0 + sl / blocks) ox))
  | 0x03 =>
    let nb := hVpt b
    let t := sliceTiles o
    let sl := tile / t
    let blocks := ceilDiv r.ow nb
    let bands := dwBands r b
    let ox := sl / bands % blocks * nb + vec
    if r.ow ≤ ox then .vec (zeroVec f k segs) 0 s
    else pack xb (fetchPositions s c w r (dwPositions r b k (tile % t) (sl % bands) (r.oy0 + sl / bands / blocks) ox))
  | 0x02 =>
    let v := woVar b
    let ps := woPositions v n i
    let ch := chunks r (wFMTB w)
    let blocks := woBlocks r v (hVpt b)
    let t := tile % (ps.length * ch)
    let sl := tile / (ps.length * ch)
    let tx := sl % blocks * hVpt b + vec
    if woCols r v ≤ tx then .vec (zeroVec f k 1) 0 s
    else
      match woVec s c w r v k (t / ps.length * k) (r.oy0 / woM v + sl / blocks) tx (ps.getD (t % ps.length) 0) with
      | (none, u) => .stop u
      | (some (q, sat), u) => .vec q sat u
  | _ => matmulVec s c e o order

/-! ### Folding (R96 to R100) -/

/-- Counts of one handshake: partials and accumulators clamped. -/
structure FoldCnt where
  psat : Nat
  asat : Nat
deriving DecidableEq, Repr

/-- One column's fold of a vector with F of R97 (`fr`): `wts` are the column's weight codes by tile row, `wex` its exponent
bytes. -/
def foldColumn (fa fb fr : Nat) (v : ActVec) (wts wex : List Nat) (a : Acc) : Acc × FoldCnt :=
  match v with
  | .flt els =>
    let k := els.length
    let segs := max 1 wex.length
    let r := foldFloat a.f ((els.zip (List.range k)).map (fun p =>
      (p.1, elemVal fb (wts.getD p.2 0) (wex.getD (p.2 * segs / k) 127))))
    ({ a with f := r.1, fl := (a.fl.setV r.2.1).setS r.2.2 }, ⟨0, if r.2.2 then 1 else 0⟩)
  | .int segs =>
    let width := if fa = 4 then 48 else 24
    let m := (segs.map (fun p => p.1.length)).foldl max 0
    (segs.zip (List.range segs.length)).foldl (fun (st : Acc × FoldCnt) p =>
      let els := p.1.1
      let products := (els.zip (List.range els.length)).map (fun q => q.1 * intElem fb (wts.getD (p.2 * m + q.2) 0))
      let ps := partialSum width products
      let ew := if fmtBint fb then signed 8 (wex.getD (p.2 * wex.length / segs.length) 0) else 0
      let r := foldAcc st.1.i ps.1 (p.1.2 + ew + fr)
      ({ st.1 with i := r.1, fl := (st.1.fl.setS ps.2).setS r.2 },
        ⟨st.2.psat + (if ps.2 then 1 else 0), st.2.asat + (if r.2 then 1 else 0)⟩)) (a, ⟨0, 0⟩)

/-- Weight codes of column j of a tile, by tile row: element (row, column) lies at index 32 × row + column. -/
def tileColumn (fb : Nat) (tile : Bytes) (j : Nat) : List Nat :=
  (List.range (vecK fb)).map (fun k => elemCode fb tile (32 * k + j))

/-- Exponent bytes of column j of a group-format tile (Table 4.1). -/
def tileExps (fb g : Nat) (tile : Bytes) (j : Nat) : List Nat :=
  if fmtGroup fb then (List.range (segments (vecK fb) g)).map (fun q => leAt tile (tileBytes fb + 32 * q + j) 1) else []

/-- A TERN2 tile holds the reserved code (Table 3.6). -/
def ternBad (fb : Nat) (tile : Bytes) : Bool :=
  fb = 0xC && (List.range (32 * vecK fb)).any (fun i => elemCode fb tile i = 2)

/-- The accumulation buffer has a free entry (R53). A row of 32 results enters whole: the last row of a macro-operation's block
may hold columns that are discarded. -/
def accRoom (m : SMap Acc) : Bool := decide (m.length < 4096)

/-- A vector folded into a row of the accumulation buffer of engine `dst` with the tile of engine `e`. The summing column
folds by the same F as the cell columns (R97, R98), and its clamps are counted with theirs. In cascade mode a clamp is
counted at the engine that applied the vector: the spec does not say which engine counts it (log 85, DESIGN CHOICE). -/
def foldVector (s : State) (c e dst : Nat) (o : Op) (pl : VecPlace) (v : ActVec) : State :=
  let w := o.word.toNat
  let fa := wFMTA w
  let fb := wFMTB w
  let fr := accF fa fb
  let tile := (s.eng c e).active
  let x := s.eng c dst
  let start (m : SMap Acc) (key : Nat) : Acc := if pl.first then Acc.zero else SMap.get Acc.zero m key
  let cols := (List.range 32).foldl (fun (st : SMap Acc × FoldCnt) j =>
    let r := foldColumn fa fb fr v (tileColumn fb tile j) (tileExps fb (hG o.blk) tile j) (start x.acc (32 * pl.row + j))
    (SMap.put st.1 (32 * pl.row + j) { r.1 with fin := pl.last }, ⟨st.2.psat + r.2.psat, st.2.asat + r.2.asat⟩)) (x.acc, ⟨0, 0⟩)
  let rs : SMap Acc × FoldCnt := match v with
    | .int _ =>
      if o.opc = 0x02 then (x.rsum, ⟨0, 0⟩)
      else
        let r := foldColumn fa 2 fr v (List.replicate (vecK fb) 1) [] (start x.rsum pl.row)
        (SMap.put x.rsum pl.row r.1, r.2)
    | .flt _ => (x.rsum, ⟨0, 0⟩)
  let s := s.setEng c dst { x with acc := cols.1, rsum := rs.1 }
  (s.addF (engBase c e) ENG_PSAT_CNT_COUNT (cols.2.psat + rs.2.psat)).addF (engBase c e) ENG_ASAT_CNT_COUNT
    (cols.2.asat + rs.2.asat)

/-! ### The events of an engine -/

/-- The macro-operation drives the cell arrays: CONV, WINO, DWCONV or MATMUL. -/
def isCellOp (opc : Nat) : Bool := decide (1 ≤ opc) && decide (opc ≤ 4)

/-- Index of an element in a list, or its length. -/
def indexIn (l : List Nat) (e : Nat) : Nat := (l.takeWhile (fun x => x != e)).length

/-- A WINO vector of a tile beyond the tile row: it fills a partial block, and its results are discarded (R183, Table
5.4). -/
def woBeyond (o : Op) (n i tile vec : Nat) : Bool :=
  let b := o.blk
  let r := winRec b 128
  let v := woVar b
  let per := (woPositions v n i).length * chunks r (wFMTB o.word.toNat)
  o.opc = 0x02 && decide (woCols r v ≤ tile / per % woBlocks r v (hVpt b) * hVpt b + vec)

/-- ENGINE_VECTOR: one cell handshake (R51, R54). The first vector of a reduction waits for a free entry of the accumulation
buffer; a macro-operation that needs more than 4,096 before its last tile is not legal (R53), and waits without end (log 115,
DESIGN CHOICE). In cascade mode the engines of the mask take successive vectors in
turn, and the results collect at the last of them (R100). -/
def engineVector (s : State) (c e : Nat) : State :=
  if halted s c || (s.core c).locked then s else
  match engOp s c e with
  | none => s
  | some o =>
    if !isCellOp o.opc then s else
    let es := wEngines o.word.toNat
    let n := es.length
    let i := indexIn es e
    let casc := hENGMODE o.blk = 1 && o.opc != 0x02
    let x := s.eng c e
    if x.tile = 0 ∨ hVpt o.blk ≤ x.vec ∨ (casc ∧ o.vecs % n ≠ i) then s else
    let dst := if casc then es.getD (n - 1) 0 else e
    let pl := vecPlace o n i (x.tile - 1) x.vec
    if pl.first ∧ !accRoom (s.eng c dst).acc then s else
    if ternBad (wFMTB o.word.toNat) x.active then coreFault s c 0x09 o.pcAt none else
    match engVec s c e o n i (x.tile - 1) x.vec with
    | .wait => s
    | .stop t => t
    | .vec v sat t =>
      let t := if woBeyond o n i (x.tile - 1) x.vec then t else foldVector t c e dst o pl v
      let t := t.setEng c e { t.eng c e with vec := x.vec + 1 }
      let t := (t.addF (engBase c e) ENG_VECTORS_COUNT 1).addF (engBase c e) ENG_ASAT_CNT_COUNT sat
      t.setOp c { o with vecs := o.vecs + 1 }

/-- Tiles that stream into an engine's shadow for a macro-operation: one for LOADW, those after the first otherwise
(R52). -/
def streamTiles (o : Op) (n i : Nat) : Nat :=
  if o.opc = 0x16 then 1 else if isCellOp o.opc then engTiles o n i - 1 else 0

/-- The engine that takes the next tile of the weight stream: the fewest tiles streamed, then the lowest index (R116). -/
def nextTileEngine (s : State) (c : Nat) (o : Op) : Option Nat :=
  let es := wEngines o.word.toNat
  let want := es.filter (fun e => decide ((s.eng c e).streamed < streamTiles o es.length (indexIn es e)))
  want.foldl (fun best e => match best with
    | none => some e
    | some b => if (s.eng c e).streamed < (s.eng c b).streamed then some e else some b) none

/-- The weight stream comes over the gust bus: IMM[0] of LOADW, WSRC otherwise. -/
def fromGust (o : Op) : Bool := if o.opc = 0x16 then bit (wIMM o.word.toNat) 0 else hWSRC o.blk

/-- One beat taken into the shadow tile of an engine. -/
def takeBeat (s : State) (c e : Nat) (o : Op) (b : Bytes) : State :=
  let x := s.eng c e
  let sh := x.shadow ++ b
  if tileBeats (wFMTB o.word.toNat) * 64 ≤ sh.length then
    (s.setEng c e { x with shadow := sh, streamed := x.streamed + 1 }).setF (engBase c e) ENG_STATUS_SHADOW_READY 1
  else s.setEng c e { x with shadow := sh }

/-- The first beat of a gust channel in a core's gust buffer, and the buffer without it. -/
def takeGust (ch : Nat) : List (Nat × BitVec 512) → Option (BitVec 512 × List (Nat × BitVec 512))
  | [] => none
  | (k, b) :: t => if k = ch then some (b, t) else (takeGust ch t).map (fun r => (r.1, (k, b) :: r.2))

/-- SHADOW_BEAT (R52): the next 64-byte beat, from SAG_B or the gust buffer (R260). A beat waits while the engine's shadow
tile is complete; so does a LOADW that names such an engine, without end where nothing makes the shadow active: the spec
gives no outcome there (log 86, DESIGN CHOICE). -/
def shadowBeat (s : State) (c e : Nat) : State :=
  if halted s c then s else
  match engOp s c e with
  | none => s
  | some o =>
    if nextTileEngine s c o ≠ some e ∨ s.getF (engBase c e) ENG_STATUS_SHADOW_READY = 1 then s
    else if fromGust o then
      match takeGust (s.getF (coreWin c) STU_GUST_CHAN) (s.core c).gust with
      | none => s
      | some r => takeBeat (s.setCore c { s.core c with gust := r.2 }) c e o (natToBytes 64 r.1.toNat)
    else
      let n := wSAGB o.word.toNat
      match sagVector (s.sag c n) with
      | none => s
      | some b => takeBeat (s.setSag c n { s.sag c n with used := (s.sag c n).used + 64 }) c e o b

/-- SHADOW_SWAP (R52): the shadow becomes active once it is complete and the active tile has its vectors. -/
def shadowSwap (s : State) (c e : Nat) : State :=
  if halted s c then s else
  match engOp s c e with
  | none => s
  | some o =>
    let es := wEngines o.word.toNat
    let x := s.eng c e
    if isCellOp o.opc ∧ s.getF (engBase c e) ENG_STATUS_SHADOW_READY = 1 ∧ (x.tile = 0 ∨ x.vec = hVpt o.blk) ∧
        x.tile < engTiles o es.length (indexIn es e) then
      let s := s.setEng c e { x with active := x.shadow, shadow := [], tile := x.tile + 1, vec := 0 }
      (s.setF (engBase c e) ENG_STATUS_SHADOW_READY 0).setF (engBase c e) ENG_STATUS_TILE_VALID 1
    else s

def execEngineVector (c : Fin 128) (e : Fin 8) (s : State) : Host.Outcome State Fault Refusal := live s (awaited s (engineVector s c e))
def execShadowBeat (c : Fin 128) (e : Fin 8) (s : State) : Host.Outcome State Fault Refusal := live s (shadowBeat s c e)
def execShadowSwap (c : Fin 128) (e : Fin 8) (s : State) : Host.Outcome State Fault Refusal := live s (shadowSwap s c e)

end Sys2Proof.Machine
end

