-- ==== Sys2Proof/Machine/Ppu.lean ====
section
/-! DEFINITION. Post-processing units (R110 to R113, R117 to R119, R123 to R164): the order of output elements, steps 1 to
8 of R110, pooling, resizing and cropping, ELTWISE, REDUCE and KILN, row shifts and group exponents, statistics, history
records and the scale sidecar. -/

namespace Sys2Proof.Machine
open Sys2Proof
open Sys2Proof.Machine.Reg

/-! ### Settings sampled at the frame context load (R131) -/

/-- A PPU setting in force: as sampled, or the register before any frame context has been loaded. -/
def ppuF (s : State) (c e : Nat) (f : Fld) : Nat :=
  match SMap.find (s.eng c e).samp f.off with
  | some v => bits v.toNat f.lsb f.width
  | none => s.getF (ppuBase c e) f

/-- The sampled words: PPU_CTRL to PPU_KSTATE. R131 names PPU_CTRL and the table bases; PPU_ROW, PPU_CH and PPU_NCH are sampled
with them, while PPU_THR and PPU_SIDE are read as they stand (log 118, DESIGN CHOICE). -/
def ppuSample (s : State) (c e : Nat) : SMap (BitVec 32) :=
  (List.range 19).map (fun i => (4 * i, BitVec.ofNat 32 (s.reg (ppuBase c e + 4 * i))))

/-- The rescale and the correction tables in force, in bytes (R126, TSEL). -/
def rtabBase (s : State) (c e : Nat) : Nat :=
  64 * (if ppuF s c e PPU_CTRL_TSEL = 0 then ppuF s c e PPU_RTAB_A_BASE else ppuF s c e PPU_RTAB_B_BASE)
def btabBase (s : State) (c e : Nat) : Nat :=
  64 * (if ppuF s c e PPU_CTRL_TSEL = 0 then ppuF s c e PPU_BTAB_A_BASE else ppuF s c e PPU_BTAB_B_BASE)

/-! ### The order of output elements (R116, R119, Table 5.3) -/

/-- One output element of a PPU: discarded before step 1 or not, its entry of the accumulation buffer, its channel, its
PPU row with its place and the length of the row, where it goes (none: the stream of SAG_OUT; otherwise output channel,
row, column and box). -/
structure OutEl where
  skip : Bool
  key : Nat
  ch : Nat
  row : Nat
  pos : Nat
  len : Nat
  dst : Option (Nat × Nat × Nat × Nat)
deriving DecidableEq, Repr

/-- Numbers below m that are i modulo n. -/
def shareOf (m n i : Nat) : Nat := if i < m then (m - i - 1) / n + 1 else 0

def poOP (b : Nat) : Nat := bits b 256 3
def poCNTPAD (b : Nat) : Bool := bit b 259
def poZA (b : Nat) : Int := signed 16 (bits b 264 16)
def rzMODE (b : Nat) : Nat := bits b 256 2
def rzCOORD (b : Nat) : Nat := bits b 258 2
def rzOH (b : Nat) : Nat := bits b 280 16 + 1
def rzOW (b : Nat) : Nat := bits b 296 16 + 1
def crCH (b : Nat) : Nat := bits b 280 8 + 1
def crCW (b : Nat) : Nat := bits b 288 8 + 1
def crEXTV (b : Nat) : Nat := bits b 296 32
def elOP (b : Nat) : Nat := bits b 128 4
def elBCAST (b : Nat) : Nat := bits b 132 2
def elCOUNT (b : Nat) : Nat := bits b 288 32 + 1
def elROWLEN (b : Nat) : Nat := bits b 320 32 + 1
def reLEN (b : Nat) : Nat := bits b 176 32 + 1
def reNRUN (b : Nat) : Nat := bits b 208 32 + 1
def kiNCH (b : Nat) : Nat := bits b 128 16 + 1

/-- Output rows and columns of POOL and RESIZE; one for global pooling. -/
def planOut (o : Op) (r : WinRec) : Nat × Nat :=
  if o.opc = 0x06 then (r.onr, rzOW o.blk)
  else if 2 ≤ poOP o.blk then (1, 1)
  else if r.oh = 0 ∨ r.ow = 0 then (0, 0) else (r.onr, r.ow)

/-- Boxes of a CROP: NBOX of the list's header, at most 4,096 (R194, R195). None while the header has not arrived. -/
def cropBoxes (s : State) (c : Nat) (o : Op) : Option Nat :=
  (streamBytes s c (wSAGAUX o.word.toNat) 0 16).map (fun b => min 4096 (bits (bytesToNat b) 0 13))

/-- Elements the PPU of engine e, at index i of n, produces. -/
def outTotal (s : State) (c : Nat) (o : Op) (n i : Nat) : Nat :=
  let b := o.blk
  let r := winRec b 128
  let r0 := winRec b 0
  let casc := hENGMODE b = 1
  match o.opc with
  | 0x01 => if r.oh = 0 ∨ r.ow = 0 ∨ (casc ∧ i + 1 ≠ n) then 0 else r.onr * ceilDiv r.ow (hVpt b) * 32 * hVpt b
  | 0x03 => if r.oh = 0 ∨ r.ow = 0 ∨ (casc ∧ i + 1 ≠ n) then 0
      else r.onr * ceilDiv r.ow (hVpt b) * dwBands r b * 32 * hVpt b
  | 0x02 => if r.oh = 0 ∨ r.ow = 0 then 0
      else woTileRows r (woVar b) * shareOf (woCols r (woVar b)) n i * 32 * (woM (woVar b) * woM (woVar b))
  | 0x04 => if casc ∧ i + 1 ≠ n then 0 else hTiles b / (bits b 128 16 + 1) * hVpt b * 32
  | 0x05 => (planOut o r0).1 * shareOf r0.cin n i * (planOut o r0).2
  | 0x06 => (planOut o r0).1 * shareOf r0.cin n i * (planOut o r0).2
  | 0x13 => if emptyOut o then 0 else shareOf ((cropBoxes s c o).getD 0) n i * r0.cin * crCH b * crCW b
  | _ => 0

/-- Output element number k of the PPU of engine e, at index i of n. -/
def outEl (s : State) (c e : Nat) (o : Op) (n i k : Nat) : OutEl :=
  let b := o.blk
  let r := winRec b 128
  let r0 := winRec b 0
  let base := ppuF s c e PPU_CH_CHBASE
  let nb := hVpt b
  let eng := if hENGMODE b = 1 then 0 else i
  match o.opc with
  | 0x01 =>
    let blocks := ceilDiv r.ow nb
    let px := k % nb
    let col := k / nb % 32
    let bl := k / nb / 32 % blocks
    let oy := k / nb / 32 / blocks
    let ox := bl * nb + px
    ⟨decide (r.ow ≤ ox) || decide (r.cout ≤ 32 * eng + col), 32 * ((oy * blocks + bl) * nb + px) + col, base + col, k / nb, px,
      min nb (r.ow - bl * nb), some (32 * eng + col, r.oy0 + oy, ox, 0)⟩
  | 0x03 =>
    let blocks := ceilDiv r.ow nb
    let bands := dwBands r b
    let bg := dwBand r b * dwGout b
    let px := k % nb
    let col := k / nb % 32
    let band := k / nb / 32 % bands
    let bl := k / nb / 32 / bands % blocks
    let oy := k / nb / 32 / bands / blocks
    let ox := bl * nb + px
    ⟨decide (r.ow ≤ ox) || decide (bg ≤ col) || decide (r.cout ≤ band * bg + col),
      32 * (((oy * blocks + bl) * bands + band) * nb + px) + col,
      base + band * bg + col, k / nb, px, min nb (r.ow - bl * nb), some (band * bg + col, r.oy0 + oy, ox, 0)⟩
  | 0x02 =>
    let m := woM (woVar b)
    let mm := m * m
    let cnt := shareOf (woCols r (woVar b)) n i
    let res := k % mm
    let col := k / mm % 32
    let t := i + n * (k / mm / 32 % cnt)
    let ty := r.oy0 / m + k / mm / 32 / cnt
    let y := m * ty + res / m
    let x := m * t + res % m
    ⟨decide (r.oh ≤ y) || decide (r.ow ≤ x) || decide (y < r.oy0) || decide (r.oy0 + r.onr ≤ y) || decide (r.cout ≤ col),
      65536 * (k / mm / 32 / cnt) + t, base + col, k / mm, res, mm, some (col, y, x, 0)⟩
  | 0x05 =>
    let q := planOut o r0
    let cnt := shareOf r0.cin n i
    let ci := k / q.2 % cnt
    ⟨false, 0, base + ci, k / q.2, k % q.2, q.2,
      some (i + n * ci, (if 2 ≤ poOP b then 0 else r0.oy0) + k / q.2 / cnt, k % q.2, 0)⟩
  | 0x06 =>
    let q := planOut o r0
    let cnt := shareOf r0.cin n i
    let ci := k / q.2 % cnt
    ⟨false, 0, base + ci, k / q.2, k % q.2, q.2, some (i + n * ci, r0.oy0 + k / q.2 / cnt, k % q.2, 0)⟩
  | 0x13 =>
    let cw := crCW b
    let chh := crCH b
    let x := k % cw
    let y := k / cw % chh
    let ci := k / cw / chh % r0.cin
    let bx := i + n * (k / cw / chh / r0.cin)
    ⟨false, 0, base + ci, k / cw, x, cw, some (ci, y, x, bx)⟩
  | _ =>
    let len := ppuF s c e PPU_ROW_LEN + 1
    let row := k / len
    let ch := if ppuF s c e PPU_CTRL_CHMODE = 0 then base + k % len else base + row / (ppuF s c e PPU_CH_RPC + 1)
    ⟨false, k, ch, row, k % len, len, none⟩

/-! ### Step 6 values -/

/-- What a PPU finds for an element: nothing yet, a fault, or the step-6 value with its flags, accumulator clamps, and the
state after the reads it took. -/
inductive Six
  | wait
  | stop (s : State)
  | val (v : FV) (fl : CFlags) (asat : Nat) (s : State)

/-- A fault of an element of a macro-operation. -/
def opFault (s : State) (c : Nat) (o : Op) : State := coreFault s c 0x05 o.pcAt none

/-- A parameter read (R111, R127 to R129), checked under R58. -/
def paramRead (s : State) (c : Nat) (o : Op) (off len : Nat) : Option Nat × State :=
  match scratchRead s c off len o.pcAt with
  | (none, t) => (none, t)
  | (some b, t) => (some (bytesToNat b), t)

/-- The rescale entry of a channel (Table 4.2). -/
def rescaleEntry (s : State) (c e : Nat) (o : Op) (ch : Nat) : Option Nat × State :=
  paramRead s c o (rtabBase s c e + 8 * (ch - ppuF s c e PPU_CH_CHBASE)) 8

/-- The kiln log-scale of a channel, or zero (R158, R159). -/
def kilnLS (s : State) (c e : Nat) (o : Op) (ch : Nat) : Option Int × State :=
  if ppuF s c e PPU_CTRL_KILN = 0 then (some 0, s) else
  match paramRead s c o (64 * ppuF s c e PPU_KSTATE_BASE + 64 + 4 * (ch - ppuF s c e PPU_CH_CHBASE)) 1 with
  | (none, t) => (none, t)
  | (some v, t) => (some (signed 8 v), t)

/-- A value clamped to INT32, and whether it was (S). -/
def clamp32 (x : Int) : Int × Bool := let y := clampInt x (-2147483648) 2147483647; (y, y != x)

/-- The integer value of an accumulator; a floating accumulator's exact value with what cannot be one (Table 3.9). -/
def accQ (a : Acc) (isF : Bool) : FV := if isF then a.f else FV.ofQ (Q.ofInt a.i) false

/-- Steps 1 to 3 on the integer path (R134): the value and S, or V for a NaN. The spec gives a floating accumulator on this
path no result where it is NaN or infinite: it becomes 0 with V, or the bound with S, and takes no bias (log 112, DESIGN
CHOICE). -/
def stepsInt (a : FV) (rsum corr : Int) (zw : Int) (mult sh f : Nat) (ls bias : Int) : Int × CFlags :=
  match a with
  | .nan => (0, ⟨false, false, true, false⟩)
  | .inf neg => (if neg then -2147483648 else 2147483647, ⟨true, false, false, false⟩)
  | .fin _ q =>
    let a1 := q.add (Q.ofInt (corr - zw * rsum))
    let q1 := clamp32 ((((a1.mul (Q.ofInt mult)).shift (-((sh + f : Nat) : Int))).mulRoot16 ls).round .rna)
    let q2 := clamp32 (q1.1 + bias)
    (q2.1, CFlags.none.setS (q1.2 || q2.2))

/-- Steps 2 and 3 on the floating path (R135). -/
def stepsFlt (a : FV) (mult sh f : Nat) (ls : Int) (bias : FV) : FV × CFlags :=
  let sc := ((Q.ofInt mult).shift (-((sh + f : Nat) : Int))).mulRoot16 ls
  let p : FV × Bool := match a with
    | .fin neg q => (FV.ofQ (((q.mul (Q.ofInt mult)).shift (-((sh + f : Nat) : Int))).mulRoot16 ls) neg, false)
    | v => v.mul (FV.ofQ sc false)
  let v1 := p.1.fp32
  let t := FV.sum [v1.1, bias]
  let v2 := t.1.fp32
  (v2.1, (CFlags.none.setS (v1.2 || v2.2)).setV (p.2 || t.2))

/-- Entry 0 of an activation table on a path (Table 3.10): WEXP, or none where it breaks the rules of R112. -/
def actWexp (e0 : Nat) (flt : Bool) : Option Int :=
  let wexp := bits e0 8 8
  if bit e0 0 != flt || bits e0 1 7 ≠ 0 || bits e0 16 48 ≠ 0 then none
  else if flt then (if wexp = 128 ∨ wexp = 129 then none else some (signed 8 wexp))
  else if 32 ≤ wexp then none else some wexp

/-- Step 4, activation (R111, R112, Table 3.11): none with a fault raised, or the value and S. For a NaN no segment is
read, and no word of the table is read or judged (log 112, DESIGN CHOICE: the spec names the segment only). -/
def activate (s : State) (c e : Nat) (o : Op) (act : Nat) (flt : Bool) (v : FV) : Option (FV × CFlags) × State :=
  match act with
  | 0 => (some (v, CFlags.none), s)
  | 1 =>
    (some (match v with
      | .nan => .nan
      | v => if v.signBit then .fin false ⟨0, 1⟩ else v, CFlags.none), s)
  | _ =>
    if 6 ≤ act then (none, opFault s c o) else
    if v.isNaN then (some (.nan, CFlags.none), s) else
    let base := 64 * ppuF s c e { PPU_ACT_BASE with off := PPU_ACT_BASE.off + 4 * (act - 2) }
    match paramRead s c o base 8 with
    | (none, t) => (none, t)
    | (some e0, t) =>
      match actWexp e0 flt with
      | none => (none, opFault t c o)
      | some wexp =>
        let i := match v with
          | .inf neg => if neg then 0 else 255
          | .fin _ q => (clampInt ((q.shift (-wexp)).floor + 128) 0 255).toNat
          | .nan => 0
        match paramRead t c o (base + 8 + 8 * i) 8 with
        | (none, u) => (none, u)
        | (some en, u) =>
          if flt then
            let icpt := floatElem 0xB (bits en 0 32)
            let slope := floatElem 0xB (bits en 32 32)
            if !v.isFin && slope.isZero then (some (icpt, CFlags.none), u) else
            let p := slope.mul v
            let t2 := FV.sum [p.1, icpt]
            let r := t2.1.fp32
            (some (r.1, (CFlags.none.setS r.2).setV (p.2 || t2.2)), u)
          else
            let y := clamp32 (((v.q.mul (Q.ofInt (signed 32 (bits en 32 32)))).shift (-16)).round .rna + signed 32 (bits en 0 32))
            (some (FV.ofQ (Q.ofInt y.1) false, CFlags.none.setS y.2), u)

/-- Step 5, the clamp to the bounds of the rescale entry (R129). A NaN bound lets the value pass on its side (log 119, DESIGN
CHOICE). -/
def clampBounds (lo hi v : FV) : FV :=
  if v.isNaN then v else if hi.lt lo then lo else if v.lt lo then lo else if hi.lt v then hi else v

/-- Steps 1 to 5 for an accumulator entry and its row entry (R134, R135): none with a fault raised. The path is the
floating one for a floating FMT_OUT (R110). -/
def steps (s : State) (c e : Nat) (o : Op) (ch : Nat) (a rs : Acc) : Option (FV × CFlags) × State :=
  let w := o.word.toNat
  let isF := fmtFloat (wFMTB w)
  let flt := fmtFloat (wFMTOUT w)
  let f := if isF then 0 else accF (wFMTA w) (wFMTB w)
  match rescaleEntry s c e o ch with
  | (none, t) => (none, t)
  | (some re, t) =>
  match paramRead t c o (btabBase t c e + 16 * (ch - ppuF t c e PPU_CH_CHBASE)) 16 with
  | (none, t) => (none, t)
  | (some ce, t) =>
  match kilnLS t c e o ch with
  | (none, t) => (none, t)
  | (some ls, t) =>
    let zwBad := fmtGroup (wFMTB w) && bits ce 48 16 ≠ 0
    if bit re 63 || bits ce 96 32 ≠ 0 || zwBad || (flt && bits ce 0 64 ≠ 0) then (none, opFault t c o) else
    let r : FV × CFlags :=
      if flt then
        stepsFlt (accQ a isF) (bits re 0 24) (bits re 24 6) f ls (floatElem 0xB (bits ce 64 32))
      else
        let q := stepsInt (accQ a isF) rs.i (signed 48 (bits ce 0 48)) (signed 16 (bits ce 48 16)) (bits re 0 24)
          (bits re 24 6) f ls (signed 32 (bits ce 64 32))
        (FV.ofQ (Q.ofInt q.1) false, q.2)
    match activate t c e o (bits re 46 3) flt r.1 with
    | (none, u) => (none, u)
    | (some v, u) =>
      match paramRead u c o (64 * ppuF u c e PPU_BOUND_BASE + 4 * bits re 49 7) 4 with
      | (none, u) => (none, u)
      | (some lo, u) =>
      match paramRead u c o (64 * ppuF u c e PPU_BOUND_BASE + 4 * bits re 56 7) 4 with
      | (none, u) => (none, u)
      | (some hi, u) =>
        let val (x : Nat) : FV := if flt then floatElem 0xB x else FV.ofQ (Q.ofInt (signed 32 x)) false
        (some (clampBounds (val lo) (val hi) v.1, (r.2.or v.2).or a.fl), u)

/-- An entry of the accumulation buffer that the last tile has reached. -/
def finalAcc (x : EngSt) (key : Nat) : Option Acc :=
  match SMap.find x.acc key with
  | some a => if a.fin then some a else none
  | none => none

/-- The row of the accumulation buffer of position p for tile t of tile row tr (from 0) in its engine. -/
def woRow (o : Op) (n tr t p : Nat) : Nat :=
  let b := o.blk
  let v := woVar b
  let ps := woPositions v n (woEngine v n p)
  let tb := hVpt b
  (tr * woBlocks (winRec b 128) v tb + t / tb) * (ps.length * tb) + indexIn ps p * tb + t % tb

/-- The output transform of one Winograd tile and column (R183, R184): result number res from the P entries, with clamps
and flags. The key holds the tile row and the tile, 65,536 tiles to a row. -/
def woOutput (s : State) (c : Nat) (o : Op) (n key col res : Nat) : Option (Acc × Nat) :=
  let b := o.blk
  let v := woVar b
  let es := wEngines o.word.toNat
  let m := woM v
  let entry (p : Nat) : Option Acc :=
    finalAcc (s.eng c (es.getD (woEngine v n p) 0)) (32 * woRow o n (key / 65536) (key % 65536) p + col)
  let l := (List.range (woP v)).map entry
  if l.any (·.isNone) then none else
  let as := l.map (fun a => a.getD Acc.zero)
  let fl := as.foldl (fun f a => f.or a.fl) CFlags.none
  if fmtFloat (wFMTB o.word.toNat) then
    let y := woFlt (woAt v) (woIn v) (res / m) (res % m) (as.map (·.f))
    let r := y.1.fp32
    some ({ Acc.zero with f := r.1, fl := (fl.setV y.2).setS r.2, fin := true }, if r.2 then 1 else 0)
  else
    let y := woInt (woAt v) (woIn v) (res / m) (res % m) (as.map (·.i))
    let z := clampInt y (-(2 ^ 47)) (2 ^ 47 - 1)
    some ({ Acc.zero with i := z, fl := fl.setS (z != y), fin := true }, if z != y then 1 else 0)

/-! ### POOL, RESIZE and CROP (R188 to R196) -/

/-- Source elements as step-6 contributions (R189), for formats FMT_A and FMT_OUT: (x − ZA) 2^e after alignment on the
integer path, x on the floating path, which is that of a floating FMT_OUT (R110). -/
def srcVals (f fo : Nat) (za : Int) (l : List SrcEl) : List FV :=
  let z := if fmtFloat fo then 0 else za
  if fmtFloat f then l.map (fun x => match elemVal f x.code (if x.pad then 127 else x.exp) with
    | .fin neg q => FV.ofQ (q.sub (Q.ofInt z)) neg
    | v => v)
  else
    let a := alignInts f l
    a.1.map (fun x => FV.ofQ ((Q.ofInt (x - z)).shift a.2) false)

/-- The maximum of contributions (Table 3.12); zero for an empty window. -/
def poolMax : List FV → FV
  | [] => .fin false ⟨0, 1⟩
  | v :: t => t.foldl FV.max v

/-- A fraction clamped to 48 bits in units of 2^e. -/
def clampQ (q : Q) (e : Int) : Q :=
  let lo := (Q.ofInt (-(2 ^ 47))).shift e
  let hi := (Q.ofInt (2 ^ 47 - 1)).shift e
  if q.lt lo then lo else if hi.lt q then hi else q

/-- The sum of integer contributions in 48 bits (Table 3.12), in units of 2^e, with clamps. -/
def poolSumInt (l : List FV) (e : Int) : Q × Nat :=
  l.foldl (fun (p : Q × Nat) v =>
    let n := p.1.add v.q
    let z := clampQ n e
    (z, p.2 + (if z.eq n then 0 else 1))) (⟨0, 1⟩, 0)

/-- The sum of floating contributions, each rounded (R113). -/
def poolSumFlt : List FV → FV × CFlags
  | [] => (.fin false ⟨0, 1⟩, CFlags.none)
  | v :: t => t.foldl (fun (p : FV × CFlags) x =>
      let r := poolAdd p.1 x
      (r.1, (p.2.setV r.2.1).setS r.2.2)) (v.fp32.1, CFlags.none.setS v.fp32.2)

/-- A pooled window: maximum, or average with a divisor (R190). Special values of a floating FMT_A on the integer path
follow Table 3.12 (log 21, DEDUCED). -/
def poolValue (f fo : Nat) (za : Int) (isMax : Bool) (divisor : Nat) (l : List SrcEl) : FV × CFlags × Nat :=
  let vs := srcVals f fo za l
  if l.isEmpty then (.fin false ⟨0, 1⟩, CFlags.none, 0)
  else if isMax then (poolMax vs, CFlags.none, 0)
  else if fmtFloat fo then
    let sm := poolSumFlt vs
    match sm.1 with
    | .fin neg q =>
      let r := (FV.ofQ (q.divNat divisor) neg).fp32
      (r.1, sm.2.setS r.2, 0)
    | v => (v, sm.2, 0)
  else if vs.any (fun v => !v.isFin) then
    let t := FV.sum vs
    (t.1, CFlags.none.setV t.2, 0)
  else
    let r := poolSumInt vs (if fmtFloat f then 0 else (alignInts f l).2)
    (FV.ofQ (r.1.divNat divisor) false, CFlags.none.setS (decide (r.2 ≠ 0)), r.2)

/-- The step-6 value of a POOL element (R188 to R190). -/
def poolSix (s : State) (c : Nat) (o : Op) (ch oy ox : Nat) : Six :=
  let b := o.blk
  let w := o.word.toNat
  let r := winRec b 0
  let f := wFMTA w
  let global := decide (2 ≤ poOP b)
  let isMax := poOP b = 0 || poOP b = 2
  let pos : List (Int × Int) :=
    if global then (List.range r.ihr).flatMap (fun (y : Nat) => (List.range r.w).map (fun (x : Nat) => (((r.iy0 + y : Nat) : Int), (x : Int))))
    else (List.range r.kh).flatMap (fun ky => (List.range r.kw).map (fun kx =>
      ((oy * r.sh : Nat) - (r.pt : Int) + (ky * r.dh : Nat), (ox * r.sw : Nat) - (r.pl : Int) + (kx * r.dw : Nat))))
  let real (p : Int × Int) : Bool := decide (0 ≤ p.1) && decide (p.1 < r.h) && decide (0 ≤ p.2) && decide (p.2 < r.w)
  let pos := if global || poCNTPAD b then pos else pos.filter real
  let divisor := if poOP b = 4 then 1 else if global then pos.length else if poCNTPAD b then r.kh * r.kw else pos.length
  match fetchAll (fun t (p : Int × Int) => fetchEl t c w { r with h := if global then max r.h (r.iy0 + r.ihr) else r.h } ch p.1 p.2) s pos with
  | (none, t) => .stop t
  | (some l, t) =>
    let v := poolValue f (wFMTOUT w) (poZA b) isMax (max 1 divisor) l
    .val v.1 v.2.1 v.2.2 t

/-- The source coordinate of an output sample in Q16.16 (Table 5.11). -/
def srcCoord (coord i o n : Nat) : Int :=
  match coord with
  | 0 => (((2 * o + 1) * i * 2 ^ 16 : Nat) : Int).fdiv (2 * n : Nat) - 2 ^ 15
  | 1 => if n = 1 then 0 else ((o * (i - 1) * 2 ^ 16 : Nat) : Int).fdiv ((n - 1 : Nat) : Int)
  | _ => ((o * i * 2 ^ 16 : Nat) : Int).fdiv (n : Int)

/-- The source indices and weights along one axis (R193), for indices lo to hi. -/
def axisTaps (mode : Nat) (sc lo hi : Int) : List (Int × Nat) :=
  if mode = 0 then [(clampInt ((sc + 2 ^ 15).fdiv (2 ^ 16)) lo hi, 65536)]
  else
    let i0 := sc.fdiv (2 ^ 16)
    let f := (sc - i0 * 2 ^ 16).toNat
    [(clampInt i0 lo hi, 65536 - f), (clampInt (i0 + 1) lo hi, f)].filter (fun p => p.2 ≠ 0)

/-- A sample: the weighted sum of its corners divided by 2^32, exact (R193). -/
def sampleSix (s : State) (c : Nat) (w : Nat) (r : WinRec) (za : Int) (ch : Nat) (ty tx : List (Int × Nat)) : Six :=
  let taps := ty.flatMap (fun y => tx.map (fun x => (y.1, x.1, y.2 * x.2)))
  match fetchAll (fun t (p : Int × Int × Nat) => fetchEl t c w r ch p.1 p.2.1) s taps with
  | (none, t) => .stop t
  | (some l, u) =>
    let vs := srcVals (wFMTA w) (wFMTOUT w) za l
    let ps := (vs.zip taps).map (fun p => p.1.mul (FV.ofQ ((Q.ofInt (p.2.2.2 : Nat)).shift (-32)) false))
    let t := FV.sum (ps.map (fun p => p.1))
    .val t.1 (CFlags.none.setV (t.2 || ps.any (fun p => p.2))) 0 u

/-- The step-6 value of a RESIZE element (R191 to R193). -/
def resizeSix (s : State) (c : Nat) (o : Op) (ch oy ox : Nat) : Six :=
  let b := o.blk
  let r := winRec b 0
  sampleSix s c o.word.toNat r (poZA b) ch
    (axisTaps (rzMODE b) (srcCoord (rzCOORD b) r.h oy (rzOH b)) 0 ((r.h : Int) - 1))
    (axisTaps (rzMODE b) (srcCoord (rzCOORD b) r.w ox (rzOW b)) 0 ((r.w : Int) - 1))

/-- The coordinate of box sample i of n between two ends (R196). -/
def boxCoord (p q : Int) (i n : Nat) : Int :=
  if n = 1 then (p + q).fdiv 2 else p + ((i : Int) * (q - p)).fdiv ((n - 1 : Nat) : Int)

/-- The step-6 value of a CROP element (R194 to R196). -/
def cropSix (s : State) (c : Nat) (o : Op) (ch y x bx : Nat) : Six :=
  let b := o.blk
  let w := o.word.toNat
  let r := winRec b 0
  match streamBytes s c (wSAGAUX w) (16 + 16 * bx) 16 with
  | none => .wait
  | some rec_ =>
    let n := bytesToNat rec_
    let f (k : Nat) : Int := signed 32 (bits n (32 * k) 32)
    let sy := boxCoord (f 0) (f 2) y (crCH b)
    let sx := boxCoord (f 1) (f 3) x (crCW b)
    if sy < (r.iy0 : Int) * 2 ^ 16 ∨ ((r.iy0 + r.ihr - 1 : Nat) : Int) * 2 ^ 16 < sy ∨ sx < 0 ∨
        ((r.w - 1 : Nat) : Int) * 2 ^ 16 < sx then
      .val (if fmtFloat (wFMTOUT w) then floatElem 0xB (crEXTV b) else FV.ofQ (Q.ofInt (signed 32 (crEXTV b))) false)
        CFlags.none 0 s
    else
      sampleSix s c w { r with h := r.iy0 + r.ihr } (poZA b) ch
        (axisTaps (bits b 256 2) sy r.iy0 ((r.iy0 + r.ihr - 1 : Nat) : Int))
        (axisTaps (bits b 256 2) sx 0 ((r.w - 1 : Nat) : Int))

/-- The step-6 value of an output element (R110). -/
def sixOf (s : State) (c e : Nat) (o : Op) (n : Nat) (el : OutEl) : Six :=
  let ofSteps (a rs : Acc) (sat : Nat) : Six :=
    match steps s c e o el.ch a rs with
    | (none, t) => .stop t
    | (some v, t) => .val v.1 v.2 sat t
  match o.opc, el.dst with
  | 0x05, some (ch, y, x, _) => poolSix s c o ch y x
  | 0x06, some (ch, y, x, _) => resizeSix s c o ch y x
  | 0x13, some (ch, y, x, bx) => cropSix s c o ch y x bx
  | 0x02, some (col, _, _, _) =>
    match woOutput s c o n el.key col el.pos with
    | none => .wait
    | some a => ofSteps a.1 Acc.zero a.2
  | _, _ =>
    match finalAcc (s.eng c e) el.key with
    | none => .wait
    | some a => ofSteps a (SMap.get Acc.zero (s.eng c e).rsum (el.key / 32)) 0

/-! ### Output, statistics and sidecar -/

/-- One element code pushed to a write SAG, 4-bit elements in pairs (R91). -/
def pushCode (s : State) (c n w code : Nat) : State :=
  let x := s.sag c n
  if w = 4 then
    match x.half with
    | none => s.setSag c n { x with half := some code }
    | some h => s.setSag c n { x with half := none, inb := x.inb ++ [BitVec.ofNat 8 (h + 16 * code)] }
  else s.setSag c n { x with inb := x.inb ++ natToBytes (w / 8) code }

/-- Rows of 32 elements that the producing engines have ready, taken by SAG_OUT in turn (R116). -/
def drainRows (s : State) (c : Nat) (o : Op) : State :=
  let es := wEngines o.word.toNat
  let prod := if hENGMODE o.blk = 1 then es.drop (es.length - 1) else es
  (List.range (prod.length + 1)).foldl (fun t _ =>
    match t.op c o.num with
    | none => t
    | some p =>
      let e := prod.getD (p.turn % max 1 prod.length) 0
      let x := t.eng c e
      if x.outq.length < 32 then t
      else
        let t := t.setEng c e { x with outq := x.outq.drop 32 }
        let t := (x.outq.take 32).foldl (fun u code =>
          pushCode u c (wSAGOUT o.word.toNat) (fmtBits (wFMTOUT o.word.toNat)) code) t
        t.setOp c { p with turn := p.turn + 1 }) s

/-- An element code stored in planar layout by SAG_OUT, with OY0 in place of IY0 (R165): an element narrower than a byte is
merged into its byte. -/
def storePlanar (s : State) (c : Nat) (o : Op) (d : Nat × Nat × Nat × Nat) (code : Nat) : State :=
  let w := o.word.toNat
  let n := wSAGOUT w
  let eb := fmtBits (wFMTOUT w)
  let r := winRec o.blk (if isCellOp o.opc then 128 else 0)
  let a := planarAddr s c n d.1 d.2.1 r.oy0 d.2.2.1 eb + d.2.2.2 * sagStride s c n 3
  if 8 ≤ eb then (scratchWrite s c a (natToBytes (eb / 8) code) n).2
  else if !boundsOk s c a 1 true then coreFault s c 0x01 n (some (unsigned 23 a))
  else
    match areaRead s c a.toNat 1 n with
    | (none, t) => t
    | (some b, t) => (scratchWrite t c a [BitVec.ofNat 8 (setBits (bytesToNat b) (d.2.2.1 * eb % 8) eb code)] n).2

def EngSt.stat (x : EngSt) (ch : Nat) : ChStat := SMap.get ChStat.reset x.chst ch

/-- The statistics of a channel after one element (R150). -/
def statAdd (st : ChStat) (v : FV) (fl : CFlags) (shift : Int) : ChStat :=
  { st with
    maxAbs := magMax st.maxAbs v
    sat := satAdd 16 st.sat (if fl.s then 1 else 0)
    ufl := satAdd 16 st.ufl (if fl.u then 1 else 0)
    mn := if v.isNaN then st.mn else if !st.seen || v.lt st.mn then v else st.mn
    mx := if v.isNaN then st.mx else if !st.seen || st.mx.lt v then v else st.mx
    seen := st.seen || !v.isNaN
    last := shift }

/-- Flags counted in the engine's and the PPU's registers (R109). -/
def countFlags (s : State) (c e : Nat) (fl : CFlags) (asat : Nat) : State :=
  let b := engBase c e
  let p := ppuBase c e
  let s := (s.addF b ENG_INVALID_CNT_COUNT (if fl.v then 1 else 0)).addF b ENG_NAN_CNT_COUNT (if fl.n then 1 else 0)
  let s := (s.addF p PPU_SAT_TOT_COUNT (if fl.s then 1 else 0)).addF p PPU_UFL_TOT_COUNT (if fl.u then 1 else 0)
  s.addF b ENG_ASAT_CNT_COUNT asat

/-- A SCALE token of the sidecar entries held (Table 4.6). -/
def sidePayload (kind first : Nat) (es : List Nat) : Nat :=
  kind + (es.length - 1) * 2 ^ 8 + first % 2 ^ 24 * 2 ^ 16 + bytesToNat (es.map (BitVec.ofNat 8)) * 2 ^ 64

/-- The KIND of a format's sidecar (Table 4.6). -/
def sideKind (f : Nat) : Nat := if fmtBint f then 1 else if f = 0xF then 2 else 0

/-- The sidecar entries held, sent as a SCALE token; the route tag is the low bits of the sidecar SAG's BASE. -/
def sideFlush (s : State) (c e : Nat) (o : Op) : State :=
  let x := s.eng c e
  if x.side.isEmpty then s else
  let tag := s.getF (sagBase c (s.getF (ppuBase c e) PPU_SIDE_SAG)) SAG_BASE_BASE % 32
  let s := originate s c 3 tag (sidePayload (sideKind (wFMTOUT o.word.toNat)) x.sideFirst x.side)
  let s := governed s c tag 3
  s.setEng c e { s.eng c e with side := [], sideFirst := x.sideFirst + x.side.length }

/-- One sidecar byte (R147): stored through a write SAG, or collected into a SCALE token (R149). -/
def sideByte (s : State) (c e : Nat) (o : Op) (v : Nat) : State :=
  let p := ppuBase c e
  if s.getF p PPU_SIDE_EN = 0 then s else
  let n := s.getF p PPU_SIDE_SAG
  if s.getF (sagBase c n) SAG_CFG_DIR = 1 then
    s.setSag c n { s.sag c n with inb := (s.sag c n).inb ++ [BitVec.ofNat 8 v] }
  else
    let x := s.eng c e
    let s := s.setEng c e { x with side := x.side ++ [v] }
    if s.getF p PPU_SIDE_PER_TOKEN + 1 ≤ x.side.length + 1 then sideFlush s c e o else s

/-! ### History (R142, R143, R145) -/

/-- Pair k of a history record: MAXABS code and SEQ. -/
def histPair (rec_ k : Nat) : Nat × Nat := (bits rec_ (64 * k) 32, bits rec_ (64 * k + 32) 32)

/-- A valid pair in the window of frame fs with depth h (R143). -/
def inWindow (fs h : Nat) (p : Nat × Nat) : Bool :=
  let d := (fs + 2 ^ 32 - p.2) % 2 ^ 32
  !bit p.1 31 && decide (1 ≤ d) && decide (d ≤ h)

/-- The history maximum of a record, if a valid pair lies in the window (R143). -/
def histMax (rec_ fs h : Nat) : Option FV :=
  let ps := ((List.range 8).map (histPair rec_)).filter (inWindow fs h)
  if ps.isEmpty then none
  else some ((ps.map (fun p => floatElem 0xB p.1)).foldl (fun m v => if m.lt v then v else m) (.fin false ⟨0, 1⟩))

/-- A record after frame fs wrote its pair, and whether the others become invalid (R144). -/
def histWrite (rec_ fs code : Nat) (invalidate : Bool) : Nat :=
  (List.range 8).foldl (fun r k =>
    if k = fs % 8 then setBits (setBits r (64 * k) 32 code) (64 * k + 32) 32 fs
    else if invalidate then setBits r (64 * k + 31) 1 1 else r) rec_

/-- A record with every pair invalid (R145). -/
def histInvalid (rec_ : Nat) : Nat := (List.range 8).foldl (fun r k => setBits r (64 * k + 31) 1 1) rec_

/-- The history block of the frame's stream slot: 0xFF for none (R145); none with a fault raised where the slot map cannot
be read. -/
def histBlock (s : State) (c e : Nat) (info : Nat) : Option Nat × State :=
  match areaRead s c (64 * ppuF s c e PPU_HMAP_BASE + s.getF (coreWin c) SEQ_FRAME_SLOT) 1 info with
  | (none, t) => (none, t)
  | (some b, t) => (some (bytesToNat b), t)

/-- The scratch offset of a channel's record (R142). -/
def histOff (s : State) (c e blk ch : Nat) : Nat :=
  64 * ppuF s c e PPU_HIST_BASE +
    64 * (blk * (ppuF s c e PPU_NCH_COUNT + 1) + (ch - ppuF s c e PPU_CH_CHBASE))

/-- The history shift of a channel in the frame, and whether it came from history (R143); none with a fault raised where
its record cannot be read. -/
def histShift (s : State) (c e ch fmt : Nat) (zp : Int) (info : Nat) : Option (Int × Bool) × State :=
  let init := signed 8 (ppuF s c e PPU_NCH_INIT)
  match histBlock s c e info with
  | (none, t) => (none, t)
  | (some b, t) =>
    if b = 255 then (some (init, false), t) else
    match areaRead t c (histOff t c e b ch) 64 info with
    | (none, u) => (none, u)
    | (some r, u) =>
      match histMax (bytesToNat r) (frameFS u c) (ppuF u c e PPU_CTRL_HDEPTH + 1) with
      | none => (some (init, false), u)
      | some m => (some (rowShift fmt zp m (ppuF u c e PPU_CTRL_GUARD), true), u)

/-! ### One element of a pipelined operator -/

/-- The largest step-6 magnitude of a row or a group: not there yet, a fault of one of its elements, or the magnitude. -/
inductive RowMax
  | wait
  | stop (s : State)
  | val (m : FV)

/-- The largest step-6 magnitude of elements k0 to k0 + m - 1, found ahead of their own turns, in which they are read and
counted. It waits for the whole run: a last PPU row shorter than PPU_ROW.LEN + 1 waits without end (log 120, DESIGN CHOICE). -/
def maxOver (s : State) (c e : Nat) (o : Op) (n i k0 m : Nat) : RowMax :=
  (List.range m).foldl (fun (acc : RowMax) j =>
    match acc with
    | .val mx =>
      let el := outEl s c e o n i (k0 + j)
      if el.skip then acc else
      match sixOf s c e o n el with
      | .val v _ _ _ => .val (magMax mx v)
      | .stop t => .stop t
      | .wait => .wait
    | _ => acc) (.val (.fin false ⟨0, 1⟩))

/-- What a PPU finds for the shift of an element: its row is not complete, a fault, or the shift or group exponent, whether
the element is the first of its row or group, and the state with the choice noted. -/
inductive ShiftIn
  | wait
  | stop (s : State)
  | shift (r : Int) (first : Bool) (s : State)

/-- A shift chosen from the largest magnitude of a row or group, noted under an id. -/
def pickShift (s : State) (c e id : Nat) (first : Bool) (m : RowMax) (f : FV → Int) : ShiftIn :=
  match m with
  | .wait => .wait
  | .stop t => .stop t
  | .val v => .shift (f v) first (s.setEng c e { s.eng c e with rsh := some (id, f v) })

/-- The element is the first of its PPU row that is not discarded before step 1. -/
def firstOfRow (s : State) (c e : Nat) (o : Op) (n i k : Nat) (el : OutEl) : Bool :=
  (List.range el.pos).all (fun j => (outEl s c e o n i (k - el.pos + j)).skip)

/-- The shift or the group exponent in force for an element, chosen at the first element of its row or group. POOL, RESIZE and
CROP have no G in their blocks: the whole PPU row is one group there (R141; log 121, DESIGN CHOICE). -/
def chooseShift (s : State) (c e : Nat) (o : Op) (n i k : Nat) (el : OutEl) (zp : Int) : ShiftIn :=
  let f := wFMTOUT o.word.toNat
  let x := s.eng c e
  let g := if isCellOp o.opc then hG o.blk else el.len
  if fmtGroup f then
    let id := el.row * 65536 + el.pos / g
    let fresh := pickShift s c e id true (maxOver s c e o n i k (min g (el.len - el.pos))) (fun m => (groupExp f m : Nat))
    match x.rsh with
    | some (j, r) => if j = id ∧ el.pos % g ≠ 0 then .shift r false s else fresh
    | none => fresh
  else
    let first := firstOfRow s c e o n i k el
    match ppuF s c e PPU_CTRL_RSMODE with
    | 1 =>
      let fresh := pickShift s c e el.row first (maxOver s c e o n i (k - el.pos) el.len) (fun m => rowShift f zp m 0)
      match x.rsh with
      | some (j, r) => if j = el.row ∧ !first then .shift r false s else fresh
      | none => fresh
    | 2 =>
      match (x.stat el.ch).hshift with
      | some r => .shift r first s
      | none =>
        match histShift s c e el.ch f zp o.pcAt with
        | (none, t) => .stop t
        | (some h, t) =>
          let y := t.eng c e
          .shift h.1 first
            (t.setEng c e { y with chst := y.chst.put el.ch { y.stat el.ch with hshift := some h.1, hist := h.2 } })
    | _ => .shift 0 first s

/-- The value handed to the conversion (R136): scaled by the row shift with the zero point, or by the group exponent. -/
def scaled (f : Nat) (v : FV) (r zp : Int) : FV :=
  match v with
  | .fin neg q =>
    if f = 0xF then .fin neg (q.shift (127 - r))
    else if fmtGroup f then FV.ofQ (q.shift (-(signed 8 (unsigned 8 r)))) false
    else if fmtFloat f then .fin neg (q.shift (-r))
    else FV.ofQ ((q.shift (-r)).add (Q.ofInt zp)) false
  | v => v

/-- The rounding mode of an element, with the draw it consumes (R101, R105). -/
def takeRnd (s : State) (c e : Nat) (rnd : Bool) : Rnd × State :=
  if rnd then
    let b := engBase c e
    let n := s.getF b ENG_DRAWS_COUNT
    (.sr (draw (s.getF b ENG_SEED_SEED) (frameFS s c) n), s.setF b ENG_DRAWS_COUNT (n + 1))
  else (.rna, s)

/-- The zero point of an element that is legal for its format (R136, R138, R139), or none. -/
def zpLegal (s : State) (c e f : Nat) (zp : Int) : Bool :=
  if fmtGroup f then zp = 0
  else if fmtFloat f then (zp = 0 || ppuF s c e PPU_CTRL_RSMODE = 0)
  else decide (intMin f ≤ zp) && decide (zp < intMax f) && (zp = 0 || ppuF s c e PPU_CTRL_RSMODE = 0)

/-- The entries of the accumulation buffer that an element frees. -/
def freeAcc (s : State) (c e : Nat) (o : Op) (n : Nat) (el : OutEl) (k : Nat) : State :=
  if o.opc = 0x02 then
    let b := o.blk
    let v := woVar b
    if el.pos + 1 = woM v * woM v then
      let es := wEngines o.word.toNat
      (List.range (woP v)).foldl (fun t p =>
        let row := woRow o n (el.key / 65536) (el.key % 65536) p
        let en := es.getD (woEngine v n p) 0
        t.setEng c en { t.eng c en with acc := SMap.erase (t.eng c en).acc (32 * row + k / (woM v * woM v) % 32) }) s
    else s
  else if isCellOp o.opc then
    let x := s.eng c e
    s.setEng c e { x with
      acc := SMap.erase x.acc el.key, rsum := if el.key % 32 = 31 then SMap.erase x.rsum (el.key / 32) else x.rsum }
  else s

/-- The rescale entry that gives an element its zero point: the steps of a cell operator have read it already. -/
def zpEntry (s : State) (c e : Nat) (o : Op) (ch : Nat) : Option Nat × State :=
  if isCellOp o.opc then (some (s.numAt (scratchWin c + (rtabBase s c e + 8 * (ch - ppuF s c e PPU_CH_CHBASE))) 8), s)
  else rescaleEntry s c e o ch

/-- PPU_ELEMENT for CONV, WINO, DWCONV, MATMUL, POOL, RESIZE and CROP: steps 1 to 8 of R110 for the next element. -/
def ppuPipeline (s : State) (c e : Nat) (o : Op) (n i : Nat) : State :=
  let w := o.word.toNat
  let f := wFMTOUT w
  let k := (s.eng c e).outk
  if outTotal s c o n i ≤ k then s else
  let el := outEl s c e o n i k
  let bump (t : State) : State := t.setEng c e { t.eng c e with outk := k + 1 }
  let ready := if o.opc = 0x02 then (woOutput s c o n el.key (k / (woM (woVar o.blk) * woM (woVar o.blk)) % 32) el.pos).isSome
    else if isCellOp o.opc then (finalAcc (s.eng c e) el.key).isSome else true
  if !ready then s
  else if el.skip then bump (freeAcc s c e o n el k)
  else
    match sixOf s c e o n el with
    | .wait => s
    | .stop t => t
    | .val v fl asat s =>
      match zpEntry s c e o el.ch with
      | (none, t) => t
      | (some re, s) =>
        let zp := signed 16 (bits re 30 16)
        if !zpLegal s c e f zp then opFault s c o else
        match chooseShift s c e o n i k el zp with
        | .wait => s
        | .stop t => t
        | .shift r first s1 =>
          let rn := takeRnd s1 c e (wRND w)
          let cv := convert f rn.1 (scaled f v r zp)
          let fl := fl.or cv.2
          let s2 := countFlags rn.2 c e fl asat
          let x := s2.eng c e
          let s3 := s2.setEng c e { x with chst := x.chst.put el.ch (statAdd (x.stat el.ch) v fl r) }
          let s4 := if first then sideByte s3 c e o (unsigned 8 r) else s3
          let s5 := bump (freeAcc s4 c e o n el k)
          match el.dst with
          | some d => storePlanar s5 c o d cv.1
          | none =>
            let y := s5.eng c e
            drainRows (s5.setEng c e { y with outq := y.outq ++ [cv.1] }) c o

/-! ### ELTWISE and REDUCE (R117 to R119) -/

/-- Group length of a group-format FMT_OUT, 1 otherwise: the elements one PPU handles together. -/
def unitOf (o : Op) : Nat := if fmtGroup (wFMTOUT o.word.toNat) then hG o.blk else 1

/-- The code of an element of operand A or B from its stream with its group exponent byte from SAG_AUX: those of A come
first, then those of B. -/
def operandCode (s : State) (c : Nat) (o : Op) (sag f j exBase : Nat) : Option (Nat × Nat) :=
  let w := fmtBits f
  let ex : Option Bytes :=
    if fmtGroup f then streamBytes s c (wSAGAUX o.word.toNat) (exBase + j / hG o.blk) 1 else some [0]
  match ex, streamBytes s c sag (j * w / 8) (max 1 (w / 8)) with
  | some xb, some b => some (if 8 ≤ w then bytesToNat b else bits (bytesToNat b) (j * w % 8) w, bytesToNat xb)
  | _, _ => none

/-- An element of operand A or B at its full value (R118). -/
def operand (s : State) (c : Nat) (o : Op) (sag f j exBase : Nat) : Option FV :=
  (operandCode s c o sag f j exBase).map (fun x => elemVal f x.1 x.2)

/-- deq of R118, with overflow and invalid flags; an integer difference of zero has no sign. -/
def deq (f : Nat) (x : FV) (z : Int) (sc : FV) : FV × CFlags :=
  let x := match x with
    | .fin _ q => if fmtFloat f then x else FV.ofQ (q.sub (Q.ofInt z)) false
    | v => v
  let p := x.mul sc
  let r := p.1.fp32
  (r.1, (CFlags.none.setV p.2).setS r.2)

/-- An ELTWISE operation with one rounding (Table 3.15). -/
def elOp (op : Nat) (a b : FV) : FV × CFlags :=
  let fin (p : FV × Bool) : FV × CFlags := let r := p.1.fp32; (r.1, (CFlags.none.setV p.2).setS r.2)
  match op with
  | 0 => fin (FV.sum [a, b])
  | 1 => fin (FV.sum [a, b.neg])
  | 2 => fin (a.mul b)
  | 3 => (a.max b, CFlags.none)
  | 4 => (a.min b, CFlags.none)
  | 5 => (a.abs, CFlags.none)
  | 6 => let d := FV.sum [a, b.neg]; if d.2 then (.nan, CFlags.none.setV true) else fin (d.1.mul d.1)
  | _ => (a, CFlags.none)

/-- Index of the B element of ELTWISE element i (R118). -/
def elB (b i : Nat) : Nat :=
  match elBCAST b with
  | 0 => i
  | 1 => 0
  | 2 => i / elROWLEN b
  | _ => i % elROWLEN b

/-- The value tv of ELTWISE element i (R118), or none while its operands have not arrived. -/
def elValue (s : State) (c : Nat) (o : Op) (i : Nat) : Option (FV × CFlags) :=
  let b := o.blk
  let w := o.word.toNat
  let fa := wFMTA w
  let unary := elOP b = 5 || elOP b = 7
  let exA := if fmtGroup fa then ceilDiv (elCOUNT b) (hG b) else 0
  match operand s c o (wSAGA w) fa i 0, (if unary then some FV.nan else operand s c o (wSAGB w) (wFMTB w) (elB b i) exA) with
  | some xa, some xb =>
    let a := deq fa xa (signed 16 (bits b 144 16)) (floatElem 0xB (bits b 192 32))
    let bb := if unary then (FV.nan, CFlags.none) else deq (wFMTB w) xb (signed 16 (bits b 160 16)) (floatElem 0xB (bits b 224 32))
    let r := elOp (elOP b) a.1 bb.1
    let p := r.1.mul (floatElem 0xB (bits b 256 32))
    let t := p.1.fp32
    some (t.1, (((a.2.or bb.2).or r.2).setV p.2).setS t.2)
  | _, _ => none

/-- tv + OZP, exact; OZP is ignored for a floating FMT_OUT (R118). -/
def withZp (f : Nat) (v : FV) (ozp : Int) : FV :=
  match v with
  | .fin neg q => if fmtFloat f then v else FV.ofQ (q.add (Q.ofInt ozp)) neg
  | v => v

/-- The converted output of ELTWISE or REDUCE, under the group exponent of a group format. Its PPU hands the sidecar one
byte for each output group, or zeros, one for each PPU row, as these operators take no row shift (R117, R147). -/
def finishPlain (s : State) (c e : Nat) (o : Op) (v : FV) (fl : CFlags) (ex : Int) (ch : Nat) (first : Bool) : Nat × State :=
  let w := o.word.toNat
  let f := wFMTOUT w
  let rn := takeRnd s c e (wRND w)
  let cv := convert f rn.1 (scaled f v (if fmtGroup f then ex else 0) 0)
  let fl := fl.or cv.2
  let s := countFlags rn.2 c e fl 0
  let x := s.eng c e
  let st := x.stat ch
  let rowFirst := x.outk % (ppuF s c e PPU_ROW_LEN + 1) = 0
  let s := s.setEng c e { x with outk := x.outk + 1, chst := x.chst.put ch { st with
    sat := satAdd 16 st.sat (if fl.s then 1 else 0), ufl := satAdd 16 st.ufl (if fl.u then 1 else 0) } }
  (cv.1, if fmtGroup f then (if first then sideByte s c e o (unsigned 8 ex) else s)
    else if rowFirst then sideByte s c e o 0 else s)

/-- The channel of element i of a stream-ordered operator (R133). -/
def streamChannel (s : State) (c e i : Nat) : Nat :=
  let len := ppuF s c e PPU_ROW_LEN + 1
  let base := ppuF s c e PPU_CH_CHBASE
  if ppuF s c e PPU_CTRL_CHMODE = 0 then base + i % len else base + i / len / (ppuF s c e PPU_CH_RPC + 1)

/-- The value of ELTWISE element i that is converted, tv + OZP. -/
def elOut (s : State) (c : Nat) (o : Op) (i : Nat) : Option (FV × CFlags) :=
  (elValue s c o i).map (fun p => (withZp (wFMTOUT o.word.toNat) p.1 (signed 16 (bits o.blk 176 16)), p.2))

/-- PPU_ELEMENT for ELTWISE: element number o.k, by the PPU whose turn it is. -/
def ppuEltwise (s : State) (c e : Nat) (o : Op) (n i : Nat) : State :=
  let b := o.blk
  let w := o.word.toNat
  let u := unitOf o
  let k := o.k
  if elCOUNT b ≤ k ∨ k / u % n ≠ i then s else
  match elOut s c o k with
  | none => s
  | some (v, fl) =>
    let g0 := k - k % u
    let m := (List.range (min u (elCOUNT b - g0))).foldl (fun (acc : Option FV) j =>
      match acc, elOut s c o (g0 + j) with
      | some mx, some p => some (magMax mx p.1)
      | _, _ => none) (some (.fin false ⟨0, 1⟩))
    match m with
    | none => s
    | some mx =>
      let r := finishPlain s c e o v fl (groupExp (wFMTOUT w) mx : Nat) (streamChannel s c e (s.eng c e).outk) (k % u = 0)
      let s := pushCode r.2 c (wSAGOUT w) (fmtBits (wFMTOUT w)) r.1
      let s := s.setOp c { o with k := k + 1 }
      if k + 1 = elCOUNT b ∧ (s.sag c (wSAGOUT w)).half.isSome then pushCode s c (wSAGOUT w) 4 0 else s

/-- The step of a REDUCE over one element (Table 3.17): the running accumulator; `idx` is the element's index in its
run. ARGMAX and ARGMIN order zeros as MAX and MIN do (log 122, DESIGN CHOICE). `vecs` of the operation holds the index of the best element for MAX, MIN, ARGMAX and ARGMIN. An integer input, a group
element at its full value among them, is summed exactly and clamped to 48 bits. -/
def reduceStep (op fa : Nat) (za : Int) (acc : Acc) (best idx : Nat) (x : FV) : Acc × Nat :=
  let first := decide (idx = 0)
  let better (old new : FV) : Bool :=
    if old.isNaN then false else if new.isNaN then true
    else if op = 2 ∨ op = 5 then old.lt new else new.lt old
  if op = 0 ∨ op = 1 ∨ op = 4 then
    if fmtFloat fa then
      let r : FV × Bool × Bool :=
        if op = 4 then poolAdd (if first then .fin false ⟨0, 1⟩ else acc.f) (x.mul x).1
        else if first then (x.fp32.1, false, x.fp32.2) else poolAdd acc.f x
      ({ acc with f := r.1, fl := (acc.fl.setV r.2.1).setS r.2.2 }, best)
    else
      let d := x.q.sub (Q.ofInt za)
      let n := (if first then ⟨0, 1⟩ else acc.f.q).add (if op = 4 then d.mul d else d)
      let z := clampQ n 0
      ({ acc with f := FV.ofQ z false, fl := acc.fl.setS (!z.eq n) }, best)
  else if first ∨ better acc.f x then ({ acc with f := x }, idx)
  else (acc, best)

/-- The value tv of a finished run (Table 3.17); an infinity times a zero scale raises V. -/
def reduceValue (op fa : Nat) (za : Int) (sa : FV) (len : Nat) (acc : Acc) : FV × CFlags :=
  let fin (p : FV × Bool) (v : Bool) : FV × CFlags :=
    let r := p.1.fp32
    (r.1, ((CFlags.none.setV (p.2 || v)).setS r.2).or acc.fl)
  let p := acc.f.mul sa
  match op with
  | 0 => fin p false
  | 1 => fin (p.1.mul (.fin false ⟨1, len⟩)) p.2
  | 4 => fin (p.1.mul sa) p.2
  | _ => let r := deq fa acc.f za sa; (r.1, r.2.or acc.fl)

/-- The results of an output group of REDUCE converted in order under one exponent (R141), or a single result. -/
def reduceOut (s : State) (c e : Nat) (o : Op) : State :=
  let w := o.word.toNat
  let f := wFMTOUT w
  let m := o.outs.foldl (fun m v => magMax m v.1) (.fin false ⟨0, 1⟩)
  let ex : Int := (groupExp f m : Nat)
  ((o.outs.zip (List.range o.outs.length)).foldl (fun t v =>
    let r := finishPlain t c e o v.1.1 v.1.2 ex (streamChannel t c e (t.eng c e).outk) (v.2 = 0)
    pushCode r.2 c (wSAGOUT w) (fmtBits f) r.1) s).setOp c { o with outs := [] }

/-- An index handed out by ARGMAX or ARGMIN: the sidecar's zero at the first of a PPU row (R147). -/
def finishIndex (s : State) (c e : Nat) (o : Op) : State :=
  let x := s.eng c e
  let t := s.setEng c e { x with outk := x.outk + 1 }
  if x.outk % (ppuF s c e PPU_ROW_LEN + 1) = 0 then sideByte t c e o 0 else t

/-- PPU_ELEMENT for REDUCE: one input element, by the PPU whose run it is. -/
def ppuReduce (s : State) (c e : Nat) (o : Op) (n i : Nat) : State :=
  let b := o.blk
  let w := o.word.toNat
  let fa := wFMTA w
  let len := reLEN b
  let op := elOP b
  let run := o.k / len
  let u := unitOf o
  if reNRUN b ≤ run ∨ run / u % n ≠ i then s else
  match operand s c o (wSAGA w) fa o.k 0 with
  | none => s
  | some x =>
    let za := signed 16 (bits b 144 16)
    let idx := o.k % len
    let st := reduceStep op fa za (if idx = 0 then Acc.zero else o.red) o.vecs idx x
    let o1 := { o with k := o.k + 1, red := st.1, vecs := st.2 }
    if idx + 1 < len then s.setOp c o1
    else
      let f := wFMTOUT w
      if op = 5 ∨ op = 6 then pushCode (finishIndex (s.setOp c o1) c e o) c (wSAGOUT w) (fmtBits f) st.2
      else
        let tv := reduceValue op fa za (floatElem 0xB (bits b 240 32)) len st.1
        let p := tv.1.mul (floatElem 0xB (bits b 272 32))
        let t := p.1.fp32
        let v := withZp f t.1 (signed 16 (bits b 160 16))
        let o2 := { o1 with outs := o.outs ++ [(v, (tv.2.setV p.2).setS t.2)] }
        let s := s.setOp c o2
        if (run + 1) % u ≠ 0 ∧ run + 1 ≠ reNRUN b then s
        else
          let s := reduceOut s c e o2
          if run + 1 = reNRUN b ∧ (s.sag c (wSAGOUT w)).half.isSome then pushCode s c (wSAGOUT w) 4 0 else s

/-! ### KILN (R156 to R161) -/

/-- The code lies at a bound of its format (R160): at the code to which a conversion saturates, which is an infinity where the
format has one (log 123, DESIGN CHOICE). -/
def atBound (f code : Nat) : Bool := code = satCode f true || code = satCode f false

/-- The quantised value Q of R160: (y − ZP) 2^e, ZP ignored for floats. -/
def kilnQ (fa code ex : Nat) (zp : Int) : FV :=
  if fmtFloat fa then elemVal fa code ex
  else FV.ofQ ((Q.ofInt (intElem fa code - zp)).shift (if fmtBint fa then signed 8 ex else 0)) false

/-- PPU_ELEMENT for KILN: the gradient term of one element (R160), in the lowest PPU of EMASK. -/
def ppuKiln (s : State) (c e : Nat) (o : Op) (i : Nat) : State :=
  let w := o.word.toNat
  let fa := wFMTA w
  let k := o.k
  if i ≠ 0 then s else
  match operandCode s c o (wSAGA w) fa k 0, operand s c o (wSAGB w) 0xA k 0 with
  | some y, some x =>
    let ch := streamChannel s c e k
    if fa = 0xC ∧ y.1 = 2 then coreFault s c 0x09 o.pcAt none else
    match rescaleEntry s c e o ch with
    | (none, t) => t
    | (some re, s) =>
      let g := SMap.get (FV.fin false ⟨0, 1⟩, 0) o.kiln ch
      let g' :=
        if atBound fa y.1 then g else
        let q := kilnQ fa y.1 y.2 (signed 16 (bits re 30 16))
        let d := (FV.sum [q, x.neg]).1.fp32.1
        let p := (d.mul q).1.fp32.1
        ((FV.sum [g.1, p]).1.fp32.1, g.2 + 1)
      s.setOp c { o with k := k + 1, kiln := o.kiln.put ch g' }
  | _, _ => s

/-- The new momentum and log-scale of a channel (R160). -/
def kilnUpdate (b : Nat) (g : FV) (nc : Nat) (m ls : Int) : Int × Int :=
  let gsh := signed 8 (bits b 160 8)
  let g8 := clampInt ((((g.q.mul ln2).divNat nc).shift (gsh + 1)).round .rna) (-127) 127
  let m' := clampInt (((⟨m * (bits b 144 8 : Nat), 256⟩ : Q).round .rna) + g8) (-128) 127
  (m', clampInt (ls - ((⟨m' * (bits b 152 8 : Nat), 256⟩ : Q).round .rna)) (-128) 127)

/-- MULT halved until it is below 2^24 (R161). -/
def kilnDown : Nat → Int → Int → Int × Int
  | 0, m, sh => (m, sh)
  | k + 1, m, sh => if 2 ^ 24 ≤ m then kilnDown k ((⟨m, 2⟩ : Q).round .rna) (sh - 1) else (m, sh)

/-- MULT doubled until it reaches 2^23 (R161). -/
def kilnUp : Nat → Int → Int → Int × Int
  | 0, m, sh => (m, sh)
  | k + 1, m, sh => if m < 2 ^ 23 ∧ sh < 63 then kilnUp k (2 * m) (sh + 1) else (m, sh)

/-- The rescale entry of the standby pair (R161). -/
def kilnEntry (re : Nat) (fold : Bool) (ls : Int) : Nat :=
  let mult : Int := bits re 0 24
  let sh : Int := bits re 24 6
  if fold then
    let m0 := ((Q.ofInt mult).mulRoot16 ls).round .rna
    let d := kilnDown 64 m0 sh
    let u := kilnUp 64 d.1 d.2
    let r := if u.2 < 0 then ((2 ^ 24 - 1 : Int), (0 : Int)) else u
    setBits (setBits re 0 24 r.1.toNat) 24 6 r.2.toNat
  else setBits re 24 6 (clampInt (sh - ((⟨ls, 16⟩ : Q).round .rna)) 0 63).toNat

/-- The core has made the last step of the kiln pass in force. -/
def kilnDone (s : State) (c : Nat) : State :=
  match holderOf s c with
  | none => s
  | some p =>
    match (s.plan p).kiln with
    | none => s
    | some k => if k.fin.contains c then s else s.setPlan p { s.plan p with kiln := some { k with fin := c :: k.fin } }

/-- Momentum and log-scale of one channel after a KILN step (R160): bytes 1 and 0 of its four bytes of state. -/
def kilnChannel (b : Nat) (g : FV × Nat) (v : Nat) : Nat :=
  let u := kilnUpdate b g.1 g.2 (signed 8 (bits v 8 8)) (signed 8 (bits v 0 8))
  setBits (setBits v 0 8 (unsigned 8 u.2)) 8 8 (unsigned 8 u.1)

/-- The standby entries of channel j (R161): the rescale entry built, the correction-and-bias entry copied. -/
def kilnStandby (s : State) (c info b st rOld bOld rNew bNew j : Nat) : State :=
  match areaRead s c (st + 64 + 4 * j) 1 info with
  | (none, t) => t
  | (some ls, t) =>
    match areaRead t c (rOld + 8 * j) 8 info with
    | (none, u) => u
    | (some re, u) =>
      match areaRead u c (bOld + 16 * j) 16 info with
      | (none, v) => v
      | (some ce, v) =>
        let v := areaWrite v c (rNew + 8 * j) (natToBytes 8 (kilnEntry (bytesToNat re) (bit b 174) (signed 8 (bytesToNat ls)))) info
        if halted v c then v else areaWrite v c (bNew + 16 * j) ce info

/-- The end of a KILN step (R160, R161): every channel's momentum and log-scale, the step count, and after the last step
the standby tables. A place that lies beyond the scratch or cannot be read faults and ends the step (R56, R86). -/
def kilnFinish (s : State) (c e : Nat) (o : Op) : State :=
  let b := o.blk
  let info := o.pcAt
  let st := 64 * ppuF s c e PPU_KSTATE_BASE
  match areaRead s c st 1 info with
  | (none, t) => t
  | (some nb, s) =>
    let n := bytesToNat nb
    let nstep := bits b 168 6 + 1
    if nstep ≤ n then s else
    let base := ppuF s c e PPU_CH_CHBASE
    let s := whileRunning c (fun t j =>
      let g := SMap.get (FV.fin false ⟨0, 1⟩, 0) o.kiln (base + j)
      if g.2 = 0 then t
      else if !g.1.isFin then t.addF (engBase c e) ENG_INVALID_CNT_COUNT 1
      else areaEdit t c (st + 64 + 4 * j) 2 info (kilnChannel b g)) s (List.range (kiNCH b))
    if halted s c then s else
    let s := areaWrite s c st [BitVec.ofNat 8 (n + 1)] info
    if halted s c || decide (n + 1 < nstep) then s else
    let sel := ppuF s c e PPU_CTRL_TSEL
    let rNew := 64 * (if sel = 0 then ppuF s c e PPU_RTAB_B_BASE else ppuF s c e PPU_RTAB_A_BASE)
    let bNew := 64 * (if sel = 0 then ppuF s c e PPU_BTAB_B_BASE else ppuF s c e PPU_BTAB_A_BASE)
    let s := whileRunning c (fun t j => kilnStandby t c info b st (rtabBase t c e) (btabBase t c e) rNew bNew j) s
      (List.range (kiNCH b))
    if halted s c then s else kilnDone s c

/-! ### PPU_ELEMENT -/

/-- PPU_ELEMENT: the next element of the PPU of engine e (R54, R110). -/
def ppuElement (s : State) (c e : Nat) : State :=
  if halted s c || (s.core c).locked then s
  else
  match engOp s c e with
  | none => s
  | some o =>
    let es := wEngines o.word.toNat
    let n := es.length
    let i := indexIn es e
    match o.opc with
    | 0x07 => ppuEltwise s c e o n i
    | 0x08 => ppuReduce s c e o n i
    | 0x17 => ppuKiln s c e o i
    | 0x16 => s
    | _ => ppuPipeline s c e o n i

def execPpuElement (c : Fin 128) (e : Fin 8) (s : State) : Host.Outcome State Fault Refusal := live s (awaited s (ppuElement s c e))

end Sys2Proof.Machine
end

