-- ==== Sys2Proof/Machine/Sequencer.lean ====
section
/-! DEFINITION. The stage sequencer (R68 to R74): issue of macro-operations with their checks, their completion, the queue
operations, loops, frames, the stage watchdog; and the operators that move element codes only (S2D, D2S). -/

namespace Sys2Proof.Machine
open Sys2Proof
open Sys2Proof.Machine.Reg

/-- The stage-program word at the program counter (R68). -/
def fetchWord (s : State) (c : Nat) : Nat :=
  let a := coreWin c + 0x10000 + 16 * pcOf s c
  s.reg a + s.reg (a + 4) * 2 ^ 32 + s.reg (a + 8) * 2 ^ 64 + s.reg (a + 12) * 2 ^ 96

/-- The core may issue the word at its program counter, which has this code. -/
def atOp (s : State) (c opc : Nat) : Bool :=
  !halted s c && !(s.core c).locked && !(s.core c).flush && wOPC (fetchWord s c) = opc

/-- An OPCODE fault of the word at the program counter. -/
def seqFault (s : State) (c code : Nat) : State := coreFault s c code (pcOf s c) none

/-- The sequencer moves on to a program index and runs: the macro-operation it stood at has completed, so the stage watchdog
starts again (R74). -/
def goTo (s : State) (c pc : Nat) : State :=
  let w := coreWin c
  let s := progress ((s.setF w SEQ_STATUS_PC pc).setF w SEQ_STATUS_STATE 1) c
  s.setCore c { s.core c with wdog := 0 }

/-! ### The checks of each macro-operation at issue -/

/-- RSMODE and PER_TOKEN of a PPU are legal (R131). -/
def ppuFields (s : State) (c e : Nat) : Bool :=
  decide (ppuF s c e PPU_CTRL_RSMODE < 3) &&
    (s.getF (ppuBase c e) PPU_SIDE_EN = 0 || decide (s.getF (ppuBase c e) PPU_SIDE_PER_TOKEN < 56))

/-- RSMODE and the sidecar of a PPU that an operator uses (R131, R138), for rows of `len` elements. -/
def ppuOk (s : State) (c e w g len : Nat) (group : Bool) : Bool :=
  let rs := ppuF s c e PPU_CTRL_RSMODE
  let f := wFMTOUT w
  ppuFields s c e && (rs = 0 || !fmtGroup f) && (rs != 1 || decide (len ≤ 4096)) && (!group || !fmtGroup f || len % g = 0)

/-- Every PPU of the mask passes `ppuOk`. -/
def ppusOk (s : State) (c w g : Nat) (len : Nat → Nat) (group : Bool) : Bool :=
  (wEngines w).all (fun e => ppuOk s c e w g (len e) group)

/-- The PPUs of ELTWISE and REDUCE, which take no row shift: legal fields, and a row that holds whole output groups (R131,
R141). -/
def plainOk (s : State) (c w g : Nat) : Bool :=
  (wEngines w).all (fun e => ppuFields s c e && (!fmtGroup (wFMTOUT w) || (ppuF s c e PPU_ROW_LEN + 1) % g = 0))

/-- FMT_A a group format with padding mode 1 (R173). -/
def groupPad (w : Nat) (r : WinRec) : Bool := fmtGroup (wFMTA w) && r.pmode = 1

/-- Checks shared by the cell operators: header, operand pair, formats (R55, R89). -/
def cellOk (w b : Nat) : Bool := hOk b && pairOk (wFMTA w) (wFMTB w) && wFMTOUT w != 0xC

/-- CONV (R167, R173, R176). -/
def convOk (s : State) (c w b : Nat) : Bool :=
  let r := winRec b 128
  let nb := hVpt b
  let t := r.kh * r.kw * chunks r (wFMTB w)
  cellOk w b && r.ok r.oh && !groupPad w r && decide (nb ≤ 128) &&
    (r.oh = 0 || r.ow = 0 || hTiles b = t * r.onr * ceilDiv r.ow nb) &&
    decide (ceilDiv r.cout 32 ≤ (wEngines w).length) && ppusOk s c w (hG b) (fun _ => nb) true

/-- DWCONV (R185, R186). -/
def dwconvOk (s : State) (c w b : Nat) : Bool :=
  let r := winRec b 128
  let nb := hVpt b
  let t := dwBands r b * dwTiles r b
  cellOk w b && r.ok r.oh && !groupPad w r && decide (nb ≤ 128) && r.cin % dwGin b = 0 &&
    r.cout = dwGroups r b * dwGout b && bits b 394 118 = 0 &&
    (r.oh = 0 || r.ow = 0 || hTiles b = t * r.onr * ceilDiv r.ow nb) && ppusOk s c w (hG b) (fun _ => nb) true

/-- WINO (R174, R182). More than 4,096 entries per engine before its last tile is not legal (R53), and no fault is named: the
model runs such an operation with the entries it needs (log 87, DESIGN CHOICE). -/
def winoOk (s : State) (c w b : Nat) : Bool :=
  let r := winRec b 128
  let a := wFMTA w
  let f := wFMTB w
  let v := woVar b
  let pair := if v = 0 then (isI8 a && f = 0xE) || (isF8 a && isF8 f) else isF16 a && isF16 f
  cellOk w b && r.ok r.oh && !groupPad w r && r.kh = 3 && r.kw = 3 && r.sh = 1 && r.sw = 1 && r.dh = 1 && r.dw = 1 &&
    decide (v < 2) && pair && bits b 386 126 = 0 && ppusOk s c w (hG b) (fun _ => woM v * woM v) true &&
    (wEngines w).all (fun e => ppuF s c e PPU_CTRL_RSMODE != 1)

/-- MATMUL (R114, R115). -/
def matmulOk (s : State) (c w b : Nat) : Bool :=
  cellOk w b && bits b 144 368 = 0 && hTiles b % (bits b 128 16 + 1) = 0 && decide (hVpt b * 32 ≤ 4096) &&
    ppusOk s c w (hG b) (fun e => ppuF s c e PPU_ROW_LEN + 1) true

/-- The formats and zero point that POOL, RESIZE and CROP share (R173). -/
def samplerOk (w b : Nat) (r : WinRec) : Bool :=
  r.resClear && wFMTA w != 0xC && wFMTOUT w != 0xC && !groupPad w r && (!fmtGroup (wFMTA w) || poZA b = 0) &&
    bits b 260 4 = 0

/-- POOL (R188 to R190). R167 excepts no operator: its output rows are held to the OH of R168, and in global pooling to
the one row it produces (log 88, DEDUCED). -/
def poolOk (s : State) (c w b : Nat) : Bool :=
  let r := winRec b 0
  let global := decide (2 ≤ poOP b)
  samplerOk w b r && decide (poOP b < 5) && bits b 280 232 = 0 && decide (r.pmode < 5) && r.ok (if global then 1 else r.oh) &&
    ppusOk s c w 32 (fun _ => if global then 1 else r.ow) false

/-- RESIZE (R191). -/
def resizeOk (s : State) (c w b : Nat) : Bool :=
  let r := winRec b 0
  samplerOk w b r && decide (rzMODE b < 2) && decide (rzCOORD b < 3) && bits b 312 200 = 0 && bits b 32 16 = 0 &&
    bits b 56 32 = 0 && r.ok (rzOH b) && ppusOk s c w 32 (fun _ => rzOW b) false

/-- CROP (R194), its output rows held to R167 like those of POOL (log 88). -/
def cropOk (s : State) (c w b : Nat) : Bool :=
  let r := winRec b 0
  samplerOk w b r && decide (bits b 256 2 < 2) && bits b 258 6 = 0 && bits b 328 184 = 0 && decide (r.pmode < 5) && r.ok r.oh &&
    ppusOk s c w 32 (fun _ => crCW b) false

/-- The factor f of S2D and D2S (R187). -/
def sdF (b : Nat) : Nat := 2 ^ (bits b 256 2 + 1)

/-- Output channels, rows and columns of S2D and D2S. -/
def sdOut (opc b : Nat) : Nat × Nat × Nat :=
  let r := winRec b 0
  let f := sdF b
  if opc = 0x14 then (r.cin * f * f, ceilDiv r.h f, ceilDiv r.w f) else (r.cin / (f * f), r.h * f, r.w * f)

/-- S2D and D2S (R187). -/
def regroupOk (opc w b : Nat) : Bool :=
  let r := winRec b 0
  decide (bits b 256 2 < 3) && bits b 258 254 = 0 && r.ok (sdOut opc b).2.1 && wFMTOUT w = wFMTA w &&
    !fmtGroup (wFMTA w) && (opc = 0x14 || r.cin % (sdF b * sdF b) = 0)

/-- ELTWISE (R117, R118). -/
def eltwiseOk (s : State) (c w b : Nat) : Bool :=
  plainOk s c w (hG b) && hOk b && hPpuOnly b && decide (elOP b < 8) && bits b 134 10 = 0 && bits b 352 160 = 0 && wFMTA w != 0xC &&
    wFMTB w != 0xC && wFMTOUT w != 0xC && (elBCAST b != 2 || elCOUNT b % elROWLEN b = 0)

/-- REDUCE (R119). -/
def reduceOk (s : State) (c w b : Nat) : Bool :=
  let op := elOP b
  plainOk s c w (hG b) && hOk b && hPpuOnly b && decide (op < 7) && bits b 132 12 = 0 && bits b 304 208 = 0 && wFMTA w != 0xC && wFMTOUT w != 0xC &&
    (!(op = 5 || op = 6) || wFMTOUT w = 5 || (wFMTOUT w = 4 && decide (reLEN b ≤ 32768)))

/-- KILN (R157). -/
def kilnOk (s : State) (c w b : Nat) : Bool :=
  let g := signed 8 (bits b 160 8)
  (wEngines w).all (ppuFields s c) && hOk b && hPpuOnly b && decide (-64 ≤ g) && decide (g ≤ 63) && bits b 175 337 = 0

/-- COPY (R255). -/
def copyOk (s : State) (c w b : Nat) : Bool :=
  decide (cpMODE b < 3) && bits b 13 3 = 0 && bits b 33 31 = 0 && bits b 96 416 = 0 && cpBYTES b != 0 &&
    cpBYTES b % 64 = 0 && (cpMODE b != 1 || (s.hq c (cpCQ b)).held.isSome) &&
    (cpMODE b = 0 || sagVlen s c (wSAGA w) = 64)

/-- HALO (R179). -/
def haloOk (b : Nat) : Bool :=
  bits b 18 14 = 0 && bits b 160 352 = 0 && haEXPU b % 64 = 0 && haEXPD b % 64 = 0 && haSNDU b % 64 = 0 && haSNDD b % 64 = 0

/-- The field checks of a macro-operation. -/
def fieldsOk (s : State) (c w b : Nat) : Bool :=
  match wOPC w with
  | 0x01 => convOk s c w b
  | 0x02 => winoOk s c w b
  | 0x03 => dwconvOk s c w b
  | 0x04 => matmulOk s c w b
  | 0x05 => poolOk s c w b
  | 0x06 => resizeOk s c w b
  | 0x07 => eltwiseOk s c w b
  | 0x08 => reduceOk s c w b
  | 0x11 => copyOk s c w b
  | 0x12 => haloOk b
  | 0x13 => cropOk s c w b
  | 0x14 => regroupOk 0x14 w b
  | 0x15 => regroupOk 0x15 w b
  | 0x17 => kilnOk s c w b
  | _ => true

/-! ### The resources of a macro-operation -/

/-- The sidecar SAGs of the PPUs of a mask (R132). -/
def sideSags (s : State) (c w : Nat) : List Nat :=
  (wEngines w).filterMap (fun e =>
    if s.getF (ppuBase c e) PPU_SIDE_EN = 1 then some (s.getF (ppuBase c e) PPU_SIDE_SAG) else none)

/-- SAG_AUX where an operand is a group format. -/
def auxIf (w : Nat) (g : Bool) : List Nat := if g then [wSAGAUX w] else []

/-- The SAGs a macro-operation names (Table 2.7, R132, R179, R200). KILN takes no sidecar SAG, as it produces no output (R156;
log 125, DESIGN CHOICE). -/
def sagsNamed (s : State) (c w b : Nat) : List Nat :=
  let ga := fmtGroup (wFMTA w)
  let wsrc := if hWSRC b then [] else [wSAGB w]
  let l := match wOPC w with
    | 0x01 => [wSAGA w, wSAGOUT w] ++ wsrc ++ auxIf w ga ++ sideSags s c w
    | 0x02 => [wSAGA w, wSAGOUT w] ++ wsrc ++ auxIf w ga ++ sideSags s c w
    | 0x03 => [wSAGA w, wSAGOUT w] ++ wsrc ++ auxIf w ga ++ sideSags s c w
    | 0x04 => [wSAGA w, wSAGOUT w] ++ wsrc ++ auxIf w ga ++ sideSags s c w
    | 0x05 => [wSAGA w, wSAGOUT w] ++ auxIf w ga ++ sideSags s c w
    | 0x06 => [wSAGA w, wSAGOUT w] ++ auxIf w ga ++ sideSags s c w
    | 0x07 => [wSAGA w, wSAGOUT w] ++ (if elOP b = 5 ∨ elOP b = 7 then [] else [wSAGB w]) ++
        auxIf w (ga || fmtGroup (wFMTB w)) ++ sideSags s c w
    | 0x08 => [wSAGA w, wSAGOUT w] ++ auxIf w ga ++ sideSags s c w
    | 0x11 => if cpMODE b = 0 then [wSAGA w, wSAGOUT w] else [wSAGA w]
    | 0x12 => (if haSNDU b = 0 then [] else [wSAGA w]) ++ (if haSNDD b = 0 then [] else [wSAGB w]) ++
        (if haEXPU b = 0 then [] else [haRXU b]) ++ (if haEXPD b = 0 then [] else [haRXD b])
    | 0x13 => [wSAGA w, wSAGOUT w, wSAGAUX w] ++ sideSags s c w
    | 0x14 => [wSAGA w, wSAGOUT w]
    | 0x15 => [wSAGA w, wSAGOUT w]
    | 0x16 => if bit (wIMM w) 0 then [] else [wSAGB w]
    | 0x17 => [wSAGA w, wSAGB w] ++ auxIf w ga
    | 0x09 => [wSAGOUT w, wSAGAUX w]
    | 0x0A => [wSAGA w, wSAGAUX w]
    | 0x0B => [wSAGA w, wSAGOUT w, wSAGAUX w]
    | 0x0F => [wSAGOUT w]
    | 0x0C => [wSAGA w, wSAGOUT w]
    | 0x0D => [wSAGA w, wSAGOUT w]
    | 0x0E => [wSAGA w, wSAGOUT w]
    | 0x10 => [wSAGA w, wSAGOUT w]
    | _ => []
  l.eraseDups

/-- The operation takes engines: compute operators and LOADW. -/
def usesEngines (opc : Nat) : Bool := decide (1 ≤ opc) && decide (opc ≤ 8) || opc = 0x13 || opc = 0x16 || opc = 0x17

/-- Every engine and SAG of the macro-operation is free and SYNC is met (R70). EMASK counts for the operations that use
engines only (R68). -/
def resourcesFree (s : State) (c w b : Nat) : Bool :=
  let x := s.core c
  (!usesEngines (wOPC w) || x.ops.all (fun o => !usesEngines o.opc || wEMASK o.word.toNat &&& wEMASK w = 0)) && (sagsNamed s c w b).all (fun n => (s.sag c n).owner.isNone) &&
    (!(wSYNC w || wOPC w = 0x12) || x.ops.isEmpty)

/-- Engines and SAGs taken, the operation in flight, the program counter moved on (R63, R70). -/
def claim (s : State) (c w : Nat) (block : Bytes) : State :=
  let b := bytesToNat block
  let x := s.core c
  let num := x.nextOp
  let o : Op :=
    { num := num, pcAt := pcOf s c, word := BitVec.ofNat 128 w, block := block, k := 0, vecs := 0, turn := 0, red := Acc.zero, outs := []
      kiln := [], rxu := 0, rxd := 0, sent := 0, sent2 := 0, ctl := false, done := false }
  let s := s.setCore c { x with ops := x.ops ++ [o], nextOp := num + 1 }
  let s := (sagsNamed s c w b).foldl (fun t n => sagStart t num c n) s
  let s := if usesEngines (wOPC w) then
      (wEngines w).foldl (fun t e =>
        let y := t.eng c e
        let t := t.setEng c e { y with streamed := 0, tile := 0, vec := 0, apos := 0, xpos := 0, acc := [], rsum := []
                                       outk := 0, outq := [], rsh := none, side := [] }
        let g := engBase c e
        let t := (t.setF g ENG_STATUS_BUSY 1).setF g ENG_FMT_FMT_A (wFMTA w)
        let t := ((t.setF g ENG_FMT_FMT_B (wFMTB w)).setF g ENG_FMT_FMT_OUT (wFMTOUT w)).setF g ENG_FMT_RND (bits w 28 1)
        t.setF g ENG_FMT_ACCF (if accF (wFMTA w) (wFMTB w) = 16 then 1 else 0)) s
    else s
  (s.setF (coreWin c) SEQ_STATUS_PC (pcOf s c + 1)).setF (coreWin c) SEQ_STATUS_STATE 1

/-- The parameter block, read under R58; none with the fault raised. -/
def readBlock (s : State) (c w : Nat) : Option Bytes × State :=
  scratchRead s c (64 * wPARAM w : Nat) (64 * (wPLEN w + 1)) (pcOf s c)

/-- The parameter block as it stands, for the resources it names. -/
def peekBlock (s : State) (c w : Nat) : Nat :=
  s.numAt (scratchWin c + 64 * wPARAM w) (64 * (wPLEN w + 1))

/-- The faults of a macro-operation at its issue, in ascending order of code (R87): a field or reserved bit (R68), and every
SAG it names that R64 refuses. -/
def issueFaults (s : State) (c w b : Nat) : List (Nat × Nat) :=
  (if fieldsOk s c w b then [] else [(0x05, pcOf s c)]) ++
    ((sagsNamed s c w b).filter (fun n => !sagOk s c n)).map (fun n => (0x06, n))

/-- Issue of a macro-operation: it waits while a resource is taken; a bad word, block, field or SAG faults (R64, R68). -/
def issue (s : State) (c opc : Nat) (hasBlock : Bool) : State :=
  let w := fetchWord s c
  if !atOp s c opc then s
  else if !wReservedClear w then seqFault s c 0x05
  else
    let b0 := if hasBlock then peekBlock s c w else 0
    if !resourcesFree s c w b0 then s else
    match (if hasBlock then readBlock s c w else (some [], s)) with
    | (none, t) => t
    | (some blk, t) =>
      let l := issueFaults t c w (bytesToNat blk)
      if l.isEmpty then claim t c w blk else coreFaults t c l

/-- The newest macro-operation in flight. -/
def lastOp (s : State) (c : Nat) : Option Op := (s.core c).ops.getLast?

/-- The CONTROL token of a COPY in mode 1, sent once it has issued (R254). -/
def copyControl (s : State) (c : Nat) : State :=
  match lastOp s c with
  | none => s
  | some o =>
    let b := o.blk
    if o.opc ≠ 0x11 ∨ cpMODE b ≠ 1 ∨ o.ctl then s else
    match (s.hq c (cpCQ b)).held with
    | none => s
    | some e =>
      let w := coreWin c
      let en := setBits (setBits (setBits e.toNat 16 7 (s.getF w SEQ_FRAME_SLOT)) 23 1 (s.getF w SEQ_FRAME_VALID)) 32 32
        (s.getF w SEQ_FRAME_SEQ_SEQ)
      let s := originate s c 2 (cpRT b) (en + cpOFFSET b * 2 ^ 64 + cpPUSH b * 2 ^ 81)
      let s := s.setOp c { o with ctl := true }
      if cpKEEP b then s else s.setHq c (cpCQ b) { s.hq c (cpCQ b) with held := none }

/-- COPY (R253 to R256). -/
def issueCopy (s : State) (c : Nat) : State :=
  let t := issue s c 0x11 true
  if atOp s c 0x11 && wReservedClear (fetchWord s c) then copyControl t c else t

/-! ### Frames (R72, R131, R145) -/

/-- A stream's history forgotten by the PPUs that keep one: every pair of its block invalid, its map byte 0xFF (R145). A
place that cannot be reached or read ends it (R56, R86, R289). -/
def releaseStream (s : State) (c slot : Nat) : State :=
  whileRunning c (fun t e =>
    if ppuF t c e PPU_CTRL_RSMODE ≠ 2 then t else
    let m := 64 * ppuF t c e PPU_HMAP_BASE + slot
    match areaRead t c m 1 (pcOf t c) with
    | (none, u) => u
    | (some v, u) =>
      let b := bytesToNat v
      if b = 255 then u else
      let base := ppuF u c e PPU_CH_CHBASE
      let u := whileRunning c (fun z j => areaEdit z c (histOff z c e b (base + j)) 64 (pcOf z c) histInvalid) u
        (List.range (ppuF u c e PPU_NCH_COUNT + 1))
      if halted u c then u else areaWrite u c m [255] (pcOf u c)) s (List.range 8)

/-- The EOF handling of R72 and R266: the stream's state released, the token forwarded on every tag of STU_EOFMASK in
ascending order. -/
def eofHandle (s : State) (c slot seq : Nat) : State :=
  let s := releaseStream s c slot
  if halted s c then s else
  let m := s.getF (coreWin c) STU_EOFMASK_MASK
  (List.range 32).foldl (fun t r => if bit m r then originate t c 5 r (slot + seq * 2 ^ 32) else t) s

/-- The frame context loaded from a popped entry (R72, R105, R131). What the relation operations counted in the frame before is
gone (R143, R150, R224). -/
def loadFrame (s : State) (c : Nat) (e : Nat) : State :=
  let w := coreWin c
  let s := (s.setF w SEQ_FRAME_SLOT (eSLOT e)).setF w SEQ_FRAME_VALID (if eFRAME e then 1 else 0)
  let s := s.setF w SEQ_FRAME_SEQ_SEQ (eSEQ e)
  let s := (List.range 8).foldl (fun t k =>
    let t := t.setEng c k { t.eng c k with samp := ppuSample t c k, chst := [], sideFirst := 0 }
    t.setF (engBase c k) ENG_DRAWS_COUNT 0) s
  let x := s.core c
  let dark := x.notices.contains (eSLOT e, eSEQ e)
  s.setCore c { x with fsat := false, fufl := false, ftrunc := false, dark := dark, relFr := [] }

/-- WAIT (R252): the head entry popped into the held register, or the sequencer waits. A fault of the release of a stream's
state halts the core (R86). -/
def seqWait (s : State) (c : Nat) : State :=
  let w := fetchWord s c
  if !atOp s c 0x18 then s
  else if !wReservedClear w then seqFault s c 0x05
  else if !(s.core c).ops.isEmpty then s
  else
    let q := wIMM w % 16
    let h := s.hq c q
    let frameQ := s.getF (coreWin c) SEQ_CTRL_FRAME_Q
    if h.held.isSome then seqFault s c 0x05 else
    match h.entries with
    | [] => s.setF (coreWin c) SEQ_STATUS_STATE 2
    | e :: rest =>
      let s := (s.setHq c q { h with entries := rest }).addF (hqBase c q) STU_HQ_POPS_COUNT 1
      if eEOF e.toNat then
        let s := if q = frameQ then eofHandle s c (eSLOT e.toNat) (eSEQ e.toNat) else s
        if halted s c then s else progress (s.setF (coreWin c) SEQ_STATUS_STATE 2) c
      else
        let s := s.setHq c q { s.hq c q with held := some e }
        goTo (if q = frameQ then loadFrame s c e.toNat else s) c (pcOf s c + 1)

/-- SIGNAL (R252): the held entry sent unchanged as a HANDLE token. -/
def seqSignal (s : State) (c : Nat) : State :=
  let w := fetchWord s c
  if !atOp s c 0x19 then s
  else if !wReservedClear w then seqFault s c 0x05
  else if !(s.core c).ops.isEmpty then s
  else
    let q := wIMM w % 16
    match (s.hq c q).held with
    | none => seqFault s c 0x05
    | some e =>
      let s := originate s c 1 (bits (wIMM w) 4 5) e.toNat
      goTo (s.setHq c q { s.hq c q with held := none }) c (pcOf s c + 1)

/-- RELEASE (R252, R274): the held handle returned as a credit, or captured by a queue in spill mode. -/
def seqRelease (s : State) (c : Nat) : State :=
  let w := fetchWord s c
  if !atOp s c 0x1A then s
  else if !wReservedClear w then seqFault s c 0x05
  else if !(s.core c).ops.isEmpty then s
  else
    let q := wIMM w % 16
    match (s.hq c q).held with
    | none => seqFault s c 0x05
    | some e =>
      let hd := eHANDLE e.toNat
      let clear (t : State) : State := t.setHq c q { t.hq c q with held := none }
      if (s.hq c q).spilling then
        if !handleInRange s c q hd then seqFault s c 0x07
        else
          let k := s.cluster (c / 8)
          let s := s.setCluster (c / 8) { k with lull := k.lull ++ [(c, q, some (BitVec.ofNat 64 hd), 1)] }
          goTo (clear s) c (pcOf s c + 1)
      else goTo (clear (originate s c 1 (bits (wIMM w) 4 5) hd)) c (pcOf s c + 1)

/-- LOOP (R71). -/
def seqLoop (s : State) (c : Nat) : State :=
  let w := fetchWord s c
  if !atOp s c 0x1B then s
  else if !wReservedClear w then seqFault s c 0x05
  else if wSYNC w && !(s.core c).ops.isEmpty then s
  else
    let k := bits (wIMM w) 14 2
    let left := (match (s.core c).loops.getD k none with
      | some r => r
      | none => bits (wIMM w) 0 14 + 1) - 1
    if 0 < left then
      goTo (s.setCore c { s.core c with loops := (s.core c).loops.set k (some left) }) c (wTARGET w)
    else
      goTo (s.setCore c { s.core c with loops := (s.core c).loops.set k none }) c (pcOf s c + 1)

/-- A macro-operation that only moves the program counter, once SYNC is met. -/
def seqGo (s : State) (c opc target : Nat) : State :=
  let w := fetchWord s c
  if !atOp s c opc then s
  else if !wReservedClear w then seqFault s c 0x05
  else if wSYNC w && !(s.core c).ops.isEmpty then s
  else goTo s c target

/-- BARRIER (R69). -/
def seqBarrier (s : State) (c : Nat) : State :=
  let w := fetchWord s c
  if !atOp s c 0x1D then s
  else if !wReservedClear w then seqFault s c 0x05
  else if !(s.core c).ops.isEmpty || outstanding s c then s
  else goTo s c (pcOf s c + 1)

/-! ### The end of a frame (R72, R144, R152 to R154) -/

/-- A channel flagged in a frame (R153). -/
def satFlag (s : State) (c e : Nat) (st : ChStat) : Bool := decide (s.getF (ppuBase c e) PPU_THR_SAT < st.sat)
def uflFlag (s : State) (c e : Nat) (st : ChStat) : Bool := decide (s.getF (ppuBase c e) PPU_THR_UFL < st.ufl)

/-- A channel is CONST (R151): its smallest and largest values are equal, zeros of either sign among them (Table 4.8). -/
def isConst (st : ChStat) : Bool := st.seen && st.mn.isFin && st.mx.isFin && st.mn.q.eq st.mx.q

/-- The statistics record of a channel (Table 4.7). -/
def statRecord (s : State) (c e : Nat) (st : ChStat) : Nat :=
  let w := coreWin c
  st.maxAbs.code32Up + st.sat * 2 ^ 32 + st.ufl * 2 ^ 48 + frameFS s c * 2 ^ 64 + s.getF w SEQ_FRAME_SLOT * 2 ^ 96 +
    (if isConst st then 2 ^ 103 else 0) + (if satFlag s c e st then 2 ^ 104 else 0) +
    (if uflFlag s c e st then 2 ^ 105 else 0) + (if st.hist then 2 ^ 106 else 0) + unsigned 8 st.last * 2 ^ 112

/-- The records of one channel written at the end of the frame: statistics, and history in RSMODE 2 (R144, R145). -/
def channelRecords (s : State) (c e ch : Nat) (st : ChStat) : State :=
  let base := ppuF s c e PPU_CH_CHBASE
  let pc := pcOf s c
  let s := areaWrite s c (64 * ppuF s c e PPU_STATS_BASE + 16 * (ch - base)) (natToBytes 16 (statRecord s c e st)) pc
  if halted s c || ppuF s c e PPU_CTRL_RSMODE ≠ 2 then s else
  match histBlock s c e pc with
  | (none, t) => t
  | (some b, t) =>
    if b = 255 then t else
    areaEdit t c (histOff t c e b ch) 64 pc (fun r =>
      histWrite r (frameFS t c) st.maxAbs.code32Up (uflFlag t c e st && !satFlag t c e st))

/-- What one PPU does at the end of the frame: records, unless the frame runs dark (R435), and PPU_FFLAGS, whose bits are
those of this frame (Table 4.4). -/
def ppuFrameEnd (s : State) (c e : Nat) : State :=
  let l := (s.eng c e).chst
  let s := if (s.core c).dark then s else whileRunning c (fun t p => channelRecords t c e p.1 p.2) s l
  if halted s c then s else
  let sat := l.any (fun p => satFlag s c e p.2)
  let ufl := l.any (fun p => uflFlag s c e p.2)
  let b := ppuBase c e
  let s := (s.setF b PPU_FFLAGS_SAT (if sat then 1 else 0)).setF b PPU_FFLAGS_UFL (if ufl then 1 else 0)
  let s := s.setF b PPU_FFLAGS_CONST (if l.any (fun p => isConst p.2) then 1 else 0)
  let x := s.core c
  s.setCore c { x with fsat := x.fsat || sat, fufl := x.fufl || ufl }

/-- END (R72, R154): records, the frame-end report, the abort notice dropped, back to ENTRY. A fault of a record halts the
core before the rest (R86). -/
def seqEnd (s : State) (c : Nat) : State :=
  let w := fetchWord s c
  if !atOp s c 0x1F then s
  else if !wReservedClear w then seqFault s c 0x05
  else if !(s.core c).ops.isEmpty then s
  else
    let win := coreWin c
    let slot := s.getF win SEQ_FRAME_SLOT
    let seq := s.getF win SEQ_FRAME_SEQ_SEQ
    let valid := s.getF win SEQ_FRAME_VALID = 1
    let s := whileRunning c (fun t e => ppuFrameEnd t c e) s (List.range 8)
    if halted s c then s else
    let x := s.core c
    let rep : Report := ⟨c, slot, seq, x.fsat && !x.dark, x.fufl && !x.dark, x.ftrunc⟩
    let s := if valid then { s with reports := s.reports ++ [rep] } else s
    let s := s.setCore c { x with
      loops := [none, none, none, none], relFr := [], dark := false, fsat := false, fufl := false, ftrunc := false
      notices := if valid then x.notices.filter (fun p => p != (slot, seq)) else x.notices }
    let s := (List.range 8).foldl (fun t e => t.setEng c e { t.eng c e with chst := [] }) s
    let s := (s.addF win SEQ_FRAMES_COUNT 1).setF win SEQ_FRAME_VALID 0
    let s := goTo s c (s.getF win SEQ_CTRL_ENTRY)
    s.setF win SEQ_STATUS_STATE 0

/-- A reserved macro-operation code (R69). -/
def seqReserved (s : State) (c : Nat) : State :=
  let opc := wOPC (fetchWord s c)
  if (opc = 0x1E ∨ 0x20 ≤ opc) ∧ atOp s c opc then seqFault s c 0x05 else s

/-! ### Completion (R70, R180, R256) -/

/-- Nothing incoming waits at a write SAG, or its sequence has ended. -/
def sagIdle (s : State) (c n : Nat) : Bool := (s.sag c n).inb.isEmpty || (s.sag c n).ended

/-- No originated token of a tag is still in the core: none waits to be steered, and none stands in an output register
(R256). -/
def tagSent (s : State) (c t : Nat) : Bool :=
  (s.core c).orig.all (fun x => x.tag != BitVec.ofNat 5 t) &&
    (s.core c).own.all (fun p => p.2 != t || (SMap.find (s.core c).outp p.1).isNone)

/-- A write SAG of a HALO has stored its rows: it has left the operation (R181), or nothing waits at it. -/
def haloStored (s : State) (c : Nat) (o : Op) (n : Nat) : Bool := (s.sag c n).owner != some o.num || sagIdle s c n

/-- The macro-operation has done all its work. -/
def opDone (s : State) (c : Nat) (o : Op) : Bool :=
  let w := o.word.toNat
  let b := o.blk
  let es := wEngines w
  let n := es.length
  let pipeline := es.all (fun e => decide (outTotal s c o n (indexIn es e) ≤ (s.eng c e).outk))
  let sides := (sideSags s c w).all (fun q => s.getF (sagBase c q) SAG_CFG_DIR = 0 || sagIdle s c q)
  match o.opc with
  | 0x04 => pipeline && sagIdle s c (wSAGOUT w) && sides
  | 0x13 => (emptyOut o || (cropBoxes s c o).isSome) && pipeline && sides
  | 0x07 => decide (elCOUNT b ≤ o.k) && sagIdle s c (wSAGOUT w) && sides
  | 0x08 => decide (reLEN b * reNRUN b ≤ o.k) && sagIdle s c (wSAGOUT w) && sides
  | 0x11 =>
    if cpMODE b = 0 then decide (cpBYTES b ≤ o.k) && sagIdle s c (wSAGOUT w)
    else decide (cpBYTES b ≤ 64 * o.k) && tagSent s c (cpRT b)
  | 0x12 => decide (haSNDU b ≤ 64 * o.sent) && decide (haSNDD b ≤ 64 * o.sent2) && decide (haEXPU b ≤ o.rxu) &&
      decide (haEXPD b ≤ o.rxd) && (haEXPU b = 0 || haloStored s c o (haRXU b)) && (haEXPD b = 0 || haloStored s c o (haRXD b)) &&
      (haSNDU b = 0 || tagSent s c (haRTUP b)) && (haSNDD b = 0 || tagSent s c (haRTDN b))
  | 0x14 => let d := sdOut 0x14 b; decide (d.1 * (winRec b 0).onr * d.2.2 ≤ o.k)
  | 0x15 => let d := sdOut 0x15 b; decide (d.1 * (winRec b 0).onr * d.2.2 ≤ o.k)
  | 0x16 => es.all (fun e => decide (1 ≤ (s.eng c e).streamed))
  | 0x17 =>
    let a := wSAGA w
    (s.sag c a).ended && (s.sag c (wSAGB w)).ended &&
      decide (s.getF (sagBase c a) SAG_EMITTED_COUNT * sagElem s c a * 8 ≤ o.k * fmtBits (wFMTA w))
  | _ => if isCellOp o.opc || o.opc = 0x05 || o.opc = 0x06 then pipeline && sides else o.done

/-- Engines and SAGs freed and the macro-operation gone (R70). A SAG whose part has ended with its last element (R63) stays
with its macro-operation until here: the spec does not say when it is free for another (log 89, DESIGN CHOICE). -/
def retire (s : State) (c : Nat) (o : Op) : State :=
  let w := o.word.toNat
  let s := if usesEngines o.opc then
      (wEngines w).foldl (fun t e => (sideFlush t c e o).setF (engBase c e) ENG_STATUS_BUSY 0) s
    else s
  let s := (List.range 16).foldl (fun t n => if (t.sag c n).owner = some o.num then sagFree t c n else t) s
  let x := s.core c
  s.setCore c { x with ops := x.ops.filter (fun p => p.num != o.num), wdog := 0, age := 0 }

/-- MACRO_OP_COMPLETE: the k-th macro-operation in flight completes. -/
def opComplete (s : State) (c k : Nat) : State :=
  match (s.core c).ops[k]? with
  | none => s
  | some o =>
    if halted s c || !opDone s c o then s
    else
      let e := (wEngines o.word.toNat).headD 0
      let t := if o.opc = 0x17 then kilnFinish s c e o else s
      if halted t c then t else retire t c o

/-- SEQ_EOF_TOKEN (R72): acted on at ENTRY with no frame loaded. -/
def seqEof (s : State) (c : Nat) : State :=
  let w := coreWin c
  match (s.core c).eof with
  | [] => s
  | t :: rest =>
    if halted s c || pcOf s c ≠ s.getF w SEQ_CTRL_ENTRY || s.getF w SEQ_FRAME_VALID = 1 then s
    else
      let p := t.payload.toNat
      eofHandle (s.setCore c { s.core c with eof := rest }) c (bits p 0 7) (bits p 32 32)

/-- The only incomplete macro-operation is a COPY or HALO that waits on its links or on incoming tokens (R180, R256). -/
def linkWait (s : State) (c : Nat) : Bool :=
  match (s.core c).ops with
  | [o] =>
    let b := o.blk
    (o.opc = 0x11 && cpMODE b != 0 && !tagSent s c (cpRT b)) ||
      (o.opc = 0x12 && ((haSNDU b != 0 && !tagSent s c (haRTUP b)) || (haSNDD b != 0 && !tagSent s c (haRTDN b)) ||
        decide (o.rxu < haEXPU b) || decide (o.rxd < haEXPD b)))
  | _ => false

/-- A BARRIER stands issued and waits for mover channels or gathers of its core (R69): an issued macro-operation other than
WAIT that is incomplete (log 90, DEDUCED). -/
def barrierWait (s : State) (c : Nat) : Bool :=
  atOp s c 0x1D && (s.core c).ops.isEmpty && wReservedClear (fetchWord s c) && outstanding s c

/-- STAGE_WATCHDOG_TICK (R74): a LIMIT of 0 disables the watchdog, and with it the injected expiry (R450); a squall or an over-temperature notice suspends the count (R486). -/
def watchdogTick (s : State) (c : Nat) : State :=
  let x := s.core c
  let limit := s.getF (coreWin c) SEQ_WDOG_LIMIT
  let inj := injected s 0x06 c
  let info := (x.ops.head?.map (·.pcAt)).getD (pcOf s c)
  if halted s c || (x.ops.isEmpty && !barrierWait s c) || linkWait s c then s
  else if (match holderOf s c with | some p => heldByDie s p | none => false) then s
  else if limit ≠ 0 ∧ inj.1 then coreFault inj.2 c 0x12 info none
  else
    let s := s.setCore c { x with wdog := x.wdog + 1 }
    if limit ≠ 0 ∧ limit ≤ x.wdog + 1 then
      coreFault s c 0x12 info none
    else s

/-! ### S2D and D2S (R187) -/

/-- One element code moved to its place: the next in order of output channel, row, column. -/
def regroupStep (s : State) (c : Nat) (o : Op) : State :=
  let b := o.blk
  let w := o.word.toNat
  let r := winRec b 0
  let f := sdF b
  let d := sdOut o.opc b
  let k := o.k
  if d.1 * r.onr * d.2.2 ≤ k then s else
  let x := k % d.2.2
  let y := r.oy0 + k / d.2.2 % r.onr
  let co := k / d.2.2 / r.onr
  let src : Nat × Nat × Nat :=
    if o.opc = 0x14 then (co / (f * f), y * f + co % (f * f) / f, x * f + co % f)
    else (co * f * f + y % f * f + x % f, y / f, x / f)
  let got : Option SrcEl × State :=
    if r.h ≤ src.2.1 ∨ r.w ≤ src.2.2 then (some ⟨r.pval, 0, true⟩, s)
    else fetchEl s c w r src.1 src.2.1 src.2.2
  match got with
  | (none, t) => t
  | (some el, t) =>
    if wFMTA w = 0xC ∧ el.code = 2 ∧ !el.pad then coreFault t c 0x09 o.pcAt none
    else (storePlanar t c o (co, y, x, 0) el.code).setOp c { o with k := k + 1 }

/-- A SAG whose bytes its macro-operation takes as an ordinary stream. The window operators, S2D and D2S generate their own
order for SAG_A and SAG_OUT (R165), and for SAG_AUX where it holds the exponents of planar elements (R173); a relation operation takes
only origin and pitches from SAG_OUT (R200); an operation without output elements reads nothing (R168). -/
def streamsSag (o : Op) (n : Nat) : Bool :=
  let w := o.word.toNat
  let window := o.opc = 1 || o.opc = 2 || o.opc = 3 || o.opc = 5 || o.opc = 6 || o.opc = 0x13 || o.opc = 0x14 || o.opc = 0x15
  !(emptyOut o || (window && (n = wSAGA w || n = wSAGOUT w)) || (window && o.opc != 0x13 && planarExp w && n = wSAGAUX w) ||
    (decide (9 ≤ o.opc) && decide (o.opc ≤ 0x10) && n = wSAGOUT w))

/-- SAG_STEP: one step of a SAG (R61); for S2D and D2S the step of SAG_OUT moves one element. -/
def sagStepAny (s : State) (c n : Nat) : State :=
  match (s.sag c n).owner with
  | none => s
  | some num =>
    match s.op c num with
    | none => sagStep s c n
    | some o =>
      let w := o.word.toNat
      if o.opc = 0x14 ∨ o.opc = 0x15 then
        if n ≠ wSAGOUT w ∨ halted s c then s else regroupStep s c o
      else if streamsSag o n then sagStep s c n
      else s

/-- An event of the address program of a SAG: SAG_CFG.MODE counts only for a SAG whose bytes its macro-operation takes as an
ordinary stream (R65, R165, R200). -/
def onProgram (s : State) (c n : Nat) (f : State → Nat → Nat → State) : State :=
  match (s.sag c n).owner.bind (s.op c) with
  | some o => if streamsSag o n then f s c n else s
  | none => f s c n

/-! ### The meanings -/

def execNop (c : Fin 128) (s : State) : Host.Outcome State Fault Refusal := live s (seqGo s c 0x00 (pcOf s c + 1))
def execConv (c : Fin 128) (s : State) : Host.Outcome State Fault Refusal := live s (awaited s (issue s c 0x01 true))
def execWino (c : Fin 128) (s : State) : Host.Outcome State Fault Refusal := live s (awaited s (issue s c 0x02 true))
def execDwconv (c : Fin 128) (s : State) : Host.Outcome State Fault Refusal := live s (awaited s (issue s c 0x03 true))
def execMatmul (c : Fin 128) (s : State) : Host.Outcome State Fault Refusal := live s (awaited s (issue s c 0x04 true))
def execPool (c : Fin 128) (s : State) : Host.Outcome State Fault Refusal := live s (awaited s (issue s c 0x05 true))
def execResize (c : Fin 128) (s : State) : Host.Outcome State Fault Refusal := live s (awaited s (issue s c 0x06 true))
def execEltwise (c : Fin 128) (s : State) : Host.Outcome State Fault Refusal := live s (awaited s (issue s c 0x07 true))
def execReduce (c : Fin 128) (s : State) : Host.Outcome State Fault Refusal := live s (awaited s (issue s c 0x08 true))
def execCopy (c : Fin 128) (s : State) : Host.Outcome State Fault Refusal := live s (awaited s (issueCopy s c))
def execHalo (c : Fin 128) (s : State) : Host.Outcome State Fault Refusal := live s (awaited s (issue s c 0x12 true))
def execCrop (c : Fin 128) (s : State) : Host.Outcome State Fault Refusal := live s (awaited s (issue s c 0x13 true))
def execS2d (c : Fin 128) (s : State) : Host.Outcome State Fault Refusal := live s (awaited s (issue s c 0x14 true))
def execD2s (c : Fin 128) (s : State) : Host.Outcome State Fault Refusal := live s (awaited s (issue s c 0x15 true))
def execLoadw (c : Fin 128) (s : State) : Host.Outcome State Fault Refusal := live s (issue s c 0x16 false)
def execKiln (c : Fin 128) (s : State) : Host.Outcome State Fault Refusal := live s (awaited s (issue s c 0x17 true))
def execWait (c : Fin 128) (s : State) : Host.Outcome State Fault Refusal := live s (awaited s (seqWait s c))
def execSignal (c : Fin 128) (s : State) : Host.Outcome State Fault Refusal := live s (seqSignal s c)
def execRelease (c : Fin 128) (s : State) : Host.Outcome State Fault Refusal := live s (seqRelease s c)
def execLoop (c : Fin 128) (s : State) : Host.Outcome State Fault Refusal := live s (seqLoop s c)
def execJump (c : Fin 128) (s : State) : Host.Outcome State Fault Refusal := live s (seqGo s c 0x1C (wTARGET (fetchWord s c)))
def execBarrier (c : Fin 128) (s : State) : Host.Outcome State Fault Refusal := live s (seqBarrier s c)
def execEnd (c : Fin 128) (s : State) : Host.Outcome State Fault Refusal := live s (awaited s (seqEnd s c))
def execReservedMacroOperation (c : Fin 128) (s : State) : Host.Outcome State Fault Refusal := live s (seqReserved s c)
def execMacroOpComplete (c : Fin 128) (k : Nat) (s : State) : Host.Outcome State Fault Refusal := live s (awaited s (opComplete s c k))
def execSeqEofToken (c : Fin 128) (s : State) : Host.Outcome State Fault Refusal := live s (awaited s (seqEof s c))
def execStageWatchdogTick (c : Fin 128) (s : State) : Host.Outcome State Fault Refusal := live s (watchdogTick s c)
def execSagStep (c : Fin 128) (n : Fin 16) (s : State) : Host.Outcome State Fault Refusal := live s (awaited s (sagStepAny s c n))

/-! The events of an address program. -/

def execSagNop (c : Fin 128) (n : Fin 16) (s : State) : Host.Outcome State Fault Refusal := live s (onProgram s c n sagNop)
def execSagSeti (c : Fin 128) (n : Fin 16) (s : State) : Host.Outcome State Fault Refusal := live s (onProgram s c n sagSeti)
def execSagAddi (c : Fin 128) (n : Fin 16) (s : State) : Host.Outcome State Fault Refusal := live s (onProgram s c n sagAddi)
def execSagAdd (c : Fin 128) (n : Fin 16) (s : State) : Host.Outcome State Fault Refusal := live s (onProgram s c n sagAdd)
def execSagModi (c : Fin 128) (n : Fin 16) (s : State) : Host.Outcome State Fault Refusal := live s (onProgram s c n sagModi)
def execSagEmit (c : Fin 128) (n : Fin 16) (s : State) : Host.Outcome State Fault Refusal := live s (onProgram s c n sagEmit)
def execSagEmitz (c : Fin 128) (n : Fin 16) (s : State) : Host.Outcome State Fault Refusal := live s (onProgram s c n sagEmitz)
def execSagSetc (c : Fin 128) (n : Fin 16) (s : State) : Host.Outcome State Fault Refusal := live s (onProgram s c n sagSetc)
def execSagLoop (c : Fin 128) (n : Fin 16) (s : State) : Host.Outcome State Fault Refusal := live s (onProgram s c n sagLoop)
def execSagJmp (c : Fin 128) (n : Fin 16) (s : State) : Host.Outcome State Fault Refusal := live s (onProgram s c n sagJmp)
def execSagEnd (c : Fin 128) (n : Fin 16) (s : State) : Host.Outcome State Fault Refusal := live s (onProgram s c n sagEnd)
def execSagReservedOpcode (c : Fin 128) (n : Fin 16) (s : State) : Host.Outcome State Fault Refusal :=
  live s (onProgram s c n sagReserved)

end Sys2Proof.Machine
end

