-- ==== Sys2Proof/Machine/Relation.lean ====
section
/-! DEFINITION. The relation unit (R197 to R233): acceptance, gathers, scatters and neighbourhoods with their overflow
lane, segments, selection, sorting and point searches, and the history rule of its outputs. -/

namespace Sys2Proof.Machine
open Sys2Proof
open Sys2Proof.Machine.Reg

/-! ### The relation header (Table 6.1) and operation fields (Tables 6.4, 6.7) -/

def rSUB (b : Nat) : Nat := bits b 0 3
def rWIN (b : Nat) : Nat := bits b 4 9 + 1
def rCMODE (b : Nat) : Nat := bits b 13 2
def rHDEPTH (b : Nat) : Nat := bits b 15 3 + 1
def rGUARD (b : Nat) : Nat := bits b 18 2
def rINIT (b : Nat) : Int := signed 8 (bits b 20 8)
def rHBASE (b : Nat) : Nat := bits b 32 18
def rHMAP (b : Nat) : Nat := bits b 64 18
def rSATTHR (b : Nat) : Nat := bits b 96 16
def rUFLTHR (b : Nat) : Nat := bits b 112 16
def rTAB (b : Nat) : TabDesc := tabDesc b 128
def rN (b : Nat) : Nat := bits b 256 24 + 1
def sgBASE (b : Nat) : Nat := bits b 280 24
def sgNSEG (b : Nat) : Nat := bits b 304 24 + 1
def tkK (b : Nat) : Nat := bits b 256 6 + 1
def tkLEN (b : Nat) : Nat := bits b 264 16 + 1
def tkNRUN (b : Nat) : Nat := bits b 280 24 + 1
def knK (b : Nat) : Nat := bits b 256 5 + 1
def knNQ (b : Nat) : Nat := bits b 264 16 + 1
def blNS (b : Nat) : Nat := bits b 256 8 + 1
def blNQ (b : Nat) : Nat := bits b 272 16 + 1
def fpM (b : Nat) : Nat := bits b 256 13 + 1
def fpSTART (b : Nat) : Nat := bits b 272 16
def nbNNODE (b : Nat) : Nat := bits b 256 20 + 1
def nbADJ (b : Nat) : TabDesc := tabDesc b 288
def nbOFF (b : Nat) : Nat := bits b 416 48
def nbRED (b : Nat) : Nat := bits b 464 2
def nbPOL (b : Nat) : Bool := bit b 466
def nbNBKT (b : Nat) : Nat := bits b 467 2 + 1
def nbBUDGET (b : Nat) : Nat := bits b 512 32
def nbOVCAP (b : Nat) : Nat := bits b 544 17
def nbOVBASE (b : Nat) : Nat := bits b 576 18
def nbBOUND (b k : Nat) : Nat := bits b (640 + 64 * k) 8 + 1
def nbCAP (b k : Nat) : Nat := bits b (640 + 64 * k + 32) 21

/-- Dimensions of a point operation: DIM bit 0 three, 1 eight. -/
def dimsOf (d : Bool) : Nat := if d then 8 else 3
/-- The bit that holds DIM for KNN, FPS, BALL. -/
def dimBit (opc : Nat) : Nat := if opc = 0x0E then 262 else if opc = 0x0F then 269 else 264

def nullIndex : Nat := 0xFFFFFFFF

/-! ### Where tables may lie (R205) -/

/-- The region of an address that a relation unit of cluster cl may use: its bounds, and the core whose scratch it is. -/
def relRegion (cl a : Nat) : Option (Nat × Nat × Option Nat) :=
  if a < 0x400000000000 ∧ a / 2 ^ 36 < 4 ∧ a % 2 ^ 36 < 0xF00000000 then
    some (a / 2 ^ 36 * 2 ^ 36, a / 2 ^ 36 * 2 ^ 36 + 0xF00000000, none)
  else if clusterMem cl ≤ a ∧ a < clusterMem cl + 0x1000000 then some (clusterMem cl, clusterMem cl + 0x1000000, none)
  else
    match (List.range 8).find? (fun k => decide (scratchWin (8 * cl + k) ≤ a) && decide (a < scratchWin (8 * cl + k) + 0x600000)) with
    | some k => some (scratchWin (8 * cl + k), scratchWin (8 * cl + k) + 0x600000, some (8 * cl + k))
    | none => none

/-- A range lies wholly in one region. -/
def relRange (cl a len : Nat) : Bool :=
  match relRegion cl a with
  | some (_, hi, _) => decide (a + len ≤ hi)
  | none => false

/-- Bytes from the first row of a table to the end of its last. -/
def TabDesc.span (t : TabDesc) : Nat := t.pitch * (t.nrows - 1) + t.rowBytes

/-- A table descriptor's own rules (R205). -/
def TabDesc.ok (t : TabDesc) : Bool :=
  t.resClear && t.base % 64 = 0 && decide (t.rowBytes ≤ t.pitch) && t.fmt != 0xC && !fmtGroup t.fmt && (!t.acc || t.fmt = 5)

/-! ### Checks at issue (R201, R205, R207, R222, R230) -/

def isFeature (f : Nat) : Bool := f = 2 || f = 3 || f = 4 || f = 9 || f = 0xA || f = 0xB
def isValue (f : Nat) : Bool := isFeature f || f = 5
def isPoint (f : Nat) : Bool := f = 4 || f = 9 || f = 0xA || f = 0xB
def isKey (f : Nat) : Bool := decide (8 ≤ fmtBits f) && !fmtGroup f

/-- The header's reserved bits, CMODE and FMT_OUT (R203, R230). -/
def relHeadOk (w b : Nat) : Bool :=
  !bit b 3 && bits b 28 4 = 0 && bits b 50 14 = 0 && bits b 82 14 = 0 && decide (rCMODE b < 3) && !wRND w &&
    !fmtGroup (wFMTOUT w) && wFMTOUT w != 0xC

/-- CMODE 0 copies codes of the source format (R230). -/
def cmodeOk (w b src : Nat) (acc : Bool) : Bool := rCMODE b != 0 || (wFMTOUT w = src && !acc)

/-- Record operations: CMODE 0 and FMT_OUT INT32. -/
def recordOk (w b : Nat) : Bool := rCMODE b = 0 && wFMTOUT w = 5

/-- A point table (R207). -/
def pointsOk (w b opc : Nat) : Bool :=
  let t := rTAB b
  t.ok && !t.acc && isPoint t.fmt && t.rlen = dimsOf (bit b (dimBit opc)) && decide (t.nrows ≤ 65536) && wFMTA w = t.fmt

/-- The buckets rise strictly, with reserved bits clear. -/
def bucketsOk (b : Nat) : Bool :=
  (List.range 4).all (fun k => bits b (640 + 64 * k + 8) 24 = 0 && bits b (640 + 64 * k + 53) 11 = 0) &&
    (List.range (nbNBKT b - 1)).all (fun k => decide (nbBOUND b k < nbBOUND b (k + 1))) &&
    (List.range (nbNBKT b)).all (fun k => decide (nbCAP b k ≤ 1048576))

/-- The field checks of a relation operation. -/
def relOk (w b plen : Nat) : Bool :=
  let t := rTAB b
  let opc := wOPC w
  relHeadOk w b && b / 2 ^ (if opc = 0x09 ∧ rSUB b = 1 then 1024 else 512) = 0 &&
  match opc with
  | 0x09 =>
    if rSUB b = 0 then t.ok && cmodeOk w b t.fmt t.acc && bits b 280 232 = 0
    else
      let a := nbADJ b
      rSUB b = 1 && decide (1 ≤ plen) && t.ok && !t.acc && isFeature t.fmt && decide (t.nrows ≤ 1048576) &&
        cmodeOk w b t.fmt false && a.resClear && a.base % 64 = 0 && a.fmt = 5 && !a.acc && a.rlen = 1 &&
        nbOFF b % 64 = 0 && bits b 276 12 = 0 && bits b 469 43 = 0 && bits b 561 15 = 0 && bits b 594 46 = 0 &&
        bits b 896 128 = 0 && decide (nbOVCAP b ≤ 65536) && bucketsOk b && (nbRED b != 0 || nbNBKT b = 1) &&
        decide (64 * nbOVBASE b + 16 * nbOVCAP b ≤ 0x1000000)
  | 0x0A =>
    decide (rSUB b < 2) && t.ok && bits b 280 232 = 0 &&
      (if rSUB b = 0 then
        ((wFMTA w = 2 || wFMTA w = 3 || wFMTA w = 4) && t.acc) ||
          ((wFMTA w = 9 || wFMTA w = 0xA || wFMTA w = 0xB) && t.fmt = 0xB && !t.acc)
      else wFMTA w = t.fmt && isValue t.fmt && !t.acc)
  | 0x0B =>
    decide (rSUB b < 3) && isValue (wFMTA w) && cmodeOk w b (wFMTA w) false && bits b 360 152 = 0 &&
      (rSUB b = 1 || rCMODE b != 0) && (rSUB b = 1 || !fmtFloat (wFMTA w) || fmtFloat (wFMTOUT w))
  | 0x0C => rSUB b = 0 && recordOk w b && isKey (wFMTA w) && bit b 263 = false && bits b 304 208 = 0
  | 0x0D => rSUB b = 0 && recordOk w b && isKey (wFMTA w) && bit b 273 = false && bits b 292 220 = 0 &&
      decide (64 * bits b 274 18 + 16 * (bits b 256 16 + 1) ≤ 0x1000000)
  | 0x0E => rSUB b = 0 && recordOk w b && pointsOk w b opc && bit b 263 = false && bits b 280 232 = 0 &&
      (!bit b 261 || decide (knNQ b ≤ t.nrows))
  | 0x0F => rSUB b = 0 && recordOk w b && pointsOk w b opc && bits b 270 2 = 0 && bits b 306 206 = 0 &&
      decide (fpM b ≤ 8192) && decide (fpSTART b < t.nrows) && decide (64 * bits b 288 18 + 4 * t.nrows ≤ 0x1000000)
  | _ => rSUB b = 0 && recordOk w b && pointsOk w b opc && bits b 266 6 = 0 && bits b 320 192 = 0

/-- Every table of the operation lies where it may (R205); point tables in on-chip SRAM (R207). -/
def relTables (cl w b : Nat) : Bool :=
  let t := rTAB b
  let opc := wOPC w
  match opc with
  | 0x09 => relRange cl t.base t.span &&
      (rSUB b = 0 || (relRange cl (nbADJ b).base (nbADJ b).span && relRange cl (nbOFF b) (4 * (t.nrows + 1))))
  | 0x0A => relRange cl t.base t.span
  | 0x0B => true
  | 0x0C => true
  | 0x0D => true
  | _ => relRange cl t.base t.span && decide (0x800000000000 ≤ t.base)

/-! ### Acceptance (R198) -/

/-- The faults of a relation operation at its issue, in ascending order of code (R87, R201): a table outside its legal range,
a field error, and every SAG it names that R64 refuses. -/
def relFaults (s : State) (c w b : Nat) : List (Nat × Nat) :=
  (if relTables (c / 8) w b then [] else [(0x01, pcOf s c)]) ++ (if relOk w b (wPLEN w) then [] else [(0x05, pcOf s c)]) ++
    ((sagsNamed s c w b).filter (fun n => !sagOk s c n)).map (fun n => (0x06, n))

/-- A request in the unit's queue: after those that came before it, and of one instant before those of higher cores (R198). -/
def rluPlace (e : Nat × BitVec 128 × Bytes × Nat) (l : List (Nat × BitVec 128 × Bytes × Nat)) : List (Nat × BitVec 128 × Bytes × Nat) :=
  let first (q : Nat × BitVec 128 × Bytes × Nat) : Bool := !(q.2.2.2 = e.2.2.2 && decide (e.1 < q.1))
  l.takeWhile first ++ e :: l.dropWhile first

/-- A relation macro-operation presented to the unit: checked (R201), then in its queue in order of arrival. -/
def relIssue (s : State) (c opc : Nat) : State :=
  let w := fetchWord s c
  let cl := c / 8
  let k := s.cluster cl
  if !atOp s c opc then s
  else if !wReservedClear w then seqFault s c 0x05
  else if k.rluq.any (fun r => r.1 = c) || !resourcesFree s c w 0 then s
  else
    match readBlock s c w with
    | (none, t) => t
    | (some blk, t) =>
      let l := relFaults t c w (bytesToNat blk)
      if l.isEmpty then
        t.setCluster cl { t.cluster cl with rluq := rluPlace (c, BitVec.ofNat 128 w, blk, now s) (t.cluster cl).rluq }
      else coreFaults t c l

/-- Gather slots not reserved (Table 6.8). -/
def freeSlots (s : State) (cl : Nat) : Nat :=
  512 - (s.cluster cl).rops.foldl (fun a r => a + rWIN (bytesToNat r.block)) 0

/-- RLU_ACCEPT: the oldest request is accepted once there is room and the slots are free, and the macro-operation
issues (R70, R198). What the operation of this program index has counted in the frame goes on (R224, R231, R232). -/
def rluAccept (s : State) (cl : Nat) : State :=
  let k := s.cluster cl
  match k.rluq with
  | [] => s
  | (c, w, blk, _) :: rest =>
    if halted s c then s.setCluster cl { k with rluq := rest }
    else if 8 ≤ k.rops.length ∨ freeSlots s cl < rWIN (bytesToNat blk) then s
    else
      let num := (s.core c).nextOp
      let win := coreWin c
      let fr := SMap.get ([0, 0, 0, 0], []) (s.core c).relFr (pcOf s c)
      let r : RluOp :=
        { core := c, num := num, word := w, block := blk, slot := s.getF win SEQ_FRAME_SLOT
          seq := s.getF win SEQ_FRAME_SEQ_SEQ, valid := s.getF win SEQ_FRAME_VALID = 1, pcAt := pcOf s c
          hs := 0, issued := 0, nbr := 0, outst := [], ids := [], back := [], wrote := 0, bkt := fr.1, nodes := [], lane := [], parts := []
          chst := fr.2, excess := 0, laneDone := false }
      claim (s.setCluster cl { k with rluq := rest, rops := k.rops ++ [r] }) c w.toNat blk

/-! ### Access and conversion -/

def RluOp.b (r : RluOp) : Nat := bytesToNat r.block
def RluOp.w (r : RluOp) : Nat := r.word.toNat
def RluOp.opc (r : RluOp) : Nat := wOPC r.word.toNat

def State.setRop (s : State) (cl : Nat) (r : RluOp) : State :=
  let k := s.cluster cl
  s.setCluster cl { k with rops := k.rops.map (fun q => if q.core = r.core ∧ q.num = r.num then r else q) }

/-- The operation as its unit holds it now. -/
def ropNow (s : State) (cl : Nat) (r : RluOp) : RluOp :=
  ((s.cluster cl).rops.find? (fun q => q.core = r.core ∧ q.num = r.num)).getD r

/-- The bounds an access of the unit breaks: a region that is none of R205's, its end, or a scratch's windows (R58); the
offset for SEQ_FAULT_ADDR. -/
def relBroken (s : State) (r : RluOp) (a len : Nat) (write : Bool) : Option (Option Nat) :=
  match relRegion (r.core / 8) a with
  | none => some none
  | some (lo, hi, k) =>
    if hi < a + len then some (some (a - lo))
    else match k with
      | some c => if boundsOk s c (a - lo : Nat) len write then none else some (some (a - lo))
      | none => none

/-- A read of memory by the unit: the bounds of the scratch it lies in are checked, an uncorrectable word or line is
BANK_ECC of the issuing core (R205, R289); a table on a die in DIE-OFF reads as zero (R499). -/
def relRead (s : State) (r : RluOp) (a len : Nat) : Option Bytes × State :=
  match relBroken s r a len false with
  | some o => (none, coreFault s r.core 0x01 (pcOf s r.core) o)
  | none =>
    match memRead s a len with
    | (.ok b, t) => (some b, t)
    | (.bus, t) => (some (List.replicate len 0), logBusError t a)
    | (.ue w, t) => (none, coreFault (logUncorrectable t w 2 r.core) r.core 0x10 0 none)

/-- A write of memory by the unit; on a die in DIE-OFF it is discarded, and the steward records it (R284). -/
def relWrite (s : State) (r : RluOp) (a : Nat) (v : Bytes) : State :=
  match relBroken s r a v.length true with
  | some o => coreFault s r.core 0x01 (pcOf s r.core) o
  | none =>
    match memWrite s a v with
    | (.ok _, t) => t
    | (.bus, t) => logBusError t a
    | (.ue w, t) => coreFault (logUncorrectable t w 2 r.core) r.core 0x10 0 none

/-- The value of element i of a table row. -/
def rowVal (t : TabDesc) (row : Bytes) (i : Nat) : FV :=
  if t.acc then FV.ofQ (Q.ofInt (signed 48 (leAt row (8 * i) 6))) false else elemVal t.fmt (elemCode t.fmt row i) 0

/-- The block of the frame's stream slot in the operation's history, 255 for none; none with a fault raised. -/
def relBlock (s : State) (r : RluOp) : Option Nat × State :=
  if !r.valid then (some 255, s)
  else match relRead s r (clusterMem (r.core / 8) + 64 * rHMAP r.b + r.slot) 1 with
    | (none, t) => (none, t)
    | (some v, t) => (some (bytesToNat v), t)

/-- The address of a channel's record in a block (R231). -/
def relRecord (r : RluOp) (blk ch : Nat) : Nat :=
  clusterMem (r.core / 8) + 64 * rHBASE r.b + 64 * (blk * (rTAB r.b).rlen + ch)

/-- The history shift of a channel of the operation's outputs (R231); none with a fault raised. -/
def relShift (s : State) (r : RluOp) (ch : Nat) : Option Int × State :=
  let b := r.b
  if rCMODE b = 2 then (some (rINIT b), s) else
  match relBlock s r with
  | (none, t) => (none, t)
  | (some blk, t) =>
    if blk = 255 then (some (rINIT b), t) else
    match relRead t r (relRecord r blk ch) 64 with
    | (none, u) => (none, u)
    | (some rec_, u) =>
      match histMax (bytesToNat rec_) r.seq (rHDEPTH b) with
      | none => (some (rINIT b), u)
      | some mx => (some (rowShift (wFMTOUT r.w) 0 mx (rGUARD b)), u)

/-- Saturations counted in a channel of the operation. -/
def relSat (r : RluOp) (ch n : Nat) : RluOp :=
  if n = 0 then r
  else
    let st := SMap.get ChStat.reset r.chst ch
    { r with chst := r.chst.put ch { st with sat := satAdd 16 st.sat n } }

/-- One output element converted (R230): its code and flags, the operation's counts updated. `o` says that its reduction
overflowed. -/
def relConv (s : State) (r : RluOp) (ch code : Nat) (v : FV) (o : Bool) : Option (Nat × RluOp × CFlags) × State :=
  if rCMODE r.b = 0 then (some (code, relSat r ch (if o then 1 else 0), CFlags.none.setS o), s) else
  let st := SMap.get ChStat.reset r.chst ch
  let q := match st.hshift with
    | some x => (some x, s)
    | none => relShift s r ch
  match q with
  | (none, t) => (none, t)
  | (some sh, t) =>
    let f := wFMTOUT r.w
    let cv := convert f .rna (scaled f v sh 0)
    let fl := cv.2.setS o
    (some (cv.1, { r with chst := r.chst.put ch { statAdd st v fl sh with hshift := some sh } }, fl), t)

/-- A list of element codes packed into bytes (R91). -/
def packCodes (w : Nat) : List Nat → Bytes
  | [] => []
  | a :: t =>
    if w = 4 then
      match t with
      | [] => [BitVec.ofNat 8 a]
      | x :: u => BitVec.ofNat 8 (a + 16 * x) :: packCodes w u
    else natToBytes (w / 8) a ++ packCodes w t

/-- Output bytes written element by element at an address of the issuing core's scratch through SAG_OUT: BOUNDS at the first
element that lies outside (R200, R201). -/
def relStore (s : State) (r : RluOp) (addr : Int) (v : Bytes) : State :=
  let w := max 1 (fmtBits (wFMTOUT r.w) / 8)
  let at_ (n : Nat) : Nat := scratchWin r.core + (addr + n).toNat
  if halted s r.core then s
  else match (List.range (ceilDiv v.length w)).find? (fun (i : Nat) => !boundsOk s r.core (addr + ((w * i : Nat) : Int)) w true) with
    | none => sramWrite s (at_ 0) v
    | some i => coreFault (if i = 0 then s else sramWrite s (at_ 0) (v.take (w * i))) r.core 0x01 (wSAGOUT r.w)
        (some (unsigned 23 (addr + ((w * i : Nat) : Int))))

/-- An output row converted and written (R200, R208): codes, values, and whether the element's reduction overflowed. -/
def relOutRow (s : State) (cl : Nat) (r : RluOp) (addr : Int) (vals : List (Nat × FV × Bool)) : State :=
  if halted s r.core then s else
  let go := (vals.zip (List.range vals.length)).foldl (fun (st : Option (List Nat × RluOp × Nat × Nat) × State) p =>
    match st.1 with
    | none => st
    | some g =>
      match relConv st.2 g.2.1 p.2 p.1.1 p.1.2.1 p.1.2.2 with
      | (none, t) => (none, t)
      | (some q, t) => (some (g.1 ++ [q.1], q.2.1, g.2.2.1 + (if q.2.2.s then 1 else 0), g.2.2.2 + (if q.2.2.u then 1 else 0)), t))
    (some ([], r, 0, 0), s)
  match go with
  | (none, t) => t
  | (some g, t) =>
    let t := t.setRop cl g.2.1
    let t := (t.addF (rluBase cl) RLU_SAT_CNT_COUNT g.2.2.1).addF (rluBase cl) RLU_UFL_CNT_COUNT g.2.2.2
    relStore t r addr (packCodes (fmtBits (wFMTOUT r.w)) g.1)

/-- A row of zero codes written. -/
def relZero (s : State) (r : RluOp) (addr : Int) : State :=
  relStore s r addr (List.replicate (ceilDiv ((rTAB r.b).rlen * fmtBits (wFMTOUT r.w)) 8) 0)

/-- The address of output row j (R200). -/
def relRowAddr (s : State) (r : RluOp) (j : Nat) : Int :=
  sagOrigin s r.core (wSAGOUT r.w) + j * sagStride s r.core (wSAGOUT r.w) 1

/-- Bytes from the operation's stream, none while they have not been delivered. -/
def relStream (s : State) (r : RluOp) (n at0 len : Nat) : Option Bytes := streamBytes s r.core n at0 len

/-- A row of the table as codes and values. -/
def tabRow (t : TabDesc) (row : Bytes) : List (Nat × FV) :=
  (List.range t.rlen).map (fun i => (if t.acc then 0 else elemCode t.fmt row i, rowVal t row i))

/-- A row that no reduction made. -/
def plainRow (l : List (Nat × FV)) : List (Nat × FV × Bool) := l.map (fun p => (p.1, p.2, false))

/-- A row of zero codes. -/
def zeroRow (t : TabDesc) : List (Nat × FV × Bool) := List.replicate t.rlen (0, .fin false ⟨0, 1⟩, false)

/-- 64-byte words of one table row (R219). -/
def TabDesc.words (t : TabDesc) : Nat := ceilDiv t.rowBytes 64

/-- The index names no row of the table (R206). -/
def TabDesc.noRow (t : TabDesc) (id : Nat) : Bool := id = nullIndex || decide (t.nrows ≤ id)

/-- Handshakes of an operation that issues no gathers one by one (Table 6.6). A row of SEGMENT has FMT_A's element width
(log 100). -/
def relTotal (r : RluOp) : Nat :=
  let b := r.b
  let per := ceilDiv (rTAB b).nrows (if bit b (dimBit r.opc) then 24 else 64)
  match r.opc with
  | 0x0B => (rN b + sgNSEG b) * ceilDiv ((rTAB b).rlen * fmtBits (wFMTA r.w)) 512
  | 0x0C => (tkLEN b + tkK b) * tkNRUN b
  | 0x0D =>
    let n := bits b 256 16 + 1
    n * (((List.range 17).find? (fun k => decide (n ≤ 2 ^ k))).getD 16 + 1)
  | 0x0E => knNQ b * (per + knK b)
  | 0x0F => fpM b * per
  | 0x10 => blNQ b * (per + blNS b)
  | _ => 0

/-- An out-of-range index counted (R206). -/
def countOor (s : State) (cl k : Nat) : State := s.addF (rluBase cl) RLU_OOR_CNT_COUNT k

/-! ### GATHER NBR (R222 to R229) -/

/-- Nodes of the frame: the header's count, none while it has not arrived. -/
def nbCount (s : State) (r : RluOp) : Option Nat := (relStream s r (wSAGAUX r.w) 0 64).map (fun h => leAt h 0 4)

/-- Units of an operation that issue gathers: indices, or nodes. -/
def relUnits (s : State) (r : RluOp) : Option Nat :=
  match r.opc with
  | 0x09 => if rSUB r.b = 0 then some (rN r.b) else (nbCount s r).map (fun n => min n (nbNNODE r.b))
  | 0x0A => some (rN r.b)
  | _ => some 0

/-- The bucket a node of degree d takes: the first with a bound of at least min(d, D_max) and room (R224). -/
def nbBucket (r : RluOp) (d : Nat) : Option Nat :=
  let b := r.b
  let dmax := nbBOUND b (nbNBKT b - 1)
  (List.range (nbNBKT b)).find? (fun k => decide (min d dmax ≤ nbBOUND b k) && decide (r.bkt.getD k 0 < nbCAP b k))

/-- Edges left to the overflow lane, or excess where the lane is full (R224, R226). -/
def nbLane (s : State) (cl : Nat) (r : RluOp) (pos first last : Nat) : State × RluOp × Bool :=
  if nbOVCAP r.b ≤ r.lane.length then (s, { r with excess := r.excess + (last - first) }, false)
  else
    let s := sramWrite s (clusterMem cl + 64 * nbOVBASE r.b + 16 * r.lane.length)
      (natToBytes 16 (pos + first * 2 ^ 32 + last * 2 ^ 64))
    (s.maxF (rluBase cl) RLU_OVF_HWM_ENTRIES (r.lane.length + 1), { r with lane := r.lane ++ [⟨pos, first, last⟩] }, true)

/-- A node of the stream taken up (R223, R224): its edge range read, its bucket chosen. -/
def nbIssue (s : State) (cl : Nat) (r : RluOp) (i id : Nat) : State :=
  let b := r.b
  let t := rTAB b
  let node (s : State) (r : RluOp) (first h : Nat) (lane : Bool) : State :=
    s.setRop cl { r with nodes := r.nodes.put i (first, h, lane) }
  let take (s : State) (first d : Nat) : State :=
    let dmax := nbBOUND b (nbNBKT b - 1)
    if nbRED b = 0 then
      let h := min d (nbBOUND b 0)
      node s { r with excess := r.excess + (d - h) } first h false
    else
      match nbBucket r d with
      | some k =>
        let r := { r with bkt := r.bkt.set k (r.bkt.getD k 0 + 1) }
        if d ≤ dmax then node s r first d false
        else let q := nbLane s cl r i (first + dmax) (first + d); node q.1 q.2.1 first dmax q.2.2
      | none => let q := nbLane s cl r i first (first + d); node q.1 q.2.1 first 0 q.2.2
  if id = nullIndex then take s 0 0
  else if t.nrows ≤ id then take (countOor s cl 1) 0 0
  else
    match relRead s r (nbOFF b + 4 * id) 8 with
    | (none, u) => u
    | (some o, u) =>
      let lo := leAt o 0 4
      let hi := leAt o 4 4
      if hi < lo ∨ (nbADJ b).nrows < hi then take (countOor u cl 1) 0 0 else take u lo (hi - lo)

/-- One neighbour's row combined into a partial row (R228). -/
def nbCombine (red : Nat) (flt : Bool) (parts : List Acc) (n : Nat) (row : List (Nat × FV)) : List Acc :=
  (row.zip (List.range row.length)).map (fun p =>
    let a := parts.getD p.2 Acc.zero
    if red = 2 then (if n = 0 ∨ a.f.lt p.1.2 ∨ (p.1.2.isNaN ∧ !a.f.isNaN) then { a with f := p.1.2 } else a)
    else if flt then
      let q := if n = 0 then (p.1.2.fp32.1, false, false) else poolAdd a.f p.1.2
      { a with f := q.1, fl := (a.fl.setV q.2.1).setS q.2.2 }
    else { a with i := a.i + p.1.2.q.floor })

/-- Neighbour e of the edge table: none where the read fails. -/
def nbIndex (s : State) (r : RluOp) (e : Nat) : Option Nat × State :=
  match relRead s r ((nbADJ r.b).base + (nbADJ r.b).pitch * e) 4 with
  | (none, u) => (none, u)
  | (some v, u) => (some (bytesToNat v), u)

/-- The feature row a neighbour names: outer none where the read fails, inner none for an index that contributes nothing. -/
def nbRow (s : State) (cl : Nat) (r : RluOp) (id : Nat) : Option (Option (List (Nat × FV))) × State :=
  let t := rTAB r.b
  if id = nullIndex then (some none, s)
  else if t.nrows ≤ id then (some none, countOor s cl 1)
  else
    match relRead s r (t.base + t.pitch * id) t.rowBytes with
    | (none, w) => (none, w)
    | (some row, w) => (some (some (tabRow t row)), w.addF (rluBase cl) RLU_GATHERS_COUNT 1)

/-- The finished value of a reduced row (R228), and whether its floating sum overflowed (R109): zero for a node with no edge
handled. -/
def nbFinish (red : Nat) (flt : Bool) (parts : List Acc) (n rlen : Nat) : List (Nat × FV × Bool) :=
  (List.range rlen).map (fun i =>
    let a := parts.getD i Acc.zero
    if n = 0 then (0, .fin false ⟨0, 1⟩, false)
    else if red = 2 then (0, a.f, false)
    else if flt then
      (0, if red = 3 then (match a.f with
            | .fin neg q => (FV.ofQ (q.divNat n) neg).fp32.1
            | v => v)
          else a.f, a.fl.s)
    else (0, FV.ofQ (if red = 3 then (Q.ofInt a.i).divNat n else Q.ofInt a.i) false, false))

/-- The codes of values that a copied MAX keeps (CMODE 0): every value is one of its format. -/
def recode (f : Nat) (row : List (Nat × FV × Bool)) : List (Nat × FV × Bool) := row.map (fun p => ((convert f .rna p.2.1).1, p.2))

/-- A reduced row of a node written. -/
def nbWrite (s : State) (cl : Nat) (r : RluOp) (i : Nat) (parts : List Acc) (n : Nat) : State :=
  let t := rTAB r.b
  relOutRow s cl r (relRowAddr s r i) (recode t.fmt (nbFinish (nbRED r.b) (fmtFloat t.fmt) parts n t.rlen))

/-- The slots of a node's padded list written (R228): a row for each neighbour handled, zero codes in the others. -/
def nbSlots (s : State) (cl : Nat) (r : RluOp) (i : Nat) (rows : List Bytes) : State :=
  let o := wSAGOUT r.w
  let base := sagOrigin s r.core o + i * sagStride s r.core o 2
  whileRunning r.core (fun (st : State) (j : Nat) =>
    let a := base + (j : Int) * sagStride st r.core o 1
    match rows.getD j [] with
    | [] => relZero st r a
    | row => relOutRow st cl (ropNow st cl r) a (plainRow (tabRow (rTAB r.b) row))) s (List.range (nbBOUND r.b 0))

/-- The rows of a node's neighbours, in edge order, combined: the partial row, and the edges combined. -/
def nbPartial (r : RluOp) (rows : List Bytes) : List Acc × Nat :=
  let t := rTAB r.b
  rows.foldl (fun p row =>
    if row.isEmpty then p else (nbCombine (nbRED r.b) (fmtFloat t.fmt) p.1 p.2 (tabRow t row), p.2 + 1)) ([], 0)

/-- The main pass of a node is done with every neighbour it takes back (R224, R228). -/
def nbNode (s : State) (cl : Nat) (r : RluOp) (i : Nat) : State :=
  let nd := SMap.get (0, 0, false) r.nodes i
  let rows := (List.range nd.2.1).map (fun j => SMap.get [] r.back (256 * i + j))
  let r := { r with back := r.back.filter (fun p => p.1 / 256 ≠ i), nodes := SMap.erase r.nodes i }
  let s := s.setRop cl r
  if nbRED r.b = 0 then nbSlots s cl r i rows
  else
    let q := nbPartial r rows
    if nd.2.2 then s.setRop cl { r with parts := r.parts.put i q } else nbWrite s cl r i q.1 q.2

/-- A neighbour is back, no bytes for an index that contributes nothing: its node is done once all of them are. -/
def nbBack (s : State) (cl : Nat) (r : RluOp) (key : Nat) (row : Bytes) : State :=
  let i := key / 256
  let r := { r with back := r.back.put key row, ids := SMap.erase r.ids key }
  if r.issued ≤ i ∨ (List.range (SMap.get (0, 0, false) r.nodes i).2.1).any (fun j => (SMap.find r.back (256 * i + j)).isNone) then
    s.setRop cl r
  else nbNode (s.setRop cl r) cl r i

/-- The last handshake of a neighbour: its gather is outstanding, or it is back at once where its index names no row (R206). -/
def nbFetch (s : State) (cl : Nat) (r : RluOp) : State :=
  let i := r.issued
  let key := 256 * i + r.nbr
  let id := SMap.get nullIndex r.ids key
  let last := decide ((SMap.get (0, 0, false) r.nodes i).2.1 ≤ r.nbr + 1)
  let r := { r with hs := 0, nbr := if last then 0 else r.nbr + 1, issued := if last then i + 1 else i }
  if (rTAB r.b).noRow id then nbBack (if id = nullIndex then s else countOor s cl 1) cl r key []
  else s.setRop cl { r with outst := r.outst ++ [key] }

/-- A handshake for the neighbours of the node in hand: one for each list of 16, and those of the row that each names, or one
where its index names none (R219). -/
def nbHand (s : State) (cl : Nat) (r : RluOp) (first : Nat) : State :=
  if 1 < r.hs then s.setRop cl { r with hs := r.hs - 1 }
  else if r.hs = 1 then nbFetch s cl r
  else match nbIndex s r (first + r.nbr) with
    | (none, u) => u
    | (some id, u) =>
      let r := { r with ids := r.ids.put (256 * r.issued + r.nbr) id }
      let n := if (rTAB r.b).noRow id then 1 else (rTAB r.b).words
      if r.nbr % 16 = 0 then u.setRop cl { r with hs := n }
      else if n = 1 then nbFetch u cl r
      else u.setRop cl { r with hs := n - 1 }

/-- A handshake for a node: its offset pair, then its neighbours (R219, R223); a node that takes none is done at once. -/
def nbHandshake (s : State) (cl : Nat) (r : RluOp) (id : Nat) : State :=
  let i := r.issued
  match SMap.find r.nodes i with
  | some nd => nbHand s cl r nd.1
  | none =>
    let s := nbIssue s cl r i id
    if halted s r.core then s
    else
      let r := ropNow s cl r
      if (SMap.get (0, 0, false) r.nodes i).2.1 ≠ 0 then s
      else nbNode (s.setRop cl { r with issued := i + 1 }) cl { r with issued := i + 1 } i

/-- The overflow pass as it goes: budget left, whether it goes on, and of the entry in hand the edges handled, the edges left
of the list fetched, the partial row and the edges combined. -/
structure LaneWork where
  budget : Nat
  on : Bool
  handled : Nat
  inList : Nat
  parts : List Acc
  n : Nat

/-- Up to m edges from e worked within the budget (R225): a list fetch takes one handshake and starts while two are left, a
neighbour takes those of its row, or one where its index names none (R219). None where a read fails. -/
def laneEdges (cl : Nat) (r : RluOp) : Nat → Nat → LaneWork → State → Option LaneWork × State
  | 0, _, w, s => (some w, s)
  | m + 1, e, w, s =>
    if w.inList = 0 ∧ w.budget < 2 then (some { w with on := false }, s)
    else
      let w := if w.inList = 0 then { w with budget := w.budget - 1, inList := 16 } else w
      match nbIndex s r e with
      | (none, u) => (none, u)
      | (some id, u) =>
        let cost := if (rTAB r.b).noRow id then 1 else (rTAB r.b).words
        if w.budget < cost then (some { w with on := false }, u)
        else
          let w := { w with budget := w.budget - cost, inList := w.inList - 1, handled := w.handled + 1 }
          match nbRow u cl r id with
          | (none, v) => (none, v)
          | (some none, v) => laneEdges cl r m (e + 1) w v
          | (some (some row), v) =>
            laneEdges cl r m (e + 1)
              { w with parts := nbCombine (nbRED r.b) (fmtFloat (rTAB r.b).fmt) w.parts w.n row, n := w.n + 1 } v

/-- One lane entry worked and its node written. -/
def laneEntry (cl : Nat) (r0 : RluOp) (st : State × Nat × Bool) (en : LaneEntry) : State × Nat × Bool :=
  let s := st.1
  if halted s r0.core then st else
  let r := ropNow s cl r0
  let p := SMap.get ([], 0) r.parts en.pos
  let w : LaneWork := ⟨st.2.1, st.2.2, 0, 0, p.1, p.2⟩
  match (if st.2.2 then laneEdges cl r (en.last - en.first) en.first w s else (some w, s)) with
  | (none, u) => (u, 0, false)
  | (some w, u) =>
    let r := { r with excess := r.excess + (en.last - en.first - w.handled), parts := SMap.erase r.parts en.pos }
    (nbWrite (u.setRop cl r) cl r en.pos w.parts w.n, w.budget, w.on)

/-- Every node of the main pass has been issued and returned. -/
def mainDone (s : State) (r : RluOp) : Bool := relUnits s r = some r.issued && r.outst.isEmpty

/-- OVERFLOW_PASS: the lane worked in order within the budget (R225). -/
def overflowPass (s : State) (cl k : Nat) : State :=
  match (s.cluster cl).rops[k]? with
  | none => s
  | some r =>
    if halted s r.core || r.opc != 0x09 || rSUB r.b != 1 || r.laneDone || !mainDone s r then s
    else
      let i := injected s 0x0F cl
      let budget := if i.1 then 0 else nbBUDGET r.b
      let q := r.lane.foldl (laneEntry cl r) (i.2, budget, decide (0 < budget))
      if halted q.1 r.core then q.1 else q.1.setRop cl { ropNow q.1 cl r with laneDone := true, lane := [] }

/-! ### Issue and return of gathers (R199, R208, R209) -/

/-- Everything that an operation which takes its input as a whole reads from its streams has been delivered. -/
def relData (s : State) (r : RluOp) : Bool :=
  let b := r.b
  let codes (n : Nat) : Bool := (relStream s r (wSAGA r.w) 0 (n * (fmtBits (wFMTA r.w) / 8))).isSome
  match r.opc with
  | 0x0B => codes (rN b * (rTAB b).rlen) && (relStream s r (wSAGAUX r.w) 0 (4 * rN b)).isSome
  | 0x0C => codes (tkLEN b * tkNRUN b)
  | 0x0D => codes (bits b 256 16 + 1)
  | 0x0E => codes (knNQ b * (rTAB b).rlen)
  | 0x10 => codes (blNQ b * (rTAB b).rlen)
  | _ => true

/-- The operation can use a handshake: for its next unit, once that has been delivered and a slot is free; or for an operation
without gathers, once its input is there (log 101). -/
def canIssue (s : State) (r : RluOp) : Bool :=
  let j := r.issued
  if halted s r.core then false
  else if r.opc = 0x09 ∨ r.opc = 0x0A then
    decide (r.outst.length < rWIN r.b) &&
    match relUnits s r with
    | none => false
    | some m =>
      decide (j < m) &&
      if r.opc = 0x09 then (relStream s r (wSAGAUX r.w) (if rSUB r.b = 0 then 4 * j else 64 + 4 * j) 4).isSome
      else
        let rb := (rTAB r.b).rlen * fmtBits (wFMTA r.w) / 8
        (relStream s r (wSAGAUX r.w) (4 * j) 4).isSome && (relStream s r (wSAGA r.w) (j * rb) rb).isSome
  else decide (r.hs < relTotal r) && relData s r

/-- Rows that have come back are written in index order (R208); no bytes stand for a row of zero codes. -/
def flushRows (cl : Nat) (r0 : RluOp) : Nat → State → State
  | 0, s => s
  | n + 1, s =>
    let r := ropNow s cl r0
    if halted s r.core then s
    else match SMap.find r.back r.wrote with
      | none => s
      | some row =>
        let j := r.wrote
        let t := rTAB r.b
        let r := { r with back := SMap.erase r.back j, wrote := j + 1 }
        flushRows cl r0 n (relOutRow (s.setRop cl r) cl r (relRowAddr s r j) (if row.isEmpty then zeroRow t else plainRow (tabRow t row)))

/-- A row of GATHER ROWS has come back. -/
def rowBack (s : State) (cl : Nat) (r : RluOp) (j : Nat) (row : Bytes) : State :=
  let r := { r with back := r.back.put j row }
  flushRows cl r (rWIN r.b + r.back.length) (s.setRop cl r)

/-- The last handshake of an index: its gather is outstanding; one that names no row has none (R206). -/
def unitIssued (s : State) (cl : Nat) (r : RluOp) (id : Nat) : State :=
  let j := r.issued
  let r := { r with hs := 0, issued := j + 1 }
  if (rTAB r.b).noRow id then
    let s := if id = nullIndex then s else countOor s cl 1
    if r.opc = 0x09 then rowBack s cl r j [] else s.setRop cl r
  else s.setRop cl { r with outst := r.outst ++ [j] }

/-- One handshake of an operation (R199, R219). -/
def issueUnit (s : State) (cl : Nat) (r : RluOp) : State :=
  let j := r.issued
  let t := rTAB r.b
  if r.opc ≠ 0x09 ∧ r.opc ≠ 0x0A then s.setRop cl { r with hs := r.hs + 1 }
  else
    let nbr := decide (r.opc = 0x09) && decide (rSUB r.b = 1)
    let id := bytesToNat ((relStream s r (wSAGAUX r.w) (if nbr then 64 + 4 * j else 4 * j) 4).getD [])
    if nbr then nbHandshake s cl r id
    else if 1 < r.hs then s.setRop cl { r with hs := r.hs - 1 }
    else if r.hs = 1 then unitIssued s cl r id
    else
      let n := if t.noRow id then 1 else if r.opc = 0x09 then t.words else 2 * t.words
      if n ≤ 1 then unitIssued s cl r id else s.setRop cl { r with hs := n - 1 }

/-- RLU_GATHER_ISSUE: one handshake to the next operation in round-robin order that can use it. -/
def gatherIssue (s : State) (cl : Nat) : State :=
  let k := s.cluster cl
  let n := k.rops.length
  match ((List.range n).map (fun i => (k.rr + i) % n)).find? (fun i =>
      match k.rops[i]? with
      | some r => canIssue s r
      | none => false) with
  | none => s
  | some i =>
    match k.rops[i]? with
    | none => s
    | some r => issueUnit (s.setCluster cl { k with rr := i + 1 }) cl r

/-- A scattered row combined with its table row (R209): new row bytes, and the channels whose sum overflowed. The greater value
is stored by its code, a NaN by its format's canonical one (R94). -/
def scatterRow (b w : Nat) (old v : Bytes) : Bytes × List Nat :=
  let t := rTAB b
  let f := wFMTA w
  (List.range t.rlen).foldl (fun (st : Bytes × List Nat) i =>
    let x := elemVal f (elemCode f v i) 0
    if t.acc then
      (st.1 ++ natToBytes 8 (unsigned 64 (signed 48 (leAt old (8 * i) 6) + x.q.floor)), st.2)
    else
      let o := elemVal t.fmt (elemCode t.fmt old i) 0
      if rSUB b = 0 then
        let r := poolAdd o x
        (st.1 ++ natToBytes 4 r.1.code32, if r.2.2 then st.2 ++ [i] else st.2)
      else
        let code := if o.isNaN || x.isNaN then canonNaN f else if o.lt x then elemCode f v i else elemCode t.fmt old i
        (st.1 ++ natToBytes (fmtBits t.fmt / 8) code, st.2)) ([], [])

/-- A scattered row read, combined and written back (R209, R210). -/
def scatterReturn (s : State) (cl : Nat) (r : RluOp) (u a : Nat) (row : Bytes) : State :=
  let rb := (rTAB r.b).rlen * fmtBits (wFMTA r.w) / 8
  let q := scatterRow r.b r.w row ((relStream s r (wSAGA r.w) (u * rb) rb).getD [])
  let s := (s.setRop cl (q.2.foldl (fun r ch => relSat r ch 1) r)).addF (rluBase cl) RLU_SAT_CNT_COUNT q.2.length
  relWrite s r a q.1

/-- RLU_GATHER_RETURN: the j-th gather outstanding of the k-th operation returns. -/
def gatherReturn (s : State) (cl k j : Nat) : State :=
  match (s.cluster cl).rops[k]? with
  | none => s
  | some r =>
    match r.outst[j]? with
    | none => s
    | some u =>
      if halted s r.core then s
      else
      let t := rTAB r.b
      let nbr := decide (r.opc = 0x09) && decide (rSUB r.b = 1)
      let r := { r with outst := r.outst.eraseIdx j }
      let s := s.setRop cl r
      let id := if nbr then SMap.get nullIndex r.ids u else bytesToNat ((relStream s r (wSAGAUX r.w) (4 * u) 4).getD [])
      let a := t.base + t.pitch * id
      match relRead s r a t.rowBytes with
      | (none, v) => v
      | (some row, v) =>
        let v := v.addF (rluBase cl) RLU_GATHERS_COUNT 1
        if nbr then nbBack v cl r u row
        else if r.opc = 0x09 then rowBack v cl r u row
        else scatterReturn v cl r u a row

/-! ### Order, selection, points (R211 to R218) -/

/-- Strictly less under Table 6.5: NaN greatest, all NaNs equal. -/
def ordLt (a b : FV) : Bool := if a.isNaN then false else if b.isNaN then true else a.lt b

/-- Stable insertion by a strict order. -/
def insertBy {α : Type} (lt : α → α → Bool) (x : α) : List α → List α
  | [] => [x]
  | y :: t => if lt y x then y :: insertBy lt x t else x :: y :: t

/-- Stable sort by a strict order. -/
def sortBy {α : Type} (lt : α → α → Bool) : List α → List α
  | [] => []
  | x :: t => insertBy lt x (sortBy lt t)

/-- A record of two 32-bit words. -/
def record (lo hi : Nat) : Bytes := natToBytes 4 lo ++ natToBytes 4 hi

/-- TOPK: the records of one run (R213). -/
def topkRun (b f : Nat) (codes : List Nat) : Bytes :=
  let items := (codes.zip (List.range codes.length)).map (fun p => (elemVal f p.1 0, p.1, p.2))
  let lt (x y : FV × Nat × Nat) : Bool := if bit b 262 then ordLt x.1 y.1 else ordLt y.1 x.1
  let sorted := sortBy lt items
  (List.range (tkK b)).flatMap (fun i => match sorted[i]? with
    | some x => record x.2.2 x.2.1
    | none => record nullIndex 0)

/-- SORT: the records of all keys (R214). -/
def sortKeys (b f : Nat) (codes : List Nat) : Bytes :=
  let items := (codes.zip (List.range codes.length)).map (fun p => (elemVal f p.1 0, p.1, p.2))
  let lt (x y : FV × Nat × Nat) : Bool := if bit b 272 then ordLt y.1 x.1 else ordLt x.1 y.1
  (sortBy lt items).flatMap (fun x => record x.2.1 x.2.2)

/-- The squared distance of R215. -/
def distance (q p : List FV) : FV :=
  if q.any FV.isNaN || p.any FV.isNaN then .nan
  else
    let sq := (q.zip p).map (fun x => let d := FV.sum [x.1, x.2.neg]; if d.1.isFin then (d.1.mul d.1).1 else .inf false)
    (FV.sum sq).1.fp32.1

/-- KNN: the records of one query (R216). -/
def knnQuery (b qi : Nat) (q : List FV) (pts : List (List FV)) : Bytes :=
  let items := ((pts.zip (List.range pts.length)).filter (fun p => !(bit b 261 && p.2 = qi))).map (fun p => (distance q p.1, p.2))
  let sorted := sortBy (fun (x y : FV × Nat) => ordLt x.1 y.1) items
  (List.range (knK b)).flatMap (fun i => match sorted[i]? with
    | some x => record x.2 x.1.code32
    | none => record nullIndex (infCode 0xB false))

/-- Less for FPS: a NaN distance ranks below every finite one. -/
def fpsLt (a b : FV) : Bool := if b.isNaN then false else if a.isNaN then true else a.lt b

/-- FPS: the points selected after `sel`, newest first, m more (R217). `ds` holds each point's least distance to the
selected set. -/
def fpsMore (pts : List (List FV)) : Nat → List Nat → List FV → List Nat
  | 0, _, _ => []
  | m + 1, sel, ds =>
    let best := (List.range pts.length).foldl (fun (a : Option Nat) i =>
      if sel.contains i then a else
      match a with
      | none => some i
      | some j => if fpsLt (ds.getD j .nan) (ds.getD i .nan) then some i else some j) none
    match best with
    | none => nullIndex :: fpsMore pts m sel ds
    | some i =>
      let p := pts.getD i []
      let ds' := (ds.zip pts).map (fun x => let d := distance p x.2; if ordLt d x.1 then d else x.1)
      i :: fpsMore pts m (i :: sel) ds'

/-- BALL: the indices of one query (R218). -/
def ballQuery (b : Nat) (q : List FV) (pts : List (List FV)) : Bytes :=
  let rad := floatElem 0xB (bits b 288 32)
  let hits := ((pts.zip (List.range pts.length)).filter (fun p =>
    let d := distance q p.1
    !d.isNaN && !rad.isNaN && !(rad.lt d) || (d.isZero && rad.isZero))).map (·.2)
  (List.range (blNS b)).flatMap (fun i => natToBytes 4 (match hits[i]? with
    | some x => x
    | none => if bit b 265 then hits.headD nullIndex else nullIndex))

/-- The points of the table, or none with the fault of a row that cannot be read. -/
def readPoints (s : State) (r : RluOp) : Option (List (List FV)) × State :=
  let t := rTAB r.b
  fetchAll (fun u i => match relRead u r (t.base + t.pitch * i) t.rowBytes with
    | (none, v) => (none, v)
    | (some row, v) => (some ((List.range t.rlen).map (fun j => rowVal t row j)), v)) s (List.range t.nrows)

/-- n values of FMT_A from position at0 (in elements) of SAG_A, none while they have not been delivered. -/
def relCodes (s : State) (r : RluOp) (at0 n : Nat) : Option (List Nat) :=
  let f := wFMTA r.w
  let w := fmtBits f / 8
  (relStream s r (wSAGA r.w) (at0 * w) (n * w)).map (fun b => (List.range n).map (elemCode f b))

/-! ### SEGMENT (R211) -/

/-- The state of a SEGMENT's walk: the results by segment (partial row, rows combined), the present run, the descents
and out-of-range identifiers. -/
structure SegWalk where
  res : SMap (List Acc × Nat)
  cur : Option (Nat × List Acc × Nat)
  desc : Nat
  oor : Nat

/-- One value row taken into the walk. -/
def segStep (sub : Nat) (flt : Bool) (base nseg : Nat) (st : SegWalk) (id : Nat) (row : List (Nat × FV)) : SegWalk :=
  let red := if sub = 1 then 2 else 1
  if id = nullIndex then st
  else if id < base ∨ base + nseg ≤ id then { st with oor := st.oor + 1 }
  else
    let fresh (d : Nat) (res : SMap (List Acc × Nat)) : SegWalk :=
      { st with res := res, cur := some (id, nbCombine red flt [] 0 row, 1), desc := st.desc + d }
    match st.cur with
    | none => fresh 0 st.res
    | some (c, parts, n) =>
      if id = c then { st with cur := some (c, nbCombine red flt parts n row, n + 1) }
      else fresh (if id < c then 1 else 0) (st.res.put c (parts, n))

/-- SEGMENT as a whole: every output row. -/
def segmentRows (s : State) (cl : Nat) (r : RluOp) : State :=
  let b := r.b
  let f := wFMTA r.w
  let rl := (rTAB b).rlen
  let rb := rl * fmtBits f / 8
  let n := rN b
  let flt := fmtFloat f
  let a := (relStream s r (wSAGA r.w) 0 (n * rb)).getD []
  let ids := (relStream s r (wSAGAUX r.w) 0 (4 * n)).getD []
  let w := (List.range n).foldl (fun st j =>
    let row := slice a (j * rb) rb
    segStep (rSUB b) flt (sgBASE b) (sgNSEG b) st (leAt ids (4 * j) 4)
      ((List.range rl).map (fun i => (elemCode f row i, elemVal f (elemCode f row i) 0)))) (⟨[], none, 0, 0⟩ : SegWalk)
  let res := match w.cur with
    | some (c, p, k) => w.res.put c (p, k)
    | none => w.res
  let s := (countOor s cl w.oor).addF (rluBase cl) RLU_DISORDER_CNT_COUNT w.desc
  let empty : FV := if rSUB b = 1 then
      (if flt then floatElem 0xB (bits b 328 32) else FV.ofQ (Q.ofInt (signed 32 (bits b 328 32))) false)
    else .fin false ⟨0, 1⟩
  whileRunning r.core (fun t q =>
    let vals := match SMap.find res (sgBASE b + q) with
      | some (p, k) => nbFinish (if rSUB b = 1 then 2 else if rSUB b = 2 then 3 else 1) flt p k rl
      | none => List.replicate rl (0, empty, false)
    relOutRow t cl (ropNow t cl r) (relRowAddr t r q) (recode (wFMTOUT r.w) vals)) s (List.range (sgNSEG b))

/-! ### Completion (R202, R232) -/

/-- The operation has read what it reads and used its handshakes. -/
def relReady (s : State) (r : RluOp) : Bool :=
  if r.opc = 0x09 ∨ r.opc = 0x0A then mainDone s r && (rSUB r.b = 0 || r.opc != 0x09 || r.lane.isEmpty || r.laneDone)
  else relData s r && r.hs = relTotal r

/-- The output of an operation that is computed as a whole. -/
def relCompute (s : State) (cl : Nat) (r : RluOp) : State :=
  let b := r.b
  let f := wFMTA r.w
  let out (t : State) (j : Nat) (v : Bytes) : State := relStore t r (relRowAddr t r j) v
  let codes (at0 n : Nat) : List Nat := (relCodes s r at0 n).getD []
  let query (j d : Nat) : List FV := (codes (j * d) d).map (fun c => elemVal f c 0)
  match r.opc with
  | 0x0B => segmentRows s cl r
  | 0x0C => (List.range (tkNRUN b)).foldl (fun t j => out t j (topkRun b f (codes (j * tkLEN b) (tkLEN b)))) s
  | 0x0D => out s 0 (sortKeys b f (codes 0 (bits b 256 16 + 1)))
  | 0x0E =>
    match readPoints s r with
    | (none, t) => t
    | (some pts, t) => (List.range (knNQ b)).foldl (fun u j => out u j (knnQuery b j (query j (rTAB b).rlen) pts)) t
  | 0x0F =>
    match readPoints s r with
    | (none, t) => t
    | (some pts, t) =>
      let p0 := pts.getD (fpSTART b) []
      let sel := fpSTART b :: fpsMore pts (fpM b - 1) [fpSTART b] (pts.map (distance p0))
      out t 0 (sel.flatMap (natToBytes 4))
  | 0x10 =>
    match readPoints s r with
    | (none, t) => t
    | (some pts, t) => (List.range (blNQ b)).foldl (fun u j => out u j (ballQuery b (query j (rTAB b).rlen) pts)) t
  | _ => s

/-- History pairs of the frame written (R232): the larger MAXABS kept if the frame wrote the pair before. A scatter converts
nothing. -/
def relHistory (s : State) (r : RluOp) : State :=
  let b := r.b
  if rCMODE b ≠ 1 ∨ r.opc = 0x0A ∨ (s.core r.core).dark then s else
  match relBlock s r with
  | (none, t) => t
  | (some blk, t) =>
    if blk = 255 then t
    else whileRunning r.core (fun t p =>
      let a := relRecord r blk p.1
      match relRead t r a 64 with
      | (none, u) => u
      | (some v, u) =>
        let rec_ := bytesToNat v
        let old := histPair rec_ (r.seq % 8)
        let mx := if old.2 = r.seq ∧ !bit old.1 31 ∧ p.2.maxAbs.lt (floatElem 0xB old.1) then old.1 else p.2.maxAbs.code32Up
        relWrite u r a (natToBytes 64 (histWrite rec_ r.seq mx
          (decide (rUFLTHR b < p.2.ufl) && !decide (rSATTHR b < p.2.sat))))) t r.chst

/-- Excess edges and nodes at the end of a GATHER NBR (R223, R227). -/
def nbExcess (s : State) (cl : Nat) (r : RluOp) : State :=
  if r.opc ≠ 0x09 ∨ rSUB r.b ≠ 1 then s else
  let n := (nbCount s r).getD 0
  let excess := n - nbNNODE r.b
  let s := countOor s cl excess
  if r.excess = 0 ∧ excess = 0 then s else
  let s := s.addF (rluBase cl) RLU_TRUNC_CNT_COUNT r.excess
  let s := s.setCore r.core { s.core r.core with ftrunc := true }
  if nbPOL r.b then
    let o := wSAGOUT r.w
    let s := (List.range (min n (nbNNODE r.b))).foldl (fun (t : State) (i : Nat) =>
      if nbRED r.b = 0 then
        (List.range (nbBOUND r.b 0)).foldl (fun (u : State) (j : Nat) => relZero u r
          (sagOrigin u r.core o + (i : Int) * sagStride u r.core o 2 + (j : Int) * sagStride u r.core o 1)) t
      else relZero t r (relRowAddr t r i)) s
    if r.valid then abortFrame s r.slot r.seq else s
  else s

/-- What an operation leaves its core when it completes: its counts of the frame, the frame's flags, its macro-operation done;
its slots are free (R198, R202, R232). -/
def relLeave (s : State) (cl : Nat) (r : RluOp) : State :=
  let x := s.core r.core
  let s := s.setCore r.core { x with
    relFr := x.relFr.put r.pcAt (r.bkt, r.chst)
    fsat := x.fsat || r.chst.any (fun p => decide (rSATTHR r.b < p.2.sat))
    fufl := x.fufl || r.chst.any (fun p => decide (rUFLTHR r.b < p.2.ufl))
    ops := x.ops.map (fun o => if o.num = r.num then { o with done := true } else o) }
  s.setCluster cl (dropRops (s.cluster cl) (fun q => q.core = r.core ∧ q.num = r.num))

/-- RLU_OP_COMPLETE: the k-th accepted operation completes; a fault on the way ends it (R86). -/
def rluComplete (s : State) (cl k : Nat) : State :=
  match (s.cluster cl).rops[k]? with
  | none => s
  | some r0 =>
    if halted s r0.core || !relReady s r0 then s
    else
      let s := relCompute s cl r0
      if halted s r0.core then s
      else
        let r := ropNow s cl r0
        let s := relHistory s r
        if halted s r.core then s
        else
          let s := nbExcess s cl r
          if halted s r.core then s else relLeave s cl r

/-! ### The meanings -/

def execGather (c : Fin 128) (s : State) : Host.Outcome State Fault Refusal := live s (awaited s (relIssue s c 0x09))
def execScatter (c : Fin 128) (s : State) : Host.Outcome State Fault Refusal := live s (awaited s (relIssue s c 0x0A))
def execSegment (c : Fin 128) (s : State) : Host.Outcome State Fault Refusal := live s (awaited s (relIssue s c 0x0B))
def execTopk (c : Fin 128) (s : State) : Host.Outcome State Fault Refusal := live s (awaited s (relIssue s c 0x0C))
def execSort (c : Fin 128) (s : State) : Host.Outcome State Fault Refusal := live s (awaited s (relIssue s c 0x0D))
def execKnn (c : Fin 128) (s : State) : Host.Outcome State Fault Refusal := live s (awaited s (relIssue s c 0x0E))
def execFps (c : Fin 128) (s : State) : Host.Outcome State Fault Refusal := live s (awaited s (relIssue s c 0x0F))
def execBall (c : Fin 128) (s : State) : Host.Outcome State Fault Refusal := live s (awaited s (relIssue s c 0x10))
def execRluAccept (cl : Fin 16) (s : State) : Host.Outcome State Fault Refusal := live s (rluAccept s cl)
def execRluGatherIssue (cl : Fin 16) (s : State) : Host.Outcome State Fault Refusal := live s (awaited s (gatherIssue s cl))
def execRluGatherReturn (cl : Fin 16) (k j : Nat) (s : State) : Host.Outcome State Fault Refusal := live s (awaited s (gatherReturn s cl k j))
def execOverflowPass (cl : Fin 16) (k : Nat) (s : State) : Host.Outcome State Fault Refusal := live s (awaited s (overflowPass s cl k))
def execRluOpComplete (cl : Fin 16) (k : Nat) (s : State) : Host.Outcome State Fault Refusal := live s (awaited s (rluComplete s cl k))

end Sys2Proof.Machine
end

