-- ==== Sys2Proof/Machine/History.lean ====
section
/-! DEFINITION. History areas as the steward sees them (R145, R231, Table 12.4 step 7, Table 12.6 step 6): the slot maps
and records of the PPUs of a plan's cores, and of the relation operations their stage programs name. -/

namespace Sys2Proof.Machine
open Sys2Proof
open Sys2Proof.Machine.Reg

/-- Word i of the stage-program store of a core. -/
def progWord (s : State) (c i : Nat) : Nat :=
  let a := coreWin c + 0x10000 + 16 * i
  s.reg a + s.reg (a + 4) * 2 ^ 32 + s.reg (a + 8) * 2 ^ 64 + s.reg (a + 12) * 2 ^ 96

/-- The slot map, records and channels of the relation operations with CMODE 1 in a core's stage program (R230, R231):
device addresses of the map and of block 0, and records in a block. -/
def relAreas (s : State) (c : Nat) : List (Nat × Nat × Nat) :=
  (List.range 1024).filterMap (fun i =>
    let w := progWord s c i
    if wOPC w = 0x09 ∨ wOPC w = 0x0B then
      let b := peekBlock s c w
      let m := clusterMem (c / 8)
      if rCMODE b = 1 then some (m + 64 * rHMAP b, m + 64 * rHBASE b, (rTAB b).rlen) else none
    else none)

/-- The slot map, records and channels of the PPUs of a core that keep a history (R142). -/
def ppuAreas (s : State) (c : Nat) : List (Nat × Nat × Nat) :=
  (List.range 8).filterMap (fun e =>
    let b := ppuBase c e
    if s.getF b PPU_CTRL_RSMODE = 2 then
      some (scratchWin c + 64 * s.getF b PPU_HMAP_BASE, scratchWin c + 64 * s.getF b PPU_HIST_BASE,
        s.getF b PPU_NCH_COUNT + 1)
    else none)

/-- Every history area of a plan, in any of its configurations. -/
def histAreas (s : State) (p : Nat) : List (Nat × Nat × Nat) :=
  let x := s.plan p
  ((planConfigs x.img).flatMap (fun cfg =>
    let v := viewAs s x cfg
    (heldCores s p).flatMap (fun c => ppuAreas v c ++ relAreas v c))).eraseDups

/-- Bytes of on-chip SRAM read by the steward: an uncorrectable read is logged, and answers none (R289, R561). -/
def stewardBytes (s : State) (a len : Nat) : Option Bytes × State :=
  match bankRead s a len with
  | (.inr b, t) => (some b, t)
  | (.inl w, t) => (none, logUncorrectable t w 5 0xFF)

/-- On-chip SRAM written by the steward: a merge that meets an uncorrectable word is logged (R286, R289). -/
def stewardWrite (s : State) (a : Nat) (b : Bytes) : State :=
  match sramMerge s a b with
  | (none, t) => t
  | (some w, t) => logUncorrectable t w 5 0xFF

/-- Each record of a stream's block in an area changed. A slot map that the steward cannot read names no block, and a record it
cannot read stays as it is (log 114, DESIGN CHOICE). -/
def eachRecord (s : State) (slot : Nat) (a : Nat × Nat × Nat) (f : Nat → Nat) : State :=
  let q := stewardBytes s (a.1 + slot) 1
  let b := match q.1 with
    | some v => bytesToNat v
    | none => 255
  if b = 255 then q.2
  else (List.range a.2.2).foldl (fun t j =>
    let r := a.2.1 + 64 * (b * a.2.2 + j)
    match stewardBytes t r 64 with
    | (some v, u) => stewardWrite u r (natToBytes 64 (f (bytesToNat v)))
    | (none, u) => u) q.2

/-- The pair of a record that a frame wrote made invalid. -/
def forgetPair (seq rec_ : Nat) : Nat :=
  if (histPair rec_ (seq % 8)).2 = seq then setBits rec_ (64 * (seq % 8) + 31) 1 1 else rec_

/-- Every pair that a frame wrote in its stream's blocks is invalidated. -/
def forgetFrame (s : State) (p slot seq : Nat) : State :=
  (histAreas s p).foldl (fun t a => eachRecord t slot a (forgetPair seq)) s

/-- Every pair of a stream's blocks is invalidated, and its slot-map bytes read 0xFF (R48, R231). -/
def forgetStream (s : State) (p slot : Nat) : State :=
  (histAreas s p).foldl (fun t a => stewardWrite (eachRecord t slot a histInvalid) (a.1 + slot) [255]) s

/-- The slot-map bytes of a stream written at STREAM_OPEN (R145, R231). -/
def mapStream (s : State) (p slot blk : Nat) : State :=
  (histAreas s p).foldl (fun t a => stewardWrite t (a.1 + slot) [BitVec.ofNat 8 blk]) s

/-- One entry of the pairs the steward still has to invalidate. -/
def purgeOne (s : State) (e : Nat × Nat × Nat) : State :=
  if e.2.2 = 2 ^ 32 then forgetStream s e.1 e.2.1 else forgetFrame s e.1 e.2.1 e.2.2

/-- The pending pairs of a plan invalidated. -/
def purgePlan (s : State) (p : Nat) : State :=
  let l := s.purge.filter (fun e => e.1 = p)
  l.foldl purgeOne { s with purge := s.purge.filter (fun e => e.1 ≠ p) }

/-- The pending pairs of a stream invalidated. -/
def purgeStream (s : State) (p k : Nat) : State :=
  let l := s.purge.filter (fun e => e.1 = p && e.2.1 = k)
  l.foldl purgeOne { s with purge := s.purge.filter (fun e => !(e.1 = p && e.2.1 = k)) }

end Sys2Proof.Machine
end

