-- ==== Sys2Proof/Machine/Ingest.lean ====
section
/-! DEFINITION. Frame rings and ingest FIFOs (R340 to R350, R412 to R416) and the feeders (R351 to R358). -/

namespace Sys2Proof.Machine
open Sys2Proof
open Sys2Proof.Machine.Reg

/-! ### Occupancy and space -/

/-- The ring of a FIFO in bytes (R340). -/
def fifSize (s : State) (k : Nat) : Nat := 4096 * (s.getF (fifBase k) FIF_CFG_SIZE + 1)

/-- Bytes held, padding included. -/
def fifOcc (s : State) (k : Nat) : Nat := (s.fifo k).wr - (s.fifo k).rd

/-- The frame open on the write side (R341). -/
def fifOpenFrame (s : State) (k : Nat) : Option FFrame := ((s.fifo k).frames.getLast?).filter (fun f => !f.closed)

/-- Space reserved for pull requests and relay credits (R343, R344). -/
def fifReserved (s : State) (k : Nat) : Nat :=
  (match fifOpenFrame s k with | some f => (s.fifo k).asked - f.got | none => 0) + (s.fifo k).granted

/-- Bytes a push write may take now. -/
def fifFree (s : State) (k : Nat) : Nat := fifSize s k - fifOcc s k - fifReserved s k

/-- Words of a frame. -/
def FFrame.words64 (f : FFrame) : Nat := ceilDiv f.len 64

/-- A status flag of a FIFO raised (R348, R342, R343). -/
def fifFlag (s : State) (k : Nat) (f : Fld) : State := fifPend (s.setF (fifBase k) f 1) k

/-- The write position moves: a rise to FIF_LEVEL or above sets LVL_INT (R348). -/
def fifAdvance (s : State) (k n : Nat) : State :=
  let x := s.fifo k
  let lvl := s.getF (fifBase k) FIF_LEVEL_BYTES
  let before := x.wr - x.rd
  let s := s.setFifo k { x with wr := x.wr + n }
  if lvl ≠ 0 ∧ before < lvl ∧ lvl ≤ before + n then fifFlag s k FIF_STATUS_LVL_INT else s

/-- Ring storage written from a FIFO position. -/
def fifStore (s : State) (k pos : Nat) (b : Bytes) : State :=
  let n := fifSize s k
  let a := hubSram + 0x10000 * k
  let first := n - pos % n
  (s.putBytes (a + pos % n) (b.take first)).putBytes a (b.drop first)

/-- Ring storage read from a FIFO position. -/
def fifLoad (s : State) (k pos len : Nat) : Bytes :=
  let n := fifSize s k
  let a := hubSram + 0x10000 * k
  (List.range len).map (fun i => s.byteAt (a + (pos + i) % n))

/-- The last frame of the FIFO replaced. -/
def fifSetLast (s : State) (k : Nat) (f : FFrame) : State :=
  let x := s.fifo k
  s.setFifo k { x with frames := x.frames.dropLast ++ [f] }

/-- The stored words of a frame end on a word: the position after them. -/
def FFrame.stop (f : FFrame) : Nat := f.base + 64 * ceilDiv f.got 64

/-- Frames at the head whose words have all been handed out, or that a flush dropped, leave the FIFO. -/
def fifClean (s : State) (k : Nat) : State :=
  (List.range (s.fifo k).frames.length).foldl (fun t _ =>
    let x := t.fifo k
    match x.frames with
    | [] => t
    | f :: rest =>
      if f.closed && (f.drop || (f.seq.isSome && decide (f.words64 ≤ f.words))) then
        t.setFifo k { x with frames := rest, rd := max x.rd f.stop }
      else if f.drop then t.setFifo k { x with rd := x.wr }
      else t) s

/-- The partial word of a frame padded with zeros (R345). -/
def fifPad (s : State) (k : Nat) (f : FFrame) : State :=
  let pad := 64 * ceilDiv f.got 64 - f.got
  if (s.fifo k).wr % 64 = 0 then s else fifAdvance (fifStore s k (s.fifo k).wr (List.replicate pad 0)) k pad

/-! ### The write side -/

/-- A frame opens with its byte count (R341). -/
def fifOpen (s : State) (k : Nat) (f : FFrame) : State :=
  let x := s.fifo k
  let s := s.setFifo k { x with frames := x.frames ++ [{ f with base := x.wr }], pulls := [], asked := 0 }
  (s.setF (fifBase k) FIF_STATUS_OPEN 1).setF (fifBase k) FIF_REMAIN_BYTES f.len

/-- The open frame closes (R341, R345). Space granted to a relay source and not used stays granted (R470). -/
def fifClose (s : State) (k : Nat) : State :=
  match fifOpenFrame s k with
  | none => s
  | some f =>
    let b := fifBase k
    let s := fifPad s k f
    let s := fifSetLast s k { f with closed := true }
    let s := s.setFifo k { s.fifo k with pulls := [], asked := 0 }
    let s := ((s.setF b FIF_STATUS_OPEN 0).setF b FIF_REMAIN_BYTES 0).setF b FIF_LASTV_VALID (f.len % 64)
    fifClean (s.addF b FIF_FRAMES_COUNT 1) k

/-- Bytes accepted into the open frame, within REMAIN and the free space (R342). -/
def fifAccept (s : State) (k : Nat) (d : Bytes) : State :=
  match fifOpenFrame s k with
  | none => s
  | some f =>
    let b := fifBase k
    let s := fifStore s k (s.fifo k).wr d
    let s := fifSetLast s k { f with got := f.got + d.length }
    let s := (fifAdvance s k d.length).addF b FIF_BYTES_COUNT d.length
    let left := s.getF b FIF_REMAIN_BYTES - d.length
    let s := s.setF b FIF_REMAIN_BYTES left
    if left = 0 then fifClose s k else s

/-- The open frame is aborted on the write side (R342, R343, R416). -/
def fifSpoil (s : State) (k : Nat) : State :=
  match fifOpenFrame s k with
  | none => s
  | some f =>
    let s := fifSetLast (fifPad s k f) k { f with bad := true }
    match f.seq.bind (frameOf s k) with
    | some g => if g.held.isNone then setFrame s { g with flags := g.flags ||| 2 ^ fINGEST } else s
    | none => s

/-- A write discarded, with ERR where R342 sets it. -/
def fifDrop (s : State) (k : Nat) (err : Bool) : State :=
  let s := s.addF (fifBase k) FIF_DROPS_COUNT 1
  if err then fifFlag s k FIF_STATUS_ERR else s

/-- Bytes of one element (Table 9.10). -/
def fifElem (s : State) (k : Nat) : Nat := 2 ^ s.getF (fifBase k) FIF_CFG_ELEM

def fifSrc (s : State) (k : Nat) : Nat := s.getF (fifBase k) FIF_CFG_SRC

/-- Bytes for the open frame from a push write or a relay flit: beyond REMAIN they are discarded; an aborted frame
discards them all, and they count against REMAIN (R342). -/
def fifTake (s : State) (k : Nat) (d : Bytes) : State :=
  match fifOpenFrame s k with
  | none => fifDrop s k true
  | some f =>
    let b := fifBase k
    let rem := s.getF b FIF_REMAIN_BYTES
    let excess := decide (rem < d.length)
    if f.bad then
      let s := fifDrop s k excess
      let left := rem - d.length
      let s := s.setF b FIF_REMAIN_BYTES left
      if left = 0 then fifClose s k else s
    else
      let s := if excess then fifDrop s k true else s
      fifAccept s k (d.take rem)

/-- A write to the aperture of a slot (R342, R415). -/
def fifAperture (s : State) (k off : Nat) (d : Bytes) : State :=
  if d.isEmpty then s
  else if 128 < off + d.length ∨ d.length % fifElem s k ≠ 0 ∨ off % fifElem s k ≠ 0 ∨ fifSrc s k ≠ 0 then fifDrop s k true
  else match fifOpenFrame s k with
    | none => fifDrop s k true
    | some f =>
      if !f.bad && decide (fifFree s k < d.length) then
        fifSpoil (fifFlag (fifDrop s k false) k FIF_STATUS_OVF) k
      else fifTake s k d

/-- The stream slot is bound to a plan (R22). -/
def bound (s : State) (k : Nat) : Bool := (s.stream k).plan.isSome

/-- A write of FIF_CFG, FIF_LEVEL or FIF_ADMIT: ignored while the slot is bound (R349). -/
def fifConfigWrite (s : State) (k i v : Nat) : State := if bound s k then s else s.writeRW (fifBase k + 4 * i) v

/-! ### Pull (R343) -/

/-- Bytes of the next request: it ends on a multiple of the request size in host address. -/
def pullLen (s : State) (k : Nat) (f : FFrame) : Nat :=
  let sz := 256 * 2 ^ s.getF (fifBase k) FIF_CFG_MRRS
  let asked := (s.fifo k).asked
  min (f.len - asked) (sz - (fdINADDR f.desc + asked) % sz)

/-- PULL_REQUEST: issued only into unreserved space. -/
def pullRequest (s : State) (k : Nat) : State :=
  match fifOpenFrame s k with
  | none => s
  | some f =>
    let x := s.fifo k
    let n := pullLen s k f
    if fifSrc s k ≠ 1 ∨ f.bad ∨ n = 0 ∨ fifFree s k < n then s
    else
      (s.setFifo k { x with asked := x.asked + n, pulls := x.pulls ++ [⟨x.asked, n, none⟩] }).emit
        (.hostRead (fdINADDR f.desc + x.asked) n (relaxOn s))

/-- Requests at the front whose data are in are placed: occupancy advances over bytes with no earlier one missing. -/
def pullPlace (s : State) (k : Nat) : State :=
  (List.range (s.fifo k).pulls.length).foldl (fun t _ =>
    let x := t.fifo k
    match x.pulls with
    | ⟨_, n, some d⟩ :: rest => fifAccept (t.setFifo k { x with pulls := rest }) k (slice d 0 n)
    | _ => t) s

/-- Request i of the open frame is over without data. -/
def pullGone (s : State) (k i : Nat) : State :=
  let x := s.fifo k
  let s := s.setFifo k { x with pulls := x.pulls.eraseIdx i }
  if (s.fifo k).pulls.all (fun p => p.data.isSome) then fifClose s k else s

/-- PULL_COMPLETION and PULL_TIMEOUT: the data of request i of the open frame, none for an error status or a timeout. -/
def pullComplete (s : State) (k i : Nat) (d : Option Bytes) : State :=
  match fifOpenFrame s k, (s.fifo k).pulls[i]? with
  | some f, some p =>
    if p.data.isSome then s
    else if f.bad then pullGone s k i
    else
      let inj := injected s 0x0E k
      match (if inj.1 then none else d) with
      | none => pullGone (fifFlag (fifSpoil inj.2 k) k FIF_STATUS_PULL_ERR) k i
      | some b =>
        let x := inj.2.fifo k
        pullPlace (inj.2.setFifo k { x with pulls := x.pulls.set i { p with data := some (slice b 0 p.len) } }) k
  | _, _ => s

/-! ### Relay (R344, R470) -/

/-- FIFO space granted to the source module of the open relay frame, as far as the frame still needs it. -/
def fifGrant (s : State) (k : Nat) : State :=
  match fifOpenFrame s k with
  | none => s
  | some f =>
    match f.src with
    | none => s
    | some m =>
      let x := s.fifo k
      let n := min (fifFree s k) (s.getF (fifBase k) FIF_REMAIN_BYTES - x.granted)
      if f.bad || n = 0 then s
      else (flitSend (s.setFifo k { x with granted := x.granted + n })
        (mkFlit s 0x12 m 0 (natToBytes 4 k ++ natToBytes 4 n) [0])).2

/-! ### The read side (R346) -/

/-- Word i of a frame can be handed out: it is stored, or the frame was aborted and its missing bytes read as zero. -/
def wordReady (f : FFrame) (i : Nat) : Bool :=
  f.bad || decide (64 * (i + 1) ≤ f.got) || (f.closed && decide (i < f.words64))

/-- Word i of a frame (R416). -/
def wordAt (s : State) (k : Nat) (f : FFrame) (i : Nat) : Bytes :=
  if 64 * i < f.got then fifLoad s k (f.base + 64 * i) 64 else List.replicate 64 0

/-- The next word of the frame at place i is handed out. -/
def wordTaken (s : State) (k i : Nat) : State :=
  let x := s.fifo k
  match x.frames[i]? with
  | none => s
  | some f =>
    fifGrant (fifClean (s.setFifo k { x with
      frames := x.frames.set i { f with words := f.words + 1 }
      rd := max x.rd (min (f.base + 64 * (f.words + 1)) (if f.closed || f.bad then f.stop else f.base + f.got)) }) k) k

/-- The place of the frame whose word is the FIFO's next. -/
def nextFrame (s : State) (k : Nat) : Option Nat :=
  (s.fifo k).frames.findIdx? (fun f => !f.drop && decide (f.words < f.words64))

/-- The hub mover takes the FIFO's next word: none while it waits. The word comes with its valid-byte tag, 0 for a whole
word (R345, R346). -/
def fifWord (s : State) (k : Nat) : Option (Bytes × Nat × State) :=
  match nextFrame s k with
  | none => none
  | some i =>
    match (s.fifo k).frames[i]? with
    | none => none
    | some f =>
      if wordReady f f.words then
        some (wordAt s k f f.words, if f.words + 1 = f.words64 then f.len % 64 else 0, wordTaken s k i)
      else none

/-- Words the hub mover could take now, at most n. -/
def fifWords (s : State) (k : Nat) : Nat → Option (List (Bytes × Nat) × State)
  | 0 => some ([], s)
  | n + 1 =>
    match fifWord s k with
    | none => none
    | some (b, v, t) => (fifWords t k n).map (fun r => ((b, v) :: r.1, r.2))

/-- A frame in the FIFO holds frame data (R347). -/
def holdsData (s : State) (k : Nat) (f : FFrame) : Bool :=
  f.closed || decide (s.getF (fifBase k) FIF_ADMIT_BYTES ≤ f.got)

/-- The oldest frame not yet admitted. -/
def nextUnadmitted (s : State) (k : Nat) : Option FFrame := (s.fifo k).frames.find? (fun f => f.seq.isNone)

/-! ### Frame rings (R412 to R414) -/

/-- An index outside the ring, logged (R412). -/
def logRing (s : State) (k off v : Nat) : State :=
  logEvent s 0x1002 0xFF ((s.stream k).plan.getD 0xFF) (0x2000 + 0x10 * k + off) v k 0

/-- FR_TAIL_WRITE: the frame doorbell. -/
def frTailWrite (s : State) (k v : Nat) : State :=
  if !bound s k then s
  else if 2 ^ (s.stream k).rsize ≤ bits v 0 12 then logRing s k 0 v
  else s.setF (ringBase k) MBX_FR_TAIL_INDEX v

/-- RR_HEAD_WRITE: results consumed. -/
def rrHeadWrite (s : State) (k v : Nat) : State :=
  let x := s.stream k
  let n := 2 ^ x.rsize
  if !bound s k then s
  else if n ≤ bits v 0 12 then logRing s k 8 v
  else
    let used := (bits v 0 12 + n - s.getF (ringBase k) MBX_RR_HEAD_INDEX) % n
    (s.setF (ringBase k) MBX_RR_HEAD_INDEX v).setStream k { x with unread := x.unread - used }

/-- Frames fetched and not yet consumed from the result ring (R413). -/
def fetchedFrames (s : State) (k : Nat) : Nat :=
  (s.stream k).unread + ((s.fifo k).frames.filter (fun f => f.seq.isNone)).length +
    (s.frames.filter (fun f => f.slot = k && !f.aborted)).length

/-- NOTRUN with its reason in the result flags (Table 11.15). -/
def fNotrun (reason : Nat) : Nat := 2 ^ fNOTRUN + reason * 2 ^ 10

/-- A descriptor that breaks no rule of Table 11.14; its reserved bits are ignored (R13). -/
def descOk (s : State) (k : Nat) (d : Bytes) : Bool :=
  let n := fdINLEN d
  decide (1 ≤ n) && decide (n ≤ 67108864) && n % fifElem s k = 0 && fdOUTADDR d % 64 = 0 && fdOUTLEN d % 64 = 0 &&
    (fifSrc s k != 1 || fdINADDR d % fifElem s k = 0)

/-- A frame to open in a FIFO. -/
def newFFrame (desc : Bytes) (ring len : Nat) : FFrame :=
  ⟨desc, ring, none, 0, 0, len, 0, 0, false, false, none, 0, false, none⟩

/-- A descriptor fetched: `got` is what the read of host memory gives at the head (R413, R414). -/
def descFetch (s : State) (k : Nat) (got : Option Bytes) : State :=
  let x := s.stream k
  let b := ringBase k
  let h := s.getF b MBX_FR_HEAD_INDEX
  if !bound s k || x.closing != 0 || fifSrc s k = 2 || h = s.getF b MBX_FR_TAIL_INDEX || (fifOpenFrame s k).isSome ||
      decide (2 ^ x.rsize ≤ fetchedFrames s k) then s
  else
    let r := hostRead s (x.frbase + 64 * h) 64 got
    match r.1 with
    | none => r.2
    | some d =>
      let s := r.2.setF b MBX_FR_HEAD_INDEX ((h + 1) % 2 ^ x.rsize)
      match d with
      | none => logEvent (writeResult (publishBefore s k) k 0 0xFFFFFFFF 0 (fNotrun 3) h false) 0x1004 0xFF 0xFF k h 0 0
      | some d =>
        if descOk s k d then fifOpen s k (newFFrame d h (fdINLEN d))
        else writeResult (publishBefore s k) k (fdUSER d) 0xFFFFFFFF 0 (fNotrun 0) h (fdNOIRQ d)

/-! ### Feeders -/

def feedNT (s : State) (p : Nat) : Nat := s.getF (fdBase p) FIF_FD_CTRL_NT + 1

def feedHdr (s : State) (p : Nat) : Nat := s.getF (fdBase p) FIF_FD_CTRL_HDR

/-- The core and port a target's tokens go to (R351). -/
def feedPort (s : State) (p t : Nat) : Nat × Nat := edgePort (s.getF (fdtBase p t) FIF_FDT_PORT_PORT)

/-- Nothing is held out to the target's port. -/
def feedFree (s : State) (p t : Nat) : Bool :=
  let q := feedPort s p t
  (SMap.find s.edgeIn (4 * q.1 + q.2)).isNone

/-- A token sent on a target's route tag with the feeder's epoch and the target's join sequence (R353). -/
def feedSend (s : State) (p t typ payload : Nat) : State :=
  let q := feedPort s p t
  let tok : Token :=
    { typ := BitVec.ofNat 3 typ, tag := BitVec.ofNat 5 (s.getF (fdtBase p t) FIF_FDT_PORT_RT)
      epoch := BitVec.ofNat 12 (s.getF (fdBase p) FIF_FD_EPOCH_EPOCH)
      jseq := BitVec.ofNat 8 (SMap.get 0 (s.feed p).jseq t), payload := BitVec.ofNat 512 payload }
  { s with edgeIn := s.edgeIn.put (4 * q.1 + q.2) tok }

/-- The FIFO frame that the feeder is on, with its place. -/
def feedFrame (s : State) (slot seq : Nat) : Option (Nat × FFrame) :=
  let l := (s.fifo slot).frames
  match l.findIdx? (fun f => f.seq = some seq) with
  | none => none
  | some i => (l[i]?).map (fun f => (i, f))

/-- Target of the buffer in turn. -/
def feedTarget (s : State) (p : Nat) : Nat := (s.feed p).buf % feedNT s p

/-- FEEDER_BUFFER_START (R352 steps 1 and 2). -/
def feederStart (s : State) (p : Nat) : State :=
  let x := s.feed p
  match x.todo with
  | (slot, some seq) :: _ =>
    let t := feedTarget s p
    if x.left ≠ 0 ∨ !feedFree s p t then s
    else match SMap.get [] x.credits t with
      | [] => s
      | c :: rest =>
        let entry := c.toNat % 2 ^ 16 + slot * 2 ^ 16 + 2 ^ 23 + seq * 2 ^ 32
        let s := feedSend s p t 2 (entry + 2 ^ 81)
        let s := s.setFeed p { s.feed p with credits := x.credits.put t rest, left := s.getF (fdtBase p t) FIF_FDT_BUF_SIZE + 1 }
        let b := fdBase p
        ((s.setF b FIF_FD_STATUS_SLOT slot).setF b FIF_FD_STATUS_BUSY 1).setF b FIF_FD_STATUS_TARGET t
  | _ => s

/-- The header word (R354). -/
def headerWord (slot seq len : Nat) : Nat := len % 2 ^ 27 + len % 64 * 2 ^ 32 + slot * 2 ^ 40 + seq * 2 ^ 64

/-- A DATA token of the buffer in progress has gone out. -/
def feederSent (s : State) (p t nwords : Nat) : State :=
  let b := fdBase p
  let s := (s.addF b FIF_FD_WORDS_COUNT 1).setF b FIF_FD_STATUS_STARVED 0
  let x := s.feed p
  let x := { x with left := x.left - 1, word := x.word + 1 }
  if x.left ≠ 0 then s.setFeed p x
  else
    let s := s.addF (fdtBase p t) FIF_FDT_BUFS_COUNT 1
    let x := { x with buf := x.buf + 1, jseq := x.jseq.put t ((SMap.get 0 x.jseq t + 1) % 256) }
    if x.word < nwords then s.setFeed p x
    else (s.setFeed p { x with todo := x.todo.drop 1, buf := 0, word := 0 }).setF b FIF_FD_STATUS_BUSY 0

/-- FEEDER_WORD (R352 step 3): the header, a word of the FIFO, or a zero word that fills the last buffer. -/
def feederWord (s : State) (p : Nat) : State :=
  let x := s.feed p
  match x.todo with
  | (slot, some seq) :: _ =>
    let t := feedTarget s p
    if x.left = 0 ∨ !feedFree s p t then s
    else match feedFrame s slot seq with
      | none =>
        -- every word of the frame has been handed out: the last buffer is filled with zero words
        feederSent (feedSend s p t 0 0) p t 0
      | some (i, f) =>
        let h := feedHdr s p
        let n := h + f.words64
        if x.word < h then feederSent (feedSend s p t 0 (headerWord slot seq f.len)) p t n
        else if n ≤ x.word then feederSent (feedSend s p t 0 0) p t n
        else if wordReady f (x.word - h) then
          feederSent (wordTaken (feedSend s p t 0 (bytesToNat (wordAt s slot f (x.word - h)))) slot i) p t n
        else
          let s := s.setF (fdBase p) FIF_FD_STATUS_STARVED 1
          match frameOf s slot seq with
          | some g => setFrame s { g with starved := true }
          | none => s
  | _ => s

/-- FEEDER_EOF (R355): the EOF token on the next target's route tag, behind the stream's last buffer; where a mover reads the
stream's FIFO, once it has read every admitted frame (R46). During a flush the feeder sends none (R443). -/
def feederEof (s : State) (p : Nat) : State :=
  let x := s.feed p
  if (s.plan p).reloc.isSome then s else
  match x.todo with
  | (slot, none) :: rest =>
    if !feedFree s p x.buf then s
    else if s.getF (fifBase slot) FIF_CFG_READER = 1 ∧ (s.fifo slot).frames.any (fun f => f.seq.isSome) then s
    else
      let s := feedSend s p x.buf 5 (slot + (s.stream slot).last * 2 ^ 32)
      if x.buf + 1 < feedNT s p then s.setFeed p { s.feed p with buf := x.buf + 1 }
      else (s.setFeed p { s.feed p with todo := rest, buf := 0 }).setStream slot { s.stream slot with closing := 2 }
  | _ => s

/-! ### The meanings -/

def execFrTailWrite (k : Fin 128) (v : BitVec 32) (s : State) : Host.Outcome State Fault Refusal := live s (frTailWrite s k v.toNat)
def execRrHeadWrite (k : Fin 128) (v : BitVec 32) (s : State) : Host.Outcome State Fault Refusal := live s (rrHeadWrite s k v.toNat)
def execFifApertureWrite (k : Fin 128) (off : BitVec 7) (data : List (BitVec 8)) (s : State) :
    Host.Outcome State Fault Refusal := live s (fifAperture s k off.toNat data)
def execFifConfigWrite (k : Fin 128) (i : Fin 3) (v : BitVec 32) (s : State) : Host.Outcome State Fault Refusal :=
  live s (fifConfigWrite s k i v.toNat)
def execPullRequest (k : Fin 128) (s : State) : Host.Outcome State Fault Refusal := live s (pullRequest s k)
def execPullCompletion (k : Fin 128) (i : Nat) (data : Option (List (BitVec 8))) (s : State) :
    Host.Outcome State Fault Refusal := live s (pullComplete s k i data)
def execPullTimeout (k : Fin 128) (i : Nat) (s : State) : Host.Outcome State Fault Refusal := live s (pullComplete s k i none)
def execFeederBufferStart (p : Fin 8) (s : State) : Host.Outcome State Fault Refusal := live s (feederStart s p)
def execFeederWord (p : Fin 8) (s : State) : Host.Outcome State Fault Refusal := live s (feederWord s p)
def execFeederEof (p : Fin 8) (s : State) : Host.Outcome State Fault Refusal := live s (feederEof s p)

end Sys2Proof.Machine
end

