-- ==== Sys2Proof/Machine/Gate.lean ====
section
/-! DEFINITION. The admission pacer and the cadence gate (R21 to R48, R417 to R422, R433), and when a plan's drains begin
(R43, R44, R47, R162). -/

namespace Sys2Proof.Machine
open Sys2Proof
open Sys2Proof.Machine.Reg

/-! ### Streams and plans that end -/

/-- RESULT of STREAM_CLOSE (Table 11.8). -/
def closeResult (x : StreamSt) : Bytes :=
  natToBytes 4 x.last ++ natToBytes 2 x.closeHead ++ [if x.any then 1 else 0]

/-- The stream slot becomes free (R22, R46): unbound, its FIFO empty. -/
def freeStream (s : State) (k : Nat) : State :=
  let x := s.stream k
  let b := fifBase k
  let s := { s with frames := s.frames.filter (fun f => f.slot ≠ k) }
  let s := (s.setStream k StreamSt.reset).setF (ringBase k) MBX_RR_STATUS_BOUND 0
  let s := ((s.setFifo k FifoSt.reset).setF b FIF_STATUS_OPEN 0).setF b FIF_REMAIN_BYTES 0
  finishAll s (fun t => tkOPC t = 7 && tkArg t 8 1 = k) (fun _ => (0, 0, closeResult x))

/-- A stream whose EOF token has reached the gate, or needs none, is freed once its last held frame is released; the
frames of a FAULTED slot that were aborted hold nothing up (R46, R48). Where the history cannot be forgotten yet, for a bank group that
sleeps, the entry stays and ABORT_HISTORY_INVALIDATE comes back to it; so it does where the steward is down (R502). -/
def streamCheck (s : State) (k : Nat) : State :=
  let x := s.stream k
  match x.plan with
  | none => s
  | some p =>
    if x.closing ≠ 3 ∨ s.boot.down then s
    else if s.frames.any (fun f => f.slot = k && (!f.aborted || planState s p != 6)) then s
    else awaited s (freeStream (purgeStream s p k) k)

/-- A frame is complete for the segment in force: every core on its path has reported (R154). Core 128 marks a frame
that has passed its last segment. -/
def segDone (s : State) (f : Frame) : Bool :=
  f.cores.contains 128 || (pathCores s f.plan).all (fun c => f.cores.contains c)

/-- The configuration in force is the last one a frame passes: the last segment, or a kiln configuration (R164). -/
def lastCfg (x : PlanSt) : Bool := decide (16 ≤ x.cfg) || x.cfg + 1 = piNSEG x.img

/-- Frames of a plan that have not passed the last core of the segment in force. -/
def working (s : State) (p : Nat) : List Frame := s.frames.filter (fun f => f.plan = p && f.held.isNone && !segDone s f)

/-- The cores of a configuration that run kiln stages: those with a PPU whose KILN bit is set (R156). -/
def kilnCores (s : State) (p : Nat) : List Nat :=
  (pathCores s p).filter (fun c => (List.range 8).any (fun e => s.getF (ppuBase c e) PPU_CTRL_KILN = 1))

/-- Every kiln stage of the pass in force has made its last step (R161). -/
def passOver (s : State) (p : Nat) : Bool :=
  match (s.plan p).kiln with
  | some k => (kilnCores s p).all (fun c => k.fin.contains c)
  | none => true

/-- The slot enters SWITCHING toward a configuration; the drain time counts from now (R44, R264). -/
def startSwitch (s : State) (p target : Nat) : State :=
  (s.setF (cadBase p) CAD_STATE_SLOT 4).setPlan p { s.plan p with switch := 1, target := target, lastDone := now s }

/-- The configuration that follows a kiln pass: the next selected kiln configuration, or segment 1. -/
def afterPass (k : Kiln) : Nat := match k.todo.drop 1 with | [] => 0 | seg :: _ => 16 + seg

/-- What a plan does when the frame it worked on is done: STOPPING ends (R47), a segment switch starts (R43, R44), a kiln
pass starts or ends (R162, R164). -/
def planCheck (s : State) (p : Nat) : State :=
  let x := s.plan p
  let st := planState s p
  if x.reloc.isSome ∨ x.switch ≠ 0 then s
  else if st = 5 then
    if s.frames.any (fun f => f.plan = p) then s
    else finishAll (s.setF (cadBase p) CAD_STATE_SLOT 2) (fun t => tkOPC t = 4 && tkArg t 8 1 = p) (fun _ => (0, 0, []))
  else if st ≠ 3 ∨ !(working s p).isEmpty then s
  else match x.kiln with
    | some k =>
      if 16 ≤ x.cfg then
        (if x.stopPend then startSwitch s p 0 else if passOver s p then startSwitch s p (afterPass k) else s)
      else if x.roundN ≠ 0 then (if x.window then s else startSwitch s p ((x.cfg + 1) % piNSEG x.img))
      else startSwitch s p (16 + k.todo.headD 0)
    | none =>
      if piNSEG x.img ≤ 1 ∨ x.window ∨ x.roundN = 0 then s
      else startSwitch s p ((x.cfg + 1) % piNSEG x.img)

/-! ### Release (R33 to R38, R433) -/

/-- What follows a release for the plan and the stream. -/
def afterRelease (s : State) (f : Frame) : State := streamCheck (planCheck s f.plan) f.slot

/-- Late frames of a stream are released at once, in order (R25, R34). -/
def releaseLate (s : State) (k : Nat) : Nat → State
  | 0 => s
  | n + 1 =>
    match s.frames.find? (fun f => f.slot = k && f.held.isSome && bit f.flags fLATE && !blockedBy s.frames f) with
    | none => s
    | some f => releaseLate (afterRelease (release s f) f) k n

/-- The result of a frame reaches the gate (R34, R38, R472): T_fin is now. -/
def hold (s : State) (f : Frame) (extra : Nat) : State :=
  let t := now s
  let s := s.maxF (cadBase f.plan) CAD_MAX_RUN_NS (min (t - f.tsub) (2 ^ 32 - 1))
  let fl := f.flags ||| extra ||| f.fend.getD 0
  let fl := if f.trel < t then fl ||| 2 ^ fLATE else fl
  let s := setFrame s { f with held := some t, flags := fl }
  if f.trel < t then releaseLate s f.slot s.frames.length else s

/-! ### Output (R417, R418, R471) -/

/-- OUTCUT set in a frame's flags. -/
def outcut (s : State) (f : Frame) : State := setFrame s { f with flags := f.flags ||| 2 ^ fOUTCUT }

/-- FHDR of a frame's relay output (Table 13.4, R471). -/
def frameHeader (s : State) (x : PlanSt) (f : Frame) (up : Nat) : Flit :=
  mkFlit s 0x30 (outDEV x) 2
    (natToBytes 2 (outSLOT x) ++ natToBytes 2 up ++ natToBytes 4 x.outLen ++ natToBytes 4 f.seq ++ natToBytes 4 0 ++
      natToBytes 8 (fdUSER f.desc) ++ natToBytes 8 (fdOUTADDR f.desc) ++ natToBytes 4 (fdOUTLEN f.desc) ++
      natToBytes 4 0 ++ natToBytes 8 f.trel) [0]

/-- Result flags that came in the header of a relay frame: kept in its descriptor's reserved bytes. -/
def upFlags (f : Frame) : Nat := leAt f.desc 0x28 2

/-- The frame's relay output begins: FHDR is sent (R471). -/
def relayBegin (s : State) (x : PlanSt) (f : Frame) : State × Frame :=
  if f.relayed.isSome then (s, f)
  else
    let g := { f with relayed := some 0 }
    (relaySend (setFrame s g) (frameHeader s x g (if f.src.isSome then upFlags f else 0)), g)

/-- One unit of relay output sent: cut to LEN. -/
def relayUnit (s : State) (x : PlanSt) (f : Frame) (n : Nat) (d : Bytes) : State :=
  let room := x.outLen - 64 * n
  relaySend (setFrame s { f with relayed := some (n + 1), outHi := max f.outHi (n + 1) })
    (mkFlit s 0x31 (outDEV x) 2 (natToBytes 4 (outSLOT x)) (d.take (min 64 room)))

/-- Output unit n of a frame (R418, R471). -/
def outputUnit (s : State) (f : Frame) (n : Nat) (d : Bytes) : State :=
  let x := s.plan f.plan
  if outEN x then
    if !relayReach s (outDEV x) ∨ f.relayed ≠ some n ∨ x.outLen ≤ 64 * n then outcut s f
    else relayUnit s x f n d
  else if fdOUTLEN f.desc ≤ 64 * n then outcut s f
  else hostPut (setFrame s { f with outHi := max f.outHi (n + 1) }) (fdOUTADDR f.desc + 64 * n) d (relaxOn s)

/-- At T_fin the units of relay output not yet sent go out as zeros (R471). -/
def relayFill (s : State) (slot seq : Nat) : State :=
  match frameOf s slot seq with
  | none => s
  | some f =>
    let x := s.plan f.plan
    if !outEN x then s
    else if !relayReach s (outDEV x) then outcut s f
    else
      let r := relayBegin s x f
      let n := r.2.relayed.getD 0
      (List.range (ceilDiv x.outLen 64 - n)).foldl (fun t i =>
        match frameOf t slot seq with
        | none => t
        | some g => relayUnit t x g (n + i) (List.replicate 64 0)) r.1

/-- Where a token with a tag leaves the mesh: 64 × edge port + the tag it leaves with. It stands in core c before its steering, or
leaves it by a port; followed for so many hops. -/
def exitOf (s : State) : Nat → Nat → Option Nat → Nat → Option Nat
  | 0, _, _, _ => none
  | n + 1, c, none, t =>
    let b := routeBase c t
    if s.getF b STU_ROUTE_DEST = 3 then exitOf s n c (some (s.getF b STU_ROUTE_INDEX % 4)) (s.getF b STU_ROUTE_RETAG) else none
  | n + 1, c, some p, t =>
    match meshBeyond c p with
    | none => (edgeIndex c p).map (fun e => 64 * e + t)
    | some d => exitOf s n d (if bit (s.getF (coreWin d + 4 * oppPort p) STU_PASS_MASK) t then some p else none) t

/-- A DATA or SCALE token with a join sequence is on its way to an output port and tag (64 × port + tag). -/
def onTheWay (s : State) (key j : Nat) : Bool :=
  (List.range 128).any (fun c =>
    let x := s.core c
    let goes (p : Option Nat) (t : Token) : Bool :=
      (t.typ = 0 || t.typ = 3) && t.jseq.toNat = j && exitOf s 256 c p t.tag.toNat == some key
    x.orig.any (goes none) || x.inq.any (fun q => q.2.any (goes none)) || x.joins.any (fun q => q.2.data.any (goes none)) ||
      x.pass.any (fun q => goes (some (oppPort q.1)) q.2) || x.outp.any (fun q => goes (some q.1) q.2))

/-- A port has completed a run with PUSH: a later CONTROL token has ended it, or no token of it is still to come (log 38,
DEDUCED). -/
def portDone (s : State) (f : Frame) (n : Nat) : Bool :=
  f.doneP.contains n || f.runs.any (fun r => r.1 / 64 = n && r.2.2.1 && !onTheWay s r.1 r.2.2.2)

/-- The result reaches the gate once every report is in, every port that carried a run has completed one with PUSH, and a
relay frame's FEND has come (R419, R472). -/
def tryHold (s : State) (slot seq : Nat) : State :=
  match frameOf s slot seq with
  | none => s
  | some f =>
    if f.held.isSome || f.aborted || !f.cores.contains 128 || f.ports.any (fun q => !portDone s f q) ||
        (f.src.isSome && f.fend.isNone) then s
    else
      let s := relayFill s slot seq
      match frameOf s slot seq with
      | none => s
      | some g => hold s g 0

/-! ### FRAME_END_REPORT (R154, R419, Table 12.4) -/

/-- The k-th report on its way arrives. Reports of an aborted frame are ignored, and the last of them frees its entry. -/
def frameEndReport (s : State) (k : Nat) : State :=
  match s.reports[k]? with
  | none => s
  | some r =>
    let s := { s with reports := s.reports.eraseIdx k }
    match frameOf s r.slot r.seq with
    | none => s
    | some f =>
      let fl := if f.aborted ∨ f.held.isSome then f.flags
        else withFlag (withFlag (withFlag f.flags fSAT r.sat) fUFL r.ufl) fTRUNC r.trunc
      let f := { f with flags := fl, cores := if f.cores.contains r.core then f.cores else r.core :: f.cores }
      let s := setFrame s f
      if !segDone s f then s
      else
        let x := s.plan f.plan
        let s := s.setPlan f.plan { x with lastDone := now s }
        let s := s.setStream f.slot { s.stream f.slot with closeT := now s }
        let s :=
          if !lastCfg x then s
          else if f.aborted then
            { s with frames := s.frames.filter (fun g => !(g.slot = f.slot && g.seq = f.seq)) }
          else tryHold (setFrame s { f with cores := 128 :: f.cores }) f.slot f.seq
        streamCheck (planCheck s f.plan) f.slot

/-! ### FRAME_ADMISSION (R21 to R24, R31, R32, R43, R473) -/

/-- The release time of a frame admitted at t (R32). -/
def releaseTime (s : State) (p t : Nat) : Nat :=
  let b := cadBase p
  let r := t + s.getF b CAD_LATENCY_L_PLAN
  let q := s.getF b CAD_GRID_PERIOD
  if q = 0 then r else
  let o := (s.plan p).origin % q
  r + (o + q - r % q) % q

/-- The end of the admission window of the round (R43). -/
def windowEnd (x : PlanSt) : Nat := x.roundFirst.getD 0 + (piBSEG x.img - 1) * piPBATCH x.img

/-- The admission period allows an admission now (R23, R43, R164). -/
def paceOk (s : State) (p : Nat) : Bool :=
  let x := s.plan p
  let t := now s
  let past (a : Option Nat) (d : Nat) : Bool := match a with | none => true | some a => decide (a + d ≤ t)
  if x.stopPend then false
  else if 16 ≤ x.cfg then past x.lastAdm (piKILNPADM x.img) && !passOver s p
  else if x.kiln.isSome && x.roundN = 0 then false
  else if piNSEG x.img ≤ 1 then past x.lastAdm (s.getF (cadBase p) CAD_ADMIT_P_ADM)
  else x.cfg = 0 &&
    (if x.window then past x.lastAdm (piPBATCH x.img) && decide (t ≤ windowEnd x)
     else x.roundN = 0 && past x.roundFirst (piBSEG x.img * s.getF (cadBase p) CAD_ADMIT_P_ADM))

/-- A stream qualifies: its oldest frame not yet admitted holds frame data (R23, R347), and a timed relay frame that fits
the ring waits for its TREL (R473). -/
def qualifies (s : State) (p k : Nat) : Bool :=
  let x := s.stream k
  x.plan = some p && x.closing = 0 &&
    (match nextUnadmitted s k with
     | none => false
     | some f => holdsData s k f &&
        !(x.timed && f.src.isSome && decide (f.len ≤ fifSize s k) && decide (now s < f.trel)))

/-- The stream the pacer takes next (R23). -/
def pickStream (s : State) (p : Nat) : Option Nat :=
  let rr := (s.plan p).rr
  ((List.range 128).map (fun i => (rr + 1 + i) % 128)).find? (qualifies s p)

/-- The plan of a slot has a feeder (R374). -/
def hasFeeder (s : State) (p : Nat) : Bool := (sectOff (s.plan p).img 0x0A).isSome

/-- The slot has a feeder that reads the stream's FIFO (R346, R374). -/
def fedByFeeder (s : State) (p k : Nat) : Bool := hasFeeder s p && s.getF (fifBase k) FIF_CFG_READER = 0

/-- The frame of a stream admitted into a plan. -/
def admitOne (s : State) (p k : Nat) : State :=
  match nextUnadmitted s k with
  | none => s
  | some f =>
    let y := s.stream k
    let x := s.plan p
    let t := now s
    let fr : Frame := { plan := p, slot := k, seq := y.next, desc := f.desc, ring := f.ring, tsub := t
                        trel := releaseTime s p t, flags := withFlag (if f.src.isSome then f.upFlags else 0) fINGEST f.bad
                        cores := [], held := none, aborted := false, runs := [], ports := [], doneP := [], outHi := 0
                        starved := false, src := f.src, fend := f.fend, relayed := none }
    let s := { s with frames := s.frames ++ [fr] }
    let q := s.fifo k
    let i := (q.frames.findIdx? (fun g => g.seq.isNone)).getD 0
    let s := fifClean (s.setFifo k { q with frames := q.frames.set i { f with seq := some y.next } }) k
    let s := s.setStream k { y with next := (y.next + 1) % 2 ^ 32, last := y.next, any := true }
    let s := if fedByFeeder s p k then s.setFeed p { s.feed p with todo := (s.feed p).todo ++ [(k, some y.next)] } else s
    let seg := decide (1 < piNSEG x.img) && decide (x.cfg < 16)
    let n := if seg then (if x.window then x.roundN + 1 else 1) else x.roundN
    let s := s.setPlan p { x with
      lastAdm := some t, rr := k
      roundFirst := if seg && !x.window then some t else x.roundFirst
      roundN := n
      window := seg && decide (n < piBSEG x.img) }
    s

/-- FRAME_ADMISSION. -/
def frameAdmission (s : State) (p : Nat) : State :=
  let x := s.plan p
  if planState s p ≠ 3 ∨ heldByDie s p ∨ x.reloc.isSome ∨ x.switch ≠ 0 ∨ !paceOk s p then s
  else match pickStream s p with
    | none => s
    | some k => admitOne s p k

/-- ROUND_WINDOW_CLOSE. -/
def windowClose (s : State) (p : Nat) : State :=
  let x := s.plan p
  if x.window ∧ windowEnd x ≤ now s then planCheck (s.setPlan p { x with window := false }) p else s

/-! ### RESULT_PUBLISH, moderation and output timeouts -/

/-- A frame comes before another at the gate: by release time, then slot, then order of admission (R36). -/
def dueFirst (a b : Frame) : Bool := decide (a.trel < b.trel) || (a.trel = b.trel && decide (a.slot < b.slot))

/-- The held frame to publish now, if any is due. One that finished in time and is released after its T_rel, behind an
unfinished earlier frame of its stream (R25), carries no LATE: R34 judges T_fin alone, and the spec does not say more (DESIGN
CHOICE, log 104). -/
def dueFrame (s : State) : Option Frame :=
  (s.frames.filter (fun f => f.held.isSome && decide (f.trel ≤ now s) && !blockedBy s.frames f)).foldl
    (fun o f => match o with | none => some f | some g => if dueFirst f g then some f else some g) none

/-- RESULT_PUBLISH. -/
def resultPublish (s : State) : State :=
  if s.hubHot then s else
  match dueFrame s with
  | none => s
  | some f => releaseLate (afterRelease (release s f) f) f.slot s.frames.length

/-- RESULT_MODERATION_TIMER (R424). -/
def moderation (s : State) (k : Nat) : State :=
  let x := s.stream k
  match x.sinceT with
  | none => s
  | some t =>
    if x.modus = 0 ∨ now s < t + 1000 * x.modus then s
    else raiseVector (s.setStream k { x with since := 0, sinceT := none }) x.ivec

/-- OUTPUT_TIMEOUT (R419): of the frame with a stream slot and sequence number. -/
def outputTimeout (s : State) (slot seq : Nat) : State :=
  match frameOf s slot seq with
  | none => s
  | some f =>
    if s.hubHot || f.held.isSome || f.aborted || !f.cores.contains 128 || (f.src.isSome && f.fend.isNone) ||
        f.ports.all (portDone s f) || decide (now s < f.trel + 10000000) then s
    else
      let s := relayFill s slot seq
      match frameOf s slot seq with
      | none => s
      | some g => hold s { g with doneP := g.ports } (2 ^ fOUTCUT ||| 2 ^ fLATE)

/-! ### HUB_TOKEN_RECEIVE (R351, R417, R418) -/

/-- The feeder target of a plan whose port and credit tag a token came on. -/
def creditTarget (s : State) (q n tag : Nat) : Option Nat :=
  if (sectOff (s.plan q).img 0x0A).isNone then none
  else (List.range (feedNT s q)).find? (fun t =>
    s.getF (fdtBase q t) FIF_FDT_PORT_PORT = n && s.getF (fdtBase q t) FIF_FDT_PORT_CRT = tag)

/-- The fault a credit raises at a target's queue under R248: 0x07 for a handle outside its range, 0x08 for a full queue, with
the lower recorded where both hold (R87). -/
def creditFault (s : State) (q t e : Nat) : Option Nat :=
  let b := fdtBase q t
  let first := s.getF b FIF_FDT_RANGE_FIRST
  let h := eHANDLE e
  if !eEOF e ∧ (4096 ≤ h ∨ h < first ∨ first + s.getF b FIF_FDT_RANGE_COUNT ≤ h) then some 0x07
  else if s.getF b FIF_FDT_PORT_DEPTH ≤ (SMap.get [] (s.feed q).credits t).length then some 0x08 else none

/-- A credit that came from core c pushed into a target's queue. One that R248 refuses is not pushed: its fault is recorded and
charged to the plan as a core fault of the sending core (DESIGN CHOICE, log 103). -/
def feedCredit (s : State) (c q t e : Nat) : State :=
  match creditFault s q t e with
  | some f =>
    let word := f + s.getF (fdtBase q t) FIF_FDT_PORT_CRT * 2 ^ 16
    planFault (logEvent s 0x8006 c q word 0 0 0) q 1 c word
  | none =>
    let x := s.feed q
    s.setFeed q { x with credits := x.credits.put t (SMap.get [] x.credits t ++ [BitVec.ofNat 64 (entryBits e)]) }

/-- An EOF token at the gate (R46): the stream's history is forgotten before the slot is freed (R145, R231). -/
def gateEof (s : State) (k : Nat) : State :=
  let x := s.stream k
  match x.plan with
  | none => s
  | some p =>
    if x.closing = 1 ∨ x.closing = 2 then
      streamCheck { s.setStream k { x with closing := 3 } with purge := s.purge ++ [(p, k, 2 ^ 32)] } k
    else s

/-- Every open run on a port and tag ends; one with PUSH has completed the frame's output on its port. -/
def endRuns (s : State) (q key : Nat) : State :=
  { s with frames := s.frames.map (fun f =>
    if f.plan ≠ q then f
    else match SMap.find f.runs key with
      | none => f
      | some r => { f with
          runs := SMap.erase f.runs key
          doneP := if r.2.1 ∧ !f.doneP.contains (key / 64) then (key / 64) :: f.doneP else f.doneP }) }

/-- The frames of a plan whose output may have become complete are judged again (R419). -/
def tryHolds (s : State) (q : Nat) : State :=
  (s.frames.filter (fun f => f.plan = q)).foldl (fun t f => tryHold t f.slot f.seq) s

/-- An output token that names no frame in flight (R418). -/
def outputLost (s : State) (q slot seq : Nat) : State := logEvent s 0x800A 0xFF q slot seq 0 0

/-- A CONTROL token starts an output run (R418); a run of an aborted frame is followed so that its tokens fall without a record
(Table 12.4). -/
def outControl (s : State) (q n key p j : Nat) : State :=
  let slot := eSLOT (fcENTRY p)
  let seq := eSEQ (fcENTRY p)
  let s := endRuns s q key
  let s := tryHolds (s.setPlan q { s.plan q with ctls := (s.plan q).ctls.put key (slot, seq) }) q
  match frameOf s slot seq with
  | none => outputLost s q slot seq
  | some f =>
    if f.plan ≠ q ∨ f.held.isSome then outputLost s q slot seq
    else
      let f := { f with runs := f.runs.put key (fcOFFSET p, fcPUSH p, j) }
      if f.aborted then setFrame s f
      else
        let f := { f with ports := if f.ports.contains n then f.ports else n :: f.ports }
        let s := setFrame s f
        let x := s.plan q
        let s := if outEN x ∧ relayReach s (outDEV x) then (relayBegin s x f).1 else s
        tryHold s slot seq

/-- A DATA or SCALE token of an output run is written whole (R418); one that no run of a frame in flight takes is discarded and
logged, with the slot and sequence number of the last CONTROL token before it on its port and tag (log 133). -/
def outData (s : State) (q key : Nat) (d : Bytes) : State :=
  match s.frames.find? (fun f => f.plan = q && f.held.isNone && (SMap.find f.runs key).isSome) with
  | none =>
    match SMap.find (s.plan q).ctls key with
    | some c => outputLost s q c.1 c.2
    | none =>
      let v := (Config.lostFrame s.fresh).toNat
      outputLost { s with fresh := s.fresh + 1 } q (bits v 0 32) (bits v 32 32)
  | some f =>
    let r := SMap.get (0, false, 0) f.runs key
    let f := { f with runs := f.runs.put key (r.1 + 1, r.2) }
    let s := setFrame s f
    if f.aborted then s else tryHold (outputUnit s f r.1 d) f.slot f.seq

/-- The hub refuses a handshake whose check code fails; the eighth in a row raises LINK_PERSIST in the sender (R236). -/
def hubRefuse (s : State) (c p : Nat) : State :=
  let k := SMap.get 0 (s.core c).refus (p + 4) + 1
  let s := s.setCore c { s.core c with refus := (s.core c).refus.put (p + 4) (k % 8) }
  if k < 8 then s else coreFault (killLink s c p) c 0x11 p none

/-- HUB_TOKEN_RECEIVE: the token that core c holds out of edge port p, with what the wires add to its bits. -/
def hubToken (s : State) (c p noise : Nat) : State :=
  match edgeIndex c p, edgeOwner s c p, SMap.find (s.core c).outp p with
  | some n, some q, some t0 =>
    if portKind s c p = 0 then s else
    match linkToken (linkBits t0 ^^^ noise) with
    | (_, false) => hubRefuse s c p
    | (t, true) =>
      let x := s.core c
      let s := s.setCore c { x with outp := SMap.erase x.outp p, refus := x.refus.put (p + 4) 0 }
      let pay := t.payload.toNat
      let key := 64 * n + t.tag.toNat
      if planState s q = 6 || (s.plan q).reloc.isSome then s
      else match (if t.typ = 1 then creditTarget s q n t.tag.toNat else none) with
        | some g => feedCredit s c q g (pay % 2 ^ 64)
        | none =>
          if t.typ = 5 then gateEof s (bits pay 0 7)
          else if t.typ = 4 then s
          else if t.epoch.toNat ≠ s.getF (fdBase q) FIF_FD_EPOCH_EPOCH then planFault s q 5 0xFF n
          else if t.typ = 2 then outControl s q n key pay t.jseq.toNat
          else if t.typ = 0 ∨ t.typ = 3 then outData s q key (natToBytes 64 pay)
          else if t.typ = 1 ∧ (frameOf s (eSLOT (pay % 2 ^ 64)) (eSEQ (pay % 2 ^ 64))).isNone then
            logEvent s 0x800A 0xFF q (eSLOT (pay % 2 ^ 64)) (eSEQ (pay % 2 ^ 64)) 0 0
          else s
  | _, _, _ => s

/-! ### DESCRIPTOR_FETCH (R413, R414, R421) -/

/-- What follows the releases that a NOTRUN result came after: for the plan and the stream (R421). -/
def afterNotrun (s t : State) (k : Nat) : State :=
  match (s.stream k).plan with
  | some p => if t.frames.length = s.frames.length then t else streamCheck (planCheck t p) k
  | none => t

/-- DESCRIPTOR_FETCH: `got` is what the read of host memory gives at the head. A NOTRUN result comes after the publications due
at the instant, and what follows a release follows these. -/
def fetchDescriptor (s : State) (k : Nat) (got : Option Bytes) : State := afterNotrun s (descFetch s k got) k

/-! ### The meanings -/

def execDescriptorFetch (k : Fin 128) (got : Option (List (BitVec 8))) (s : State) : Host.Outcome State Fault Refusal :=
  live s (fetchDescriptor s k got)
def execFrameAdmission (p : Fin 8) (s : State) : Host.Outcome State Fault Refusal := live s (frameAdmission s p)
def execRoundWindowClose (p : Fin 8) (s : State) : Host.Outcome State Fault Refusal := live s (windowClose s p)
def execFrameEndReport (k : Nat) (s : State) : Host.Outcome State Fault Refusal := live s (frameEndReport s k)
def execResultPublish (s : State) : Host.Outcome State Fault Refusal := live s (resultPublish s)
def execResultModerationTimer (k : Fin 128) (s : State) : Host.Outcome State Fault Refusal := live s (moderation s k)
def execOutputTimeout (k : Fin 128) (seq : BitVec 32) (s : State) : Host.Outcome State Fault Refusal :=
  live s (outputTimeout s k seq.toNat)
def execHubTokenReceive (c : Fin 128) (p : Fin 4) (noise : BitVec 560) (s : State) : Host.Outcome State Fault Refusal :=
  live s (hubToken s c p noise.toNat)

end Sys2Proof.Machine
end

