-- ==== Sys2Proof/Machine/Mover.lean ====
section
/-! DEFINITION. Movers: arming, bursts, instructions, errors (R314 to R339). -/

namespace Sys2Proof.Machine
open Sys2Proof
open Sys2Proof.Machine.Reg

/-- Channel n exists in mover u: 16 channels in a cluster, 32 in the hub (R314). -/
def mvrExists (u n : Nat) : Bool := decide (n < if u < 16 then 16 else 32)

/-! ### Halts with their consequence (R337, R438) -/

/-- A halt that the steward did not order: a channel of a plan slot is logged and stops its plan. -/
def mvrFail (s : State) (u n cause detail : Nat) : State :=
  let p := mvrPLAN s u n
  let s := haltChannel s u n cause detail
  if 8 ≤ p then s
  else planFault (logEvent s 0x8009 0xFF p u n 0 0) p 3 0xFF (u * 256 + n)

/-! ### Arming (R315 to R318, R339) -/

/-- A program starts: MVR_CHn_CFG is taken, offsets are zero, the load begins. -/
def mvrStart (s : State) (u n addr slots : Nat) : State :=
  let b := mvrBase u n
  let x := s.mvr u n
  let s := s.setMvr u n { MvrSt.reset with
    loadAddr := addr, loadLeft := 16 * slots, held := x.held, locked := x.locked, cfg := s.reg b, post := x.post }
  ((s.setF b MVR_STATUS_STATE 1).setF b MVR_STATUS_PC 0).setF b MVR_STATUS_PENDING 0

/-- The program that the arm registers name: address and instruction slots. -/
def armed (s : State) (u n : Nat) : Nat × Nat :=
  let b := mvrBase u n
  (s.getF b MVR_ARM_LO_ADDR * 16 + s.getF b MVR_ARM_HI_ADDR * 2 ^ 32, s.getF b MVR_ARM_HI_NINSTR + 1)

/-- An arm of the channel is refused as an overrun: a program is pending, or the channel serves the cluster's lulls (Table 9.2,
R339). -/
def armRefused (s : State) (u n : Nat) : Bool :=
  let st := mvrState s u n
  (decide (u < 16) && n = 15 && !(s.cluster u).lull.isEmpty) ||
    (decide (1 ≤ st) && decide (st ≤ 3) && (s.mvr u n).next.isSome)

/-- A channel armed with a program (Table 9.2). -/
def armChannel (s : State) (u n : Nat) : State :=
  let b := mvrBase u n
  let st := mvrState s u n
  let a := armed s u n
  if armRefused s u n then (s.setF b MVR_STATUS_OVERRUN 1).addF b MVR_OVR_CNT_COUNT 1
  else if st = 0 ∨ st = 4 then mvrStart (s.setF b MVR_STATUS_CAUSE 0) u n a.1 a.2
  else (s.setMvr u n { s.mvr u n with next := some a }).setF b MVR_STATUS_PENDING 1

/-- MVR_ARM: a write of MVR_CHn_ARM_HI, which an overrun ignores. -/
def mvrArm (s : State) (u n v : Nat) : State :=
  if !mvrExists u n then s
  else armChannel (if armRefused s u n then s else s.writeRW (mvrBase u n + 0xC) v) u n

/-- MVR_ABORT: a write of one to MVR_CHn_CTRL.ABORT (R336). -/
def mvrAbortWrite (s : State) (u n : Nat) : State :=
  let st := mvrState s u n
  if !mvrExists u n ∨ st = 0 ∨ st = 4 then s else mvrFail s u n 1 0

/-! ### Instructions (R319 to R326) -/

/-- The channel is at an instruction with this opcode and may execute it. -/
def mvrAtOp (s : State) (u n op : Nat) : Bool :=
  let x := s.mvr u n
  let st := mvrState s u n
  mvrExists u n && (st = 2 || st = 3) && !x.locked && !x.moving && decide (mvrPC s u n < mvrLen s u n) &&
    mvOP (mvrAt s u n (mvrPC s u n)) = op

/-- The current instruction word. -/
def mvrWord (s : State) (u n : Nat) : Nat := mvrAt s u n (mvrPC s u n)

/-- A programming error (CAUSE 3). -/
def mvrErr (s : State) (u n detail : Nat) : State := mvrFail s u n 3 detail

/-- The channel goes on at slot i: past the program's last instruction it halts. -/
def mvrGoto (s : State) (u n i : Nat) : State :=
  if mvrLen s u n ≤ i then mvrErr s u n 6
  else
    let s := s.setMvr u n { s.mvr u n with row := 0, done := 0 }
    (s.setF (mvrBase u n) MVR_STATUS_PC i).setF (mvrBase u n) MVR_STATUS_STATE 2

def mvrNop (s : State) (u n : Nat) : State :=
  if !mvrAtOp s u n 0 then s
  else if mvrWord s u n / 16 ≠ 0 then mvrErr s u n 4
  else mvrGoto s u n (mvrPC s u n + 1)

/-- An effective address and what follows it lie within 48 bits. -/
def mvrFits (a : Int) (len : Nat) : Bool := decide (0 ≤ a) && decide (a + len ≤ 2 ^ 48)

/-- The held entry is a marker: a MOVE relative to it moves nothing (R320). -/
def heldMarker (s : State) (u n : Nat) : Bool :=
  match (s.mvr u n).held with | some h => eEOF h.1.toNat | none => false

/-- MOVE and MOVE2D: the checks of R326, then the bursts may start. -/
def mvrBeginMove (s : State) (u n op : Nat) : State :=
  if !mvrAtOp s u n op then s else
  let pc := mvrPC s u n
  let w := mvrWord s u n
  let w2 := mvrAt s u n (pc + 1)
  let two := decide (op = 7)
  let rows := if two then mv2ROWS w2 else 1
  let rel := mvSREL w || mvDREL w
  let x := s.mvr u n
  if two ∧ !s.b0 then mvrErr s u n 3
  else if two ∧ mvrLen s u n ≤ pc + 1 then mvrErr s u n 6
  else if two ∧ bits w2 24 40 ≠ 0 then mvrErr s u n 4
  else if rel ∧ x.held.isNone then mvrErr s u n 8
  else if mvrSrc s u n 0 % 64 ≠ 0 ∨ mvrDst s u n 0 % 64 ≠ 0 then mvrErr s u n 1
  else if two ∧ (mv2SSTR w2 % 64 ≠ 0 ∨ mv2DSTR w2 % 64 ≠ 0) then mvrErr s u n 2
  else if rel ∧ heldMarker s u n then mvrGoto s u n (pc + if two then 2 else 1)
  else
    let len := 64 * mvUNITS w
    if !(mvrFits (mvrSrc s u n 0) len && mvrFits (mvrSrc s u n (rows - 1)) len &&
        mvrFits (mvrDst s u n 0) len && mvrFits (mvrDst s u n (rows - 1)) len) then mvrErr s u n 2
    else s.setMvr u n { x with moving := true, row := 0, done := 0 }

/-- LOOP (R322). A loop without end keeps its runs at 2^24. -/
def mvrLoop (s : State) (u n : Nat) : State :=
  if !mvrAtOp s u n 2 then s else
  let pc := mvrPC s u n
  let w := mvrWord s u n
  let target := bits w 4 6
  let count := bits w 16 24
  let x := s.mvr u n
  if bits w 10 6 ≠ 0 ∨ bits w 40 24 ≠ 0 then mvrErr s u n 4
  else if bits w 64 32 % 64 ≠ 0 ∨ bits w 96 32 % 64 ≠ 0 then mvrErr s u n 2
  else if mvrLen s u n ≤ target then mvrErr s u n 6
  else if (match x.loop with | some l => l.1 != pc | none => false) then mvrErr s u n 5
  else
    let left := match x.loop with
      | some l => l.2
      | none => if count = 0 then 2 ^ 24 else count - 1
    if left = 0 then mvrGoto (s.setMvr u n { x with loop := none }) u n (pc + 1)
    else
      let x := { x with
        loop := some (pc, if left = 2 ^ 24 then left else left - 1)
        soff := signed 48 (unsigned 48 (x.soff + signed 32 (bits w 64 32)))
        doff := signed 48 (unsigned 48 (x.doff + signed 32 (bits w 96 32))) }
      mvrGoto (s.setMvr u n x) u n target

/-- WAIT (R323, R333). -/
def mvrWait (s : State) (u n : Nat) : State :=
  if !mvrAtOp s u n 3 then s else
  let b := mvrBase u n
  let pc := mvrPC s u n
  let w := mvrWord s u n
  let src := bits w 4 2
  let line := bits w 6 5
  let c := 8 * u + bits w 11 3
  let q := bits w 14 4
  let x := s.mvr u n
  if 2 ≤ src ∨ w / 2 ^ 18 ≠ 0 then mvrErr s u n 4
  else if src = 1 ∧ (16 ≤ u ∨ x.held.isSome) then mvrErr s u n 7
  else
    let s := s.setMvr u n { x with outFor := none }
    if src = 0 then
      let ev := s.getF b MVR_EVT_PEND
      if bit ev line then mvrGoto (s.setF b MVR_EVT_PEND (setBits ev line 1 0)) u n (pc + 1)
      else s.setF b MVR_STATUS_STATE 3
    else
      let h := s.hq c q
      match h.entries with
      | [] => s.setF b MVR_STATUS_STATE 3
      | e :: rest =>
        let s := progress ((s.setHq c q { h with entries := rest }).addF (hqBase c q) STU_HQ_POPS_COUNT 1) c
        let s := s.setMvr u n { s.mvr u n with held := some (e, c, q), outFor := some c }
        mvrGoto (s.setF b MVR_STATUS_HELD 1) u n (pc + 1)

/-- A pulse on an event line: every channel of the mover keeps it (R332). -/
def mvrPulse (s : State) (u line : Nat) : State :=
  (List.range (if u < 16 then 16 else 32)).foldl (fun t n =>
    let b := mvrBase u n
    t.setF b MVR_EVT_PEND (t.getF b MVR_EVT_PEND ||| 2 ^ line)) s

/-- A push that R248 refuses. -/
def pushRefused (s : State) (c q e : Nat) : Bool :=
  (!(s.hq c q).spilling && decide (s.getF (hqBase c q) STU_HQ_CFG_DEPTH ≤ (s.hq c q).entries.length)) ||
    (!eEOF e && !handleInRange s c q (eHANDLE e))

/-- SIGNAL (R324). -/
def mvrSignal (s : State) (u n : Nat) : State :=
  if !mvrAtOp s u n 4 then s else
  let pc := mvrPC s u n
  let w := mvrWord s u n
  let mode := bits w 4 2
  let c := 8 * u + bits w 11 3
  let q := bits w 14 4
  let x := s.mvr u n
  if mode = 3 ∨ w / 2 ^ 18 ≠ 0 then mvrErr s u n 4
  else if mode = 0 then mvrGoto (mvrPulse s u (bits w 6 5)) u n (pc + 1)
  else if 16 ≤ u then mvrErr s u n 7
  else match x.held with
    | none => mvrErr s u n 8
    | some h =>
      let e := if mode = 1 then h.1.toNat else eHANDLE h.1.toNat
      let bad := pushRefused s c q e
      let s := pushQueue s c q (BitVec.ofNat 64 e) q
      if bad then mvrFail s u n 2 4
      else
        let s := (s.setMvr u n { s.mvr u n with held := none }).setF (mvrBase u n) MVR_STATUS_HELD 0
        mvrGoto s u n (pc + 1)

/-- END (R325, Table 9.2): it waits for the writes that are on their way. -/
def mvrEnd (s : State) (u n : Nat) : State :=
  if !mvrAtOp s u n 5 then s
  else if mvrWord s u n / 16 ≠ 0 then mvrErr s u n 4
  else
    if !(s.mvr u n).post.isEmpty then s else
    let s := mvrPulse s u n
    let x := s.mvr u n
    let s := s.setMvr u n { x with outFor := none }
    match x.next with
    | some a => mvrStart s u n a.1 a.2
    | none => s.setF (mvrBase u n) MVR_STATUS_STATE 0

/-- A reserved opcode (R326). -/
def mvrReservedOp (s : State) (u n : Nat) : State :=
  let op := mvOP (mvrWord s u n)
  if (op = 6 ∨ 8 ≤ op) ∧ mvrAtOp s u n op then mvrErr s u n 3 else s

/-! ### Bursts (R327 to R331, R334, R335) -/

/-- Every 32-bit word of the data rearranged (Table 9.4). -/
def swapBytes (m : Nat) : Bytes → Bytes
  | a :: b :: c :: d :: t =>
    (match m with
     | 1 => [b, a, d, c]
     | 2 => [c, d, a, b]
     | 3 => [d, c, b, a]
     | _ => [a, b, c, d]) ++ swapBytes m t
  | t => t

/-- A request line is asserted (R329). -/
def mvrLine (s : State) (u line : Nat) : Bool :=
  if u < 16 then decide (line < 8) && decide ((SMap.get [] (s.cluster u).feeds line).length ≤ 12)
  else
    let lvl := s.getF (fifBase line) FIF_LEVEL_BYTES
    lvl != 0 && decide (lvl ≤ fifOcc s line)

/-- Bytes of one cellar record (R277). -/
def celLen (s : State) (c q : Nat) : Nat := ceilDiv (64 + (s.getF (hqBase c q) STU_HQ_BUF_SIZE + 1) * 64) 256 * 256

/-- Bursts of the work in hand at a cluster's lull channel: of the records it writes and of the one it reads back, a marker's
in one burst (R273, R274, R277). -/
def lullBursts (s : State) (cl : Nat) : Nat :=
  match (s.cluster cl).lull with
  | [] => 0
  | (c, q, e, k) :: _ =>
    let rec_ := celLen s c q / 256
    match e with
    | none =>
      let h := s.hq c q
      (h.entries.drop (h.entries.length - k)).foldl (fun n x => n + (if eEOF x.toNat then 1 else rec_)) 0
    | some x =>
      if k = 0 then (if eEOF x.toNat then 1 else 2 * rec_) else if (s.hq c q).celCount = 0 then 0 else rec_

/-- The lull channel of a cluster has a burst to issue (R276, R339). -/
def lullReady (s : State) (u : Nat) : Bool := decide (u < 16) && decide ((s.cluster u).lullDone < lullBursts s u)

/-- The channel is ready to issue a burst. -/
def mvrReady (s : State) (u n : Nat) : Bool :=
  let x := s.mvr u n
  let st := mvrState s u n
  if n = 15 ∧ lullReady s u then true else
  !x.locked && ((st = 1 && decide (0 < x.loadLeft)) ||
    (st = 2 && x.moving && (!mvPACE (mvrWord s u n) || mvrLine s u (mvREQ (mvrWord s u n)))))

/-- The channel the mover serves: highest priority, which the lull channel has while it serves a lull, then after the one
served last (R328, R339). -/
def mvrPick (s : State) (u : Nat) : Option Nat :=
  let k := if u < 16 then 16 else 32
  let last := SMap.get (k - 1) s.mvrLast u
  let l := ((List.range k).map (fun i => (last + 1 + i) % k)).filter (fun n => mvrReady s u n)
  [3, 2, 1, 0].foldl (fun o pr => o.orElse (fun _ =>
    l.find? (fun n => (if n = 15 ∧ lullReady s u then 3 else mvrPRIO s u n) = pr))) none

/-- How one access of a burst ends. -/
inductive Acc1
  | ok (b : Bytes) (lastv : Nat)
  | wait
  /-- A bus error with its DETAIL (Table 9.8). -/
  | bus (detail : Nat)
  /-- R58 refuses it in a core (R335). -/
  | bounds (c : Nat) (off : Nat)

/-- The gust channel whose feed window a register address lies in (R259). -/
def feedWindow (a : Nat) : Option (Nat × Nat × Nat) :=
  match windowOf a with
  | some (.cluster, o) =>
    if 0x10000 ≤ o ∧ o < 0x18000 then some (4 * bits a 40 2 + bits a 36 4, (o - 0x10000) / 0x1000, o % 0x1000) else none
  | _ => none

/-- The ingest FIFO under an address that the hub mover reads as a FIFO (R346). -/
def moverFifo (s : State) (u a : Nat) : Option Nat :=
  let k := (a - hubSram) / 0x10000
  if u = 16 ∧ placeOf a = .hubSram ∧ k < 128 ∧ s.getF (fifBase k) FIF_CFG_READER = 1 then some k else none

/-- The source of a burst read. -/
def mvrRead (s : State) (u a len : Nat) : Acc1 × State :=
  match asleep s a len with
  | some t => (.wait, t)
  | none =>
    match moverFifo s u a with
    | some k =>
      match fifWords s k (len / 64) with
      | none => (.wait, s)
      | some (l, t) => (.ok (l.flatMap (·.1)) (l.foldl (fun v p => if p.2 = 0 then v else p.2) 0), t)
    | none =>
      if placeOf a = .hubSram ∧ u ≠ 16 then (.bus 1, logBusError s a)
      else if placeOf a = .dieReg ∨ placeOf a = .hubReg then (.bus 2, logBusError s a)
      else
        let bad := match placeOf a with
          | .scratch c => !boundsOk s c (a % 2 ^ 32 : Nat) len false
          | _ => false
        if bad then (.bounds (match placeOf a with | .scratch c => c | _ => 0) (a % 2 ^ 32), s)
        else match memRead s a len with
          | (.ok b, t) => (.ok b 0, t)
          | (.bus, t) => (.bus 1, logBusError t a)
          | (.ue l, t) => (.bus 3, logUncorrectable t l 3 0xFF)

/-- The destination of a burst can take it. -/
def mvrRoom (s : State) (a len : Nat) : Bool :=
  match feedWindow a with
  | some (cl, ch, _) => decide ((SMap.get [] (s.cluster cl).feeds ch).length + len / 64 ≤ 16)
  | none => true

/-- The destination of a burst written. `late` is the channel whose write is still on its way when the burst has been issued: its
destination is checked, and the bytes arrive later (R330). -/
def mvrWrite (s : State) (u a : Nat) (b : Bytes) (late : Option Nat) : Acc1 × State :=
  match feedWindow a with
  | some (cl, ch, o) =>
    if !reachable s a then (.bus 1, logBusError s a) else
    (.ok [] 0, (List.range (b.length / 64)).foldl (fun t i => gustFeed t cl ch (o + 64 * i) (slice b (64 * i) 64)) s)
  | none =>
    if placeOf a = .hubSram ∧ u ≠ 16 then (.bus 1, logBusError s a)
    else if placeOf a = .dieReg ∨ placeOf a = .hubReg then (.bus 2, logBusError s a)
    else
      let bad := match placeOf a with
        | .scratch c => !boundsOk s c (a % 2 ^ 32 : Nat) b.length true
        | _ => false
      if bad then (.bounds (match placeOf a with | .scratch c => c | _ => 0) (a % 2 ^ 32), s)
      else if late.isSome ∧ reachable s a ∧ placeOf a ≠ .hubSram then
        let n := late.getD 0
        (.ok [] 0, s.setMvr u n { s.mvr u n with post := (s.mvr u n).post ++ [(a, b)] })
      else match memWrite s a b with
        | (.bus, t) => (.bus 1, logBusError t a)
        | (_, t) => (.ok [] 0, t)

/-- A burst is issued: a repeat of the one that failed counts (R334), and another has no repeats yet (R337). -/
def mvrIssued (s : State) (u n : Nat) : State :=
  let x := s.mvr u n
  if x.again then
    (s.setMvr u n { x with again := false, tries := x.tries + 1 }).addF (mvrBase u n) MVR_RETRIES_COUNT 1
  else s.setMvr u n { x with tries := 0 }

/-- An issued burst met a bus error: it is to be repeated, up to RETRY times, or the channel halts (R334). -/
def mvrRetry (s : State) (u n detail : Nat) : State :=
  let x := s.mvr u n
  if x.tries < mvrRETRY s u n then s.setMvr u n { x with again := true } else mvrFail s u n 2 detail

/-- R58 refused an access: BOUNDS in that core, and the channel halts with CAUSE 4 (R335). -/
def mvrBounds (s : State) (u n c off : Nat) : State :=
  mvrFail (coreFault s c 0x01 0 (some (unsigned 23 off))) u n 4 0

/-- A load burst: up to the next 256-byte boundary; after the last the program runs. -/
def mvrLoadBurst (s : State) (u n : Nat) : State :=
  let b := mvrBase u n
  let x := s.mvr u n
  let len := min x.loadLeft (256 - x.loadAddr % 256)
  let i := injected s 0x09 (if u < 16 then u * 32 + n else 0x200 + n)
  if i.1 then mvrRetry (mvrIssued i.2 u n) u n 1 else
  match mvrRead s u x.loadAddr len with
  | (.wait, t) => t
  | (.bus d, t) => mvrRetry (mvrIssued t u n) u n d
  | (.bounds c o, t) => mvrBounds (mvrIssued t u n) u n c o
  | (.ok d _, t) =>
    let t := mvrIssued t u n
    let x := t.mvr u n
    let ws := (cutBytes (len / 16 + 1) 16 d).map (fun p => BitVec.ofNat 128 (bytesToNat p))
    let x := { x with prog := x.prog ++ ws, loadAddr := x.loadAddr + len, loadLeft := x.loadLeft - len }
    let t := (t.setMvr u n x).addF b MVR_BURSTS_COUNT 1
    if x.loadLeft = 0 then (t.setF b MVR_STATUS_STATE 2).setF b MVR_STATUS_PC 0 else t

/-- What a data burst moves: the bytes a failed one has read already, or those of its source, with the valid-byte tag of a
padded FIFO word kept as it is read (R337, R345). -/
def mvrSource (s : State) (u n a len : Nat) : Acc1 × State :=
  match (s.mvr u n).kept with
  | some b => (.ok b 0, s)
  | none =>
    match mvrRead s u a len with
    | (.ok b v, t) => (.ok b v, if v = 0 then t else t.setMvr u n { t.mvr u n with lastv := v })
    | r => r

/-- A data burst of the current MOVE: up to the next 256-byte boundary of its destination. Without BAR its write may still be
on its way when the channel goes on (R330, log 102). The repeat of a burst whose write failed writes what it read (log 130,
DEDUCED). -/
def mvrDataBurst (s : State) (u n : Nat) : State :=
  let b := mvrBase u n
  let x := s.mvr u n
  let w := mvrWord s u n
  let src := (mvrSrc s u n x.row).toNat + x.done
  let dst := (mvrDst s u n x.row).toNat + x.done
  let rowLen := 64 * mvUNITS w
  let len := min (rowLen - x.done) (256 - dst % 256)
  let i := injected s 0x09 (if u < 16 then u * 32 + n else 0x200 + n)
  if i.1 then mvrRetry (mvrIssued i.2 u n) u n 1
  else if !mvrRoom s dst len then s
  else match asleep s dst len with
  | some t => t
  | none =>
    match mvrSource s u n src len with
    | (.wait, t) => t
    | (.bus d, t) => mvrRetry (mvrIssued t u n) u n d
    | (.bounds c o, t) => mvrBounds (mvrIssued t u n) u n c o
    | (.ok d _, t) =>
      let late := if mvBAR w then false else Config.lateWrite t.fresh
      let t := mvrIssued (if mvBAR w then t else { t with fresh := t.fresh + 1 }) u n
      match mvrWrite t u dst (swapBytes (mvSWAP w) d) (if late then some n else none) with
      | (.wait, t) => t
      | (.bus e, t) => mvrRetry (t.setMvr u n { t.mvr u n with kept := some d }) u n e
      | (.bounds c o, t) => mvrBounds t u n c o
      | (.ok _ _, t) =>
        let x := t.mvr u n
        let t := t.addF b MVR_BURSTS_COUNT 1
        let x := { x with kept := none, done := x.done + len }
        if x.done < rowLen then t.setMvr u n x
        else if x.row + 1 < mvrRows t u n then t.setMvr u n { x with row := x.row + 1, done := 0 }
        else
          let two := decide (mvOP w = 7)
          let pc := mvrPC t u n
          mvrGoto (t.setMvr u n { x with row := x.row + 1, done := 0, moving := false }) u n (pc + if two then 2 else 1)

/-! ### The lull channel (R276, R339) -/

/-- RETRY and PLAN of a cluster's lull channel: MVR_CH15_CFG as it stands, since no program of it starts (R318; log 131,
DEDUCED). -/
def lullRETRY (s : State) (u : Nat) : Nat := bits (s.reg (mvrBase u 15)) 2 3
def lullPLAN (s : State) (u : Nat) : Nat := bits (s.reg (mvrBase u 15)) 5 4

/-- The lull channel meets an error: the channel halts, the transfers that wait for it end, and the plan its CFG names stops;
one that belongs to the steward stops none (R438). -/
def lullError (s : State) (c cause detail : Nat) : State :=
  let u := c / 8
  let p := lullPLAN s u
  let s := haltChannel s u 15 cause detail
  let s := s.setCluster u { s.cluster u with lull := [], lullDone := 0 }
  if 8 ≤ p then s
  else planFault (logEvent s 0x8009 0xFF p u 15 0 0) p 3 0xFF (u * 256 + 15)

/-- A burst of the lull channel: the data move when the last of them is done (R273, R274). -/
def lullBurst (s : State) (u : Nat) : State :=
  let i := injected s 0x09 (u * 32 + 15)
  let s := mvrIssued i.2 u 15
  if i.1 then
    let x := s.mvr u 15
    if x.tries < lullRETRY s u then s.setMvr u 15 { x with again := true }
    else lullError s (match (s.cluster u).lull with | l :: _ => l.1 | [] => 8 * u) 2 1
  else
    let k := s.cluster u
    (s.setCluster u { k with lullDone := k.lullDone + 1 }).addF (mvrBase u 15) MVR_BURSTS_COUNT 1

/-- An access of the lull channel, repeated while it meets a bus error, so many times at most (R334). -/
def lullTry (u : Nat) (failed : MemRes → Bool) (f : State → MemRes × State) : Nat → State → MemRes × State
  | 0, s => f s
  | k + 1, s =>
    let r := f s
    if failed r.1 then lullTry u failed f k (mvrIssued (r.2.setMvr u 15 { r.2.mvr u 15 with again := true }) u 15) else r

/-! ### Bursts -/

/-- A write on its way failed: it is repeated like every burst that meets a bus error, with the same end, and then the channel
halts (R334). -/
def lateFails (u n : Nat) (s : State) (a : Nat) : State :=
  let s := logBusError s a
  let r := mvrRETRY s u n
  if mvrState s u n = 4 then s
  else mvrFail ((s.setMvr u n { s.mvr u n with tries := r }).addF (mvrBase u n) MVR_RETRIES_COUNT r) u n 2 1

/-- Writes still on their way in a mover arrive (R330). -/
def landAll (s : State) (u : Nat) : State :=
  (List.range (if u < 16 then 16 else 32)).foldl (fun t n =>
    let l := (t.mvr u n).post
    if l.isEmpty then t else landList u n (lateFails u n) l (setPosts t u n [])) s

/-- MVR_BURST: one burst of the channel whose turn it is, after the writes that were on their way. -/
def mvrBurst (s : State) (u : Nat) : State :=
  let s := landAll s u
  match mvrPick s u with
  | none => s
  | some n =>
    let s := { s with mvrLast := s.mvrLast.put u n }
    if n = 15 ∧ lullReady s u then lullBurst s u
    else if mvrState s u n = 1 then mvrLoadBurst s u n else mvrDataBurst s u n

/-! ### The meanings -/

def execMvrArm (u : Fin 17) (n : Fin 32) (v : BitVec 32) (s : State) : Host.Outcome State Fault Refusal :=
  live s (mvrArm s u n v.toNat)
def execMvrAbort (u : Fin 17) (n : Fin 32) (s : State) : Host.Outcome State Fault Refusal := live s (mvrAbortWrite s u n)
def execMvrBurst (u : Fin 17) (s : State) : Host.Outcome State Fault Refusal := live s (mvrBurst s u)
def execMvrNop (u : Fin 17) (n : Fin 32) (s : State) : Host.Outcome State Fault Refusal := live s (mvrNop s u n)
def execMvrMove (u : Fin 17) (n : Fin 32) (s : State) : Host.Outcome State Fault Refusal := live s (mvrBeginMove s u n 1)
def execMvrMove2d (u : Fin 17) (n : Fin 32) (s : State) : Host.Outcome State Fault Refusal := live s (mvrBeginMove s u n 7)
def execMvrLoop (u : Fin 17) (n : Fin 32) (s : State) : Host.Outcome State Fault Refusal := live s (mvrLoop s u n)
def execMvrWait (u : Fin 17) (n : Fin 32) (s : State) : Host.Outcome State Fault Refusal := live s (mvrWait s u n)
def execMvrSignal (u : Fin 17) (n : Fin 32) (s : State) : Host.Outcome State Fault Refusal := live s (mvrSignal s u n)
def execMvrEnd (u : Fin 17) (n : Fin 32) (s : State) : Host.Outcome State Fault Refusal := live s (mvrEnd s u n)
def execMvrReservedOpcode (u : Fin 17) (n : Fin 32) (s : State) : Host.Outcome State Fault Refusal :=
  live s (mvrReservedOp s u n)

end Sys2Proof.Machine
end

