-- ==== Sys2Proof/Machine/Switch.lean ====
section
/-! DEFINITION. Configurations written by the steward (R371 to R374, R378, R444), the drain of a plan (R42, R262 to R264),
the segment switch (R44), the kiln commit (R162, R163), relocation (R441 to R445), and the commit groups of these steps
with the two-phase protocol (R426 to R432). -/

namespace Sys2Proof.Machine
open Sys2Proof
open Sys2Proof.Machine.Reg

/-! ### Configuration writes -/

/-- The mover channel register at an address: cluster or 16 for the hub, channel, offset. -/
def moverReg (a : Nat) : Option (Nat × Nat × Nat) :=
  match windowOf a with
  | some (.cluster, o) => if 0x2000 ≤ o ∧ o < 0x3000 then some (clusterNum a, (o - 0x2000) / 0x100, o % 0x100) else none
  | some (.hub, o) => if 0x50000 ≤ o ∧ o < 0x52000 then some (16, (o - 0x50000) / 0x100, o % 0x100) else none
  | _ => none

/-- The engine whose seed register lies at an offset of a core window. -/
def seedEngine (o : Nat) : Option Nat :=
  if 0x4000 ≤ o ∧ o < 0x4800 ∧ o % 0x100 = 8 then some ((o - 0x4000) / 0x100) else none

/-- A register write of a configuration: under R84 in a core, with its effect in a mover channel. -/
def cfgReg (s : State) (a v : Nat) : State :=
  match windowOf a with
  | some (.core, o) =>
    let c := coreNum a
    if isCoreConfig o then coreConfigWrite s c o v
    else match seedEngine o with
      | some e => engSeedWrite s c e v
      | none => s.writePlain a v
  | some (w, o) =>
    match moverReg a, if w = .cluster then gustMaskAt o else none with
    | some (u, n, 0xC), _ => mvrArm s u n v
    | some (u, n, 4), _ => if bit v 0 then mvrAbortWrite s u n else s
    | _, some ch => gustMaskWrite s (clusterNum a) ch v
    | _, none => s.writePlain a v
  | none => s

/-- One write of a configuration. Arms of mover channels wait for the commit (R44): the channels are collected. -/
def cfgStep (st : State × List (Nat × Nat)) (w : CfgWrite) : State × List (Nat × Nat) :=
  match w with
  | .sram a d => (stewardWrite st.1 a d, st.2)
  | .reg a v =>
    match moverReg a with
    | some (u, n, 0xC) => (st.1.writeRW a v, if st.2.contains (u, n) then st.2 else st.2 ++ [(u, n)])
    | _ => (cfgReg st.1 a v, st.2)

/-- Writes made; the channels they arm. -/
def writeList (s : State) (l : List CfgWrite) : State × List (Nat × Nat) := l.foldl cfgStep (s, [])

/-! ### The kept image after a kiln pass (R163) -/

/-- A register value of a configuration in the kept image changed. -/
def patchReg (b : Bytes) (cfg addr : Nat) (f : Nat → Nat) : Bytes :=
  (sects b).foldl (fun m p =>
    let x := p.2
    if x.cfg ≠ cfg then m
    else if x.typ = 8 then (List.range (x.len / 16)).foldl (fun m i =>
      let o := x.off + 16 * i
      if leAt m o 6 = addr then patch m (o + 8) (natToBytes 4 (f (leAt m (o + 8) 4))) else m) m
    else if x.typ = 9 ∧ x.dest ≤ addr ∧ addr < x.dest + x.len ∧ (addr - x.dest) % 4 = 0 then
      let o := x.off + (addr - x.dest)
      patch m o (natToBytes 4 (f (leAt m o 4)))
    else m) b

/-- The kept image and tables with one PPU of a kiln stage committed: TSEL flipped, the tables of the pair now selected read
back. A PPU whose tables the steward cannot read keeps what it had (DESIGN CHOICE, log 135). -/
def kilnPpu (st : State × Bytes × List (Nat × Nat × Bytes)) (seg c d e : Nat) : State × Bytes × List (Nat × Nat × Bytes) :=
  let s := st.1
  let r := ppuBase d e
  let sel := 1 - s.getF r PPU_CTRL_TSEL
  let n := s.getF r PPU_NCH_COUNT + 1
  let rt := 64 * (if sel = 1 then s.getF r PPU_RTAB_B_BASE else s.getF r PPU_RTAB_A_BASE)
  let bt := 64 * (if sel = 1 then s.getF r PPU_BTAB_B_BASE else s.getF r PPU_BTAB_A_BASE)
  let q1 := stewardBytes s (scratchWin d + rt) (8 * n)
  let q2 := stewardBytes q1.2 (scratchWin d + bt) (16 * n)
  match q1.1, q2.1 with
  | some rb, some bb =>
    let tabs := [(scratchWin c + rt, rb), (scratchWin c + bt, bb)]
    let one (m : Bytes × List (Nat × Nat × Bytes)) (cfg : Nat) : Bytes × List (Nat × Nat × Bytes) :=
      (patchReg m.1 cfg (ppuBase c e) (fun v => setBits v 2 1 sel),
        m.2.filter (fun k => !(k.1 = cfg && tabs.any (fun t => k.2.1 = t.1 && decide (k.2.2.length ≤ t.2.length)))) ++
          tabs.map (fun t => (cfg, t.1, t.2)))
    (q2.2, one (one st.2 seg) (16 + seg))
  | _, _ => (q2.2, st.2)

/-- The kept image and tables as the commit of the kiln pass in force makes them (R163): every PPU of every kiln stage. A pass
that has not ended commits nothing. -/
def kilnImage (s : State) (p : Nat) : State × Bytes × List (Nat × Nat × Bytes) :=
  let x := s.plan p
  if !passOver s p then (s, x.img, x.kept)
  else ((maskBits 128 (stageMask x.img x.cfg)).filter (fun c => (kilnCores s p).contains (movedTo x x.cfg c))).foldl
    (fun m c => (List.range 8).foldl (fun m e => kilnPpu m (x.cfg - 16) c (movedTo x x.cfg c) e) m) (s, x.img, x.kept)

/-- The state arrays of the kiln stages of a configuration zeroed (R158). -/
def zeroKiln (s : State) (p cfg : Nat) : State :=
  let x := s.plan p
  (maskBits 128 (stageMask x.img cfg)).foldl (fun t c =>
    let d := movedTo x cfg c
    (List.range 8).foldl (fun t e =>
      let r := ppuBase d e
      if t.getF r PPU_CTRL_KILN ≠ 1 then t
      else stewardWrite t (scratchWin d + 64 * t.getF r PPU_KSTATE_BASE)
        (List.replicate (64 + 4 * (t.getF r PPU_NCH_COUNT + 1)) 0)) t) s

/-! ### Action records (Tables 12.1 and 12.2) -/

def acKIND (a : Nat) : Nat := bits a 0 4
def acADDR (a : Nat) : Nat := bits a 8 48
def acVALUE (a : Nat) : Nat := bits a 64 32
def acVALUE2 (a : Nat) : Nat := bits a 96 32

def mkAction (kind addr v v2 : Nat) : BitVec 128 :=
  BitVec.ofNat 128 (kind + addr * 2 ^ 8 + v % 2 ^ 32 * 2 ^ 64 + v2 % 2 ^ 32 * 2 ^ 96)

/-- The cores an epoch advance names. -/
def epochCores (u a : Nat) : List Nat := (maskBits 8 (acADDR a)).map (fun k => 8 * u + k)

/-- The queue whose STU_HQ_CFG lies at an address. -/
def queueReg (a : Nat) : Option (Nat × Nat) :=
  match windowOf a with
  | some (.core, o) =>
    if 0x8400 ≤ o ∧ o < 0x8800 ∧ o % 0x40 = 0 then some (coreNum a, (o - 0x8400) / 0x40) else none
  | _ => none

/-- The cores and channels an action names. -/
def namedCores (u a : Nat) : List Nat :=
  match acKIND a with
  | 1 => (coreHolding (acADDR a)).toList
  | 3 => ((queueReg (acADDR a)).map (·.1)).toList
  | 4 => epochCores u a
  | _ => []

def namedChannels (a : Nat) : List (Nat × Nat) :=
  if acKIND a = 2 then ((moverReg (acADDR a)).map (fun m => (m.1, m.2.1))).toList else []

/-- The check of an action at prepare in the TXU of cluster u, or of the hub for u = 16: TXU_STATUS.FAIL_WHY. -/
def actionFault (s : State) (u a : Nat) : Nat :=
  let d := acADDR a
  match acKIND a with
  | 1 =>
    match windowOf d with
    | some (.hub, _) => if u = 16 ∧ d % 4 = 0 then 0 else 2
    | some (.core, o) =>
      if u = 16 ∨ clusterNum d ≠ u ∨ d % 4 ≠ 0 then 2
      else if (isCoreConfig o || (seedEngine o).isSome) && !drained s (coreNum d) then 3 else 0
    | some (.cluster, _) => if u = 16 ∨ clusterNum d ≠ u ∨ d % 4 ≠ 0 then 2 else 0
    | _ => 2
  | 2 =>
    match moverReg d with
    | some (v, n, 8) =>
      let st := mvrState s u n
      if v ≠ u then 2
      else if n = 15 ∧ u < 16 ∧ !(s.cluster u).lull.isEmpty then 4
      else if st = 0 ∨ st = 4 ∨ (s.mvr u n).next.isNone then 0 else 4
    | _ => 2
  | 3 =>
    match queueReg d with
    | some (c, q) =>
      let e := acVALUE a + acVALUE2 a * 2 ^ 32
      if c / 8 ≠ u then 2
      else if s.getF (hqBase c q) STU_HQ_CFG_DEPTH ≤ (s.hq c q).entries.length then 5
      else if !eEOF e && !handleInRange s c q (eHANDLE e) then 5 else 0
    | none => 2
  | 4 => if u = 16 then 2 else if (epochCores u a).all (drained s) then 0 else 3
  | _ => 1

/-- The first failing action with its cause. -/
def groupFault (s : State) (u : Nat) (l : List (BitVec 128)) : Option (Nat × Nat) :=
  ((l.map (fun a => actionFault s u a.toNat)).zipIdx.find? (fun r => r.1 ≠ 0)).map (fun r => (r.2, r.1))

/-- TXU_FENCE_SET: a one fences core k of the cluster (R439). -/
def txuFence (s : State) (u mask : Nat) : State :=
  if 16 ≤ u then s
  else (maskBits 8 mask).foldl (fun t k => if fenced t (8 * u + k) then t else fenceAndMove t (8 * u + k)) s

/-- A write of its own registers by the TXU that applies a group: its staging area and COMMIT are refused (R430). -/
def txuOwnWrite (s : State) (u o a v : Nat) : State :=
  if (o = 0 ∧ bit v 0) ∨ (0x100 ≤ o ∧ o < 0x500) then s.setF (txuBase u) TXU_STATUS_BUSY_ERR 1
  else if o = 0x10 then txuFence s u (bits v 8 8)
  else s.writePlain a v

/-- A write of a mover channel's registers (Table 9.9). -/
def mvrRegWrite (s : State) (u n o a v : Nat) : State :=
  if o = 4 then (if bit v 0 then mvrAbortWrite s u n else s)
  else if o = 0xC then mvrArm s u n v
  else s.writePlain a v

/-- The feeder whose FIF_FD_EPOCH lies at an address. -/
def feederEpoch (a : Nat) : Option Nat := (List.range 8).find? (fun p => a = fdBase p + 8)

/-- A hub register whose write has an effect in a unit of its own: the mailbox, an ingest FIFO, a relay port, the power
controller, the monitor. -/
def hubEffect (o : Nat) : Bool :=
  decide (o < 0x10000) || (decide (0x40000 ≤ o) && decide (o < 0x48000)) ||
    (decide (0x60000 ≤ o) && decide (o < 0x80000)) || decide (0x90000 ≤ o)

/-- A register write as an action of a group: a core's configuration takes it whatever its core does by now, since the check of
R84 was made at prepare (R432). The other effects are those of the register. -/
def actReg (s : State) (u a v : Nat) : State :=
  match windowOf a with
  | some (.core, o) =>
    let c := coreNum a
    if isCoreConfig o then coreConfigSet s c o v
    else if o = 0x6000 then bankCtrlWrite s (c / 32) (c % 32) v
    else match seedEngine o with
      | some e => s.setF (engBase c e) ENG_SEED_SEED v
      | none => s.writePlain a v
  | some (.cluster, o) =>
    if o < 0x1000 then txuOwnWrite s u o a v
    else if 0x2000 ≤ o ∧ o < 0x3000 then mvrRegWrite s u ((o - 0x2000) / 0x100) (o % 0x100) a v
    else if o = 0x6000 then bankCtrlWrite s (u / 4) (32 + u % 4) v
    else match gustMaskAt o with
      | some ch => gustMaskWrite s u ch v
      | none => s.writePlain a v
  | some (.hub, o) =>
    if 0x30000 ≤ o ∧ o < 0x31000 then txuOwnWrite s 16 (o - 0x30000) a v
    else if 0x50000 ≤ o ∧ o < 0x52000 then mvrRegWrite s 16 ((o - 0x50000) / 0x100) (o % 0x100) a v
    else if hubEffect o then { s with writes := s.writes ++ [(a, v)] }
    else match feederEpoch a with
      | some p => s.setF (fdBase p) FIF_FD_EPOCH_EPOCH v
      | none => s.writePlain a v
  | _ => s

/-- One action applied (Table 12.2). -/
def applyAction (s : State) (u a : Nat) : State :=
  match acKIND a with
  | 1 => actReg s u (acADDR a) (acVALUE a)
  | 2 =>
    match moverReg (acADDR a) with
    | some (v, n, _) => mvrArm (s.writeRW (acADDR a) (acVALUE a)) v n (acVALUE2 a)
    | none => s
  | 3 =>
    match queueReg (acADDR a) with
    | some (c, q) => pushQueue s c q (BitVec.ofNat 64 (acVALUE a + acVALUE2 a * 2 ^ 32)) (4 * 16 + q)
    | none => s
  | 4 => (epochCores u a).foldl (fun t c =>
      let t := t.setF (coreWin c) SEQ_EPOCH_EPOCH (acVALUE a % 4096)
      let t := (List.range 16).foldl (fun t q => resetQueue t c q) t
      emptyFeeds (t.setCore c { t.core c with gust := [], flush := false }) c) s
  | _ => s

/-- Two actions name the same address: both a register, or both the same cores. -/
def sameAddr (a b : BitVec 128) : Bool :=
  acADDR a.toNat = acADDR b.toNat && decide (acKIND a.toNat = 4 ↔ acKIND b.toNat = 4)

/-- The actions that no later one on the same address replaces, in staging order (R428). -/
def lastActs : List (BitVec 128) → List (BitVec 128)
  | [] => []
  | a :: l => if l.any (sameAddr a) then lastActs l else a :: lastActs l

/-- A group applied in staging order (R428). -/
def applyGroup (s : State) (u : Nat) (l : List (BitVec 128)) : State :=
  (lastActs l).foldl (fun t a => applyAction t u a.toNat) s

/-- The cores and channels a group names locked against issue and bursts, or released (Table 12.3). -/
def lockGroup (s : State) (u : Nat) (l : List (BitVec 128)) (on : Bool) : State :=
  let s := (l.flatMap (fun a => namedCores u a.toNat)).foldl (fun t c => t.setCore c { t.core c with locked := on }) s
  (l.flatMap (fun a => namedChannels a.toNat)).foldl (fun t q => t.setMvr q.1 q.2 { t.mvr q.1 q.2 with locked := on }) s

/-! ### The staging registers (R429, R430, R451) -/

def txuState (s : State) (u : Nat) : Nat := s.getF (txuBase u) TXU_STATUS_STATE
def txuCount (s : State) (u : Nat) : Nat := s.getF (txuBase u) TXU_STATUS_COUNT

/-- The TXU is PREPARED or APPLYING. -/
def txuBusy (s : State) (u : Nat) : Bool := txuState s u = 2 || txuState s u = 3

/-- The action staged at place i. -/
def stagedAt (s : State) (u i : Nat) : BitVec 128 :=
  let a := txuBase u + 0x100 + 16 * i
  BitVec.ofNat 128 (s.reg a + s.reg (a + 4) * 2 ^ 32 + s.reg (a + 8) * 2 ^ 64 + s.reg (a + 12) * 2 ^ 96)

def staged (s : State) (u : Nat) : List (BitVec 128) := (List.range (txuCount s u)).map (stagedAt s u)

/-- The steward stages actions in a TXU; the registers show the first 64. -/
def stageActs (s : State) (u : Nat) (l : List (BitVec 128)) : State :=
  let s := (l.take 64).zipIdx.foldl (fun t r =>
    (List.range 4).foldl (fun t k => t.setReg (txuBase u + 0x100 + 16 * r.2 + 4 * k) (bits r.1.toNat (32 * k) 32)) t) s
  (s.setF (txuBase u) TXU_STATUS_COUNT (min 64 l.length)).setF (txuBase u) TXU_STATUS_STATE 1

/-- TXU_ACT_WRITE: word k of action i, its reserved bits [7:4] and [63:56] clear (Table 12.1, R13). -/
def txuActWrite (s : State) (u i k v : Nat) : State :=
  let b := txuBase u
  if txuBusy s u then s.setF b TXU_STATUS_BUSY_ERR 1
  else
    let s := s.setReg (b + 0x100 + 16 * i + 4 * k) (if k = 0 then setBits v 4 4 0 else if k = 1 then v % 2 ^ 24 else v)
    (s.maxF b TXU_STATUS_COUNT (i + 1)).setF b TXU_STATUS_STATE 1

/-- TXU_CLEAR. -/
def txuClear (s : State) (u : Nat) : State :=
  if txuState s u = 1 ∨ txuState s u = 5 then (s.setF (txuBase u) TXU_STATUS_COUNT 0).setF (txuBase u) TXU_STATUS_STATE 0
  else s

/-- A TXU has applied its group. -/
def txuDone (s : State) (u : Nat) : State :=
  let b := txuBase u
  ((s.setF b TXU_STATUS_COUNT 0).setF b TXU_STATUS_STATE 4).addF b TXU_COMMITS_COUNT 1

/-- A TXU notes the first failing action and the cause. -/
def txuFail (s : State) (u idx why : Nat) : State :=
  (s.setF (txuBase u) TXU_STATUS_FAIL_IDX idx).setF (txuBase u) TXU_STATUS_FAIL_WHY why

/-- The commit of a group in one cluster (R429). -/
def localCommit (s : State) (u : Nat) : State :=
  let b := txuBase u
  if txuCount s u = 0 then s.setF b TXU_STATUS_STATE 4
  else match groupFault s u (staged s u) with
    | some (i, w) => ((txuFail s u i w).setF b TXU_STATUS_STATE 5).addF b TXU_FAILS_COUNT 1
    | none => txuDone (txuFail (applyGroup s u (staged s u)) u 0 0) u

/-! ### Groups of the steward -/

/-- The cores of a plan that take part in its commit groups. -/
def liveCores (s : State) (p : Nat) : List Nat := (heldCores s p).filter (fun c => !fenced s c)

/-- A register write as an action of its cluster's TXU. -/
def writeAction : CfgWrite → Option (Nat × BitVec 128)
  | .reg a v => match windowOf a with
    | some (.hub, _) => some (16, mkAction 1 a v 0)
    | some (_, _) => some (clusterNum a, mkAction 1 a v 0)
    | none => none
  | .sram _ _ => none

/-- The detour writes that go into a group, and those that are made directly before it: a TXU stages 64 actions (R426), of which
a cluster's group takes 17 for its epoch and its channels. The last writes are staged (DESIGN CHOICE, log 134). -/
def detourSplit (l : List CfgWrite) : List CfgWrite × List CfgWrite :=
  l.foldr (fun w st =>
    match writeAction w with
    | none => (st.1, w :: st.2)
    | some (u, _) =>
      if 47 ≤ (st.1.filter (fun x => (writeAction x).map (·.1) = some u)).length then (st.1, w :: st.2) else (w :: st.1, st.2))
    ([], [])

/-- The group that makes a step of a plan live: detour writes, an epoch for the plan's cores and its feeder, mover channels
armed with what their registers hold (R44, Table 12.6). -/
def epochGroup (s : State) (p kind e : Nat) (detour : List CfgWrite) (arms : List (Nat × Nat)) : Group :=
  let w := detour.filterMap writeAction
  let arm (q : Nat × Nat) : BitVec 128 :=
    let b := mvrBase q.1 q.2
    mkAction 2 (b + 8) (s.reg (b + 8)) (s.reg (b + 0xC))
  let one (u : Nat) : List (BitVec 128) :=
    let m := ((liveCores s p).filter (fun c => c / 8 = u)).foldl (fun m c => m + 2 ^ (c % 8)) 0
    (w.filter (fun x => x.1 = u)).map (·.2) ++ (if m = 0 then [] else [mkAction 4 m e 0]) ++
      (arms.filter (fun q => q.1 = u)).map arm
  { kind := kind, plan := p
    acts := (List.range 16).filterMap (fun u => if (one u).isEmpty then none else some (u, one u))
    hub := (w.filter (fun x => x.1 = 16)).map (·.2) ++ [mkAction 1 (fdBase p + 8) e 0] ++
      (arms.filter (fun q => q.1 = 16)).map arm }

/-- The group of a switch or a relocation: the epoch advances by one. -/
def planGroup (s : State) (p kind : Nat) (detour : List CfgWrite) (arms : List (Nat × Nat)) : Group :=
  epochGroup s p kind (((s.plan p).epoch + 1) % 4096) detour arms

/-- A waiting group begins when the hub TXU is free: PREPARE is sent to every participant (Table 12.3 step 1). -/
def beginGroup (s : State) : State :=
  match s.groups with
  | [] => s
  | g :: _ =>
    if txuBusy s 16 then s
    else
      let b := txuBase 16
      let s := g.acts.foldl (fun t r => if txuBusy t r.1 then t else stageActs t r.1 r.2) (stageActs s 16 g.hub)
      let parts := g.acts.map (·.1)
      let s := s.setF b TXU_PART_CLUSTERS (parts.foldl (fun m u => m + 2 ^ u) 0)
      let s := (txuFail ((s.setF b TXU_DECISION_VALUE 0).setF b TXU_DECISION_VOTES 0) 16 0 0).setF b TXU_STATUS_STATE 2
      { s with two := { TwoPhase.reset with start := now s, prep := parts, await := parts } }

/-- A group queued for the hub TXU. -/
def queueGroup (s : State) (g : Group) : State := beginGroup { s with groups := s.groups ++ [g] }

/-! ### The drain (R42, R262 to R264) -/

/-- A queue holds its INIT entries and nothing else of the plan. -/
def queueIdle (s : State) (c q : Nat) : Bool :=
  let h := s.hq c q
  h.entries.length = s.getF (hqBase c q) STU_HQ_CFG_INIT && h.held.isNone && !h.spilling && h.celCount = 0

/-- Every core of the plan reports drained, its queues hold their credits (R262 step 1), and no mover channel of the plan is
outstanding (R42, R318). -/
def planQuiet (s : State) (p : Nat) : Bool :=
  (planChannels s p).all (fun q => (s.mvr q.1 q.2).outFor.isNone && (s.mvr q.1 q.2).post.isEmpty) &&
  (liveCores s p).all (fun c => drained s c && (List.range 16).all (fun q => queueIdle s c q))

/-- The seeds of a fenced core's engines are taken by the spare that carries its stage in a configuration (R106): those it had
when it was fenced, or what the plan's seed table gives it. -/
def moveSeeds (s : State) (x : PlanSt) (cfg c : Nat) : State :=
  (List.range 8).foldl (fun t e =>
    let own := (sectOff x.img 0x0D).map (fun o => leAt x.img (o + 4 * (8 * c + e)) 4)
    match (SMap.find x.seeds (8 * c + e)).or own with
    | some v => t.setF (engBase (movedTo x cfg c) e) ENG_SEED_SEED v
    | none => t) s

/-- The switch of a plan writes the next configuration and stages its group (Table 1.5 steps 3 to 5, R158, R162). -/
def switchConfig (s : State) (p : Nat) : State :=
  let x := s.plan p
  let q := kilnImage s p
  let fresh := decide (16 ≤ x.cfg) && (match x.kiln with | some k => k.next.isNone | none => false)
  let s := if fresh then q.1 else s
  let k := x.kiln.map (fun k => if fresh then { k with next := some q.2 } else k)
  let m := ((if 16 ≤ x.cfg then k.bind (·.next) else none).getD (x.img, x.kept))
  let r := writeList (s.setPlan p { x with kiln := k }) (configList { x with img := m.1, kept := m.2 } x.target)
  let s := x.moved.foldl (fun t c => moveSeeds t x x.target c.1) (if 16 ≤ x.target then zeroKiln r.1 p x.target else r.1)
  queueGroup (s.setPlan p { s.plan p with switch := 3 }) (planGroup s p 1 [] r.2)

/-- The drain is confirmed: SEEN equals EXPECT in every core of the plan (R262 step 3). The steward, if it is up, writes the next
configuration. -/
def drainCheck (s : State) (p : Nat) : State :=
  if (s.plan p).switch = 2 ∧ planState s p = 4 ∧ (s.plan p).reloc.isNone ∧ !s.boot.down ∧
      (liveCores s p).all (fun c => s.getF (coreWin c) STU_PROBE_SEEN = s.getF (coreWin c) STU_PROBE_EXPECT) then
    switchConfig s p
  else s

/-- DRAIN_PROBE_START (R262 step 2). -/
def drainProbe (s : State) (p : Nat) : State :=
  if (s.plan p).switch ≠ 1 ∨ planState s p ≠ 4 ∨ (s.plan p).reloc.isSome ∨ !planQuiet s p then s
  else
    let s := (liveCores s p).foldl (fun t c => t.setF (coreWin c) STU_PROBE_SEEN 0) s
    let s := (liveCores s p).foldl (fun t c =>
      (maskBits 32 (t.getF (coreWin c) STU_PSEND_MASK)).foldl (fun t r => originate t c 4 r (t.getF (coreWin c) SEQ_EPOCH_EPOCH)) t) s
    drainCheck (s.setPlan p { s.plan p with switch := 2 }) p

/-- A stream of the plan has waited 10 ms for its EOF token with no frame before it, since its last frame's completion or since
the close began (R264; log 136, DEDUCED). -/
def closeDrains (s : State) (p : Nat) : Bool :=
  (List.range 128).any (fun k =>
    let y := s.stream k
    y.plan = some p && (y.closing = 1 || y.closing = 2) && decide (y.closeT + 10000000 ≤ now s) &&
      (working s p).all (fun f => f.slot ≠ k))

/-- DRAIN_TIMEOUT (R264): of a segment switch or a stream close. -/
def drainTimeout (s : State) (p : Nat) : State :=
  let x := s.plan p
  if x.reloc.isNone ∧ !s.boot.down ∧
      ((planState s p = 4 ∧ (x.switch = 1 ∨ x.switch = 2) ∧ x.lastDone + 10000000 ≤ now s) ∨
        (planState s p ≠ 6 ∧ closeDrains s p)) then
    planFault s p 4 0xFF 0
  else s

/-- TOKEN_STEER, with the drain it may confirm. -/
def steerToken (s : State) (c src : Nat) : State :=
  let s := tokenSteer s c src
  match holderOf s c with
  | some p => drainCheck s p
  | none => s

/-! ### Commit points and ends of groups -/

/-- A segment switch or kiln commit passes its commit point: the target is the configuration in force, the frames pass
its stages, and a kiln commit updates the kept image (R43, R44, R163). -/
def commitSwitch (s : State) (p : Nat) : State :=
  let x := s.plan p
  let leave := decide (16 ≤ x.cfg)
  let kiln := x.kiln.map (fun k =>
    if leave then { todo := if x.stopPend then [] else k.todo.drop 1
                    done := if passOver s p then k.done ||| 2 ^ (x.cfg - 16) else k.done, fin := [], next := none }
    else { k with fin := [] })
  let m := ((if leave then x.kiln.bind (·.next) else none).getD (x.img, x.kept))
  let s := s.setPlan p { x with
    img := m.1, kept := m.2, cfg := x.target, switch := 4, epoch := (x.epoch + 1) % 4096, kiln := kiln
    roundN := if x.target = 0 then 0 else x.roundN
    window := if x.target = 0 then false else x.window }
  { s with frames := s.frames.map (fun f =>
      if f.plan = p then { f with cores := if f.cores.contains 128 then [128] else [] } else f) }

/-- A relocation passes its commit point: the release entries of the aborted frames are free (Table 12.6 step 8). -/
def commitReloc (s : State) (p : Nat) : State :=
  let x := s.plan p
  let s := s.setPlan p { x with
    epoch := (x.epoch + 1) % 4096, reloc := x.reloc.map (fun r => { r with stage := 3 }) }
  { s with frames := s.frames.filter (fun f => !(f.plan = p && f.aborted && f.held.isNone)) }

/-- The hub writes COMMIT: the commit point (Table 12.3 step 3). -/
def decideCommit (s : State) : State :=
  let b := txuBase 16
  match s.groups with
  | [] => s
  | g :: _ =>
    let s := (s.setF b TXU_DECISION_VALUE 1).setF b TXU_STATUS_STATE 3
    let s := applyGroup s 16 g.hub
    let x := s.plan g.plan
    let s := if g.kind = 1 ∧ x.switch = 3 then commitSwitch s g.plan
      else if g.kind = 2 ∧ x.reloc.isSome then commitReloc s g.plan else s
    let parts := g.acts.map (·.1)
    { s with two := { s.two with dec := parts, await := parts, votes := [], prep := [] } }

/-- The hub writes ABORT. -/
def decideAbort (s : State) : State :=
  let b := txuBase 16
  match s.groups with
  | [] => s
  | g :: _ =>
    let s := (s.setF b TXU_DECISION_VALUE 2).addF b TXU_FAILS_COUNT 1
    let parts := g.acts.map (·.1)
    { s with two := { s.two with dec := parts, await := parts, votes := [] } }

/-- A slot goes on after a switch: it returns to RUNNING, or to STOPPING where a stop waits for segment 1 (R47), and a kiln
run ends in segment 1. -/
def afterSwitch (s : State) (p : Nat) : State :=
  let x := s.plan p
  if planState s p ≠ 4 then s else
  let stop := x.stopPend && (x.cfg = 0 || decide (piNSEG x.img ≤ 1))
  let lastPass := match x.kiln with | some k => k.todo.isEmpty && decide (x.cfg < 16) | none => false
  let s := s.setF (cadBase p) CAD_STATE_SLOT (if stop then 5 else 3)
  let s := s.setPlan p { x with
    switch := 0, stopPend := x.stopPend && !stop, kiln := if lastPass then none else x.kiln, lastDone := now s }
  let s := if lastPass then
      finishAll s (fun t => tkOPC t = 8 && tkArg t 8 1 = p)
        (fun _ => (0, 0, natToBytes 2 (match x.kiln with | some k => k.done | none => 0)))
    else s
  planCheck s p

/-- The feeder as after configuration: every credit present, sequences at zero (Table 9.11). -/
def resetFeeder (s : State) (p : Nat) : State :=
  let n := feedNT s p
  let s := (s.setF (fdBase p) FIF_FD_STATUS_BUSY 0).setF (fdBase p) FIF_FD_STATUS_STARVED 0
  s.setFeed p { s.feed p with
    buf := 0, left := 0, word := 0, jseq := []
    credits := (List.range n).map (fun t =>
      let b := fdtBase p t
      (t, (List.range (s.getF b FIF_FDT_RANGE_COUNT)).map (fun i => BitVec.ofNat 64 (s.getF b FIF_FDT_RANGE_FIRST + i)))) }

/-- EOF tokens that a flush took are sent again, once: a plan in READY was not flushed, and an EOF that still waits in the
feeder is sent in its turn. -/
def resendEof (s : State) (p : Nat) : State :=
  if planState s p = 2 then s else
  (List.range 128).foldl (fun t k =>
    let y := t.stream k
    if y.plan = some p ∧ (y.closing = 1 ∨ y.closing = 2) ∧ !(t.feed p).todo.contains (k, none) then
      (t.setStream k { y with closing := 1, closeT := now t }).setFeed p { t.feed p with todo := (t.feed p).todo ++ [(k, none)] }
    else t) s

/-- Step 9 of Table 12.6: admission resumes, FENCE_CORE completes; what faulted since the commit point is relocated in its
turn (R444, R445). -/
def afterReloc (s : State) (p : Nat) : State :=
  let x := s.plan p
  match x.reloc with
  | none => s
  | some r =>
    let s := s.setPlan p { x with
      reloc := none, lastDone := now s, kiln := x.kiln.map (fun k => { k with fin := [], next := none }) }
    let s := if 16 ≤ x.cfg then zeroKiln s p x.cfg else s
    let s := resendEof (resetFeeder s p) p
    let s := finishAll s (fun t => tkOPC t = 9 && t.v1 = p && !r.later.contains (tkArg t 8 1))
      (fun t => (0, 0, fenceResult 0 (movedTo x x.cfg (tkArg t 8 1)) p r.aborted))
    let s := r.later.foldl (fun t c => if planState t p = 2 then relocReady t p c else startReloc t p c) s
    let s := planCheck s p
    (List.range 128).foldl streamCheck s

/-- The writes that place the moved stages: all that fall on their spares, and those that a core record changed elsewhere
(R378, R444), with the tables that kiln passes have committed (R163). -/
def moveWrites (x : PlanSt) (cores : List Nat) : List CfgWrite :=
  let old := { x with moved := x.moved.filter (fun m => !cores.contains m.1) }
  let spares := cores.map (movedTo x x.cfg)
  let a := (cfgWrites (effImage x x.cfg) x.cfg ++ keptWrites x x.cfg).map (movedWrite x x.cfg)
  let b := (cfgWrites (effImage old x.cfg) x.cfg ++ keptWrites x x.cfg).map (movedWrite old x.cfg)
  ((a.zip b).filter (fun w =>
    let addr := match w.1 with | .reg a _ => a | .sram a _ => a
    w.1 ≠ w.2 || (match coreHolding addr with | some c => spares.contains c | none => false))).map (·.1)

/-! ### The end of a plan (R391) -/

/-- The memory groups of clusters wholly in HOLD in which no plan claims a range enter retention (R498). -/
def idleMemories (s : State) : State :=
  (List.range 16).foldl (fun t cl =>
    let all := bits (t.reg (pwrHub + 0x1C + 4 * (cl / 4))) (8 * (cl % 4)) 8 = 0xFF
    if all && (occupied t).all (fun p => (clRanges (t.plan p).img).all (fun r => r.1 ≠ cl)) then
      retentionRequest t (cl / 4) (32 + cl % 4)
    else t) s

/-- The STU_PASS bit of a transit record (R76, R367) cleared. -/
def clearTransit (s : State) (r : Nat × Nat × Nat) : State :=
  let a := coreWin r.1 + 0x1010 + 4 * r.2.1
  s.setReg a (setBits (s.reg a) r.2.2 1 0)

/-- The mover channels and the gust channels that an image claims. -/
def claimedChannels (b : Bytes) : List (Nat × Nat) :=
  (maskBits 16 (clMOVER b)).flatMap (fun u => (List.range 16).map (fun n => (u, n))) ++
    (maskBits 32 (clHUBCH b)).map (fun n => (16, n))

/-- A mover channel released: aborted, its MVR_CHn_CFG at reset, so that it belongs to no plan (R318). -/
def releaseChannel (s : State) (q : Nat × Nat) : State :=
  let s := mvrAbort s q.1 q.2
  (resetRegs s (mvrBase q.1 q.2) (mvrBase q.1 q.2 + 4) []).setMvr q.1 q.2 { s.mvr q.1 q.2 with cfg := MvrSt.reset.cfg }

/-- A gust channel released: no core takes its beats. -/
def releaseGust (s : State) (g : Nat) : State := s.setF (gstBase (g / 8) (g % 8)) GST_CH_MASK_CORES 0

/-- Everything the load took is released: cores by the core fence reset, channels, transit bits on cores that no slot holds,
sweep settings, blocks (R389, R391). The sweep settings that remain are those of the other loaded plans. The cadence registers
return to reset but for CAD_ORIGIN (log 126, DESIGN CHOICE). -/
def releasePlan (s : State) (p : Nat) : State :=
  let x := s.plan p
  let held := heldCores s p
  let rest := ((occupied s).filter (fun q => q ≠ p)).map (fun q => (s.plan q).img)
  let s := (planGroups x.img).foldl (fun t g => sweepGroup (t.setF (bnkBase g.1 g.2) BNK_CTRL_SWEEP_EN 1) g rest) s
  let s := (claimedChannels x.img).foldl releaseChannel s
  let s := (maskBits 128 (clGUST x.img)).foldl releaseGust s
  let c := cadBase p
  let s := resetRegs s c (c + 0x100) [c + 0xC]
  let s := resetRegs s (lulBase p) (lulBase p + 0x40) []
  let s := resetRegs s (fdBase p) (fdBase p + 0x400) []
  let s := (s.setPlan p PlanSt.reset).setFeed p FeedSt.reset
  let s := ((clTransits x.img).filter (fun r => (holderOf s r.1).isNone)).foldl clearTransit s
  let s := { s with frames := s.frames.filter (fun f => f.plan ≠ p), purge := s.purge.filter (fun e => e.1 ≠ p)
                    notices := s.notices.filter (fun e => e.1 ≠ p) }
  held.foldl fenceReset s

/-! ### The end of a load (Table 10.16 steps 20 and 21, R381, R389, R559) -/

/-- A refused load: its status, logged (R388, R411). -/
def refuseLoad (s : State) (i p : Nat) (r : Nat × Nat) : State :=
  finish (logEvent s (0x3000 + r.1) 0xFF p r.2 0 0 0) i (0x3000 + r.1) r.2 []

/-- The dies that hold something of a plan. -/
def planDies (b : Bytes) : List Nat :=
  (List.range 4).filter (fun d => bits (clHELD b) (32 * d) 32 != 0 || (clTransits b).any (fun r => r.1 / 32 = d) ||
    (clRanges b).any (fun r => r.1 / 4 = d) || (imRegions b).any (fun r => r.die = d))

/-- The cluster of a group that a die in DIE-OFF took away, or 0xF. -/
def lostCluster (g : Group) (d : Nat) : Nat := ((g.acts.map (·.1)).find? (fun u => u / 4 = d)).getD 0xF

/-- The group of a load has ended: the slot enters READY and the command completes, or the load is refused and leaves
nothing in force. A core fenced meanwhile is judged as if it had been fenced before step 11 (R390). -/
def endLoad (s : State) (g : Group) (ok : Bool) : State :=
  let p := g.plan
  let x := s.plan p
  let b := txuBase 16
  match s.taken.findIdx? (fun t => t.started && tkOPC t = 2 && t.v1 = p) with
  | none => s
  | some i =>
    if planState s p ≠ 1 then s else
    let refuse (r : Nat × Nat) : State := refuseLoad (idleMemories (releasePlan s p)) i p r
    if !ok then
      refuse (0x17, if 6 ≤ s.getF b TXU_STATUS_FAIL_WHY then s.getF b TXU_STATUS_FAIL_IDX % 16 else 0xF)
    else match (planDies x.img).find? (dieOff s) with
    | some d => refuse (0x17, lostCluster g d)
    | none =>
      match fencedMoves s x.img with
      | (_, some c) => refuse (0xD, c)
      | (moved, none) =>
        let new := (moved.filter (fun m => !x.moved.contains m)).map (·.1)
        if new.isEmpty then
          finish (s.setF (cadBase p) CAD_STATE_SLOT 2) i 0 0
            (natToBytes 2 x.first ++ natToBytes 2 (piNHANDLE x.img) ++ natToBytes 2 x.epoch)
        else
          let y := { x with moved := moved }
          let r := writeList (s.setPlan p y) (moveWrites y new ++ detourList y 0 new)
          let s := new.foldl (fun t c => moveSeeds t y 0 c) r.1
          { s with groups := s.groups ++ [epochGroup s p 4 x.epoch [] r.2] }

/-- A load is abandoned: what its group would still do goes, and R389 applies (R502). -/
def abandonLoad (s : State) (p : Nat) : State :=
  if planState s p ≠ 1 then s
  else
    let s := (s.groups.filter (fun g => g.kind = 4 && g.plan = p)).foldl (fun t g =>
      g.acts.foldl (fun t r => lockGroup t r.1 r.2 false) t) s
    let s := { s with groups := s.groups.map (fun g =>
      if g.kind = 4 ∧ g.plan = p then { g with acts := g.acts.map (fun r => (r.1, [])), hub := [] } else g) }
    idleMemories (releasePlan s p)

/-- The group in progress has ended: DONE or FAILED (Table 12.3 step 6), with what follows it, and the next group. -/
def endGroup (s : State) : State :=
  match s.groups with
  | [] => s
  | g :: rest =>
    let b := txuBase 16
    let ok := decide (s.getF b TXU_DECISION_VALUE = 1)
    let s := { s with groups := rest, two := TwoPhase.reset }
    let s := if ok then txuDone s 16 else (s.setF b TXU_STATUS_COUNT 0).setF b TXU_STATUS_STATE 5
    let s :=
      if g.kind = 1 ∧ (s.plan g.plan).switch = (if ok then 4 else 3) then
        (if ok then afterSwitch s g.plan else planFault s g.plan 9 0xFF (s.reg (b + 4)))
      else if g.kind = 2 then
        match (s.plan g.plan).reloc with
        | some r => if ok then afterReloc s g.plan else planFault s g.plan 8 (r.cores.headD 0xFF) 3
        | none => s
      else if g.kind = 4 then endLoad s g ok
      else s
    beginGroup s

/-- The publications due at this instant, which come before a commit point (R433). -/
def publishDue (s : State) : State := s.frames.foldl (fun t _ => resultPublish t) s

/-- The hub decides once every vote is in (Table 12.3 step 3). -/
def tryDecide (s : State) : State :=
  let b := txuBase 16
  if s.getF b TXU_DECISION_VALUE ≠ 0 ∨ !s.two.await.isEmpty then s
  else match s.groups with
    | [] => s
    | g :: _ =>
      let s := if s.getF b TXU_STATUS_FAIL_WHY ≠ 0 then s
        else match groupFault s 16 g.hub with
          | some (i, w) => txuFail s 16 i w
          | none => s
      let s := if s.getF b TXU_STATUS_FAIL_WHY = 0 then decideCommit (publishDue s) else decideAbort s
      if g.acts.isEmpty then endGroup s else s

/-- A group begun, decided at once where no cluster takes part. -/
def startGroup (s : State) : State := if txuState s 16 = 2 then tryDecide s else s

/-! ### The two phases (Table 12.3) -/

/-- TXU_COMMIT (R429 to R431). -/
def txuCommit (s : State) (u : Nat) : State :=
  let b := txuBase u
  if txuBusy s u then s.setF b TXU_STATUS_BUSY_ERR 1
  else if u < 16 then localCommit s u
  else
    let parts := maskBits 16 (s.getF b TXU_PART_CLUSTERS)
    if txuCount s 16 = 0 ∧ parts = [] then s.setF b TXU_STATUS_STATE 4
    else
      let g : Group := { kind := 0, plan := 8, acts := parts.map (fun v => (v, staged s v)), hub := staged s 16 }
      startGroup (beginGroup { s with groups := g :: s.groups })

/-- The actions a cluster holds for the group in progress. -/
def actsOf (s : State) (u : Nat) : List (BitVec 128) :=
  match s.groups with
  | g :: _ => SMap.get [] g.acts u
  | [] => []

/-- TXU_PREPARE at a participant (R431, R432). -/
def txuPrepare (s : State) (u : Nat) : State :=
  if !s.two.prep.contains u then s
  else
    let s := { s with two := { s.two with prep := s.two.prep.filter (fun v => v ≠ u) } }
    let i1 := injected s 0x0D u
    if dieOff s (u / 4) then s
    else if i1.1 then i1.2
    else
      let i2 := injected s 0x0C u
      let s := i2.2
      let l := actsOf s u
      let load := match s.groups with | g :: _ => decide (g.kind = 4) | [] => false
      let hurt := l.any (fun a => (namedCores u a.toNat).any (fun c => seqStateOf s c = 3 || (seqStateOf s c = 4 && !load)))
      let vote (t : State) (yes : Bool) : State := { t with two := { t.two with votes := t.two.votes ++ [(u, yes)] } }
      match groupFault s u l with
      | some (i, w) => vote (txuFail s u i w) false
      | none =>
        if i2.1 || hurt then vote (txuFail s u 0 6) false
        else vote ((lockGroup s u l true).setF (txuBase u) TXU_STATUS_STATE 2) true

/-- TXU_VOTE: the k-th vote on its way reaches the hub. -/
def txuVote (s : State) (k : Nat) : State :=
  let b := txuBase 16
  match s.two.votes[k]? with
  | none => s
  | some (u, yes) =>
    let s := { s with two := { s.two with votes := s.two.votes.eraseIdx k, await := s.two.await.filter (fun v => v ≠ u) } }
    let s := if yes then s.setF b TXU_DECISION_VOTES (s.getF b TXU_DECISION_VOTES ||| 2 ^ u)
      else if s.getF b TXU_STATUS_FAIL_WHY = 0 then txuFail s 16 u 6 else s
    tryDecide s

/-- TXU_VOTE_TIMEOUT (Table 12.3 step 4). -/
def txuTimeout (s : State) : State :=
  let b := txuBase 16
  if txuState s 16 ≠ 2 ∨ s.getF b TXU_DECISION_VALUE ≠ 0 ∨ s.two.await.isEmpty ∨ now s < s.two.start + 100000 then s
  else decideAbort (if s.getF b TXU_STATUS_FAIL_WHY = 0 then txuFail s 16 (s.two.await.headD 0) 7 else s)

/-- A participant has acted on the decision. -/
def txuAcked (s : State) (u : Nat) : State :=
  { s with two := { s.two with
      dec := s.two.dec.filter (fun v => v ≠ u), prep := s.two.prep.filter (fun v => v ≠ u), acks := s.two.acks ++ [u] } }

/-- TXU_APPLY at a participant. -/
def txuApply (s : State) (u : Nat) : State :=
  if !s.two.dec.contains u ∨ s.getF (txuBase 16) TXU_DECISION_VALUE ≠ 1 then s
  else
    let l := actsOf s u
    txuAcked (txuDone (applyGroup (lockGroup s u l false) u l) u) u

/-- TXU_DISCARD at a participant. -/
def txuDiscard (s : State) (u : Nat) : State :=
  if !s.two.dec.contains u ∨ s.getF (txuBase 16) TXU_DECISION_VALUE ≠ 2 then s
  else
    let b := txuBase u
    let s := lockGroup s u (actsOf s u) false
    txuAcked (((s.setF b TXU_STATUS_COUNT 0).setF b TXU_STATUS_STATE 0).addF b TXU_FAILS_COUNT 1) u

/-- TXU_ACK: the k-th acknowledgement on its way reaches the hub. -/
def txuAck (s : State) (k : Nat) : State :=
  match s.two.acks[k]? with
  | none => s
  | some u =>
    let s := { s with two := { s.two with acks := s.two.acks.eraseIdx k, await := s.two.await.filter (fun v => v ≠ u) } }
    if s.two.await.isEmpty then startGroup (endGroup s) else s

/-! ### Notices of aborted frames (R434, R435) -/

/-- The frame has ended in the core for the segment in force: its report is in or on its way. -/
def endedIn (s : State) (c slot seq : Nat) : Bool :=
  s.reports.any (fun r => r.core = c && r.slot = slot && r.seq = seq) ||
    (match frameOf s slot seq with
     | some f => f.cores.contains c || f.cores.contains 128
     | none => true)

/-- ABORT_NOTICE: the k-th notice on its way reaches core c. -/
def abortNotice (s : State) (c k : Nat) : State :=
  match s.notices[k]? with
  | none => s
  | some (p, slot, seq, l) =>
    if !l.contains c then s
    else
      let rest := l.filter (fun d => d ≠ c)
      let s := { s with notices := if rest.isEmpty then s.notices.eraseIdx k else s.notices.set k (p, slot, seq, rest) }
      let x := s.core c
      if 3 ≤ seqStateOf s c ∨ endedIn s c slot seq then s
      else if 32 ≤ x.notices.length then planFault s p 7 c 0
      else
        let w := coreWin c
        let here := s.getF w SEQ_FRAME_VALID = 1 && s.getF w SEQ_FRAME_SLOT = slot && s.getF w SEQ_FRAME_SEQ_SEQ = seq
        s.setCore c { x with notices := x.notices ++ [(slot, seq)], dark := x.dark || here }

/-- ABORT_HISTORY_INVALIDATE: the k-th pending entry (Table 12.4 step 7); a stream whose close waited for it is freed (R48). -/
def historyInvalidate (s : State) (k : Nat) : State :=
  match s.purge[k]? with
  | none => s
  | some e => if s.boot.down then s else streamCheck (purgeOne { s with purge := s.purge.eraseIdx k } e) e.2.1

/-! ### FLUSH_SETTLE_END (Table 12.6 steps 5 to 8) -/

/-- What of a plan was still moving has landed and been absorbed; a port whose token has gone begins its count of refusals again
(R236). -/
def settle (s : State) (p : Nat) : State :=
  let e := (s.plan p).epoch
  let keep (t : Token) : Bool := t.epoch.toNat ≠ e
  let held := heldCores s p
  let s := { s with edgeIn := s.edgeIn.filter (fun q => keep q.2) }
  (List.range 128).foldl (fun t c =>
    let x := t.core c
    let out := x.outp.filter (fun q => keep q.2)
    let waits (k : Nat) : Bool :=
      if k < 4 then
        (match meshBeyond c k with
         | some d => (SMap.find (t.core d).outp (oppPort k)).any keep
         | none => (SMap.find t.edgeIn (4 * c + k)).isSome)
      else (SMap.find out (k - 4)).isSome
    if x.pass.isEmpty && x.outp.isEmpty && x.inq.isEmpty && x.refus.isEmpty then t
    else t.setCore c { x with
      pass := x.pass.filter (fun q => keep q.2), outp := out
      inq := if held.contains c then [] else x.inq
      refus := x.refus.filter (fun q => waits q.1) }) s

/-- The join sequences of a plan's cores as the configuration in force sets them (R80, R82). -/
def restartSequences (s : State) (p : Nat) : State :=
  let x := s.plan p
  let l := configList x x.cfg
  (liveCores s p).foldl (fun t c =>
    let val (a : Nat) : Nat := (l.foldl (fun o w => match w with | .reg b v => if b = a then some v else o | _ => o) none).getD 0
    let t := (List.range 8).foldl (fun t i => t.setReg (coreWin c + 0x1040 + 4 * i) (val (coreWin c + 0x1040 + 4 * i))) t
    (List.range 32).foldl (fun t r =>
      t.setF (routeBase c r) STU_ROUTE_EXPECT (bits (val (routeBase c r + 4)) 12 8)) t) s

/-- The channels that the configuration in force arms, and the hub channels that the flush aborted. -/
def rearmList (s : State) (p : Nat) (x : PlanSt) : List (Nat × Nat) :=
  let l := (configList x x.cfg).filterMap (fun w => match w with
    | .reg a _ => match moverReg a with | some (u, n, 0xC) => some (u, n) | _ => none
    | _ => none)
  l.eraseDups ++ ((planChannels s p).filter (fun q =>
    q.1 = 16 && mvrState s 16 q.2 = 4 && s.getF (mvrBase 16 q.2) MVR_STATUS_CAUSE = 1))

/-- FLUSH_SETTLE_END. -/
def flushSettleEnd (s : State) (p : Nat) : State :=
  let x := s.plan p
  match x.reloc with
  | none => s
  | some r =>
    if r.stage ≠ 1 ∨ s.boot.down ∨ now s < r.start ∨ planState s p = 6 then s
    else
      let s := purgePlan (settle s p) p
      let d := detourSplit (detourList x x.cfg r.cores)
      let s := (writeList s (moveWrites x r.cores ++ d.2)).1
      let s := r.cores.foldl (fun t c => moveSeeds t x x.cfg c) s
      let s := restartSequences s p
      let s := s.setPlan p { s.plan p with reloc := some { r with stage := 2 } }
      startGroup (queueGroup s (planGroup s p 2 d.1 (rearmList s p x)))

/-! ### The meanings -/

def execTokenSteer (c : Fin 128) (src : Fin 5) (s : State) : Host.Outcome State Fault Refusal := live s (awaited s (steerToken s c src))
def execDrainProbeStart (p : Fin 8) (s : State) : Host.Outcome State Fault Refusal := live s (awaited s (startGroup (drainProbe s p)))
def execDrainTimeout (p : Fin 8) (s : State) : Host.Outcome State Fault Refusal := live s (drainTimeout s p)
def execTxuClear (u : Fin 17) (s : State) : Host.Outcome State Fault Refusal := live s (txuClear s u)
def execTxuActWrite (u : Fin 17) (j : Fin 64) (k : Fin 4) (v : BitVec 32) (s : State) : Host.Outcome State Fault Refusal :=
  live s (txuActWrite s u j k v.toNat)
def execTxuFenceSet (u : Fin 17) (mask : BitVec 8) (s : State) : Host.Outcome State Fault Refusal :=
  live s (txuFence s u mask.toNat)
def execTxuPrepare (u : Fin 16) (s : State) : Host.Outcome State Fault Refusal := live s (txuPrepare s u)
def execTxuVoteTimeout (s : State) : Host.Outcome State Fault Refusal := live s (txuTimeout s)
def execTxuApply (u : Fin 16) (s : State) : Host.Outcome State Fault Refusal := live s (txuApply s u)
def execTxuDiscard (u : Fin 16) (s : State) : Host.Outcome State Fault Refusal := live s (txuDiscard s u)
def execTxuAck (k : Nat) (s : State) : Host.Outcome State Fault Refusal := live s (awaited s (txuAck s k))
def execAbortNotice (c : Fin 128) (k : Nat) (s : State) : Host.Outcome State Fault Refusal := live s (abortNotice s c k)
def execAbortHistoryInvalidate (k : Nat) (s : State) : Host.Outcome State Fault Refusal := live s (awaited s (historyInvalidate s k))
def execFlushSettleEnd (p : Fin 8) (s : State) : Host.Outcome State Fault Refusal := live s (awaited s (flushSettleEnd s p))

end Sys2Proof.Machine
end

