-- ==== Sys2Proof/Machine/PlanLoad.lean ====
section
/-! DEFINITION. The checks and the actions of a plan load (R359 to R391, Table 10.16), signed images (R508 to R512), and
what a plan's end releases. A check answers the first refusal as a code of Table 10.17 with its DETAIL. -/

namespace Sys2Proof.Machine
open Sys2Proof
open Sys2Proof.Machine.Reg

/-- A refusal of a load: the code of Table 10.17 and its DETAIL. -/
abbrev Refuse := Option (Nat × Nat)

/-- The first refusal of a list of places. -/
def firstOf {α : Type} (l : List α) (f : α → Refuse) : Refuse := l.findSome? f

/-- Refused with a code and detail unless a condition holds. -/
def need (ok : Bool) (code detail : Nat) : Refuse := if ok then none else some (code, detail)

/-- The first nonzero byte of a field, refused as FORMAT. -/
def zeroBytes (b : Bytes) (off len : Nat) : Refuse :=
  firstOf (List.range len) (fun i => need (leAt b (off + i) 1 = 0) 1 (off + i))

/-! ### Fuses (Table 15.1, R538) -/

/-- A policy bit as it applies now: PLANSIG and INJECT at once, the others from the last power-on reset. -/
def policyBit (s : State) (i : Nat) : Bool := if i = 1 ∨ i = 2 then bit s.fuses (2124 + i) else bit s.fuses0 (2124 + i)

def fuseKeyhash (s : State) (k : Nat) : Nat := bits s.fuses0 (512 * k) 512
def fuseRevoked (s : State) (k : Nat) : Bool := bit s.fuses (2048 + k)
def fuseKeyuse (s : State) (k : Nat) : Nat := bits s.fuses (2052 + 2 * k) 2
def fuseSVN (f : Nat) : Nat := (maskBits 64 (bits f 2060 64)).length

/-! ### Signed images (R508 to R511) -/

/-- Checks 1 to 9 of Table 15.4 on a signature header of a kind: the reason, 0 if none fails. -/
def sigHeader (s : State) (h : Bytes) (kind : Nat) (lenOk : Bool) : Nat :=
  let z (o n : Nat) : Bool := leAt h o n = 0
  let k := leAt h 0x0D 1
  if leAt h 0 4 ≠ 0x57535A47 ∨ leAt h 4 2 ≠ 1 ∨ !(z 0x18 8 && z 0x60 32 && z 0x284 124) ∨ bits (leAt h 0x0E 2) 1 15 ≠ 0 then 1
  else if leAt h 6 2 ≠ kind then 2
  else if !lenOk then 3
  else if leAt h 0x280 4 ≠ 65537 then 4
  else if 4 ≤ k ∨ fuseKeyhash s k = 0 then 5
  else if fuseRevoked s k then 6
  else if bytesToNat (sha512 (slice h 0x80 512 ++ beBytes 4 (leAt h 0x280 4))) ≠ fuseKeyhash s k then 7
  else if !bit (fuseKeyuse s k) (kind - 1) then 8
  else if kind = 1 ∧ leAt h 0x0C 1 < fuseSVN s.fuses0 then 9
  else 0

/-- The whole verification of a signed image (R511): header and covered bytes. -/
def sigVerify (s : State) (h covered : Bytes) (kind : Nat) (lenOk : Bool) : Nat :=
  let r := sigHeader s h kind lenOk
  if r ≠ 0 then r
  else if !pssVerify (slice h 0x80 512) (slice h 0x300 512) (slice h 0 0x300) then 10
  else if sha512 covered ≠ slice h 0x20 64 then 11
  else 0

/-! ### Step 2: FORMAT (R359, R360, R558) -/

def fmtHeader (b : Bytes) (len : Nat) : Refuse :=
  need (leAt b 0 4 = 0x1A4C504A) 1 0 <|> need (leAt b 4 2 = 1) 1 4 <|> need (leAt b 8 4 = 64) 1 8 <|>
  need (decide (1 ≤ imNSECT b) && decide (imNSECT b ≤ 1024)) 1 0x0C <|>
  need (decide (imLEN b = len) && decide (imLEN b ≤ 2 ^ 40)) 1 0x10 <|>
  zeroBytes b 0x2C 4 <|>
  need (imSECTAB b % 64 = 0 && decide (64 ≤ imSECTAB b) && decide (imSECTAB b + 32 * imNSECT b ≤ imLEN b)) 1 0x30 <|>
  zeroBytes b 0x38 8

/-- The length a section's content calls for (R558). -/
def lengthOk (x : Sect) : Bool :=
  match x.typ with
  | 1 => x.len = 256
  | 4 => decide (0x60 ≤ x.len)
  | 5 => x.len % 32 = 0
  | 8 => x.len % 16 = 0
  | 9 => x.len % 4 = 0
  | 10 => x.len = 0x400
  | 12 => x.len % 16 = 0
  | 13 => x.len = 4096
  | _ => true

/-- Two ranges share a byte. -/
def overlaps (a la c lc : Nat) : Bool := decide (a < c + lc) && decide (c < a + la)

def fmtEntry (b : Bytes) (i : Nat) : Refuse :=
  let e := imSECTAB b + 32 * i
  let x := sectAt b i
  need (x.flags < 2) 1 (e + 1) <|> zeroBytes b (e + 4) 4 <|>
  need (x.off % 64 = 0 && decide (x.off + x.len ≤ imLEN b) && !overlaps x.off x.len 0 64 &&
    !overlaps x.off x.len (imSECTAB b) (32 * imNSECT b) &&
    (List.range i).all (fun j => let y := sectAt b j; !overlaps x.off x.len y.off y.len)) 1 (e + 8) <|>
  need (lengthOk x) 1 (e + 0x10)

/-- Reserved bits of a register write record. -/
def fmtWrite (b : Bytes) (o : Nat) : Refuse := zeroBytes b (o + 6) 2 <|> zeroBytes b (o + 12) 4

def fmtClaims (b : Bytes) (x : Sect) : Refuse :=
  let o := x.off
  let ncm := leAt b (o + 0x40) 2
  let ntr := leAt b (o + 0x42) 2
  let nld := leAt b (o + 0x44) 2
  let r := o + 0x60
  firstOf (List.range 16) (fun i => need (leAt b (o + 0x10 + i) 1 &&& (255 - leAt b (o + i) 1) = 0) 1 (o + 0x10 + i)) <|>
  zeroBytes b (o + 0x3E) 2 <|>
  need (ncm ≤ 64) 1 (o + 0x40) <|> need (ntr ≤ 1024) 1 (o + 0x42) <|> need (nld ≤ 1024) 1 (o + 0x44) <|>
  zeroBytes b (o + 0x46) 26 <|>
  need (0x60 + 8 * ncm + 4 * ntr + 4 * nld ≤ x.len) 1 (o + x.len) <|>
  firstOf (List.range ncm) (fun i =>
    let w := leAt b (r + 8 * i) 8
    need (bits w 4 4 = 0) 1 (r + 8 * i) <|> need (bits w 8 8 = 0) 1 (r + 8 * i + 1) <|>
    need (bits w 16 18 ≤ bits w 34 18) 1 (r + 8 * i + 4) <|>
    need (bits w 52 4 = 0) 1 (r + 8 * i + 6) <|> need (bits w 56 8 = 0) 1 (r + 8 * i + 7)) <|>
  firstOf (List.range (ntr + nld)) (fun i =>
    let a := r + 8 * ncm + 4 * i
    let w := leAt b a 4
    need (bits w 7 1 = 0) 1 a <|> need (bits w 10 6 = 0) 1 (a + 1) <|> need (bits w 21 3 = 0) 1 (a + 2) <|>
    need (bits w 24 8 = 0) 1 (a + 3))

def fmtRegions (b : Bytes) (x : Sect) : Refuse :=
  firstOf (List.range (x.len / 32)) (fun i =>
    let o := x.off + 32 * i
    need (leAt b o 1 = i && decide (i < 255)) 1 o <|> zeroBytes b (o + 5) 3 <|> zeroBytes b (o + 0x10) 16)

def fmtDetours (b : Bytes) (x : Sect) : Refuse :=
  firstOf (List.range (detourCount b x)) (fun i =>
    let o := x.off + 16 * i
    let n := leAt b (o + 4) 4
    let w := leAt b (o + 8) 4
    zeroBytes b (o + 2) 2 <|> need (w + 16 * n ≤ x.len) 1 (o + 8) <|> zeroBytes b (o + 12) 4 <|>
    firstOf (List.range n) (fun j => fmtWrite b (x.off + w + 16 * j)))

def fmtContent (b : Bytes) (x : Sect) : Refuse :=
  match x.typ with
  | 4 => fmtClaims b x
  | 5 => fmtRegions b x
  | 8 => firstOf (List.range (x.len / 16)) (fun i => fmtWrite b (x.off + 16 * i))
  | 12 => fmtDetours b x
  | _ => none

def step2 (b : Bytes) (len : Nat) : Refuse :=
  fmtHeader b len <|> firstOf (List.range (imNSECT b)) (fmtEntry b) <|>
  firstOf (sects b) (fun p => fmtContent b p.2)

/-! ### Step 3: SECTION (R361, R362, R374) -/

def perConfig (t : Nat) : Bool := t = 3 || t = 7 || t = 8 || t = 9 || t = 12

/-- Sections of a type: at least lo, at most hi (hi = 0 for any number). -/
def countRule (b : Bytes) (t lo hi : Nat) : Refuse :=
  let l := sectsOf b t
  if l.length < lo then some (2, 0xFFFFFFFF)
  else if hi ≠ 0 ∧ hi < l.length then some (2, ((l.drop hi).head?.map (·.1)).getD 0) else none

def step3 (b : Bytes) : Refuse :=
  let n := imNSECT b
  let cfgs := imConfigs b
  firstOf (sects b) (fun p => need (p.2.flags % 2 = 0 || (1 ≤ p.2.typ && p.2.typ ≤ 15)) 2 p.1) <|>
  countRule b 1 1 1 <|>
  need (decide (1 ≤ piNSEG b) && decide (piNSEG b ≤ 16)) 7 0x0E <|>
  countRule b 2 1 1 <|> countRule b 4 1 1 <|> countRule b 5 0 1 <|> countRule b 10 0 1 <|> countRule b 11 0 1 <|>
  countRule b 13 0 1 <|> countRule b 14 0 1 <|>
  firstOf (sects b) (fun p =>
    if p.2.typ = 0 ∨ 15 < p.2.typ then none
    else if perConfig p.2.typ then need (cfgs.contains p.2.cfg || (p.2.typ = 7 && p.2.cfg = 0xFF)) 2 p.1
    else need (p.2.cfg = 0xFF) 2 p.1) <|>
  firstOf cfgs (fun c =>
    let l := (sectsOf b 3).filter (fun p => p.2.cfg = c)
    if l.isEmpty then some (2, 0xFFFFFFFF) else firstOf (l.drop 1) (fun p => some (2, p.1))) <|>
  need ((sectsOf b 8).any (fun p => p.2.cfg = 0)) 2 0xFFFFFFFF <|>
  firstOf (sectsOf b 14) (fun p => need (p.1 + 1 = n && (sects b).all (fun q => decide (q.2.off ≤ p.2.off))) 2 p.1) <|>
  (match (sectsOf b 13).head? with
   | some p => need (bit (imFEATURES b) 2) 2 p.1
   | none => need (!bit (imFEATURES b) 2) 2 0xFFFFFFFF)

/-! ### Steps 4 to 6 -/

/-- The CRC of an image (R363). -/
def imageCrc (b : Bytes) : Nat :=
  let b := patch (b.take (imLEN b)) 0x1C [0, 0, 0, 0]
  crc32 (match (sectsOf b 14).head? with
    | some (_, x) => b.take x.off ++ b.drop (x.off + x.len)
    | none => b)

def step4 (b : Bytes) (inject : Bool) : Refuse :=
  let c := imageCrc b
  if inject then some (3, 2 ^ 32 - 1 - c) else need (c = imCRC b) 3 c

def step5 (s : State) (b : Bytes) : Refuse :=
  match (sectsOf b 14).head? with
  | some (_, x) =>
    let h := slice b x.off 1280
    let r := sigVerify s h (b.take x.off) 2 (leAt h 8 4 = x.off && imLEN b = x.off + 1280)
    need (r = 0) 4 r
  | none => need (!policyBit s 1) 4 12

def step6 (s : State) (b : Bytes) : Refuse :=
  let f := (imFEATURES b / 8 * 8) + (if s.b0 then 0 else imFEATURES b % 2)
  need (f = 0) 5 f

/-! ### Steps 7 to 9: times (R382 to R386) -/

/-- The image's own gale table. -/
def imGale (b : Bytes) : List Nat := (List.range 32).map (fun k => leAt b ((sectOff b 2).getD 0 + 0x10 + 4 * k) 4)

def proofBad (cfg stage : Nat) : Nat × Nat := (6, cfg + stage * 2 ^ 8)

/-- The configuration's relation-unit shares fit its period (R385). -/
def rluOver (b : Bytes) (g : List Nat) (o period : Nat) : Option Nat :=
  (List.range 16).find? (fun j => period < pfRLU b o j * g.getD 8 0)

def proofOk (b : Bytes) (cfg : Nat) : Refuse :=
  let g := imGale b
  match (sectsOf b 3).find? (fun p => p.2.cfg = cfg) with
  | none => none
  | some (_, x) =>
    let o := x.off
    let n := pfNSTAGE b o
    let t := cfgTimes b g cfg
    let head := leAt b o 1 = cfg && decide (leAt b (o + 1) 1 < 2) && decide (1 ≤ n) && decide (n ≤ 128) &&
      leAt b (o + 4) 4 = 0 && leAt b (o + 0x18) 8 = 0 && leAt b (o + 0xE0) 32 = 0 && x.len = 256 + 192 * n
    if !head then some (proofBad cfg 0xFFFF)
    else
      firstOf (List.range n) (fun i =>
        let r := pfStage o i
        if leAt b r 2 ≠ i ∨ leAt b (r + 2) 6 ≠ 0 ∨ leAt b (r + 0xA0) 32 ≠ 0 ∨ sgS b r ≠ stageTime b g o i then
          some (proofBad cfg i) else none) <|>
      (if leAt b (o + 8) 8 ≠ t.1 ∨ leAt b (o + 16) 8 ≠ t.2.1 ∨ (rluOver b g o t.1).isSome then some (proofBad cfg 0xFFFF) else none)

def step7 (b : Bytes) : Refuse :=
  let o := (sectOff b 2).getD 0
  let ok := (sectsOf b 2).all (fun p => p.2.len = 144) && leAt b (o + 4) 4 = 32 && leAt b (o + 8) 8 = 0 &&
    (imGale b).zipIdx.all (fun p => if p.2 < 12 then p.1 ≠ 0 else p.1 = 0)
  if !ok then some (proofBad 0xFF 0xFFFF) else firstOf (imConfigs b) (proofOk b)

def inRange (v lo hi : Nat) : Bool := decide (lo ≤ v) && decide (v ≤ hi)

/-- The fields of PLANINFO in ascending offset (Table 10.4). -/
def infoOk (b : Bytes) : Refuse :=
  let zero (o n : Nat) : Refuse := firstOf (List.range n) (fun i => need (planInfo b (o + i) 1 = 0) 7 (o + i))
  need (1 ≤ piPADM b) 7 0 <|> need (1000 ≤ piLPLAN b) 7 4 <|> need (piMARGIN b ≤ 500) 7 0x0C <|>
  need (inRange (piNSEG b) 1 16) 7 0x0E <|> zero 0x0F 1 <|>
  need (if piNSEG b = 1 then piBSEG b = 1 else decide (1 ≤ piBSEG b)) 7 0x10 <|> zero 0x12 2 <|>
  need (decide (1 < piNSEG b) || piPBATCH b = 0) 7 0x14 <|> need (imKiln b || piKILNPADM b = 0) 7 0x18 <|>
  need (inRange (piLULLUS b) 20 20000) 7 0x1C <|>
  need (piSWEEPUS b = 0 || inRange (piSWEEPUS b) 100 1048575) 7 0x20 <|>
  need (inRange (piNHANDLE b) 1 4096) 7 0x24 <|> zero 0x26 2 <|> zero 0x40 192

/-- A condition of R385's table: its PLANINFO offset, whether it bounds a period (0), a latency (1) or a range (2), its
configuration (none for the round), and whether it holds under a gale table and margin. -/
structure Margin where
  off : Nat
  kind : Nat
  cfg : Option Nat
  ok : Bool

def margins (b : Bytes) (g : List Nat) (m : Nat) : List Margin :=
  let t (c : Nat) := cfgTimes b g c
  let kiln := if imKiln b then (List.range (piNSEG b)).map (· + 16) else []
  (if piNSEG b = 1 then
    [⟨0, 0, some 0, decide ((t 0).1 * (1000 + m) ≤ piPADM b * 1000 * 1000)⟩,
     ⟨4, 1, some 0, decide ((t 0).2.1 * (1000 + m) ≤ piLPLAN b * 1000 * 1000)⟩]
  else
    let r := roundTime b g
    [⟨0, 0, none, decide (r * (1000 + m) ≤ piBSEG b * piPADM b * 1000 * 1000)⟩,
     ⟨0x14, 0, some 0, decide ((t 0).1 * (1000 + m) ≤ piPBATCH b * 1000 * 1000)⟩,
     ⟨4, 1, none, decide (r * (1000 + m) ≤ piLPLAN b * 1000 * 1000)⟩]) ++
  kiln.flatMap (fun c =>
    [⟨0x18, 2, some c, decide (piKILNPADM b ≤ 4 * piPADM b)⟩, ⟨0x18, 0, some c, decide ((t c).1 ≤ piKILNPADM b * 1000)⟩,
     ⟨4, 1, some c, decide ((t c).2.1 ≤ piLPLAN b * 1000)⟩])

def step8 (b : Bytes) : Refuse :=
  infoOk b <|> firstOf (margins b (imGale b) (piMARGIN b)) (fun c => need c.ok 7 c.off)

/-- The kind whose slower entry adds most, by counts. -/
def worstKind (run img : List Nat) (count : Nat → Nat) : Nat :=
  ((List.range 32).foldl (fun (w : Nat × Nat) k =>
    let d := count k * (run.getD k 0 - img.getD k 0)
    if w.2 < d then (k, d) else w) (0, 0)).1

/-- The stage that sets the period of a configuration. -/
def periodStage (b : Bytes) (g : List Nat) (cfg : Nat) : Nat :=
  match proofOff b cfg with
  | none => 0
  | some o => ((List.range (pfNSTAGE b o)).find? (fun i => stageTime b g o i = (cfgTimes b g cfg).1)).getD 0

/-- Counts of unit kind k in a stage, in all stages of a configuration, and in a round. -/
def stageCount (b : Bytes) (cfg i k : Nat) : Nat :=
  match proofOff b cfg with | none => 0 | some o => sgN b (pfStage o i) k

def cfgCount (b : Bytes) (cfg k : Nat) : Nat :=
  match proofOff b cfg with
  | none => 0
  | some o => (List.range (pfNSTAGE b o)).foldl (fun t i => t + sgN b (pfStage o i) k) 0

def roundCount (b : Bytes) (g : List Nat) (k : Nat) : Nat :=
  (List.range (piNSEG b)).foldl (fun t c =>
    t + (piBSEG b - 1) * stageCount b c (periodStage b g c) k + cfgCount b c k +
      (match proofOff b c with | none => 0 | some o => pfC b o k)) 0

/-- The refusal of a failed condition of R386. -/
def galeBad (b : Bytes) (g : List Nat) (c : Margin) : Nat × Nat :=
  let img := imGale b
  match c.kind, c.cfg with
  | 0, none => (8, 0xFF + 0xFFFF * 2 ^ 8 + worstKind g img (roundCount b g) * 2 ^ 24)
  | 0, some f =>
    let i := periodStage b g f
    (8, f + i * 2 ^ 8 + worstKind g img (stageCount b f i) * 2 ^ 24)
  | _, none => (9, 0xFF + worstKind g img (roundCount b g) * 2 ^ 24)
  | _, some f => (9, f + worstKind g img (cfgCount b f) * 2 ^ 24)

def step9 (s : State) (b : Bytes) : Refuse :=
  let g := galeTable s.b0
  let img := imGale b
  if (List.range 12).all (fun k => decide (g.getD k 0 ≤ img.getD k 0)) then none
  else
    let l := margins b g 0
    firstOf (l.filter (fun c => c.kind = 0 && !c.ok)) (fun c => some (galeBad b g c)) <|>
    firstOf (l.filter (fun c => c.kind = 1 && !c.ok)) (fun c => some (galeBad b g c)) <|>
    firstOf (imConfigs b) (fun c =>
      match proofOff b c with
      | none => none
      | some o => (rluOver b g o (cfgTimes b g c).1).map (fun j => (0xA, c + j * 2 ^ 8)))

/-! ### Steps 10 to 16: claims -/

/-- The other occupied slots. -/
def others (s : State) (p : Nat) : List Nat := (occupied s).filter (fun q => q ≠ p)

def step10 (s : State) (p : Nat) (b : Bytes) : Refuse :=
  firstOf (maskBits 128 (clHELD b)) (fun c =>
    firstOf (others s p) (fun q =>
      let i := (s.plan q).img
      if bit (clHELD i) c || (clTransits i).any (fun r => r.1 = c && !(clLends b).contains r) then some (0xC, c + q * 2 ^ 8)
      else none))

def step11 (s : State) (b : Bytes) : Refuse :=
  let off (d k : Nat) : Refuse := need (!(decide (d < 4) && dieOff s d)) 0x18 (d + k * 2 ^ 4)
  ((fencedMoves s b).2.map (fun c => (0xD, c))) <|>
  firstOf (maskBits 128 (clHELD b)) (fun c => off (c / 32) 1) <|> firstOf (clRanges b) (fun r => off (r.1 / 4) 2) <|>
  firstOf (imRegions b) (fun r => off r.die 3) <|> firstOf (clTransits b) (fun r => off (r.1 / 32) 4)

def shared (a b n : Nat) : Option Nat := (maskBits n (a &&& b)).head?

def step12 (s : State) (p : Nat) (b : Bytes) : Refuse :=
  let bad (kind i : Nat) : Nat × Nat := (0xE, kind + i * 2 ^ 8)
  let clash (kind n : Nat) (f : Bytes → Nat) : Refuse :=
    firstOf (others s p) (fun q => (shared (f b) (f (s.plan q).img) n).map (bad kind))
  let rs := clTransits b
  clash 1 16 clRLU <|> clash 2 16 clMOVER <|> clash 3 128 clGUST <|> clash 4 32 clHUBCH <|> clash 5 48 clEDGE <|>
  firstOf (clRanges b).zipIdx (fun r =>
    if (others s p).any (fun q => (clRanges (s.plan q).img).any (fun t =>
        t.1 = r.1.1 && decide (t.2.1 ≤ r.1.2.2) && decide (r.1.2.1 ≤ t.2.2))) then some (bad 6 r.2) else none) <|>
  firstOf rs.zipIdx (fun r =>
    let c := r.1.1
    if bit (clHELD b) c ||
        (others s p).any (fun q => (clTransits (s.plan q).img).contains r.1 ||
          (bit (clHELD (s.plan q).img) c && !(clLends (s.plan q).img).contains r.1)) then some (bad 7 r.2) else none) <|>
  firstOf (clLends b).zipIdx (fun r => need (bit (clHELD b) r.1.1) 0xE (7 + (rs.length + r.2) * 2 ^ 8)) <|>
  (match sectOff b 10 with
   | none => none
   | some o => firstOf (List.range (leAt b o 1 % 8 + 1)) (fun t =>
      let port := leAt b (o + 0x40 + 0x20 * t) 4 % 64
      need (decide (port < 48) && bit (clEDGE b) port) 0xE (5 + port * 2 ^ 8)))

/-- A handle is in the range of an occupied slot. -/
def handleTaken (s : State) (p h : Nat) : Bool :=
  (others s p).any (fun q => decide ((s.plan q).first ≤ h) && decide (h < (s.plan q).first + piNHANDLE (s.plan q).img))

/-- The length of the free run of handles that ends just before h, for h ascending, with the longest run. -/
def freeRuns (s : State) (p : Nat) : List Nat × Nat :=
  (List.range 4096).foldl (fun st h =>
    let run := if handleTaken s p h then 0 else st.1.headD 0 + 1
    (run :: st.1, max st.2 run)) ([], 0)

/-- The first handles at which a range of n fits. -/
def handleStarts (s : State) (p n : Nat) : List Nat :=
  let r := (freeRuns s p).1.reverse
  (List.range (4097 - n)).filter (fun h => decide (n ≤ r.getD (h + n - 1) 0))

def step13 (s : State) (p : Nat) (b : Bytes) : Refuse :=
  need (!(handleStarts s p (piNHANDLE b)).isEmpty) 0xF (freeRuns s p).2

/-- Release entries reserved by the other slots (R37). -/
def releaseHeld (s : State) (p : Nat) : Nat := (others s p).foldl (fun t q => t + imRelease (s.plan q).img) 0

def step14 (s : State) (p : Nat) (b : Bytes) : Refuse :=
  need (releaseHeld s p + imRelease b ≤ 2048) 0x10 (2048 - releaseHeld s p)

/-! ### Step 15: regions (R369, R370) -/

/-- The ranges of LPDDR4X taken on a die: regions of occupied slots, regions placed, an image range reserved. -/
def takenRanges (s : State) (p d : Nat) (placed : List (Nat × Nat)) : List (Nat × Nat) :=
  ((others s p).flatMap (fun q => (s.plan q).regions.zip ((imRegions (s.plan q).img).map (·.size))) ++ placed).filter
    (fun r => r.1 / 2 ^ 36 = d)

/-- Gaps between taken ranges of a die, as (from, to). -/
def gaps (d : Nat) (l : List (Nat × Nat)) : List (Nat × Nat) :=
  let lo := d * 2 ^ 36
  let hi := lo + 0xF00000000
  (lo :: l.map (fun r => r.1 + r.2)).map (fun a =>
    let next := (l.filter (fun r => decide (a ≤ r.1))).foldl (fun m r => min m r.1) hi
    if l.any (fun r => decide (r.1 < a ∧ a < r.1 + r.2)) then (a, a) else (a, next))

/-- Aligned bases in a gap: the first, and how many. -/
def basesIn (align size : Nat) (g : Nat × Nat) : Nat × Nat :=
  let a := 2 ^ align
  let f := ceilDiv g.1 a * a
  (f, if f + size ≤ g.2 then (g.2 - size - f) / a + 1 else 0)

/-- The n-th base at which a region can stand. -/
def nthBase (align size : Nat) : List (Nat × Nat) → Nat → Option Nat
  | [], _ => none
  | g :: t, n =>
    let b := basesIn align size g
    if n < b.2 then some (b.1 + n * 2 ^ align) else nthBase align size t (n - b.2)

/-- Every region placed, in INDEX order; the index of one that cannot be. The steward's choice among the places is open:
k numbers it. -/
def placeRegions (s : State) (p k : Nat) (rs : List Region) (img : List (Nat × Nat)) : List Nat × Option Nat :=
  let r := rs.foldl (fun (st : List (Nat × Nat) × Option Nat) x =>
    if st.2.isSome then st
    else
      let g := gaps x.die (takenRanges s p x.die (img ++ st.1))
      let total := g.foldl (fun t q => t + (basesIn x.align x.size q).2) 0
      if total = 0 then (st.1, some st.1.length)
      else match nthBase x.align x.size g (Config.choice (k + st.1.length) % total) with
        | some a => (st.1 ++ [(a, x.size)], none)
        | none => (st.1, some st.1.length)) ([], none)
  (r.1.map (·.1), r.2)

/-- The plan budget of a die at its running rate (Table 8.13). -/
def lpBudget (s : State) (d : Nat) : Nat :=
  match s.getF (lpcBase d) LPC_CFG_RATE with | 0 => 655360 | 1 => 573440 | _ => 491520

def step15 (s : State) (p : Nat) (b : Bytes) (img : List (Nat × Nat)) : Refuse :=
  let rs := imRegions b
  let bad (i d why : Nat) : Nat × Nat := (0x11, i + d * 2 ^ 8 + why * 2 ^ 16)
  firstOf rs.zipIdx (fun q =>
    let r := q.1
    if 3 < r.die ∨ r.align < (if r.kind = 1 then 8 else 6) ∨ 30 < r.align ∨ 3 < r.kind ∨ 2 < r.init ∨ r.size = 0 ∨
        r.size % 64 ≠ 0 then some (bad q.2 (if 3 < r.die then 0xFF else r.die) 3) else none) <|>
  firstOf (sectsOf b 6) (fun q =>
    let x := q.2
    match rs[x.region]? with
    | none => some (bad x.region 0xFF 5)
    | some r => if r.size < x.dest + x.len then some (bad x.region r.die 4) else none) <|>
  (match (placeRegions s p s.fresh rs img).2 with
   | some i => some (bad i ((rs[i]?).map (·.die) |>.getD 0xFF) 1)
   | none => none) <|>
  firstOf (List.range 4) (fun d =>
    if lpBudget s d < ((others s p).foldl (fun t q => t + piLPBUDGET (s.plan q).img d) 0) + piLPBUDGET b d then
      some (bad 0xFF d 2) else none)

def step16 (s : State) (p : Nat) (b : Bytes) : Refuse :=
  let held := (others s p).foldl (fun t q => t + piHUBSHARE (s.plan q).img) 0
  need (held + piHUBSHARE b ≤ 10000000 / (galeTable s.b0).getD 9 1) 0x12 held

/-! ### Step 17: relocation (R375 to R377) -/

/-- A relocation record applied to the image: none where it is refused. `used` holds the fields patched before it, as bit
addresses with their widths. -/
def relApply (p first : Nat) (regions : List Nat) (b : Bytes) (used : List (Nat × Nat)) (r : Rel) :
    Option (Bytes × List (Nat × Nat)) :=
  let held := bit (clHELD b) r.arg
  let rs := imRegions b
  let x := sectAt b r.sect
  let base : Option Nat :=
    match r.kind with
    | 1 => regions[r.arg]?
    | 2 => some first
    | 3 => some p
    | 4 => if held then some (scratchWin r.arg) else none
    | 5 => if held then some (coreWin r.arg) else none
    | 6 => if held then some r.arg else none
    | _ => none
  match base with
  | none => none
  | some v =>
    let w := relWindow b r
    let y := (v : Int) + r.addend
    let size := ((rs[r.arg]?).map (·.size)).getD 0
    let fits := match r.kind with
      | 1 => decide (v ≤ y) && decide (y ≤ v + size)
      | 2 => decide (y < first + piNHANDLE b)
      | 3 => decide (y ≤ 7)
      | 6 => decide (y ≤ 127)
      | _ => true
    let at_ := 8 * w + r.lsb
    if r.rsv ≠ 0 ∨ 64 < r.lsb + r.width ∨ imNSECT b ≤ r.sect ∨ x.len < r.off + 8 ∨
        bits (leAt b w 8) r.lsb r.width ≠ 0 ∨ y < 0 ∨ (2 ^ r.width : Nat) ≤ y ∨ !fits ∨
        used.any (fun u => overlaps at_ r.width u.1 u.2) then none
    else some (relPut b r y.toNat, (at_, r.width) :: used)

/-- Every record applied in order (R378): the patched image, or the index of the record that is refused. -/
def relocate (p first : Nat) (regions : List Nat) (b : Bytes) : Bytes × Option Nat :=
  let r := (rels b).zipIdx.foldl (fun (st : Bytes × List (Nat × Nat) × Option Nat) q =>
    if st.2.2.isSome then st
    else match relApply p first regions st.1 st.2.1 q.1 with
      | some (m, u) => (m, u, none)
      | none => (st.1, st.2.1, some q.2)) (b, [], none)
  (r.1, r.2.2)

/-! ### Steps 18 and 19 (R367, R372, R380, R276) -/

/-- A register write may reach its target (R372). -/
def regTarget (b : Bytes) (a : Nat) : Bool :=
  a % 4 = 0 &&
  match windowOf a with
  | some (.core, o) =>
    bit (clHELD b) (coreNum a) && decide (o < 0x14000) && (seedEngine o).isNone && !(decide (0x6000 ≤ o) && decide (o < 0x6100))
  | some (.cluster, o) =>
    if 0x2000 ≤ o ∧ o < 0x3000 then bit (clMOVER b) (clusterNum a)
    else if 0x4000 ≤ o ∧ o < 0x4100 then bit (clGUST b) (8 * clusterNum a + (o - 0x4000) / 0x20)
    else false
  | _ => false

/-- The first byte past the cluster-memory ranges of a plan that cover byte o of cluster memory j without a gap, followed over so
many ranges. -/
def rangesEnd (b : Bytes) (j : Nat) : Nat → Nat → Nat
  | 0, o => o
  | n + 1, o =>
    match (clRanges b).find? (fun r => r.1 = j && decide (64 * r.2.1 ≤ o) && decide (o < 64 * (r.2.2 + 1))) with
    | some r => rangesEnd b j n (64 * (r.2.2 + 1))
    | none => o

/-- An SRAM write lies in held scratch or in the cluster-memory ranges of the plan (R372). -/
def sramTarget (b : Bytes) (a len : Nat) : Bool :=
  len = 0 ||
  match placeOf a, placeOf (a + len - 1) with
  | .scratch c, .scratch d => c = d && bit (clHELD b) c
  | .cmem j, .cmem k =>
    let o := a - clusterMem j
    j = k && decide (o + len ≤ rangesEnd b j (clRanges b).length o)
  | _, _ => false

/-- The write targets of a section in order: true where the target is allowed. -/
def sectTargets (b : Bytes) (x : Sect) : List Bool :=
  match x.typ with
  | 7 => [sramTarget b x.dest x.len]
  | 12 => (List.range (detourCount b x)).flatMap (fun i =>
      let o := x.off + 16 * i
      (List.range (leAt b (o + 4) 4)).map (fun j =>
        let w := x.off + leAt b (o + 8) 4 + 16 * j
        regTarget b (leAt b w 6)))
  | _ => (sectWrites b x).map (fun w => match w with | .reg a _ => regTarget b a | .sram a d => sramTarget b a d.length)

def step18 (b : Bytes) : Refuse :=
  let ts := (sects b).flatMap (fun p => sectTargets b p.2)
  (match ts.findIdx? (fun t => !t) with
   | some i => some (0xE, 8 + min i 0xFFFFFF * 2 ^ 8)
   | none => none) <|>
  firstOf (imConfigs b) (fun cfg =>
    let ds := detours b cfg
    firstOf ds.zipIdx (fun q =>
      let d := q.1
      if !bit (clHELD b) d.from_ ∨ bit (clSPARE b) d.from_ ∨ !bit (clSPARE b) d.to_ ∨
          (ds.take q.2).any (fun e => e.from_ = d.from_) then some (0x14, d.sect + d.idx * 2 ^ 16) else none)) <|>
  firstOf (clLends b) (fun r =>
    let a := coreWin r.1 + 0x1010 + 4 * r.2.1
    let v := (imConfigs b).foldl (fun (st : Nat × Bool) cfg =>
      let x := (cfgWrites b cfg).foldl (fun x w => match w with | .reg c y => if c = a then y else x | _ => x) st.1
      (x, st.2 && bit x r.2.2)) (0, true)
    need v.2 0x16 (r.1 + r.2.1 * 2 ^ 8 + r.2.2 * 2 ^ 10))

/-- The lists of register writes of an image: one of each configuration and one of each of its detours. -/
def regLists (b : Bytes) : List (List (Nat × Nat)) :=
  let regs (l : List CfgWrite) := l.filterMap (fun w => match w with | .reg a v => some (a, v) | _ => none)
  (imConfigs b).flatMap (fun cfg => regs (cfgWrites b cfg) :: (detours b cfg).map (fun d => regs (detourWrites b d)))

/-- A list of writes leaves SPILL set on a queue of a cluster: the last write to a register is the one in force (R373). -/
def spillsIn (j : Nat) (l : List (Nat × Nat)) : Bool :=
  let q := l.filter (fun w => match queueReg w.1 with | some (c, _) => c / 8 = j | none => false)
  q.any (fun w => ((q.filter (fun x => x.1 = w.1)).getLast?.map (fun x => bit x.2 15)).getD false)

def step19 (b : Bytes) : Refuse :=
  let ls := regLists b
  firstOf (List.range 16) (fun j =>
    let arms := ls.any (fun l => l.any (fun w => moverReg w.1 = some (j, 15, 0xC)))
    need (!ls.any (spillsIn j) || (bit (clMOVER b) j && !arms)) 0x15 (j % 4 + j / 4 * 2 ^ 4))

/-! ### Step 20 -/

/-- An epoch that no other occupied slot holds (R265): the first free one from an open start. -/
def freeEpoch (s : State) (p k : Nat) : Nat :=
  let e := Config.choice k % 4096
  (((List.range 9).map (fun i => (e + i) % 4096)).find? (fun v => (others s p).all (fun q => (s.plan q).epoch ≠ v))).getD e

/-- The sweep settings of the groups a plan holds, with those of the other loaded plans (R296, R364). -/
def sweepSettings (s : State) (p : Nat) (b : Bytes) : State :=
  let images := b :: (others s p).map (fun q => (s.plan q).img)
  (planGroups b).foldl (fun t g => sweepGroup t g images) s

/-- The initial contents of the regions (R369, R370). -/
def regionContents (s : State) (b : Bytes) (bases : List Nat) : State :=
  let s := ((imRegions b).zip bases).foldl (fun t r =>
    if r.1.init = 0 then t
    else { t with
      mem := SMap.eraseRange t.mem r.2 (r.2 + r.1.size)
      lost := (t.lost.flatMap (fun l =>
        (if l.1 < min l.2.1 r.2 then [(l.1, min l.2.1 r.2, l.2.2)] else []) ++
        (if max l.1 (r.2 + r.1.size) < l.2.1 then [(max l.1 (r.2 + r.1.size), l.2.1, l.2.2)] else [])))
      poison := t.poison.filter (fun q => decide (q < r.2) || decide (r.2 + r.1.size ≤ q)) }) s
  (sectsOf b 6).foldl (fun t q => lineWrite t (bases.getD q.2.region 0 + q.2.dest) (sectBytes b q.2)) s

/-- The transit records on cores that no slot holds (R367). -/
def unheldTransits (s : State) (p : Nat) (b : Bytes) : List (Nat × Nat × Nat) :=
  (clTransits b).filter (fun r => (others s p).all (fun q => !bit (clHELD (s.plan q).img) r.1))

/-- The steward sets the STU_PASS bits of those records. -/
def setTransits (s : State) (p : Nat) (b : Bytes) : State :=
  (unheldTransits s p b).foldl (fun t r =>
    let a := coreWin r.1 + 0x1010 + 4 * r.2.1
    t.setReg a (t.reg a ||| 2 ^ r.2.2)) s

/-- The seeds of the engines a plan uses (R106): its own, or independent values of the entropy source. -/
def seedEngines (s : State) (b : Bytes) : State :=
  (maskBits 128 (clHELD b)).foldl (fun t c =>
    (List.range 8).foldl (fun t e =>
      match sectOff b 13 with
      | some o => t.setF (engBase c e) ENG_SEED_SEED (leAt b (o + 4 * (8 * c + e)) 4)
      | none => { t.setF (engBase c e) ENG_SEED_SEED (Config.entropy t.fresh).toNat with fresh := t.fresh + 1 }) t) s

/-- The feeder block of the image (R374). -/
def writeFeeder (s : State) (p : Nat) (b : Bytes) : State :=
  match sectOff b 10 with
  | none => s
  | some o =>
    let n := leAt b o 1 % 8 + 1
    let s := s.writeRW (fdBase p) (leAt b o 4)
    (List.range n).foldl (fun t k =>
      (List.range 3).foldl (fun t i => t.writeRW (fdtBase p k + 0x40 + 4 * i) (leAt b (o + 0x40 + 0x20 * k + 4 * i) 4)) t) s

/-- Step 20: the plan's settings and configuration 0 written, and the group of its initial epoch queued. -/
def placePlan (s : State) (p : Nat) (img orig : Bytes) (first : Nat) (bases : List Nat) : State :=
  let moved := (fencedMoves s orig).1
  let e := freeEpoch s p s.fresh
  let s := regionContents { s with fresh := s.fresh + 1 } img bases
  let c := cadBase p
  let s := resetRegs s c (c + 0x100) [c + 0xC]
  let s := s.setPlan p { PlanSt.reset with
    img := img, first := first, regions := bases, epoch := e, meas := sha512 (orig.take (imLEN orig)), moved := moved
    lastDone := now s }
  let s := (((s.setF c CAD_STATE_SLOT 1).setF c CAD_LATENCY_L_PLAN (piLPLAN img)).setF c CAD_ADMIT_P_ADM (piPADM img)).setF c
    CAD_GRID_PERIOD (piGRID img)
  let s := setTransits s p img
  let r := writeList s (configList (s.plan p) 0)
  let s := (((r.1.setF (lulBase p) LUL_CTRL_WINDOW (piLULLUS img)).setF (lulBase p) LUL_CTRL_EN 1))
  let s := resetFeeder (writeFeeder s p img) p
  let s := moved.foldl (fun t m => moveSeeds t (s.plan p) 0 m.1) (sweepSettings (seedEngines s img) p img)
  { s with groups := s.groups ++ [epochGroup s p 4 e [] r.2] }

/-- Steps 2 to 20 of Table 10.16 on the bytes of an image: refused, or in LOADING with the group of step 20 queued. -/
def loadImage (s : State) (p : Nat) (b : Bytes) (len : Nat) (imgRange : List (Nat × Nat)) : Option (Nat × Nat) × State :=
  match (step2 b len <|> step3 b : Refuse) with
  | some r => (some r, s)
  | none =>
    let inj := injected s 0x13 0
    let s := inj.2
    match (step4 b inj.1 <|> step5 s b <|> step6 s b <|> step7 b <|> step8 b <|> step9 s b <|> step10 s p b <|> step11 s b <|>
        step12 s p b <|> step13 s p b <|> step14 s p b <|> step15 s p b imgRange <|> step16 s p b : Refuse) with
    | some r => (some r, s)
    | none =>
      let bases := (placeRegions s p s.fresh (imRegions b) imgRange).1
      let s := { s with fresh := s.fresh + bases.length }
      let starts := handleStarts s p (piNHANDLE b)
      let first := starts.getD (Config.choice s.fresh % starts.length) 0
      let s := { s with fresh := s.fresh + 1 }
      match relocate p first bases b with
      | (_, some i) => (some (0x13, i), s)
      | (img, none) =>
        match (step18 img <|> step19 img : Refuse) with
        | some r => (some r, s)
        | none =>
          (none, placePlan s p img b first bases)

end Sys2Proof.Machine
end

