-- ==== Sys2Proof/Machine/Reset.lean ====
section
/-! DEFINITION. The resets of the device (R501, R503, Table 14.6, Table 14.7, R554) and a die that loses its supply
(R499, R500). -/

namespace Sys2Proof.Machine
open Sys2Proof
open Sys2Proof.Machine.Reg

/-! ### What survives (Table 14.7) -/

/-- Scopes of Table 14.6, widest first, and 5 for a die that loses VDD_CORE (DIE-OFF, STANDBY). -/
def rsPOR : Nat := 1
def rsPERST : Nat := 2
def rsWARM : Nat := 3
def rsFLR : Nat := 4
def rsDIE : Nat := 5

/-- A hub register keeps its value through a reset (Table 14.7). -/
def hubLives (scope o : Nat) : Bool :=
  if o < 0x10000 then
    (o = 0xC && scope != rsPOR) ||
      (scope = rsWARM && decide (0x4000 ≤ o) && decide (o < 0x4400)) ||
      (scope = rsFLR && (o = 8 || (decide (0x100 ≤ o) && decide (o < 0x200))))
  else if o < 0x60000 then false
  else if o < 0x70000 then
    scope = rsFLR || (scope != rsPOR && decide (0x60800 ≤ o) && decide (o < 0x60840))
  else scope = rsFLR

/-- A register of a compute die keeps its value: the bank repairs but at power-on, fences and the LPDDR4X controller through
FLR and through the loss of VDD_CORE, the PWR block through both. -/
def dieLives (scope a : Nat) : Bool :=
  let c := bits a 36 4
  let k := bits a 32 4
  let o := a % 2 ^ 32
  if k < 8 then o = 0x601C && scope != rsPOR
  else if c < 4 then (o = 0x601C && scope != rsPOR) || (o = 0x10 && (scope = rsFLR || scope = rsDIE))
  else if o < 0x1000 then scope = rsFLR || (scope = rsDIE && (o = 0 || o = 4 || o = 0x28))
  else if o < 0x2000 then false
  else scope = rsFLR || scope = rsDIE

/-- A register keeps its value through a reset. -/
def regLives (scope a : Nat) : Bool := if hubWin ≤ a then hubLives scope (a - hubWin) else dieLives scope a

/-- Fenced cores of the whole device, by the fence registers. -/
def fencedCores (s : State) : List Nat :=
  (List.range 128).filter (fun c => bit (s.getF (txuBase (c / 8)) TXU_FENCE_FENCED) (c % 8))

/-- Fenced cores of a list stand in FENCED again. -/
def refence (s : State) (l : List Nat) : State := l.foldl (fun t c => t.setF (coreWin c) SEQ_STATUS_STATE 4) s

/-! ### A die without VDD_CORE (R499, R500) -/

/-- The register windows of a die. -/
def dieWindows (d : Nat) : Nat := 0xF00000000000 + d * 2 ^ 40

/-- No maintenance activity of a die runs or waits. -/
def dieIdle (x : DieSt) : DieSt := { x with running := [], waiting := [], wakes := [], swept := [] }

/-- A die's logic at reset, with what survives the loss of VDD_CORE. -/
def resetDie (s : State) (d : Nat) : State :=
  let w := dieWindows d
  let fences := (fencedCores s).filter (fun c => c / 32 = d)
  let x := s.die d
  let s := { s with
    regs := s.regs.filter (fun r => decide (r.1 < w) || decide (w + 2 ^ 40 ≤ r.1) || regLives rsDIE r.1)
    cores := s.cores.filter (fun q => q.1 / 32 ≠ d)
    clusters := s.clusters.filter (fun q => q.1 / 4 ≠ d)
    movers := s.movers.filter (fun q => q.1 / 64 ≠ d)
    mvrLast := s.mvrLast.filter (fun q => q.1 / 4 ≠ d)
    edgeIn := s.edgeIn.filter (fun q => q.1 / 128 ≠ d) }
  refence (s.setDie d (dieIdle x)) fences

/-- The sixteen channels of a die enter or leave self-refresh, by their maintenance requests (R297). -/
def srefDie (s : State) (d : Nat) (on : Bool) : State := (List.range 16).foldl (srefChannel d on) s

/-- The contents of a die's SRAM become undefined. -/
def loseDie (s : State) (d : Nat) : State := s.loseRange (0x800000000000 + d * 2 ^ 40) (0x800000000000 + (d + 1) * 2 ^ 40)

/-- A die in DIE-OFF by a command or by heat. -/
def dieShut (s : State) (d : Nat) : Bool := s.getF (pwrDie d) PWR_STATUS_SHUTDOWN = 1

/-- THERM_N follows the dies shut down for heat and the hub (R493, R494). -/
def thermPin (s : State) : State :=
  let on := s.hubHot || (List.range 4).any (dieShut s)
  if on = s.therm then s else { s with therm := on }.emit (.therm on)

/-- A die leaves DIE-OFF at 0.750 V with its registers at reset (R499); PWR_VSETd keeps its target (Table 14.7, log 144). -/
def dieReturn (s : State) (d : Nat) : State :=
  let s := srefDie (resetDie s d) d false
  let s := (s.setF (pwrDie d) PWR_STATUS_OFF 0).setF (pwrDie d) PWR_STATUS_SHUTDOWN 0
  thermPin (s.emit (.vddCore d true))

/-! ### The resets of the device (Table 14.6) -/

/-- A die after a reset of the device: readings stay, a die held after a brown-out stays held until it has recovered (R490), and
what covers the whole die goes (Table 14.7). -/
def dieAfter (scope : Nat) (x : DieSt) : DieSt :=
  let y := if scope = rsFLR then x else { x with sq := none, ot := none }
  let y := dieIdle (if scope = rsFLR then y else { y with scrubAt := none })
  if scope = rsPOR then { y with spares := [], bad := [] } else y

/-- Boot as a reset of the device leaves it: the ROM starts again, with BOOTSEL sampled anew (Table 17.8, log 145), or after FLR
the steward from its image. -/
def bootAfter (s : State) (scope : Nat) : BootSt :=
  let b := s.boot
  if scope = rsFLR then { b with down := true, checking := none, waits := false, cfgReady := false, scope := scope }
  else { BootSt.reset with
    porLow := b.porLow, perstLow := b.perstLow, t0 := now s, kick := now s, bootsel := Config.bootselLevel s.fresh
    upNs := b.upNs, cfgReady := scope = rsWARM && b.cfgReady, scope := scope }

/-- An instruction is a line of the monitor. -/
def monLine : Instr → Bool
  | .monHelp _ | .monId _ | .monStat _ | .monBaud _ | .monChal _ | .monRsp _ | .monUnlk _ | .monLock _
  | .monRd _ | .monPk _ | .monWr _ | .monMrd _ | .monMwr _ | .monLog _ | .monFuse _
  | .monBurn _ _ | .lineDiscard | .monitorUnknownCommand _ => true
  | _ => false

/-- A relay port is UP. -/
def portIsUp (s : State) (p : Nat) : Bool := s.getF (rlyPort p) RLY_P_STATUS_STATE = 5

/-- The ports that a module reset takes out of UP are logged (R475). -/
def logPorts (s : State) : State :=
  ((List.range 8).filter (portIsUp s)).foldl (fun t p => logEvent t 0x800C 0xFF 0xFF (myDev s) p 0 0) s

/-- The dies that a reset powers again: off, and not for heat. -/
def returning (s : State) : List Nat :=
  (List.range 4).filter (fun d => !dieShut s d && (dieOff s d || s.getF pwrHub PWR_STATE_STANDBY = 1))

/-- A reset of the device of a scope of Table 14.6 with its PWR_RST.CAUSE and DIE. -/
def resetAll (s : State) (scope cause die : Nat) : State :=
  let up := if scope = rsFLR then [] else (List.range 8).filter (portIsUp s)
  let s := if scope = rsPOR then
      ({ s with timeBase := 0, log := [], fuses0 := s.fuses, hubHot := false, scanned := false }).loseRange 0 (2 ^ 48)
    else if scope = rsFLR then s else logPorts s
  let shut := (List.range 4).filter (dieShut s)
  let back := returning s
  let fences := if scope = rsFLR then fencedCores s else []
  let head := s.getF hubWin MBX_STATUS_HEAD
  let dev := if scope = rsPOR then 0 else s.getF hubWin MBX_STATUS_DEVNUM
  let boot := bootAfter s scope
  let s := { s with
    regs := s.regs.filter (fun r => regLives scope r.1)
    cores := [], clusters := [], stuck := if scope = rsFLR then s.stuck.filter (fun e => monLine e.2) else [], edgeIn := [], reports := [], notices := [], purge := [], taken := [], forwarded := []
    ccWait := [], ccUnread := 0, crStop := false, ccStop := false, fifos := [], streams := [], frames := [], plans := []
    feeds := [], groups := [], two := TwoPhase.reset, movers := [], mvrLast := [], proxy := [], relayq := [], grants := []
    dies := s.dies.map (fun (q : Nat × DieSt) => (q.1, dieAfter scope q.2))
    ports := if scope = rsFLR then s.ports else []
    nextTag := if scope = rsFLR then s.nextTag else 0
    spdm := SpdmSt.reset
    mon := if scope = rsPOR then MonSt.reset
      else if scope = rsFLR then { s.mon with chal := none }
      else { MonSt.reset with fails := s.mon.fails, lockout := s.mon.lockout }
    cfgSpace := if scope = rsWARM then s.cfgSpace else if scope = rsFLR then s.cfgSpace.filter (fun q => q.1 = 0x2C) else []
    boot := boot, fresh := if scope = rsFLR then s.fresh else s.fresh + 1
    writes := [], slew := if scope = rsFLR then s.slew else 0 }
  let s := up.foldl (fun t p => t.setF (rlyPort p) RLY_P_STATUS_STATE 1) s
  let s := (s.setF hubWin MBX_STATUS_HEAD head).setF hubWin MBX_STATUS_DEVNUM dev
  let s := if scope = rsWARM then s.setF hubWin MBX_STATUS_RESETTING 1 else s
  let s := (s.setF pwrHub PWR_RST_CAUSE cause).setF pwrHub PWR_RST_DIE die
  let s := ((s.setF pwrHub PWR_STATE_STANDBY 0).setF dbgBase DBG_STATUS_CHAL 0)
  let s := (List.range 4).foldl (fun t i => t.setReg (pwrHub + 0x1C + 4 * i) 0) s
  let s := (List.range 4).foldl (fun t d => (t.setF (pwrDie d) PWR_STATUS_OFF 0).setF (pwrDie d) PWR_STATUS_SHUTDOWN 0) s
  let s := shut.foldl (fun t d => (t.setF (pwrDie d) PWR_STATUS_OFF 1).setF (pwrDie d) PWR_STATUS_SHUTDOWN 1) s
  let s := back.foldl (fun t d => (srefDie t d false).emit (.vddCore d true)) s
  let s := if s.mon.lockout.isSome then s.setF dbgBase DBG_STATUS_LOCKOUT 1 else s
  thermPin (refence s fences)

/-- A reset of the device arrives: it is absorbed by a wider one in progress, and by a hub shut down for heat (R494, R501). -/
def deviceReset (s : State) (scope cause die : Nat) : State :=
  let inProg := if s.boot.porLow then 1 else s.boot.scope
  if scope ≠ rsPOR ∧ (s.hubHot ∨ (inProg ≠ 0 ∧ inProg < scope)) then s else resetAll s scope cause die

/-- The endpoint answers the host: not held in reset (R493, R501). -/
def endpointUp (s : State) : Bool := !s.boot.porLow && !s.boot.perstLow && !s.hubHot

/-- No pin holds the device in reset: POR_N is high, and PERST_N is high or was absorbed by the power-on reset (R501, R554). -/
def released (s : State) : Bool := !s.boot.porLow && !(s.boot.perstLow && s.boot.scope = rsPERST) && !s.hubHot

/-- The steward runs: started, and not in a restart. -/
def stewardUp (s : State) : Bool := s.getF hubWin MBX_STATUS_READY = 1 && !s.boot.down

/-! ### Cluster reset (Table 14.6) -/

/-- A register keeps its value through a cluster reset: retention and repairs of the banks (Table 14.7). -/
def clusterLives (o : Nat) : Bool := o = 0x6000 || o = 0x6004 || o = 0x601C

/-- The bank sweep of a cluster's groups at reset: it restarts with its registers. -/
def sweepsOff (s : State) (cl : Nat) : State :=
  let x := s.die (cl / 4)
  let mine (g : Nat) : Bool := decide (g / 8 = cl % 4) && decide (g < 32) || g = 32 + cl % 4
  s.setDie (cl / 4) { x with
    running := x.running.filter (fun r => !(r.2 = 7 && mine r.1))
    waiting := x.waiting.filter (fun w => !(w.2.1 = 7 && mine w.1))
    swept := x.swept.filter (fun r => !mine r.1) }

/-- The cores, TXU, mover, relation unit and gust channels of a cluster at reset, and the fences of its cores cleared. -/
def clusterReset (s : State) (cl : Nat) : State :=
  let lo := 0xF00000000000 + windowBits (cl / 4) (cl % 4) 0
  let s := { s with
    regs := s.regs.filter (fun r => decide (r.1 < lo) || decide (lo + 2 ^ 36 ≤ r.1) || clusterLives (r.1 % 2 ^ 32))
    cores := s.cores.filter (fun q => q.1 / 8 ≠ cl)
    clusters := s.clusters.filter (fun q => q.1 ≠ cl)
    movers := s.movers.filter (fun q => q.1 / 16 ≠ cl)
    mvrLast := s.mvrLast.filter (fun q => q.1 ≠ cl) }
  let s := dropChallenge (sweepsOff s cl)
  (List.range 8).foldl (fun t k =>
    (List.range 4).foldl (fun t p => t.setReg (coreWin (8 * cl + k) + 0x1010 + 4 * p) (passInForce t (8 * cl + k) p)) t) s

/-! ### Pins and the function (R480, R501, R554) -/

/-- FUNCTION_LEVEL_RESET and HOT_RESET. -/
def functionReset (s : State) (cause : Nat) : State :=
  if !endpointUp s then s else deviceReset s rsFLR cause 0

/-- The endpoint trains, or does not: a module whose endpoint trains at boot is a head (R460). -/
def endpointTrains (s : State) (trains : Bool) : State :=
  let h := if trains then 1 else 0
  (s.setF hubWin MBX_STATUS_HEAD h).setF rlyBase RLY_ID_HEAD h

/-- POR_N_ASSERT by a pulse of at least 10 µs. -/
def porAssert (s : State) : State := resetAll { s with boot := { s.boot with porLow := true, upNs := 0 } } rsPOR 0 0

/-- POR_N_RELEASE: the boot ROM starts, with BOOTSEL sampled (Table 17.8). -/
def porRelease (s : State) (bootsel trains : Bool) : State :=
  if !s.boot.porLow then s
  else endpointTrains { s with boot := { s.boot with porLow := false, t0 := now s, kick := now s, bootsel := bootsel } } trains

/-- PERST_N_ASSERT by a pulse of at least 100 µs: it has no effect of its own while POR_N is low (R554), and a power-on reset in
progress absorbs it (R501); the endpoint stays in reset while the pin is low. -/
def perstAssert (s : State) : State :=
  let t := if s.boot.porLow then s else deviceReset s rsPERST 1 0
  { t with boot := { t.boot with perstLow := true } }

/-- PERST_N_RELEASE: the boot ROM of a PERST_N reset starts; in a power-on reset that absorbed it the endpoint trains. -/
def perstRelease (s : State) (bootsel trains : Bool) : State :=
  if !s.boot.perstLow then s
  else
    let b := { s.boot with perstLow := false }
    if s.boot.porLow then { s with boot := b }
    else if s.boot.scope = rsPERST then
      endpointTrains { s with boot := { b with t0 := now s, kick := now s, bootsel := bootsel } } trains
    else if s.boot.scope = rsPOR then endpointTrains { s with boot := b } trains
    else { s with boot := b }

/-- PERST_N low for a number of nanoseconds: below 1 µs ignored, from 100 µs a reset, between them undefined (R554). -/
def execPerstNAssert (ns : Nat) (s : State) : Host.Outcome State Fault Refusal :=
  if ns < 1000 then live s s
  else if ns < 100000 ∧ !s.boot.porLow ∧ !s.scanned then .fault .pulseUndefined
  else live s (perstAssert s)

def execPerstNRelease (bootsel trains : Bool) (s : State) : Host.Outcome State Fault Refusal :=
  live s (perstRelease s bootsel trains)

/-- POR_N low for a number of nanoseconds: below 1 µs ignored, from 10 µs a reset, between them undefined (R554). It ends
an undefined functional state (R543). -/
def execPorNAssert (ns : Nat) (s : State) : Host.Outcome State Fault Refusal :=
  if ns < 1000 then .next s
  else if ns < 10000 then .fault .pulseUndefined
  else .next (porAssert s)

def execPorNRelease (bootsel trains : Bool) (s : State) : Host.Outcome State Fault Refusal :=
  live s (porRelease s bootsel trains)

/-- VDD_HUB below 0.68 V is a power-on reset (R501, R550). -/
def execVddHubLow (s : State) : Host.Outcome State Fault Refusal := .next (resetAll s rsPOR 0 0)

end Sys2Proof.Machine
end

