-- ==== Sys2Proof/Machine/Topology.lean ====
section
/-! DEFINITION. Discovery, numbering and routes of a chain of modules (R460 to R464). What other modules report comes with
the command: for each module a record in the form of Table 13.5, whose byte 176 has bit 0 set where a plan slot of the
module is RUNNING. For a discovery the records stand in any order with this module first, and peers are places in that
list; otherwise they stand in the order of the device numbers, empty for a module that does not answer. -/

namespace Sys2Proof.Machine
open Sys2Proof
open Sys2Proof.Machine.Reg

def stepByte (s : State) : Nat := if s.b0 then 0xB0 else 0xA1

/-! ### Records (Table 13.5) -/

def tpPeer (r : Bytes) (p : Nat) : Nat := leAt r (4 + p) 1
def tpPeerPort (r : Bytes) (p : Nat) : Nat := bits (leAt r (12 + p) 1) 0 3
def tpState (r : Bytes) (p : Nat) : Nat := bits (leAt r (12 + p) 1) 4 3
def tpRoute (r : Bytes) (d : Nat) : Nat := bits (leAt r (64 + d / 2) 1) (4 * (d % 2)) 4
def tpBusy (r : Bytes) : Bool := bit (leAt r 176 1) 0

/-- This module's own record, with number n: a port has a peer once a TRAIN flit has come, unnumbered or 63 where it reads 0x3F. -/
def ownRecord (s : State) (n : Nat) : Bytes :=
  let st (p : Nat) : Nat := s.getF (rlyPort p) RLY_P_STATUS_STATE
  let peer (p : Nat) : Nat := s.getF (rlyPort p) RLY_P_STATUS_PEER
  natToBytes 1 n ++ natToBytes 1 (if isHead s then 3 else 1) ++ natToBytes 1 (stepByte s) ++ [0] ++
    (List.range 8).flatMap (fun p => natToBytes 1 (if st p < 4 ∨ (st p = 4 ∧ peer p = 0x3F) then 0xFF else peer p)) ++
    (List.range 8).flatMap (fun p => natToBytes 1 (s.getF (rlyPort p) RLY_P_STATUS_PEERPORT + 16 * st p)) ++
    slice [] 0 44 ++
    (List.range 8).flatMap (fun i => natToBytes 4 (s.reg (rlyBase + 0x804 + 4 * i))) ++
    (List.range 8).flatMap (fun p => natToBytes 8 (bits (s.reg (rlyBase + 0xA00 + 8 * p)) 0 14 +
      s.getF (rlyBase + 8 * p) RLY_OUT_LEN_BYTES * 2 ^ 14)) ++
    (List.range 4).flatMap (fun i => natToBytes 4 (s.reg (rlyBase + 0xA40 + 4 * i))) ++
    natToBytes 1 (if (List.range 8).any (fun p => planState s p = 3) then 1 else 0) ++ slice [] 0 15

/-- An absent record. -/
def absentRecord : Bytes := [0x3F] ++ slice [] 0 191

/-- The whole topology record of a list of records by device number. -/
def topologyBytes (recs : List Bytes) : Bytes :=
  natToBytes 1 recs.length ++ slice [] 0 63 ++
    (List.range 64).flatMap (fun n =>
      match recs[n]? with
      | none => absentRecord
      | some r => if r.isEmpty then absentRecord else patch (slice r 0 192) 176 [0])

/-! ### Discovery (R461, R462) -/

/-- A module found: its place in the reports, the number of the module it was found from, the port there, its own port. -/
structure Found where
  id : Nat
  parent : Nat
  port : Nat
  back : Nat
deriving DecidableEq, Repr

/-- Ports of a module that are UP. -/
def upPorts (r : Bytes) : List Nat := (List.range 8).filter (fun p => tpState r p = 5)

/-- Modules found from number n, breadth first, in ascending number and port order, at most 64. -/
def discoverFrom (net : List Bytes) : Nat → Nat → List Found → List Found
  | 0, _, l => l
  | k + 1, n, l =>
    match l[n]? with
    | none => l
    | some f =>
      let r := net.getD f.id []
      let l := (upPorts r).foldl (fun l p =>
        let q := tpPeer r p
        if q = 0xFF ∨ net.length ≤ q ∨ l.any (fun g => g.id = q) ∨ 64 ≤ l.length then l
        else l ++ [⟨q, n, p, tpPeerPort r p⟩]) l
      discoverFrom net k (n + 1) l

/-- The modules of the chain in the order of their numbers. -/
def discovered (net : List Bytes) : List Found := discoverFrom net 64 0 [⟨0, 0, 0, 0⟩]

/-- The numbers from a module up to the head along the tree. -/
def treePath (l : List Found) : Nat → Nat → List Nat
  | 0, _ => []
  | k + 1, n => n :: (if n = 0 then [] else treePath l k ((l.getD n ⟨0, 0, 0, 0⟩).parent))

/-- The routing entry of module n toward module d along the breadth-first tree (R462). -/
def treeRoute (l : List Found) (n d : Nat) : Nat :=
  if l.length ≤ d then 0xF
  else if n = d then 0xE
  else
    let path := treePath l 64 d
    match path.findIdx? (fun m => m = n) with
    | some i => (l.getD (path.getD (i - 1) 0) ⟨0, 0, 0, 0⟩).port
    | none => (l.getD n ⟨0, 0, 0, 0⟩).back

/-- Entries 8i to 8i + 7 of a routing table. -/
def routeWord (f : Nat → Nat) (i : Nat) : Nat := (List.range 8).foldl (fun w k => w + f (8 * i + k) * 16 ^ k) 0

/-- The number of the module at a place of the reports, 0x3F where it has none. -/
def numberOf (l : List Found) (id : Nat) : Nat := (l.findIdx? (fun f => f.id = id)).getD 0x3F

/-- The head takes its number, its routes and its peers' numbers. -/
def takeNumbers (s : State) (net : List Bytes) (l : List Found) : State :=
  let s := ((s.setF rlyBase RLY_ID_DEVNUM 0).setF rlyBase RLY_ID_HEAD 1).setF rlyBase RLY_ID_NDEV (l.length - 1)
  let s := s.setF hubWin MBX_STATUS_DEVNUM 0
  let s := (List.range 8).foldl (fun t i => t.setReg (rlyBase + 0x804 + 4 * i) (routeWord (treeRoute l 0) i)) s
  let own := net.getD 0 []
  (List.range 8).foldl (fun t p =>
    if tpPeer own p = 0xFF then t
    else (t.setF (rlyPort p) RLY_P_STATUS_PEER (numberOf l (tpPeer own p))).setF (rlyPort p) RLY_P_STATUS_PEERPORT
      (tpPeerPort own p)) s

/-- A module that is not the head takes its number, its routes and its peers' numbers from the record that the head's
discovery made of it, the first of the list; without a record nothing changes. How the record comes to it is not stated
(DESIGN CHOICE, log 72). -/
def takeRecord (s : State) (net : List Bytes) : State :=
  match net with
  | [] => s
  | r :: _ =>
    let n := leAt r 0 1 % 64
    let s := ((s.setF rlyBase RLY_ID_DEVNUM n).setF rlyBase RLY_ID_NDEV ((net.length - 1) % 64)).setF hubWin MBX_STATUS_DEVNUM n
    let s := (List.range 8).foldl (fun t i => t.setReg (rlyBase + 0x804 + 4 * i) (leAt r (64 + 4 * i) 4)) s
    (List.range 8).foldl (fun t p =>
      if tpPeer r p = 0xFF then t
      else (t.setF (rlyPort p) RLY_P_STATUS_PEER (tpPeer r p % 64)).setF (rlyPort p) RLY_P_STATUS_PEERPORT (tpPeerPort r p)) s

/-- The reports with this module's own port states in its place. -/
def withOwn (s : State) (net : List Bytes) : List Bytes :=
  let r := slice (net.getD 0 []) 0 192
  let own := (List.range 8).foldl (fun r p =>
    patch r (12 + p) (natToBytes 1 (tpPeerPort r p + 16 * s.getF (rlyPort p) RLY_P_STATUS_STATE))) r
  own :: net.drop 1

/-- A module's report as a record of its number. -/
def foundRecord (net : List Bytes) (l : List Found) (n : Nat) (f : Found) : Bytes :=
  let r := slice (net.getD f.id []) 0 192
  let r := patch r 0 ([BitVec.ofNat 8 n] ++ natToBytes 1 (if n = 0 then 3 else 1))
  let r := patch r 4 ((List.range 8).flatMap (fun p =>
    natToBytes 1 (if tpPeer r p = 0xFF then 0xFF else numberOf l (tpPeer r p))))
  patch r 64 ((List.range 8).flatMap (fun i => natToBytes 4 (routeWord (treeRoute l n) i)))

/-- A discovery by the head: the state after it, and the records by device number. -/
def discover (s : State) (net : List Bytes) : State × List Bytes :=
  let net := withOwn s net
  let l := discovered net
  let s := takeNumbers s net l
  (s, l.zipIdx.map (fun q => if q.2 = 0 then ownRecord s 0 else foundRecord net l q.2 q.1))

/-- The records by device number without a discovery: modules numbered before, as they answer now. -/
def knownRecords (s : State) (net : List Bytes) : List Bytes :=
  (List.range (s.getF rlyBase RLY_ID_NDEV + 1)).map (fun n => if n = myDev s then ownRecord s n else net.getD n [])

/-! ### Routes written (R463) -/

/-- A bad field of a written record of the modules present: its byte offset (Table 13.6). -/
def badTopology (b : Bytes) (known : List Bytes) : Option Nat :=
  (known.zipIdx.filter (fun q => !q.1.isEmpty)).findSome? (fun q =>
    let o := 64 + 192 * q.2
    let r := slice b o 192
    ((List.range 64).find? (fun d =>
      let e := tpRoute r d
      (decide (8 ≤ e) && decide (e ≤ 13)) || ((e = 14) != (d = q.2)))).map (fun d => o + 64 + d / 2))

/-- Dependences between links: link 8m + p carries a flit that then leaves the peer by another link, by the entries of the
modules up to a number. -/
def linkDeps (b : Bytes) (known : List Bytes) (upTo : Nat) : List (Nat × Nat) :=
  (List.range known.length).flatMap (fun m =>
    let k := known.getD m []
    let r := slice b (64 + 192 * m) 192
    if k.isEmpty then [] else
    (List.range 64).filterMap (fun d =>
      let p := tpRoute r d
      let q := tpPeer k p
      if 8 ≤ p ∨ q = 0xFF ∨ upTo < m ∨ upTo < q ∨ (known.getD q []).isEmpty then none
      else
        let p2 := tpRoute (slice b (64 + 192 * q) 192) d
        if 8 ≤ p2 then none else some (8 * m + p, 8 * q + p2)))

/-- Dependences whose target leads nowhere are taken away until none is left to take: what stays lies on or before a
cycle. -/
def pruneDeps : Nat → List (Nat × Nat) → List (Nat × Nat)
  | 0, l => l
  | n + 1, l => pruneDeps n (l.filter (fun e => l.any (fun f => f.1 = e.2)))

/-- The lowest module whose entries close a cycle with those of lower modules. -/
def routeCycle (b : Bytes) (known : List Bytes) : Option Nat :=
  (List.range known.length).find? (fun m => !(pruneDeps 512 (linkDeps b known m)).isEmpty)

/-- Some module's routes change. -/
def routesChange (b : Bytes) (known : List Bytes) : Bool :=
  known.zipIdx.any (fun q => !q.1.isEmpty && slice q.1 64 32 != slice b (64 + 192 * q.2 + 64) 32)

/-- This module's ROUTE, OUT and TIMED from a written record. -/
def writeTopology (s : State) (b : Bytes) : State :=
  let r := slice b (64 + 192 * myDev s) 192
  let s := (List.range 8).foldl (fun t i => t.setReg (rlyBase + 0x804 + 4 * i) (leAt r (64 + 4 * i) 4)) s
  let s := (List.range 8).foldl (fun t p =>
    let v := leAt r (96 + 8 * p) 8
    (t.setReg (rlyBase + 0xA00 + 8 * p) (bits v 0 14)).setReg (rlyBase + 0xA04 + 8 * p) (bits v 14 27)) s
  (List.range 4).foldl (fun t i => t.setReg (rlyBase + 0xA40 + 4 * i) (leAt r (160 + 4 * i) 4)) s

/-! ### Broken paths (R475) -/

/-- FIFOs and frames whose relay frame comes from a module no longer reached: the rest reads as zeros, and the frame will
be published ABORTED (R475). -/
def brokenSources (s : State) : State :=
  let gone (src : Option Nat) : Bool := src.any (fun m => !relayReach s m)
  let s := (List.range 128).foldl (fun t k =>
    let t := match fifOpenFrame t k with
      | some f => if gone f.src then fifClose (fifSpoil t k) k else t
      | none => t
    let x := t.fifo k
    if x.frames.any (fun f => gone f.src && f.fend.isNone) then
      t.setFifo k { x with
        frames := x.frames.map (fun f => if gone f.src && f.fend.isNone then { f with fend := some (2 ^ fABORTED) } else f) }
    else t) s
  let lost (f : Frame) : Bool := f.held.isNone && !f.aborted && f.fend.isNone && gone f.src
  let hit := s.frames.filter lost
  let s := { s with frames := s.frames.map (fun f => if lost f then { f with fend := some (2 ^ fABORTED) } else f) }
  hit.foldl (fun t f => tryHold t f.slot f.seq) s

/-- OUTCUT on the frames in flight whose relay output has begun toward a module that is not reached (R475). -/
def brokenOutputs (s : State) : State :=
  relayPump { s with frames := s.frames.map (fun f =>
    let x := s.plan f.plan
    if f.held.isNone && f.relayed.isSome && outEN x && !relayReach s (outDEV x) then { f with flags := f.flags ||| 2 ^ fOUTCUT }
    else f) }

/-- What a path that is gone leaves of relay frames and relay output (R475). -/
def brokenPaths (s : State) : State := brokenOutputs (brokenSources s)

end Sys2Proof.Machine
end

