-- ==== Sys2Proof/Machine/Boot.lean ====
section
/-! DEFINITION. Boot (R513 to R519): the source of the firmware, host boot, verification, the board record, memory
training, READY, and the steward's watchdog and restart (R502). VDD_CORE targets (R483). -/

namespace Sys2Proof.Machine
open Sys2Proof
open Sys2Proof.Machine.Reg

/-! ### VDD_CORE targets (R483, R506) -/

/-- The squall warning level in force, clamped to 660–740 mV. -/
def sqWarn (s : State) : Nat := max 660 (min 740 (s.getF pwrHub PWR_SQ_CFG_WARN))

/-- The over-temperature level in force, clamped to 85–105 °C. -/
def thWarn (s : State) : Nat := max 85 (min 105 (s.getF pwrHub PWR_TH_CFG_WARN))

/-- A target clamped and rounded down to a multiple of 5 mV. -/
def vsetTarget (s : State) (mv : Nat) : Nat := min 850 (max mv (max 650 (sqWarn s + 20))) / 5 * 5

/-- VSET_WRITE: the register, and the target sent over AVSBus. -/
def vsetWrite (s : State) (d mv : Nat) : State :=
  let s := s.setF (pwrHub + 4 * d) PWR_VSET_MV mv
  s.emit (.avs d (vsetTarget s (mv % 1024)))

/-! ### READY (R516, R490, R493) -/

/-- SVN_FW burned up to a count, lowest bits first. -/
def burnSvn : Nat → Nat → Nat → Nat
  | 0, _, f => f
  | n + 1, svn, f =>
    if svn ≤ fuseSVN f then f
    else match (List.range 64).find? (fun i => !bit f (2060 + i)) with
      | none => f
      | some i => burnSvn n svn (f ||| 2 ^ (2060 + i))

/-- The steward sets READY; the firmware's ADVANCE takes effect. -/
def becomeReady (s : State) : State :=
  let img := s.boot.image
  let wide := decide (s.boot.scope < 4)
  let s := ((s.setF hubWin MBX_STATUS_READY 1).setF hubWin MBX_STATUS_RESETTING 0).setF hubWin MBX_BOOT_STAGE_STAGE 7
  let s := if wide then s.setF hubWin MBX_BOOT_MS_MS (min 65535 ((now s - s.boot.t0) / 1000000)) else s
  let s := { s with boot := { s.boot with waits := false, scope := 0, kick := now s } }
  if wide ∧ bit (leAt img 0x0E 2) 0 then { s with fuses := burnSvn 64 (leAt img 0x0C 1) s.fuses } else s

/-- READY once nothing holds it back: a die held after a brown-out, or shut down for heat. -/
def readyCheck (s : State) : State :=
  if s.boot.waits && (List.range 4).all (fun d => !(s.die d).browned && !dieShut s d) then becomeReady s else s

/-! ### The firmware image (R508 to R511, R514) -/

/-- The reason a firmware image is refused, 0 if none (Table 15.4). -/
def fwReason (s : State) (img : Bytes) : Nat :=
  let n := leAt img 8 4
  sigVerify s (slice img 0 1280) (slice img 1280 n) 1 (n % 64 = 0 && decide (64 ≤ n) && decide (n ≤ 8388608))

/-- An image boots: nothing failed, or OPEN is burned and checks 1 to 4 passed (R514). -/
def fwBoots (s : State) (reason : Nat) : Bool := reason = 0 || (policyBit s 0 && decide (5 ≤ reason))

/-- The board record of an image applied (R517). -/
def boardRecord (s : State) (img : Bytes) : State :=
  let o := leAt img 0x14 4
  let r : Bytes := if o = 0 then [] else slice img (1280 + o) 64
  let f (off len dflt : Nat) : Nat := if o = 0 then dflt else leAt r off len
  let s := (s.setF pwrHub PWR_SQ_CFG_WARN (f 0x0C 2 700)).setF pwrHub PWR_TH_CFG_WARN (f 0x0E 1 105)
  let s := { s with cfgSpace := s.cfgSpace.put 0x2C (BitVec.ofNat 32 (f 0 2 0x1F2D + f 2 2 0 * 2 ^ 16)) }
  (List.range 4).foldl (fun t d => vsetWrite t d (f (4 + 2 * d) 2 750)) s

/-- The fields of measurement 1, with the slot that verified the firmware (Table 15.9). -/
def hwFields (s : State) (slot : Nat) : Nat :=
  bits s.fuses 2048 12 + fuseSVN s.fuses * 2 ^ 12 + bits s.fuses 2124 32 * 2 ^ 19 + slot * 2 ^ 51

/-- The identity record: absent, or its wrapped key and certificate chain. The identity, the chain, and the key that the security
block unwraps under WRAPKEY (R518). -/
def identity (s : State) (rec_ : Option (Bytes × Bytes)) : Nat × Bytes × Bytes :=
  match rec_ with
  | none => (1, [], [])
  | some (w, chain) =>
    match Config.unwrap (bits s.fuses 2284 256) w with
    | some key => (0, chain, key)
    | none => (2, [], [])

/-- The steward starts from an image (R516): board record, identity key; it goes on to train the memory. -/
def startSteward (s : State) (src : Nat) (img : Bytes) (reason : Nat) (rec_ : Option (Bytes × Bytes)) : State :=
  let slot := leAt img 0x0D 1 % 4
  let i := identity s rec_
  let s := { s with boot := { s.boot with
    checking := none, image := img, ident := i.1, chain := i.2.1, key := i.2.2, hw := hwFields s slot } }
  let s := (s.setF hubWin MBX_BOOT_STAGE_STAGE 5).setF hubWin MBX_BOOT_STAGE_SRC src
  let s := if reason = 0 then s else s.setF hubWin MBX_BOOT_REASON_FINAL reason
  let s := (s.setF hubWin MBX_FWVER_VERSION (leAt img 0x10 4)).setF secBase SEC_STATUS_IDENT (if i.1 = 0 then 1 else 0)
  let s := (s.setF secBase SEC_STATUS_KEYSLOT slot).setF secBase SEC_STATUS_UNVERIFIED (if reason = 0 then 0 else 1)
  boardRecord s img

/-- Host boot is entered (R515): BAR2 at the cluster memory of cluster 0.0. -/
def enterHostBoot (s : State) : State :=
  let s := ((s.setF hubWin MBX_BAR2_LO_ADDR 0).setF hubWin MBX_BAR2_HI_ADDR 0x800F).setF hubWin MBX_BAR2_CTRL_EN 1
  let s := (s.setF hubWin MBX_BAR2_CTRL_WEN 1).setF hubWin MBX_STATUS_HOSTBOOT 1
  (s.setF hubWin MBX_BOOT_STAGE_STAGE 3).setF hubWin MBX_BOOT_STAGE_SRC 2

/-- Boot stops with a reason. -/
def bootFail (s : State) (reason : Nat) : State :=
  ((s.setF hubWin MBX_STATUS_BOOTFAIL 1).setF hubWin MBX_BOOT_STAGE_STAGE 0xFF).setF hubWin MBX_BOOT_REASON_FINAL reason

/-- A directory of the flash with the right MAGIC (R513). -/
def flashDirectory (flash : Bytes) : Bool := leAt flash 0 4 = 0x52495A47

/-- The command of the reads of everything but the directory: single, dual output or quad output; 3 to 255 are taken as 0. -/
def spiMode (flash : Bytes) : Nat :=
  match leAt flash 4 1 with
  | 1 => 0x3B
  | 2 => 0x6B
  | _ => 0x03

/-- The clock of these reads in kHz: CLKMHZ of 1 to 50, other values taken as 12. -/
def spiClock (flash : Bytes) : Nat :=
  let m := leAt flash 5 1
  1000 * (if 1 ≤ m ∧ m ≤ 50 then m else 12)

/-- The ROM reads the directory: single mode at 12.5 MHz (R513). -/
def readDirectory (s : State) : State := s.emit (.spiRead 0x03 12500 0 64)

/-- A read of the flash in the mode and at the clock that the directory names. -/
def readFlash (s : State) (flash : Bytes) (addr len : Nat) : State := s.emit (.spiRead (spiMode flash) (spiClock flash) addr len)

/-- The reads of one image: its header, and its payload where the checks that need the header alone let it boot (R511). -/
def readImage (s : State) (flash : Bytes) (field r : Nat) : State :=
  let o := leAt flash field 4
  let s := readFlash s flash o 1280
  if r = 0 ∨ r = 11 ∨ (policyBit s 0 ∧ 5 ≤ r ∧ r ≠ 13) then readFlash s flash (o + 1280) (leAt flash (o + 8) 4) else s

/-- The reads of the identity record, whatever NOSPI holds (R518). -/
def readIdentity (s : State) (flash : Bytes) (rec_ : Option (Bytes × Bytes)) : State :=
  match rec_ with
  | some (w, chain) => readFlash s flash (leAt flash 0x10 4) (w.length + chain.length)
  | none => s

/-- One SPI slot: none where the directory names no image, else the image and its reason (R513). -/
def spiSlot (s : State) (flash : Bytes) (field : Nat) (readFails : Bool) : Option (Bytes × Nat) :=
  let o := if flashDirectory flash then leAt flash field 4 else 0
  if o = 0 then none
  else if readFails then some ([], 13)
  else
    let img := slice flash o (1280 + min 8388608 (leAt flash (o + 8) 4))
    some (img, fwReason s img)

/-- The identity record is found only where the directory names one. -/
def flashIdentity (flash : Bytes) (rec_ : Option (Bytes × Bytes)) : Option (Bytes × Bytes) :=
  if flashDirectory flash ∧ leAt flash 0x10 4 ≠ 0 then rec_ else none

/-- The ROM tries SLOT0 and then SLOT1 (R514): started, or both reasons recorded. -/
def trySpi (s : State) (flash : Bytes) (fail0 fail1 : Bool) (rec_ : Option (Bytes × Bytes)) : Bool × State :=
  let try1 (s : State) : Bool × State :=
    match spiSlot s flash 0x0C fail1 with
    | none => (false, s)
    | some (img, r) =>
      let s := (readImage s flash 0x0C r).setF hubWin MBX_BOOT_REASON_SLOT1 r
      if fwBoots s r && !(r = 13) then (true, startSteward s 1 img r rec_) else (false, s)
  match spiSlot s flash 0x08 fail0 with
  | none => try1 s
  | some (img, r) =>
    let s := (readImage s flash 0x08 r).setF hubWin MBX_BOOT_REASON_SLOT0 r
    if fwBoots s r && !(r = 13) then (true, startSteward s 0 img r rec_) else try1 s

/-- The ROM runs: no reset pin is low and no firmware has started since the reset. -/
def romRuns (s : State) : Bool :=
  released s && decide (1 ≤ s.boot.scope) && decide (s.boot.scope ≤ 3) && s.boot.image.isEmpty &&
    s.getF hubWin MBX_STATUS_BOOTFAIL = 0

/-- FIRMWARE_VERIFIED: the flash contents, reads of the two images that fail, and the identity record (R513 to R516). -/
def firmwareVerified (s : State) (flash : Bytes) (fail0 fail1 : Bool) (rec_ : Option (Bytes × Bytes)) : State :=
  let id := flashIdentity flash rec_
  if !romRuns s then s
  else match s.boot.checking with
  | some (_, img) =>
    let r := if img.length = 1280 + leAt img 8 4 then fwReason s img else max (sigHeader s (slice img 0 1280) 1 false) 1
    let s := s.setF hubWin MBX_BOOT_REASON_HOST r
    if fwBoots s r then
      let s := readIdentity (readDirectory s) flash id
      startSteward ((s.setF hubWin MBX_BAR2_CTRL_EN 0).setF hubWin MBX_STATUS_HOSTBOOT 0) 2 img r id
    else
      { (s.setF hubWin MBX_BAR2_CTRL_WEN 1).setF hubWin MBX_BOOT_STAGE_STAGE 3 with boot := { s.boot with checking := none } }
  | none =>
    if s.getF hubWin MBX_STATUS_HOSTBOOT = 1 then s
    else if s.boot.bootsel ∧ !policyBit s 3 then enterHostBoot s
    else
      let t := if policyBit s 4 then (false, s) else trySpi (readDirectory s) flash fail0 fail1 id
      if t.1 then readIdentity t.2 flash id
      else if !policyBit s 3 then enterHostBoot t.2
      else bootFail t.2 14

/-- HOST_BOOT_GO: WEN is cleared before any byte is read (R515). Nothing can change the image while the ROM waits for a region of
it that the sweep holds, and an image with an uncorrectable word does not verify (log 146). -/
def hostBootGo (s : State) : State :=
  if !romRuns s || s.getF hubWin MBX_STATUS_HOSTBOOT = 0 || s.boot.checking.isSome then s
  else
    let s := (s.setF hubWin MBX_BAR2_CTRL_WEN 0).setF hubWin MBX_BOOT_STAGE_STAGE 4
    let q := stewardBytes s (clusterMem 0) (s.getF hubWin MBX_HB_LEN_BYTES)
    { q.2 with met := s.met, boot := { s.boot with checking := some (2, q.1.getD []) } }

/-- MEMORY_TRAINING_DONE: the channels trained, the time each die took, the rate the payload names, and for the discovery
at the first boot after power-on reset what the modules of the chain report (R304, R305, R461, R516). -/
def memoryTrained (s : State) (trained ms rate : Nat) (net : List Bytes) : State :=
  if s.boot.image.isEmpty || (s.getF hubWin MBX_BOOT_STAGE_STAGE != 5 && s.getF hubWin MBX_BOOT_STAGE_STAGE != 6) || s.boot.waits ||
      !released s then s
  else
    let s := (List.range 4).foldl (fun t d =>
      ((t.setF (lpcBase d) LPC_CFG_RATE rate).setF (lpcBase d) LPC_STATUS_TRAINED (bits trained (16 * d) 16)).setF (lpcBase d)
        LPC_TRAIN_MS_MS (bits ms (16 * d) 16)) s
    if trained % 2 ^ 64 ≠ 2 ^ 64 - 1 then bootFail s 15
    else
      let s := if s.boot.scope ≠ 1 then s else if isHead s then (discover s net).1 else takeRecord s net
      readyCheck { s with boot := { s.boot with waits := true } }

/-- The ROM and the steward go from stage to stage (Table 15.7): the fuses are read, the flash is read where it may be, its images
are verified; a steward that has started trains the memory (log 147). -/
def bootAdvance (s : State) : State :=
  let st := s.getF hubWin MBX_BOOT_STAGE_STAGE
  let spi := !policyBit s 4 && !(s.boot.bootsel && !policyBit s 3)
  if romRuns s && s.getF hubWin MBX_STATUS_HOSTBOOT = 0 && (st = 0 || (spi && (st = 1 || st = 2))) then
    s.setF hubWin MBX_BOOT_STAGE_STAGE (if st = 2 then 4 else st + 1)
  else if st = 5 ∧ released s then s.setF hubWin MBX_BOOT_STAGE_STAGE 6 else s

/-! ### The steward's watchdog and restart (R502) -/

/-- WDOG_KICK. -/
def wdogKick (s : State) : State := { s with boot := { s.boot with kick := now s } }

/-- A kiln run makes no more passes after a steward restart: the pass in force ends, and no other follows (R502). -/
def kilnStops (x : PlanSt) : PlanSt :=
  match x.kiln with
  | some k => { x with kiln := if 16 ≤ x.cfg ∨ 16 ≤ x.target ∧ x.switch ≠ 0 then some { k with todo := k.todo.take 1 } else none }
  | none => x

/-- A stop that waits for its slot to reach segment 1 is dropped; one whose slot is STOPPING goes on (R502). -/
def stopFalls (s : State) (p : Nat) : State :=
  if planState s p = 5 then s else s.setPlan p { s.plan p with stopPend := false }

/-- A relocation that has not passed its commit point goes back to its step 4, its group dropped (Table 14.8). -/
def relocFalls (s : State) (p : Nat) : State :=
  match (s.plan p).reloc with
  | some r =>
    if r.stage = 1 ∨ r.stage = 2 then
      let s := if r.stage = 2 then dropGroup s p else s
      s.setPlan p { s.plan p with reloc := some { r with stage := 0 } }
    else s
  | none => s

/-- The steward is restarted (R502). -/
def stewardFalls (s : State) : State :=
  let s := dropChallenge (s.addF pwrHub PWR_WD_RESTARTS_COUNT 1)
  let s := { s with boot := { s.boot with down := true, expiry := some (now s), kick := now s } }
  (List.range 8).foldl (fun t p =>
    let t := abandonLoad t p
    let t := if (t.plan p).kiln.isSome then t.setPlan p (kilnStops (t.plan p)) else t
    relocFalls (stopFalls t p) p) s

/-- STEWARD_WATCHDOG_EXPIRY: LIMIT ms without a kick, or injected; a second expiry within 10 s is a device warm reset. -/
def watchdogExpiry (s : State) : State :=
  if s.getF hubWin MBX_STATUS_READY = 0 then s
  else
    let inj := injected s 0x11 0
    let limit := s.getF pwrHub PWR_WDOG_LIMIT
    if !inj.1 && (limit = 0 || decide (now s < s.boot.kick + limit * 1000000)) then s
    else
      let s := inj.2
      match s.boot.expiry with
      | some t => if now s < t + 10000000000 then deviceReset s rsWARM 6 0 else stewardFalls s
      | none => stewardFalls s

/-- Commands taken and not completed end with STEWARD_RESTART, and relocations that waited begin. The switches and closes that the
hardware has carried on are taken up where they stand (log 148). -/
def stewardBack (s : State) : State :=
  let s := { s with boot := { s.boot with down := false, kick := now s } }
  let s := s.taken.foldl (fun t _ => finish t 0 0x5004 0 []) s
  let s := (List.range 8).foldl (fun t p =>
    match (t.plan p).reloc with
    | some r => if r.stage = 0 then t.setPlan p { t.plan p with reloc := some { r with stage := 1, start := now t + 100000 } } else t
    | none => drainCheck t p) s
  (List.range 128).foldl streamCheck (startGroup s)

/-- STEWARD_RESTART_COMPLETE: from the image held in the hub; after FLR or hot reset it leads to READY (Table 14.6). -/
def stewardRestarted (s : State) : State :=
  if !s.boot.down || !released s then s
  else if s.boot.scope = 4 then readyCheck { s with boot := { s.boot with down := false, waits := true } }
  else stewardBack s

def execHostBootGo (s : State) : Host.Outcome State Fault Refusal := live s (hostBootGo s)
def execFirmwareVerified (flash : List (BitVec 8)) (fail0 fail1 : Bool) (identRec : Option (List (BitVec 8) × List (BitVec 8)))
    (s : State) : Host.Outcome State Fault Refusal := live s (firmwareVerified s flash fail0 fail1 identRec)
def execVsetWrite (d : Fin 4) (mv : BitVec 10) (s : State) : Host.Outcome State Fault Refusal := live s (vsetWrite s d mv.toNat)
def execWdogKick (s : State) : Host.Outcome State Fault Refusal := live s (wdogKick s)
def execStewardWatchdogExpiry (s : State) : Host.Outcome State Fault Refusal := live s (watchdogExpiry s)

end Sys2Proof.Machine
end

