-- ==== Sys2Proof/Machine/Lull.lean ====
section
/-! DEFINITION. The lull detector and cellar spills (R267 to R279). -/

namespace Sys2Proof.Machine
open Sys2Proof
open Sys2Proof.Machine.Reg

/-! ### Wait edges and cycles (R268, R269) -/

/-- STU_SINK of a route tag. -/
def sinkOf (s : State) (c t : Nat) : Nat := bits (s.reg (coreWin c + 0x8120 + t / 4 * 4)) (8 * (t % 4)) 8

/-- A core waits for gust beats: work that draws on them is in flight and its gust buffer holds none of its channel. -/
def waitsGust (s : State) (c : Nat) : Bool :=
  (s.core c).gust.all (fun b => b.1 != s.getF (coreWin c) STU_GUST_CHAN) && (s.core c).ops.any fromGust

/-- The route tags on which a macro-operation sends tokens: COPY over a link, HALO, sidecars sent as tokens. -/
def sendTags (s : State) (c : Nat) (o : Op) : List Nat :=
  let b := o.blk
  (if o.opc = 0x11 ∧ cpMODE b ≠ 0 then [cpRT b] else []) ++
    (if o.opc = 0x12 then (if haSNDU b = 0 then [] else [haRTUP b]) ++ (if haSNDD b = 0 then [] else [haRTDN b]) else []) ++
    (sideSags s c o.word.toNat).filterMap (fun n =>
      if usesEngines o.opc ∧ s.getF (sagBase c n) SAG_CFG_DIR = 0 then some (s.getF (sagBase c n) SAG_BASE_BASE % 32) else none)

/-- The wait edges of a core to cores of its plan (R268): the supplier of the queue it waits on, the sink of each tag on
which a token of a macro-operation in flight cannot leave, and every other subscriber of its gust channel whose gust buffer is
full. -/
def waitEdges (s : State) (p c : Nat) : List Nat :=
  let q := wIMM (fetchWord s c) % 16
  let qe := if seqState s c = 2 ∧ wOPC (fetchWord s c) = 0x18 ∧ (s.hq c q).entries.isEmpty then
      [s.getF (hqBase c q) STU_HQ_CFG_SRC] else []
  let te := (((s.core c).ops.flatMap (sendTags s c)).filter (fun t => !tagSent s c t)).map (sinkOf s c)
  let ch := s.getF (coreWin c) STU_GUST_CHAN
  let ge := if waitsGust s c then
      ((maskList (s.getF (gstBase (c / 8) ch) GST_CH_MASK_CORES)).map (fun i => 8 * (c / 8) + i)).filter (fun d =>
        d ≠ c ∧ 4 ≤ (s.core d).gust.length)
    else []
  ((qe ++ te ++ ge).filter (fun d => decide (d < 128) && bit (clHELD (s.plan p).img) d)).eraseDups

/-- The closed cycles whose lowest member is `lo` that continue a path (newest first) from its core c, within n more
cores. -/
def cyclesFrom (edges : Nat → List Nat) (lo : Nat) : Nat → List Nat → Nat → List (List Nat)
  | 0, _, _ => []
  | n + 1, path, c => (edges c).flatMap (fun d =>
      if d = lo then [(List.range 128).filter (fun x => path.contains x)]
      else if d < lo ∨ path.contains d then [] else cyclesFrom edges lo n (d :: path) d)

/-- The closed cycles of old cores of a plan, each by its members in ascending order, in ascending order of their lowest
core (R269). Cycles of one lowest core are taken in the order in which their edges are found (log 32, DESIGN CHOICE). -/
def cycles (s : State) (p : Nat) : List (List Nat) :=
  let win := s.getF (lulBase p) LUL_CTRL_WINDOW
  let old := (heldCores s p).filter (fun c => !halted s c && decide (win ≤ (s.core c).age))
  let edges := fun c => if old.contains c then (waitEdges s p c).filter (fun d => old.contains d) else []
  old.flatMap (fun c => cyclesFrom edges c 128 [c] c)

/-! ### What a lull leads to (R271 to R273, R278) -/

/-- The buffered bytes of an eligible queue (R272). -/
def spillBytes (s : State) (c q : Nat) : Option Nat :=
  let b := hqBase c q
  let h := s.hq c q
  if s.getF b STU_HQ_CFG_SPILL = 1 ∧ !h.spilling ∧ !h.entries.isEmpty ∧ 2 ≤ s.getF b STU_HQ_CEL_HI_CAP then
    some (h.entries.length * (s.getF b STU_HQ_BUF_SIZE + 1) * 64) else none

/-- The victim queue of a cycle: most bytes, then lowest core, then lowest queue. -/
def victim (s : State) (l : List Nat) : Option (Nat × Nat) :=
  ((l.flatMap (fun c => (List.range 16).filterMap (fun q => (spillBytes s c q).map (fun n => (n, c, q))))).foldl
    (fun (o : Option (Nat × Nat × Nat)) x => match o with
      | none => some x
      | some y => if y.1 < x.1 then some x else some y) none).map (fun x => x.2)

/-- LUL_STATUS and LUL_CYCLE after a declaration. -/
def lullStatus (s : State) (p : Nat) (l : List Nat) (last c q : Nat) : State :=
  let b := lulBase p
  let m := l.foldl (fun m d => m ||| 2 ^ d) 0
  let s := ((s.setF b LUL_STATUS_LAST last).setF b LUL_STATUS_CORE c).setF b LUL_STATUS_QUEUE q
  let s := (List.range 4).foldl (fun t n => t.setReg (b + 8 + 4 * n) (bits m (32 * n) 32)) (s.setF b LUL_STATUS_MEMBERS l.length)
  let s := (s.addF b LUL_LULLS_COUNT 1).maxF b LUL_MAXAGE_US (l.foldl (fun a d => max a (s.core d).age) 0)
  logEvent s 0x8002 0xFF p (s.reg (b + 4)) l.length 0 0

/-- A declared cycle handled. -/
def declareLull (s : State) (p : Nat) (l : List Nat) : State :=
  match l with
  | [] => s
  | [c] => coreFault (lullStatus s p l 2 c 0) c 0x13 0 none
  | c :: _ =>
    match victim s l with
    | none =>
      let s := lullStatus s p l 3 c 0
      planFault s p 6 0xFF (s.reg (lulBase p + 4))
    | some (v, q) =>
      let s := lullStatus s p l 1 v q
      let h := s.hq v q
      let k := min h.entries.length (s.getF (hqBase v q) STU_HQ_CEL_HI_CAP - 1)
      let s := s.setHq v q { h with spilling := true }
      let x := s.cluster (v / 8)
      s.setCluster (v / 8) { x with lull := x.lull ++ [(v, q, none, k)] }

/-- The cycles that armed injection points declare at this tick (Table 12.9, 0x07 and 0x08). -/
def injectedCycles (s : State) (p : Nat) : List (List Nat) × State :=
  let held (c : Nat) : Bool := decide (c < 128) && bit (clHELD (s.plan p).img) c
  let t7 := s.getF (injBase 7) TXU_INJ_TARGET
  let a := if held t7 then injected s 7 t7 else (false, s)
  let t8 := a.2.getF (injBase 8) TXU_INJ_TARGET
  let b := if held (t8 / 16) then injected a.2 8 t8 else (false, a.2)
  ((if a.1 then [[t7]] else []) ++
    (if b.1 then
      let src := b.2.getF (hqBase (t8 / 16) (t8 % 16)) STU_HQ_CFG_SRC
      [(List.range 128).filter (fun d => d = t8 / 16 || d = src)]
    else []), b.2)

/-- LULL_TICK of plan slot p: its cores grow older by 1 µs, and the detector looks for cycles
(R267, R269) unless a squall or an over-temperature notice suspends it (R486). -/
def lullTick (s : State) (p : Nat) : State :=
  let s := (heldCores s p).foldl (fun t c => t.setCore c { t.core c with age := (t.core c).age + 1 }) s
  let st := planState s p
  if s.getF (lulBase p) LUL_CTRL_EN = 0 ∨ st < 3 ∨ 5 < st ∨ heldByDie s p then s
  else
    let i := injectedCycles s p
    let all := i.1 ++ cycles i.2 p
    let l := (List.range 128).flatMap (fun c => all.filter (fun y => y.head? = some c))
    l.foldl (fun t y => if planState t p = 6 then t else declareLull t p y) i.2

/-! ### Cellars (R273 to R278) -/

/-- Device address of record i of a queue's ring. -/
def celAddr (s : State) (c q i : Nat) : Nat :=
  let b := hqBase c q
  s.getF b STU_HQ_CEL_LO_BASE + s.getF b STU_HQ_CEL_HI_BASE * 2 ^ 32 +
    i % max 1 (s.getF b STU_HQ_CEL_HI_CAP) * celLen s c q

/-- An access of the lull channel for core c, repeated while it meets a bus error: none with the channel halted (R289, R334,
R438). A write lands also where its merge meets an uncorrectable word (R286). -/
def lullAccess (s : State) (c a : Nat) (write : Bool) (f : State → MemRes × State) : Option Bytes × State :=
  let one (t : State) : MemRes × State := match f t with
    | (.ok b, u) => (.ok b, u)
    | (.ue l, u) => if write then (.ok [], u) else (.ue l, logUncorrectable u l 3 0xFF)
    | (.bus, u) => (.bus, logBusError u a)
  match lullTry (c / 8) (fun r => match r with | .ok _ => false | _ => true) one (lullRETRY s (c / 8)) (mvrIssued s (c / 8) 15) with
  | (.ok b, t) => (some b, t)
  | (.ue _, t) => (none, lullError t c 2 3)
  | (.bus, t) => (none, lullError t c 2 1)

/-- A transfer outside the queue's buffer area: BOUNDS in the core, and the channel halts (R276, R335). -/
def lullBounds (s : State) (c q h : Nat) : State :=
  lullError (coreFault s c 0x01 0 (some (unsigned 23 (bufferBase s c q h)))) c 4 0

/-- The address of a buffer, if it lies in the queue's buffer area and so in scratch (R246, R276). -/
def bufAddr (s : State) (c q h : Nat) : Option Nat :=
  let a := bufferBase s c q h
  if handleInRange s c q h ∧ 0 ≤ a ∧ a + (s.getF (hqBase c q) STU_HQ_BUF_SIZE + 1) * 64 ≤ 0x600000 then
    some (scratchWin c + a.toNat)
  else none

/-- SPILLED set in the result of the frame of an entry, until its result is published (R278). -/
def markSpilled (s : State) (e : Nat) : State :=
  if !eFRAME e then s else
  match frameOf s (eSLOT e) (eSEQ e) with
  | some f => if f.aborted then s else setFrame s { f with flags := f.flags ||| 2 ^ fSPILLED }
  | none => s

/-- The data of a handle's buffer: none with the channel halted. -/
def bufRead (s : State) (c q h len : Nat) : Option Bytes × State :=
  match bufAddr s c q h with
  | none => (none, lullBounds s c q h)
  | some a => lullAccess s c a false (fun t => memRead t a len)

/-- An entry and its buffer written as the last record of the ring: false on an error. -/
def celWrite (s : State) (c q e : Nat) : Bool × State :=
  let h := s.hq c q
  let len := if eEOF e then 0 else (s.getF (hqBase c q) STU_HQ_BUF_SIZE + 1) * 64
  let e := setBits e 25 1 1
  let hdr := natToBytes 64 (e + len * 2 ^ 64)
  match (if len = 0 then (some [], s) else bufRead s c q (eHANDLE e) len) with
  | (none, t) => (false, t)
  | (some b, t) =>
    let a := celAddr t c q (h.celHead + h.celCount)
    match lullAccess t c a true (fun u => memWrite u a (hdr ++ b)) with
    | (none, u) => (false, u)
    | (some _, u) =>
      let t := u.setHq c q { u.hq c q with celCount := h.celCount + 1 }
      let t := (t.addF (hqBase c q) STU_HQ_SPILLED_COUNT 1)
      let t := match holderOf t c with | some p => t.addF (lulBase p) LUL_ENTRIES_COUNT 1 | none => t
      (true, markSpilled t e)

/-- Memory read for the lull channel: none with the channel halted. -/
def lullRead (s : State) (c a len : Nat) : Option Bytes × State := lullAccess s c a false (fun t => memRead t a len)

/-- The head record of the ring read: its entry and buffer data. -/
def celRead (s : State) (c q : Nat) : Option (Nat × Bytes) × State :=
  let a := celAddr s c q (s.hq c q).celHead
  match lullRead s c a 64 with
  | (none, t) => (none, t)
  | (some b, t) =>
    let len := leAt b 8 4
    if len = 0 then (some (leAt b 0 8, []), t)
    else match lullRead t c (a + 64) (min len ((s.getF (hqBase c q) STU_HQ_BUF_SIZE + 1) * 64)) with
      | (none, u) => (none, u)
      | (some d, u) => (some (leAt b 0 8, d), u)

/-- The head record leaves the ring. -/
def celPop (s : State) (c q : Nat) : State :=
  let h := s.hq c q
  s.setHq c q { h with celHead := (h.celHead + 1) % max 1 (s.getF (hqBase c q) STU_HQ_CEL_HI_CAP), celCount := h.celCount - 1 }

/-- Markers at the head are pushed without a buffer (R274). -/
def celMarkers (s : State) (c q : Nat) : Nat → State
  | 0 => s
  | n + 1 =>
    if (s.hq c q).celCount = 0 then s else
    match celRead s c q with
    | (none, t) => t
    | (some (e, _), t) => if eEOF e then celMarkers (pushEntry (celPop t c q) c q (BitVec.ofNat 64 e) q) c q n else t

/-- The queue leaves spill mode once its ring is empty and no transfer of it is outstanding (R275). -/
def spillOver (s : State) (c q : Nat) : State :=
  let h := s.hq c q
  if h.celCount = 0 ∧ !(s.cluster (c / 8)).lull.any (fun l => l.1 = c && l.2.1 = q) then
    s.setHq c q { h with spilling := false } else s

/-- The head entry of the ring read into a buffer and pushed with its handle; with an empty ring the handle goes back as a
credit. -/
def celRefill (s : State) (c q hd : Nat) : State :=
  if (s.hq c q).celCount = 0 then originate s c 1 (s.getF (hqBase c q) STU_HQ_CFG_CRT) hd
  else match celRead s c q with
    | (none, t) => t
    | (some (e, d), t) =>
      match bufAddr t c q hd with
      | none => lullBounds t c q hd
      | some a =>
        let t := pushEntry (celPop (sramWrite t a d) c q) c q (BitVec.ofNat 64 (setBits e 0 16 hd)) q
        celMarkers t c q (t.hq c q).celCount

/-- The work at the head of a cluster's lull channel, if it is of a kind. -/
def lullHead (s : State) (cl : Nat) : Option (Nat × Nat × Option (BitVec 64) × Nat) := (s.cluster cl).lull.head?

def lullTake (s : State) (cl : Nat) : State :=
  s.setCluster cl { s.cluster cl with lull := (s.cluster cl).lull.drop 1, lullDone := 0 }

/-- The bursts of the work in hand are done (R276). -/
def lullMoved (s : State) (cl : Nat) : Bool := decide (lullBursts s cl ≤ (s.cluster cl).lullDone)

/-- SPILL_COMPLETE (R273): the newest entries, oldest of them first, then their handles as credits. -/
def spillComplete (s : State) (cl : Nat) : State :=
  match lullHead s cl with
  | some (c, q, none, k) =>
    if !lullMoved s cl then s else
    let h := s.hq c q
    let keep := h.entries.length - k
    let out := h.entries.drop keep
    let r := out.foldl (fun (st : Bool × State) e => if st.1 then celWrite st.2 c q e.toNat else st) (true, s)
    if !r.1 then lullTake r.2 cl else
    let s := r.2.setHq c q { r.2.hq c q with entries := h.entries.take keep }
    let crt := s.getF (hqBase c q) STU_HQ_CFG_CRT
    let s := out.foldl (fun t e => if eEOF e.toNat then t else originate t c 1 crt (eHANDLE e.toNat)) s
    let s := lullTake s cl
    spillOver (celMarkers s c q (s.hq c q).celCount) c q
  | _ => s

/-- ROTATION_COMPLETE (R274): a diverted push goes to the tail, and the head comes back into the same buffer. -/
def rotationComplete (s : State) (cl : Nat) : State :=
  match lullHead s cl with
  | some (c, q, some e, 0) =>
    if !lullMoved s cl then s else
    match celWrite s c q e.toNat with
    | (false, t) => lullTake t cl
    | (true, t) =>
      let t := if eEOF e.toNat then celMarkers t c q (t.hq c q).celCount else celRefill t c q (eHANDLE e.toNat)
      spillOver (lullTake t cl) c q
  | _ => s

/-- REFILL_COMPLETE (R274): the head is read into a released buffer. -/
def refillComplete (s : State) (cl : Nat) : State :=
  match lullHead s cl with
  | some (c, q, some hd, 1) =>
    if !lullMoved s cl then s else
    spillOver (lullTake (celRefill s c q (eHANDLE hd.toNat)) cl) c q
  | _ => s

def execLullTick (p : Fin 8) (s : State) : Host.Outcome State Fault Refusal := live s (lullTick s p)
def execSpillComplete (cl : Fin 16) (s : State) : Host.Outcome State Fault Refusal := live s (awaited s (spillComplete s cl))
def execRotationComplete (cl : Fin 16) (s : State) : Host.Outcome State Fault Refusal := live s (awaited s (rotationComplete s cl))
def execRefillComplete (cl : Fin 16) (s : State) : Host.Outcome State Fault Refusal := live s (awaited s (refillComplete s cl))

end Sys2Proof.Machine
end

