-- ==== Sys2Proof/Machine/Power.lean ====
section
/-! DEFINITION. Supply and heat (R482 to R500, R504, R562): squalls, brown-outs, over-temperature, shutdown for heat, the
power states. -/

namespace Sys2Proof.Machine
open Sys2Proof
open Sys2Proof.Machine.Reg

/-! ### Plan slots on a die -/

/-- A slot holds a core, or has a transit record on a core, of a die (R486). -/
def onDie (s : State) (p d : Nat) : Bool :=
  let b := (s.plan p).img
  bits (clHELD b) (32 * d) 32 != 0 || (clTransits b).any (fun r => r.1 / 32 = d)

/-- Occupied slots with a core or a transit record on a die. -/
def slotsOn (s : State) (d : Nat) : List Nat := (occupied s).filter (fun p => onDie s p d)

/-- LATE-RISK on the frames of a slot whose result has not reached the gate (R486). -/
def riskFrames (s : State) (p : Nat) : State :=
  { s with frames := s.frames.map (fun f =>
    if f.plan = p ∧ f.held.isNone ∧ !f.aborted then { f with flags := f.flags ||| 2 ^ fLRISK } else f) }

/-- Lull ages and stage watchdogs of a slot count from zero again (R487). -/
def restartAges (s : State) (p : Nat) : State :=
  (heldCores s p).foldl (fun t c => t.setCore c { t.core c with age := 0, wdog := 0 }) s

/-! ### The squall (R486 to R489) -/

/-- A squall of a die begins. -/
def squallBegins (s : State) (d : Nat) : State :=
  let b := pwrDie d
  let s := (s.setDie d { s.die d with sq := some (now s, 0x3FF, 0) }).setF b PWR_STATUS_SQUALL 1
  let s := s.addF b PWR_SQ_CNT_COUNT 1
  (slotsOn s d).foldl (fun t p =>
    riskFrames (t.setPlan p { t.plan p with squalls := (t.plan p).squalls ++ [d] }) p) s

/-- SQUALL_BEGIN: the warning comparator asserts; a comparator without VDD_CORE is ignored (R486, R504). -/
def squallBegin (s : State) (d : Nat) : State :=
  if (s.die d).sq.isSome || !diePowered s d then s else squallBegins s d

/-- A squall of a die ends (R487). -/
def squallEnds (s : State) (d : Nat) : State :=
  match (s.die d).sq with
  | none => s
  | some (t0, lo, _) =>
    let us := ceilDiv (now s - t0) 1000
    let b := pwrDie d
    let s := ((s.setDie d { s.die d with sq := none }).setF b PWR_STATUS_SQUALL 0).addF b PWR_SQ_TIME_US us
    let s := (List.range 8).foldl (fun t p =>
      if (t.plan p).squalls.contains d then
        restartAges (t.setPlan p { t.plan p with squalls := (t.plan p).squalls.filter (fun x => x ≠ d) }) p
      else t) s
    logEvent s 0x8008 0xFF 0xFF lo us 0 0

/-- SQUALL_END: 50 µs from the first to the last of readings above WARN + 10 mV without a break, one each µs. -/
def squallEnd (s : State) (d : Nat) : State :=
  match (s.die d).sq with
  | some (_, _, good) => if 51 ≤ good then squallEnds s d else s
  | none => s

/-- Injection point 0x10 at a sample of a die: whether the dip of COUNT µs covers it. The count stands while the dip lasts; as it
ends the point disarms, and one occurrence is counted (R450). -/
def dipSample (s : State) (d : Nat) : Bool × State :=
  let b := injBase 0x10
  let x := s.die d
  let n := if !diePowered s d || s.getF b TXU_INJ_TARGET != d || s.getF b TXU_INJ_COUNT = 0 then 0
    else if x.dip = 0 then s.getF b TXU_INJ_COUNT else x.dip
  let s := s.setDie d { x with dip := n - 1 }
  (n != 0, if n = 1 then (s.setF b TXU_INJ_COUNT 0).addF b TXU_INJ_FIRED 1 else s)

/-- VDD_MONITOR_SAMPLE: a reading each µs, or WARN − 1 mV under injection point 0x10 (R485, R491). -/
def vddSample (s : State) (d mv : Nat) : State :=
  let inj := dipSample s d
  let s := inj.2
  let v := if inj.1 then sqWarn s - 1 else mv
  let b := pwrDie d
  let s := s.setF b PWR_VMON_MV v
  let s := if v < s.getF b PWR_VMIN_MV then s.setF b PWR_VMIN_MV v else s
  let s := if inj.1 then squallBegin s d else s
  let x := s.die d
  let x := match x.sq with
    | some (t0, lo, good) => { x with sq := some (t0, min lo v, if sqWarn s + 10 < v then good + 1 else 0) }
    | none => x
  let x := if x.browned then { x with brGood := if 710 < v then x.brGood + 1 else 0 }
    else if 600 < v then { x with low := false } else x
  s.setDie d x

/-! ### Brown-out (R490) -/

/-- Dies held in reset after a brown-out, their SRAM lost (R490, Table 14.7). -/
def holdDies (s : State) (dies : List Nat) : State :=
  dies.foldl (fun t e => (loseDie t e).setDie e { t.die e with browned := true, brGood := 0, low := true }) s

/-- BROWN_OUT: the reset comparator of a die asserts; `below` are the dies that read at or below 0.600 V. One fall counts
once; a reset at least as wide as a warm reset absorbs it, and holds that die too (R504; log 54). -/
def brownOut (s : State) (d below : Nat) : State :=
  if !diePowered s d || (s.die d).low then s
  else
    if s.hubHot then s.setDie d { s.die d with low := true }
    else if s.boot.porLow || (decide (1 ≤ s.boot.scope) && decide (s.boot.scope ≤ 3)) then holdDies s [d]
    else holdDies (deviceReset (s.setDie d { s.die d with low := true }) rsWARM 5 d) (maskBits 4 (below ||| 2 ^ d))

/-- DIE_BROWNOUT_RECOVERY: 50 µs of good readings of a die held in reset. -/
def brownoutRecovery (s : State) (d : Nat) : State :=
  let x := s.die d
  if x.browned ∧ 51 ≤ x.brGood then readyCheck (s.setDie d { x with browned := false, brGood := 0, low := false }) else s

/-! ### DIE-OFF and heat (R492 to R494, R499) -/

/-- A die loses VDD_CORE: its squall ends, its channels are in self-refresh, its SRAM is lost. -/
def dieDown (s : State) (d : Nat) : State :=
  let s := squallEnds s d
  let s := loseDie (resetDie (srefDie s d true) d) d
  (s.setF (pwrDie d) PWR_STATUS_OFF 1).emit (.vddCore d false)

/-- A die is shut down for heat (R493). -/
def heatDown (s : State) (d : Nat) : State :=
  if dieShut s d then s
  else
    let s := (slotsOn s d).foldl (fun t p => planFault t p 10 0xFF d) s
    let s := if dieOff s d then s else dieDown s d
    thermPin (s.setF (pwrDie d) PWR_STATUS_SHUTDOWN 1)

/-- An over-temperature notice ends (R492). -/
def overtempEnds (s : State) (d : Nat) : State :=
  match (s.die d).ot with
  | none => s
  | some (t0, peak, _) =>
    let s := (s.setDie d { s.die d with ot := none }).setF (pwrDie d) PWR_STATUS_OVERTEMP 0
    let s := (List.range 8).foldl (fun t p =>
      if (t.plan p).overs.contains d then
        restartAges (t.setPlan p { t.plan p with overs := (t.plan p).overs.filter (fun x => x ≠ d) }) p
      else t) s
    logEvent s 0x800D 0xFF 0xFF (unsigned 32 peak) (ceilDiv (now s - t0) 1000) 0 0

/-- OVERTEMP_END: 1 ms from the first to the last of readings below WARN − 3 °C, one each 100 µs. -/
def overtempEnd (s : State) (d : Nat) : State :=
  match (s.die d).ot with
  | some (_, _, n) => if 11 ≤ n then overtempEnds s d else s
  | none => s

/-- Readings of eight sensors in 1/16 °C from a word of 128 bits. -/
def readings (n w : Nat) : List Int := (List.range n).map (fun i => signed 16 (bits w (16 * i) 16))

/-- The hottest reading of a list, and its lowest sensor. -/
def hottest (l : List Int) : Int × Nat :=
  let m := l.foldl max (l.headD 0)
  (m, (l.findIdx? (fun x => x = m)).getD 0)

/-- The notice of a die begins, runs or cools (R492). -/
def overtempSample (s : State) (d : Nat) (hot : Int) : State :=
  let x := s.die d
  match x.ot with
  | some (t0, peak, n) => s.setDie d { x with ot := some (t0, max peak hot, if hot < 16 * ((thWarn s : Int) - 3) then n + 1 else 0) }
  | none =>
    if hot < 16 * (thWarn s : Int) then s
    else
      let b := pwrDie d
      let s := ((s.setDie d { x with ot := some (now s, hot, 0) }).setF b PWR_STATUS_OVERTEMP 1).addF b PWR_OT_CNT_COUNT 1
      (slotsOn s d).foldl (fun t p => riskFrames (t.setPlan p { t.plan p with overs := (t.plan p).overs ++ [d] }) p) s

/-- TEMP_SAMPLE of a compute die. -/
def dieTemps (s : State) (d w : Nat) : State :=
  let l := readings 8 w
  let h := hottest l
  let b := pwrDie d
  let s := ((s.setDie d { s.die d with temps := l }).setF b PWR_TEMP_HOT (unsigned 16 h.1)).setF b PWR_TEMP_SENSOR h.2
  let s := if signed 16 (s.getF b PWR_TMAX_PEAK) < h.1 then s.setF b PWR_TMAX_PEAK (unsigned 16 h.1) else s
  let s := overtempSample s d h.1
  if 1840 ≤ h.1 then heatDown s d else s

/-- TEMP_SAMPLE of the hub: from 115 °C the endpoint is in reset and everything is held until a power-on reset (R494). -/
def hubTempSample (s : State) (w : Nat) : State :=
  let l := readings 2 w
  let s := { s with hubTemps := l }
  if (hottest l).1 < 1840 then s
  else
    let s := (List.range 4).foldl heatDown s
    let s := s.setF hubWin MBX_STATUS_READY 0
    thermPin { s with hubHot := true, boot := { s.boot with cfgReady := false } }

/-! ### Regulators (R482, R546) -/

/-- Fault bits of a STATUS_WORD: all but BUSY, OFF and POWER_GOOD# (PMBus). PRESUMED. -/
def statusFault (w : Nat) : Bool := w &&& 0xF73F != 0

/-- A regulator answers a STATUS_WORD poll: a fault bit is logged. -/
def pmbusAnswer (s : State) (addr w : Nat) : State :=
  let s := s.emit (.pmbusRead addr 0x79)
  if statusFault w then logEvent s 0x800F 0xFF 0xFF addr w 0 0 else s

/-- The poll of a regulator each 10 ms: READ_VOUT, READ_IOUT and READ_TEMPERATURE_1, whose answers no register shows, and
STATUS_WORD (R482; the command codes are those of PMBus: PRESUMED, log 149). -/
def pmbusPoll (s : State) (addr w : Nat) : State :=
  pmbusAnswer ([0x8B, 0x8C, 0x8D].foldl (fun t c => t.emit (.pmbusRead addr c)) s) addr w

/-! ### Power states (R496 to R500, R562) -/

/-- The scratch group of a core is on its way into retention, or still to go. -/
def entering (s : State) (c : Nat) : Bool :=
  let b := bnkBase (c / 32) (c % 32)
  diePowered s (c / 32) && (s.getF b BNK_STATE_STATE = 1 || (s.getF b BNK_STATE_STATE = 0 && s.getF b BNK_CTRL_RET_REQ = 1))

/-- HOLD commands whose cores have all reached retention complete (R562). -/
def holdCheck (s : State) : State :=
  finishAll s (fun t => tkOPC t = 0x0B && tkArg t 8 1 = 1 && (maskBits 128 (tkArg t 0x10 16)).all (fun c => !entering s c))
    (fun _ => (0, 0, []))

/-- Some bank group of the device has not woken. -/
def groupsAsleep (s : State) : Bool :=
  (List.range 4).any (fun d => diePowered s d && (List.range 36).any (fun g => s.getF (bnkBase d g) BNK_STATE_STATE = 3 ||
    maWaits s d g 3))

/-- POWER_STATE 0 completes once everything it found is left, its exit time has passed and no die is shut down for heat:
v0 is the time, v1 is 1 once the dies are powered (R562). -/
def activeCheck (s : State) : State :=
  if groupsAsleep s || (List.range 4).any (dieShut s) then s
  else finishAll s (fun t => tkOPC t = 0x0B && tkArg t 8 1 = 0 && t.v1 = 1 && decide (t.v0 ≤ now s)) (fun _ => (0, 0, []))

/-- The live configuration of a plan written again from its kept copies, with the same epoch (R500). -/
def rewritePlan (s : State) (p : Nat) : State :=
  let x := s.plan p
  let s := setTransits s p x.img
  let r := writeList s (configList x x.cfg)
  let s := x.moved.foldl (fun t m => moveSeeds t x x.cfg m.1) (sweepSettings (seedEngines r.1 x.img) p x.img)
  let s := (liveCores s p).foldl (fun t k =>
    (List.range 16).foldl (fun t q => resetQueue t k q) (t.setF (coreWin k) SEQ_EPOCH_EPOCH x.epoch)) s
  r.2.foldl (fun t q => armChannel t q.1 q.2) s

/-- Every bank group of a die shown in retention, or awake. -/
def dieRetained (s : State) (d : Nat) (on : Bool) : State :=
  (List.range 36).foldl (fun t g => t.setF (bnkBase d g) BNK_STATE_STATE (if on then 2 else 0)) s

/-- STANDBY is entered: no die has VDD_CORE, all SRAM is retained, all LPDDR4X is in self-refresh. -/
def standbyIn (s : State) : State :=
  let s := (List.range 4).foldl (fun t d =>
    if dieOff t d then t
    else (dieRetained (resetDie (srefDie (squallEnds t d) d true) d) d true).emit (.vddCore d false)) s
  s.setF pwrHub PWR_STATE_STANDBY 1

/-- STANDBY is left (R500). -/
def standbyOut (s : State) : State :=
  let s := s.setF pwrHub PWR_STATE_STANDBY 0
  let s := (List.range 4).foldl (fun t d => if dieOff t d then t else (srefDie (dieRetained t d false) d false).emit (.vddCore d true)) s
  (occupied s).foldl (fun t p => if planState t p = 2 then rewritePlan t p else t) s

/-- Bank groups in HOLD ask to wake. -/
def holdOut (s : State) : State :=
  let s := (List.range 4).foldl (fun t i => t.setReg (pwrHub + 0x1C + 4 * i) 0) s
  (List.range 4).foldl (fun t d => (List.range 36).foldl (fun t g => if dieOff t d then t else wakeRequest t d g) t) s

/-- The die states a POWER_STATE 0 leaves are left: dies powered, STANDBY over. -/
def powerOn (s : State) : State :=
  let s := (List.range 4).foldl (fun t d => if dieOff t d && !dieShut t d then dieReturn t d else t) s
  if s.getF pwrHub PWR_STATE_STANDBY = 1 then standbyOut s else s

/-- Some core is in HOLD. -/
def anyHold (s : State) : Bool := (List.range 4).any (fun i => s.reg (pwrHub + 0x1C + 4 * i) ≠ 0)

/-- POWER_STATE 0 of the command at place i (R562). -/
def powerActive (s : State) (i : Nat) : State :=
  let off := (List.range 4).any (dieOff s)
  let stby := s.getF pwrHub PWR_STATE_STANDBY = 1
  if !off && !stby && !anyHold s then finish s i 0 0 []
  else
    let ns := if stby then 10000000 else if off then 5000000 else 20000
    let s := startTaken s i (now s + ns) (if off || stby then 0 else 1)
    activeCheck (if stby then s else holdOut s)

/-- POWER_STATE_EXIT_DONE: the exit time of a POWER_STATE 0 has passed, and the dies it leaves off are powered. A hub shut down
for heat and a steward in its restart leave them as they are (R494, R502). -/
def powerExitDone (s : State) : State :=
  if s.hubHot || s.boot.down then s
  else match s.taken.findIdx? (fun t => t.started && tkOPC t = 0x0B && tkArg t 8 1 = 0 && t.v1 = 0 && decide (t.v0 ≤ now s)) with
  | none => activeCheck s
  | some i =>
    match s.taken[i]? with
    | none => s
    | some t => activeCheck (holdOut (powerOn (startTaken s i t.v0 1)))

/-- DIE_HEAT_RECOVERY: every sensor below 95 °C, and a POWER_STATE 0 or a reset has asked for the die (R493). -/
def heatRecovery (s : State) (d : Nat) : State :=
  let asked := s.getF hubWin MBX_STATUS_READY = 0 || !s.boot.down && s.taken.any (fun t => t.started && tkOPC t = 0x0B && tkArg t 8 1 = 0)
  if !dieShut s d || s.hubHot || !asked || !(s.die d).temps.all (fun t => decide (t < 1520)) then s
  else activeCheck (readyCheck (dieReturn s d))

/-- What keeps a die from DIE-OFF: a plan holds a core, a cluster-memory range, a region or a transit record on it, or the
image of a load under way lies in its LPDDR4X (R497). -/
def dieHeld (s : State) (d : Nat) : Bool :=
  (occupied s).any (fun p =>
    let b := (s.plan p).img
    onDie s p d || (clRanges b).any (fun r => r.1 / 4 = d) || (imRegions b).any (fun r => r.die = d)) ||
    s.taken.any (fun t => t.started && tkOPC t = 2 && tkArg t 9 1 = 1 && tkArg t 0x10 8 / 2 ^ 36 = d)

/-- POWER_STATE 1 of the command at place i: the cores of the mask, and the memories of their clusters (R498). -/
def powerHold (s : State) (i mask : Nat) : State :=
  let cores := maskBits 128 mask
  match cores.find? (fun c => (holderOf s c).isSome) with
  | some c => finish s i 0x2004 c []
  | none =>
    let s := startTaken s i 0 0
    let s := cores.foldl (fun t c => retentionRequest (setHold t (c / 32) (c % 32) true) (c / 32) (c % 32)) s
    holdCheck (idleMemories s)

/-- POWER_STATE 2: dies of the mask. -/
def powerOff (s : State) (i mask : Nat) : State :=
  if 16 ≤ mask then finish s i 0x1002 9 []
  else match (maskBits 4 mask).find? (dieHeld s) with
  | some d => finish s i 0x2004 (0x100 + d) []
  | none => finish ((maskBits 4 mask).foldl (fun t d => if dieOff t d then t else dieDown t d) s) i 0 0 []

/-- POWER_STATE 3. -/
def powerStandby (s : State) (i : Nat) : State :=
  match (List.range 8).find? (fun p => 3 ≤ planState s p ∧ planState s p ≤ 5) with
  | some p => finish s i 0x2001 (planState s p) []
  | none => finish (if s.getF pwrHub PWR_STATE_STANDBY = 1 then s else standbyIn s) i 0 0 []

def execWakeRequest (d : Fin 4) (g : Fin 36) (s : State) : Host.Outcome State Fault Refusal :=
  live s (if diePowered s d then wakeRequest s d g else s)
def execRetentionEntryDone (d : Fin 4) (g : Fin 36) (s : State) : Host.Outcome State Fault Refusal :=
  live s (holdCheck (retentionEntryDone s d g))
def execSquallBegin (d : Fin 4) (s : State) : Host.Outcome State Fault Refusal := live s (squallBegin s d)
def execVddMonitorSample (d : Fin 4) (mv : BitVec 10) (s : State) : Host.Outcome State Fault Refusal :=
  live s (vddSample s d mv.toNat)
def execSquallEnd (d : Fin 4) (s : State) : Host.Outcome State Fault Refusal := live s (squallEnd s d)
def execBrownOut (d : Fin 4) (below : BitVec 4) (s : State) : Host.Outcome State Fault Refusal := live s (brownOut s d below.toNat)
def execTempSample (d : Fin 5) (w : BitVec 128) (s : State) : Host.Outcome State Fault Refusal :=
  live s (if d.val < 4 then dieTemps s d w.toNat else hubTempSample s w.toNat)
def execOvertempEnd (d : Fin 4) (s : State) : Host.Outcome State Fault Refusal := live s (overtempEnd s d)
def execPmbusPoll (addr : BitVec 7) (status : BitVec 16) (s : State) : Host.Outcome State Fault Refusal :=
  live s (pmbusPoll s addr.toNat status.toNat)
/-- PMB_ALERT_N asserted: every regulator is polled at once; each answers its STATUS_WORD (R546). -/
def execPmbAlert (answers : List (BitVec 7 × BitVec 16)) (s : State) : Host.Outcome State Fault Refusal :=
  live s (answers.foldl (fun t a => pmbusAnswer t a.1.toNat a.2.toNat) s)
end Sys2Proof.Machine
end

