-- ==== Sys2Proof/Machine/Attest.lean ====
section
/-! DEFINITION. Measurements (R520, R522) and quotes (R521). -/

namespace Sys2Proof.Machine
open Sys2Proof
open Sys2Proof.Machine.Reg

/-- The 64 bytes of a 512-bit digest. -/
def digestBytes (d : BitVec 512) : Bytes := natToBytes 64 d.toNat

/-- A measurement by its index of Table 15.9. A plan measurement is zero while its slot holds no plan. -/
def measurement (s : State) (i : Nat) : Bytes :=
  if i = 0 then digestBytes (Config.romDigest s.b0)
  else if i = 1 then digestBytes (Config.hwDigest s.boot.hw)
  else if i = 2 then sha512 (slice s.boot.image 0 0x300)
  else if planState s (i - 16) ≤ 1 then slice [] 0 64
  else slice (s.plan (i - 16)).meas 0 64

/-- n words of four bytes from the entropy source. -/
def drawBytes (s : State) (n : Nat) : Bytes × State :=
  ((List.range n).flatMap (fun i => natToBytes 4 (Config.entropy (s.fresh + i)).toNat), { s with fresh := s.fresh + n })

/-- A signature under the identity key (R509, R521): its salt of 64 bytes is drawn from the entropy source. -/
def signMessage (s : State) (m : Bytes) : Bytes × State :=
  let d := drawBytes s 16
  (pssSign s.boot.key d.1 m, d.2)

/-- The indices a SEL selects, ascending. -/
def selIndices (sel : Nat) : List Nat :=
  (if bit sel 0 then [0, 1, 2] else []) ++ ((List.range 8).filter (fun p => bit sel (1 + p))).map (16 + ·)

/-- A measurement record of a quote. -/
def quoteRecord (s : State) (i : Nat) : Bytes :=
  let p := i - 16
  let live := decide (16 ≤ i) && planState s p != 0
  natToBytes 2 i ++ natToBytes 2 (if live then planState s p else 0) ++
    natToBytes 4 (if live && planState s p != 1 then (s.plan p).epoch else 0) ++ slice [] 0 8 ++ measurement s i

/-- The certificate chain of a quote: length, certificates, padding to a multiple of 64. -/
def quoteChain (s : State) : Bytes :=
  let n := s.boot.chain.length
  slice (natToBytes 4 n ++ s.boot.chain) 0 (ceilDiv (4 + n) 64 * 64)

/-- Everything of a quote that is signed (Table 15.10). -/
def quoteBody (s : State) (nonce : Bytes) (sel : Nat) : Bytes :=
  let l := selIndices sel
  let chain := if bit sel 9 then quoteChain s else []
  let len := 128 + 80 * l.length + chain.length + 512
  let pol := bits s.fuses 2124 32
  let flags := pol % 2 + (if bit sel 9 then 2 else 0) + (if s.getF secBase SEC_STATUS_UNVERIFIED = 1 then 4 else 0)
  natToBytes 4 0x54515A47 ++ natToBytes 2 1 ++ natToBytes 2 l.length ++ natToBytes 4 len ++ natToBytes 4 pol ++
    natToBytes 16 (bits s.fuses 2156 128) ++ slice nonce 0 32 ++ natToBytes 8 (now s) ++
    natToBytes 4 (s.getF hubWin MBX_FWVER_VERSION) ++ natToBytes 1 (stepByte s) ++ natToBytes 1 flags ++ slice [] 0 50 ++
    l.flatMap (quoteRecord s) ++ chain

/-- A signed quote, counted (R525). -/
def quote (s : State) (nonce : Bytes) (sel : Nat) : Bytes × State :=
  let b := quoteBody s nonce sel
  let q := signMessage s b
  (b ++ q.1, q.2.addF secBase SEC_QUOTES_COUNT 1)

end Sys2Proof.Machine
end

