-- ==== Sys2Proof/Machine/Mailbox.lean ====
section
/-! DEFINITION. The mailbox (R398 to R412): the command and completion rings, the steward taking commands, and the fifteen
commands of Table 11.8. A command row names the place of its command among those taken. -/

namespace Sys2Proof.Machine
open Sys2Proof
open Sys2Proof.Machine.Reg

/-! ### Rings (R401 to R403) -/

/-- Both rings stop with RING_ERR (R403). -/
def ringStop (s : State) : State := { s.setF hubWin MBX_STATUS_RING_ERR 1 with crStop := true, ccStop := true }

/-- A base and a SIZE a ring may be enabled with. -/
def ringGood (s : State) (base : Nat) (size : Nat) : Bool :=
  s.reg (hubWin + base) % 4096 = 0 && decide (4 ≤ size) && decide (size ≤ 12)

/-- The command and the completion ring are enabled. -/
def crOn (s : State) : Bool := s.getF hubWin MBX_CR_CFG_EN = 1
def ccOn (s : State) : Bool := s.getF hubWin MBX_CC_CFG_EN = 1

/-- Once both rings are disabled the stop is over (R403). -/
def ringsOff (s : State) : State := if crOn s || ccOn s then s else { s with crStop := false, ccStop := false }

/-- CR_ENABLE: MBX_CR_CFG written with EN = 1. -/
def crEnable (s : State) (size : Nat) : State :=
  if !endpointUp s || crOn s then s
  else
    let s := s.setF hubWin MBX_CR_CFG_SIZE size
    if !ringGood s 0x1000 size then s.setF hubWin MBX_STATUS_RING_ERR 1
    else ((s.setF hubWin MBX_CR_CFG_EN 1).setF hubWin MBX_CR_TAIL_INDEX 0).setF hubWin MBX_CR_HEAD_INDEX 0

/-- CR_DISABLE: MBX_CR_CFG written with EN = 0. A disabled ring takes the SIZE written. -/
def crDisable (s : State) (size : Nat) : State :=
  if !endpointUp s then s
  else if crOn s then ringsOff { s.setF hubWin MBX_CR_CFG_EN 0 with crStop := false }
  else s.setF hubWin MBX_CR_CFG_SIZE size

/-- Completions that waited for the ring are written (R403). -/
def ccFlush (s : State) : State := s.ccWait.foldl (fun t e => writeCompletion t e.1 e.2) { s with ccWait := [] }

/-- A RESET_DEVICE of the device: what follows it in the ring is discarded (R410). -/
def resetsDevice (t : Taken) : Bool := tkOPC t = 0xA && tkArg t 8 1 = 0

/-- The completion of a command has a way out: the ring is open, or the flit leaves at once, or its module is not reached. -/
def answerReady (s : State) (t : Taken) : Bool :=
  match t.from_ with
  | none => ccOpen s
  | some m => !relayReach s m ||
      (portMay s (routeTo s m) (mkFlit s 0x11 m 0 [] [0]) && (s.port (routeTo s m)).sendq.all (fun g => g.vc ≠ 0))

/-- The reset that a started RESET_DEVICE asked for begins once its completion is written (R410). -/
def resetGo (s : State) : State :=
  match s.taken.findIdx? (fun t => t.started && resetsDevice t) with
  | none => s
  | some i =>
    match s.taken[i]? with
    | none => s
    | some t => if answerReady s t then deviceReset (finish s i 0 0 []) rsWARM 4 0 else s

/-- CC_ENABLE: MBX_CC_CFG written with EN = 1. -/
def ccEnable (s : State) (size : Nat) : State :=
  if !endpointUp s || ccOn s then s
  else
    let s := s.setF hubWin MBX_CC_CFG_SIZE size
    if !ringGood s 0x1014 size then s.setF hubWin MBX_STATUS_RING_ERR 1
    else
      let s := (s.setF hubWin MBX_CC_CFG_EN 1).setF hubWin MBX_CC_HEAD_INDEX 0
      let s := (s.setF hubWin MBX_CC_TAIL_INDEX 0).setF hubWin MBX_CC_TAIL_PHASE 1
      resetGo (ccFlush { s with ccUnread := 0 })

/-- CC_DISABLE: MBX_CC_CFG written with EN = 0. -/
def ccDisable (s : State) (size : Nat) : State :=
  if !endpointUp s then s
  else if ccOn s then ringsOff { s.setF hubWin MBX_CC_CFG_EN 0 with ccStop := false, ccUnread := 0 }
  else s.setF hubWin MBX_CC_CFG_SIZE size

/-- CR_TAIL_WRITE: the command doorbell. -/
def crTailWrite (s : State) (v : Nat) : State :=
  if !endpointUp s then s
  else if crOn s ∧ 2 ^ s.getF hubWin MBX_CR_CFG_SIZE ≤ v % 4096 then ringStop s
  else s.setF hubWin MBX_CR_TAIL_INDEX v

/-- CC_HEAD_WRITE: completions consumed. -/
def ccHeadWrite (s : State) (v : Nat) : State :=
  let n := ccSize s
  if !endpointUp s then s
  else if ccOn s ∧ n ≤ v % 4096 then ringStop s
  else
    let used := (v % 4096 + n - s.getF hubWin MBX_CC_HEAD_INDEX) % n
    { s.setF hubWin MBX_CC_HEAD_INDEX v with ccUnread := s.ccUnread - used }

/-! ### Commands taken (R403 to R405, R465) -/

/-- A command is serial (R404). -/
def isSerial (e : Bytes) : Bool :=
  let o := leAt e 0 1
  (decide (2 ≤ o) && decide (o ≤ 0xB)) || o = 0xE || (o = 0xF && (leAt e 8 1 = 1 || leAt e 8 1 = 2))

/-- A command arrives at the module that executes it. -/
def acceptCommand (s : State) (t : Taken) : State :=
  let behind := s.taken.any resetsDevice
  let s := { s with taken := s.taken ++ [t] }
  if !behind && (tkOPC t = 0 || decide (0xF < tkOPC t)) then finish s (s.taken.length - 1) 0x1001 (tkOPC t) [] else s

/-- The completion of a command that could not be forwarded (R475, Table 13.6). -/
def unreachable (s : State) (t : Taken) (dev : Nat) : State :=
  let p := routeTo s dev
  let st := if 8 ≤ p then (0x7002, dev) else (0x7001, myDev s + p * 2 ^ 8)
  writeCompletion s (completionBytes (tkCID t) st.1 st.2 [] t.crhead (myDev s)) (bit (leAt t.entry 1 1) 0)

/-- A command of this module's ring goes to the module its DEV names (R405). -/
def routeCommand (s : State) (t : Taken) : State :=
  let dev := leAt t.entry 4 1
  if dev = myDev s || s.taken.any resetsDevice then acceptCommand s t
  else if 64 ≤ dev then
    writeCompletion s (completionBytes (tkCID t) 0x1002 4 [] t.crhead (myDev s)) (bit (leAt t.entry 1 1) 0)
  else
    let f := flitSend s (mkFlit s 0x10 dev 0 [] t.entry)
    if f.1 then { f.2 with forwarded := f.2.forwarded ++ [⟨leAt t.entry 1 1, tkCID t, dev, t.crhead⟩] }
    else unreachable f.2 t dev

/-- The steward may take a command (R403). -/
def mayTake (s : State) : Bool :=
  stewardUp s && endpointUp s && crOn s && ccOn s && !s.crStop && !s.ccStop &&
    s.getF hubWin MBX_CR_HEAD_INDEX != s.getF hubWin MBX_CR_TAIL_INDEX &&
    decide ((s.taken.filter (fun t => t.from_.isNone)).length + s.forwarded.length + s.ccWait.length + s.ccUnread < ccSize s)

/-- COMMAND_TAKE: `got` is what the read of the entry gives, none where it fails. -/
def commandTake (s : State) (got : Option Bytes) : State :=
  if !mayTake s then s
  else
    let h := s.getF hubWin MBX_CR_HEAD_INDEX
    let base := s.getF hubWin MBX_CR_BASE_LO_ADDR + s.getF hubWin MBX_CR_BASE_HI_ADDR * 2 ^ 32
    let s := s.emit (.hostRead (base + 64 * h) 64 false)
    match got with
    | none => ringStop s
    | some b =>
      let n := (h + 1) % 2 ^ s.getF hubWin MBX_CR_CFG_SIZE
      routeCommand (s.setF hubWin MBX_CR_HEAD_INDEX n) ⟨slice b 0 64, n, none, false, 0, 0⟩

/-- The command with a code at place i of those taken, if it starts now (R404). A quote waits for the quotes and the SPDM requests
that arrived before it (R524). -/
def cmdAt (s : State) (i opc : Nat) : Option Taken :=
  match s.taken[i]? with
  | none => none
  | some t =>
    if tkOPC t ≠ opc ∨ t.started ∨ !stewardUp s ∨ (s.taken.take i).any resetsDevice ∨
        (isSerial t.entry && (s.taken.take i).any (fun u => isSerial u.entry)) ∨
        (opc = 0xC && ((s.taken.take i).any (fun u => tkOPC u = 0xC) || s.spdm.busy.any (fun r => !r.2.contains t))) then none
    else some t

/-- A host buffer that breaks R406: status and DETAIL. -/
def badBuffer (t : Taken) (dp dl req : Nat) : Option (Nat × Nat) :=
  if tkArg t dp 8 % 64 ≠ 0 then some (0x1003, dp)
  else if tkArg t dl 4 % 64 ≠ 0 then some (0x1003, dl)
  else if tkArg t dl 4 < req then some (0x1002, dl) else none

/-! ### DEV_INFO, LOG_READ, ATTEST_QUOTE, INJECT -/

/-- The record of Table 11.9. -/
def devInfoBytes (s : State) : Bytes :=
  natToBytes 4 (s.reg hubWin) ++ natToBytes 4 (stepByte s) ++ natToBytes 4 (s.getF hubWin MBX_FWVER_VERSION) ++
    natToBytes 1 (myDev s) ++ natToBytes 1 (s.getF rlyBase RLY_ID_NDEV + 1) ++ natToBytes 1 (s.getF (lpcBase 0) LPC_CFG_RATE) ++
    [0] ++ natToBytes 16 ((fencedCores s).foldl (fun m c => m + 2 ^ c) 0) ++
    (List.range 8).map (fun p => BitVec.ofNat 8 (planState s p)) ++
    natToBytes 16 (((List.range 128).filter (bound s)).foldl (fun m k => m + 2 ^ k) 0) ++
    natToBytes 4 (bits s.fuses 2124 32) ++
    natToBytes 4 (2048 - (occupied s).foldl (fun n p => n + imRelease (s.plan p).img) 0) ++
    natToBytes 16 (bits s.fuses 2156 128) ++ (galeTable s.b0).flatMap (natToBytes 4) ++ slice [] 0 48

def devInfo (s : State) (i : Nat) : State :=
  match cmdAt s i 1 with
  | none => s
  | some t =>
    match badBuffer t 8 0x10 256 with
    | some (st, d) => finish s i st d []
    | none => finish (hostWrite s (tkArg t 8 8) (devInfoBytes s)) i 0 0 []

/-- LOG_READ (Table 11.8). -/
def logRead (s : State) (i : Nat) : State :=
  match cmdAt s i 0xD with
  | none => s
  | some t =>
    match badBuffer t 0x10 0x18 32 with
    | some (st, d) => finish s i st d []
    | none =>
      let want := tkArg t 8 4
      let recs := (logFrom s want).take (tkArg t 0x18 4 / 32)
      let first := (recs.head?.map (·.seq)).getD want
      if recs.isEmpty then finish s i 0 0 (natToBytes 4 want)
      else
        finish (hostWrite s (tkArg t 0x10 8) (recs.flatMap logBytes)) i 0 0
          (natToBytes 4 first ++ natToBytes 4 recs.length ++ natToBytes 4 ((first + 2 ^ 32 - want) % 2 ^ 32))

/-- ATTEST_QUOTE (R519, R521). -/
def attestQuote (s : State) (i : Nat) : State :=
  match cmdAt s i 0xC with
  | none => s
  | some t =>
    match badBuffer t 0x28 0x30 0 with
    | some (st, d) => finish s i st d []
    | none =>
      if s.boot.ident ≠ 0 then finish s i 0x6001 s.boot.ident []
      else
        let sel := tkArg t 0x34 4
        let n := (quoteBody s (slice t.entry 8 32) sel).length + 512
        if tkArg t 0x30 4 < ceilDiv n 64 * 64 then finish s i 0x6002 (ceilDiv n 64 * 64) []
        else
          let q := quote s (slice t.entry 8 32) sel
          finish (hostWrite q.2 (tkArg t 0x28 8) q.1) i 0 0 (natToBytes 4 q.1.length)

/-- A target of a detector is in range (Table 12.9). -/
def injTargetOk (d t : Nat) : Bool :=
  match d with
  | 0x01 | 0x02 => decide (t < 0x90)
  | 0x03 | 0x04 => decide (t < 64)
  | 0x05 => decide (t < 512)
  | 0x06 | 0x07 | 0x0A | 0x0B => decide (t < 128)
  | 0x08 => decide (t < 2048)
  | 0x09 => (decide (t < 512) && decide (t % 32 < 16)) || (decide (0x200 ≤ t) && decide (t < 0x220))
  | 0x0C | 0x0D | 0x0F => decide (t < 16)
  | 0x0E => decide (t < 128)
  | 0x10 => decide (t < 4)
  | 0x12 => decide (t < 8)
  | 0x11 | 0x13 => t = 0
  | _ => false

/-- INJECT (R449, R450). -/
def inject (s : State) (i : Nat) : State :=
  match cmdAt s i 0xE with
  | none => s
  | some t =>
    let d := tkArg t 8 2
    let g := tkArg t 0xC 4
    if !policyBit s 2 then finish s i 0x5002 0 []
    else if d = 0 ∨ 0x13 < d then finish s i 0x1002 8 []
    else if !injTargetOk d g then finish s i 0x1002 0xC []
    else finish ((s.setF (injBase d) TXU_INJ_TARGET g).setF (injBase d) TXU_INJ_COUNT (tkArg t 0x10 2)) i 0 0 []

/-! ### Host memory read by a command (R406, R466) -/

/-- A read for a command: none while a downstream module waits, else the offset of the access that failed or the bytes.
At the head `got` and `failAt` say what host memory holds and where it fails. -/
def cmdRead (s : State) (addr len : Nat) (got : Bytes) (failAt : Option Nat) : Option (Nat ⊕ Bytes) × State :=
  let bad := ((s.proxy.find? (fun r => r.failed && decide (addr ≤ r.addr) && decide (r.addr < addr + len))).map (fun r => r.addr - addr)).getD 0
  let r := hostRead s addr len (if failAt.isSome then none else some got)
  (r.1.map (fun x => match x with | some b => .inr b | none => .inl (if isHead s then failAt.getD 0 else bad)), r.2)

/-! ### Plan slots (R47, R387 to R391) -/

/-- The status of a load refused for its arguments: status and DETAIL (R407). -/
def loadBad (s : State) (t : Taken) : Option (Nat × Nat) :=
  let a := tkArg t 0x10 8
  let len := tkArg t 0x18 8
  let d := a / 2 ^ 36
  if 7 < tkArg t 8 1 then some (0x1002, 8)
  else if 1 < tkArg t 9 1 then some (0x1002, 9)
  else if a % 64 ≠ 0 then some (0x1003, 0x10)
  else if len < 64 ∨ 2 ^ 40 < len then some (0x1002, 0x18)
  else if tkArg t 9 1 = 1 ∧
      (3 < d ∨ 0xF00000000 < a % 2 ^ 36 + len ∨ dieOff s d ∨
        (occupied s).any (fun p => ((imRegions (s.plan p).img).zip (s.plan p).regions).any (fun r => overlaps a len r.2 r.1.size))) then
    some (0x1002, 0x10)
  else none

/-- An image in LPDDR4X read line by line: the first uncorrectable line, or the bytes. -/
def imageLines (s : State) (a : Nat) : Nat → (Nat ⊕ Bytes) × State
  | 0 => (.inr [], s)
  | n + 1 =>
    match lineRead s a 64 with
    | (.inl l, t) => (.inl l, t)
    | (.inr b, t) =>
      match imageLines t (a + 64) n with
      | (.inl l, u) => (.inl l, u)
      | (.inr r, u) => (.inr (b ++ r), u)

/-- Admission of a slot is held by the dies in squall or over temperature (R504). -/
def holdFromDies (s : State) (p : Nat) : State :=
  s.setPlan p { s.plan p with
    squalls := (List.range 4).filter (fun d => (s.die d).sq.isSome && onDie s p d)
    overs := (List.range 4).filter (fun d => (s.die d).ot.isSome && onDie s p d) }

/-- The load sequence on the bytes read. -/
def loadBytes (s : State) (i p : Nat) (b : Bytes) (len : Nat) (rng : List (Nat × Nat)) : State :=
  match loadImage s p b len rng with
  | (some r, u) => refuseLoad u i p r
  | (none, u) => startGroup (beginGroup (startTaken (holdFromDies u p) i 0 p))

/-- A load from host memory reads its image: no byte beyond the smaller of LEN and IMAGE_LEN. The head has the image at hand; a
downstream module reads the header first, and keeps the length it names in v1. None while it waits. -/
def imageRead (s : State) (i : Nat) (t : Taken) (a len : Nat) (got : Bytes) (failAt : Option Nat) :
    Option (Nat ⊕ Bytes) × State :=
  let body (s : State) (il : Nat) : Option (Nat ⊕ Bytes) × State :=
    let n := min len (max 64 il)
    cmdRead s a n got (failAt.filter (fun o => decide (o < n)))
  if isHead s then body s (leAt got 0x10 8)
  else if t.v1 ≠ 0 then body s t.v1
  else match cmdRead s a 64 got none with
    | (some (.inr b), u) =>
      body { u with taken := u.taken.set i { t with v0 := 1, v1 := max 64 (leAt b 0x10 8) } } (leAt b 0x10 8)
    | r => r

/-- The state of a load that waits for its image. -/
def loadWaits (s : State) (i p : Nat) : State :=
  match s.taken[i]? with
  | some t => { s with taken := s.taken.set i { t with v0 := 1 } }.setF (cadBase p) CAD_STATE_SLOT 1
  | none => s

/-- PLAN_LOAD (R387 to R390, R407). -/
def planLoad (s : State) (i : Nat) (got : Bytes) (failAt : Option Nat) : State :=
  match cmdAt s i 2 with
  | none => s
  | some t =>
    let p := tkArg t 8 1
    let a := tkArg t 0x10 8
    let len := tkArg t 0x18 8
    match loadBad s t with
    | some (st, d) => finish s i st d []
    | none =>
      let s := if t.v0 = 1 then s.setF (cadBase p) CAD_STATE_SLOT 0 else s
      if planState s p ≠ 0 then refuseLoad s i p (0xB, planState s p)
      else if tkArg t 9 1 = 1 then
        let n := min len (max 64 (leAt (s.bytesAt a 64) 0x10 8))
        match imageLines s a (ceilDiv n 64) with
        | (.inl l, u) => finish (logUncorrectable u l 5 0xFF) i 0x1002 0x10 []
        | (.inr b, u) => loadBytes u i p b len [(a, len)]
      else
        match imageRead s i t a len got failAt with
        | (none, u) => loadWaits u i p
        | (some (.inl o), u) => finish u i 0x1004 o []
        | (some (.inr b), u) => loadBytes u i p b len []

/-- A plan slot command's slot: FIELD above 7, PLAN_STATE where the state does not allow it. -/
def slotBad (s : State) (t : Taken) (ok : Nat → Bool) : Option (Nat × Nat) :=
  let p := tkArg t 8 1
  if 7 < p then some (0x1002, 8) else if ok (planState s p) then none else some (0x2001, planState s p)

/-- PLAN_START: READY to RUNNING, with the origin and relay output of now (R40, R464). -/
def planStart (s : State) (i : Nat) : State :=
  match cmdAt s i 3 with
  | none => s
  | some t =>
    let p := tkArg t 8 1
    match slotBad s t (fun st => st = 2) with
    | some (st, d) => finish s i st d []
    | none =>
      let s := s.setF (cadBase p) CAD_STATE_SLOT 3
      let s := s.setPlan p { s.plan p with
        origin := s.getF (cadBase p) CAD_ORIGIN_OFFSET, outCfg := s.reg (rlyBase + 0xA00 + 8 * p)
        outLen := s.getF (rlyBase + 8 * p) RLY_OUT_LEN_BYTES, lastDone := now s }
      finish (restartAges (holdFromDies s p) p) i 0 0 (natToBytes 8 (now s))

/-- PLAN_STOP (R47): at once in an unsegmented plan, or where segment 1 is configured and no frame of the round has been
admitted; otherwise it stays pending. -/
def planStop (s : State) (i : Nat) : State :=
  match cmdAt s i 4 with
  | none => s
  | some t =>
    let p := tkArg t 8 1
    match slotBad s t (fun st => st = 3 || st = 4) with
    | some (st, d) => finish s i st d []
    | none =>
      let x := s.plan p
      let s := startTaken s i 0 0
      if planState s p = 3 ∧ x.switch = 0 ∧ (piNSEG x.img ≤ 1 ∨ (x.cfg = 0 ∧ x.roundN = 0)) then
        planCheck ((s.setF (cadBase p) CAD_STATE_SLOT 5).setPlan p { x with window := false }) p
      else planCheck (s.setPlan p { x with stopPend := true, window := false }) p

/-- The lowest stream slot bound to a plan. -/
def boundTo (s : State) (p : Nat) : Option Nat := (List.range 128).find? (fun k => (s.stream k).plan = some p)

/-- PLAN_UNLOAD (R391). -/
def planUnload (s : State) (i : Nat) : State :=
  match cmdAt s i 5 with
  | none => s
  | some t =>
    let p := tkArg t 8 1
    match slotBad s t (fun st => st = 2 || st = 6) with
    | some (st, d) => finish s i st d []
    | none =>
      match boundTo s p with
      | some k => finish s i 0x2002 k []
      | none => finish (idleMemories (releasePlan s p)) i 0 0 []

/-- KILN_RUN (R162, R164). -/
def kilnRun (s : State) (i : Nat) : State :=
  match cmdAt s i 8 with
  | none => s
  | some t =>
    let p := tkArg t 8 1
    let mask := tkArg t 0xA 2
    match slotBad s t (fun st => st = 3) with
    | some (st, d) => finish s i st d []
    | none =>
      let x := s.plan p
      if !imKiln x.img then finish s i 0x2003 0 []
      else if 2 ^ piNSEG x.img ≤ mask then finish s i 0x1002 0xA []
      else if mask = 0 then finish s i 0 0 []
      else planCheck ((startTaken s i 0 0).setPlan p { x with kiln := some ⟨maskBits 16 mask, 0, [], none⟩ }) p

/-! ### Streams (R22, R24, R46, R48, R409) -/

/-- The first value of a STREAM_OPEN that no state could accept (R409 step 1): its offset. -/
def openField (t : Taken) : Option Nat :=
  if 127 < tkArg t 8 1 then some 8
  else if 7 < tkArg t 9 1 then some 9
  else if tkArg t 0x1C 4 = 0 then some 0x1C
  else ((List.range 15).map (0x31 + ·)).find? (fun o => tkArg t o 1 ≠ 0)

/-- The first bad field of a STREAM_OPEN (R409 step 4): status and DETAIL. -/
def openBad (s : State) (t : Taken) : Option (Nat × Nat) :=
  let cfg := tkArg t 0xC 2
  let ring := 4096 * (bits cfg 0 4 + 1)
  let ivec := tkArg t 0xB 1
  let lvl := tkArg t 0x10 4
  let adm := tkArg t 0x14 4
  let feeder := (sectOff (s.plan (tkArg t 9 1)).img 0x0A).isSome
  if ivec < 4 ∨ 63 < ivec then some (0x4005, ivec)
  else if bits cfg 4 2 = 3 ∨ bits cfg 6 2 = 3 ∨ (!bit cfg 10 && !feeder) ∨ (!isHead s && bits cfg 6 2 != 2) then some (0x4003, 0xC)
  else if tkArg t 0xE 1 = 0 then some (0x4004, 0xE)
  else if lvl % 64 ≠ 0 ∨ ring < lvl then some (0x4003, 0x10)
  else if adm % 64 ≠ 0 ∨ adm < 64 ∨ ring < adm then some (0x4003, 0x14)
  else if bits cfg 6 2 ≠ 2 ∧ tkArg t 0x20 8 % 4096 ≠ 0 then some (0x4004, 0x20)
  else if tkArg t 0x28 8 % 4096 ≠ 0 then some (0x4004, 0x28)
  else if tkArg t 0x30 1 < 4 ∨ 12 < tkArg t 0x30 1 then some (0x4004, 0x30)
  else none

/-- Streams bound to a plan. -/
def mates (s : State) (p : Nat) : List Nat := (List.range 128).filter (fun k => (s.stream k).plan = some p)

/-- The sum of the reciprocals of a list, as numerator and denominator. -/
def sumRecip (l : List Nat) : Nat × Nat := l.foldl (fun a i => (a.1 * i + a.2, a.2 * i)) (0, 1)

/-- R24 in exact arithmetic: the sum of one over each interval must not exceed one over P_adm. -/
def rateOk (padm : Nat) (l : List Nat) : Bool := let r := sumRecip l; decide (r.1 * padm ≤ r.2)

/-- DETAIL of RATE (Table 11.12). -/
def rateDetail (padm : Nat) (l : List Nat) : Nat := 10 ^ 12 / padm - l.foldl (fun n i => n + ceilDiv (10 ^ 12) i) 0

/-- The stream slot bound (R22, R349, R409, R412). -/
def bindStream (s : State) (t : Taken) : State :=
  let k := tkArg t 8 1
  let p := tkArg t 9 1
  let seq0 := tkArg t 0x18 4
  let s := s.setStream k { StreamSt.reset with
    plan := some p, hblk := tkArg t 0xA 1, ivec := tkArg t 0xB 1, modcnt := tkArg t 0xE 1, modus := tkArg t 0xF 1
    interval := tkArg t 0x1C 4, frbase := tkArg t 0x20 8, rrbase := tkArg t 0x28 8, rsize := tkArg t 0x30 1
    next := seq0, last := (seq0 + 2 ^ 32 - 1) % 2 ^ 32, timed := bit (s.reg (rlyBase + 0xA40 + 4 * (k / 32))) (k % 32) }
  let b := ringBase k
  let s := (((s.setReg b 0).setReg (b + 4) 0).setReg (b + 8) 0).setReg (b + 0xC) (2 ^ 12 + 2 ^ 13)
  let f := fifBase k
  let s := ((s.setFifo k FifoSt.reset).setReg f (bits (tkArg t 0xC 2) 0 11)).setF f FIF_LEVEL_BYTES (tkArg t 0x10 4)
  mapStream (s.setF f FIF_ADMIT_BYTES (tkArg t 0x14 4)) p k (tkArg t 0xA 1)

/-- STREAM_OPEN. -/
def streamOpen (s : State) (i : Nat) : State :=
  match cmdAt s i 6 with
  | none => s
  | some t =>
    let k := tkArg t 8 1
    let p := tkArg t 9 1
    let hb := tkArg t 0xA 1
    match openField t with
    | some o => finish s i 0x1002 o []
    | none =>
      match (s.stream k).plan with
      | some q => finish s i 0x2002 q []
      | none =>
        if planState s p ≠ 2 ∧ planState s p ≠ 3 then finish s i 0x2001 (planState s p) []
        else match openBad s t with
        | some (st, d) => finish s i st d []
        | none =>
          match (mates s p).find? (fun m => hb ≠ 0xFF ∧ (s.stream m).hblk = hb) with
          | some m => finish s i 0x4002 m []
          | none =>
            let l := (mates s p).map (fun m => (s.stream m).interval)
            let padm := piPADM (s.plan p).img
            if !rateOk padm (tkArg t 0x1C 4 :: l) then finish s i 0x4001 (rateDetail padm l) []
            else finish (bindStream s t) i 0 0 (natToBytes 2 hb)

/-- NOTRUN results with reason 1 for the frames of a stream fetched and not admitted, which leave its FIFO, after the
publications of the stream due at the instant (R421, R422); a relay frame's carry the flags of its header (R472). -/
def dropUnadmitted (s : State) (k : Nat) : State :=
  let x := s.fifo k
  let gone := x.frames.filter (fun f => f.seq.isNone)
  let s := gone.foldl (fun t f =>
    writeResult (publishBefore t k) k (fdUSER f.desc) 0xFFFFFFFF 0 (fNotrun 1 ||| f.upFlags) f.ring (fdNOIRQ f.desc)) s
  match gone with
  | [] => s
  | f :: _ =>
    let s := s.setFifo k { x with
      frames := x.frames.filter (fun f => f.seq.isSome), wr := f.base, rd := min x.rd f.base, pulls := [], asked := 0, granted := 0 }
    (s.setF (fifBase k) FIF_STATUS_OPEN 0).setF (fifBase k) FIF_REMAIN_BYTES 0

/-- STREAM_CLOSE (R46, R48). -/
def streamClose (s : State) (i : Nat) : State :=
  match cmdAt s i 7 with
  | none => s
  | some t =>
    let k := tkArg t 8 1
    if 127 < k then finish s i 0x1002 8 []
    else match (s.stream k).plan with
    | none => finish s i 0x2002 0xFF []
    | some p =>
      let st := planState s p
      let s := startTaken s i 0 0
      let s := s.setStream k { s.stream k with closeHead := s.getF (ringBase k) MBX_FR_HEAD_INDEX, closeT := now s }
      let u := dropUnadmitted s k
      afterNotrun s
        (if st ≠ 2 ∧ st ≠ 6 ∧ hasFeeder s p then
          (u.setStream k { u.stream k with closing := 1 }).setFeed p { u.feed p with todo := (u.feed p).todo ++ [(k, none)] }
        else
          let u := u.setStream k { u.stream k with closing := 3 }
          streamCheck { u with purge := u.purge ++ [(p, k, 2 ^ 32)] } k) k

/-! ### FENCE_CORE, RESET_DEVICE, POWER_STATE, RELAY_TOPOLOGY -/

/-- FENCE_CORE (R441, R442, Table 12.7): the command waits for the relocation it starts, with the plan slot in v1. -/
def fenceCommand (s : State) (i : Nat) : State :=
  match cmdAt s i 9 with
  | none => s
  | some t =>
    let c := tkArg t 8 1
    let h := (holderOf s c).getD 0xFF
    if 127 < c then finish s i 0x1002 8 []
    else if fenced s c then finish s i 0 0 (fenceResult 4 0xFF h 0)
    else match holderOf s c with
    | none => finish (fenceCore s c) i 0 0 (fenceResult 1 0xFF 0xFF 0)
    | some p =>
      if idleSpare s p c then finish (fenceAndMove s c) i 0 0 (fenceResult 3 0xFF p 0)
      else if planState s p = 6 then finish (fenceAndMove s c) i 0 0 (fenceResult 2 0xFF p 0)
      else fenceAndMove (startTaken s i 0 p) c

/-- RESET_DEVICE (R410). -/
def resetDevice (s : State) (i : Nat) : State :=
  match cmdAt s i 0xA with
  | none => s
  | some t =>
    let cl := tkArg t 9 1
    match tkArg t 8 1 with
    | 0 => resetGo (startTaken s i 0 0)
    | 1 =>
      if 15 < cl then finish s i 0x1002 9 []
      else match ((List.range 8).map (8 * cl + ·)).find? (fun c => (holderOf s c).isSome) with
      | some c => finish s i 0x2004 c []
      | none => finish (clusterReset s cl) i 0 0 []
    | _ => finish s i 0x1002 8 []

/-- POWER_STATE (R496 to R499, R562). -/
def powerState (s : State) (i : Nat) : State :=
  match cmdAt s i 0xB with
  | none => s
  | some t =>
    match tkArg t 8 1 with
    | 0 => powerActive s i
    | 1 => powerHold s i (tkArg t 0x10 16)
    | 2 => powerOff s i (tkArg t 9 1)
    | 3 => powerStandby s i
    | _ => finish s i 0x1002 8 []

/-- The command goes on to other modules, each by its own number: what a module's part of a discovery
or of a written record is, it takes from the command as it executes it (log 140, DESIGN CHOICE). Only the head sends it on. -/
def spread (s : State) (t : Taken) (devs : List Nat) : State :=
  if !isHead s || t.from_.isSome then s
  else (devs.filter (fun n => n ≠ myDev s)).foldl (fun u n =>
    (flitSend u (mkFlit u 0x10 n 0 [] (patch t.entry 4 (natToBytes 1 n)))).2) s

/-- RELAY_TOPOLOGY in mode 2 on the record read (R463). -/
def topologyWrite (s : State) (i : Nat) (t : Taken) (b : Bytes) (net : List Bytes) : State :=
  let known := knownRecords s net
  let write (s : State) : State :=
    finish (brokenPaths (writeTopology (spread s t ((List.range known.length).filter (fun n => !(known.getD n []).isEmpty))) b)) i 0 0 (natToBytes 1 known.length)
  match badTopology b known with
  | some o => finish s i 0x7005 o []
  | none =>
    match routeCycle b known with
    | some m => finish s i 0x7003 m []
    | none =>
      match known.findIdx? (fun r => !r.isEmpty && tpBusy r) with
      | some m => if routesChange b known then finish s i 0x7004 m [] else write s
      | none => write s

/-- A discovery executed here: by the head over the chain, by another module of what the head's discovery made of it, its own
record first among those that come with the command (log 72). -/
def discoverHere (s : State) (t : Taken) (net : List Bytes) : State × List Bytes :=
  if isHead s then
    (discover (spread s t (List.range (s.getF rlyBase RLY_ID_NDEV + 1))) net).map brokenPaths id
  else if net.isEmpty then (s, knownRecords s net)
  else
    let u := brokenPaths (takeRecord s net)
    (u, (List.range net.length).map (fun n =>
      if n = myDev u then ownRecord u n else (net.find? (fun r => leAt r 0 1 = n)).getD []))

/-- RELAY_TOPOLOGY (R461 to R464): `net` are the reports of the modules, `got` the buffer in mode 2. -/
def relayTopology (s : State) (i : Nat) (net : List Bytes) (got : Bytes) (failAt : Option Nat) : State :=
  match cmdAt s i 0xF with
  | none => s
  | some t =>
    let mode := tkArg t 8 1
    if 2 < mode then finish s i 0x1002 8 []
    else match badBuffer t 0x10 0x18 12352 with
    | some (st, d) => finish s i st d []
    | none =>
      if mode = 2 then
        match cmdRead s (tkArg t 0x10 8) 12352 got failAt with
        | (none, u) => u
        | (some (.inl o), u) => finish u i 0x1004 o []
        | (some (.inr b), u) => topologyWrite u i t b net
      else
        let r := if mode = 1 then discoverHere s t net else (s, knownRecords s net)
        finish (hostWrite r.1 (tkArg t 0x10 8) (topologyBytes r.2)) i 0 0 (natToBytes 1 r.2.length)

def execCrEnable (size : BitVec 4) (s : State) : Host.Outcome State Fault Refusal := live s (crEnable s size.toNat)
def execCrDisable (size : BitVec 4) (s : State) : Host.Outcome State Fault Refusal := live s (crDisable s size.toNat)
def execCcEnable (size : BitVec 4) (s : State) : Host.Outcome State Fault Refusal := live s (ccEnable s size.toNat)
def execCcDisable (size : BitVec 4) (s : State) : Host.Outcome State Fault Refusal := live s (ccDisable s size.toNat)
def execCrTailWrite (v : BitVec 32) (s : State) : Host.Outcome State Fault Refusal := live s (crTailWrite s v.toNat)
def execCcHeadWrite (v : BitVec 32) (s : State) : Host.Outcome State Fault Refusal := live s (ccHeadWrite s v.toNat)
def execCommandTake (got : Option (BitVec 512)) (s : State) : Host.Outcome State Fault Refusal :=
  live s (commandTake s (got.map (fun b => natToBytes 64 b.toNat)))
def execDevInfo (k : Nat) (s : State) : Host.Outcome State Fault Refusal := live s (devInfo s k)
def execPlanLoad (k : Nat) (got : List (BitVec 8)) (failAt : Option Nat) (s : State) : Host.Outcome State Fault Refusal :=
  live s (awaited s (planLoad s k got failAt))
def execPlanStart (k : Nat) (s : State) : Host.Outcome State Fault Refusal := live s (planStart s k)
def execPlanStop (k : Nat) (s : State) : Host.Outcome State Fault Refusal := live s (planStop s k)
def execPlanUnload (k : Nat) (s : State) : Host.Outcome State Fault Refusal := live s (planUnload s k)
def execStreamOpen (k : Nat) (s : State) : Host.Outcome State Fault Refusal := live s (awaited s (streamOpen s k))
def execStreamClose (k : Nat) (s : State) : Host.Outcome State Fault Refusal := live s (streamClose s k)
def execKilnRun (k : Nat) (s : State) : Host.Outcome State Fault Refusal := live s (kilnRun s k)
def execFenceCore (k : Nat) (s : State) : Host.Outcome State Fault Refusal := live s (fenceCommand s k)
def execResetDevice (k : Nat) (s : State) : Host.Outcome State Fault Refusal := live s (resetDevice s k)
def execPowerState (k : Nat) (s : State) : Host.Outcome State Fault Refusal := live s (powerState s k)
def execLogRead (k : Nat) (s : State) : Host.Outcome State Fault Refusal := live s (logRead s k)
def execInject (k : Nat) (s : State) : Host.Outcome State Fault Refusal := live s (inject s k)
def execRelayTopology (k : Nat) (net : List (List (BitVec 8))) (got : List (BitVec 8)) (failAt : Option Nat) (s : State) :
    Host.Outcome State Fault Refusal := live s (relayTopology s k net got failAt)

end Sys2Proof.Machine
end

