-- ==== Sys2Proof/Machine/Pins.lean ====
section
/-! DEFINITION. The SMBus target (R555) and the TAP (R539 to R543). -/

namespace Sys2Proof.Machine
open Sys2Proof
open Sys2Proof.Machine.Reg

/-! ### SMBus (Table 17.9) -/

/-- The SMBus target and the monitor answer: from 1 ms after POR_N is released (R527, R555). -/
def benchUp (s : State) : Bool := !s.boot.porLow && decide (1000000 ≤ s.boot.upNs)

/-- A reading in 1/16 °C as whole degrees in a signed byte, rounded toward minus infinity. -/
def wholeDegrees (t : Int) : BitVec 8 := BitVec.ofInt 8 (t / 16)

/-- The hottestOf of some readings. -/
def hottestOf (l : List Int) : Int := l.foldl max (l.headD 0)

/-- The PWR_TEMP reading of a die. -/
def dieTemp (s : State) (d : Nat) : Int := signed 16 (s.getF (pwrDie d) PWR_TEMP_HOT)

/-- The health bits. -/
def healthBits (s : State) : Nat :=
  s.getF hubWin MBX_STATUS_READY + 2 * s.getF hubWin MBX_STATUS_BOOTFAIL + (if s.therm then 4 else 0) +
    (if (List.range 4).any (fun d => s.getF (pwrDie d) PWR_STATUS_SQUALL = 1) then 8 else 0) +
    (if (List.range 4).any (fun d => s.getF (pwrDie d) PWR_STATUS_OVERTEMP = 1) then 16 else 0)

/-- A byte answered on SMBus. -/
def smbAnswer (s : State) (b : BitVec 8) : State := if benchUp s then s.emit (.smbus b) else s

def smbDieTemp (s : State) : State := smbAnswer s (wholeDegrees (hottestOf ((List.range 4).map (dieTemp s))))
def smbHubTemp (s : State) : State := smbAnswer s (wholeDegrees (hottestOf s.hubTemps))
def smbStatus (s : State) : State := smbAnswer s (BitVec.ofNat 8 (healthBits s))
def smbStepping (s : State) : State := smbAnswer s (if s.b0 then 0xB0 else 0xA1)

/-- A Read Byte of an unlisted command, or another protocol. -/
def smbUnsupported (s : State) (readByte : Bool) (command : Nat) : State :=
  if readByte then (if command < 4 then s else smbAnswer s 0)
  else if benchUp s then s.emit .smbusNack else s

def execSmbDieTemp (s : State) : Host.Outcome State Fault Refusal := live s (smbDieTemp s)
def execSmbHubTemp (s : State) : Host.Outcome State Fault Refusal := live s (smbHubTemp s)
def execSmbStatus (s : State) : Host.Outcome State Fault Refusal := live s (smbStatus s)
def execSmbStepping (s : State) : Host.Outcome State Fault Refusal := live s (smbStepping s)
def execSmbUnsupportedRequest (readByte : Bool) (command : BitVec 8) (s : State) : Host.Outcome State Fault Refusal :=
  live s (smbUnsupported s readByte command.toNat)

/-! ### The TAP (Table 16.6). Its commands have their effect in every functional state. -/

/-- The state of the TAP controller after a rising edge of TCK with TMS (IEEE 1149.1, R539). -/
def TapState.next (tms : Bool) : TapState → TapState
  | .testLogicReset => if tms then .testLogicReset else .runTest
  | .runTest => if tms then .selectDr else .runTest
  | .selectDr => if tms then .selectIr else .captureDr
  | .captureDr => if tms then .exit1Dr else .shiftDr
  | .shiftDr => if tms then .exit1Dr else .shiftDr
  | .exit1Dr => if tms then .updateDr else .pauseDr
  | .pauseDr => if tms then .exit2Dr else .pauseDr
  | .exit2Dr => if tms then .updateDr else .shiftDr
  | .updateDr => if tms then .selectDr else .runTest
  | .selectIr => if tms then .testLogicReset else .captureIr
  | .captureIr => if tms then .exit1Ir else .shiftIr
  | .shiftIr => if tms then .exit1Ir else .shiftIr
  | .exit1Ir => if tms then .updateIr else .pauseIr
  | .pauseIr => if tms then .exit2Ir else .pauseIr
  | .exit2Ir => if tms then .updateIr else .shiftIr
  | .updateIr => if tms then .selectDr else .runTest

/-- The TAP is reset: IDCODE is selected, and the device drives its outputs (R539, Table 16.6). -/
def tapReset (s : State) : State :=
  { s with jtagIr := 2, bscan := { s.bscan with drive := 0, tap := .testLogicReset } }

/-- A rising edge of TCK with TMS. Five with TMS high reset the TAP from every state (R539). -/
def tapClock (s : State) (tms : Bool) : State :=
  let t := s.bscan.tap.next tms
  if t = .testLogicReset then tapReset s else { s with bscan := { s.bscan with tap := t } }

/-- Edges of TCK with the values of TMS in turn. -/
def tapWalk (s : State) (tms : List Bool) : State := tms.foldl tapClock s

/-- TMS from Test-Logic-Reset or Run-Test/Idle to Update-IR, with eight bits shifted into the instruction register (R540). -/
def tapToIr : List Bool := [false, true, true, false, false] ++ List.replicate 7 false ++ [true, true]

/-- TMS from Update-IR or Run-Test/Idle to Update-DR with n bits shifted through the register selected. -/
def tapToDr (n : Nat) : List Bool := [true, false, false] ++ List.replicate (n - 1) false ++ [true, true]

/-- An instruction loaded; `drive` tells what drives the outputs under it: 0 the device, 1 the latches of the boundary cells, 2
nothing, 3 a pulse and 4 a train of the latches (IEEE 1149.1 and 1149.6). -/
def tapLoad (s : State) (code drive : Nat) : State :=
  let s := tapWalk s tapToIr
  { s with jtagIr := code, bscan := { s.bscan with drive := drive } }

/-- A scan of a register of n bits under the instruction loaded, and back to Run-Test/Idle: what it captured leaves on TDO. -/
def tapShift (s : State) (n captured : Nat) : State :=
  (tapWalk s (tapToDr n ++ [false])).emit (.tdo n captured)

/-- An instruction loaded that leaves the functional state undefined (R543). -/
def tapTest (s : State) (code drive : Nat) : State := { tapLoad s code drive with scanned := true }

/-- The cells that have a latch: all but the three observe-only cells of the reference-clock inputs (R542). -/
def latchMask : BitVec 128 := (-1 : BitVec 128) >>> 3

/-- A bit of a vector set to a level. -/
def setCell (v : BitVec 128) (i : Nat) (on : Bool) : BitVec 128 :=
  if on then v ||| BitVec.ofNat 128 (2 ^ i) else v &&& ~~~(BitVec.ofNat 128 (2 ^ i))

/-- The levels at the lands, by cell: cells 25, 26 and 28 are those of POR_N, PERST_N and THERM_N, in the order of R542 (log 109);
the others carry what the board and the peers drive. -/
def landLevels (s : State) : BitVec 128 :=
  let v := setCell (setCell (Config.landLevels s.fresh) 25 (!s.boot.porLow)) 26 (!s.boot.perstLow)
  if s.bscan.drive = 0 then setCell v 28 (!s.therm) else v

/-- A scan of the boundary register under the instruction loaded: the cells capture the lands, shift out on TDO, and their
latches take what was shifted in (R542, IEEE 1149.1). -/
def tapScan (s : State) : State :=
  let pins := landLevels s
  tapShift { s with
    bscan := { s.bscan with cap := pins, latch := Config.tdiBits s.fresh &&& latchMask }, fresh := s.fresh + 1 } 128 pins.toNat

/-- The bypass register scanned: its one bit captures 0 (IEEE 1149.1). -/
def tapZero (s : State) : State := tapShift s 1 0

/-- IDCODE of the stepping (R541). -/
def idcode (s : State) : Nat := if s.b0 then 0x2D1285A7 else 0x1D1285A7

/-- The codes of the public instructions other than BYPASS. -/
def tapPublic (code : Nat) : Bool := decide (code < 7)

def tapIdcode (s : State) : State := tapShift (tapLoad s 2 0) 32 (idcode s)

/-- BYPASS, and every code not listed. -/
def tapBypass (s : State) (code : Nat) : State := if tapPublic code then s else tapZero (tapLoad s code 0)

def execExtest (s : State) : Host.Outcome State Fault Refusal := .next (tapScan (tapTest s 0 1))
def execSamplePreload (s : State) : Host.Outcome State Fault Refusal :=
  .next (tapScan (tapLoad s 1 0))
def execIdcode (s : State) : Host.Outcome State Fault Refusal := .next (tapIdcode s)
def execClamp (s : State) : Host.Outcome State Fault Refusal := .next (tapZero (tapTest s 3 1))
def execHighz (s : State) : Host.Outcome State Fault Refusal := .next (tapZero (tapTest s 4 2))
def execExtestPulse (s : State) : Host.Outcome State Fault Refusal :=
  .next (tapScan (tapTest s 5 3))
def execExtestTrain (s : State) : Host.Outcome State Fault Refusal :=
  .next (tapScan (tapTest s 6 4))
def execBypass (code : BitVec 8) (s : State) : Host.Outcome State Fault Refusal := .next (tapBypass s code.toNat)

/-- TRST_N resets the TAP, whatever its state (R539). -/
def execTrstNAssert (s : State) : Host.Outcome State Fault Refusal := .next (tapReset s)

end Sys2Proof.Machine
end

