-- ==== Sys2Proof/Machine/Relay.lean ====
section
/-! DEFINITION. Relay links (R452 to R475): port states, flits as they arrive, replay, credits, forwarding, the host-memory
proxy, relay streams, SYNC. A flit comes as the 256 bytes of Table 13.1; FLIT_CORRUPT is a flit that fails its check whatever it
carried. -/

namespace Sys2Proof.Machine
open Sys2Proof
open Sys2Proof.Machine.Reg

/-! ### Flits -/

/-- A flit from its bytes (Table 13.1). -/
def parseFlit (w : Nat) : Flit :=
  let b := natToBytes 252 w
  { kind := leAt b 0 1, dst := bits (leAt b 1 1) 0 6, vc := bits (leAt b 1 1) 6 2, src := bits (leAt b 2 1) 0 6
    plen := leAt b 3 1, cret := leAt b 4 2, ack := leAt b 6 2, fseq := leAt b 8 2, nak := bit (leAt b 10 1) 0
    args := slice b 12 48, payload := slice b 60 192 }

/-- The CRC of a flit's 256 bytes is right (R454). -/
def flitSound (w : Nat) : Bool := crc32 (natToBytes 252 w) = bits w 2016 32

/-- The kinds of Table 13.2. -/
def flitKinds : List Nat := [0, 1, 2, 0x10, 0x11, 0x12, 0x20, 0x21, 0x22, 0x28, 0x30, 0x31, 0x32]

/-- A reserved kind, or a nonzero reserved field (R455). -/
def flitReserved (w : Nat) : Bool :=
  let b := natToBytes 252 w
  let z (o n : Nat) : Bool := leAt b (12 + o) n = 0
  !flitKinds.contains (leAt b 0 1) || bits (leAt b 2 1) 6 2 != 0 || decide (192 ≤ leAt b 3 1) ||
    bits (leAt b 10 1) 1 7 != 0 || leAt b 11 1 != 0 ||
    (leAt b 0 1 = 0x30 && (bit (leAt b 12 1) 7 || !(z 1 1 && z 12 4 && z 36 4)))

def flPayload (f : Flit) : Bytes := f.payload.take (f.plen + 1)

/-! ### Completions here, and flits that cannot go on (R405, R465, R466, R475) -/

/-- CPL here: the head writes it to its own completion ring, with the CRHEAD and NOIRQ of the command. -/
def cplHere (s : State) (f : Flit) : State :=
  let cid := leAt f.payload 0 2
  match s.forwarded.findIdx? (fun g => g.cid = cid ∧ (g.dev = f.src ∨ g.dev = leAt f.payload 0x1A 1)) with
  | none => s
  | some i =>
    match s.forwarded[i]? with
    | none => s
    | some g =>
      let s := { s with forwarded := s.forwarded.eraseIdx i }
      writeCompletion s (patch (slice f.payload 0 28) 0x18 (natToBytes 2 g.crhead)) (bit g.flags 0)

/-- MCPL here: data of a proxied read, or its failure. -/
def mcplHere (s : State) (f : Flit) : State :=
  let tag := leAt f.args 12 2
  let off := leAt f.args 14 2
  let d := flPayload f
  { s with proxy := s.proxy.map (fun r =>
    if r.tag ≠ tag then r
    else if leAt f.args 16 1 ≠ 0 then { r with failed := true }
    else { r with data := (patch (slice r.data 0 (max r.data.length (off + d.length))) off d).take r.len }) }

/-- A flit that cannot go on (R475): a CMD is answered LINK_DOWN and an MRD by its failure, here where the flit is this
module's own. The answer to a CMD names the module that the command was for, by which the head knows it (log 139, DESIGN CHOICE). -/
def deadFlit (s : State) (f : Flit) : State :=
  if f.kind = 0x10 then
    let e := completionBytes (leAt f.payload 2 2) 0x7001 (myDev s + routeTo s f.dst % 8 * 2 ^ 8) [] 0 f.dst
    let g := mkFlit s 0x11 f.src 0 [] (e ++ natToBytes 4 0)
    if f.src = myDev s then cplHere s g else (flitSend s g).2
  else if f.kind = 0x20 then
    let g := mkFlit s 0x28 f.src 3 (slice [] 0 12 ++ slice f.args 12 2 ++ natToBytes 2 0 ++ [1]) [0]
    if f.src = myDev s then mcplHere s g else (flitSend s g).2
  else s

/-- A discarded flit: NAK is set until the flit after the last one in order arrives. -/
def flitDropped (s : State) (p : Nat) : State := s.setPort p { s.port p with nak := true }

/-- A flit discarded with its uncorrectable codeword. -/
def flitLost (s : State) (p : Nat) : State := (flitDropped s p).addF (rlyPort p) RLY_P_FEC_UE_COUNT 1

/-- A flit of 256 bytes comes over the link: one that injection point 0x12 spoils, or whose CRC fails, is discarded (R454, R458). -/
def arrives (s : State) (p w : Nat) (good : State → State) : State :=
  let inj := injected s 0x12 p
  if inj.1 then flitLost inj.2 p else if !flitSound w then flitDropped inj.2 p else good inj.2

/-! ### Port states (R459, R475) -/

def portState (s : State) (p : Nat) : Nat := s.getF (rlyPort p) RLY_P_STATUS_STATE
def setPortState (s : State) (p st : Nat) : State := s.setF (rlyPort p) RLY_P_STATUS_STATE st

/-- A port leaves its state for DETECT or DOWN; leaving UP discards its buffers and is logged, and the flits that waited
here to leave by it meet a port that is not UP (R475). -/
def portLeaves (s : State) (p st : Nat) : State :=
  let was := portState s p
  let s := (setPortState s p st).setF (rlyPort p) RLY_P_STATUS_PEER 0x3F
  if was ≠ 5 then s
  else
    let held := (s.port p).sendq
    let s := (s.setPort p PortSt.reset).addF (rlyPort p) RLY_P_DOWNS_COUNT 1
    let s := logEvent s 0x800C 0xFF 0xFF (myDev s) p 0 0
    held.foldl deadFlit (brokenPaths s)

/-- RLY_PORT_ENABLE: EN = 1 takes a port from DOWN to DETECT. -/
def portEnable (s : State) (p : Nat) : State :=
  let s := s.setF (rlyPort p) RLY_P_CTRL_EN 1
  if portState s p = 0 then setPortState s p 1 else s

/-- RLY_PORT_DISABLE: EN = 0 takes it DOWN. -/
def portDisable (s : State) (p : Nat) : State := portLeaves (s.setF (rlyPort p) RLY_P_CTRL_EN 0) p 0

/-- RLY_RETRAIN: back to DETECT. -/
def portRetrain (s : State) (p : Nat) : State := if portState s p < 2 then s else portLeaves s p 1

/-- A step of training from one state to another. An enabled port leaves DOWN by itself (log 138). -/
def portStep (s : State) (p a b : Nat) : State :=
  let st := portState s p
  if st = a ∨ (a = 1 ∧ st = 0 ∧ s.getF (rlyPort p) RLY_P_CTRL_EN = 1) then setPortState s p b else s

/-- TRAIN of this module for a port (Table 13.2). -/
def trainFlitOut (s : State) (p : Nat) : Flit :=
  mkFlit s 1 0 0 (natToBytes 1 (if isHead s || myDev s != 0 then myDev s else 0x3F) ++ natToBytes 1 p ++
    natToBytes 1 (if isHead s then 1 else 0) ++ natToBytes 1 (stepByte s)) [0]

/-- RLY_LOCK_DONE: ID is entered, and TRAIN flits are exchanged. -/
def lockDone (s : State) (p : Nat) : State :=
  if portState s p = 3 then emitFlit (setPortState s p 4) p (trainFlitOut s p) else s

/-- TRAIN_FLIT: the ends agree and the port is UP, or both are heads and it stays in ID and is logged (R460). -/
def trainFlit (s : State) (p w : Nat) : State :=
  let f := parseFlit w
  if f.kind ≠ 1 ∨ flitReserved w ∨ portState s p < 4 then s
  else arrives s p w fun s =>
    let num := bits (leAt f.args 0 1) 0 6
    let head := bit (leAt f.args 2 1) 0
    let old := s.getF (rlyPort p) RLY_P_STATUS_PEER
    let note := (s.setF (rlyPort p) RLY_P_STATUS_PEER num).setF (rlyPort p) RLY_P_STATUS_PEERPORT (leAt f.args 1 1)
    if portState s p = 5 then note
    else if head && isHead s then (if old = num then note else logEvent note 0x800C 0xFF 0xFF (myDev s) p 0 0)
    else (setPortState note p 5).setPort p PortSt.reset

/-! ### Replay (R458) -/

/-- Every flit not acknowledged is sent again, with the credits it carried; a flit's eighth replay in a row takes the port out of
UP. -/
def replay (s : State) (p : Nat) : State :=
  let x := s.port p
  if x.unacked.isEmpty then s
  else
    let l := x.unacked.map (fun u => (u.1, u.2 + 1))
    let s := (s.setPort p { x with unacked := l, ackT := now s }).addF (rlyPort p) RLY_P_REPLAY_COUNT l.length
    let s := l.foldl (fun t u => emitFlit t p { u.1 with ack := x.rx, nak := x.nak }) s
    if l.any (fun u => decide (8 ≤ u.2)) then portLeaves s p 1 else s

/-- REPLAY_TIMEOUT: no acknowledgement has come for 1 µs (R458). -/
def replayTimeout (s : State) (p : Nat) : State :=
  if portState s p ≠ 5 ∨ now s < (s.port p).ackT + 1000 then s else replay s p

/-- An acknowledgement at a time: flits up to it leave the replay buffer. -/
def ackTo (x : PortSt) (ack t : Nat) : PortSt :=
  match x.unacked.findIdx? (fun u => u.1.fseq = ack) with
  | some i => { x with unacked := x.unacked.drop (i + 1), ackT := t }
  | none => x

/-- The credits that a received flit returns, and what may leave by them (R456). -/
def takeCredits (s : State) (p : Nat) (f : Flit) : State :=
  let x := s.port p
  let caps := [16, 32, 64, 32]
  let cred := (List.range 4).map (fun v => min (caps.getD v 0) (x.cred.getD v 0 + bits f.cret (4 * v) 4))
  portDrain (s.setPort p { x with cred := cred }) p

/-- The acknowledgement and the NAK a received flit carries (R458). -/
def linkPart (s : State) (p : Nat) (f : Flit) : State :=
  let s := portDrain (s.setPort p (ackTo (s.port p) f.ack (now s))) p
  if f.nak then replay s p else s

/-- Codewords corrected since the last flit (R452). -/
def fecCount (s : State) (p : Nat) (ce : BitVec 4) : State := s.addF (rlyPort p) RLY_P_FEC_CE_COUNT ce.toNat

/-- A sequenced flit taken in order, with the credits it returns: nothing where it is discarded, and then its credits come with
its replay. -/
def inOrder (s : State) (p : Nat) (f : Flit) : Option State :=
  let x := s.port p
  if f.fseq = (x.rx + 1) % 65536 then some (takeCredits (s.setPort p { x with rx := f.fseq, nak := false }) p f)
  else none

/-- A sequenced flit out of order: one taken before is dropped, any other asks for a replay (R458). -/
def outOfOrder (s : State) (p : Nat) (f : Flit) : State :=
  if ((s.port p).rx + 65536 - f.fseq) % 65536 < 128 then s else flitDropped s p

/-- A freed buffer returns its credit (R456). -/
def freeBuffer (s : State) (p vc : Nat) : State :=
  let x := s.port p
  s.setPort p { x with ret := x.ret.set vc (x.ret.getD vc 0 + 1) }

/-- A flit of a kind arrives on a port that is UP: its link part, its place in order, then what it does here, or its buffer
until it is forwarded, or taken here once it need not wait. -/
def receive (s : State) (p w kind : Nat) (waits : State → Flit → Bool) (here : State → Flit → State) : State :=
  let f := parseFlit w
  if f.kind ≠ kind ∨ portState s p ≠ 5 ∨ flitReserved w then s
  else arrives s p w fun s =>
    let s := linkPart s p f
    if portState s p ≠ 5 then s
    else match inOrder s p f with
    | none => outOfOrder s p f
    | some s =>
      if f.dst ≠ myDev s ∧ kind ≠ 2 ∨ waits s f then s.setPort p { s.port p with bufs := (s.port p).bufs ++ [f] }
      else freeBuffer (here s f) p f.vc

/-- A flit that never waits here. -/
def atOnce (_s : State) (_f : Flit) : Bool := false

/-- IDLE_FLIT: credits and ACK only. -/
def idleFlit (s : State) (p w : Nat) : State :=
  let f := parseFlit w
  if f.kind ≠ 0 ∨ portState s p ≠ 5 ∨ flitReserved w then s
  else arrives s p w fun s => linkPart (takeCredits s p f) p f

/-- RESERVED_FLIT: acknowledged, discarded and counted (R455). One that is not numbered carries nothing to acknowledge. -/
def reservedFlit (s : State) (p w : Nat) : State :=
  let f := parseFlit w
  if portState s p < 4 ∨ !flitReserved w then s
  else arrives s p w fun s =>
    let s := linkPart s p f
    let count (t : State) : State := t.addF (rlyPort p) RLY_P_PROTO_COUNT 1
    if f.kind < 2 then count (takeCredits s p f)
    else match inOrder s p f with
    | some t => count (freeBuffer t p f.vc)
    | none => outOfOrder s p f

/-- CREDIT_RETURN: an IDLE flit carries credits that no other flit takes (R456). -/
def creditReturn (s : State) (p : Nat) : State :=
  if portState s p ≠ 5 ∨ (s.port p).ret.all (fun r => r = 0) then s
  else portXmit s p (mkFlit s 0 ((s.getF (rlyPort p) RLY_P_STATUS_PEER)) 0 [] [0])

/-! ### Commands and completions (R405, R465) -/

/-- CMD here: taken for execution, or answered RESETTING while the module resets. -/
def cmdHere (s : State) (f : Flit) : State :=
  let t : Taken := ⟨slice f.payload 0 64, 0, some f.src, false, 0, 0⟩
  if s.boot.scope ≠ 0 then
    let e := completionBytes (tkCID t) 0x5003 0 [] 0 (myDev s)
    (flitSend s (mkFlit s 0x11 f.src 0 [] (e ++ natToBytes 4 0))).2
  else acceptCommand s t

/-! ### The host-memory proxy (R466) -/

/-- MRD at the head: the read data go back as MCPL flits, one failed MCPL where the access fails. -/
def mrdHere (got : Option Bytes) (s : State) (f : Flit) : State :=
  if !isHead s then s
  else
    let addr := leAt f.args 0 8
    let len := leAt f.args 8 4
    let tag := leAt f.args 12 2
    let s := s.emit (.hostRead addr len false)
    let mcpl (s : State) (off bad : Nat) (d : Bytes) : State :=
      (flitSend s (mkFlit s 0x28 f.src 3 (slice [] 0 12 ++ natToBytes 2 tag ++ natToBytes 2 off ++ natToBytes 1 bad) d)).2
    match got with
    | none => mcpl s 0 1 [0]
    | some b =>
      ((cutBytes (len + 1) 192 (slice b 0 len)).foldl (fun (st : State × Nat) d => (mcpl st.1 st.2 0 d, st.2 + d.length)) (s, 0)).1

/-- MWR at the head. -/
def mwrHere (s : State) (f : Flit) : State :=
  if isHead s then s.emit (.hostWrite (leAt f.args 0 8) (flPayload f) false) else s

/-- IRQ at the head. -/
def irqHere (s : State) (f : Flit) : State := if isHead s then raiseVector s (leAt f.args 0 1 % 64) else s

/-! ### Relay streams (R469 to R472) -/

/-- FCRED here: the source may send so many bytes more of a stream slot's frame. -/
def fcredHere (s : State) (f : Flit) : State :=
  let k := 128 * f.src + leAt f.args 0 1 % 128
  relayPump { s with grants := s.grants.put k (SMap.get 0 s.grants k + leAt f.args 4 4) }

/-- The slot takes relay frames: bound with SRC 2. -/
def relaySlot (s : State) (k : Nat) : Bool := bound s k && fifSrc s k = 2

/-- The descriptor a relay frame header makes, with the upstream SEQ at 0x1C and FLAGS at 0x28. -/
def relayDesc (a : Bytes) : Bytes :=
  slice [] 0 8 ++ slice a 4 4 ++ slice [] 0 4 ++ slice a 24 8 ++ slice a 32 4 ++ slice a 8 4 ++ slice a 16 8 ++
    slice a 2 2 ++ slice [] 0 22

/-- A header that opens no frame yet: the previous frame is open on the write side, or the result ring has no room (R341,
R413). -/
def headerWaits (s : State) (f : Flit) : Bool :=
  let k := leAt f.args 0 1 % 128
  relaySlot s k && ((fifOpenFrame s k).isSome || decide (2 ^ (s.stream k).rsize ≤ fetchedFrames s k))

/-- A buffered flit of a relay stream comes from the source and for the stream slot of another. -/
def sameStream (f g : Flit) : Bool := g.src = f.src && leAt g.args 0 1 % 128 = leAt f.args 0 1 % 128

/-- A flit of a relay stream waits in its port's buffer (R456): a header that opens no frame yet; header and data behind one
that waits; the end of a frame whose header or data wait. An end of an earlier frame passes (log 137, DESIGN CHOICE). -/
def streamWaits (p : Nat) (s : State) (f : Flit) : Bool :=
  let l := (s.port p).bufs.filter (fun g => g.dst = myDev s && sameStream f g)
  f.dst = myDev s &&
    (match f.kind with
     | 0x30 => !l.isEmpty || headerWaits s f
     | 0x31 => !l.isEmpty
     | _ => l.any (fun g => g.kind = 0x30 && leAt g.args 8 4 = leAt f.args 4 4) || l.head?.any (fun g => g.kind = 0x31))

/-- FHDR here: it stands for the descriptor (R469), and is judged as one (R414); a slot that takes no relay frames discards and
logs it (R470), and so does one that is being closed (log 141, DESIGN CHOICE). -/
def fhdrHere (s : State) (f : Flit) : State :=
  let k := leAt f.args 0 1 % 128
  let d := relayDesc f.args
  let up := leAt f.args 2 2
  if !relaySlot s k || (s.stream k).closing != 0 then logEvent s 0x800B 0xFF 0xFF k f.src 0 0
  else if descOk s k d then
    fifGrant (fifOpen s k { newFFrame d 0 (fdINLEN d) with src := some f.src, upFlags := up, trel := leAt f.args 40 8 }) k
  else afterNotrun s (writeResult (publishBefore s k) k (fdUSER d) 0xFFFFFFFF 0 (fNotrun 0 ||| up) 0 false) k

/-- FDATA here: appended to the open frame of its source, under R342. Bytes that no grant covers are discarded as a write that
finds no room (R470; log 141, DESIGN CHOICE). -/
def fdataHere (s : State) (f : Flit) : State :=
  let k := leAt f.args 0 1 % 128
  let n := f.plen + 1
  if !relaySlot s k then s
  else if n % fifElem s k ≠ 0 ∨ (s.fifo k).granted < n then fifDrop s k true
  else
    let x := s.fifo k
    let s := s.setFifo k { x with granted := x.granted - n }
    match fifOpenFrame s k with
    | none => fifDrop s k true
    | some g => if g.src = some f.src then fifTake s k (flPayload f) else fifDrop s k true

/-- FEND here: the upstream flags of the frame; ABORTED makes its missing bytes zero (R472). -/
def fendHere (s : State) (f : Flit) : State :=
  let k := leAt f.args 0 1 % 128
  let seq := leAt f.args 4 4
  let fl := leAt f.args 8 2
  let x := s.fifo k
  let s := match x.frames.findIdx? (fun g => g.src = some f.src && leAt g.desc 0x1C 4 = seq && g.fend.isNone) with
    | none => s
    | some i =>
      match x.frames[i]? with
      | none => s
      | some g =>
        let s := s.setFifo k { x with frames := x.frames.set i { g with fend := some fl } }
        if bit fl fABORTED && !g.closed then fifClose (fifSpoil s k) k else s
  match s.frames.find? (fun g => g.slot = k && g.src = some f.src && leAt g.desc 0x1C 4 = seq && g.fend.isNone) with
  | none => s
  | some g => tryHold (setFrame s { g with fend := some fl }) k g.seq

/-! ### Forwarding and broken links (R456, R475) -/

/-- What a buffered flit of a relay stream does here. -/
def streamHere (s : State) (f : Flit) : State :=
  match f.kind with
  | 0x30 => fhdrHere s f
  | 0x31 => fdataHere s f
  | _ => fendHere s f

/-- A buffer of a port emptied of its flit. -/
def unbuffer (s : State) (p : Nat) (f : Flit) : State :=
  freeBuffer (s.setPort p { s.port p with bufs := (s.port p).bufs.erase f }) p f.vc

/-- The first buffered flit of a channel that is for this module and need wait no more: the first of its stream. -/
def takeable (s : State) (p vc : Nat) : Option Flit :=
  let l := (s.port p).bufs.filter (fun f => f.dst = myDev s && f.vc = vc)
  l.find? (fun f => (l.find? (sameStream f)).any (fun g => g == f) && (f.kind ≠ 0x30 || !headerWaits s f))

/-- FLIT_FORWARD: a flit that waited here is taken; else the first flit of a channel in a port's buffers goes on once the next
port grants a credit. -/
def flitForward (s : State) (p vc : Nat) : State :=
  match takeable s p vc with
  | some f => unbuffer (streamHere s f) p f
  | none =>
    match (s.port p).bufs.find? (fun f => f.vc = vc && f.dst ≠ myDev s) with
    | none => s
    | some f =>
      let q := routeTo s f.dst
      let gone := unbuffer s p f
      if 8 ≤ q ∨ !portUp s q then deadFlit gone f
      else if portMay s q f && (s.port q).sendq.all (fun g => g.vc ≠ f.vc) then portXmit gone q f
      else s

/-! ### SYNC (R474) -/

/-- SYNC_TIMER of a port: sender's time, the last SYNC received and its arrival. -/
def syncTimer (s : State) (p : Nat) : State :=
  if portState s p ≠ 5 then s
  else
    let x := s.port p
    let f := mkFlit s 2 (s.getF (rlyPort p) RLY_P_STATUS_PEER) 0 (natToBytes 8 (now s) ++ natToBytes 8 x.sync.1 ++ natToBytes 8 x.sync.2) [0]
    portDrain (s.setPort p { x with sendq := x.sendq ++ [f] }) p

/-- The correction a SYNC asks for: the sender's time and half the round trip measured, against the time of arrival. -/
def syncOffset (a : Bytes) (t4 : Nat) : Int :=
  let t3 : Int := leAt a 0 8
  let rtt : Int := ((t4 : Int) - leAt a 8 8) - (t3 - leAt a 16 8)
  t3 + rtt / 2 - t4

/-- SYNC here: on the port toward device 0 a downstream module corrects its time base, by a step while no plan slot is
RUNNING, and otherwise by a slew of 100 ppm, one nanosecond in every 10,000. -/
def syncHere (p : Nat) (s : State) (f : Flit) : State :=
  let t4 := now s
  let s := s.setPort p { s.port p with sync := (leAt f.args 0 8, t4) }
  if isHead s || routeTo s 0 != p || leAt f.args 8 8 = 0 then s
  else
    let d := syncOffset f.args t4
    let s := if (List.range 8).any (fun q => planState s q = 3) then { s with slew := d, slewN := 0 }
      else { s with timeBase := BitVec.ofInt 64 ((t4 : Int) + d), slew := 0 }
    (s.setF rlyBase RLY_SYNC_OFFSET (unsigned 16 (max (-32768) (min 32767 d)))).setF rlyBase RLY_SYNC_LOCKED 1

def execRlyPortEnable (p : Fin 8) (s : State) : Host.Outcome State Fault Refusal := live s (portEnable s p)
def execRlyPortDisable (p : Fin 8) (s : State) : Host.Outcome State Fault Refusal := live s (portDisable s p)
def execRlyRetrain (p : Fin 8) (s : State) : Host.Outcome State Fault Refusal := live s (portRetrain s p)
def execRlySignalDetect (p : Fin 8) (s : State) : Host.Outcome State Fault Refusal := live s (portStep s p 1 2)
def execRlyTrainingDone (p : Fin 8) (s : State) : Host.Outcome State Fault Refusal := live s (portStep s p 2 3)
def execRlyTrainingTimeout (p : Fin 8) (s : State) : Host.Outcome State Fault Refusal := live s (portStep s p 2 1)
def execRlyLockDone (p : Fin 8) (s : State) : Host.Outcome State Fault Refusal := live s (lockDone s p)
def execRlyLockTimeout (p : Fin 8) (s : State) : Host.Outcome State Fault Refusal := live s (portStep s p 3 1)
def execIdleFlit (p : Fin 8) (w : BitVec 2048) (ce : BitVec 4) (s : State) : Host.Outcome State Fault Refusal := live s (idleFlit (fecCount s p ce) p w.toNat)
def execTrainFlit (p : Fin 8) (w : BitVec 2048) (ce : BitVec 4) (s : State) : Host.Outcome State Fault Refusal := live s (trainFlit (fecCount s p ce) p w.toNat)
def execSyncFlit (p : Fin 8) (w : BitVec 2048) (ce : BitVec 4) (s : State) : Host.Outcome State Fault Refusal :=
  live s (receive (fecCount s p ce) p w.toNat 2 atOnce (syncHere p))
def execCmdFlit (p : Fin 8) (w : BitVec 2048) (ce : BitVec 4) (s : State) : Host.Outcome State Fault Refusal :=
  live s (receive (fecCount s p ce) p w.toNat 0x10 atOnce cmdHere)
def execCplFlit (p : Fin 8) (w : BitVec 2048) (ce : BitVec 4) (s : State) : Host.Outcome State Fault Refusal :=
  live s (receive (fecCount s p ce) p w.toNat 0x11 atOnce cplHere)
def execFcredFlit (p : Fin 8) (w : BitVec 2048) (ce : BitVec 4) (s : State) : Host.Outcome State Fault Refusal :=
  live s (receive (fecCount s p ce) p w.toNat 0x12 atOnce fcredHere)
/-- `got` is what the host read gives, none where it fails. -/
def execMrdFlit (p : Fin 8) (w : BitVec 2048) (ce : BitVec 4) (got : Option (List (BitVec 8))) (s : State) : Host.Outcome State Fault Refusal :=
  live s (receive (fecCount s p ce) p w.toNat 0x20 atOnce (mrdHere got))
def execMwrFlit (p : Fin 8) (w : BitVec 2048) (ce : BitVec 4) (s : State) : Host.Outcome State Fault Refusal :=
  live s (receive (fecCount s p ce) p w.toNat 0x21 atOnce mwrHere)
def execIrqFlit (p : Fin 8) (w : BitVec 2048) (ce : BitVec 4) (s : State) : Host.Outcome State Fault Refusal :=
  live s (receive (fecCount s p ce) p w.toNat 0x22 atOnce irqHere)
def execMcplFlit (p : Fin 8) (w : BitVec 2048) (ce : BitVec 4) (s : State) : Host.Outcome State Fault Refusal :=
  live s (receive (fecCount s p ce) p w.toNat 0x28 atOnce mcplHere)
def execFhdrFlit (p : Fin 8) (w : BitVec 2048) (ce : BitVec 4) (s : State) : Host.Outcome State Fault Refusal :=
  live s (receive (fecCount s p ce) p w.toNat 0x30 (streamWaits p) fhdrHere)
def execFdataFlit (p : Fin 8) (w : BitVec 2048) (ce : BitVec 4) (s : State) : Host.Outcome State Fault Refusal :=
  live s (receive (fecCount s p ce) p w.toNat 0x31 (streamWaits p) fdataHere)
def execFendFlit (p : Fin 8) (w : BitVec 2048) (ce : BitVec 4) (s : State) : Host.Outcome State Fault Refusal :=
  live s (receive (fecCount s p ce) p w.toNat 0x32 (streamWaits p) fendHere)
/-- `ue` tells that its codeword is uncorrectable; otherwise it fails its CRC (R454). -/
def execFlitCorrupt (p : Fin 8) (ue : Bool) (s : State) : Host.Outcome State Fault Refusal :=
  live s (if 4 ≤ portState s p then (if ue then flitLost s p else flitDropped s p) else s)
def execReplayTimeout (p : Fin 8) (s : State) : Host.Outcome State Fault Refusal :=
  live s (replayTimeout s p)
def execSyncTimer (p : Fin 8) (s : State) : Host.Outcome State Fault Refusal := live s (syncTimer s p)
def execCreditReturn (p : Fin 8) (s : State) : Host.Outcome State Fault Refusal := live s (creditReturn s p)
def execFlitForward (p : Fin 8) (vc : Fin 4) (s : State) : Host.Outcome State Fault Refusal := live s (flitForward s p vc)
def execReservedFlit (p : Fin 8) (w : BitVec 2048) (ce : BitVec 4) (s : State) : Host.Outcome State Fault Refusal :=
  live s (reservedFlit (fecCount s p ce) p w.toNat)

end Sys2Proof.Machine
end

