-- ==== Sys2Proof/Machine/Registers.lean ====
section
/-! DEFINITION. Reads and writes of registers by the steward, the host and the monitor (R12 to R14, R121, R283, R284), the
BAR0 and BAR2 windows (R397, R398, R400), configuration requests (R395, R480). -/

namespace Sys2Proof.Machine
open Sys2Proof
open Sys2Proof.Machine.Reg

/-! ### What a register reads as -/

/-- Registers of a core that show its units. -/
def coreView (s : State) (c o v : Nat) : Nat :=
  if o = 4 then setBits v 3 1 (if drained s c then 1 else 0)
  else if o = 0x1000 then (if stuEmpty s c then 1 else 0)
  else if 0x8000 ≤ o ∧ o < 0x8100 ∧ o % 0x40 = 0 then
    let p := (o - 0x8000) / 0x40
    portKind s c p + 4 * (s.inq c p).length + (if (SMap.find (s.core c).pass p).isSome then 16 else 0)
  else if 0x8400 ≤ o ∧ o < 0x8800 then
    let h := s.hq c ((o - 0x8400) / 0x40)
    let e := match h.held with
      | some x => x.toNat
      | none => 0
    match o % 0x40 with
    | 0x18 => h.entries.length + (if h.held.isSome then 2 ^ 7 else 0) + (if h.spilling then 2 ^ 8 else 0) + h.celCount * 2 ^ 16
    | 0x1C => bits e 0 32
    | 0x20 => bits e 32 32
    | _ => v
  else v

/-- Registers of a cluster that show its units. -/
def clusterView (s : State) (cl o v : Nat) : Nat :=
  if o = 0xC then
    ((List.range 8).filter (fun k => drained s (8 * cl + k))).foldl (fun n k => n + 2 ^ k) 0
  else if o = 0x3000 then freeSlots s cl + (s.cluster cl).rops.length * 2 ^ 10
  else if 0x4000 ≤ o ∧ o < 0x4100 ∧ o % 0x20 = 4 then (SMap.get [] (s.cluster cl).feeds ((o - 0x4000) / 0x20)).length
  else v

/-- No token moves anywhere and no command is taken (Table 14.5). -/
def deviceIdle (s : State) : Bool :=
  s.taken.isEmpty && s.edgeIn.isEmpty && s.cores.all (fun q =>
    q.2.inq.all (fun p => p.2.isEmpty) && q.2.pass.isEmpty && q.2.outp.isEmpty && q.2.orig.isEmpty)

/-- PWR_STATE (Table 14.10). -/
def powerView (s : State) (v : Nat) : Nat :=
  let ones (p : Nat → Bool) := ((List.range 4).filter p).foldl (fun n d => n + 2 ^ d) 0
  let hold := ((List.range 128).filter (fun c => bit (s.reg (pwrHub + 0x1C + 4 * (c / 32))) (c % 32))).length
  ones (dieOff s) + 16 * ones (dieShut s) + bits v 8 1 * 2 ^ 8 + (if deviceIdle s then 2 ^ 9 else 0) + hold * 2 ^ 10

/-- Security registers that show the fuses (Table 15.13). -/
def fuseView (s : State) (o v : Nat) : Nat :=
  if o < 0x100 then bits s.fuses (8 * o) 32
  else if o = 0x100 then bits s.fuses 2048 12 + fuseSVN s.fuses * 2 ^ 12
  else if o = 0x104 then bits s.fuses 2124 32
  else if o < 0x118 then bits s.fuses (2156 + 8 * (o - 0x108)) 32
  else v

/-- CAD_STATE of a plan slot (Table 1.3). -/
def cadView (s : State) (p v : Nat) : Nat :=
  let x := s.plan p
  let n := ((List.range 128).filter (fun k => (s.stream k).plan = some p)).length
  bits v 0 3 + (if heldByDie s p then 8 else 0) + (x.cfg % 16) * 16 + n * 256 + (if 16 ≤ x.cfg then 2 ^ 16 else 0)

/-- Registers of the hub that show its units. -/
def hubView (s : State) (o v : Nat) : Nat :=
  if 0x10000 ≤ o ∧ o < 0x10800 then (if o % 0x100 = 0x10 then cadView s ((o - 0x10000) / 0x100) v else v)
  else if o = 0x10800 then now s % 2 ^ 32
  else if 0x40000 ≤ o ∧ o < 0x48000 then
    let k := (o - 0x40000) / 0x100
    if o % 0x100 = 0xC then setBits v 0 17 (fifOcc s k)
    else if o % 0x100 = 0x18 then fifFree s k
    else v
  else if 0x48000 ≤ o ∧ o < 0x4A000 then
    let r := o % 0x400
    if 0x40 ≤ r ∧ r < 0x140 ∧ r % 0x20 = 0xC then
      (SMap.get [] (s.feed ((o - 0x48000) / 0x400)).credits ((r - 0x40) / 0x20)).length
    else v
  else if o = 0x3000C then 0
  else if o = 0x70018 then powerView s v
  else if 0x80000 ≤ o ∧ o < 0x90000 then fuseView s (o - 0x80000) v
  else v

/-- The flat core and cluster numbers of a window address. -/
def coreOfAddr (a : Nat) : Nat := 32 * bits a 40 2 + 8 * bits a 36 4 + bits a 32 4
def clusterOfAddr (a : Nat) : Nat := 4 * bits a 40 2 + bits a 36 4

/-- The device address of an aligned BAR0 offset: the CAD and FIF aliases, and the MBX block. -/
def bar0Addr (n : Nat) : Nat :=
  if 0x3000 ≤ n ∧ n < 0x4000 then hubWin + 0x10000 + (n - 0x3000)
  else if 0x8000 ≤ n then hubWin + 0x40000 + (n - 0x8000)
  else hubWin + n

/-- The address of a register word whose place in the MBX block is an alias of another hub block (Table 11.3). -/
def aliasOf (a : Nat) : Nat := if hubWin ≤ a ∧ a < hubWin + 0x10000 then bar0Addr (a - hubWin) else a

/-- The value a read of a register word returns; reserved bits are zero (R13). -/
def regView (s : State) (a : Nat) : Nat :=
  let a := aliasOf a
  match windowOf a with
  | some (.core, o) => coreView s (coreOfAddr a) o (s.reg a)
  | some (.cluster, o) => clusterView s (clusterOfAddr a) o (s.reg a)
  | some (.hub, o) => hubView s o (s.reg a)
  | some (.die, _) => s.reg a
  | none => 0

/-! ### Reads (R12, R30, R121) -/

/-- The RC fields of a word that hold a measure: a largest or smallest value, a number of bytes, nanoseconds or
microseconds. -/
def rcMeasure (w : Win) (o : Nat) : Bool :=
  match w with
  | .core => decide (0x8400 ≤ o) && o % 0x40 = 0x30
  | .cluster => o = 0x301C
  | .die => o = 0x2004 || o = 0x200C || o = 0x2018
  | .hub => (decide (o < 0x11000) && o % 0x100 = 0x1C) || (decide (0x20000 ≤ o) && decide (o < 0x20200) && o % 0x40 = 0x20) ||
      (decide (0x40000 ≤ o) && decide (o < 0x48000) && o % 0x100 = 0x20) ||
      (decide (0x48000 ≤ o) && decide (o < 0x4A000) && o % 0x400 = 0x10)

/-- The RC fields of a word return to their reset value. What the hardware records in the same moment takes effect (R14): a
counter is left at 1 (R121), a measure at the value recorded. -/
def clearRC (s : State) (a : Nat) (inc : Option (BitVec 32)) : State :=
  match windowOf a with
  | none => s
  | some (w, o) =>
    let m := accMask a .rc
    if m = 0 then s
    else
      let v := match inc with
        | none => resetWord a &&& m
        | some n => if rcMeasure w o then n.toNat &&& m else 1
      s.setReg a ((s.reg a &&& (2 ^ 32 - 1 - m)) + v)

/-- A read of a register word with its side effects. -/
def regRead (s : State) (a : Nat) (inc : Option (BitVec 32)) : Nat × State :=
  let a := aliasOf a
  let v := regView s a
  if a = hubWin + 0x10800 then (v, s.setReg (hubWin + 0x10804) (now s / 2 ^ 32))
  else (v, clearRC s a inc)

/-! ### Writes (R12, R14) -/

/-- Registers of a transaction unit (Table 12.10). -/
def txuRegWrite (s : State) (u o a v : Nat) : State :=
  if o = 0 then
    let s := if bit v 0 then txuCommit s u else s
    if bit v 1 then txuClear s u else s
  else if o = 0x10 then txuFence s u (bits v 8 8)
  else if 0x100 ≤ o ∧ o < 0x500 then txuActWrite s u ((o - 0x100) / 16) (o % 16 / 4) v
  else s.writePlain a v

/-- Registers of a core. -/
def coreRegWrite (s : State) (c o a v : Nat) : State :=
  if isCoreConfig o then coreConfigWrite s c o v
  else if 0x4000 ≤ o ∧ o < 0x4800 ∧ o % 0x100 = 8 then engSeedWrite s c ((o - 0x4000) / 0x100) v
  else if o = 0x6000 then bankCtrlWrite s (c / 32) (c % 32) v
  else s.writePlain a v

/-- Registers of a cluster. -/
def clusterRegWrite (s : State) (cl o a v : Nat) : State :=
  if o < 0x1000 then txuRegWrite s cl o a v
  else if 0x2000 ≤ o ∧ o < 0x3000 then mvrRegWrite s cl ((o - 0x2000) / 0x100) (o % 0x100) a v
  else if o = 0x6000 then bankCtrlWrite s (cl / 4) (32 + cl % 4) v
  else match gustMaskAt o with
    | some ch => gustMaskWrite s cl ch v
    | none => s.writePlain a v

/-- A vector that is pending and no longer held back is sent (R423). -/
def sendPending (s : State) (n : Nat) : State :=
  let p := hubWin + 0x4800 + 4 * (n / 32)
  if bit (s.reg p) (n % 32) && !vectorMasked s n then raiseVector (s.setReg p (setBits (s.reg p) (n % 32) 1 0)) n else s

/-- The MSI-X table: a vector unmasked while it is pending is sent (R423). -/
def msixWrite (s : State) (o a v : Nat) : State :=
  let s := s.writePlain a v
  let n := (o - 0x4000) / 16
  if o % 16 = 12 then sendPending s n else s

/-- Registers and aperture of an ingest FIFO (R342, R349). -/
def fifRegWrite (s : State) (k o a v : Nat) : State :=
  if o < 0xC then fifConfigWrite s k (o / 4) v
  else if o = 0xC then fifPend (s.writePlain a v) k
  else if 0x80 ≤ o then fifAperture s k (o - 0x80) (natToBytes 4 v)
  else s

/-- A write through the FIF alias: only W1C bits and the apertures are written (R398). -/
def fifAliasWrite (s : State) (o v : Nat) : State :=
  if o % 0x100 < 0xC then s else fifRegWrite s (o / 0x100) (o % 0x100) (hubWin + 0x40000 + o) v

/-- Registers of the mailbox (Tables 11.4, 11.5, 11.7, 15.7). -/
def mbxWrite (s : State) (o a v : Nat) : State :=
  if o = 0x1008 then (if bit v 4 then crEnable s (bits v 0 4) else crDisable s (bits v 0 4))
  else if o = 0x101C then (if bit v 4 then ccEnable s (bits v 0 4) else ccDisable s (bits v 0 4))
  else if o = 0x1000 ∨ o = 0x1004 then (if crOn s then s else s.writePlain a v)
  else if o = 0x1014 ∨ o = 0x1018 then (if ccOn s then s else s.writePlain a v)
  else if o = 0x100C then crTailWrite s v
  else if o = 0x1020 then ccHeadWrite s v
  else if 0x2000 ≤ o ∧ o < 0x2800 then
    let k := (o - 0x2000) / 16
    if o % 16 = 0 then frTailWrite s k v else if o % 16 = 8 then rrHeadWrite s k v else s
  else if o = 0x10C then (if bit v 0 then hostBootGo s else s)
  else if 0x4000 ≤ o ∧ o < 0x4400 then msixWrite s o a v
  else if 0x3000 ≤ o ∧ o < 0x4000 then s.writePlain (bar0Addr o) v
  else if 0x8000 ≤ o then fifAliasWrite s (o - 0x8000) v
  else s.writePlain a v

/-- Registers of a relay port (R457). -/
def rlyWrite (s : State) (o v : Nat) : State :=
  let p := o / 0x100
  if o < 0x800 ∧ o % 0x100 = 4 then
    let was := s.getF (rlyPort p) RLY_P_CTRL_EN
    let s := if bit v 0 then portEnable s p else (if was = 0 then s else portDisable s p)
    if bit v 1 then portRetrain s p else s
  else s

/-- The monitor is locked (R537): its challenge is discarded. -/
def monitorLock (s : State) : State :=
  dropChallenge (s.setF dbgBase DBG_STATUS_LOCKED 1)

/-- Registers of the hub. -/
def hubRegWrite (s : State) (o a v : Nat) : State :=
  if o < 0x10000 then mbxWrite s o a v
  else if 0x30000 ≤ o ∧ o < 0x31000 then txuRegWrite s 16 (o - 0x30000) a v
  else if 0x40000 ≤ o ∧ o < 0x48000 then fifRegWrite s ((o - 0x40000) / 0x100) (o % 0x100) a v
  else if 0x50000 ≤ o ∧ o < 0x52000 then mvrRegWrite s 16 ((o - 0x50000) / 0x100) (o % 0x100) a v
  else if 0x60000 ≤ o ∧ o < 0x70000 then rlyWrite s (o - 0x60000) v
  else if 0x70008 ≤ o ∧ o < 0x70018 then vsetWrite s ((o - 0x70008) / 4) (v % 1024)
  else if o = 0x70030 then wdogKick s
  else if o = 0x90008 then (if bit v 0 then monitorLock s else s)
  else s.writePlain a v

/-- What a write of a register word does, but for what a commit group leaves to do. -/
def regEffect (s : State) (a v : Nat) : State :=
  match windowOf a with
  | some (.core, o) => coreRegWrite s (coreOfAddr a) o a v
  | some (.cluster, o) => clusterRegWrite s (clusterOfAddr a) o a v
  | some (.hub, o) => hubRegWrite s o a v
  | some (.die, _) => s.writePlain a v
  | none => s

/-- Work that may apply a commit group, and the hub register writes of that group carried out after it (R427); none of them starts a
group. -/
def carryOut (s : State) (work : State → State) : State :=
  let t := work { s with writes := [] }
  { t.writes.foldl (fun u w => regEffect u w.1 w.2) { t with writes := [] } with writes := s.writes }

/-- A write of a register word. -/
def regWrite (s : State) (a v : Nat) : State := carryOut s (fun t => regEffect t a v)

/-- What the steward alone writes of the relay registers, which read as RO elsewhere: ROUTE, OUT and TIMED (R476). -/
def rlyStewardMask (o : Nat) : Nat :=
  if o % 4 ≠ 0 then 0
  else if 0x804 ≤ o ∧ o < 0x824 ∨ 0xA40 ≤ o ∧ o < 0xA50 then 2 ^ 32 - 1
  else if 0xA00 ≤ o ∧ o < 0xA40 then (if o % 8 = 0 then 2 ^ 14 - 1 else 2 ^ 27 - 1)
  else 0

/-- A write of a register word by the steward: a route that goes breaks what went by it (R475, R476). -/
def stewardRegWrite (s : State) (a v : Nat) : State :=
  let m := if rlyBase ≤ a then rlyStewardMask (a - rlyBase) else 0
  if m = 0 then regWrite s a v
  else
    let s := s.setReg a (v &&& m)
    if a < rlyBase + 0xA00 then brokenPaths s else s

/-! ### BAR0 (R397, R398) -/

/-- A write through BAR0: the MBX block. -/
def bar0Write (s : State) (n v : Nat) : State := regWrite s (hubWin + n) v

/-- A write of v at the moment in which the hardware sets the W1C bits `sets` of the word: they stay set (R14). `write` is the
write without them. -/
def coincide (s : State) (a v sets : Nat) (write : State → Nat → State) : State :=
  let k := sets &&& accMask a .w1c
  if k = 0 then write s v else write (s.setReg a (s.reg a ||| k)) (v &&& (2 ^ 32 - 1 - k))

/-- A register word that takes 32-bit accesses: the gust feed windows take whole lines (R283). -/
def wordReg (s : State) (a : Nat) : Bool := a % 4 = 0 && reachable s a && (windowOf a).isSome && (feedWindow a).isNone

/-- A Completer Abort logged in AER as an advisory non-fatal error: both status registers, and where it is not masked the
message, which raises vector 1 (R397, R423; log 132). -/
def aerAdvisory (s : State) : State :=
  let u := cfgHeld s cfgAERU 0
  let c := cfgHeld s cfgAERC 0
  let s := { s with cfgSpace := (s.cfgSpace.put cfgAERU (BitVec.ofNat 32 (u ||| 2 ^ 15))).put cfgAERC (BitVec.ofNat 32 (c ||| 2 ^ 13)) }
  if bit (cfgHeld s (cfgAERC + 4) cfgAERMask) 13 then s else raiseVector (s.emit .aerAdvisory) 1

/-- BAR0_INVALID_ACCESS: an access of another width or alignment (R397). -/
def bar0Invalid (s : State) (write : Bool) : State :=
  if !endpointUp s then s
  else aerAdvisory (if write then s else s.emit .completerAbort)

/-- The steward's access to an address that is no register word: a bus error, unless memory stands there (R283, R284). -/
def noRegister (s : State) (a : Nat) : State :=
  if reachable s a && placeOf a != .dieReg && placeOf a != .hubReg then s else logBusError s a

/-- REGISTER_WRITE: by the host at a BAR0 offset, or by the steward at a device address. -/
def registerWrite (s : State) (host : Bool) (a v sets : Nat) : State :=
  if host then
    if !endpointUp s || decide (0x10000 ≤ a) then s
    else if a % 4 ≠ 0 then bar0Invalid s true
    else coincide s (bar0Addr a) v sets (fun t w => bar0Write t a w)
  else if !stewardUp s then s
  else if wordReg s a then coincide s (aliasOf a) v sets (fun t w => stewardRegWrite t a w)
  else noRegister s a

/-- A register read by the host at a BAR0 offset, or by the steward at a device address. -/
def registerRead (s : State) (host : Bool) (a : Nat) (inc : Option (BitVec 32)) : State :=
  if host then
    if !endpointUp s || decide (0x10000 ≤ a) then s
    else if a % 4 ≠ 0 then bar0Invalid s false
    else
      let r := regRead s (bar0Addr a) inc
      r.2.emit (.readData (natToBytes 4 r.1))
  else if !stewardUp s then s
  else if wordReg s a then (regRead s a inc).2
  else noRegister s a

/-- CAD_TIME_LO_READ: through BAR0, or by the steward. -/
def timeLoRead (s : State) (host : Bool) : State :=
  registerRead s host (if host then 0x3800 else hubWin + 0x10800) none

/-! ### BAR2 (R400) -/

/-- The device address of a byte of BAR2. -/
def bar2Addr (s : State) (n : Nat) : Nat :=
  s.getF hubWin MBX_BAR2_HI_ADDR * 2 ^ 32 + s.getF hubWin MBX_BAR2_LO_ADDR * 2 ^ 28 + n

/-- The places BAR2 reaches. -/
def bar2Maps (s : State) (a : Nat) : Bool :=
  reachable s a && (match placeOf a with
    | .lpddr _ | .scratch _ | .cmem _ | .dieReg => true
    | _ => false)

/-- A register access is one aligned word, or two (R283). -/
def regAligned (a len : Nat) : Bool :=
  ((len = 4 && a % 4 = 0) || (len = 8 && a % 8 = 0)) && (feedWindow a).isNone

/-- An access that waits, with the instruction that asked for it (R291). -/
def stuckAt (s : State) (a : Nat) (i : Instr) : State := { s with stuck := s.stuck ++ [(a, i)] }

/-- Register words read in ascending order. -/
def regReads (s : State) (a : Nat) : Nat → Bytes × State
  | 0 => ([], s)
  | n + 1 =>
    let r := regRead s a none
    let t := regReads r.2 (a + 4) n
    (natToBytes 4 r.1 ++ t.1, t.2)

/-- Register words written in ascending order. -/
def regWrites (s : State) (a : Nat) : Bytes → Nat → State
  | _, 0 => s
  | b, n + 1 => regWrites (regWrite s a (leAt b 0 4)) (a + 4) (b.drop 4) n

/-- BAR2_READ. An access to a group in retention waits until it is awake (R291). -/
def bar2Read (s : State) (n : BitVec 28) (len : Fin 4097) : State :=
  let i : Instr := .bar2Read n len
  let n := n.toNat
  let len := len.val
  if !endpointUp s || len = 0 then s
  else if s.getF hubWin MBX_BAR2_CTRL_EN = 0 then s.emit (.readData (List.replicate len 0))
  else
    let a := bar2Addr s n
    if !bar2Maps s a || !bar2Maps s (a + len - 1) || placeOf a != placeOf (a + len - 1) then (logBusError s a).emit .completerAbort
    else if placeOf a = .dieReg then
      if regAligned a len then
        let r := regReads s a (len / 4)
        r.2.emit (.readData r.1)
      else (logBusError s a).emit .completerAbort
    else match asleep s a len with
    | some t => stuckAt t a i
    | none =>
      match memRead s a len with
      | (.ok b, t) => t.emit (.readData b)
      | (.ue l, t) => (logUncorrectable t l 8 0xFF).emit .completerAbort
      | (.bus, t) => (logBusError t a).emit .completerAbort

/-- Whole lines written to a gust feed window; where its buffer has no room for them the write is not taken yet (R259). -/
def feedLines (s : State) (a : Nat) (b : Bytes) : State :=
  match feedWindow a with
  | none => s
  | some (cl, ch, o) =>
    if a % 64 ≠ 0 ∨ b.length % 64 ≠ 0 then logBusError s a
    else if !mvrRoom s a b.length then s
    else (List.range (b.length / 64)).foldl (fun t i => gustFeed t cl ch (o + 64 * i) (slice b (64 * i) 64)) s

/-- BAR2_WRITE. -/
def bar2Write (s : State) (n : BitVec 28) (b : Bytes) : State :=
  let i : Instr := .bar2Write n b
  let n := n.toNat
  if !endpointUp s || b.isEmpty || s.getF hubWin MBX_BAR2_CTRL_EN = 0 || s.getF hubWin MBX_BAR2_CTRL_WEN = 0 then s
  else
    let a := bar2Addr s n
    let e := a + b.length - 1
    if !bar2Maps s a || !bar2Maps s e || placeOf a != placeOf e then logBusError s a
    else if (feedWindow a).isSome then feedLines s a b
    else if placeOf a = .dieReg then (if regAligned a b.length then regWrites s a b (b.length / 4) else logBusError s a)
    else match asleep s a b.length with
    | some t => stuckAt t a i
    | none =>
      match memWrite s a b with
      | (.ue l, t) => logUncorrectable t l 8 0xFF
      | (_, t) => t

/-! ### Configuration space (R395, R480) -/

/-- A dword of the configuration space: the header of Table 11.2, and the capabilities of Table 11.1 at the places this model gives
them (log 132, PRESUMED); none where the spec gives no value. -/
def cfgView (s : State) (o : Nat) : Option Nat :=
  match o with
  | 0x00 => some 0xD1281F2D
  | 0x04 => some (cfgHeld s 0x04 0 + 2 ^ 20)
  | 0x08 => some (0x12000000 + stepByte s)
  | 0x10 => some (cfgHeld s 0x10 0 / 2 ^ 16 * 2 ^ 16 + 4)
  | 0x14 => some (cfgHeld s 0x14 0)
  | 0x18 => some (cfgHeld s 0x18 0 / 2 ^ 28 * 2 ^ 28 + 0xC)
  | 0x1C => some (cfgHeld s 0x1C 0)
  | 0x20 => some 0
  | 0x24 => some 0
  | 0x2C => some (cfgHeld s 0x2C 0x1F2D)
  | 0x30 => some 0
  | 0x34 => some 0x40
  | 0x3C => some (cfgHeld s 0x3C 0 % 256)
  -- power management: D0 and D3hot alone, no PME
  | 0x40 => some 0x00035001
  | 0x44 => some (cfgHeld s 0x44 0)
  -- MSI-X: 64 vectors, the table and the pending bits in BAR0
  | 0x50 => some (0x003F7011 + cfgHeld s cfgMSIX 0)
  | 0x54 => some 0x4000
  | 0x58 => some 0x4800
  -- PCI Express: an endpoint, message number 1, payloads of 512 bytes, Function Level Reset
  | 0x70 => some 0x02020010
  | 0x74 => some 0x10008022
  | 0x78 => some (cfgHeld s cfgDEVCTL devctlReset)
  -- Completion Timeout ranges A to D and its disable, LTR, 10-bit tags
  | 0x94 => some 0x0003081F
  | 0x98 => some (cfgHeld s 0x98 0)
  -- Advanced Error Reporting
  | 0x100 => some 0x14020001
  | 0x104 => some (cfgHeld s cfgAERU 0)
  | 0x108 => some (cfgHeld s 0x108 0)
  | 0x10C => some (cfgHeld s 0x10C 0x00462030)
  | 0x110 => some (cfgHeld s cfgAERC 0)
  | 0x114 => some (cfgHeld s (cfgAERC + 4) cfgAERMask)
  -- Device Serial Number, and the Data Object Exchange behind it
  | 0x140 => some 0x15010003
  | 0x144 => some (Config.serialNumber.toNat % 2 ^ 32)
  | 0x148 => some (Config.serialNumber.toNat / 2 ^ 32)
  | 0x150 => some 0x0001002E
  | _ => none

/-- The bits of a dword of the configuration space that a write sets: the command register, the BARs, the interrupt line, the
power state, Function Mask and Enable of MSI-X, Device Control, Device Control 2, the AER masks and severities. -/
def cfgWritable (o : Nat) : Nat :=
  match o with
  | 0x04 => 0x546
  | 0x10 | 0x14 | 0x18 | 0x1C => 2 ^ 32 - 1
  | 0x3C => 0xFF
  | 0x44 => 3
  | 0x50 => 0xC0000000
  | 0x78 => 0xFFFF
  | 0x98 => 0x141F
  | 0x108 | 0x10C => 0x07FFF010
  | 0x114 => 0xF1C1
  | _ => 0

/-- The status registers of AER: a write of one clears a bit. -/
def cfgClears (o : Nat) : Bool := o = cfgAERU || o = cfgAERC

/-- A dword of the configuration space written. D1 and D2 are not taken (Table 11.1), and a vector that pends and is not held back any
more is sent. -/
def cfgWrite (s : State) (o v : Nat) : State :=
  let m := cfgWritable o
  if cfgClears o then
    { s with cfgSpace := s.cfgSpace.put o (BitVec.ofNat 32 (cfgHeld s o 0 &&& (2 ^ 32 - 1 - v % 2 ^ 32))) }
  else if m = 0 ∨ (o = 0x44 ∧ (v % 4 = 1 ∨ v % 4 = 2)) then s
  else
    let s := { s with cfgSpace := s.cfgSpace.put o (BitVec.ofNat 32 (v &&& m)) }
    if o = cfgMSIX then (List.range 64).foldl sendPending s else s

/-- CONFIGURATION_REQUEST at a dword offset; `ready` tells that the configuration space has become ready. -/
def configurationRequest (s : State) (write : Bool) (o v : Nat) (ready : Bool) : State :=
  if !endpointUp s || o % 4 ≠ 0 then s
  else
    let s := if ready then { s with boot := { s.boot with cfgReady := true } } else s
    if !s.boot.cfgReady then s.emit .configRetry
    else if write then cfgWrite s o v
    else match cfgView s o with
      | some d => s.emit (.readData (natToBytes 4 d))
      | none =>
        { s with fresh := s.fresh + 1 }.emit (.readData (natToBytes 4 (Config.cfgDword o s.fresh).toNat))

def execCadTimeLoRead (host : Bool) (s : State) : Host.Outcome State Fault Refusal := live s (timeLoRead s host)
def execReadClear (host : Bool) (a : BitVec 48) (inc : Option (BitVec 32)) (s : State) : Host.Outcome State Fault Refusal :=
  live s (registerRead s host a.toNat inc)
def execRegisterWrite (host : Bool) (a : BitVec 48) (v sets : BitVec 32) (s : State) : Host.Outcome State Fault Refusal :=
  live s (registerWrite s host a.toNat v.toNat sets.toNat)
def execBar0InvalidAccess (write : Bool) (s : State) : Host.Outcome State Fault Refusal := live s (bar0Invalid s write)
def execBar2Read (n : BitVec 28) (len : Fin 4097) (s : State) : Host.Outcome State Fault Refusal :=
  live s (bar2Read s n len)
def execBar2Write (n : BitVec 28) (data : Bytes) (s : State) : Host.Outcome State Fault Refusal :=
  live s (bar2Write s n data)
def execConfigurationRequest (write : Bool) (o : BitVec 12) (v : BitVec 32) (ready : Bool) (s : State) :
    Host.Outcome State Fault Refusal := live s (configurationRequest s write o.toNat v.toNat ready)

def execTxuCommit (u : Fin 17) (s : State) : Host.Outcome State Fault Refusal := live s (carryOut s (fun t => txuCommit t u))
def execTxuVote (k : Nat) (s : State) : Host.Outcome State Fault Refusal := live s (awaited s (carryOut s (fun t => txuVote t k)))

end Sys2Proof.Machine
end

