-- ==== Sys2Proof/Machine/Monitor.lean ====
section
/-! DEFINITION. The Tapster monitor (R526 to R538): command lines, answers, the lock, fuses. -/

namespace Sys2Proof.Machine
open Sys2Proof
open Sys2Proof.Machine.Reg

/-! ### Text (R528) -/

/-- A character of a hex digit. -/
def hexChar (d : Nat) : Byte := BitVec.ofNat 8 (if d < 10 then 48 + d else if Config.hexSmall then 87 + d else 55 + d)

/-- w hex digits of a number, the highest first. -/
def hexText : Nat → Nat → Bytes
  | 0, _ => []
  | w + 1, n => hexChar (n / 16 ^ w % 16) :: hexText w n

/-- At least w hex digits of a number, and as many as it needs. -/
def hexWide (w n : Nat) : Bytes := hexText (max w (n.log2 / 4 + 1)) n

/-- Bytes as hex, two digits each, in order. -/
def hexBytes (b : Bytes) : Bytes := b.flatMap (fun x => hexText 2 x.toNat)

/-- The value of a hex digit. -/
def hexValue (c : Byte) : Option Nat :=
  let n := c.toNat
  if 48 ≤ n ∧ n ≤ 57 then some (n - 48) else if 65 ≤ n ∧ n ≤ 70 then some (n - 55)
  else if 97 ≤ n ∧ n ≤ 102 then some (n - 87) else none

/-- The digits of a word; underscores are ignored. -/
def hexDigits (w : Bytes) : Option (List Nat) :=
  let d := (w.filter (fun c => c ≠ 95)).map hexValue
  if d.isEmpty || d.any (·.isNone) then none else some (d.filterMap id)

/-- A number. -/
def hexNumber (w : Bytes) : Option Nat := (hexDigits w).map (fun l => l.foldl (fun n d => 16 * n + d) 0)

def pairUp : List Nat → Bytes
  | a :: b :: t => BitVec.ofNat 8 (16 * a + b) :: pairUp t
  | _ => []

/-- A byte string: an even number of digits. -/
def hexString (w : Bytes) : Option Bytes :=
  match hexDigits w with
  | some l => if l.length % 2 = 0 then some (pairUp l) else none
  | none => none

/-- The words of a line, split at spaces. -/
def splitWords : Bytes → Bytes → List Bytes
  | [], w => if w.isEmpty then [] else [w]
  | c :: t, w => if c = 32 then (if w.isEmpty then splitWords t [] else w :: splitWords t []) else splitWords t (w ++ [c])

def words (l : Bytes) : List Bytes := splitWords l []

/-- The numbers of a line of arguments, none if a word is no number. -/
def numbers (l : Bytes) : Option (List Nat) :=
  let d := (words l).map hexNumber
  if d.any (·.isNone) then none else some (d.filterMap id)

/-! ### Answers (R528, R530) -/

def crlf : Bytes := [13, 10]

/-- Data lines, the final line, the prompt. -/
def monAnswer (s : State) (lines : List Bytes) (final : Bytes) : State :=
  s.emit (.uart (lines.flatMap (· ++ crlf) ++ final ++ crlf ++ [62, 32]))

def monOk (s : State) (lines : List Bytes) : State := monAnswer s lines [79, 75]

/-- ER nn with its extra field. -/
def monErr (s : State) (code : Nat) (extra : Bytes) : State :=
  monAnswer s [] ([69, 82, 32] ++ hexText 2 code ++ (if extra.isEmpty then [] else 32 :: extra))

def monLocked (s : State) : Bool := s.getF dbgBase DBG_STATUS_LOCKED = 1

/-- A command executed is counted. -/
def monCount (s : State) : State := s.addF dbgBase DBG_CMDS_COUNT 1

/-- A command accepted while locked. -/
def monOpen (s : State) (f : State → State) : State := if benchUp s then f s else s

/-- A command refused while locked (R530). -/
def monGuard (s : State) (f : State → State) : State :=
  monOpen s (fun s => if monLocked s then monErr s 4 [] else f s)

/-- A command without arguments. -/
def noArgs (s : State) (args : Bytes) (f : State → State) : State :=
  if (words args).isEmpty then f s else monErr s 2 []

/-- The bus error of a monitor access, charged as the steward's (R284, R531). -/
def monBusError (s : State) (a : Nat) : State := monCount (monErr (logBusError s a) 5 (hexWide 12 a))

/-! ### Commands accepted while locked -/

/-- The commands of Table 16.1. -/
def monNames : List Bytes :=
  ["HELP", "ID", "STAT", "BAUD", "CHAL", "RSP", "UNLK", "LOCK", "RD", "PK", "WR", "MRD", "MWR", "LOG", "FUSE", "BURN"].map
    (fun t => t.toList.map (fun c => BitVec.ofNat 8 c.toNat))

/-- HELP lists the commands, one a line (Table 16.1; log 66). -/
def monHelp (s : State) (args : Bytes) : State :=
  monOpen s (fun s => noArgs s args (fun s => monCount (monOk s monNames)))

def monId (s : State) (args : Bytes) : State :=
  monOpen s (fun s => noArgs s args (fun s => monCount (monOk s
    [hexText 8 (idcode s), hexText 2 (stepByte s), hexText 32 (bits s.fuses 2156 128), hexText 8 (regView s (hubWin + 8)),
      hexText 8 (regView s (hubWin + 0x100)), hexText 8 (regView s (hubWin + 0x104))])))

def monStat (s : State) (args : Bytes) : State :=
  monOpen s (fun s => noArgs s args (fun s => monCount (monOk s
    [hexText 8 (regView s (hubWin + 4)), (List.range 8).flatMap (fun p => hexText 1 (planState s p)),
      hexText 8 (regView s (pwrHub + 0x18)), hexText 8 (regView s (pwrHub + 0x34)), hexText 8 (regView s dbgBase)])))

/-- BAUD (R529). -/
def monBaud (s : State) (args : Bytes) : State :=
  monOpen s (fun s => match numbers args with
    | some [n] => if n < 8 then (monCount (monOk s [])).setF dbgBase DBG_UART_BAUD n else monErr s 2 []
    | _ => monErr s 2 [])

/-- The challenge record (Table 16.2). -/
def challengeRecord (s : State) (nonce : Bytes) : Bytes :=
  natToBytes 4 0x43545A47 ++ natToBytes 2 1 ++ [0, 0] ++ natToBytes 16 (bits s.fuses 2156 128) ++ nonce ++
    natToBytes 8 (now s) ++ natToBytes 4 (bits s.fuses 2124 32) ++ natToBytes 1 (stepByte s) ++ slice [] 0 59

/-- A lockout ends 60 s after it began, a challenge 600 s after its issue. -/
def lockoutNs : Nat := 60 * 10 ^ 9
def challengeNs : Nat := 600 * 10 ^ 9

/-- CHAL (R534, R536). -/
def monChal (s : State) (args : Bytes) : State :=
  monOpen s (fun s => noArgs s args (fun s =>
    match s.mon.lockout with
    | some t => monCount (monErr s 8 (hexText 2 (ceilDiv (lockoutNs - (now s - t)) (10 ^ 9))))
    | none =>
      let nonce := (List.range 8).flatMap (fun i => natToBytes 4 (Config.entropy (s.fresh + i)).toNat)
      let r := challengeRecord s nonce
      let s := { s with fresh := s.fresh + 8
                        mon := { s.mon with chal := some (r, now s), resp := List.replicate 1024 0 } }
      monCount (monOk (s.setF dbgBase DBG_STATUS_CHAL 1)
        ((List.range 4).map (fun i => hexBytes (slice r (32 * i) 32))))))

/-- RSP (Table 16.1). -/
def monRsp (s : State) (args : Bytes) : State :=
  monOpen s (fun s => match words args with
    | [o, h] =>
      match hexNumber o, hexString h with
      | some off, some b =>
        if 1 ≤ b.length ∧ b.length ≤ 64 ∧ off + b.length ≤ 1024 then
          monCount (monOk { s with mon := { s.mon with resp := patch s.mon.resp off b } } [])
        else monErr s 2 []
      | _, _ => monErr s 2 []
    | _ => monErr s 2 [])

/-- Checks 5 to 8 of Table 15.4 for slot k and modulus N with exponent 65,537. -/
def unlockKey (s : State) (k : Nat) (n : Bytes) : Nat :=
  if fuseKeyhash s k = 0 then 5
  else if fuseRevoked s k then 6
  else if bytesToNat (sha512 (n ++ beBytes 4 65537)) ≠ fuseKeyhash s k then 7
  else if !bit (fuseKeyuse s k) 0 then 8
  else 0

/-- The monitor is unlocked under key slot k (R535, R536). -/
def monUnlocked (s : State) (k : Nat) : State :=
  let s := (s.setF dbgBase DBG_STATUS_LOCKED 0).setF dbgBase DBG_STATUS_KEYSLOT k
  let s := { s with mon := { s.mon with fails := 0 } }.addF dbgBase DBG_UNLOCKS_COUNT 1
  monOk s []

/-- An unlock fails for a reason; the third in a row begins a lockout (R536). -/
def monUnlockFails (s : State) (reason : Nat) : State :=
  let s := s.addF dbgBase DBG_FAILS_COUNT 1
  let n := s.mon.fails + 1
  let s := { s with mon := { s.mon with fails := n } }
  let s := if 3 ≤ n then { s with mon := { s.mon with lockout := some (now s) } }.setF dbgBase DBG_STATUS_LOCKOUT 1 else s
  monErr s 7 (hexText 2 reason)

/-- UNLK (R533, R535): any one discards the challenge (R534). -/
def monUnlk (s : State) (args : Bytes) : State :=
  monOpen s (fun s => match numbers args with
    | some [k] =>
      if 4 ≤ k then monErr (dropChallenge s) 2 []
      else if !policyBit s 5 && s.mon.resp.all (fun b => b = 0) then monCount (monUnlocked (dropChallenge s) k)
      else match s.mon.chal with
      | none => monCount (monErr s 6 [])
      | some (r, _) =>
        let n := slice s.mon.resp 0 512
        let why := unlockKey s k n
        let why := if why ≠ 0 then why else if pssVerify n (slice s.mon.resp 512 512) r then 0 else 10
        let s := dropChallenge s
        monCount (if why = 0 then monUnlocked s k else monUnlockFails s why)
    | _ => monErr (dropChallenge s) 2 [])

def monLock (s : State) (args : Bytes) : State :=
  monOpen s (fun s => noArgs s args (fun s => monCount (monOk (monitorLock s) [])))

/-! ### Register and memory access (R531, R532) -/

def monRd (s : State) (args : Bytes) : State :=
  monGuard s (fun s => match numbers args with
    | some [a] =>
      if wordReg s a then
        let r := regRead s a none
        monCount (monOk r.2 [hexText 8 r.1])
      else monBusError s a
    | _ => monErr s 2 [])

/-- PK reads without a side effect (R532). -/
def monPk (s : State) (args : Bytes) : State :=
  monGuard s (fun s => match numbers args with
    | some [a, n] =>
      if n = 0 ∨ 64 < n then monErr s 2 []
      else
        let l := (List.range n).map (fun i => a + 4 * i)
        match l.find? (fun x => !wordReg s x) with
        | some x => monBusError s x
        | none => monCount (monOk s (l.map (fun x => hexText 8 (regView s x))))
    | _ => monErr s 2 [])

def monWr (s : State) (args : Bytes) : State :=
  monGuard s (fun s => match numbers args with
    | some [a, v] =>
      if 2 ^ 32 ≤ v then monErr s 2 []
      else if wordReg s a then monCount (monOk (regWrite s a v) [])
      else monBusError s a
    | _ => monErr s 2 [])

/-- Memory the monitor reaches: LPDDR4X and every SRAM window. -/
def monMem (s : State) (a len : Nat) : Bool :=
  reachable s a && reachable s (a + len - 1) && placeOf a == placeOf (a + len - 1) &&
    (match placeOf a with
     | .lpddr _ | .scratch _ | .cmem _ | .hubSram => true
     | _ => false)

/-- MRD. What a read that is uncorrectable prints is open. -/
def monMrd (s : State) (args : Bytes) : State :=
  monGuard s (fun s => match numbers args with
    | some [a, n] =>
      if n < 4 ∨ 256 < n ∨ n % 4 ≠ 0 ∨ a % 4 ≠ 0 then monErr s 2 []
      else if !monMem s a n then monBusError s a
      else match asleep s a n with
      | some t => stuckAt t a (.monMrd args)
      | none =>
        match memRead s a n with
        | (.ok b, t) => monCount (monOk t [hexBytes b])
        | (.ue l, t) =>
          let b := (List.range n).map (fun i => Config.undefByte t.fresh (a + i))
          monCount (monOk (logUncorrectable { t with fresh := t.fresh + 1 } l 9 0xFF) [hexBytes b])
        | (.bus, t) => monBusError t a
    | _ => monErr s 2 [])

/-- Memory written by MWR: it reaches the hub SRAM window too (R531), as the FIFO logic alone does otherwise (R281). A merge that
meets an uncorrectable word is logged as the monitor's (R289, R561). -/
def monWrite (s : State) (a : Nat) (b : Bytes) : State :=
  if placeOf a = .hubSram then s.putBytes a b
  else match memWrite s a b with
    | (.ue l, t) => logUncorrectable t l 9 0xFF
    | (_, t) => t

def monMwr (s : State) (args : Bytes) : State :=
  monGuard s (fun s => match words args with
    | [w, h] =>
      match hexNumber w, hexString h with
      | some a, some b =>
        if b.length < 4 ∨ 64 < b.length ∨ b.length % 4 ≠ 0 ∨ a % 4 ≠ 0 then monErr s 2 []
        else if !monMem s a b.length then monBusError s a
        else match asleep s a b.length with
        | some t => stuckAt t a (.monMwr args)
        | none => monCount (monOk (monWrite s a b) [])
      | _, _ => monErr s 2 []
    | _ => monErr s 2 [])

/-- LOG: up to 16 records from record f. -/
def monLog (s : State) (args : Bytes) : State :=
  monGuard s (fun s => match numbers args with
    | some [f, n] =>
      if n = 0 ∨ 16 < n ∨ 2 ^ 32 ≤ f then monErr s 2 []
      else monCount (monOk s (((logFrom s f).take n).map (fun r => hexBytes (logBytes r))))
    | _ => monErr s 2 [])

/-! ### Fuses (R538) -/

/-- The fuse array with WRAPKEY as zero. -/
def fusesShown (s : State) : Nat := setBits s.fuses 2284 256 0

def monFuse (s : State) (args : Bytes) : State :=
  monGuard s (fun s => noArgs s args (fun s =>
    monCount (monOk s ((List.range 16).map (fun i => hexBytes (natToBytes 32 (bits (fusesShown s) (256 * i) 256)))))))

/-- BURN: `low` tells that VDD_IO is below its recommended range. -/
def monBurn (s : State) (args : Bytes) (low : Bool) : State :=
  monGuard s (fun s => match numbers args with
    | some [b] =>
      if 4096 ≤ b ∨ (2284 ≤ b ∧ b < 2540) ∨ low then monCount (monErr s 9 (hexWide 4 b))
      else monCount (monOk { s with fuses := s.fuses ||| 2 ^ b } [])
    | _ => monErr s 2 [])

/-! ### Lines and times -/

/-- LINE_DISCARD (R528). -/
def lineDiscard (s : State) : State :=
  monOpen s (fun s => monErr (s.addF dbgBase DBG_LINEERR_COUNT 1) 3 [])

/-- A small letter as a capital: names are not case-sensitive. -/
def upper (c : Byte) : Byte := if 97 ≤ c.toNat ∧ c.toNat ≤ 122 then c - 32 else c

/-- A line that names no command. -/
def monUnknown (s : State) (line : Bytes) : State :=
  match words line with
  | w :: _ => if monNames.contains (w.map upper) then s else monOpen s (fun s => monErr s 1 [])
  | [] => monOpen s (fun s => monErr s 1 [])

/-- CHALLENGE_EXPIRY (R534). -/
def challengeExpiry (s : State) : State :=
  match s.mon.chal with
  | some (_, t) => if t + challengeNs ≤ now s then dropChallenge s else s
  | none => s

/-- LOCKOUT_END (R536). -/
def lockoutEnd (s : State) : State :=
  match s.mon.lockout with
  | some t =>
    if t + lockoutNs ≤ now s then { s with mon := { s.mon with lockout := none } }.setF dbgBase DBG_STATUS_LOCKOUT 0 else s
  | none => s

/-- DBG_LOCK_WRITE by the steward (R537). -/
def dbgLockWrite (s : State) : State := if stewardUp s then monitorLock s else s

/-! ### Lines behind one that waits (R291, R528) -/

/-- The characters of a line, with the one that ends it; those of a line in progress that was discarded are gone. -/
def lineChars (i : Instr) : Nat :=
  let line (name : Nat) (args : Bytes) : Nat := name + (if args.isEmpty then 0 else 1 + args.length) + 1
  match i with
  | .monId a | .monRd a | .monPk a | .monWr a => line 2 a
  | .monRsp a | .monMrd a | .monMwr a | .monLog a => line 3 a
  | .monHelp a | .monStat a | .monBaud a | .monChal a | .monUnlk a | .monLock a | .monFuse a | .monBurn a _ => line 4 a
  | .monitorUnknownCommand l => l.length + 1
  | _ => 0

/-- The characters buffered behind a line that waits. -/
def monHeld (s : State) : Nat :=
  (((s.stuck.filter (fun e => monLine e.2)).drop 1).map (fun e => lineChars e.2)).sum

/-- A line taken: behind a line whose access waits it is buffered, up to 256 characters in all; the line that does not fit is
discarded, and answered in its turn (R528). -/
def monTake (s : State) (i : Instr) (f : State → State) : State :=
  if s.stuck.any (fun e => monLine e.2) then stuckAt s hubWin (if monHeld s + lineChars i ≤ 256 then i else .lineDiscard)
  else f s

def execHelp (args : Bytes) (s : State) : Host.Outcome State Fault Refusal :=
  live s (monTake s (.monHelp args) (fun t => monHelp t args))
def execId (args : Bytes) (s : State) : Host.Outcome State Fault Refusal :=
  live s (monTake s (.monId args) (fun t => monId t args))
def execStat (args : Bytes) (s : State) : Host.Outcome State Fault Refusal :=
  live s (monTake s (.monStat args) (fun t => monStat t args))
def execBaud (args : Bytes) (s : State) : Host.Outcome State Fault Refusal :=
  live s (monTake s (.monBaud args) (fun t => monBaud t args))
def execChal (args : Bytes) (s : State) : Host.Outcome State Fault Refusal :=
  live s (monTake s (.monChal args) (fun t => monChal t args))
def execRsp (args : Bytes) (s : State) : Host.Outcome State Fault Refusal :=
  live s (monTake s (.monRsp args) (fun t => monRsp t args))
def execUnlk (args : Bytes) (s : State) : Host.Outcome State Fault Refusal :=
  live s (monTake s (.monUnlk args) (fun t => monUnlk t args))
def execLock (args : Bytes) (s : State) : Host.Outcome State Fault Refusal :=
  live s (monTake s (.monLock args) (fun t => monLock t args))
def execRd (args : Bytes) (s : State) : Host.Outcome State Fault Refusal :=
  live s (monTake s (.monRd args) (fun t => monRd t args))
def execPk (args : Bytes) (s : State) : Host.Outcome State Fault Refusal :=
  live s (monTake s (.monPk args) (fun t => monPk t args))
def execWr (args : Bytes) (s : State) : Host.Outcome State Fault Refusal :=
  live s (monTake s (.monWr args) (fun t => monWr t args))
def execMrd (args : Bytes) (s : State) : Host.Outcome State Fault Refusal :=
  live s (monTake s (.monMrd args) (fun t => monMrd t args))
def execMwr (args : Bytes) (s : State) : Host.Outcome State Fault Refusal :=
  live s (monTake s (.monMwr args) (fun t => monMwr t args))
def execLog (args : Bytes) (s : State) : Host.Outcome State Fault Refusal :=
  live s (monTake s (.monLog args) (fun t => monLog t args))
def execFuse (args : Bytes) (s : State) : Host.Outcome State Fault Refusal :=
  live s (monTake s (.monFuse args) (fun t => monFuse t args))
def execBurn (args : Bytes) (low : Bool) (s : State) : Host.Outcome State Fault Refusal :=
  live s (monTake s (.monBurn args low) (fun t => monBurn t args low))
def execLineDiscard (s : State) : Host.Outcome State Fault Refusal := live s (monTake s .lineDiscard lineDiscard)
def execMonitorUnknownCommand (line : Bytes) (s : State) : Host.Outcome State Fault Refusal :=
  live s (monTake s (.monitorUnknownCommand line) (fun t => monUnknown t line))
def execChallengeExpiry (s : State) : Host.Outcome State Fault Refusal := live s (challengeExpiry s)
def execLockoutEnd (s : State) : Host.Outcome State Fault Refusal := live s (lockoutEnd s)
def execDbgLockWrite (s : State) : Host.Outcome State Fault Refusal := live s (dbgLockWrite s)

end Sys2Proof.Machine
end

