-- ==== Sys2Proof/Machine/Spdm.lean ====
section
/-! DEFINITION. The Data Object Exchange mailbox: DOE Discovery and SPDM 1.2 (R522 to R524, R519). The spec names the
exchanges and algorithms; the layout of the messages is that of the DMTF and PCI-SIG standards (PRESUMED, log). -/

namespace Sys2Proof.Machine
open Sys2Proof
open Sys2Proof.Machine.Reg

/-! ### The mailbox (R523) -/

/-- The bytes of an ASCII text. -/
def ascii (t : String) : Bytes := t.toList.map (fun c => BitVec.ofNat 8 c.toNat)

/-- A data object with its header: vendor 0x0001, type, length in dwords; its completion raises vector 3. -/
def doeRespond (s : State) (type : Nat) (msg : Bytes) : State :=
  let n := ceilDiv msg.length 4
  raiseVector (s.emit (.doe (natToBytes 2 1 ++ natToBytes 1 type ++ [0] ++ natToBytes 4 (n + 2) ++ slice msg 0 (4 * n)))) 3

/-- DOE Discovery: entry 0 is Discovery itself, entry 1 CMA/SPDM; an index above is answered with vendor 0xFFFF. -/
def doeDiscover (s : State) (index : Nat) : State :=
  if !endpointUp s then s
  else doeRespond s 0 (if index = 0 then natToBytes 2 1 ++ [0, 1] else if index = 1 then natToBytes 2 1 ++ [1, 0]
    else natToBytes 2 0xFFFF ++ [0, 0])

/-! ### SPDM messages -/

def spdmCode (req : Bytes) : Nat := leAt req 1 1

def spdmHead (code p1 p2 : Nat) : Bytes := [0x12] ++ natToBytes 1 code ++ natToBytes 1 p1 ++ natToBytes 1 p2

/-- ERROR with a code and its data. -/
def spdmError (s : State) (code data : Nat) : State := doeRespond s 1 (spdmHead 0x7F code data)

/-- ERROR UnsupportedRequest (R523). -/
def spdmUnsupported (s : State) (req : Bytes) : State := spdmError s 7 (spdmCode req)

/-- A request of the negotiation, of code c: in version 1.2, and in its place. -/
def spdmRequest (s : State) (req : Bytes) (c : Nat) (inOrder : Bool) (f : State → State) : State :=
  if spdmCode req ≠ c then s
  else if leAt req 0 1 ≠ 0x12 then spdmUnsupported s req
  else if !inOrder then spdmError s 4 0
  else f s

/-- A request that needs the identity (R519), after the negotiation. -/
def spdmIdentity (s : State) (req : Bytes) (c : Nat) (f : State → State) : State :=
  spdmRequest s req c true (fun s =>
    if s.boot.ident ≠ 0 then spdmUnsupported s req
    else if !s.spdm.algs then spdmError s 4 0
    else f s)

/-- GET_VERSION restarts the negotiation: version 1.2 alone. -/
def getVersion (s : State) (req : Bytes) : State :=
  if spdmCode req ≠ 0x84 then s
  else
    let r : Bytes := [0x10, 0x04, 0, 0, 0, 1, 0x00, 0x12]
    doeRespond { s with spdm := { SpdmSt.reset with version := true, vca := req ++ r, busy := s.spdm.busy } } 1 r

/-- The capability flags of Table 15.12: CERT_CAP, CHAL_CAP, MEAS_CAP = 2. -/
def spdmCaps : Nat := 0x16

def getCapabilities (s : State) (req : Bytes) : State :=
  spdmRequest s req 0xE1 s.spdm.version (fun s =>
    let r := spdmHead 0x61 0 0 ++ [0] ++ natToBytes 1 (Config.spdmField 0) ++ [0, 0] ++ natToBytes 4 spdmCaps ++
      natToBytes 4 (Config.spdmField 1) ++ natToBytes 4 (Config.spdmField 2)
    doeRespond { s with spdm := { s.spdm with caps := true, vca := s.spdm.vca ++ req ++ r } } 1 r)

/-- ALGORITHMS selects of what is offered DMTF, TPM_ALG_SHA_512 and TPM_ALG_RSAPSS_4096. -/
def negotiateAlgorithms (s : State) (req : Bytes) : State :=
  spdmRequest s req 0xE3 s.spdm.caps (fun s =>
    let r := spdmHead 0x63 0 0 ++ natToBytes 2 36 ++ natToBytes 1 (leAt req 6 1 &&& 1) ++ [0] ++ natToBytes 4 8 ++
      natToBytes 4 (leAt req 8 4 &&& 0x40) ++ natToBytes 4 (leAt req 12 4 &&& 4) ++ slice [] 0 16
    doeRespond { s with spdm := { s.spdm with algs := true, vca := s.spdm.vca ++ req ++ r } } 1 r)

/-! ### Certificates -/

/-- The length of the first DER element of a chain: the root certificate. -/
def derLen (b : Bytes) : Nat :=
  let l := leAt b 1 1
  if l < 128 then 2 + l else 2 + (l - 128) + (slice b 2 (l - 128)).foldl (fun n x => 256 * n + x.toNat) 0

/-- The certificate chain of slot 0 as SPDM carries it: length, reserved, hash of the root certificate, certificates. -/
def spdmChain (s : State) : Bytes :=
  let c := s.boot.chain
  natToBytes 2 (68 + c.length) ++ [0, 0] ++ sha512 (c.take (derLen c)) ++ c

def getDigests (s : State) (req : Bytes) : State :=
  spdmIdentity s req 0x81 (fun s =>
    let r := spdmHead 0x01 0 1 ++ sha512 (spdmChain s)
    doeRespond { s with spdm := { s.spdm with certs := s.spdm.certs ++ req ++ r } } 1 r)

def getCertificate (s : State) (req : Bytes) : State :=
  spdmIdentity s req 0x82 (fun s =>
    let c := spdmChain s
    let off := leAt req 4 2
    if leAt req 2 1 % 16 ≠ 0 ∨ c.length ≤ off then spdmUnsupported s req
    else
      let n := min (leAt req 6 2) (c.length - off)
      let r := spdmHead 0x02 0 0 ++ natToBytes 2 n ++ natToBytes 2 (c.length - off - n) ++ slice c off n
      doeRespond { s with spdm := { s.spdm with certs := s.spdm.certs ++ req ++ r } } 1 r)

/-! ### Measurements and signatures (R520, R522) -/

/-- The measurements by their SPDM index, ascending (Table 15.9). -/
def spdmIndices : List Nat := [1, 2, 3] ++ (List.range 8).map (17 + ·)

/-- The DMTF value type of a measurement (Table 15.9). -/
def spdmType (i : Nat) : Nat := if i = 1 then 0 else if i = 2 then 2 else if i = 3 then 1 else 3

/-- A measurement block. -/
def spdmBlock (s : State) (i : Nat) : Bytes :=
  natToBytes 1 i ++ [1] ++ natToBytes 2 67 ++ natToBytes 1 (spdmType i) ++ natToBytes 2 64 ++ measurement s (i - 1)

/-- 32 bytes from the entropy source. -/
def drawNonce (s : State) : Bytes × State := drawBytes s 8

/-- A signature of SPDM 1.2 over a transcript in a context, counted (R525). -/
def spdmSign (s : State) (context : String) (t : Bytes) : Bytes × State :=
  let p := ascii "dmtf-spdm-v1.2.*"
  let c := ascii context
  let q := signMessage s (p ++ p ++ p ++ p ++ List.replicate (36 - c.length) 0 ++ c ++ sha512 t)
  (q.1, q.2.addF secBase SEC_QUOTES_COUNT 1)

def challenge (s : State) (req : Bytes) : State :=
  spdmIdentity s req 0x83 (fun s =>
    let h := leAt req 3 1
    if leAt req 2 1 ≠ 0 ∨ (h ≠ 0 ∧ h ≠ 1 ∧ h ≠ 255) then spdmUnsupported s req
    else
      let sum := if h = 0 then []
        else sha512 ((if h = 1 then [1, 2, 3] else spdmIndices).flatMap (spdmBlock s))
      let d := drawNonce s
      let r := spdmHead 0x03 0 1 ++ sha512 (spdmChain s) ++ d.1 ++ sum ++ [0, 0]
      let g := spdmSign d.2 "responder-challenge_auth signing" (s.spdm.vca ++ s.spdm.certs ++ req ++ r)
      doeRespond { g.2 with spdm := { g.2.spdm with certs := [], meas := [] } } 1 (r ++ g.1))

/-- GET_MEASUREMENTS: operation 0 gives their number, 0xFF all of them, else one by its SPDM index. -/
def getMeasurements (s : State) (req : Bytes) : State :=
  spdmIdentity s req 0xE0 (fun s =>
    let signed := bit (leAt req 2 1) 0
    let op := leAt req 3 1
    let l := if op = 0 then [] else if op = 255 then spdmIndices else [op]
    if !l.all (fun i => spdmIndices.contains i) ∨ (signed ∧ leAt req 36 1 % 16 ≠ 0) then spdmUnsupported s req
    else
      let rec_ := l.flatMap (spdmBlock s)
      let d := drawNonce s
      let r := spdmHead 0x60 (if op = 0 then spdmIndices.length else 0) 0 ++ natToBytes 1 l.length ++
        natToBytes 3 rec_.length ++ rec_ ++ d.1 ++ [0, 0]
      let t := s.spdm.meas ++ req ++ r
      if signed then
        let g := spdmSign d.2 "responder-measurements signing" (s.spdm.vca ++ t)
        doeRespond { g.2 with spdm := { g.2.spdm with meas := [] } } 1 (r ++ g.1)
      else doeRespond { d.2 with spdm := { d.2.spdm with meas := t } } 1 r)

/-- The request is one of those supported (Table 15.12). -/
def spdmListed (req : Bytes) : Bool := [0x84, 0xE1, 0xE3, 0x81, 0x82, 0x83, 0xE0].contains (spdmCode req)

/-- Any other request (R523). -/
def spdmOther (s : State) (req : Bytes) : State :=
  if spdmListed req then s else spdmUnsupported s req

/-- A request by its code. -/
def spdmTake (s : State) (req : Bytes) : State :=
  match spdmCode req with
  | 0x84 => getVersion s req
  | 0xE1 => getCapabilities s req
  | 0xE3 => negotiateAlgorithms s req
  | 0x81 => getDigests s req
  | 0x82 => getCertificate s req
  | 0x83 => challenge s req
  | 0xE0 => getMeasurements s req
  | _ => spdmOther s req

/-- The quotes taken and not completed, in order of arrival. -/
def quotesAhead (s : State) : List Taken := s.taken.filter (fun t => tkOPC t = 0xC)

/-- A request arrives: it is served at once, or waits for the steward and for the requests and quotes before it (R524). -/
def spdmArrive (s : State) (req : Bytes) (mine : Bool) : State :=
  if !endpointUp s || !mine then s
  else if stewardUp s && s.spdm.busy.isEmpty && (quotesAhead s).isEmpty then spdmTake s req
  else { s with spdm := { s.spdm with busy := s.spdm.busy ++ [(req, quotesAhead s)] } }

/-- The first request that waits is served once the steward runs and the quotes before it are done. -/
def spdmNext (s : State) : State :=
  match s.spdm.busy with
  | [] => s
  | (req, ahead) :: rest =>
    if stewardUp s && ahead.all (fun t => !s.taken.contains t) then
      spdmTake { s with spdm := { s.spdm with busy := rest } } req
    else s

/-- The requests whose turn has come are served, in order of arrival (R524). -/
def spdmResume (s : State) : State := s.spdm.busy.foldl (fun t _ => spdmNext t) s

/-- DOE_ABORT (R524): the request in progress is discarded, with what waits behind it in the mailbox. -/
def doeAbort (s : State) : State := { s with spdm := { s.spdm with busy := [] } }

/-- ATTEST_QUOTE in its turn, and the requests that waited for it. -/
def quoteTurn (s : State) (i : Nat) : State := spdmResume (attestQuote s i)

def execDoeDiscovery (index : BitVec 8) (s : State) : Host.Outcome State Fault Refusal :=
  live s (doeDiscover s index.toNat)
def execGetVersion (req : Bytes) (s : State) : Host.Outcome State Fault Refusal :=
  live s (spdmArrive s req (spdmCode req = 0x84))
def execGetCapabilities (req : Bytes) (s : State) : Host.Outcome State Fault Refusal :=
  live s (spdmArrive s req (spdmCode req = 0xE1))
def execNegotiateAlgorithms (req : Bytes) (s : State) : Host.Outcome State Fault Refusal :=
  live s (spdmArrive s req (spdmCode req = 0xE3))
def execGetDigests (req : Bytes) (s : State) : Host.Outcome State Fault Refusal :=
  live s (spdmArrive s req (spdmCode req = 0x81))
def execGetCertificate (req : Bytes) (s : State) : Host.Outcome State Fault Refusal :=
  live s (spdmArrive s req (spdmCode req = 0x82))
def execChallenge (req : Bytes) (s : State) : Host.Outcome State Fault Refusal :=
  live s (spdmArrive s req (spdmCode req = 0x83))
def execGetMeasurements (req : Bytes) (s : State) : Host.Outcome State Fault Refusal :=
  live s (spdmArrive s req (spdmCode req = 0xE0))
def execDoeAbort (s : State) : Host.Outcome State Fault Refusal := live s (doeAbort s)
def execSpdmUnsupportedRequest (req : Bytes) (s : State) : Host.Outcome State Fault Refusal := live s (spdmArrive s req (!spdmListed req))

def execAttestQuote (k : Nat) (s : State) : Host.Outcome State Fault Refusal := live s (quoteTurn s k)

end Sys2Proof.Machine
end

