-- ==== Sys2Proof/Machine/Waits.lean ====
section
/-! DEFINITION. Accesses of the host and the monitor that waited for a bank group or a region, served once it is free (R291,
R293, R528), and the SPDM requests that waited for the steward (R524). -/

namespace Sys2Proof.Machine
open Sys2Proof
open Sys2Proof.Machine.Reg

/-- An access or a line that waited, taken again. -/
def takeAgain (s : State) (i : Instr) : State :=
  match i with
  | .bar2Read n len => bar2Read s n len
  | .bar2Write n b => bar2Write s n b
  | .monHelp args => monTake s i (fun t => monHelp t args)
  | .monId args => monTake s i (fun t => monId t args)
  | .monStat args => monTake s i (fun t => monStat t args)
  | .monBaud args => monTake s i (fun t => monBaud t args)
  | .monChal args => monTake s i (fun t => monChal t args)
  | .monRsp args => monTake s i (fun t => monRsp t args)
  | .monUnlk args => monTake s i (fun t => monUnlk t args)
  | .monLock args => monTake s i (fun t => monLock t args)
  | .monRd args => monTake s i (fun t => monRd t args)
  | .monPk args => monTake s i (fun t => monPk t args)
  | .monWr args => monTake s i (fun t => monWr t args)
  | .monMrd args => monTake s i (fun t => monMrd t args)
  | .monMwr args => monTake s i (fun t => monMwr t args)
  | .monLog args => monTake s i (fun t => monLog t args)
  | .monFuse args => monTake s i (fun t => monFuse t args)
  | .monBurn args low => monTake s i (fun t => monBurn t args low)
  | .lineDiscard => monTake s i lineDiscard
  | .monitorUnknownCommand line => monTake s i (fun t => monUnknown t line)
  | _ => s

/-- Every access that waits is tried again in order; one that still has to wait waits on. -/
def serveStuck (s : State) : State := s.stuck.foldl (fun t e => takeAgain t e.2) { s with stuck := [] }

/-- RETENTION_REQUEST: what waited for a sweep that it preempts goes on (R293, R299). -/
def execRetentionRequest (d : Fin 4) (g : Fin 36) (s : State) : Host.Outcome State Fault Refusal :=
  live s (serveStuck (if diePowered s d then retentionRequest s d g else s))
def execWakeDone (d : Fin 4) (g : Fin 36) (s : State) : Host.Outcome State Fault Refusal :=
  live s (serveStuck (activeCheck (wakeDone s d g)))
def execSweepRegionDone (d : Fin 4) (g : Fin 36) (pass : Bool) (s : State) : Host.Outcome State Fault Refusal :=
  live s (serveStuck (sweepDone s d g pass))
def execPowerStateExitDone (s : State) : Host.Outcome State Fault Refusal := live s (serveStuck (awaited s (powerExitDone s)))
def execFunctionLevelReset (s : State) : Host.Outcome State Fault Refusal := live s (serveStuck (functionReset s 3))
def execHotReset (s : State) : Host.Outcome State Fault Refusal := live s (serveStuck (functionReset s 2))

def execMemoryTrainingDone (trained ms : BitVec 64) (rate : Fin 3) (net : List (List (BitVec 8))) (s : State) :
    Host.Outcome State Fault Refusal := live s (spdmResume (memoryTrained s trained.toNat ms.toNat rate net))
def execStewardRestartComplete (s : State) : Host.Outcome State Fault Refusal := live s (spdmResume (awaited s (stewardRestarted s)))
def execDieBrownoutRecovery (d : Fin 4) (s : State) : Host.Outcome State Fault Refusal :=
  live s (spdmResume (brownoutRecovery s d))
def execDieHeatRecovery (d : Fin 4) (s : State) : Host.Outcome State Fault Refusal := live s (spdmResume (heatRecovery s d))

end Sys2Proof.Machine
end

