-- ==== Sys2Proof/Machine/Dispatch.lean ====
section
/-! DEFINITION. The dispatch of a command to its meaning: one arm for each row of the command table. -/

namespace Sys2Proof.Machine
open Sys2Proof

def exec (i : Instr) (s : State) : Host.Outcome State Fault Refusal :=
  match i with
  | .crEnable size => Sys2Proof.Machine.execCrEnable size s
  | .crDisable size => Sys2Proof.Machine.execCrDisable size s
  | .ccEnable size => Sys2Proof.Machine.execCcEnable size s
  | .ccDisable size => Sys2Proof.Machine.execCcDisable size s
  | .crTailWrite v => Sys2Proof.Machine.execCrTailWrite v s
  | .ccHeadWrite v => Sys2Proof.Machine.execCcHeadWrite v s
  | .commandTake got => Sys2Proof.Machine.execCommandTake got s
  | .devInfo k => Sys2Proof.Machine.execDevInfo k s
  | .planLoad k got failAt => Sys2Proof.Machine.execPlanLoad k got failAt s
  | .planStart k => Sys2Proof.Machine.execPlanStart k s
  | .planStop k => Sys2Proof.Machine.execPlanStop k s
  | .planUnload k => Sys2Proof.Machine.execPlanUnload k s
  | .streamOpen k => Sys2Proof.Machine.execStreamOpen k s
  | .streamClose k => Sys2Proof.Machine.execStreamClose k s
  | .kilnRun k => Sys2Proof.Machine.execKilnRun k s
  | .fenceCore k => Sys2Proof.Machine.execFenceCore k s
  | .resetDevice k => Sys2Proof.Machine.execResetDevice k s
  | .powerState k => Sys2Proof.Machine.execPowerState k s
  | .attestQuote k => Sys2Proof.Machine.execAttestQuote k s
  | .logRead k => Sys2Proof.Machine.execLogRead k s
  | .inject k => Sys2Proof.Machine.execInject k s
  | .relayTopology k net got failAt => Sys2Proof.Machine.execRelayTopology k net got failAt s
  | .frTailWrite k v => Sys2Proof.Machine.execFrTailWrite k v s
  | .rrHeadWrite k v => Sys2Proof.Machine.execRrHeadWrite k v s
  | .descriptorFetch k got => Sys2Proof.Machine.execDescriptorFetch k got s
  | .bar2Read n len => Sys2Proof.Machine.execBar2Read n len s
  | .bar2Write n data => Sys2Proof.Machine.execBar2Write n data s
  | .bar0InvalidAccess write => Sys2Proof.Machine.execBar0InvalidAccess write s
  | .functionLevelReset => Sys2Proof.Machine.execFunctionLevelReset s
  | .hotReset => Sys2Proof.Machine.execHotReset s
  | .perstNAssert ns => Sys2Proof.Machine.execPerstNAssert ns s
  | .perstNRelease bootsel trains => Sys2Proof.Machine.execPerstNRelease bootsel trains s
  | .frameAdmission p => Sys2Proof.Machine.execFrameAdmission p s
  | .roundWindowClose p => Sys2Proof.Machine.execRoundWindowClose p s
  | .frameEndReport k => Sys2Proof.Machine.execFrameEndReport k s
  | .resultPublish => Sys2Proof.Machine.execResultPublish s
  | .resultModerationTimer k => Sys2Proof.Machine.execResultModerationTimer k s
  | .outputTimeout k seq => Sys2Proof.Machine.execOutputTimeout k seq s
  | .hubTokenReceive c p noise => Sys2Proof.Machine.execHubTokenReceive c p noise s
  | .drainProbeStart p => Sys2Proof.Machine.execDrainProbeStart p s
  | .drainTimeout p => Sys2Proof.Machine.execDrainTimeout p s
  | .txuCommit u => Sys2Proof.Machine.execTxuCommit u s
  | .txuClear u => Sys2Proof.Machine.execTxuClear u s
  | .txuActWrite u j k v => Sys2Proof.Machine.execTxuActWrite u j k v s
  | .txuFenceSet u mask => Sys2Proof.Machine.execTxuFenceSet u mask s
  | .txuPrepare u => Sys2Proof.Machine.execTxuPrepare u s
  | .txuVote k => Sys2Proof.Machine.execTxuVote k s
  | .txuVoteTimeout => Sys2Proof.Machine.execTxuVoteTimeout s
  | .txuApply u => Sys2Proof.Machine.execTxuApply u s
  | .txuDiscard u => Sys2Proof.Machine.execTxuDiscard u s
  | .txuAck k => Sys2Proof.Machine.execTxuAck k s
  | .nop c => Sys2Proof.Machine.execNop c s
  | .conv c => Sys2Proof.Machine.execConv c s
  | .wino c => Sys2Proof.Machine.execWino c s
  | .dwconv c => Sys2Proof.Machine.execDwconv c s
  | .matmul c => Sys2Proof.Machine.execMatmul c s
  | .pool c => Sys2Proof.Machine.execPool c s
  | .resize c => Sys2Proof.Machine.execResize c s
  | .eltwise c => Sys2Proof.Machine.execEltwise c s
  | .reduce c => Sys2Proof.Machine.execReduce c s
  | .gather c => Sys2Proof.Machine.execGather c s
  | .scatter c => Sys2Proof.Machine.execScatter c s
  | .segment c => Sys2Proof.Machine.execSegment c s
  | .topk c => Sys2Proof.Machine.execTopk c s
  | .sort c => Sys2Proof.Machine.execSort c s
  | .knn c => Sys2Proof.Machine.execKnn c s
  | .fps c => Sys2Proof.Machine.execFps c s
  | .ball c => Sys2Proof.Machine.execBall c s
  | .copy c => Sys2Proof.Machine.execCopy c s
  | .halo c => Sys2Proof.Machine.execHalo c s
  | .crop c => Sys2Proof.Machine.execCrop c s
  | .s2d c => Sys2Proof.Machine.execS2d c s
  | .d2s c => Sys2Proof.Machine.execD2s c s
  | .loadw c => Sys2Proof.Machine.execLoadw c s
  | .kiln c => Sys2Proof.Machine.execKiln c s
  | .wait c => Sys2Proof.Machine.execWait c s
  | .signal c => Sys2Proof.Machine.execSignal c s
  | .release c => Sys2Proof.Machine.execRelease c s
  | .loop c => Sys2Proof.Machine.execLoop c s
  | .jump c => Sys2Proof.Machine.execJump c s
  | .barrier c => Sys2Proof.Machine.execBarrier c s
  | .endOp c => Sys2Proof.Machine.execEnd c s
  | .macroOpComplete c k => Sys2Proof.Machine.execMacroOpComplete c k s
  | .seqEofToken c => Sys2Proof.Machine.execSeqEofToken c s
  | .stageWatchdogTick c => Sys2Proof.Machine.execStageWatchdogTick c s
  | .engineVector c e => Sys2Proof.Machine.execEngineVector c e s
  | .shadowBeat c e => Sys2Proof.Machine.execShadowBeat c e s
  | .shadowSwap c e => Sys2Proof.Machine.execShadowSwap c e s
  | .ppuElement c e => Sys2Proof.Machine.execPpuElement c e s
  | .sagStep c n => Sys2Proof.Machine.execSagStep c n s
  | .sagNop c n => Sys2Proof.Machine.execSagNop c n s
  | .sagSeti c n => Sys2Proof.Machine.execSagSeti c n s
  | .sagAddi c n => Sys2Proof.Machine.execSagAddi c n s
  | .sagAdd c n => Sys2Proof.Machine.execSagAdd c n s
  | .sagModi c n => Sys2Proof.Machine.execSagModi c n s
  | .sagEmit c n => Sys2Proof.Machine.execSagEmit c n s
  | .sagEmitz c n => Sys2Proof.Machine.execSagEmitz c n s
  | .sagSetc c n => Sys2Proof.Machine.execSagSetc c n s
  | .sagLoop c n => Sys2Proof.Machine.execSagLoop c n s
  | .sagJmp c n => Sys2Proof.Machine.execSagJmp c n s
  | .sagEnd c n => Sys2Proof.Machine.execSagEnd c n s
  | .engSeedWrite c e v => Sys2Proof.Machine.execEngSeedWrite c e v s
  | .coreConfigWrite c off v => Sys2Proof.Machine.execCoreConfigWrite c off v s
  | .hqConfigWrite c q off v => Sys2Proof.Machine.execHqConfigWrite c q off v s
  | .tokenArrive c p noise => Sys2Proof.Machine.execTokenArrive c p noise s
  | .passThroughForward c p => Sys2Proof.Machine.execPassThroughForward c p s
  | .tokenSteer c src => Sys2Proof.Machine.execTokenSteer c src s
  | .joinFire c r => Sys2Proof.Machine.execJoinFire c r s
  | .gustFeedWrite cl ch off data => Sys2Proof.Machine.execGustFeedWrite cl ch off data s
  | .gustBeat cl ch => Sys2Proof.Machine.execGustBeat cl ch s
  | .lullTick p => Sys2Proof.Machine.execLullTick p s
  | .spillComplete cl => Sys2Proof.Machine.execSpillComplete cl s
  | .rotationComplete cl => Sys2Proof.Machine.execRotationComplete cl s
  | .refillComplete cl => Sys2Proof.Machine.execRefillComplete cl s
  | .rluAccept cl => Sys2Proof.Machine.execRluAccept cl s
  | .rluGatherIssue cl => Sys2Proof.Machine.execRluGatherIssue cl s
  | .rluGatherReturn cl k j => Sys2Proof.Machine.execRluGatherReturn cl k j s
  | .overflowPass cl k => Sys2Proof.Machine.execOverflowPass cl k s
  | .rluOpComplete cl k => Sys2Proof.Machine.execRluOpComplete cl k s
  | .abortNotice c k => Sys2Proof.Machine.execAbortNotice c k s
  | .abortHistoryInvalidate k => Sys2Proof.Machine.execAbortHistoryInvalidate k s
  | .mvrArm u n v => Sys2Proof.Machine.execMvrArm u n v s
  | .mvrAbort u n => Sys2Proof.Machine.execMvrAbort u n s
  | .mvrBurst u => Sys2Proof.Machine.execMvrBurst u s
  | .mvrNop u n => Sys2Proof.Machine.execMvrNop u n s
  | .mvrMove u n => Sys2Proof.Machine.execMvrMove u n s
  | .mvrMove2d u n => Sys2Proof.Machine.execMvrMove2d u n s
  | .mvrLoop u n => Sys2Proof.Machine.execMvrLoop u n s
  | .mvrWait u n => Sys2Proof.Machine.execMvrWait u n s
  | .mvrSignal u n => Sys2Proof.Machine.execMvrSignal u n s
  | .mvrEnd u n => Sys2Proof.Machine.execMvrEnd u n s
  | .fifApertureWrite k off data => Sys2Proof.Machine.execFifApertureWrite k off data s
  | .fifConfigWrite k j v => Sys2Proof.Machine.execFifConfigWrite k j v s
  | .pullRequest k => Sys2Proof.Machine.execPullRequest k s
  | .pullCompletion k j data => Sys2Proof.Machine.execPullCompletion k j data s
  | .pullTimeout k j => Sys2Proof.Machine.execPullTimeout k j s
  | .feederBufferStart p => Sys2Proof.Machine.execFeederBufferStart p s
  | .feederWord p => Sys2Proof.Machine.execFeederWord p s
  | .feederEof p => Sys2Proof.Machine.execFeederEof p s
  | .bankSweepClaim d g => Sys2Proof.Machine.execBankSweepClaim d g s
  | .sweepRegionDone d g pass => Sys2Proof.Machine.execSweepRegionDone d g pass s
  | .retentionRequest d g => Sys2Proof.Machine.execRetentionRequest d g s
  | .wakeRequest d g => Sys2Proof.Machine.execWakeRequest d g s
  | .retentionEntryDone d g => Sys2Proof.Machine.execRetentionEntryDone d g s
  | .wakeDone d g => Sys2Proof.Machine.execWakeDone d g s
  | .maintenanceGrant d g => Sys2Proof.Machine.execMaintenanceGrant d g s
  | .lpddrRefresh d c => Sys2Proof.Machine.execLpddrRefresh d c s
  | .zqCalibration d c => Sys2Proof.Machine.execZqCalibration d c s
  | .dqsOscCheck d c => Sys2Proof.Machine.execDqsOscCheck d c s
  | .patrolScrubStep d c => Sys2Proof.Machine.execPatrolScrubStep d c s
  | .mr4Poll d c rate => Sys2Proof.Machine.execMr4Poll d c rate s
  | .porNAssert ns => Sys2Proof.Machine.execPorNAssert ns s
  | .porNRelease bootsel trains => Sys2Proof.Machine.execPorNRelease bootsel trains s
  | .hostBootGo => Sys2Proof.Machine.execHostBootGo s
  | .firmwareVerified flash fail0 fail1 identRec => Sys2Proof.Machine.execFirmwareVerified flash fail0 fail1 identRec s
  | .memoryTrainingDone trained ms rate net => Sys2Proof.Machine.execMemoryTrainingDone trained ms rate net s
  | .squallBegin d => Sys2Proof.Machine.execSquallBegin d s
  | .vddMonitorSample d mv => Sys2Proof.Machine.execVddMonitorSample d mv s
  | .squallEnd d => Sys2Proof.Machine.execSquallEnd d s
  | .brownOut d below => Sys2Proof.Machine.execBrownOut d below s
  | .dieBrownoutRecovery d => Sys2Proof.Machine.execDieBrownoutRecovery d s
  | .tempSample d w => Sys2Proof.Machine.execTempSample d w s
  | .overtempEnd d => Sys2Proof.Machine.execOvertempEnd d s
  | .dieHeatRecovery d => Sys2Proof.Machine.execDieHeatRecovery d s
  | .pmbusPoll addr status => Sys2Proof.Machine.execPmbusPoll addr status s
  | .pmbAlert answers => Sys2Proof.Machine.execPmbAlert answers s
  | .vsetWrite d mv => Sys2Proof.Machine.execVsetWrite d mv s
  | .stewardWatchdogExpiry => Sys2Proof.Machine.execStewardWatchdogExpiry s
  | .wdogKick => Sys2Proof.Machine.execWdogKick s
  | .flushSettleEnd p => Sys2Proof.Machine.execFlushSettleEnd p s
  | .rlyPortEnable p => Sys2Proof.Machine.execRlyPortEnable p s
  | .rlyPortDisable p => Sys2Proof.Machine.execRlyPortDisable p s
  | .rlyRetrain p => Sys2Proof.Machine.execRlyRetrain p s
  | .rlySignalDetect p => Sys2Proof.Machine.execRlySignalDetect p s
  | .rlyTrainingDone p => Sys2Proof.Machine.execRlyTrainingDone p s
  | .rlyTrainingTimeout p => Sys2Proof.Machine.execRlyTrainingTimeout p s
  | .rlyLockDone p => Sys2Proof.Machine.execRlyLockDone p s
  | .rlyLockTimeout p => Sys2Proof.Machine.execRlyLockTimeout p s
  | .idleFlit p w ce => Sys2Proof.Machine.execIdleFlit p w ce s
  | .trainFlit p w ce => Sys2Proof.Machine.execTrainFlit p w ce s
  | .syncFlit p w ce => Sys2Proof.Machine.execSyncFlit p w ce s
  | .cmdFlit p w ce => Sys2Proof.Machine.execCmdFlit p w ce s
  | .cplFlit p w ce => Sys2Proof.Machine.execCplFlit p w ce s
  | .fcredFlit p w ce => Sys2Proof.Machine.execFcredFlit p w ce s
  | .mrdFlit p w ce got => Sys2Proof.Machine.execMrdFlit p w ce got s
  | .mwrFlit p w ce => Sys2Proof.Machine.execMwrFlit p w ce s
  | .irqFlit p w ce => Sys2Proof.Machine.execIrqFlit p w ce s
  | .mcplFlit p w ce => Sys2Proof.Machine.execMcplFlit p w ce s
  | .fhdrFlit p w ce => Sys2Proof.Machine.execFhdrFlit p w ce s
  | .fdataFlit p w ce => Sys2Proof.Machine.execFdataFlit p w ce s
  | .fendFlit p w ce => Sys2Proof.Machine.execFendFlit p w ce s
  | .flitCorrupt p ue => Sys2Proof.Machine.execFlitCorrupt p ue s
  | .replayTimeout p => Sys2Proof.Machine.execReplayTimeout p s
  | .syncTimer p => Sys2Proof.Machine.execSyncTimer p s
  | .creditReturn p => Sys2Proof.Machine.execCreditReturn p s
  | .flitForward p vc => Sys2Proof.Machine.execFlitForward p vc s
  | .doeDiscovery index => Sys2Proof.Machine.execDoeDiscovery index s
  | .getVersion req => Sys2Proof.Machine.execGetVersion req s
  | .getCapabilities req => Sys2Proof.Machine.execGetCapabilities req s
  | .negotiateAlgorithms req => Sys2Proof.Machine.execNegotiateAlgorithms req s
  | .getDigests req => Sys2Proof.Machine.execGetDigests req s
  | .getCertificate req => Sys2Proof.Machine.execGetCertificate req s
  | .challenge req => Sys2Proof.Machine.execChallenge req s
  | .getMeasurements req => Sys2Proof.Machine.execGetMeasurements req s
  | .doeAbort => Sys2Proof.Machine.execDoeAbort s
  | .monHelp args => Sys2Proof.Machine.execHelp args s
  | .monId args => Sys2Proof.Machine.execId args s
  | .monStat args => Sys2Proof.Machine.execStat args s
  | .monBaud args => Sys2Proof.Machine.execBaud args s
  | .monChal args => Sys2Proof.Machine.execChal args s
  | .monRsp args => Sys2Proof.Machine.execRsp args s
  | .monUnlk args => Sys2Proof.Machine.execUnlk args s
  | .monLock args => Sys2Proof.Machine.execLock args s
  | .monRd args => Sys2Proof.Machine.execRd args s
  | .monPk args => Sys2Proof.Machine.execPk args s
  | .monWr args => Sys2Proof.Machine.execWr args s
  | .monMrd args => Sys2Proof.Machine.execMrd args s
  | .monMwr args => Sys2Proof.Machine.execMwr args s
  | .monLog args => Sys2Proof.Machine.execLog args s
  | .monFuse args => Sys2Proof.Machine.execFuse args s
  | .monBurn args low => Sys2Proof.Machine.execBurn args low s
  | .lineDiscard => Sys2Proof.Machine.execLineDiscard s
  | .challengeExpiry => Sys2Proof.Machine.execChallengeExpiry s
  | .lockoutEnd => Sys2Proof.Machine.execLockoutEnd s
  | .dbgLockWrite => Sys2Proof.Machine.execDbgLockWrite s
  | .jtagExtest => Sys2Proof.Machine.execExtest s
  | .jtagSamplePreload => Sys2Proof.Machine.execSamplePreload s
  | .jtagIdcode => Sys2Proof.Machine.execIdcode s
  | .jtagClamp => Sys2Proof.Machine.execClamp s
  | .jtagHighz => Sys2Proof.Machine.execHighz s
  | .jtagExtestPulse => Sys2Proof.Machine.execExtestPulse s
  | .jtagExtestTrain => Sys2Proof.Machine.execExtestTrain s
  | .jtagBypass code => Sys2Proof.Machine.execBypass code s
  | .trstNAssert => Sys2Proof.Machine.execTrstNAssert s
  | .smbDieTemp => Sys2Proof.Machine.execSmbDieTemp s
  | .smbHubTemp => Sys2Proof.Machine.execSmbHubTemp s
  | .smbStatus => Sys2Proof.Machine.execSmbStatus s
  | .smbStepping => Sys2Proof.Machine.execSmbStepping s
  | .cadTimeLoRead host => Sys2Proof.Machine.execCadTimeLoRead host s
  | .readClear host a inc => Sys2Proof.Machine.execReadClear host a inc s
  | .registerWrite host a v sets => Sys2Proof.Machine.execRegisterWrite host a v sets s
  | .vddHubLow => Sys2Proof.Machine.execVddHubLow s
  | .configurationRequest write o v ready => Sys2Proof.Machine.execConfigurationRequest write o v ready s
  | .stewardRestartComplete => Sys2Proof.Machine.execStewardRestartComplete s
  | .powerStateExitDone => Sys2Proof.Machine.execPowerStateExitDone s
  | .smbUnsupportedRequest readByte command => Sys2Proof.Machine.execSmbUnsupportedRequest readByte command s
  | .monitorUnknownCommand line => Sys2Proof.Machine.execMonitorUnknownCommand line s
  | .spdmUnsupportedRequest req => Sys2Proof.Machine.execSpdmUnsupportedRequest req s
  | .reservedMacroOperation c => Sys2Proof.Machine.execReservedMacroOperation c s
  | .sagReservedOpcode c n => Sys2Proof.Machine.execSagReservedOpcode c n s
  | .mvrReservedOpcode u n => Sys2Proof.Machine.execMvrReservedOpcode u n s
  | .reservedFlit p w ce => Sys2Proof.Machine.execReservedFlit p w ce s

end Sys2Proof.Machine
end

