-- ==== Sys2Proof/Machine/Tick.lean ====
section
/-! DEFINITION. What a nanosecond does when no command waits: the time base counts (R30), and so does the time of a
starved feeder (Table 9.11). Every other effect of time is a command of the table. -/

namespace Sys2Proof.Machine
open Sys2Proof
open Sys2Proof.Machine.Reg

/-- A starved feeder counts a nanosecond. -/
def starveTick (s : State) (p : Nat) : State :=
  if s.getF (fdBase p) FIF_FD_STATUS_STARVED = 1 then s.addF (fdBase p) FIF_FD_STARVE_NS 1 else s

/-- The time base counts, and while it is slewed toward the head's it gains or loses a nanosecond in every 10,000 (R474). -/
def slewTick (s : State) : State :=
  if s.slew = 0 then { s with timeBase := s.timeBase + 1 }
  else if s.slewN + 1 < 10000 then { s with timeBase := s.timeBase + 1, slewN := s.slewN + 1 }
  else if 0 < s.slew then { s with timeBase := s.timeBase + 2, slewN := 0, slew := s.slew - 1 }
  else { s with slewN := 0, slew := s.slew + 1 }

/-- A relay port that is DOWN and enabled enters DETECT (Table 13.3). -/
def portTick (s : State) (p : Nat) : State :=
  if portState s p = 0 ∧ s.getF (rlyPort p) RLY_P_CTRL_EN = 1 then setPortState s p 1 else s

/-- What waits and can go on, whatever freed it: a device reset whose completion has been written (R410), and accesses of the host
and of monitor lines (R291, R528). -/
def tickWaits (s : State) : State :=
  let s := resetGo s
  if s.stuck.isEmpty then s else serveStuck s

/-- A nanosecond passes. POR_N low holds the time base at zero. -/
def tick (s : State) : State :=
  if s.boot.porLow then s
  else
    let s := (List.range 8).foldl starveTick (slewTick { s with boot := { s.boot with upNs := s.boot.upNs + 1 } })
    tickWaits (bootAdvance ((List.range 8).foldl portTick s))

end Sys2Proof.Machine
end

