-- ==== Sys2Proof/Machine/Step.lean ====
section
/-! DEFINITION. One step of the block: the command at the front of the queue, or a nanosecond of idling. -/

namespace Sys2Proof.Machine
open Sys2Proof

/-- The command at the front of the queue runs on the state with the rest of the queue; on an empty queue a nanosecond
passes (DESIGN CHOICE, log). -/
def step (s : State) : Host.Outcome State Fault Refusal :=
  match s.pending with
  | c :: rest => exec c { s with pending := rest }
  | [] => .next (tick s)

/-- No row of the command table gives bits, so no word spells a command. -/
def State.withFetchWord (s : State) (_nbits _w : Nat) : State := s

end Sys2Proof.Machine
end

