-- ==== Sys2Proof/Safety.lean ====
section
/-! DEFINITION. The terms the statements use: a command that completes, a functional device, the memory's canonical
form, and a run without a stop. -/

namespace Sys2Proof.Machine
open Sys2Proof

/-- The functional state of the device is defined (R543). -/
def Functional (s : State) : Prop := s.scanned = false

/-- A command answers the next state t. -/
def Answers (i : Instr) (s t : State) : Prop := exec i s = .next t

/-- A command completes: it answers some next state. -/
def Completes (i : Instr) (s : State) : Prop := ∃ t, exec i s = .next t

/-- Every register word outside a list reads as before. -/
def RegsKept (s t : State) (l : List Nat) : Prop := ∀ a, a ∉ l → t.reg a = s.reg a

/-- Nothing changes but registers, and of them only the words of a list. -/
def OnlyRegs (s t : State) (l : List Nat) : Prop := { t with regs := s.regs } = s ∧ RegsKept s t l

/-- Every byte of memory outside a range reads as before. -/
def MemKept (s t : State) (lo len : Nat) : Prop := ∀ a, a < lo ∨ lo + len ≤ a → t.byteAt a = s.byteAt a

/-- Nothing changes but what one core's units hold. -/
def OnlyCore (s t : State) (c : Nat) : Prop := { t with cores := s.cores } = s ∧ ∀ d, d ≠ c → t.core d = s.core d

/-- Memory in canonical form: addresses strictly rise, and no byte is listed at the value its address reads as
unlisted. -/
def Memory.wf (m : List Host.Cell) (lost : List (Nat × Nat × Nat)) : Bool :=
  SMap.sortedFrom 0 m && m.all (fun c => c.2 != 0 || (lostAt lost c.1).isSome)

/-- The TAP controller rests between the instructions of the table: reset, or in Run-Test/Idle (R539). -/
def TapRests (s : State) : Prop := s.bscan.tap = .testLogicReset ∨ s.bscan.tap = .runTest

/-- What every step keeps: memory in canonical form, at most 4,096 event records, no fuse that is burned at power-on and
clear now, and the TAP controller at rest. -/
structure Inv (s : State) : Prop where
  mem : Memory.wf s.mem s.lost = true
  log : s.log.length ≤ 4096
  fuses : ∀ i, s.fuses0.testBit i = true → s.fuses.testBit i = true
  tap : TapRests s

/-- The next state of a step, none where it stops. -/
def stepNext (s : State) : Option State :=
  match step s with
  | .next t => some t
  | _ => none

/-- A run of n steps that does not stop. -/
def runsTo : Nat → State → State → Prop
  | 0, s, t => t = s
  | n + 1, s, t => ∃ u, stepNext s = some u ∧ runsTo n u t

end Sys2Proof.Machine
end

