-- ==== Sys2Proof/Certificates/Slice0/Obligations.lean ====
section
/-! DEFINITION. The statements for the provers, part by part of the block. Every statement about a command's effect
concludes that the command answers that next state, under hypotheses on the state and its operands alone. -/

open Sys2Proof Sys2Proof.Machine Sys2Proof.Machine.Reg

/-! ### The mailbox: rings, the steward, the commands of Table 11.8 -/

/-- CR_ENABLE, CC_ENABLE, CR_DISABLE and CC_DISABLE (R401, R403): a ring with a good base and SIZE is enabled with its
indices zero, another base or SIZE sets RING_ERR and enables nothing, and a ring is disabled whatever stopped it: once both are
disabled nothing of a stop is left. -/
def Obligations.RingsEnabledAndDisabled : Prop :=
  (∀ (size : BitVec 4) (s : State), Functional s → endpointUp s = true → crOn s = false →
    (ringGood s 0x1000 size.toNat = true →
      ∃ t, exec (.crEnable size) s = .next t ∧ crOn t = true ∧ t.getF hubWin MBX_CR_CFG_SIZE = size.toNat ∧
        t.getF hubWin MBX_CR_HEAD_INDEX = 0 ∧ t.getF hubWin MBX_CR_TAIL_INDEX = 0 ∧
        OnlyRegs s t [hubWin + 0x1008, hubWin + 0x100C, hubWin + 0x1010]) ∧
    (ringGood s 0x1000 size.toNat = false →
      ∃ t, exec (.crEnable size) s = .next t ∧ crOn t = false ∧ t.getF hubWin MBX_STATUS_RING_ERR = 1 ∧
        OnlyRegs s t [hubWin + 0x1008, hubWin + 4])) ∧
  (∀ (size : BitVec 4) (s : State), Functional s → endpointUp s = true → ccOn s = false →
    (ringGood s 0x1014 size.toNat = true → s.ccWait = [] → s.taken.any (fun c => c.started && resetsDevice c) = false →
      ∃ t, exec (.ccEnable size) s = .next t ∧ ccOn t = true ∧ t.getF hubWin MBX_CC_CFG_SIZE = size.toNat ∧
        t.getF hubWin MBX_CC_HEAD_INDEX = 0 ∧ t.getF hubWin MBX_CC_TAIL_INDEX = 0 ∧ t.getF hubWin MBX_CC_TAIL_PHASE = 1 ∧
        t.ccUnread = 0 ∧ { t with regs := s.regs, ccUnread := s.ccUnread } = s ∧
        RegsKept s t [hubWin + 0x101C, hubWin + 0x1020, hubWin + 0x1024]) ∧
    (ringGood s 0x1014 size.toNat = false →
      ∃ t, exec (.ccEnable size) s = .next t ∧ ccOn t = false ∧ t.getF hubWin MBX_STATUS_RING_ERR = 1 ∧
        OnlyRegs s t [hubWin + 0x101C, hubWin + 4])) ∧
  (∀ (size : BitVec 4) (s : State), Functional s → endpointUp s = true → crOn s = true →
      ∃ t, exec (.crDisable size) s = .next t ∧ crOn t = false ∧ t.crStop = false ∧
        t.ccStop = (ccOn s && s.ccStop) ∧
        { t with regs := s.regs, crStop := s.crStop, ccStop := s.ccStop } = s ∧ RegsKept s t [hubWin + 0x1008]) ∧
  (∀ (size : BitVec 4) (s : State), Functional s → endpointUp s = true → ccOn s = true →
      ∃ t, exec (.ccDisable size) s = .next t ∧ ccOn t = false ∧ t.ccStop = false ∧ t.ccUnread = 0 ∧
        t.crStop = (crOn s && s.crStop) ∧
        { t with regs := s.regs, crStop := s.crStop, ccStop := s.ccStop, ccUnread := s.ccUnread } = s ∧
        RegsKept s t [hubWin + 0x101C])

/-- CC_ENABLE writes the completions that waited for the ring (R403): none waits any more. -/
def Sys2Proof.Spec.WaitingCompletionsWritten : Prop :=
  ∀ (size : BitVec 4) (s : State), Functional s → endpointUp s = true → ccOn s = false →
    ringGood s 0x1014 size.toNat = true → s.ccStop = false → s.taken.any (fun c => c.started && resetsDevice c) = false →
    ∃ t, exec (.ccEnable size) s = .next t ∧ t.ccWait = [] ∧ ccOn t = true ∧ t.ccUnread = s.ccWait.length

/-- CR_TAIL_WRITE and CC_HEAD_WRITE (R401, R403): an index inside the ring is taken, one outside an enabled ring stops
both rings with RING_ERR. -/
def Sys2Proof.Spec.RingIndicesWritten : Prop :=
  (∀ (v : BitVec 32) (s : State), Functional s → endpointUp s = true → crOn s = true →
    (v.toNat % 4096 < 2 ^ s.getF hubWin MBX_CR_CFG_SIZE →
      ∃ t, exec (.crTailWrite v) s = .next t ∧ t.getF hubWin MBX_CR_TAIL_INDEX = v.toNat % 4096 ∧
        OnlyRegs s t [hubWin + 0x100C]) ∧
    (2 ^ s.getF hubWin MBX_CR_CFG_SIZE ≤ v.toNat % 4096 →
      ∃ t, exec (.crTailWrite v) s = .next t ∧ t.getF hubWin MBX_STATUS_RING_ERR = 1 ∧ t.crStop = true ∧ t.ccStop = true ∧
        { t with regs := s.regs, crStop := s.crStop, ccStop := s.ccStop } = s ∧ RegsKept s t [hubWin + 4])) ∧
  (∀ (v : BitVec 32) (s : State), Functional s → endpointUp s = true → ccOn s = true →
    (v.toNat % 4096 < ccSize s →
      ∃ t, exec (.ccHeadWrite v) s = .next t ∧ t.getF hubWin MBX_CC_HEAD_INDEX = v.toNat % 4096 ∧
        t.ccUnread = s.ccUnread - (v.toNat % 4096 + ccSize s - s.getF hubWin MBX_CC_HEAD_INDEX) % ccSize s ∧
        { t with regs := s.regs, ccUnread := s.ccUnread } = s ∧ RegsKept s t [hubWin + 0x1020]) ∧
    (ccSize s ≤ v.toNat % 4096 →
      ∃ t, exec (.ccHeadWrite v) s = .next t ∧ t.getF hubWin MBX_STATUS_RING_ERR = 1 ∧ t.crStop = true ∧ t.ccStop = true ∧
        { t with regs := s.regs, crStop := s.crStop, ccStop := s.ccStop } = s ∧ RegsKept s t [hubWin + 4]))

/-- COMMAND_TAKE (R403, R404, R405): the entry at the head is read from host memory and the head advances modulo the
ring; a command of this module waits to be executed, a reserved code completes with OPCODE, and a read that fails stops
both rings. -/
def Sys2Proof.Spec.CommandTaken : Prop :=
  ∀ (got : Option (BitVec 512)) (s : State), Functional s → mayTake s = true → s.taken.any resetsDevice = false →
    let h := s.getF hubWin MBX_CR_HEAD_INDEX
    let base := s.getF hubWin MBX_CR_BASE_LO_ADDR + s.getF hubWin MBX_CR_BASE_HI_ADDR * 2 ^ 32
    let u := (s.emit (.hostRead (base + 64 * h) 64 false)).setF hubWin MBX_CR_HEAD_INDEX ((h + 1) % 2 ^ s.getF hubWin MBX_CR_CFG_SIZE)
    (got = none → ∃ t, exec (.commandTake got) s = .next t ∧ t.getF hubWin MBX_STATUS_RING_ERR = 1 ∧
        t.crStop = true ∧ t.ccStop = true ∧ t.taken = s.taken ∧ t.out = s.out ++ [.hostRead (base + 64 * h) 64 false] ∧
        RegsKept s t [hubWin + 4] ∧
        { t with regs := s.regs, crStop := s.crStop, ccStop := s.ccStop, out := s.out } = s) ∧
    (∀ b, got = some b → leAt (natToBytes 64 b.toNat) 4 1 = myDev s →
      let e : Taken := ⟨natToBytes 64 b.toNat, (h + 1) % 2 ^ s.getF hubWin MBX_CR_CFG_SIZE, none, false, 0, 0⟩
      (tkOPC e ≠ 0 ∧ tkOPC e ≤ 0xF → exec (.commandTake got) s = .next { u with taken := s.taken ++ [e] }) ∧
      (tkOPC e = 0 ∨ 0xF < tkOPC e →
        exec (.commandTake got) s = .next (finish { u with taken := s.taken ++ [e] } s.taken.length 0x1001 (tkOPC e) [])))

/-- The indices the host writes to the mailbox rings, the completions that waited for a ring (R401, R403), and the command taken from the ring (R402). -/
def Obligations.RingsIndexed : Prop := Sys2Proof.Spec.RingIndicesWritten ∧ Sys2Proof.Spec.WaitingCompletionsWritten ∧ Sys2Proof.Spec.CommandTaken

/-- A command of the head's own ring that completes (R402, R403): it is no longer taken, and while the completion ring is
open one 32-byte entry is written at the ring's tail, with CID, STATUS, DETAIL, RESULT on success, CRHEAD, DEV and the
ring's PHASE; the tail advances modulo the ring, and PHASE flips where it wraps. -/
def Obligations.CompletionEntryWritten : Prop :=
  ∀ (s : State) (i status detail : Nat) (result : Bytes) (c : Taken), s.taken[i]? = some c → c.from_ = none →
    isHead s = true → ccOpen s = true → bit (leAt c.entry 1 1) 0 = true →
    let n := s.getF hubWin MBX_CC_TAIL_INDEX
    let ph := s.getF hubWin MBX_CC_TAIL_PHASE
    let base := s.getF hubWin MBX_CC_BASE_LO_ADDR + s.getF hubWin MBX_CC_BASE_HI_ADDR * 2 ^ 32
    let t := finish s i status detail result
    t.taken = s.taken.eraseIdx i ∧ t.ccUnread = s.ccUnread + 1 ∧
      t.out = s.out ++ [.hostWrite (base + 32 * n)
        (natToBytes 2 (tkCID c) ++ natToBytes 2 status ++ natToBytes 4 detail ++
          slice (if status = 0 then result else []) 0 16 ++ natToBytes 2 c.crhead ++ natToBytes 1 (myDev s) ++ [0] ++
          natToBytes 4 (ph * 2 ^ 31)) false] ∧
      t.getF hubWin MBX_CC_TAIL_INDEX = (n + 1) % ccSize s % 2 ^ 12 ∧
      t.getF hubWin MBX_CC_TAIL_PHASE = (if (n + 1) % ccSize s = 0 then 1 - ph else ph) ∧
      RegsKept s t [hubWin + 0x1024] ∧
      { t with regs := s.regs, taken := s.taken, ccUnread := s.ccUnread, out := s.out } = s

/-- DEV_INFO, LOG_READ, ATTEST_QUOTE and RELAY_TOPOLOGY with mode 0 (Table 11.8): with a buffer that meets R406 the record
is written to host memory before the completion, which succeeds. The records of LOG_READ are those from the number asked for on; an
SPDM request that waited for a quote is served after it (R524). -/
def Obligations.ReportingCommandsComplete : Prop :=
  (∀ (s : State) (i : Nat) (c : Taken), Functional s → cmdAt s i 1 = some c → badBuffer c 8 0x10 256 = none →
    (devInfoBytes s).length = 256 ∧
    exec (.devInfo i) s = .next (finish (hostWrite s (tkArg c 8 8) (devInfoBytes s)) i 0 0 [])) ∧
  (∀ (s : State) (i : Nat) (c : Taken), Functional s → cmdAt s i 0xD = some c → badBuffer c 0x10 0x18 32 = none →
    let want := tkArg c 8 4
    let l := (logFrom s want).take (tkArg c 0x18 4 / 32)
    let first := (l.head?.map (·.seq)).getD want
    ((∀ r ∈ s.log, r.seq ≤ s.getF hubWin MBX_EVT_SEQ_SEQ) → logFrom s want = s.log.filter (fun r => decide (want ≤ r.seq))) ∧
    (l = [] → exec (.logRead i) s = .next (finish s i 0 0 (natToBytes 4 want))) ∧
    (l ≠ [] → exec (.logRead i) s = .next (finish (hostWrite s (tkArg c 0x10 8) (l.flatMap logBytes)) i 0 0
      (natToBytes 4 first ++ natToBytes 4 l.length ++ natToBytes 4 ((first + 2 ^ 32 - want) % 2 ^ 32))))) ∧
  (∀ (s : State) (i : Nat) (c : Taken), Functional s → cmdAt s i 0xC = some c → badBuffer c 0x28 0x30 0 = none →
    s.boot.ident = 0 →
    let sel := tkArg c 0x34 4
    let q := quote s (slice c.entry 8 32) sel
    ceilDiv ((quoteBody s (slice c.entry 8 32) sel).length + 512) 64 * 64 ≤ tkArg c 0x30 4 →
      q.1.length = (quoteBody s (slice c.entry 8 32) sel).length + 512 ∧
      exec (.attestQuote i) s = .next (spdmResume
        (finish (hostWrite q.2 (tkArg c 0x28 8) q.1) i 0 0 (natToBytes 4 q.1.length)))) ∧
  (∀ (s : State) (i : Nat) (c : Taken) (net : List Bytes) (got : Bytes) (failAt : Option Nat), Functional s →
    cmdAt s i 0xF = some c → tkArg c 8 1 = 0 → badBuffer c 0x10 0x18 12352 = none →
      exec (.relayTopology i net got failAt) s = .next (finish
        (hostWrite s (tkArg c 0x10 8) (topologyBytes (knownRecords s net))) i 0 0 (natToBytes 1 (knownRecords s net).length)))

/-- Commands with a bad host buffer (R406): an address or a length that is no multiple of 64 is refused with ALIGN, a
length below what Table 11.8 requires with FIELD, and nothing else happens (an SPDM request that waited for a quote is served,
R524). -/
def Sys2Proof.Spec.BadBuffersRefused : Prop :=
  ∀ (s : State) (i st d : Nat) (c : Taken), Functional s →
    (cmdAt s i 1 = some c → badBuffer c 8 0x10 256 = some (st, d) → exec (.devInfo i) s = .next (finish s i st d [])) ∧
    (cmdAt s i 0xD = some c → badBuffer c 0x10 0x18 32 = some (st, d) → exec (.logRead i) s = .next (finish s i st d [])) ∧
    (cmdAt s i 0xC = some c → badBuffer c 0x28 0x30 0 = some (st, d) → exec (.attestQuote i) s = .next (spdmResume (finish s i st d []))) ∧
    (∀ dp dl req, badBuffer c dp dl req = some (st, d) →
      (tkArg c dp 8 % 64 ≠ 0 ∧ st = 0x1003 ∧ d = dp) ∨
      (tkArg c dp 8 % 64 = 0 ∧ tkArg c dl 4 % 64 ≠ 0 ∧ st = 0x1003 ∧ d = dl) ∨
      (tkArg c dp 8 % 64 = 0 ∧ tkArg c dl 4 % 64 = 0 ∧ tkArg c dl 4 < req ∧ st = 0x1002 ∧ d = dl))

/-- PLAN_START, PLAN_STOP, PLAN_UNLOAD and KILN_RUN on a slot in a state that allows them (Tables 1.1 and 11.8, R40, R47, R162,
R391, R464): RUNNING with the origin and relay output of now; STOPPING while frames of the plan are in flight, at once in an
unsegmented plan and after the round in a segmented one; EMPTY with everything the plan held released; the passes of the
selected segments, whose first switch starts once no frame is being worked on. That a SEGMASK of zero completes at once is log 47,
and that the passes of a segmented plan fall between its rounds log 23: readings of the model. -/
def Obligations.PlanSlotCommandsComplete : Prop :=
  (∀ (s : State) (i : Nat) (c : Taken), Functional s → cmdAt s i 3 = some c → tkArg c 8 1 < 8 →
    planState s (tkArg c 8 1) = 2 →
    let p := tkArg c 8 1
    let u := (s.setF (cadBase p) CAD_STATE_SLOT 3).setPlan p { s.plan p with
      origin := s.getF (cadBase p) CAD_ORIGIN_OFFSET, outCfg := s.reg (hubWin + 0x60A00 + 8 * p)
      outLen := s.getF (hubWin + 0x60000 + 8 * p) RLY_OUT_LEN_BYTES, lastDone := now s }
    planState u p = 3 ∧
    exec (.planStart i) s = .next (finish (restartAges (holdFromDies u p) p) i 0 0 (natToBytes 8 (now s)))) ∧
  (∀ (s : State) (i : Nat) (c : Taken), Functional s → cmdAt s i 4 = some c → tkArg c 8 1 < 8 →
    planState s (tkArg c 8 1) = 3 → (s.plan (tkArg c 8 1)).reloc = none → (s.plan (tkArg c 8 1)).switch = 0 →
    (s.frames.any (fun f => f.plan = tkArg c 8 1 && f.held.isNone && !segDone s f)) = true →
    let p := tkArg c 8 1
    let u := { s with taken := s.taken.set i { c with started := true, v0 := 0, v1 := 0 } }
    exec (.planStop i) s = .next (
      if piNSEG (s.plan p).img ≤ 1 ∨ ((s.plan p).cfg = 0 ∧ (s.plan p).roundN = 0) then
        (u.setF (cadBase p) CAD_STATE_SLOT 5).setPlan p { s.plan p with window := false }
      else u.setPlan p { s.plan p with stopPend := true, window := false })) ∧
  (∀ (s : State) (i : Nat) (c : Taken), Functional s → cmdAt s i 5 = some c → tkArg c 8 1 < 8 →
    (planState s (tkArg c 8 1) = 2 ∨ planState s (tkArg c 8 1) = 6) →
    (∀ k, k < 128 → (s.stream k).plan ≠ some (tkArg c 8 1)) →
    exec (.planUnload i) s = .next (finish (idleMemories (releasePlan s (tkArg c 8 1))) i 0 0 [])) ∧
  (∀ (s : State) (i : Nat) (c : Taken), Functional s → cmdAt s i 8 = some c → tkArg c 8 1 < 8 →
    planState s (tkArg c 8 1) = 3 → imKiln (s.plan (tkArg c 8 1)).img = true →
    tkArg c 0xA 2 < 2 ^ piNSEG (s.plan (tkArg c 8 1)).img →
    let p := tkArg c 8 1
    let mask := tkArg c 0xA 2
    exec (.kilnRun i) s = .next (
      if mask = 0 then finish s i 0 0 []
      else planCheck ({ s with taken := s.taken.set i { c with started := true, v0 := 0, v1 := 0 } }.setPlan p
        { s.plan p with kiln := some ⟨(List.range 16).filter (fun n => mask.testBit n), 0, [], none⟩ }) p))

/-- The commands of a plan slot refused for its state (Table 11.12): a slot above 7 is FIELD at offset 8, a state that does
not allow the command PLAN_STATE with the state as DETAIL, and nothing else happens. -/
def Sys2Proof.Spec.PlanStateRefusals : Prop :=
  ∀ (s : State) (i : Nat) (c : Taken), Functional s →
    let p := tkArg c 8 1
    (cmdAt s i 3 = some c → (7 < p → exec (.planStart i) s = .next (finish s i 0x1002 8 [])) ∧
      (p ≤ 7 → planState s p ≠ 2 → exec (.planStart i) s = .next (finish s i 0x2001 (planState s p) []))) ∧
    (cmdAt s i 4 = some c → (7 < p → exec (.planStop i) s = .next (finish s i 0x1002 8 [])) ∧
      (p ≤ 7 → planState s p ≠ 3 → planState s p ≠ 4 →
        exec (.planStop i) s = .next (finish s i 0x2001 (planState s p) []))) ∧
    (cmdAt s i 5 = some c → (7 < p → exec (.planUnload i) s = .next (finish s i 0x1002 8 [])) ∧
      (p ≤ 7 → planState s p ≠ 2 → planState s p ≠ 6 →
        exec (.planUnload i) s = .next (finish s i 0x2001 (planState s p) []))) ∧
    (cmdAt s i 8 = some c → (7 < p → exec (.kilnRun i) s = .next (finish s i 0x1002 8 [])) ∧
      (p ≤ 7 → planState s p ≠ 3 → exec (.kilnRun i) s = .next (finish s i 0x2001 (planState s p) [])))

/-- What refuses a mailbox command before it has an effect: its buffer (R406), its plan slot and the slot's state (Table 11.12). -/
def Obligations.MailboxRefusals : Prop := Sys2Proof.Spec.BadBuffersRefused ∧ Sys2Proof.Spec.PlanStateRefusals

/-- PLAN_LOAD of an image in host memory into an EMPTY slot (R387 to R390, R407): as much of the image as its header names is read,
and at least 64 bytes. An image that passes the steps of the load sequence leaves the command waiting for the two-phase commit of
step 20, which starts if no other group is under way. One that fails a step leaves the slot EMPTY, is logged, and completes with
the step's status and DETAIL. A read that fails is HOST_READ (0x1004) with the offset, and a slot that is not EMPTY is refused
with status 0x300B. Where an access of the load has to wait for a memory group, nothing of it has happened and wake is requested
(log 97). -/
def Obligations.PlanLoaded : Prop :=
  ∀ (s : State) (i : Nat) (c : Taken) (got : Bytes) (failAt : Option Nat), Functional s → cmdAt s i 2 = some c →
    loadBad s c = none → c.v0 = 0 → tkArg c 9 1 = 0 → isHead s = true →
    let p := tkArg c 8 1
    let len := tkArg c 0x18 8
    let n := min len (max 64 (leAt got 0x10 8))
    let u := s.emit (.hostRead (tkArg c 0x10 8) n false)
    (planState s p = 0 → failAt = none → ∀ v, loadImage u p (slice got 0 n) len [] = (none, v) →
      exec (.planLoad i got failAt) s = .next (awaited s (startGroup (beginGroup (startTaken (holdFromDies v p) i 0 p))))) ∧
    (planState s p = 0 → failAt = none → ∀ r v, loadImage u p (slice got 0 n) len [] = (some r, v) →
      exec (.planLoad i got failAt) s = .next (awaited s (finish (logEvent v (0x3000 + r.1) 0xFF p r.2 0 0 0) i (0x3000 + r.1) r.2 []))) ∧
    (planState s p = 0 → ∀ o, failAt = some o → o < 64 → o < len →
      exec (.planLoad i got failAt) s = .next (awaited s (finish u i 0x1004 o []))) ∧
    (planState s p ≠ 0 → exec (.planLoad i got failAt) s = .next (awaited s (finish
      (logEvent s 0x300B 0xFF p (planState s p) 0 0 0) i 0x300B (planState s p) [])))

/-! ### Streams, doorbells and the commands of the device -/

/-- STREAM_OPEN (R22, R409, R412): accepted, the slot is bound with the settings of the command, its FIFO and rings are
empty with the result phase 1, and the command returns its history block; the checks answer in the order of R409. Where the write of
the stream's block to a bank group must wait, nothing has happened and wake is requested (log 97). -/
def Sys2Proof.Spec.StreamsOpened : Prop :=
  ∀ (s : State) (i : Nat) (c : Taken), Functional s → cmdAt s i 6 = some c →
    let k := tkArg c 8 1
    let p := tkArg c 9 1
    let hb := tkArg c 0xA 1
    let l := (mates s p).map (fun m => (s.stream m).interval)
    (∀ o, openField c = some o → exec (.streamOpen i) s = .next (awaited s (finish s i 0x1002 o []))) ∧
    (openField c = none →
      (∀ q, (s.stream k).plan = some q → exec (.streamOpen i) s = .next (awaited s (finish s i 0x2002 q []))) ∧
      ((s.stream k).plan = none → planState s p ≠ 2 → planState s p ≠ 3 →
        exec (.streamOpen i) s = .next (awaited s (finish s i 0x2001 (planState s p) []))) ∧
      ((s.stream k).plan = none → (planState s p = 2 ∨ planState s p = 3) →
        (∀ st d, openBad s c = some (st, d) → exec (.streamOpen i) s = .next (awaited s (finish s i st d []))) ∧
        (openBad s c = none → (∀ m ∈ mates s p, hb = 0xFF ∨ (s.stream m).hblk ≠ hb) →
          (rateOk (piPADM (s.plan p).img) (tkArg c 0x1C 4 :: l) = false →
            exec (.streamOpen i) s = .next (awaited s (finish s i 0x4001 (rateDetail (piPADM (s.plan p).img) l) []))) ∧
          (rateOk (piPADM (s.plan p).img) (tkArg c 0x1C 4 :: l) = true →
            ∃ u, exec (.streamOpen i) s = .next (awaited s (finish u i 0 0 (natToBytes 2 hb))) ∧ u.taken = s.taken ∧
              u.stream k = { StreamSt.reset with
                plan := some p, hblk := hb, ivec := tkArg c 0xB 1, modcnt := tkArg c 0xE 1, modus := tkArg c 0xF 1
                interval := tkArg c 0x1C 4, frbase := tkArg c 0x20 8, rrbase := tkArg c 0x28 8, rsize := tkArg c 0x30 1
                next := tkArg c 0x18 4, last := (tkArg c 0x18 4 + 2 ^ 32 - 1) % 2 ^ 32
                timed := bit (s.reg (hubWin + 0x60A40 + 4 * (k / 32))) (k % 32) } ∧
              u.fifo k = FifoSt.reset ∧ u.reg (ringBase k) = 0 ∧ u.reg (ringBase k + 4) = 0 ∧ u.reg (ringBase k + 8) = 0 ∧
              u.getF (ringBase k) MBX_RR_STATUS_BOUND = 1 ∧ u.getF (ringBase k) MBX_RR_STATUS_PHASE = 1 ∧
              u.getF (ringBase k) MBX_RR_STATUS_TAIL = 0 ∧
              (∀ j, j ≠ k → u.stream j = s.stream j) ∧
              RegsKept s u [ringBase k, ringBase k + 4, ringBase k + 8, ringBase k + 0xC, fifBase k, fifBase k + 4,
                fifBase k + 8]))))

/-- STREAM_CLOSE (R46, R48, R355): in a plan with a feeder the stream's EOF is queued behind the frames admitted, and the command
waits. In a slot that is READY or FAULTED, or whose plan has no feeder, no token runs (log 111): the stream's history is forgotten,
the slot is freed at once when no frame of it is in flight, and otherwise the command waits for the last of them. A frame fetched
and not admitted gets a NOTRUN result with reason 1 and leaves the FIFO. A slot above 127 is FIELD, a slot that is not bound
STREAM_STATE with 0xFF. -/
def Sys2Proof.Spec.StreamsClosed : Prop :=
  ∀ (s : State) (i : Nat) (c : Taken), Functional s → cmdAt s i 7 = some c →
    let k := tkArg c 8 1
    (127 < k → exec (.streamClose i) s = .next (finish s i 0x1002 8 [])) ∧
    (k ≤ 127 → (s.stream k).plan = none → exec (.streamClose i) s = .next (finish s i 0x2002 0xFF [])) ∧
    (∀ p, k ≤ 127 → (s.stream k).plan = some p →
      let u := { s with taken := s.taken.set i { c with started := true, v0 := 0, v1 := 0 } }
      let x := { s.stream k with closeHead := s.getF (ringBase k) MBX_FR_HEAD_INDEX, closeT := now s }
      let v := u.setStream k x
      ((s.fifo k).frames = [] →
        (planState s p ≠ 2 → planState s p ≠ 6 → hasFeeder s p = true →
          exec (.streamClose i) s = .next ((v.setStream k { x with closing := 1 }).setFeed p
              { s.feed p with todo := (s.feed p).todo ++ [(k, none)] })) ∧
        let w := { v.setStream k { x with closing := 3 } with purge := s.purge ++ [(p, k, 2 ^ 32)] }
        (planState s p = 2 ∨ planState s p = 6 ∨ hasFeeder s p = false →
          ((∀ f ∈ s.frames, f.slot ≠ k) →
            exec (.streamClose i) s = .next (awaited w (freeStream (purgeStream w p k) k))) ∧
          ((∃ f ∈ s.frames, f.slot = k ∧ f.aborted = false) → exec (.streamClose i) s = .next w))) ∧
      (∀ g l, (s.fifo k).frames.filter (fun f => f.seq.isNone) = g :: l →
        (∀ f ∈ s.frames, f.slot = k → f.held = none) →
        planState s p ≠ 2 → planState s p ≠ 6 → hasFeeder s p = true →
        let r := (g :: l).foldl (fun t f =>
          writeResult t k (fdUSER f.desc) 0xFFFFFFFF 0 (fNotrun 1 ||| f.upFlags) f.ring (fdNOIRQ f.desc)) v
        let y := s.fifo k
        let d := ((r.setFifo k { y with
            frames := y.frames.filter (fun f => f.seq.isSome), wr := g.base, rd := min y.rd g.base, pulls := [], asked := 0
            granted := 0 }).setF (fifBase k) FIF_STATUS_OPEN 0).setF (fifBase k) FIF_REMAIN_BYTES 0
        exec (.streamClose i) s = .next ((d.setStream k { d.stream k with closing := 1 }).setFeed p
          { d.feed p with todo := (d.feed p).todo ++ [(k, none)] })))

/-- A stream slot is opened (R22, R409, R412) and closed (R46, R48). -/
def Obligations.StreamsOpenedAndClosed : Prop := Sys2Proof.Spec.StreamsOpened ∧ Sys2Proof.Spec.StreamsClosed

/-- FR_TAIL_WRITE and RR_HEAD_WRITE (R412): an index inside the ring is taken, and a result index returns the results it
passes; a write to an unbound slot is ignored, and one out of range is ignored and logged. -/
def Obligations.StreamDoorbells : Prop :=
  ∀ (k : Fin 128) (v : BitVec 32) (s : State), Functional s →
    let x := s.stream k
    let n := 2 ^ x.rsize
    let h := s.getF (ringBase k) MBX_RR_HEAD_INDEX
    (x.plan = none → exec (.frTailWrite k v) s = .next s ∧ exec (.rrHeadWrite k v) s = .next s) ∧
    (∀ p, x.plan = some p →
      (v.toNat % 4096 < n →
        exec (.frTailWrite k v) s = .next (s.setF (ringBase k) MBX_FR_TAIL_INDEX v.toNat) ∧
        exec (.rrHeadWrite k v) s = .next ((s.setF (ringBase k) MBX_RR_HEAD_INDEX v.toNat).setStream k
          { x with unread := x.unread - (v.toNat % 4096 + n - h) % n })) ∧
      (n ≤ v.toNat % 4096 →
        exec (.frTailWrite k v) s = .next (logEvent s 0x1002 0xFF p (0x2000 + 0x10 * k) v.toNat k 0) ∧
        exec (.rrHeadWrite k v) s = .next (logEvent s 0x1002 0xFF p (0x2000 + 0x10 * k + 8) v.toNat k 0)))

/-- INJECT, FENCE_CORE, RESET_DEVICE and POWER_STATE where nothing refuses them (R410, R441, R449, R450, R496 to R500, R562),
and the end of a power state's exit time: POWER_STATE 1 puts the cores of its mask in HOLD and asks their scratch to be retained,
POWER_STATE 0 waits 10 ms, 5 ms or 20 µs (leaving STANDBY, DIE-OFF, or HOLD alone), and completes at once in ACTIVE. RESET_DEVICE
of the device writes its completion first and resets after it, and waits where the completion ring is not open. A hub shut down for
heat and a steward in its restart leave a power state as it is (R494, R502). That a cluster reset completes at once, and that
FENCE_CORE acts in its own event, is the model's reading (log 76). -/
def Obligations.DeviceCommandsComplete : Prop :=
  (∀ (s : State) (i : Nat) (c : Taken), Functional s → cmdAt s i 0xE = some c →
    let d := tkArg c 8 2
    (bit s.fuses 2126 = false → exec (.inject i) s = .next (finish s i 0x5002 0 [])) ∧
    (bit s.fuses 2126 = true → 1 ≤ d → d ≤ 0x13 → injTargetOk d (tkArg c 0xC 4) = true →
      exec (.inject i) s = .next (finish
        ((s.setF (injBase d) TXU_INJ_TARGET (tkArg c 0xC 4)).setF (injBase d) TXU_INJ_COUNT (tkArg c 0x10 2)) i 0 0 []))) ∧
  (∀ (s : State) (i : Nat) (c : Taken), Functional s → cmdAt s i 9 = some c → tkArg c 8 1 < 128 →
    let n := tkArg c 8 1
    (fenced s n = true → exec (.fenceCore i) s =
      .next (finish s i 0 0 (fenceResult 4 0xFF ((holderOf s n).getD 0xFF) 0))) ∧
    (fenced s n = false → holderOf s n = none →
      exec (.fenceCore i) s = .next (finish (fenceCore s n) i 0 0 (fenceResult 1 0xFF 0xFF 0))) ∧
    (∀ p, fenced s n = false → holderOf s n = some p → idleSpare s p n = false → planState s p ≠ 6 →
      exec (.fenceCore i) s =
        .next (fenceAndMove { s with taken := s.taken.set i { c with started := true, v0 := 0, v1 := p } } n))) ∧
  (∀ (s : State) (i : Nat) (c : Taken), Functional s → cmdAt s i 0xA = some c →
    (tkArg c 8 1 = 0 → c.from_ = none →
      (ccOpen s = true → exec (.resetDevice i) s = .next (deviceReset (finish s i 0 0 []) rsWARM 4 0)) ∧
      (ccOpen s = false → exec (.resetDevice i) s =
        .next { s with taken := s.taken.set i { c with started := true, v0 := 0, v1 := 0 } })) ∧
    (tkArg c 8 1 = 1 → tkArg c 9 1 < 16 → (∀ n, n < 8 → holderOf s (8 * tkArg c 9 1 + n) = none) →
      exec (.resetDevice i) s = .next (finish (clusterReset s (tkArg c 9 1)) i 0 0 []))) ∧
  (∀ (s : State) (i : Nat) (c : Taken), Functional s → cmdAt s i 0xB = some c →
    let v (t : Nat) (w : Nat) : State := { s with taken := s.taken.set i { c with started := true, v0 := t, v1 := w } }
    (tkArg c 8 1 = 0 → (∀ d, d < 4 → dieOff s d = false) → s.getF pwrHub PWR_STATE_STANDBY ≠ 1 →
      (∀ j, j < 4 → s.reg (pwrHub + 0x1C + 4 * j) = 0) → exec (.powerState i) s = .next (finish s i 0 0 [])) ∧
    (tkArg c 8 1 = 0 → s.getF pwrHub PWR_STATE_STANDBY = 1 →
      exec (.powerState i) s = .next (activeCheck (v (now s + 10000000) 0))) ∧
    (tkArg c 8 1 = 0 → (∃ d, d < 4 ∧ dieOff s d = true) → s.getF pwrHub PWR_STATE_STANDBY ≠ 1 →
      exec (.powerState i) s = .next (activeCheck (holdOut (v (now s + 5000000) 0)))) ∧
    (tkArg c 8 1 = 0 → (∀ d, d < 4 → dieOff s d = false) → s.getF pwrHub PWR_STATE_STANDBY ≠ 1 →
      (∃ j, j < 4 ∧ s.reg (pwrHub + 0x1C + 4 * j) ≠ 0) →
      exec (.powerState i) s = .next (activeCheck (holdOut (v (now s + 20000) 1)))) ∧
    (tkArg c 8 1 = 1 → (∀ n, n < 128 → bit (tkArg c 0x10 16) n = true → holderOf s n = none) →
      exec (.powerState i) s = .next (holdCheck (idleMemories ((maskBits 128 (tkArg c 0x10 16)).foldl
        (fun t n => retentionRequest (setHold t (n / 32) (n % 32) true) (n / 32) (n % 32)) (v 0 0))))) ∧
    (tkArg c 8 1 = 2 → tkArg c 9 1 < 16 → (∀ d, d < 4 → bit (tkArg c 9 1) d = true → dieHeld s d = false) →
      exec (.powerState i) s = .next (finish ((maskBits 4 (tkArg c 9 1)).foldl
        (fun t d => if dieOff t d then t else dieDown t d) s) i 0 0 [])) ∧
    (tkArg c 8 1 = 3 → (∀ p, p < 8 → planState s p < 3 ∨ 5 < planState s p) → s.getF pwrHub PWR_STATE_STANDBY ≠ 1 →
      exec (.powerState i) s = .next (finish (standbyIn s) i 0 0 [])) ∧
    (3 < tkArg c 8 1 → exec (.powerState i) s = .next (finish s i 0x1002 8 []))) ∧
  (∀ (s : State) (i : Nat) (c : Taken), Functional s → s.hubHot = false → s.boot.down = false →
    s.taken.findIdx? (fun t => t.started && tkOPC t = 0x0B && tkArg t 8 1 = 0 && t.v1 = 0 && decide (t.v0 ≤ now s)) = some i →
    s.taken[i]? = some c →
    exec .powerStateExitDone s = .next (serveStuck (awaited s (activeCheck (holdOut (powerOn
      { s with taken := s.taken.set i { c with started := true, v0 := c.v0, v1 := 1 } })))))) ∧
  (∀ s : State, Functional s → s.hubHot = true ∨ s.boot.down = true →
    exec .powerStateExitDone s = .next (serveStuck s))

/-! ### What the host and the steward read and write -/

/-- A register word whose write has no effect of its own: all of a compute die's window, and the words of the cluster and hub
windows that no unit acts on. -/
def Sys2Proof.Spec.plainWord (w : Win) (o : Nat) : Prop :=
  match w with
  | .die => True
  | .cluster => (0x1000 ≤ o ∧ o < 0x2000 ∨ 0x3000 ≤ o ∧ o < 0x10000 ∧ o ≠ 0x6000) ∧ gustMaskAt o = none
  | .hub => 0x10000 ≤ o ∧ o < 0x30000 ∨ 0x48000 ≤ o ∧ o < 0x50000
  | .core => False

/-- REGISTER_WRITE by access type (R12, R14): in a register word whose write has no effect of its own, RW bits take the value, ones
clear W1C bits, a bit that the hardware sets in the moment of the write is set, and RO and reserved bits keep their value; no
other word changes, and nothing but registers. A zero written to a WO or W1S field does nothing (TXU_CTRL, TXU_FENCE.SET,
MVR_CHn_CTRL.ABORT, MBX_HB_GO, DBG_LOCK); a one acts: CLEAR discards what is staged (R430), SET fences the core (R439), LOCK
locks the monitor (R537), and any write of PWR_WDOG_KICK restarts the watchdog (R502). -/
def Obligations.RegisterWriteByAccessType : Prop :=
  (∀ (s : State) (a : BitVec 48) (w : Win) (o : Nat) (v sets : BitVec 32), Functional s → stewardUp s = true → a.toNat % 4 = 0 →
    windowOf a.toNat = some (w, o) → Sys2Proof.Spec.plainWord w o → reachable s a.toNat = true →
    ∃ t, exec (.registerWrite false a v sets) s = .next t ∧ OnlyRegs s t [a.toNat] ∧
      ∀ j, j < 32 →
        let r := if bit (accMask a.toNat .rw) j then bit v.toNat j else bit (s.reg a.toNat) j
        bit (t.reg a.toNat) j = if bit (accMask a.toNat .w1c) j then (r && !bit v.toNat j) || bit sets.toNat j else r) ∧
  (∀ (s : State) (a : BitVec 48) (v sets : BitVec 32) (u : Fin 17) (n : Fin 16), Functional s → stewardUp s = true →
    reachable s a.toNat = true →
    (a.toNat = txuBase u ∧ bits v.toNat 0 2 = 0 ∨ a.toNat = txuBase u + 0x10 ∧ bits v.toNat 8 8 = 0 ∨
      a.toNat = mvrBase u n + 4 ∧ bit v.toNat 0 = false ∨ a.toNat = hubWin + 0x10C ∧ bit v.toNat 0 = false ∨
      a.toNat = hubWin + 0x90008 ∧ bit v.toNat 0 = false) →
    exec (.registerWrite false a v sets) s = .next s) ∧
  (∀ (s : State) (a : BitVec 48) (v sets : BitVec 32), Functional s → stewardUp s = true →
    (a.toNat = hubWin + 0x90008 → bit v.toNat 0 = true → ∃ t, exec (.registerWrite false a v sets) s = .next t ∧
      t.getF dbgBase DBG_STATUS_LOCKED = 1 ∧ t.getF dbgBase DBG_STATUS_CHAL = 0 ∧ t.mon.chal = none ∧
      { t with regs := s.regs, mon := s.mon } = s ∧ RegsKept s t [dbgBase + DBG_STATUS_LOCKED.off]) ∧
    (a.toNat = hubWin + 0x70030 →
      exec (.registerWrite false a v sets) s = .next { s with boot := { s.boot with kick := now s } }) ∧
    (∀ u : Fin 17, a.toNat = txuBase u → reachable s a.toNat = true → bits v.toNat 0 2 = 2 →
      txuState s u = 1 ∨ txuState s u = 5 → ∃ t, exec (.registerWrite false a v sets) s = .next t ∧
        txuState t u = 0 ∧ txuCount t u = 0 ∧ OnlyRegs s t [txuBase u + TXU_STATUS_STATE.off]) ∧
    (∀ (u : Fin 16) (k : Fin 8), a.toNat = txuBase u + 0x10 → reachable s a.toNat = true → bits v.toNat 8 8 = 2 ^ k.val →
      holderOf s (8 * u + k) = none →
      ∃ t, exec (.registerWrite false a v sets) s = .next t ∧ fenced t (8 * u + k) = true))

/-- REGISTER_WRITE and the reads of registers (R12, R14, R39, R121, R283, R284, R397): CAD_TIME_LO returns the low half of the
time base and latches the high half in CAD_TIME_HI; the mailbox block's alias ranges read the block they stand for (R398); a read of an RC field returns its value and leaves the reset value, or, where
the hardware records something in the same moment, 1 in a counter and the value recorded in a measure; BAR0 takes aligned words
only, and a steward access that is no word of a register window or of memory is logged as a bus error. That an RC word read as the
hardware records something holds 1 or the value recorded is log 15; that a 32-bit access to a gust feed window is a bus error is log
108; where the AER registers lie, and that the advisory message raises vector 1 where it is not masked, is log 132. -/
def Obligations.RegistersRead : Prop :=
  (∀ (s : State), Functional s → endpointUp s = true →
    exec (.cadTimeLoRead true) s = .next ((s.setReg (hubWin + 0x10804) (now s / 2 ^ 32)).emit
      (.readData (natToBytes 4 (now s % 2 ^ 32))))) ∧
  (∀ (s : State), Functional s → stewardUp s = true →
    exec (.cadTimeLoRead false) s = .next (s.setReg (hubWin + 0x10804) (now s / 2 ^ 32))) ∧
  (∀ (s : State) (a : BitVec 48) (w : Win) (o : Nat), Functional s → stewardUp s = true → wordReg s a.toNat = true →
    let b := aliasOf a.toNat
    windowOf b = some (w, o) → b ≠ hubWin + 0x10800 → accMask b .rc ≠ 0 →
    let kept := s.reg b &&& (2 ^ 32 - 1 - accMask b .rc)
    exec (.readClear false a none) s = .next (s.setReg b (kept + (resetWord b &&& accMask b .rc))) ∧
    (∀ n : BitVec 32,
      (rcMeasure w o = false → exec (.readClear false a (some n)) s = .next (s.setReg b (kept + 1))) ∧
      (rcMeasure w o = true → exec (.readClear false a (some n)) s =
        .next (s.setReg b (kept + (n.toNat &&& accMask b .rc)))))) ∧
  (∀ (s : State) (a : BitVec 48) (inc : Option (BitVec 32)), Functional s → endpointUp s = true → a.toNat % 4 = 0 →
    a.toNat < 0x10000 → a.toNat ≠ 0x3800 →
    exec (.readClear true a inc) s = .next ((clearRC s (bar0Addr a.toNat) inc).emit
      (.readData (natToBytes 4 (regView s (bar0Addr a.toNat)))))) ∧
  (∀ (s : State) (a : BitVec 48) (v sets : BitVec 32), Functional s → stewardUp s = true →
    (placeOf a.toNat = .unmapped ∨ a.toNat % 4 ≠ 0 ∧ (placeOf a.toNat = .dieReg ∨ placeOf a.toNat = .hubReg) ∨
      (feedWindow a.toNat).isSome = true) →
    exec (.registerWrite false a v sets) s = .next (logEvent s 0x8004 0xFF 0xFF (a.toNat % 2 ^ 32) (a.toNat / 2 ^ 32) 0 0)) ∧
  (∀ (s : State) (a : BitVec 48) (v sets : BitVec 32), Functional s → endpointUp s = true → a.toNat % 4 = 0 →
    a.toNat < 0x1000 → a.toNat ≠ 0x10C →
    exec (.registerWrite true a v sets) s = .next
      (coincide s (hubWin + a.toNat) v.toNat sets.toNat (fun t w => t.writePlain (hubWin + a.toNat) w))) ∧
  (∀ (s : State), Functional s → endpointUp s = true →
    let aer := (s.cfgSpace.put 0x104 (BitVec.ofNat 32 (cfgHeld s 0x104 0 ||| 2 ^ 15))).put 0x110
      (BitVec.ofNat 32 (cfgHeld s 0x110 0 ||| 2 ^ 13))
    let noted (t : State) : State := { t with cfgSpace := aer }
    (bit (cfgHeld s 0x114 0x2000) 13 = true →
      exec (.bar0InvalidAccess false) s = .next (noted (s.emit .completerAbort)) ∧
      exec (.bar0InvalidAccess true) s = .next (noted s)) ∧
    (bit (cfgHeld s 0x114 0x2000) 13 = false →
      exec (.bar0InvalidAccess false) s =
        .next (raiseVector ((noted (s.emit .completerAbort)).emit .aerAdvisory) 1) ∧
      exec (.bar0InvalidAccess true) s = .next (raiseVector ((noted s).emit .aerAdvisory) 1)))

/-- BAR2_WRITE (R11, R259, R283, R291, R400): with EN and WEN the bytes are stored from the address of the window upward, and
every other byte of memory reads as before; a register takes one aligned word, or two; a gust feed window takes whole lines, while
its buffer has room for them (log 108); an access to a bank group that is not awake waits (log 107); an access that BAR2 does not
map, or that spans two regions, is a bus error; without EN or WEN the write is discarded. -/
def Sys2Proof.Spec.Bar2WritesMemory : Prop :=
  ∀ (s : State) (n : BitVec 28) (data : Bytes), Functional s → endpointUp s = true → data ≠ [] →
    let a := s.getF hubWin MBX_BAR2_HI_ADDR * 2 ^ 32 + s.getF hubWin MBX_BAR2_LO_ADDR * 2 ^ 28 + n.toNat
    let e := a + data.length - 1
    (s.getF hubWin MBX_BAR2_CTRL_EN = 0 ∨ s.getF hubWin MBX_BAR2_CTRL_WEN = 0 →
      exec (.bar2Write n data) s = .next s) ∧
    (s.getF hubWin MBX_BAR2_CTRL_EN = 1 → s.getF hubWin MBX_BAR2_CTRL_WEN = 1 →
      bar2Maps s a = false ∨ bar2Maps s e = false ∨ placeOf a ≠ placeOf e →
      exec (.bar2Write n data) s = .next (logBusError s a)) ∧
    (s.getF hubWin MBX_BAR2_CTRL_EN = 1 → s.getF hubWin MBX_BAR2_CTRL_WEN = 1 → bar2Maps s a = true → bar2Maps s e = true →
      placeOf a = placeOf e →
      (placeOf a ≠ .dieReg → asleep s a data.length = none →
        ((∃ d, placeOf a = .lpddr d) ∨ badRegion s a data.length = false) →
        ∃ t, exec (.bar2Write n data) s = .next t ∧ t.bytesAt a data.length = data ∧ MemKept s t a data.length) ∧
      (∀ t, placeOf a ≠ .dieReg → asleep s a data.length = some t →
        exec (.bar2Write n data) s = .next { t with stuck := t.stuck ++ [(a, .bar2Write n data)] }) ∧
      (placeOf a = .dieReg → feedWindow a = none → data.length = 4 → a % 4 = 0 →
        exec (.bar2Write n data) s = .next (regWrite s a (leAt data 0 4))) ∧
      (placeOf a = .dieReg → feedWindow a = none → data.length = 8 → a % 8 = 0 →
        exec (.bar2Write n data) s = .next (regWrite (regWrite s a (leAt data 0 4)) (a + 4) (leAt (data.drop 4) 0 4))) ∧
      (placeOf a = .dieReg → feedWindow a = none → ¬ (data.length = 4 ∧ a % 4 = 0 ∨ data.length = 8 ∧ a % 8 = 0) →
        exec (.bar2Write n data) s = .next (logBusError s a)) ∧
      (∀ cl ch o, feedWindow a = some (cl, ch, o) →
        (a % 64 ≠ 0 ∨ data.length % 64 ≠ 0 → exec (.bar2Write n data) s = .next (logBusError s a)) ∧
        (a % 64 = 0 → data.length = 64 → mvrRoom s a 64 = true →
          exec (.bar2Write n data) s = .next (gustFeed s cl ch o data)) ∧
        (a % 64 = 0 → data.length % 64 = 0 → mvrRoom s a data.length = false → exec (.bar2Write n data) s = .next s)))

/-- BAR2_READ (R284, R400): disabled, it returns zeros; memory without a fault returns its bytes, a register its word; an address
outside what BAR2 maps, or an access that spans two regions, is a bus error and a Completer Abort, and an access to a bank group that is not awake waits (R291,
log 107). -/
def Sys2Proof.Spec.Bar2Reads : Prop :=
  ∀ (s : State) (n : BitVec 28) (len : Fin 4097), Functional s → endpointUp s = true → len.val ≠ 0 →
    let a := s.getF hubWin MBX_BAR2_HI_ADDR * 2 ^ 32 + s.getF hubWin MBX_BAR2_LO_ADDR * 2 ^ 28 + n.toNat
    let e := a + len.val - 1
    (s.getF hubWin MBX_BAR2_CTRL_EN = 0 →
      exec (.bar2Read n len) s = .next (s.emit (.readData (List.replicate len 0)))) ∧
    (s.getF hubWin MBX_BAR2_CTRL_EN = 1 →
      (bar2Maps s a = false ∨ bar2Maps s e = false ∨ placeOf a ≠ placeOf e →
        exec (.bar2Read n len) s = .next ((logBusError s a).emit .completerAbort)) ∧
      (bar2Maps s a = true → bar2Maps s e = true → placeOf a = placeOf e → placeOf a ≠ .dieReg → asleep s a len.val = none →
        s.poison = [] → badRegion s a len = false → (∀ d, 1 ≤ d → d ≤ 4 → s.getF (injBase d) TXU_INJ_COUNT = 0) →
        exec (.bar2Read n len) s = .next (s.emit (.readData (s.bytesAt a len)))) ∧
      (bar2Maps s a = true → bar2Maps s e = true → placeOf a = placeOf e → placeOf a = .dieReg → feedWindow a = none →
        len.val = 4 → a % 4 = 0 →
        exec (.bar2Read n len) s = .next ((clearRC s a none).emit (.readData (natToBytes 4 (regView s a))))) ∧
      (∀ t, bar2Maps s a = true → bar2Maps s e = true → placeOf a = placeOf e → placeOf a ≠ .dieReg →
        asleep s a len.val = some t →
        exec (.bar2Read n len) s = .next { t with stuck := t.stuck ++ [(a, .bar2Read n len)] }))

/-- What BAR2 writes (R11, R400) and reads (R284, R400). -/
def Obligations.Bar2Accesses : Prop := Sys2Proof.Spec.Bar2WritesMemory ∧ Sys2Proof.Spec.Bar2Reads

/-- CONFIGURATION_REQUEST (R393, R395, R397, R423, R480): Configuration Request Retry Status until the configuration space is ready,
then the identity of the header; a write sets the writable bits of its dword and nothing else, a one written to an AER status bit
clears it, and a vector that a write of the MSI-X control word lets go is sent. Where the capabilities lie and which bits of them are
writable is the model's choice (log 132), as are the fields that the manual does not give (log 49). -/
def Obligations.ConfigurationAnswered : Prop :=
  ∀ (s : State) (w : Bool) (o : BitVec 12) (v : BitVec 32), Functional s → endpointUp s = true → o.toNat % 4 = 0 →
    (s.boot.cfgReady = false → exec (.configurationRequest w o v false) s = .next (s.emit .configRetry)) ∧
    (exec (.configurationRequest false 0 v true) s =
      .next ({ s with boot := { s.boot with cfgReady := true } }.emit (.readData (natToBytes 4 0xD1281F2D)))) ∧
    (s.boot.cfgReady = true →
      exec (.configurationRequest false 8 v false) s = .next
        (s.emit (.readData (natToBytes 4 (0x12000000 + if s.b0 then 0xB0 else 0xA1)))) ∧
      exec (.configurationRequest false 0x10 v false) s = .next
        (s.emit (.readData (natToBytes 4 (cfgHeld s 0x10 0 / 2 ^ 16 * 2 ^ 16 + 4)))) ∧
      (o.toNat ∉ [0x04, 0x10, 0x14, 0x18, 0x1C, 0x3C, 0x44, 0x50, 0x78, 0x98, 0x104, 0x108, 0x10C, 0x110, 0x114] →
        exec (.configurationRequest true o v false) s = .next s) ∧
      (o.toNat ∈ [0x10, 0x14, 0x18, 0x1C] →
        exec (.configurationRequest true o v false) s = .next { s with cfgSpace := s.cfgSpace.put o.toNat v }) ∧
      (o.toNat ∈ [0x104, 0x110] →
        let kept := BitVec.ofNat 32 (cfgHeld s o.toNat 0 &&& (2 ^ 32 - 1 - v.toNat))
        exec (.configurationRequest true o v false) s = .next { s with cfgSpace := s.cfgSpace.put o.toNat kept }) ∧
      exec (.configurationRequest true 0x04 v false) s =
        .next { s with cfgSpace := s.cfgSpace.put 0x04 (BitVec.ofNat 32 (v.toNat &&& 0x546)) } ∧
      exec (.configurationRequest true 0x50 v false) s = .next ((List.range 64).foldl sendPending
        { s with cfgSpace := s.cfgSpace.put 0x50 (BitVec.ofNat 32 (v.toNat &&& 0xC0000000)) }))

/-! ### Resets (Tables 14.6 and 14.7) -/

/-- FUNCTION_LEVEL_RESET, HOT_RESET, PERST_N and POR_N (R501, R504, R554): with no wider reset in progress each is the reset of
its scope of Table 14.6 with its cause in PWR_RST, and what waited on the UART through FLR goes on; POR_N and VDD_HUB below its limit
reset everything from any state, a power-on reset in progress absorbs PERST_N, and the release of the pin whose reset is in progress
samples BOOTSEL and starts the endpoint. -/
def Sys2Proof.Spec.ResetsEntered : Prop :=
  (∀ (s : State), Functional s → endpointUp s = true → (s.boot.scope = 0 ∨ s.boot.scope = 4) →
    exec .functionLevelReset s = .next (serveStuck (resetAll s rsFLR 3 0)) ∧
      exec .hotReset s = .next (serveStuck (resetAll s rsFLR 2 0))) ∧
  (∀ (s : State) (ns : Nat), Functional s → 100000 ≤ ns → s.boot.porLow = false → s.hubHot = false →
    let low (t : State) : State := { t with boot := { t.boot with perstLow := true } }
    (s.boot.scope ≠ rsPOR → exec (.perstNAssert ns) s = .next (low (resetAll s rsPERST 1 0))) ∧
    (s.boot.scope = rsPOR → exec (.perstNAssert ns) s = .next (low s))) ∧
  (∀ (s : State) (ns : Nat), Functional s → ns < 1000 → exec (.perstNAssert ns) s = .next s) ∧
  (∀ (s : State) (bootsel trains : Bool), Functional s → s.boot.perstLow = true → s.boot.porLow = false →
    let b := { s.boot with perstLow := false }
    (s.boot.scope ≠ rsPERST → s.boot.scope ≠ rsPOR → exec (.perstNRelease bootsel trains) s = .next { s with boot := b }) ∧
    (s.boot.scope = rsPERST ∨ s.boot.scope = rsPOR → ∃ t, exec (.perstNRelease bootsel trains) s = .next t ∧
      t.boot = (if s.boot.scope = rsPERST then { b with t0 := now s, kick := now s, bootsel := bootsel } else b) ∧
      t.getF hubWin MBX_STATUS_HEAD = (if trains then 1 else 0) ∧ t.getF rlyBase RLY_ID_HEAD = (if trains then 1 else 0) ∧
      RegsKept s t [hubWin + 4, rlyBase + 0x800] ∧ { t with regs := s.regs, boot := s.boot } = s)) ∧
  (∀ (s : State) (ns : Nat), 10000 ≤ ns →
    exec (.porNAssert ns) s = .next (resetAll { s with boot := { s.boot with porLow := true, upNs := 0 } } rsPOR 0 0)) ∧
  (∀ (s : State) (ns : Nat), ns < 1000 → exec (.porNAssert ns) s = .next s) ∧
  (∀ (s : State), exec .vddHubLow s = .next (resetAll s rsPOR 0 0)) ∧
  (∀ (s : State) (bootsel trains : Bool), Functional s → s.boot.porLow = true →
    ∃ t, exec (.porNRelease bootsel trains) s = .next t ∧ t.boot = { s.boot with
        porLow := false, t0 := now s, kick := now s, bootsel := bootsel } ∧
      t.getF hubWin MBX_STATUS_HEAD = (if trains then 1 else 0) ∧ t.getF rlyBase RLY_ID_HEAD = (if trains then 1 else 0) ∧
      RegsKept s t [hubWin + 4, rlyBase + 0x800] ∧ { t with regs := s.regs, boot := s.boot } = s)

/-- A pulse of POR_N or PERST_N longer than the filter and shorter than a reset needs is undefined (R554, Table 17.7). -/
def Sys2Proof.Spec.UndefinedPulsesStop : Prop :=
  (∀ (s : State) (ns : Nat), 1000 ≤ ns → ns < 10000 → exec (.porNAssert ns) s = .fault .pulseUndefined) ∧
  (∀ (s : State) (ns : Nat), Functional s → s.boot.porLow = false → 1000 ≤ ns → ns < 100000 →
    exec (.perstNAssert ns) s = .fault .pulseUndefined)

/-- The resets from outside (R501, R504), and the pulses whose effect is undefined (R554, Table 17.7). -/
def Obligations.ResetPins : Prop := Sys2Proof.Spec.ResetsEntered ∧ Sys2Proof.Spec.UndefinedPulsesStop

/-- What a reset of the device leaves (R503, Tables 14.6 and 14.7), for every scope: no command, stream, plan, frame or token
is left; memory, the event log and the time base go only with a power-on reset, relay ports stay only through FLR, and those that a
PERST_N or warm reset takes out of UP are logged (R475); of the configuration space a warm reset keeps all and FLR the subsystem's
identity, lines of the monitor that wait stay through FLR, and burned fuses and the test registers always stay. -/
def Obligations.ResetLeaves : Prop :=
  ∀ (s : State) (scope cause die : Nat), scope ∈ [rsPOR, rsPERST, rsWARM, rsFLR] →
    let t := resetAll s scope cause die
    let l := if scope = rsPERST ∨ scope = rsWARM then
        ((List.range 8).filter (fun p => s.getF (rlyPort p) RLY_P_STATUS_STATE = 5)).foldl
          (fun u p => logEvent u 0x800C 0xFF 0xFF (myDev s) p 0 0) s
      else s
    t.taken = [] ∧ t.forwarded = [] ∧ t.ccWait = [] ∧ t.ccUnread = 0 ∧ t.crStop = false ∧ t.ccStop = false ∧
    t.streams = [] ∧ t.fifos = [] ∧ t.plans = [] ∧ t.feeds = [] ∧ t.frames = [] ∧ t.groups = [] ∧ t.movers = [] ∧
    t.cores = [] ∧ t.clusters = [] ∧ t.edgeIn = [] ∧ t.proxy = [] ∧ t.relayq = [] ∧
    t.fuses = s.fuses ∧ t.b0 = s.b0 ∧ t.jtagIr = s.jtagIr ∧ t.pending = s.pending ∧
    t.ports = (if scope = rsFLR then s.ports else []) ∧
    t.cfgSpace = (if scope = rsWARM then s.cfgSpace else if scope = rsFLR then s.cfgSpace.filter (fun q => q.1 = 0x2C) else []) ∧
    t.stuck = (if scope = rsFLR then s.stuck.filter (fun e => monLine e.2) else []) ∧ t.bscan = s.bscan ∧
    t.slew = (if scope = rsFLR then s.slew else 0) ∧
    (scope ≠ rsPOR → t.mem = s.mem ∧ t.lost = s.lost ∧ t.log = l.log ∧ t.timeBase = s.timeBase ∧ t.fuses0 = s.fuses0 ∧
      t.hubHot = s.hubHot ∧ t.mon.fails = s.mon.fails ∧ t.mon.lockout = s.mon.lockout) ∧
    (scope = rsPOR → (∀ a, a < 2 ^ 48 → SMap.find t.mem a = none) ∧ t.log = [] ∧ t.timeBase = 0 ∧ t.fuses0 = s.fuses ∧
      t.hubHot = false ∧ t.scanned = false ∧ t.mon = MonSt.reset)

/-- What a reset of the device leaves in its registers (R459, R475, R501, R503, Table 14.7): every register word reads its reset value
or, where Table 14.7 keeps it, its value from before, with the records of the ports that go down; only the words that record the
reset itself, its pins, its fences, the ports that were UP, the state of the dies and the grants of a die that leaves self-refresh
read otherwise. PWR_RST holds the cause, and a port that was UP is in DETECT but for FLR. -/
def Obligations.RegistersAfterReset : Prop :=
  ∀ (s : State) (scope cause die : Nat), scope ∈ [rsPOR, rsPERST, rsWARM, rsFLR] →
    let t := resetAll s scope cause die
    let l := if scope = rsPERST ∨ scope = rsWARM then
        ((List.range 8).filter (fun p => s.getF (rlyPort p) RLY_P_STATUS_STATE = 5)).foldl
          (fun u p => logEvent u 0x800C 0xFF 0xFF (myDev s) p 0 0) s
      else s
    t.getF pwrHub PWR_RST_CAUSE = cause % 16 ∧
    (∀ p, p < 8 → scope ≠ rsFLR → s.getF (rlyPort p) RLY_P_STATUS_STATE = 5 → t.getF (rlyPort p) RLY_P_STATUS_STATE = 1) ∧
    ∀ a, a ∉ [hubWin + 4, pwrHub + 0x34, pwrHub + 0x18, dbgBase, pwrHub + 0x1C, pwrHub + 0x20, pwrHub + 0x24, pwrHub + 0x28] →
      (∀ d, d < 4 → a ≠ pwrDie d + 0x10 ∧ a ≠ lpcBase d + 4 ∧ a ≠ maBase d + 8) → (∀ c, c < 128 → a ≠ coreWin c + 4) →
      (∀ p, p < 8 → scope = rsFLR ∨ s.getF (rlyPort p) RLY_P_STATUS_STATE ≠ 5 ∨ a ≠ rlyPort p + RLY_P_STATUS_STATE.off) →
      t.reg a = if regLives scope a then l.reg a else resetWord a

/-! ### The admission pacer and the cadence gate -/

/-- DESCRIPTOR_FETCH (R413, R414, R421, R422): with room in the FIFO, the rings and the result ring, the descriptor at the head is
read and the head advances; one that breaks a rule of Table 11.14 gives NOTRUN with reason 0, a read that fails gives NOTRUN
with reason 3 and an event, and a good one opens its frame. A NOTRUN result comes after the held frames of its stream that are due
(R421); with none held nothing else is published. -/
def Obligations.DescriptorsFetched : Prop :=
  ∀ (s : State) (k : Fin 128), Functional s → isHead s = true → (s.stream k).plan.isSome = true →
    (s.stream k).closing = 0 → fifSrc s k ≠ 2 → fifOpenFrame s k = none →
    s.getF (ringBase k) MBX_FR_HEAD_INDEX ≠ s.getF (ringBase k) MBX_FR_TAIL_INDEX →
    fetchedFrames s k < 2 ^ (s.stream k).rsize →
    let h := s.getF (ringBase k) MBX_FR_HEAD_INDEX
    let u := (s.emit (.hostRead ((s.stream k).frbase + 64 * h) 64 false)).setF (ringBase k) MBX_FR_HEAD_INDEX
      ((h + 1) % 2 ^ (s.stream k).rsize)
    let v := publishBefore u k
    ((∀ f ∈ s.frames, f.slot = k → f.held = none) → v = u ∧ ∀ t, t.frames = s.frames → afterNotrun s t k = t) ∧
    exec (.descriptorFetch k none) s =
      .next (afterNotrun s (logEvent (writeResult v k 0 0xFFFFFFFF 0 (2 ^ 9 + 3 * 2 ^ 10) h false) 0x1004 0xFF 0xFF k h 0 0) k) ∧
    ∀ b : Bytes,
      let d := slice b 0 64
      (descOk u k d = true →
        exec (.descriptorFetch k (some b)) s = .next (fifOpen u k (newFFrame d h (leAt d 8 4)))) ∧
      (descOk u k d = false → exec (.descriptorFetch k (some b)) s =
        .next (afterNotrun s (writeResult v k (leAt d 0x20 8) 0xFFFFFFFF 0 (2 ^ 9) h (bit (leAt d 0xC 4) 0)) k))

/-- FRAME_ADMISSION (R21 to R24, R31, R32): the qualifying stream after the last one admitted has its oldest frame admitted now:
T_sub is now, T_rel is the latency later, rounded up to the grid where the plan has one, and the stream's sequence number
advances modulo 2^32. Nothing is admitted outside RUNNING, under a hold, before the admission period is over, or while no
stream qualifies: a command named too early changes nothing (log 2). -/
def Obligations.FramesAdmitted : Prop :=
  ∀ (s : State) (p : Fin 8), Functional s →
    (planState s p ≠ 3 ∨ heldByDie s p = true ∨ paceOk s p = false ∨ pickStream s p = none →
      exec (.frameAdmission p) s = .next s) ∧
    (∀ k f, planState s p = 3 → heldByDie s p = false → (s.plan p).reloc = none → (s.plan p).switch = 0 → paceOk s p = true →
      pickStream s p = some k → nextUnadmitted s k = some f →
      ∃ t fr, exec (.frameAdmission p) s = .next t ∧ t.frames = s.frames ++ [fr] ∧ fr.plan = p.val ∧ fr.slot = k ∧
        fr.seq = (s.stream k).next ∧ fr.tsub = now s ∧ fr.desc = f.desc ∧ fr.held = none ∧ fr.aborted = false ∧
        (s.getF (cadBase p) CAD_GRID_PERIOD = 0 → fr.trel = now s + s.getF (cadBase p) CAD_LATENCY_L_PLAN) ∧
        (0 < s.getF (cadBase p) CAD_GRID_PERIOD →
          now s + s.getF (cadBase p) CAD_LATENCY_L_PLAN ≤ fr.trel ∧
          fr.trel < now s + s.getF (cadBase p) CAD_LATENCY_L_PLAN + s.getF (cadBase p) CAD_GRID_PERIOD ∧
          fr.trel % s.getF (cadBase p) CAD_GRID_PERIOD = (s.plan p).origin % s.getF (cadBase p) CAD_GRID_PERIOD) ∧
        (t.stream k).next = ((s.stream k).next + 1) % 2 ^ 32 ∧ (t.stream k).last = (s.stream k).next ∧
        (t.plan p).lastAdm = some (now s) ∧ (t.plan p).rr = k)

/-- ROUND_WINDOW_CLOSE and RESULT_MODERATION_TIMER (R43, R424): an open admission window closes once BSEG - 1 periods PBATCH have
passed since the round's first admission, and a stream's uncounted results raise its vector MODUS microseconds after the first of
them; a command named before that changes nothing (log 2). -/
def Sys2Proof.Spec.GateTimers : Prop :=
  (∀ (s : State) (p : Fin 8), Functional s →
    ((s.plan p).window = true →
      (s.plan p).roundFirst.getD 0 + (piBSEG (s.plan p).img - 1) * piPBATCH (s.plan p).img ≤ now s →
      let u := s.setPlan p { s.plan p with window := false }
      exec (.roundWindowClose p) s = .next (planCheck u p) ∧
      (working s p ≠ [] → planState s p = 3 → exec (.roundWindowClose p) s = .next u) ∧
      (working s p = [] → planState s p = 3 → (s.plan p).reloc = none → (s.plan p).switch = 0 → (s.plan p).kiln = none →
        1 < piNSEG (s.plan p).img → (s.plan p).roundN ≠ 0 →
        exec (.roundWindowClose p) s = .next (startSwitch u p (((s.plan p).cfg + 1) % piNSEG (s.plan p).img)))) ∧
    ((s.plan p).window = false ∨
        now s < (s.plan p).roundFirst.getD 0 + (piBSEG (s.plan p).img - 1) * piPBATCH (s.plan p).img →
      exec (.roundWindowClose p) s = .next s)) ∧
  (∀ (s : State) (k : Fin 128), Functional s →
    (∀ t, (s.stream k).sinceT = some t → (s.stream k).modus ≠ 0 → t + 1000 * (s.stream k).modus ≤ now s →
      exec (.resultModerationTimer k) s = .next (raiseVector (s.setStream k { s.stream k with since := 0, sinceT := none })
        (s.stream k).ivec)) ∧
    (∀ t, (s.stream k).sinceT = some t → (s.stream k).modus = 0 ∨ now s < t + 1000 * (s.stream k).modus →
      exec (.resultModerationTimer k) s = .next s))

/-- FRAME_END_REPORT, RESULT_PUBLISH and OUTPUT_TIMEOUT (R34, R36, R38, R154, R419, R433): a report before the last marks its
core in the frame; the last report of the last configuration brings the result to the gate, held from now on with its flags, LATE
where its release time has passed; the last report of an aborted frame frees its entry. RESULT_PUBLISH releases the due frame, and
late frames of its stream behind it; which frame is due when a stream's earlier frame held it up is log 104, and when a run with PUSH
is over log 38. A frame whose output is not complete 10 ms after T_rel is held with OUTCUT and LATE; a hub shut down for heat
publishes nothing (R494). A command named too early changes nothing (log 2). -/
def Sys2Proof.Spec.ResultsReleased : Prop :=
  (∀ (s : State) (k : Nat) (r : Report) (f : Frame), Functional s → s.reports[k]? = some r → frameOf s r.slot r.seq = some f →
    let x := s.plan f.plan
    let cores := if r.core ∈ f.cores then f.cores else r.core :: f.cores
    (f.aborted = false → f.held = none →
      let g := { f with
        flags := (((f.flags ||| if r.sat then 4 else 0) ||| if r.ufl then 8 else 0) ||| if r.trunc then 16 else 0)
        cores := cores }
      let u := setFrame { s with reports := s.reports.eraseIdx k } g
      let w := u.setPlan f.plan { x with lastDone := now s }
      let v := w.setStream f.slot { s.stream f.slot with closeT := now s }
      (segDone u g = false → exec (.frameEndReport k) s = .next u) ∧
      (segDone u g = true → lastCfg x = false →
        exec (.frameEndReport k) s = .next (streamCheck (planCheck v f.plan) f.slot)) ∧
      (segDone u g = true → lastCfg x = true →
        exec (.frameEndReport k) s = .next (streamCheck (planCheck
          (tryHold (setFrame v { g with cores := 128 :: cores }) f.slot f.seq) f.plan) f.slot))) ∧
    (f.aborted = true →
      let g := { f with cores := cores }
      let u := setFrame { s with reports := s.reports.eraseIdx k } g
      let w := u.setPlan f.plan { x with lastDone := now s }
      let v := w.setStream f.slot { s.stream f.slot with closeT := now s }
      (segDone u g = false → exec (.frameEndReport k) s = .next u) ∧
      (segDone u g = true → lastCfg x = true →
        exec (.frameEndReport k) s = .next (streamCheck (planCheck
          { v with frames := v.frames.filter (fun h => !(h.slot = f.slot && h.seq = f.seq)) } f.plan) f.slot)))) ∧
  (∀ (s : State) (k : Nat), Functional s → s.reports[k]? = none → exec (.frameEndReport k) s = .next s) ∧
  (∀ (s : State) (f : Frame), frameOf s f.slot f.seq = some f → f.held = none → f.aborted = false → 128 ∈ f.cores →
    (∀ q ∈ f.ports, portDone s f q = true) → (f.src.isSome = true → f.fend.isSome = true) → outEN (s.plan f.plan) = false →
    let g := { f with held := some (now s), flags := f.flags ||| f.fend.getD 0 }
    let u := s.maxF (cadBase f.plan) CAD_MAX_RUN_NS (min (now s - f.tsub) (2 ^ 32 - 1))
    (now s ≤ f.trel → tryHold s f.slot f.seq = setFrame u g) ∧
    (f.trel < now s → tryHold s f.slot f.seq =
      releaseLate (setFrame u { g with flags := g.flags ||| 1 }) f.slot s.frames.length)) ∧
  (∀ (s : State) (f : Frame), Functional s → s.hubHot = false → dueFrame s = some f →
    exec .resultPublish s = .next (releaseLate (afterRelease (release s f) f) f.slot s.frames.length) ∧
    (∀ g, g ∈ (release s f).frames → g ∈ s.frames ∧ ¬ (g.slot = f.slot ∧ g.seq = f.seq))) ∧
  (∀ (s : State), Functional s → (dueFrame s = none ∨ s.hubHot = true) → exec .resultPublish s = .next s) ∧
  (∀ (s : State) (k : Fin 128) (seq : BitVec 32) (f : Frame), Functional s → frameOf s k seq.toNat = some f → f.held = none →
    f.aborted = false → 128 ∈ f.cores → (∃ q ∈ f.ports, portDone s f q = false) → s.hubHot = false → (f.src.isSome = true → f.fend.isSome = true) → outEN (s.plan f.plan) = false →
    f.trel + 10000000 ≤ now s →
    exec (.outputTimeout k seq) s = .next (hold s { f with doneP := f.ports } (2 ^ 8 ||| 2 ^ 0))) ∧
  (∀ (s : State) (k : Fin 128) (seq : BitVec 32) (f : Frame), Functional s → frameOf s k seq.toNat = some f →
    now s < f.trel + 10000000 → exec (.outputTimeout k seq) s = .next s)

/-- The cadence gate: reports, releases and timeouts (R34 to R38, R154, R419, R433), and its timers (R43, R424). -/
def Obligations.GateReleases : Prop := Sys2Proof.Spec.ResultsReleased ∧ Sys2Proof.Spec.GateTimers

/-- The frame that RESULT_PUBLISH takes (R33, R36): it is held, its release time has come, no earlier frame of its stream waits
(log 104), and no other such frame has an earlier release time, or the same with a lower slot. -/
def Obligations.PublishedFrameIsFirst : Prop :=
  ∀ (s : State) (f : Frame), dueFrame s = some f →
    f ∈ s.frames ∧ f.held.isSome = true ∧ f.trel ≤ now s ∧ blockedBy s.frames f = false ∧
    ∀ g ∈ s.frames, g.held.isSome = true → g.trel ≤ now s → blockedBy s.frames g = false →
      f.trel < g.trel ∨ f.trel = g.trel ∧ f.slot ≤ g.slot

/-- HUB_TOKEN_RECEIVE (R236, R351, R417, R418): a token whose check code matches is sorted by its type: EOF to the gate, CONTROL begins
an output run, DATA and SCALE are written, an EPOCH probe is taken, a token of another epoch faults its plan, a handle token that is no
credit and belongs to no frame is logged (log 38), and the tokens of a FAULTED or relocating plan are taken without effect; a check
code that fails leaves the token with its sender. -/
def Obligations.HubTokensSorted : Prop :=
  ∀ (s : State) (c : Fin 128) (p : Fin 4) (noise : BitVec 560) (n q : Nat) (t0 t : Token) (ok : Bool), Functional s →
    edgeIndex c p = some n → edgeOwner s c p = some q → SMap.find (s.core c).outp p = some t0 → portKind s c p ≠ 0 →
    linkToken (linkBits t0 ^^^ noise.toNat) = (t, ok) →
    let x := s.core c
    let u := s.setCore c { x with outp := SMap.erase x.outp p, refus := x.refus.put (p + 4) 0 }
    let pay := t.payload.toNat
    (ok = false → exec (.hubTokenReceive c p noise) s = .next (hubRefuse s c p)) ∧
    (ok = true → planState s q = 6 ∨ (s.plan q).reloc.isSome = true →
      exec (.hubTokenReceive c p noise) s = .next u) ∧
    (ok = true → planState s q ≠ 6 → (s.plan q).reloc = none →
      (t.typ = 5 → exec (.hubTokenReceive c p noise) s = .next (gateEof u (pay % 128))) ∧
      (t.typ = 4 → exec (.hubTokenReceive c p noise) s = .next u) ∧
      (∀ g, t.typ = 1 → creditTarget u q n t.tag.toNat = some g →
        exec (.hubTokenReceive c p noise) s = .next (feedCredit u c q g (pay % 2 ^ 64))) ∧
      (t.typ = 1 → creditTarget u q n t.tag.toNat = none → t.epoch.toNat = u.getF (fdBase q) FIF_FD_EPOCH_EPOCH →
        frameOf u (eSLOT (pay % 2 ^ 64)) (eSEQ (pay % 2 ^ 64)) = none →
        exec (.hubTokenReceive c p noise) s =
          .next (logEvent u 0x800A 0xFF q (eSLOT (pay % 2 ^ 64)) (eSEQ (pay % 2 ^ 64)) 0 0)) ∧
      (t.typ = 1 → creditTarget u q n t.tag.toNat = none → t.epoch.toNat = u.getF (fdBase q) FIF_FD_EPOCH_EPOCH →
        (frameOf u (eSLOT (pay % 2 ^ 64)) (eSEQ (pay % 2 ^ 64))).isSome = true →
        exec (.hubTokenReceive c p noise) s = .next u) ∧
      ((t.typ = 0 ∨ t.typ = 2 ∨ t.typ = 3 ∨ t.typ = 1 ∧ creditTarget u q n t.tag.toNat = none) →
        t.epoch.toNat ≠ u.getF (fdBase q) FIF_FD_EPOCH_EPOCH →
        exec (.hubTokenReceive c p noise) s = .next (planFault u q 5 0xFF n)) ∧
      ((t.typ = 0 ∨ t.typ = 2 ∨ t.typ = 3) → t.epoch.toNat = u.getF (fdBase q) FIF_FD_EPOCH_EPOCH →
        exec (.hubTokenReceive c p noise) s = .next (if t.typ = 2 then outControl u q n (64 * n + t.tag.toNat) pay t.jseq.toNat
          else outData u q (64 * n + t.tag.toNat) (natToBytes 64 pay))))

/-! ### Transaction units, drains, relocation -/

/-- TXU_ACT_WRITE, TXU_CLEAR, TXU_COMMIT and TXU_FENCE_SET (R429, R430, R439, R451): a record is staged without its reserved bits (R13), and COUNT covers it, and
a unit that is PREPARED or APPLYING refuses with BUSY_ERR; CLEAR empties the staged group; a commit in a cluster applies all
of its actions or none of them, of two on one address the later (R428), with the first failing one noted, an empty group is done at
once, and a commit in the hub begins
the two phases with the clusters of TXU_PART; a fence register fences each core written with a one. -/
def Obligations.TransactionsStaged : Prop :=
  (∀ (s : State) (u : Fin 17) (j : Fin 64) (k : Fin 4) (v : BitVec 32), Functional s →
    let b := txuBase u
    (s.getF b TXU_STATUS_STATE = 2 ∨ s.getF b TXU_STATUS_STATE = 3 →
      exec (.txuActWrite u j k v) s = .next (s.setF b TXU_STATUS_BUSY_ERR 1)) ∧
    (s.getF b TXU_STATUS_STATE ≠ 2 → s.getF b TXU_STATUS_STATE ≠ 3 →
      ∃ t, exec (.txuActWrite u j k v) s = .next t ∧ t.reg (b + 0x100 + 16 * j + 4 * k) =
          (if k.val = 0 then v.toNat - v.toNat % 2 ^ 8 + v.toNat % 2 ^ 4 else if k.val = 1 then v.toNat % 2 ^ 24 else v.toNat) ∧
        t.getF b TXU_STATUS_STATE = 1 ∧ t.getF b TXU_STATUS_COUNT = max (s.getF b TXU_STATUS_COUNT) (j + 1) ∧
        OnlyRegs s t [b + 0x100 + 16 * j + 4 * k, b + 4])) ∧
  (∀ (s : State) (u : Fin 17), Functional s →
    let b := txuBase u
    (s.getF b TXU_STATUS_STATE = 1 ∨ s.getF b TXU_STATUS_STATE = 5 →
      exec (.txuClear u) s = .next ((s.setF b TXU_STATUS_COUNT 0).setF b TXU_STATUS_STATE 0)) ∧
    (s.getF b TXU_STATUS_STATE ≠ 1 → s.getF b TXU_STATUS_STATE ≠ 5 → exec (.txuClear u) s = .next s)) ∧
  (∀ (s : State) (u : Fin 17), Functional s →
    let b := txuBase u
    (s.getF b TXU_STATUS_STATE = 2 ∨ s.getF b TXU_STATUS_STATE = 3 →
      exec (.txuCommit u) s = .next (s.setF b TXU_STATUS_BUSY_ERR 1)) ∧
    (s.getF b TXU_STATUS_STATE ≠ 2 → s.getF b TXU_STATUS_STATE ≠ 3 → u.val < 16 → s.getF b TXU_STATUS_COUNT ≠ 0 →
      (∀ n w, groupFault s u (staged s u) = some (n, w) → exec (.txuCommit u) s = .next
        ((((s.setF b TXU_STATUS_FAIL_IDX n).setF b TXU_STATUS_FAIL_WHY w).setF b TXU_STATUS_STATE 5).addF b TXU_FAILS_COUNT 1)) ∧
      (groupFault s u (staged s u) = none → exec (.txuCommit u) s = .next (carryOut s (fun v => txuDone (txuFail
        ((lastActs (staged s u)).foldl (fun t a => applyAction t u a.toNat) v) u 0 0) u)))) ∧
    (s.getF b TXU_STATUS_STATE ≠ 2 → s.getF b TXU_STATUS_STATE ≠ 3 → s.getF b TXU_STATUS_COUNT = 0 →
      (u.val = 16 → maskBits 16 (s.getF b TXU_PART_CLUSTERS) = []) →
      exec (.txuCommit u) s = .next (s.setF b TXU_STATUS_STATE 4)) ∧
    (s.getF b TXU_STATUS_STATE ≠ 2 → s.getF b TXU_STATUS_STATE ≠ 3 → u.val = 16 →
      s.getF b TXU_STATUS_COUNT ≠ 0 ∨ maskBits 16 (s.getF b TXU_PART_CLUSTERS) ≠ [] →
      let acts := (maskBits 16 (s.getF b TXU_PART_CLUSTERS)).map (fun n => (n, staged s n))
      exec (.txuCommit u) s = .next (carryOut s (fun v => startGroup (beginGroup { v with groups :=
        { kind := 0, plan := 8, acts := acts, hub := staged s 16 } :: s.groups }))))) ∧
  (∀ (s : State) (u : Fin 17) (mask : BitVec 8), Functional s →
    exec (.txuFenceSet u mask) s = .next (if u.val = 16 then s else
      ((List.range 8).filter (fun k => mask.toNat.testBit k)).foldl
        (fun t k => if fenced t (8 * u + k) then t else fenceAndMove t (8 * u + k)) s))

/-- The two phases of a commit (R428, R431, R432, Table 12.3): a participant whose actions pass votes yes and locks what they
name, one that fails notes it and votes no, a vote reaches the hub, a vote missing after 100 µs makes the hub write ABORT, COMMIT applies
the actions in staging order, of two on one address the later alone, ABORT discards them, and the last acknowledgement ends the group. NO votes are decided
when all votes are in (log 42), and a command named too early changes nothing (log 2). -/
def Obligations.TwoPhaseCommit : Prop :=
  (∀ (s : State) (u : Fin 16), Functional s → s.two.prep.contains u.val = true → dieOff s (u / 4) = false →
    s.getF (injBase 0x0C) TXU_INJ_COUNT = 0 → s.getF (injBase 0x0D) TXU_INJ_COUNT = 0 →
    let v := { s with two := { s.two with prep := s.two.prep.filter (fun x => x ≠ u.val) } }
    let load := match s.groups with | g :: _ => decide (g.kind = 4) | [] => false
    (∀ n w, groupFault v u (actsOf s u) = some (n, w) → exec (.txuPrepare u) s = .next
      { txuFail v u n w with two := { v.two with votes := s.two.votes ++ [(u.val, false)] } }) ∧
    (groupFault v u (actsOf s u) = none →
      ((actsOf s u).any (fun a => (namedCores u a.toNat).any
        (fun c => seqStateOf v c = 3 || (seqStateOf v c = 4 && !load)))) = false →
      ∃ t, exec (.txuPrepare u) s = .next t ∧ t = (let w := (lockGroup v u (actsOf s u) true).setF (txuBase u) TXU_STATUS_STATE 2
        { w with two := { w.two with votes := w.two.votes ++ [(u.val, true)] } }))) ∧
  (∀ (s : State) (u : Fin 16), Functional s → s.two.prep.contains u.val = true → dieOff s (u / 4) = false →
    s.getF (injBase 0x0C) TXU_INJ_COUNT = 0 → s.getF (injBase 0x0D) TXU_INJ_COUNT = 0 →
    let v := { s with two := { s.two with prep := s.two.prep.filter (fun x => x ≠ u.val) } }
    groupFault v u (actsOf s u) = none → (∃ a ∈ actsOf s u, ∃ c ∈ namedCores u a.toNat, seqStateOf v c = 3) →
    exec (.txuPrepare u) s = .next { txuFail v u 0 6 with two := { v.two with votes := s.two.votes ++ [(u.val, false)] } }) ∧
  (∀ (s : State) (k : Nat) (u : Nat) (yes : Bool), Functional s → s.two.votes[k]? = some (u, yes) →
    let two := { s.two with votes := s.two.votes.eraseIdx k, await := s.two.await.filter (fun x => x ≠ u) }
    exec (.txuVote k) s = .next (awaited s (carryOut s (fun z =>
      let v := { z with two := two }
      tryDecide (if yes then v.setF (txuBase 16) TXU_DECISION_VOTES (s.getF (txuBase 16) TXU_DECISION_VOTES ||| 2 ^ u)
        else if s.getF (txuBase 16) TXU_STATUS_FAIL_WHY = 0 then txuFail v 16 u 6 else v))))) ∧
  (∀ (l : List (BitVec 128)) (a : BitVec 128),
    ((∃ b ∈ l, sameAddr a b = true) → lastActs (a :: l) = lastActs l) ∧
    ((∀ b ∈ l, sameAddr a b = false) → lastActs (a :: l) = a :: lastActs l)) ∧
  (∀ (s : State), Functional s → s.getF (txuBase 16) TXU_STATUS_STATE = 2 → s.getF (txuBase 16) TXU_DECISION_VALUE = 0 →
    s.two.await ≠ [] → s.two.start + 100000 ≤ now s → s.getF (txuBase 16) TXU_STATUS_FAIL_WHY = 0 →
    exec .txuVoteTimeout s = .next (decideAbort (txuFail s 16 (s.two.await.headD 0) 7))) ∧
  (∀ (s : State), Functional s → now s < s.two.start + 100000 → exec .txuVoteTimeout s = .next s) ∧
  (∀ (s : State) (u : Fin 16), Functional s → s.two.dec.contains u.val = true →
    (s.getF (txuBase 16) TXU_DECISION_VALUE = 1 → exec (.txuApply u) s = .next
      (txuAcked (txuDone ((lastActs (actsOf s u)).foldl (fun t a => applyAction t u a.toNat) (lockGroup s u (actsOf s u) false)) u) u)) ∧
    (s.getF (txuBase 16) TXU_DECISION_VALUE ≠ 1 → exec (.txuApply u) s = .next s) ∧
    (s.getF (txuBase 16) TXU_DECISION_VALUE = 2 → exec (.txuDiscard u) s = .next (txuAcked
      ((((lockGroup s u (actsOf s u) false).setF (txuBase u) TXU_STATUS_COUNT 0).setF (txuBase u) TXU_STATUS_STATE 0).addF
        (txuBase u) TXU_FAILS_COUNT 1) u)) ∧
    (s.getF (txuBase 16) TXU_DECISION_VALUE ≠ 2 → exec (.txuDiscard u) s = .next s)) ∧
  (∀ (s : State) (k u : Nat), Functional s → s.two.acks[k]? = some u →
    let v := { s with two := { s.two with acks := s.two.acks.eraseIdx k, await := s.two.await.filter (fun x => x ≠ u) } }
    exec (.txuAck k) s = .next (awaited s (if s.two.await.all (fun x => x = u) then startGroup (endGroup v) else v)))

/-- DRAIN_PROBE_START, DRAIN_TIMEOUT and FLUSH_SETTLE_END (R42, R44, R262 to R264, R441, Table 12.6): a quiet plan in SWITCHING clears SEEN
and sends its probes, each with its core's epoch as payload; a drain of a switch or of a stream close that is not confirmed within 10 ms
(log 44) faults the plan with cause 4; the settle time over, what moved is absorbed, the moved stages are written, their engines
seeded (R106), and the group of the relocation begins (log 43), with those detour writes made before it that a TXU could not stage
(log 134). A stream close counts its 10 ms from its last frame's completion or its own begin (log 136). A command named too early changes nothing (log 2). -/
def Sys2Proof.Spec.DrainsAndFlushes : Prop :=
  (∀ (s : State) (p : Fin 8), Functional s → (s.plan p).switch = 1 → planState s p = 4 → (s.plan p).reloc = none →
    planQuiet s p = true →
    let v := (liveCores s p).foldl (fun t c => t.setF (coreWin c) STU_PROBE_SEEN 0) s
    let w := (liveCores v p).foldl (fun t c =>
      ((List.range 32).filter (fun r => (t.getF (coreWin c) STU_PSEND_MASK).testBit r)).foldl
        (fun t r => originate t c 4 r (t.getF (coreWin c) SEQ_EPOCH_EPOCH)) t) v
    exec (.drainProbeStart p) s = .next (awaited s (startGroup (drainCheck (w.setPlan p { w.plan p with switch := 2 }) p)))) ∧
  (∀ (s : State) (p : Fin 8), Functional s → (s.plan p).reloc = none → planState s p = 4 →
    ((s.plan p).switch = 1 ∨ (s.plan p).switch = 2) → s.boot.down = false → (s.plan p).lastDone + 10000000 ≤ now s →
    exec (.drainTimeout p) s = .next (planFault s p 4 0xFF 0)) ∧
  (∀ (s : State) (p : Fin 8) (k : Nat), Functional s → (s.plan p).reloc = none → planState s p ≠ 6 → k < 128 →
    (s.stream k).plan = some p.val → ((s.stream k).closing = 1 ∨ (s.stream k).closing = 2) →
    (∀ f ∈ working s p, f.slot ≠ k) → s.boot.down = false → (s.stream k).closeT + 10000000 ≤ now s →
    exec (.drainTimeout p) s = .next (planFault s p 4 0xFF 0)) ∧
  (∀ (s : State) (p : Fin 8), Functional s →
    (planState s p = 4 → (s.plan p).switch = 1 ∨ (s.plan p).switch = 2 → now s < (s.plan p).lastDone + 10000000) →
    (∀ k, k < 128 → (s.stream k).plan = some p.val → ((s.stream k).closing = 1 ∨ (s.stream k).closing = 2) →
      now s < (s.stream k).closeT + 10000000 ∨ ∃ f ∈ working s p, f.slot = k) →
    exec (.drainTimeout p) s = .next s) ∧
  (∀ (s : State) (p : Fin 8) (r : Reloc), Functional s → (s.plan p).reloc = some r → r.stage = 1 → s.boot.down = false →
    r.start ≤ now s → planState s p ≠ 6 →
    let x := s.plan p
    let d := detourSplit (detourList x x.cfg r.cores)
    let v := (writeList (purgePlan (settle s p) p) (moveWrites x r.cores ++ d.2)).1
    let w := restartSequences (r.cores.foldl (fun t c => moveSeeds t x x.cfg c) v) p
    let y := w.setPlan p { w.plan p with reloc := some { r with stage := 2 } }
    exec (.flushSettleEnd p) s = .next
      (awaited s (startGroup (queueGroup y (planGroup y p 2 d.1 (rearmList y p x)))))) ∧
  (∀ (s : State) (p : Fin 8) (r : Reloc), Functional s → (s.plan p).reloc = some r → now s < r.start →
    exec (.flushSettleEnd p) s = .next s)

/-- ABORT_NOTICE and ABORT_HISTORY_INVALIDATE (R434, R435, Table 12.4): a notice reaches the core it names, which keeps it and abandons
the frame if it is on it; a core in which the frame has ended, or that is in FAULT or FENCED, takes nothing; the steward
invalidates what the frame wrote to its history, and a stream whose close waited for that is freed (R48). -/
def Sys2Proof.Spec.AbortsNoticed : Prop :=
  (∀ (s : State) (c : Fin 128) (k p slot seq : Nat) (l : List Nat), Functional s →
    s.notices[k]? = some (p, slot, seq, l) → c.val ∈ l →
    let rest := l.filter (fun d => d ≠ c.val)
    let v := { s with notices := if rest.isEmpty then s.notices.eraseIdx k else s.notices.set k (p, slot, seq, rest) }
    (3 ≤ seqStateOf s c ∨ endedIn s c slot seq = true → exec (.abortNotice c k) s = .next v) ∧
    (seqStateOf s c < 3 → endedIn s c slot seq = false → (s.core c).notices.length < 32 →
      exec (.abortNotice c k) s = .next (v.setCore c { s.core c with
        notices := (s.core c).notices ++ [(slot, seq)]
        dark := (s.core c).dark || (s.getF (coreWin c) SEQ_FRAME_VALID = 1 && s.getF (coreWin c) SEQ_FRAME_SLOT = slot &&
          s.getF (coreWin c) SEQ_FRAME_SEQ_SEQ = seq) }))) ∧
  (∀ (s : State) (k p slot seq : Nat), Functional s → s.purge[k]? = some (p, slot, seq) → s.boot.down = false →
    let v := { s with purge := s.purge.eraseIdx k }
    exec (.abortHistoryInvalidate k) s =
      .next (awaited s (streamCheck (if seq = 2 ^ 32 then forgetStream v p slot else forgetFrame v p slot seq) slot))) ∧
  (∀ (s : State) (k : Nat), Functional s → s.boot.down = true → exec (.abortHistoryInvalidate k) s = .next s)

/-- Drains and flushes (R42, R44, R262 to R264, R441), and aborted frames (R434, R435). -/
def Obligations.DrainsFlushesAborts : Prop := Sys2Proof.Spec.DrainsAndFlushes ∧ Sys2Proof.Spec.AbortsNoticed

/-! ### The stage sequencer -/

/-- The sequencer of a core moves on: program counter, state RUNNING, age and stage watchdog zero (R69, R71, R74, R267). -/
def Sys2Proof.Spec.moved (s : State) (c pc : Nat) : State :=
  let u := (s.setF (coreWin c) SEQ_STATUS_PC pc).setF (coreWin c) SEQ_STATUS_STATE 1
  let v := u.setCore c { u.core c with age := 0 }
  v.setCore c { v.core c with wdog := 0 }

/-- NOP, JUMP, LOOP and BARRIER (R69 to R71): once SYNC is met the sequencer moves to the next word, to TARGET, to TARGET while the
loop counter has iterations left and past the loop after the last, and past a barrier when nothing of the core is outstanding. -/
def Obligations.SequencerMoves : Prop :=
  ∀ (s : State) (c : Fin 128), Functional s → wReservedClear (fetchWord s c) = true →
    (wSYNC (fetchWord s c) = false ∨ (s.core c).ops = []) →
    let w := fetchWord s c
    let pc := s.getF (coreWin c) SEQ_STATUS_PC
    let k := bits (wIMM w) 14 2
    let set (r : Option Nat) : State := s.setCore c { s.core c with loops := (s.core c).loops.set k r }
    (atOp s c 0x00 = true → exec (.nop c) s = .next (Sys2Proof.Spec.moved s c (pc + 1))) ∧
    (atOp s c 0x1C = true → exec (.jump c) s = .next (Sys2Proof.Spec.moved s c (wTARGET w))) ∧
    (atOp s c 0x1B = true →
      ((s.core c).loops.getD k none = none →
        (bits (wIMM w) 0 14 = 0 → exec (.loop c) s = .next (Sys2Proof.Spec.moved (set none) c (pc + 1))) ∧
        (bits (wIMM w) 0 14 ≠ 0 →
          exec (.loop c) s = .next (Sys2Proof.Spec.moved (set (some (bits (wIMM w) 0 14))) c (wTARGET w)))) ∧
      (∀ n, (s.core c).loops.getD k none = some n →
        (n ≤ 1 → exec (.loop c) s = .next (Sys2Proof.Spec.moved (set none) c (pc + 1))) ∧
        (1 < n → exec (.loop c) s = .next (Sys2Proof.Spec.moved (set (some (n - 1))) c (wTARGET w))))) ∧
    (atOp s c 0x1D = true → (s.core c).ops = [] → outstanding s c = false →
      exec (.barrier c) s = .next (Sys2Proof.Spec.moved s c (pc + 1)))

/-- END (R72, R154): with no statistics to record, the frame-end report of the frame loaded goes to the hub, the loop counters and
the frame are cleared, the frame is counted, and the sequencer is idle at ENTRY. END waits for macro-operations only, not for mover
channels. -/
def Sys2Proof.Spec.FrameProgramEnds : Prop :=
  ∀ (s : State) (c : Fin 128), Functional s → atOp s c 0x1F = true → wReservedClear (fetchWord s c) = true →
    (s.core c).ops = [] → (∀ e, e < 8 → (s.eng c e).chst = []) →
    let x := s.core c
    let w := coreWin c
    ∃ t, exec (.endOp c) s = .next t ∧
      t.reports = (if s.getF w SEQ_FRAME_VALID = 1 then
        s.reports ++ [⟨c, s.getF w SEQ_FRAME_SLOT, s.getF w SEQ_FRAME_SEQ_SEQ, x.fsat && !x.dark, x.fufl && !x.dark, x.ftrunc⟩]
        else s.reports) ∧
      t.getF w SEQ_STATUS_PC = s.getF w SEQ_CTRL_ENTRY ∧ t.getF w SEQ_STATUS_STATE = 0 ∧ t.getF w SEQ_FRAME_VALID = 0 ∧
      t.getF w SEQ_FRAMES_COUNT = min (s.getF w SEQ_FRAMES_COUNT + 1) (2 ^ 32 - 1) ∧
      (t.core c).loops = [none, none, none, none] ∧ (t.core c).ops = [] ∧ (t.core c).fsat = false ∧
      (t.core c).fufl = false ∧ (t.core c).ftrunc = false ∧ (t.core c).dark = false ∧ t.mem = s.mem ∧ t.frames = s.frames

/-- END with the statistics of one channel pending (R144, R152 to R154): the channel's record goes to its place in the statistics
area of its PPU and nowhere else, PPU_FFLAGS takes the channel's flags, and the frame-end report carries them. A frame that runs dark
writes no record and reports neither flag (R435). -/
def Sys2Proof.Spec.StatisticsWritten : Prop :=
  ∀ (s : State) (c : Fin 128) (e ch : Nat) (st : ChStat), Functional s → atOp s c 0x1F = true →
    wReservedClear (fetchWord s c) = true → (s.core c).ops = [] → e < 8 → (s.eng c e).chst = [(ch, st)] →
    (∀ d, d < 8 → d ≠ e → (s.eng c d).chst = []) → ppuF s c e PPU_CTRL_RSMODE ≠ 2 →
    let x := s.core c
    let w := coreWin c
    let off := 64 * ppuF s c e PPU_STATS_BASE + 16 * (ch - ppuF s c e PPU_CH_CHBASE)
    let sat := decide (s.getF (ppuBase c e) PPU_THR_SAT < st.sat)
    let ufl := decide (s.getF (ppuBase c e) PPU_THR_UFL < st.ufl)
    let report (a b : Bool) : List Report := if s.getF w SEQ_FRAME_VALID = 1 then
      s.reports ++ [⟨c, s.getF w SEQ_FRAME_SLOT, s.getF w SEQ_FRAME_SEQ_SEQ, a, b, x.ftrunc⟩] else s.reports
    (x.dark = false → off + 16 ≤ 0x600000 → asleep s (scratchWin c + off) 16 = none → badRegion s (scratchWin c + off) 16 = false →
      ∃ t, exec (.endOp c) s = .next t ∧
        leAt (t.bytesAt (scratchWin c + off) 16) 0 4 = st.maxAbs.code32Up % 2 ^ 32 ∧
        t.bytesAt (scratchWin c + off) 16 = natToBytes 16 (statRecord s c e st) ∧ MemKept s t (scratchWin c + off) 16 ∧
        t.getF (ppuBase c e) PPU_FFLAGS_SAT = (if sat then 1 else 0) ∧
        t.getF (ppuBase c e) PPU_FFLAGS_UFL = (if ufl then 1 else 0) ∧
        t.reports = report (x.fsat || sat) (x.fufl || ufl) ∧ (t.eng c e).chst = [] ∧
        t.getF w SEQ_FRAME_VALID = 0 ∧ t.getF w SEQ_STATUS_PC = s.getF w SEQ_CTRL_ENTRY) ∧
    (x.dark = true → ∃ t, exec (.endOp c) s = .next t ∧ t.mem = s.mem ∧ t.reports = report false false ∧
      t.getF (ppuBase c e) PPU_FFLAGS_SAT = (if sat then 1 else 0) ∧ (t.eng c e).chst = [] ∧ t.getF w SEQ_FRAME_VALID = 0)

/-- WAIT, SIGNAL and RELEASE (R72, R246, R252, R274): with nothing in flight, WAIT pops the head of its queue into the held
register, or waits in state WAITING while the queue is empty; an entry popped from the frame queue loads the frame context, and an
EOF entry of another queue is discarded while WAIT goes on waiting. SIGNAL sends the held entry unchanged as a HANDLE token, RELEASE
its handle as a credit, and both free the held register; a queue in spill mode captures a RELEASE as a transfer of its lull channel,
or raises HANDLE_RANGE. A queue without a held entry is an OPCODE fault for both, a held entry is one for WAIT. That
SEQ_FRAME.VALID follows the FRAME bit of the popped entry is the model's reading (log 25). -/
def Obligations.HandlesMoved : Prop :=
  ∀ (s : State) (c : Fin 128), Functional s → wReservedClear (fetchWord s c) = true → (s.core c).ops = [] →
    let w := fetchWord s c
    let q := wIMM w % 16
    let pc := s.getF (coreWin c) SEQ_STATUS_PC
    (∀ e, atOp s c 0x18 = true → (s.hq c q).held = some e → exec (.wait c) s = .next (awaited s (coreFault s c 0x05 pc none))) ∧
    (atOp s c 0x18 = true → (s.hq c q).held = none →
      ((s.hq c q).entries = [] → exec (.wait c) s = .next (s.setF (coreWin c) SEQ_STATUS_STATE 2)) ∧
      (∀ e rest, (s.hq c q).entries = e :: rest → bit e.toNat 24 = false → q ≠ s.getF (coreWin c) SEQ_CTRL_FRAME_Q →
        ∃ t, exec (.wait c) s = .next t ∧ (t.hq c q).held = some e ∧ (t.hq c q).entries = rest ∧
          t.getF (coreWin c) SEQ_STATUS_PC = (pc + 1) % 2 ^ 10 ∧ t.getF (coreWin c) SEQ_STATUS_STATE = 1 ∧
          (∀ d, d ≠ q → t.hq c d = s.hq c d) ∧ t.mem = s.mem ∧ t.frames = s.frames) ∧
      (∀ e rest, (s.hq c q).entries = e :: rest → bit e.toNat 24 = false → q = s.getF (coreWin c) SEQ_CTRL_FRAME_Q →
        ∃ t, exec (.wait c) s = .next t ∧ (t.hq c q).held = some e ∧ (t.hq c q).entries = rest ∧
          t.getF (coreWin c) SEQ_STATUS_PC = (pc + 1) % 2 ^ 10 ∧ t.getF (coreWin c) SEQ_STATUS_STATE = 1 ∧
          t.getF (coreWin c) SEQ_FRAME_SLOT = bits e.toNat 16 7 ∧ t.getF (coreWin c) SEQ_FRAME_SEQ_SEQ = bits e.toNat 32 32 ∧
          t.getF (coreWin c) SEQ_FRAME_VALID = bits e.toNat 23 1 ∧ t.mem = s.mem ∧ t.frames = s.frames) ∧
      (∀ e rest, (s.hq c q).entries = e :: rest → bit e.toNat 24 = true → q ≠ s.getF (coreWin c) SEQ_CTRL_FRAME_Q →
        ∃ t, exec (.wait c) s = .next t ∧ (t.hq c q).held = none ∧ (t.hq c q).entries = rest ∧
          t.getF (coreWin c) SEQ_STATUS_PC = pc ∧ t.getF (coreWin c) SEQ_STATUS_STATE = 2)) ∧
    (atOp s c 0x19 = true →
      (∀ e, (s.hq c q).held = some e →
        let u := originate s c 1 (bits (wIMM w) 4 5) e.toNat
        exec (.signal c) s = .next (Sys2Proof.Spec.moved (u.setHq c q { u.hq c q with held := none }) c (pc + 1))) ∧
      ((s.hq c q).held = none → exec (.signal c) s = .next (coreFault s c 0x05 pc none))) ∧
    (atOp s c 0x1A = true →
      (∀ e, (s.hq c q).held = some e → (s.hq c q).spilling = false →
        let u := originate s c 1 (bits (wIMM w) 4 5) (bits e.toNat 0 16)
        exec (.release c) s = .next (Sys2Proof.Spec.moved (u.setHq c q { u.hq c q with held := none }) c (pc + 1))) ∧
      (∀ e, (s.hq c q).held = some e → (s.hq c q).spilling = true →
        (handleInRange s c q (bits e.toNat 0 16) = false → exec (.release c) s = .next (coreFault s c 0x07 pc none)) ∧
        (handleInRange s c q (bits e.toNat 0 16) = true →
          let k := s.cluster (c / 8)
          let u := s.setCluster (c / 8) { k with lull := k.lull ++ [(c.val, q, some (BitVec.ofNat 64 (bits e.toNat 0 16)), 1)] }
          exec (.release c) s = .next (Sys2Proof.Spec.moved (u.setHq c q { u.hq c q with held := none }) c (pc + 1)))) ∧
      ((s.hq c q).held = none → exec (.release c) s = .next (coreFault s c 0x05 pc none)))

/-- The macro-operations that issue with engines, SAGs and a parameter block: constructor, code, and whether it has a block
(Table 2.8). -/
def Sys2Proof.Spec.operators (c : Fin 128) : List (Instr × Nat × Bool) :=
  [(.conv c, 0x01, true), (.wino c, 0x02, true), (.dwconv c, 0x03, true), (.matmul c, 0x04, true), (.pool c, 0x05, true),
   (.resize c, 0x06, true), (.eltwise c, 0x07, true), (.reduce c, 0x08, true), (.halo c, 0x12, true), (.crop c, 0x13, true),
   (.s2d c, 0x14, true), (.d2s c, 0x15, true), (.loadw c, 0x16, false), (.kiln c, 0x17, true)]

/-- The macro-operations of the relation unit (Table 2.8). -/
def Sys2Proof.Spec.relations (c : Fin 128) : List (Instr × Nat) :=
  [(.gather c, 0x09), (.scatter c, 0x0A), (.segment c, 0x0B), (.topk c, 0x0C), (.sort c, 0x0D), (.knn c, 0x0E), (.fps c, 0x0F),
   (.ball c, 0x10)]

/-- The macro-operations of the sequencer itself (Table 2.8). -/
def Sys2Proof.Spec.sequencing (c : Fin 128) : List (Instr × Nat) :=
  [(.nop c, 0x00), (.signal c, 0x19), (.release c, 0x1A), (.loop c, 0x1B), (.jump c, 0x1C), (.barrier c, 0x1D)]

/-- Issue of a macro-operation (R58, R63, R64, R68, R70): with its engines and SAGs free, its block readable and its fields
legal, it is in flight with its word, its block and the next number of its core; the SAGs it names are its own, the engines of EMASK
are busy with its formats, and the program counter moves on. Nothing in memory changes. A COPY of mode 1 sends its CONTROL token as
well (R254); an operation of the relation unit joins the unit's queue behind the requests that came before it, and of one instant
before those of higher cores (R198). KILN takes no sidecar SAG (log 125). -/
def Obligations.MacroOperationsIssue : Prop :=
  ∀ (s : State) (c : Fin 128) (i : Instr) (opc : Nat), Functional s → atOp s c opc = true →
    wReservedClear (fetchWord s c) = true →
    let w := fetchWord s c
    let win := coreWin c
    (∀ hasBlock blk t, (i, opc, hasBlock) ∈ (.copy c, 0x11, true) :: Sys2Proof.Spec.operators c →
      resourcesFree s c w (if hasBlock then peekBlock s c w else 0) = true →
      (if hasBlock then readBlock s c w else (some [], s)) = (some blk, t) → t.met = s.met →
      let b := bytesToNat blk
      let q := cpCQ b
      let num := (t.core c).nextOp
      fieldsOk t c w b = true → (∀ n ∈ sagsNamed t c w b, sagOk t c n = true) →
      ∃ u o, (u.core c).ops = (t.core c).ops ++ [o] ∧ o.num = num ∧ o.pcAt = t.getF win SEQ_STATUS_PC ∧
        o.word = BitVec.ofNat 128 w ∧ o.block = blk ∧ o.k = 0 ∧ o.done = false ∧ (u.core c).nextOp = num + 1 ∧
        (∀ n ∈ sagsNamed t c w b, (u.sag c n).owner = some num) ∧
        (∀ n, n ∉ sagsNamed t c w b → u.sag c n = t.sag c n) ∧
        (opc ∈ [0x01, 0x02, 0x03, 0x04, 0x05, 0x06, 0x07, 0x08, 0x13, 0x14, 0x15] →
          (u.sag c (wSAGA w)).owner = some num ∧ (u.sag c (wSAGOUT w)).owner = some num) ∧
        (opc = 0x16 → bit (wIMM w) 0 = false → (u.sag c (wSAGB w)).owner = some num) ∧
        (opc = 0x17 → (u.sag c (wSAGA w)).owner = some num ∧ (u.sag c (wSAGB w)).owner = some num) ∧
        (opc = 0x11 → (u.sag c (wSAGA w)).owner = some num ∧ (cpMODE b = 0 → (u.sag c (wSAGOUT w)).owner = some num)) ∧
        (opc ∈ [0x01, 0x02, 0x03, 0x04, 0x05, 0x06, 0x07, 0x08, 0x13, 0x16, 0x17] → ∀ e, e < 8 → bit (wEMASK w) e = true →
          u.getF (engBase c e) ENG_STATUS_BUSY = 1 ∧ u.getF (engBase c e) ENG_FMT_FMT_A = wFMTA w ∧
          u.getF (engBase c e) ENG_FMT_FMT_B = wFMTB w ∧ u.getF (engBase c e) ENG_FMT_FMT_OUT = wFMTOUT w) ∧
        u.getF win SEQ_STATUS_PC = (t.getF win SEQ_STATUS_PC + 1) % 2 ^ 10 ∧ u.getF win SEQ_STATUS_STATE = 1 ∧
        u.mem = t.mem ∧ u.frames = t.frames ∧ (∀ d, d ≠ c.val → u.core d = t.core d) ∧
        (opc ≠ 0x11 ∨ cpMODE b ≠ 1 → exec i s = .next u) ∧
        (∀ e, opc = 0x11 → cpMODE b = 1 → (t.hq c q).held = some e →
          let entry := setBits (setBits (setBits e.toNat 16 7 (t.getF win SEQ_FRAME_SLOT)) 23 1 (t.getF win SEQ_FRAME_VALID)) 32 32
            (t.getF win SEQ_FRAME_SEQ_SEQ)
          let v := (originate u c 2 (cpRT b) (entry + cpOFFSET b * 2 ^ 64 + cpPUSH b * 2 ^ 81)).setOp c { o with ctl := true }
          exec i s = .next (if cpKEEP b then v else v.setHq c q { v.hq c q with held := none }))) ∧
    (∀ blk t, (i, opc) ∈ Sys2Proof.Spec.relations c → (∀ r ∈ (s.cluster (c / 8)).rluq, r.1 ≠ c.val) →
      resourcesFree s c w 0 = true → readBlock s c w = (some blk, t) → t.met = s.met →
      relOk w (bytesToNat blk) (wPLEN w) = true → relTables (c / 8) w (bytesToNat blk) = true →
      (∀ n ∈ sagsNamed t c w (bytesToNat blk), sagOk t c n = true) →
      ∀ l r, (t.cluster (c / 8)).rluq = l ++ r → (∀ q ∈ l, ¬ (q.2.2.2 = now s ∧ c.val < q.1)) →
        (∀ q, r.head? = some q → q.2.2.2 = now s ∧ c.val < q.1) →
        exec i s = .next (t.setCluster (c / 8) { t.cluster (c / 8) with
          rluq := l ++ (c.val, BitVec.ofNat 128 w, blk, now s) :: r }))

/-- What stops a macro-operation at its issue. A reserved bit set in its word, or a reserved code, raises OPCODE with the program
counter as INFO (R68, R69, R85); a field of its block that its rules refuse raises OPCODE, and a SAG that R64 refuses SAG_PROG with
the SAG as INFO. One in a core that is halted, fenced or locked, or whose word has another code, does not issue (log 2). -/
def Obligations.BadMacroOperationsFault : Prop :=
  ∀ (s : State) (c : Fin 128) (i : Instr) (opc : Nat), Functional s →
    let w := fetchWord s c
    let fault := coreFault s c 0x05 (s.getF (coreWin c) SEQ_STATUS_PC) none
    ((i, opc, false) ∈ Sys2Proof.Spec.operators c ∨ (i, opc) ∈ Sys2Proof.Spec.sequencing c →
      (atOp s c opc = false → exec i s = .next s) ∧
      (atOp s c opc = true → wReservedClear w = false → exec i s = .next fault)) ∧
    ((i, opc, true) ∈ Sys2Proof.Spec.operators c ∨ (i, opc) ∈ Sys2Proof.Spec.relations c ∨
        (i, opc) ∈ [(.copy c, 0x11), (.wait c, 0x18), (.endOp c, 0x1F)] →
      (atOp s c opc = false → exec i s = .next s) ∧
      (atOp s c opc = true → wReservedClear w = false → exec i s = .next (awaited s fault))) ∧
    (∀ hasBlock blk t, (i, opc, hasBlock) ∈ Sys2Proof.Spec.operators c → atOp s c opc = true → wReservedClear w = true →
      resourcesFree s c w (if hasBlock then peekBlock s c w else 0) = true →
      (if hasBlock then readBlock s c w else (some [], s)) = (some blk, t) →
      let b := bytesToNat blk
      let bad := (sagsNamed t c w b).filter (fun n => !sagOk t c n)
      let out (u : State) : State := if hasBlock then awaited s u else u
      (fieldsOk t c w b = false → bad = [] →
        exec i s = .next (out (coreFault t c 0x05 (t.getF (coreWin c) SEQ_STATUS_PC) none))) ∧
      (∀ n, fieldsOk t c w b = true → bad = [n] → exec i s = .next (out (coreFault t c 0x06 n none)))) ∧
    (wOPC w = 0x1E ∨ 0x20 ≤ wOPC w → atOp s c (wOPC w) = true → exec (.reservedMacroOperation c) s = .next fault)

/-- MACRO_OP_COMPLETE, SEQ_EOF_TOKEN and STAGE_WATCHDOG_TICK (R70, R72, R74, R266): an operation that has done its work frees its
engines and SAGs, a KILN once its state is written; an EOF token is acted on at ENTRY with no frame loaded and waits otherwise; the
watchdog counts while an operation is in flight, or a BARRIER waits for mover channels (log 90), and raises WATCHDOG with the
program counter of the oldest at LIMIT. That a SAG stays with its operation until the operation completes is the model's choice
(log 89). -/
def Sys2Proof.Spec.SequencerEvents : Prop :=
  (∀ (s : State) (c : Fin 128) (k : Nat) (o : Op), Functional s → (s.core c).ops[k]? = some o → halted s c = false →
    opDone s c o = true → o.opc ≠ 0x17 →
    exec (.macroOpComplete c k) s = .next (awaited s (retire s c o)) ∧ (∀ p ∈ ((retire s c o).core c).ops, p.num ≠ o.num)) ∧
  (∀ (s : State) (c : Fin 128) (k : Nat) (o : Op), Functional s → (s.core c).ops[k]? = some o → halted s c = false →
    opDone s c o = true → o.opc = 0x17 →
    let t := kilnFinish s c ((wEngines o.word.toNat).headD 0) o
    halted t c = false → exec (.macroOpComplete c k) s = .next (awaited s (retire t c o))) ∧
  (∀ (s : State) (c : Fin 128) (t : Token) (rest : List Token), Functional s → (s.core c).eof = t :: rest → halted s c = false →
    (s.getF (coreWin c) SEQ_STATUS_PC = s.getF (coreWin c) SEQ_CTRL_ENTRY → s.getF (coreWin c) SEQ_FRAME_VALID = 0 →
      exec (.seqEofToken c) s = .next (awaited s (eofHandle (s.setCore c { s.core c with eof := rest }) c
        (bits t.payload.toNat 0 7) (bits t.payload.toNat 32 32)))) ∧
    (s.getF (coreWin c) SEQ_FRAME_VALID = 1 → exec (.seqEofToken c) s = .next s)) ∧
  (∀ (s : State) (c : Fin 128) (o : Op) (l : List Op), Functional s → (s.core c).ops = o :: l → halted s c = false →
    linkWait s c = false → (∀ p, holderOf s c = some p → heldByDie s p = false) → s.getF (injBase 0x06) TXU_INJ_COUNT = 0 →
    let n := (s.core c).wdog + 1
    let u := s.setCore c { s.core c with wdog := n }
    (s.getF (coreWin c) SEQ_WDOG_LIMIT ≠ 0 → s.getF (coreWin c) SEQ_WDOG_LIMIT ≤ n →
      exec (.stageWatchdogTick c) s = .next (coreFault u c 0x12 o.pcAt none)) ∧
    (s.getF (coreWin c) SEQ_WDOG_LIMIT = 0 ∨ n < s.getF (coreWin c) SEQ_WDOG_LIMIT →
      exec (.stageWatchdogTick c) s = .next u)) ∧
  (∀ (s : State) (c : Fin 128), Functional s → (s.core c).ops = [] → barrierWait s c = true →
    (∀ p, holderOf s c = some p → heldByDie s p = false) → s.getF (injBase 0x06) TXU_INJ_COUNT = 0 →
    let n := (s.core c).wdog + 1
    let u := s.setCore c { s.core c with wdog := n }
    (s.getF (coreWin c) SEQ_WDOG_LIMIT ≠ 0 → s.getF (coreWin c) SEQ_WDOG_LIMIT ≤ n →
      exec (.stageWatchdogTick c) s = .next (coreFault u c 0x12 (s.getF (coreWin c) SEQ_STATUS_PC) none)) ∧
    (s.getF (coreWin c) SEQ_WDOG_LIMIT = 0 ∨ n < s.getF (coreWin c) SEQ_WDOG_LIMIT →
      exec (.stageWatchdogTick c) s = .next u))

/-- The end of a frame's program (R72, R154), the statistics it writes (R144, R152 to R154), and the sequencer's events (R70, R72, R74, R266). -/
def Obligations.ProgramsEnd : Prop := Sys2Proof.Spec.FrameProgramEnds ∧ Sys2Proof.Spec.StatisticsWritten ∧ Sys2Proof.Spec.SequencerEvents

/-! ### Engines, post-processing units, stream address generators -/

/-- SHADOW_BEAT, SHADOW_SWAP and ENGINE_VECTOR (R51 to R53, R100, R116, R183, R260): a beat of the weight stream, from SAG_B or of the
core's gust channel, enters the shadow tile of the engine in turn, which is ready once it is complete, and waits while it is ready
(log 86); the shadow becomes active once the active tile has had its vectors; a vector is folded into the accumulation buffer of its
engine, in cascade mode of the last engine of the mask, and counted, once the buffer of 4,096 entries has room at its first fold; a WINO vector beyond
the tile row folds nothing; a tile with the reserved TERN2 code faults. An event named too early changes nothing (log 2). The order
of the bytes of a tile and of the engines of a mask is log 18, that of a cascade log 19, the engine that counts a clamp in a cascade
log 85, and the one gust buffer of a core for all channels log 31. -/
def Obligations.EngineEvents : Prop :=
  ∀ (s : State) (c : Fin 128) (e : Fin 8) (o : Op), Functional s → halted s c = false → engOp s c e = some o →
    let x := s.eng c e
    let g := engBase c e
    let es := wEngines o.word.toNat
    let n := es.length
    let j := indexIn es e
    let beats := tileBeats (wFMTB o.word.toNat) * 64
    (nextTileEngine s c o = some e.val → s.getF g ENG_STATUS_SHADOW_READY = 0 →
      (∀ b rest, fromGust o = true → takeGust (s.getF (coreWin c) STU_GUST_CHAN) (s.core c).gust = some (b, rest) →
        let u := s.setCore c { s.core c with gust := rest }
        let sh := x.shadow ++ natToBytes 64 b.toNat
        (sh.length < beats → exec (.shadowBeat c e) s = .next (u.setEng c e { x with shadow := sh })) ∧
        (beats ≤ sh.length → exec (.shadowBeat c e) s = .next
          ((u.setEng c e { x with shadow := sh, streamed := x.streamed + 1 }).setF g ENG_STATUS_SHADOW_READY 1))) ∧
      (∀ b, fromGust o = false → sagVector (s.sag c (wSAGB o.word.toNat)) = some b →
        let k := wSAGB o.word.toNat
        let u := s.setSag c k { s.sag c k with used := (s.sag c k).used + 64 }
        let sh := x.shadow ++ b
        (sh.length < beats → exec (.shadowBeat c e) s = .next (u.setEng c e { x with shadow := sh })) ∧
        (beats ≤ sh.length → exec (.shadowBeat c e) s = .next
          ((u.setEng c e { x with shadow := sh, streamed := x.streamed + 1 }).setF g ENG_STATUS_SHADOW_READY 1)))) ∧
    (s.getF g ENG_STATUS_SHADOW_READY = 1 → exec (.shadowBeat c e) s = .next s) ∧
    (isCellOp o.opc = true → s.getF g ENG_STATUS_SHADOW_READY = 1 → (x.tile = 0 ∨ x.vec = hVpt o.blk) →
      x.tile < engTiles o n j →
      ∃ t, exec (.shadowSwap c e) s = .next t ∧ t.eng c e = { x with active := x.shadow, shadow := [], tile := x.tile + 1, vec := 0 } ∧
        t.getF g ENG_STATUS_SHADOW_READY = 0 ∧ t.getF g ENG_STATUS_TILE_VALID = 1 ∧ t.mem = s.mem ∧
        RegsKept s t [g + ENG_STATUS_SHADOW_READY.off]) ∧
    (s.getF g ENG_STATUS_SHADOW_READY = 0 → exec (.shadowSwap c e) s = .next s) ∧
    (let dst := if hENGMODE o.blk = 1 ∧ o.opc ≠ 0x02 then es.getD (n - 1) 0 else e.val
     let pl := vecPlace o n j (x.tile - 1) x.vec
     (s.core c).locked = false → isCellOp o.opc = true → x.tile ≠ 0 → x.vec < hVpt o.blk →
      (hENGMODE o.blk = 1 → o.opc ≠ 0x02 → o.vecs % n = j) →
      (pl.first = true → (s.eng c dst).acc.length < 4096) →
      (ternBad (wFMTB o.word.toNat) x.active = true →
        exec (.engineVector c e) s = .next (awaited s (coreFault s c 0x09 o.pcAt none))) ∧
      (∀ v sat t, ternBad (wFMTB o.word.toNat) x.active = false → engVec s c e o n j (x.tile - 1) x.vec = .vec v sat t → t.met = s.met →
        (woBeyond o n j (x.tile - 1) x.vec = false →
          let u := foldVector t c e dst o pl v
          exec (.engineVector c e) s = .next ((((u.setEng c e { u.eng c e with vec := x.vec + 1 }).addF g ENG_VECTORS_COUNT 1).addF
            g ENG_ASAT_CNT_COUNT sat).setOp c { o with vecs := o.vecs + 1 })) ∧
        (woBeyond o n j (x.tile - 1) x.vec = true →
          exec (.engineVector c e) s = .next ((((t.setEng c e { t.eng c e with vec := x.vec + 1 }).addF g ENG_VECTORS_COUNT 1).addF
            g ENG_ASAT_CNT_COUNT sat).setOp c { o with vecs := o.vecs + 1 }))))

/-- deq of R118: (x - Z) S for an integer format, x S for a floating one, rounded once to FP32. -/
def Sys2Proof.Spec.deq (f : Nat) (x : FV) (z : Int) (scale : FV) : FV :=
  ((match x with
    | .fin _ q => if fmtFloat f then x else FV.ofQ (q.sub (Q.ofInt z)) false
    | v => v).mul scale).1.fp32.1

/-- The operations of ELTWISE, rounded once to FP32 (Table 3.15). -/
def Sys2Proof.Spec.eltwise (op : Nat) (a b : FV) : FV :=
  match op with
  | 0 => (FV.sum [a, b]).1.fp32.1
  | 1 => (FV.sum [a, b.neg]).1.fp32.1
  | 2 => (a.mul b).1.fp32.1
  | 3 => a.max b
  | 4 => a.min b
  | 5 => a.abs
  | 6 => if (FV.sum [a, b.neg]).2 then .nan else ((FV.sum [a, b.neg]).1.mul (FV.sum [a, b.neg]).1).1.fp32.1
  | _ => a

/-- The code of an exact value in an integer format: rounded to nearest, ties away from zero, and saturated (R102, Table 3.9). -/
def Sys2Proof.Spec.intCode (f : Nat) (q : Q) : Nat := unsigned (fmtBits f) (clampInt (q.round .rna) (intMin f) (intMax f))

/-- PPU_ELEMENT of ELTWISE and REDUCE (R54, R117 to R119). An ELTWISE element into an integer format of whole bytes is
op(deq A, deq B) times OSCALE, plus OZP, converted once, and goes to SAG_OUT. A REDUCE element before the last of its run goes into
the running accumulator: for SUM over an integer format it is added at its full value less its zero point, clamped to 48 bits with S
where it clamps; for MAX and MIN it takes the place of the value held where it is better; the last element of a SUM gives the sum
times SA and times the output scale, plus OZP, converted once. The unit that takes an element is log 21. -/
def Sys2Proof.Spec.PpuElements : Prop :=
  ∀ (s : State) (c : Fin 128) (e : Fin 8) (o : Op), Functional s → halted s c = false →
    (s.core c).locked = false → engOp s c e = some o →
    let w := o.word.toNat
    let b := o.blk
    let n := (wEngines w).length
    let j := indexIn (wEngines w) e
    let fa := wFMTA w
    let f := wFMTOUT w
    let k := o.k
    let out := wSAGOUT w
    let len := reLEN b
    let plain : Prop := wRND w = false ∧ f ∈ [0x2, 0x3, 0x4, 0x5] ∧ s.getF (ppuBase c e) PPU_SIDE_EN = 0 ∧ (s.sag c out).half = none
    let made (q : Q) (o' : Op) : Prop := ∃ t, exec (.ppuElement c e) s = .next t ∧
      (t.sag c out).inb = (s.sag c out).inb ++ natToBytes (fmtBits f / 8) (Sys2Proof.Spec.intCode f q) ∧
      (t.core c).ops = ((s.setOp c o').core c).ops ∧ (t.eng c e).outk = (s.eng c e).outk + 1 ∧ t.mem = s.mem ∧ t.frames = s.frames
    (∀ xa xb neg q, o.opc = 0x07 → plain → elOP b < 8 → k < elCOUNT b → k % n = j →
      operand s c o (wSAGA w) fa k 0 = some xa →
      (elOP b ≠ 5 → elOP b ≠ 7 → operand s c o (wSAGB w) (wFMTB w)
        (match elBCAST b with | 0 => k | 1 => 0 | 2 => k / elROWLEN b | _ => k % elROWLEN b)
        (if fmtGroup fa then ceilDiv (elCOUNT b) (hG b) else 0) = some xb) →
      ((Sys2Proof.Spec.eltwise (elOP b) (Sys2Proof.Spec.deq fa xa (signed 16 (bits b 144 16)) (floatElem 0xB (bits b 192 32)))
        (Sys2Proof.Spec.deq (wFMTB w) xb (signed 16 (bits b 160 16)) (floatElem 0xB (bits b 224 32)))).mul
          (floatElem 0xB (bits b 256 32))).1.fp32.1 = .fin neg q →
      made (q.add (Q.ofInt (signed 16 (bits b 176 16)))) { o with k := k + 1 }) ∧
    (∀ v, o.opc = 0x08 → elOP b = 0 → fmtFloat fa = false → operand s c o (wSAGA w) fa k 0 = some v → k / len < reNRUN b →
      let old := if k % len = 0 then Acc.zero else o.red
      let y := (if k % len = 0 then (⟨0, 1⟩ : Q) else o.red.f.q).add (v.q.sub (Q.ofInt (signed 16 (bits b 144 16))))
      let z := clampQ y 0
      let o' := { o with k := k + 1, red := { old with f := FV.ofQ z false, fl := old.fl.setS (!z.eq y) } }
      (k / len / unitOf o % n = j → k % len + 1 < len → exec (.ppuElement c e) s = .next (s.setOp c o')) ∧
      (∀ neg q, plain → k / len % n = j → k % len + 1 = len → o.outs = [] →
        (((FV.ofQ z false).mul (floatElem 0xB (bits b 240 32))).1.fp32.1.mul (floatElem 0xB (bits b 272 32))).1.fp32.1 = .fin neg q →
        made (q.add (Q.ofInt (signed 16 (bits b 160 16)))) o')) ∧
    (∀ v, o.opc = 0x08 → (elOP b = 2 ∨ elOP b = 3) → operand s c o (wSAGA w) fa k 0 = some v → k / len < reNRUN b →
      k / len / unitOf o % n = j → k % len + 1 < len → v.isNaN = false → o.red.f.isNaN = false →
      let better := if elOP b = 2 then o.red.f.lt v else v.lt o.red.f
      exec (.ppuElement c e) s = .next (s.setOp c (
        if k % len = 0 then { o with k := k + 1, red := { Acc.zero with f := v }, vecs := 0 }
        else if better then { o with k := k + 1, red := { o.red with f := v }, vecs := k % len }
        else { o with k := k + 1 })))

/-- PPU_ELEMENT of the pipelined operators (R54, R110, R136): the next element of a CONV, DWCONV, MATMUL, POOL, RESIZE or CROP whose
step-6 value is there, with RSMODE 0 and an integer format of whole bytes, is that value plus the zero point of its rescale entry,
rounded once and saturated. It is stored at its planar address and nowhere else, or joins the row that its engine collects for
SAG_OUT. The zero point is read without effect for a cell operator, whose steps have read it. -/
def Sys2Proof.Spec.PipelineElements : Prop :=
  ∀ (s : State) (c : Fin 128) (e : Fin 8) (o : Op), Functional s → halted s c = false → (s.core c).locked = false →
    engOp s c e = some o → o.opc ∈ [0x01, 0x03, 0x04, 0x05, 0x06, 0x13] →
    let w := o.word.toNat
    let f := wFMTOUT w
    let n := (wEngines w).length
    let j := indexIn (wEngines w) e
    let k := (s.eng c e).outk
    let el := outEl s c e o n j k
    ∀ neg q fl asat u re v, f ∈ [0x2, 0x3, 0x4, 0x5] → wRND w = false → ppuF s c e PPU_CTRL_RSMODE = 0 →
      s.getF (ppuBase c e) PPU_SIDE_EN = 0 → k < outTotal s c o n j → el.skip = false →
      sixOf s c e o n el = .val (.fin neg q) fl asat u → zpEntry u c e o el.ch = (some re, v) →
      let zp := signed 16 (bits re 30 16)
      let code := Sys2Proof.Spec.intCode f (q.add (Q.ofInt zp))
      let len := fmtBits f / 8
      ppuF v c e PPU_CTRL_RSMODE = 0 → v.getF (ppuBase c e) PPU_SIDE_EN = 0 →
      (zp < intMin f ∨ intMax f ≤ zp → exec (.ppuElement c e) s = .next (awaited s (coreFault v c 0x05 o.pcAt none))) ∧
      (intMin f ≤ zp → zp < intMax f →
        (∀ ch y x bx, el.dst = some (ch, y, x, bx) →
          let r := winRec o.blk (if o.opc = 0x01 ∨ o.opc = 0x03 ∨ o.opc = 0x04 then 128 else 0)
          let a := sagOrigin v c (wSAGOUT w) + ch * sagStride v c (wSAGOUT w) 2 + ((y : Int) - r.oy0) * sagStride v c (wSAGOUT w) 1 +
            (x * fmtBits f / 8 : Nat) + bx * sagStride v c (wSAGOUT w) 3
          boundsOk v c a len true = true → (∀ d, (v.die d).bad = []) →
          ∃ t, exec (.ppuElement c e) s = .next (awaited s t) ∧ t.bytesAt (scratchWin c + a.toNat) len = natToBytes len code ∧
            MemKept v t (scratchWin c + a.toNat) len ∧ (t.eng c e).outk = k + 1 ∧ t.frames = v.frames) ∧
        (el.dst = none → (∀ d, (v.eng c d).outq.length < 31) →
          ∃ t, exec (.ppuElement c e) s = .next (awaited s t) ∧ (t.eng c e).outq = (v.eng c e).outq ++ [code] ∧
            (t.eng c e).outk = k + 1 ∧ t.mem = v.mem ∧ t.frames = v.frames))

/-- PPU_ELEMENT of KILN, and of an operation without elements (R54, R156, R160): in the lowest engine of the mask, an element that lies
at no bound of its format (log 123) adds its gradient term (Q - x) Q to its channel, each step rounded once to FP32, and counts there;
one at a bound adds nothing. The reserved TERN2 code faults, and LOADW has no element. -/
def Sys2Proof.Spec.KilnElements : Prop :=
  ∀ (s : State) (c : Fin 128) (e : Fin 8) (o : Op), Functional s → halted s c = false →
    (s.core c).locked = false → engOp s c e = some o →
    let w := o.word.toNat
    let fa := wFMTA w
    let k := o.k
    (∀ y x, o.opc = 0x17 → indexIn (wEngines w) e = 0 → operandCode s c o (wSAGA w) fa k 0 = some y →
      operand s c o (wSAGB w) 0xA k 0 = some x →
      (fa = 0xC → y.1 = 2 → exec (.ppuElement c e) s = .next (awaited s (coreFault s c 0x09 o.pcAt none))) ∧
      (∀ re t, (fa = 0xC → y.1 ≠ 2) → rescaleEntry s c e o (streamChannel s c e k) = (some re, t) → t.met = s.met →
        let ch := streamChannel s c e k
        let g := SMap.get (FV.fin false ⟨0, 1⟩, 0) o.kiln ch
        let q := if fmtFloat fa then elemVal fa y.1 y.2
          else FV.ofQ ((Q.ofInt (intElem fa y.1 - signed 16 (bits re 30 16))).shift (if fmtBint fa then signed 8 y.2 else 0)) false
        let term := ((FV.sum [q, x.neg]).1.fp32.1.mul q).1.fp32.1
        (y.1 ≠ satCode fa true → y.1 ≠ satCode fa false → exec (.ppuElement c e) s =
          .next (t.setOp c { o with k := k + 1, kiln := o.kiln.put ch ((FV.sum [g.1, term]).1.fp32.1, g.2 + 1) })) ∧
        (y.1 = satCode fa true ∨ y.1 = satCode fa false → exec (.ppuElement c e) s =
          .next (t.setOp c { o with k := k + 1, kiln := o.kiln.put ch g })))) ∧
    (o.opc = 0x16 → exec (.ppuElement c e) s = .next s)

/-- The elements of ELTWISE and REDUCE (R54, R117 to R119), of the pipelined operators (R110, R136), and of KILN (R156, R160). -/
def Obligations.ElementsProcessed : Prop := Sys2Proof.Spec.PpuElements ∧ Sys2Proof.Spec.PipelineElements ∧ Sys2Proof.Spec.KilnElements

/-- The address-program instructions (R65 to R67): at an instruction with its opcode and no EMIT pending, each changes only its SAG: NOP,
SETI, ADDI, ADD and MODI (its immediate not zero) step past it with A[RD] as Table 2.6 says, SETC sets and LOOP counts down a
loop counter, JMP goes to its target. The last instruction of the store, a counter above 3 and MODI by zero raise SAG_PROG. The program
of a SAG whose order its macro-operation generates does not run: SAG_A and SAG_OUT of a window operator, SAG_OUT of a relation
operation (R165, R200). -/
def Obligations.AddressProgramSteps : Prop :=
  ∀ (s : State) (c : Fin 128) (n : Fin 16), Functional s →
    let x := s.sag c n
    let w := apWord s c n
    let go (y : SagSt) : State := s.setSag c n { y with pc := x.pc + 1 }
    let a (r : Nat) : BitVec 32 := x.a.getD r 0
    let bad : State := coreFault (s.setSag c n { x with ended := true }) c 0x06 n none
    (∀ num o i, x.owner = some num → s.op c num = some o →
      (o.opc ∈ [0x01, 0x02, 0x03, 0x05, 0x06, 0x13, 0x14, 0x15] ∧ (n.val = wSAGA o.word.toNat ∨ n.val = wSAGOUT o.word.toNat)) ∨
        (o.opc ∈ [0x09, 0x0A, 0x0B, 0x0C, 0x0D, 0x0E, 0x0F, 0x10] ∧ n.val = wSAGOUT o.word.toNat) →
      i ∈ [.sagNop c n, .sagSeti c n, .sagAddi c n, .sagAdd c n, .sagModi c n, .sagEmit c n, .sagEmitz c n, .sagSetc c n,
        .sagLoop c n, .sagJmp c n, .sagEnd c n, .sagReservedOpcode c n] → exec i s = .next s) ∧
    ((∀ num o, x.owner = some num → s.op c num = some o → streamsSag o n = true) →
    (x.pc < 63 →
      (apAt s c n 0x0 = true → exec (.sagNop c n) s = .next (go x)) ∧
      (apAt s c n 0x1 = true → exec (.sagSeti c n) s = .next (go { x with a := x.a.set (aRD w) (BitVec.ofNat 32 (aIMM w)) })) ∧
      (apAt s c n 0x2 = true → exec (.sagAddi c n) s =
        .next (go { x with a := x.a.set (aRD w) (a (aRS w) + BitVec.ofInt 32 (signed 22 (aIMM w))) })) ∧
      (apAt s c n 0x3 = true → exec (.sagAdd c n) s = .next (go { x with a := x.a.set (aRD w) (a (aRD w) + a (aRS w)) })) ∧
      (apAt s c n 0x4 = true → aIMM w ≠ 0 → exec (.sagModi c n) s =
        .next (go { x with a := x.a.set (aRD w) (BitVec.ofNat 32 ((a (aRD w)).toNat % aIMM w)) })) ∧
      (apAt s c n 0x7 = true → aRD w < 4 → exec (.sagSetc c n) s =
        .next (go { x with cnt := x.cnt.set (aRD w) (bits (aIMM w) 0 16 + 1) })) ∧
      (apAt s c n 0x8 = true → aRD w < 4 → x.cnt.getD (aRD w) 0 ≤ 1 → exec (.sagLoop c n) s =
        .next (go (if x.cnt.getD (aRD w) 0 = 0 then x else { x with cnt := x.cnt.set (aRD w) 0 })))) ∧
    (apAt s c n 0x8 = true → aRD w < 4 → 1 < x.cnt.getD (aRD w) 0 → exec (.sagLoop c n) s = .next (s.setSag c n
      { x with cnt := x.cnt.set (aRD w) (x.cnt.getD (aRD w) 0 - 1), pc := bits (aIMM w) 0 6 })) ∧
    (apAt s c n 0x9 = true → exec (.sagJmp c n) s = .next (s.setSag c n { x with pc := bits (aIMM w) 0 6 })) ∧
    (apAt s c n 0x0 = true → x.pc = 63 → exec (.sagNop c n) s = .next bad) ∧
    (apAt s c n 0x4 = true → aIMM w = 0 → exec (.sagModi c n) s = .next bad) ∧
    (apAt s c n 0x7 = true → 4 ≤ aRD w → exec (.sagSetc c n) s = .next bad) ∧
    (apAt s c n 0x8 = true → 4 ≤ aRD w → exec (.sagLoop c n) s = .next bad) ∧
    (∀ o, 0xA ≤ o → o ≤ 0xE → apAt s c n o = true → exec (.sagReservedOpcode c n) s = .next bad))

/-- EMIT, EMITZ, SAG_END and SAG_STEP (R60 to R62, R65 to R67, R187): EMIT sets the access of its elements at the origin plus A[RS]
plus its offset, a sum that does not wrap (log 82); EMITZ takes that many elements out of the incoming bytes, or delivers zeros; END
ends the sequence with its last vector padded; a step of a pending EMIT makes the access of its bytes within one 64-byte word, and
SAG_PROG follows the last of an EMIT at instruction 63; a step in descriptor mode makes the next run; a step of SAG_OUT in S2D and
D2S moves one element. A step of a write SAG whose bytes are not there changes nothing (log 2). A CROP reads no record of its box
list beyond the 4,096th (R195). -/
def Obligations.StreamsStep : Prop :=
  ∀ (s : State) (c : Fin 128) (n : Fin 16), Functional s →
    let x := s.sag c n
    let w := apWord s c n
    let es := sagElem s c n
    let k := bits (aIMM w) 0 6 + 1
    ((∀ num o, x.owner = some num → s.op c num = some o → streamsSag o n = true) →
    (apAt s c n 0x5 = true → exec (.sagEmit c n) s = .next (s.setSag c n { x with
      emAddr := sagOrigin s c n + (x.a.getD (aRS w) 0).toNat + signed 16 (bits (aIMM w) 6 16)
      emLeft := k * es, pc := x.pc + 1 })) ∧
    (apAt s c n 0x6 = true → x.pc < 63 → s.getF (sagBase c n) SAG_CFG_DIR = 1 →
      (x.inb.length < k * es → exec (.sagEmitz c n) s = .next s) ∧
      (k * es ≤ x.inb.length → exec (.sagEmitz c n) s = .next (s.setSag c n
        { x with inb := x.inb.drop (k * es), pc := x.pc + 1 }))) ∧
    (apAt s c n 0x6 = true → x.pc < 63 → s.getF (sagBase c n) SAG_CFG_DIR = 0 →
      let u := s.setSag c n { x with dlv := x.dlv ++ List.replicate (k * es) 0 }
      let v := afterDeliveries (u.setF (sagBase c n) SAG_EMITTED_COUNT (s.getF (sagBase c n) SAG_EMITTED_COUNT + k)) c n
      exec (.sagEmitz c n) s = .next (v.setSag c n { v.sag c n with pc := x.pc + 1 })) ∧
    (apAt s c n 0xF = true → exec (.sagEnd c n) s = .next (afterDeliveries (s.setSag c n
      { x with ended := true, dlv := padVector (sagVlen s c n) x.dlv }) c n))) ∧
    (∀ num o, x.owner = some num → s.op c num = some o → o.opc ≠ 0x14 → o.opc ≠ 0x15 → streamsSag o n = true →
      (sagRuns s c n 0 = true → exec (.sagStep c n) s = .next (awaited s (sagStepDescriptor s c n))) ∧
      (sagRuns s c n 1 = true →
        let word := min (64 - (x.emAddr % 64).toNat) x.emLeft
        let write := s.getF (sagBase c n) SAG_CFG_DIR = 1
        let len := if write then word
          else min word (if o.opc = 0x13 ∧ n.val = wSAGAUX o.word.toNat then min 64 (65552 - x.dlv.length) else 64)
        let t := sagAccess s c n x.emAddr len
          (fun y => { y with emAddr := y.emAddr + len, emLeft := y.emLeft - len }) (x.emLeft / es - (x.emLeft - len) / es)
        (len ≠ 0 → ¬ (write ∧ x.inb.length < len) →
          ((t.sag c n).emLeft ≠ 0 ∨ (t.sag c n).pc < 64 → exec (.sagStep c n) s = .next (awaited s t)) ∧
          ((t.sag c n).emLeft = 0 → 64 ≤ (t.sag c n).pc →
            exec (.sagStep c n) s =
              .next (awaited s (coreFault (t.setSag c n { t.sag c n with ended := true }) c 0x06 n none)))) ∧
        (len = 0 ∨ (write ∧ x.inb.length < len) → exec (.sagStep c n) s = .next s))) ∧
    (∀ num o, x.owner = some num → s.op c num = some o → o.opc = 0x14 ∨ o.opc = 0x15 → n.val = wSAGOUT o.word.toNat →
      halted s c = false → exec (.sagStep c n) s = .next (awaited s (regroupStep s c o)))

/-- The elements of a SAG in descriptor mode (R60): element number i + COUNT[0] × j lies one row of dimension 1 further, and
within a row consecutive elements lie one stride of dimension 0 apart. -/
def Sys2Proof.Spec.DescriptorAddresses : Prop :=
  ∀ (s : State) (c n k j : Nat), sagCount s c n 2 = 1 → sagCount s c n 3 = 1 → sagCount s c n 4 = 1 →
    k < sagCount s c n 0 → j < sagCount s c n 1 →
    sagAddr s c n (k + sagCount s c n 0 * j) = sagOrigin s c n + k * sagStride s c n 0 + j * sagStride s c n 1

/-- The step of a SAG in the read direction that its bounds refuse (R56, R58): nothing is delivered, the SAG stays where it is, and
the core faults with BOUNDS. -/
def Sys2Proof.Spec.BoundsRefuseAccess : Prop :=
  ∀ (s : State) (c n : Nat) (addr : Int) (len : Nat) (done : SagSt → SagSt) (k : Nat),
    s.getF (sagBase c n) SAG_CFG_DIR = 0 → (∀ m, m < 8 → windowGrants s c m addr.toNat len false = false) →
    sagAccess s c n addr len done k = coreFault s c 0x01 n (some (unsigned 23 addr))

/-- Where the elements of a descriptor lie (R60), and that bounds refuse an access (R56, R58). -/
def Obligations.AddressesAndBounds : Prop := Sys2Proof.Spec.DescriptorAddresses ∧ Sys2Proof.Spec.BoundsRefuseAccess

/-! ### Core configuration, tokens on the links, joins, the gust bus -/

/-- ENG_SEED_WRITE (R122): in a drained core the seed is written; in any other the write is ignored and SEQ_ERR.CFG_BUSY is set, so
that no seed changes while a frame is loaded. -/
def Obligations.SeedWritten : Prop :=
  ∀ (s : State) (c : Fin 128) (e : Fin 8) (v : BitVec 32), Functional s →
    (drained s c = true → exec (.engSeedWrite c e v) s = .next (s.setF (engBase c e) ENG_SEED_SEED v.toNat)) ∧
    (drained s c = false → exec (.engSeedWrite c e v) s = .next (s.setF (coreWin c) SEQ_ERR_CFG_BUSY 1)) ∧
    (s.getF (coreWin c) SEQ_FRAME_VALID = 1 →
      ∃ t, exec (.engSeedWrite c e v) s = .next t ∧ ∀ d f, t.getF (engBase d f) ENG_SEED_SEED = s.getF (engBase d f) ENG_SEED_SEED)

/-- CORE_CONFIG_WRITE and HQ_CONFIG_WRITE (R84, R244, R245): in a drained core the write takes effect; one to a
queue's configuration resets the queue to INIT entries with handles from FIRST, which its peak counts, and one to SEQ_CTRL moves a
sequencer that stands at ENTRY to the new one (log 30). In any other core it is refused and SEQ_ERR.CFG_BUSY
is set. A word that is no core configuration is not written (log 2). -/
def Obligations.CoreConfigured : Prop :=
  ∀ (s : State) (c : Fin 128), Functional s →
    let busy := s.setF (coreWin c) SEQ_ERR_CFG_BUSY 1
    let fresh (t : State) (q : Nat) : State :=
      let first := t.getF (hqBase c q) STU_HQ_RANGE_FIRST
      let n := t.getF (hqBase c q) STU_HQ_CFG_INIT
      (t.setHq c q { HqSt.reset with
        entries := (List.range n).map (fun i => BitVec.ofNat 64 ((first + i) % 2 ^ 16)) }).maxF (hqBase c q) STU_HQ_PEAK_OCC n
    (∀ off v : BitVec 32, off.toNat % 4 = 0 → isCoreConfig off.toNat = true →
      (drained s c = false → exec (.coreConfigWrite c off v) s = .next busy) ∧
      (drained s c = true →
        let t := s.writeRW (coreWin c + off.toNat) v.toNat
        (off.toNat = 0 → exec (.coreConfigWrite c off v) s =
          .next (t.setF (coreWin c) SEQ_STATUS_PC (t.getF (coreWin c) SEQ_CTRL_ENTRY))) ∧
        (0x8400 ≤ off.toNat → off.toNat < 0x8800 →
          exec (.coreConfigWrite c off v) s = .next (fresh t ((off.toNat - 0x8400) / 0x40))) ∧
        (off.toNat ≠ 0 → (off.toNat < 0x8400 ∨ 0x8800 ≤ off.toNat) → exec (.coreConfigWrite c off v) s = .next t))) ∧
    (∀ off v : BitVec 32, off.toNat % 4 ≠ 0 ∨ isCoreConfig off.toNat = false → exec (.coreConfigWrite c off v) s = .next s) ∧
    (∀ (q : Fin 16) (off : BitVec 6) (v : BitVec 32),
      (off.toNat % 4 = 0 → off.toNat < 0x18 →
        (drained s c = false → exec (.hqConfigWrite c q off v) s = .next busy) ∧
        (drained s c = true → exec (.hqConfigWrite c q off v) s = .next (fresh (s.writeRW (hqBase c q + off.toNat) v.toNat) q))) ∧
      (off.toNat % 4 ≠ 0 ∨ 0x18 ≤ off.toNat → exec (.hqConfigWrite c q off v) s = .next s))

/-- TOKEN_ARRIVE and PASS_THROUGH_FORWARD (R76, R77, R236, R238, R240): a token that the wires leave as it was sent crosses the link and
arrives in the input buffer behind the token there or, with its pass bit set, in the pass-through register, or is discarded with a
record where no neighbour lies beyond; one whose check code fails is refused and stays with its sender; with no room, or in a core
stopped by a fault, the handshake waits. The pass-through register gives its token to an empty output register of the opposite
port. -/
def Obligations.TokensCrossLinks : Prop :=
  ∀ (s : State) (c : Fin 128) (p : Fin 4), Functional s →
    (∀ t d, heldOut s c p = some (t, d) → portKind s c p ≠ 0 → (injected s 0x05 (4 * c + p)).1 = false →
      let u := takeOut s c p
      let v := u.setCore c { u.core c with refus := (u.core c).refus.put p 0 }
      let pass := bit (s.getF (coreWin c + 4 * p) STU_PASS_MASK) t.tag.toNat
      (pass = false → seqState s c ≠ 3 → (s.inq c p).length < 2 →
        exec (.tokenArrive c p 0) s = .next (v.setInq c p (v.inq c p ++ [t])) ∧
        ∀ noise : BitVec 560, (linkToken (linkBits t ^^^ noise.toNat)).2 = false →
          exec (.tokenArrive c p noise) s = .next (refuse s c p d)) ∧
      (∀ noise, pass = false → (seqState s c = 3 ∨ 2 ≤ (s.inq c p).length) → exec (.tokenArrive c p noise) s = .next s) ∧
      (pass = true → SMap.find (s.core c).pass p = none →
        (portKind v c (oppPort p) ≠ 0 →
          exec (.tokenArrive c p 0) s = .next (v.setCore c { v.core c with pass := (v.core c).pass.put p t })) ∧
        (portKind v c (oppPort p) = 0 → exec (.tokenArrive c p 0) s = .next (passDead v c p t.tag.toNat))) ∧
      (∀ x noise, pass = true → SMap.find (s.core c).pass p = some x → exec (.tokenArrive c p noise) s = .next s)) ∧
    (∀ t, SMap.find (s.core c).pass p = some t →
      (portKind s c (oppPort p) = 0 → exec (.passThroughForward c p) s = .next
        (passDead (s.setCore c { s.core c with pass := SMap.erase (s.core c).pass p }) c p t.tag.toNat)) ∧
      (portKind s c (oppPort p) ≠ 0 →
        (SMap.find (s.core c).outp (oppPort p) = none → exec (.passThroughForward c p) s = .next (s.setCore c
          { s.core c with pass := SMap.erase (s.core c).pass p, outp := (s.core c).outp.put (oppPort p) t,
                          own := (s.core c).own.erase (oppPort p) })) ∧
        (∀ x, SMap.find (s.core c).outp (oppPort p) = some x → exec (.passThroughForward c p) s = .next s)))

/-- TOKEN_STEER (R78, R79, R82, R234, R242, R249, R439, R443, Table 2.10). At the head of an input port a token of another epoch is an EPOCH
fault, one of types 6 and 7 or whose type ACCEPT leaves out a TOKEN_TYPE fault, an epoch token counts as a probe; without a join
DATA at DEST 0 goes to the engines of EMASK, CONTROL there has no effect (log 28), HANDLE at DEST 2 is pushed into queue INDEX, and
DATA, CONTROL and SCALE there are OPCODE faults. A fenced core and one in a flush absorb the token, as an EPOCH fault does (log 27). A
token the core originates leaves by DEST 3 through an empty output register. The last probe completes a drain. -/
def Obligations.TokensSteered : Prop :=
  ∀ (s : State) (c : Fin 128), Functional s →
    let settle (v : State) : State := awaited s (match holderOf v c with
      | some p => drainCheck v p
      | none => v)
    (∀ (src : Fin 5) (t : Token) (rest : List Token), src.val < 4 → s.inq c src = t :: rest →
      let r := t.tag.toNat
      let b := routeBase c r
      let done (u : State) : State :=
        settle (progress ((u.setInq c src rest).addF (portBase c src) STU_PORT_IN_COUNT 1) c)
      (seqState s c = 4 ∨ (s.core c).flush = true → exec (.tokenSteer c src) s = .next (settle (s.setInq c src rest))) ∧
      (seqState s c < 3 → (s.core c).flush = false → (s.core c).locked = false →
        ((injected s 0x0A c).1 = false →
          (t.epoch.toNat ≠ s.getF (coreWin c) SEQ_EPOCH_EPOCH →
            exec (.tokenSteer c src) s = .next (done (coreFault s c 0x02 r none))) ∧
          (t.epoch.toNat = s.getF (coreWin c) SEQ_EPOCH_EPOCH →
            (6 ≤ t.typ.toNat → exec (.tokenSteer c src) s = .next (done (coreFault s c 0x04 r none))) ∧
            (t.typ ≠ 4 → bit (s.getF b STU_ROUTE_ACCEPT) t.typ.toNat = false →
              exec (.tokenSteer c src) s = .next (done (coreFault s c 0x04 r none))) ∧
            (t.typ = 4 → s.getF b STU_ROUTE_DEST ≠ 3 → exec (.tokenSteer c src) s =
              .next (done (s.setF (coreWin c) STU_PROBE_SEEN (min 255 (s.getF (coreWin c) STU_PROBE_SEEN + 1))))) ∧
            (s.getF b STU_ROUTE_JOIN = 0 → bit (s.getF b STU_ROUTE_ACCEPT) t.typ.toNat = true →
              (t.typ = 0 → s.getF b STU_ROUTE_DEST = 0 → exec (.tokenSteer c src) s =
                .next (done (giveEngines s c (s.getF b STU_ROUTE_EMASK)
                  (fun x => { x with inb := x.inb ++ natToBytes 64 t.payload.toNat })))) ∧
              (t.typ = 2 → s.getF b STU_ROUTE_DEST = 0 → exec (.tokenSteer c src) s = .next (done s)) ∧
              (t.typ = 1 → s.getF b STU_ROUTE_DEST = 2 → exec (.tokenSteer c src) s =
                .next (done (pushQueue s c (s.getF b STU_ROUTE_INDEX) (BitVec.ofNat 64 t.payload.toNat) r))) ∧
              (t.typ = 0 ∨ t.typ = 2 ∨ t.typ = 3 → s.getF b STU_ROUTE_DEST = 2 →
                exec (.tokenSteer c src) s = .next (done (coreFault s c 0x05 r none)))))))) ∧
    (∀ t rest, (s.core c).orig = t :: rest → seqState s c < 3 → (s.core c).locked = false →
      let r := t.tag.toNat
      let b := routeBase c r
      let o := s.getF b STU_ROUTE_INDEX % 4
      t.typ.toNat < 4 → bit (s.getF b STU_ROUTE_ACCEPT) t.typ.toNat = true → s.getF b STU_ROUTE_DEST = 3 →
        s.getF b STU_ROUTE_JOIN = 0 → portKind s c o ≠ 0 → SMap.find (s.core c).outp o = none →
        exec (.tokenSteer c 4) s = .next (settle ((s.addF (portBase c o) STU_PORT_OUT_COUNT 1).setCore c
          { s.core c with outp := (s.core c).outp.put o { t with tag := BitVec.ofNat 5 (s.getF b STU_ROUTE_RETAG) },
                          own := ((s.core c).own.erase o).put o r, orig := rest })))

/-- JOIN_FIRE (R82, R83, R149, R251, R291, Table 2.11): on a route that has armed the governing heads are delivered first, a SCALE to the
engines of EMASK; then the DATA token at the head must carry the sequence armed, or a JOIN_SEQ fault is raised, and it goes to the
engines or, on a fill, into the buffer. The next token of the run is checked in turn, and a run that is over lets the route arm again. A
route that has not armed waits; a fill whose bank group sleeps requests its wake and waits. -/
def Sys2Proof.Spec.JoinsFire : Prop :=
  ∀ (s : State) (c : Fin 128) (r : Fin 32), Functional s → halted s c = false → (s.core c).locked = false →
    let j := s.join c r
    let b := routeBase c r
    let dest := s.getF b STU_ROUTE_DEST
    let em := s.getF b STU_ROUTE_EMASK
    (j.armed = none → exec (.joinFire c r) s = .next s) ∧
    (∀ t rest, j.armed.isSome = true → j.heads = t :: rest → dest = 0 → t.typ = 3 → scOk t.payload.toNat = true →
      exec (.joinFire c r) s = .next ((giveEngines s c em (fun x => { x with sin := x.sin ++ scEntries t.payload.toNat })).setJoin c r
        { j with heads := rest })) ∧
    (∀ a t rest, j.armed = some a → j.heads = [] → j.data = t :: rest →
      (t.jseq ≠ a → exec (.joinFire c r) s = .next (awaited s (coreFault s c 0x03 r none))) ∧
      (∀ g u, t.jseq = a → dest = 2 → j.ctl.head? = some g → s.met = none →
        let q := s.getF b STU_ROUTE_INDEX
        let unit := fcOFFSET g.payload.toNat + (s.getF b STU_ROUTE_RUN + 1 - j.run)
        let at0 := bufferBase s c q (eHANDLE (fcENTRY g.payload.toNat)) + 64 * unit
        unit ≤ s.getF (hqBase c q) STU_HQ_BUF_SIZE → boundsOk s c at0 64 true = true →
        asleep s (scratchWin c + (at0 : Int).toNat) 64 = some u → exec (.joinFire c r) s = .next u) ∧
      (∀ u, t.jseq = a → t.typ = 0 →
        ((dest = 0 ∧ u = giveEngines s c em (fun x => { x with inb := x.inb ++ natToBytes 64 t.payload.toNat })) ∨
          (∃ g, dest = 2 ∧ j.ctl.head? = some g ∧
            u = fillWrite s c r (s.getF b STU_ROUTE_INDEX) g t (s.getF b STU_ROUTE_RUN + 1 - j.run) j.run)) →
        let v := u.setJoin c r { u.join c r with data := rest, run := j.run - 1 }
        (halted v c = true → exec (.joinFire c r) s = .next (awaited s v)) ∧
        (halted v c = false → j.run ≤ 1 → exec (.joinFire c r) s = .next (awaited s (runOver v c r))) ∧
        (halted v c = false → 1 < j.run → exec (.joinFire c r) s = .next (awaited s (joinCheck v c r)))))

/-- GUST_FEED_WRITE and GUST_BEAT (R259, R260): a whole aligned line joins a feed buffer with room for it and anything else changes
nothing; a beat leaves the feed buffer only when every core of the mask has room in its gust buffer, and then all of them take it,
marked with its channel. That a core has one buffer of 4 beats for all its channels is log 31. -/
def Sys2Proof.Spec.GustBeats : Prop :=
  ∀ (s : State) (cl : Fin 16) (ch : Fin 8), Functional s →
    let k := s.cluster cl
    let f := SMap.get [] k.feeds ch
    let m := maskList (s.getF (gstBase cl ch) GST_CH_MASK_CORES)
    (∀ (off : BitVec 12) (data : Bytes),
      (off.toNat % 64 = 0 → data.length = 64 → f.length < 16 → exec (.gustFeedWrite cl ch off data) s = .next
        (s.setCluster cl { k with feeds := k.feeds.put ch (f ++ [BitVec.ofNat 512 (bytesToNat data)]) })) ∧
      (off.toNat % 64 ≠ 0 ∨ data.length ≠ 64 ∨ 16 ≤ f.length → exec (.gustFeedWrite cl ch off data) s = .next s)) ∧
    (∀ b rest, f = b :: rest →
      ((∀ i ∈ m, (s.core (8 * cl + i)).gust.length < 4) → exec (.gustBeat cl ch) s = .next (
        (m.foldl (fun t i => t.setCore (8 * cl + i)
            { t.core (8 * cl + i) with gust := (t.core (8 * cl + i)).gust ++ [(ch.val, b)] })
          (s.setCluster cl { k with feeds := k.feeds.put ch rest })).addF (gstBase cl ch) GST_CH_BEATS_COUNT 1)) ∧
      ((∃ i ∈ m, 4 ≤ (s.core (8 * cl + i)).gust.length) → exec (.gustBeat cl ch) s = .next s)) ∧
    (f = [] → exec (.gustBeat cl ch) s = .next s)

/-- Joins (R82, R83) and the gust bus (R259, R260). -/
def Obligations.JoinsAndGusts : Prop := Sys2Proof.Spec.JoinsFire ∧ Sys2Proof.Spec.GustBeats

/-! ### The lull detector and cellars -/

/-- LULL_TICK (R267, R269 to R273, Table 7.11): every core of the slot grows older by a microsecond. The detector looks no further while
it is disabled, outside RUNNING, SWITCHING and STOPPING or under a squall or heat notice. Each closed cycle, those that armed
injection points declare (Table 12.9) among them, is declared in the order of their lowest core until the plan stops: one core is a LULL_CORE
fault of that core; more without an eligible queue stop the plan with cause 6; else the victim queue enters spill mode and its newest
entries, at most CAP - 1 of them, are queued for the lull channel. (Cycles of one lowest core: log 32.) -/
def Sys2Proof.Spec.LullsDeclared : Prop :=
  ∀ (s : State) (p : Fin 8), Functional s →
    let aged := (heldCores s p).foldl (fun t c => t.setCore c { t.core c with age := (t.core c).age + 1 }) s
    let off := s.getF (lulBase p) LUL_CTRL_EN = 0 ∨ planState aged p < 3 ∨ 5 < planState aged p ∨ heldByDie aged p = true
    (off → exec (.lullTick p) s = .next aged) ∧
    (¬ off →
      let t := (injectedCycles aged p).2
      let all := (injectedCycles aged p).1 ++ cycles t p
      planState t p ≠ 6 →
      (all = [] → exec (.lullTick p) s = .next t) ∧
      (∀ c, all = [[c]] → exec (.lullTick p) s = .next (coreFault (lullStatus t p [c] 2 c 0) c 0x13 0 none)) ∧
      (∀ c d l, all = [c :: d :: l] →
        (victim t (c :: d :: l) = none → exec (.lullTick p) s = .next (
          let u := lullStatus t p (c :: d :: l) 3 c 0
          planFault u p 6 0xFF (u.reg (lulBase p + 4)))) ∧
        (∀ v q, victim t (c :: d :: l) = some (v, q) → exec (.lullTick p) s = .next (
          let u := lullStatus t p (c :: d :: l) 1 v q
          let k := min (u.hq v q).entries.length (u.getF (hqBase v q) STU_HQ_CEL_HI_CAP - 1)
          let w := u.setHq v q { u.hq v q with spilling := true }
          w.setCluster (v / 8) { w.cluster (v / 8) with lull := (w.cluster (v / 8)).lull ++ [(v, q, none, k)] }))) ∧
      (∀ x y a b, (all = [x, y] ∨ all = [y, x]) → x.head? = some a → y.head? = some b → a < b →
        (planState (declareLull t p x) p ≠ 6 → exec (.lullTick p) s = .next (declareLull (declareLull t p x) p y)) ∧
        (planState (declareLull t p x) p = 6 → exec (.lullTick p) s = .next (declareLull t p x))))

/-- SPILL_COMPLETE, ROTATION_COMPLETE and REFILL_COMPLETE (R273 to R276, R291): a transfer waits while bursts of it are still to be
done, and while an access of it finds its bank group asleep nothing happens but the request for wake. A spill writes the newest entries as records, oldest of them first,
drops them from the queue and returns the handles of those that are no markers as credits; a rotation writes the entry pushed and
reads the head of the ring back into the same buffer; a refill reads the head into a released buffer, outside the queue's buffer area
a BOUNDS fault, and with an empty ring the handle goes back as a credit. A transfer that meets an error ends. A completion that the
transfer does not belong to changes nothing (log 2). -/
def Sys2Proof.Spec.CellarTransfers : Prop :=
  ∀ (s : State) (cl : Fin 16) (c q : Nat), Functional s →
    let h := s.hq c q
    let moved := lullMoved s cl = true
    let ends (u : State) : Host.Outcome State Fault Refusal := .next (awaited s u)
    let markers (t : State) : State := celMarkers t c q (t.hq c q).celCount
    (∀ k, lullHead s cl = some (c, q, none, k) →
      (exec (.rotationComplete cl) s = .next s ∧ exec (.refillComplete cl) s = .next s ∧
        (¬ moved → exec (.spillComplete cl) s = .next s)) ∧
      (moved →
        let out := h.entries.drop (h.entries.length - k)
        let r := out.foldl (fun (st : Bool × State) e => if st.1 then celWrite st.2 c q e.toNat else st) (true, s)
        (r.1 = false → exec (.spillComplete cl) s = ends (lullTake r.2 cl)) ∧
        (r.1 = true → exec (.spillComplete cl) s = ends (
          let t := r.2.setHq c q { r.2.hq c q with entries := h.entries.take (h.entries.length - k) }
          let u := (out.filter (fun e => !eEOF e.toNat)).foldl
            (fun t' e => originate t' c 1 (t.getF (hqBase c q) STU_HQ_CFG_CRT) (eHANDLE e.toNat)) t
          spillOver (markers (lullTake u cl)) c q)))) ∧
    (∀ e, lullHead s cl = some (c, q, some e, 0) →
      (exec (.spillComplete cl) s = .next s ∧ exec (.refillComplete cl) s = .next s ∧
        (¬ moved → exec (.rotationComplete cl) s = .next s)) ∧
      (∀ t, moved →
        (celWrite s c q e.toNat = (false, t) → exec (.rotationComplete cl) s = ends (lullTake t cl)) ∧
        (celWrite s c q e.toNat = (true, t) →
          (eEOF e.toNat = true → exec (.rotationComplete cl) s = ends (spillOver (lullTake (markers t) cl) c q)) ∧
          (eEOF e.toNat = false →
            exec (.rotationComplete cl) s = ends (spillOver (lullTake (celRefill t c q (eHANDLE e.toNat)) cl) c q))))) ∧
    (∀ hd, lullHead s cl = some (c, q, some hd, 1) →
      (exec (.spillComplete cl) s = .next s ∧ exec (.rotationComplete cl) s = .next s ∧
        (¬ moved → exec (.refillComplete cl) s = .next s)) ∧
      (moved → h.celCount = 0 → exec (.refillComplete cl) s = ends (spillOver (lullTake
        (originate s c 1 (s.getF (hqBase c q) STU_HQ_CFG_CRT) (eHANDLE hd.toNat)) cl) c q)) ∧
      (∀ t, moved → h.celCount ≠ 0 → celRead s c q = (none, t) →
        exec (.refillComplete cl) s = ends (spillOver (lullTake t cl) c q)) ∧
      (∀ e d t, moved → h.celCount ≠ 0 → celRead s c q = (some (e, d), t) →
        (bufAddr t c q (eHANDLE hd.toNat) = none →
          exec (.refillComplete cl) s = ends (spillOver (lullTake (lullBounds t c q (eHANDLE hd.toNat)) cl) c q)) ∧
        (∀ a, bufAddr t c q (eHANDLE hd.toNat) = some a → exec (.refillComplete cl) s = ends (
          let v := celPop (sramWrite t a d) c q
          let w := pushEntry v c q (BitVec.ofNat 64 (setBits e 0 16 (eHANDLE hd.toNat))) q
          spillOver (lullTake (markers w) cl) c q))))

/-- The lull detector (R267, R269 to R273) and the cellars (R273 to R275, R291). -/
def Obligations.LullsAndCellars : Prop := Sys2Proof.Spec.LullsDeclared ∧ Sys2Proof.Spec.CellarTransfers

/-! ### The relation unit -/

/-- The relation unit (R86, R198, R199, R202, R206, R208, R219, R223, R225). The oldest request is accepted while fewer than eight
operations are held and its slots are free; a stopped core's is dropped. One handshake goes to the next operation in round-robin order
that can use it: of GATHER ROWS the last for a row makes the index outstanding, or gives a row of zero codes for one that names no row;
of SCATTER a row takes as many to read and as many to write; of GATHER NBR the last for a neighbour makes it outstanding; an operation
without gathers spends it (log 101). A gather that returns gives its row, written in index order, or its table row combined, or is kept
until its node is complete; the overflow pass works the lane within the budget; a completed operation leaves its counts and flags with
its core, its macro-operation is done and its slots are free. A fault ends each. The order of rows and contributions is log 29. -/
def Obligations.RelationUnitWorks : Prop :=
  ∀ (s : State) (cl : Fin 16), Functional s →
    let k := s.cluster cl
    let ends (t : State) : Host.Outcome State Fault Refusal := .next (awaited s t)
    (k.rluq = [] → exec (.rluAccept cl) s = .next s) ∧
    (∀ c w blk at0 rest, k.rluq = (c, w, blk, at0) :: rest →
      (halted s c = true → exec (.rluAccept cl) s = .next (s.setCluster cl { k with rluq := rest })) ∧
      (halted s c = false → 8 ≤ k.rops.length ∨ freeSlots s cl < rWIN (bytesToNat blk) → exec (.rluAccept cl) s = .next s) ∧
      (halted s c = false → k.rops.length < 8 → rWIN (bytesToNat blk) ≤ freeSlots s cl →
        let win := coreWin c
        let fr := SMap.get ([0, 0, 0, 0], []) (s.core c).relFr (pcOf s c)
        let num := (s.core c).nextOp
        ∃ u o, exec (.rluAccept cl) s = .next u ∧ (u.cluster cl).rluq = rest ∧ (u.cluster cl).rops = k.rops ++ [
            { core := c, num := num, word := w, block := blk, slot := s.getF win SEQ_FRAME_SLOT
              seq := s.getF win SEQ_FRAME_SEQ_SEQ, valid := s.getF win SEQ_FRAME_VALID = 1, pcAt := pcOf s c, hs := 0
              issued := 0, nbr := 0, outst := [], ids := [], back := [], wrote := 0, bkt := fr.1, nodes := [], lane := [], parts := []
              chst := fr.2, excess := 0, laneDone := false }] ∧
          (u.core c).ops = (s.core c).ops ++ [o] ∧ o.num = num ∧ o.word = BitVec.ofNat 128 w.toNat ∧ o.block = blk ∧ o.pcAt = pcOf s c ∧
          o.done = false ∧ (u.core c).nextOp = num + 1 ∧
          (∀ n ∈ sagsNamed s c w.toNat (bytesToNat blk), (u.sag c n).owner = some num) ∧
          u.getF win SEQ_STATUS_PC = (pcOf s c + 1) % 2 ^ 10 ∧ u.mem = s.mem ∧ u.frames = s.frames)) ∧
    ((∀ r ∈ k.rops, canIssue s r = false) → exec (.rluGatherIssue cl) s = .next s) ∧
    (∀ i r, k.rops[i]? = some r → canIssue s r = true →
      (∃ d, d < k.rops.length ∧ i = (k.rr + d) % k.rops.length ∧
        ∀ e, e < d → ∀ q, k.rops[(k.rr + e) % k.rops.length]? = some q → canIssue s q = false) →
      let u := s.setCluster cl { k with rr := i + 1 }
      (r.opc ≠ 0x09 → r.opc ≠ 0x0A → exec (.rluGatherIssue cl) s = .next (u.setRop cl { r with hs := r.hs + 1 })) ∧
      (∀ x, (r.opc = 0x09 ∧ rSUB r.b = 0) ∨ r.opc = 0x0A → relStream s r (wSAGAUX r.w) (4 * r.issued) 4 = some x →
        let id := bytesToNat x
        let words := if r.opc = 0x09 then (rTAB r.b).words else 2 * (rTAB r.b).words
        let last := r.hs = 1 ∨ (r.hs = 0 ∧ ((rTAB r.b).noRow id = true ∨ words ≤ 1))
        let r' := { r with hs := 0, issued := r.issued + 1 }
        (1 < r.hs → exec (.rluGatherIssue cl) s = .next (u.setRop cl { r with hs := r.hs - 1 })) ∧
        (r.hs = 0 → ¬ last → exec (.rluGatherIssue cl) s = .next (u.setRop cl { r with hs := words - 1 })) ∧
        (last → (rTAB r.b).noRow id = false →
          exec (.rluGatherIssue cl) s = .next (u.setRop cl { r' with outst := r.outst ++ [r.issued] })) ∧
        (last → id = nullIndex →
          (r.opc = 0x09 → exec (.rluGatherIssue cl) s = ends (rowBack u cl r' r.issued [])) ∧
          (r.opc = 0x0A → exec (.rluGatherIssue cl) s = .next (u.setRop cl r'))) ∧
        (last → id ≠ nullIndex → (rTAB r.b).nrows ≤ id →
          (r.opc = 0x09 → exec (.rluGatherIssue cl) s = ends (rowBack (countOor u cl 1) cl r' r.issued [])) ∧
          (r.opc = 0x0A → exec (.rluGatherIssue cl) s = .next ((countOor u cl 1).setRop cl r')))) ∧
      (∀ nd, r.opc = 0x09 → rSUB r.b = 1 → SMap.find r.nodes r.issued = some nd →
        let key := 256 * r.issued + r.nbr
        let last := nd.2.1 ≤ r.nbr + 1
        (1 < r.hs → exec (.rluGatherIssue cl) s = .next (u.setRop cl { r with hs := r.hs - 1 })) ∧
        (r.hs = 1 → (rTAB r.b).noRow (SMap.get nullIndex r.ids key) = false → exec (.rluGatherIssue cl) s =
          .next (u.setRop cl { r with
            hs := 0, nbr := if last then 0 else r.nbr + 1, issued := if last then r.issued + 1 else r.issued
            outst := r.outst ++ [key] })))) ∧
    (∀ n r, k.rops[n]? = some r → halted s r.core = false →
      (∀ j, r.outst[j]? = none → exec (.rluGatherReturn cl n j) s = .next s) ∧
      (∀ j q id, r.outst[j]? = some q →
        ((r.opc = 0x09 ∧ rSUB r.b = 0) ∨ r.opc = 0x0A → ∃ x, relStream s r (wSAGAUX r.w) (4 * q) 4 = some x ∧ id = bytesToNat x) →
        (r.opc = 0x09 ∧ rSUB r.b = 1 → id = SMap.get nullIndex r.ids q) → r.opc = 0x09 ∨ r.opc = 0x0A →
        let r' := { r with outst := r.outst.eraseIdx j }
        let a := (rTAB r.b).base + (rTAB r.b).pitch * id
        (∀ v, (r.opc = 0x09 → rSUB r.b < 2) → relRead (s.setRop cl r') r' a (rTAB r.b).rowBytes = (none, v) →
          exec (.rluGatherReturn cl n j) s = ends v) ∧
        (∀ row v, relRead (s.setRop cl r') r' a (rTAB r.b).rowBytes = (some row, v) →
          let y := v.addF (rluBase cl) RLU_GATHERS_COUNT 1
          (r.opc = 0x09 → rSUB r.b = 0 → exec (.rluGatherReturn cl n j) s = ends (rowBack y cl r' q row)) ∧
          (r.opc = 0x09 → rSUB r.b = 1 → r.issued ≤ q / 256 → exec (.rluGatherReturn cl n j) s =
            ends (y.setRop cl { r' with back := r.back.put q row, ids := SMap.erase r.ids q })) ∧
          (r.opc = 0x0A → exec (.rluGatherReturn cl n j) s = ends (scatterReturn y cl r' q a row)))) ∧
      (r.opc = 0x09 → rSUB r.b = 1 → r.laneDone = false → mainDone s r = true →
        let i := injected s 0x0F cl
        ∀ budget q, ((i.1 = true ∧ budget = 0) ∨ (i.1 = false ∧ budget = nbBUDGET r.b)) →
          r.lane.foldl (laneEntry cl r) (i.2, budget, decide (0 < budget)) = q →
          (halted q.1 r.core = true → exec (.overflowPass cl n) s = ends q.1) ∧
          (halted q.1 r.core = false → exec (.overflowPass cl n) s =
            ends (q.1.setRop cl { ropNow q.1 cl r with laneDone := true, lane := [] }))) ∧
      (relReady s r = false → exec (.rluOpComplete cl n) s = .next s) ∧
      (relReady s r = true →
        let u := relCompute s cl r
        let r' := ropNow u cl r
        let y := relHistory u r'
        let z := nbExcess y cl r'
        (halted u r.core = true → exec (.rluOpComplete cl n) s = ends u) ∧
        (halted u r.core = false → halted y r'.core = true → exec (.rluOpComplete cl n) s = ends y) ∧
        (halted u r.core = false → halted y r'.core = false → halted z r'.core = true → exec (.rluOpComplete cl n) s = ends z) ∧
        (halted u r.core = false → halted y r'.core = false → halted z r'.core = false →
          let x := z.core r'.core
          let v := z.setCore r'.core { x with
            relFr := x.relFr.put r'.pcAt (r'.bkt, r'.chst)
            fsat := x.fsat || r'.chst.any (fun p => decide (rSATTHR r'.b < p.2.sat))
            fufl := x.fufl || r'.chst.any (fun p => decide (rUFLTHR r'.b < p.2.ufl))
            ops := x.ops.map (fun o => if o.num = r'.num then { o with done := true } else o) }
          exec (.rluOpComplete cl n) s =
            ends (v.setCluster cl (dropRops (v.cluster cl) (fun q => q.core = r'.core ∧ q.num = r'.num))))))

/-! ### Movers -/

/-- A mover channel goes on at an instruction slot; past the last slot it halts with CAUSE 3 and DETAIL 6 (R326). -/
def Sys2Proof.Spec.channelAt (s : State) (u n i : Nat) : State :=
  if mvrLen s u n ≤ i then mvrFail s u n 3 6
  else
    let t := s.setMvr u n { s.mvr u n with row := 0, done := 0 }
    (t.setF (mvrBase u n) MVR_STATUS_PC i).setF (mvrBase u n) MVR_STATUS_STATE 2

/-- MVR_ARM, MVR_ABORT and MVR_END (R315 to R318, R325, R332, R336, R339, Table 9.2): an arm starts an idle or halted channel with the
program named and waits behind a running one; with one waiting already, or while the channel serves lulls, it is an overrun and the
write is ignored. An abort of a channel outside a plan halts it with CAUSE 1, one of a plan's stops the plan too, and one of an idle or
halted channel has no effect. END waits for the writes that are on their way, pulses the channel's own line and starts the program that
waits, or leaves the channel IDLE. A channel that does not exist takes nothing (log 2). -/
def Sys2Proof.Spec.ChannelsArmed : Prop :=
  ∀ (s : State) (u : Fin 17) (n : Fin 32), Functional s →
    let b := mvrBase u n
    let st := mvrState s u n
    (mvrExists u n = false → ∀ v, exec (.mvrArm u n v) s = .next s ∧ exec (.mvrAbort u n) s = .next s) ∧
    (mvrExists u n = true →
      (∀ v : BitVec 32,
        let w := s.writeRW (b + 0xC) v.toNat
        let at' := (w.getF b MVR_ARM_LO_ADDR * 16 + w.getF b MVR_ARM_HI_ADDR * 2 ^ 32, w.getF b MVR_ARM_HI_NINSTR + 1)
        let lull := u.val < 16 ∧ n.val = 15 ∧ (s.cluster u).lull ≠ []
        (lull ∨ (1 ≤ st ∧ st ≤ 3 ∧ (s.mvr u n).next.isSome = true) →
          exec (.mvrArm u n v) s = .next ((s.setF b MVR_STATUS_OVERRUN 1).addF b MVR_OVR_CNT_COUNT 1)) ∧
        (¬ lull → st = 0 ∨ st = 4 →
          exec (.mvrArm u n v) s = .next (mvrStart (w.setF b MVR_STATUS_CAUSE 0) u n at'.1 at'.2)) ∧
        (¬ lull → 1 ≤ st → st ≤ 3 → (s.mvr u n).next = none →
          exec (.mvrArm u n v) s = .next ((w.setMvr u n { w.mvr u n with next := some at' }).setF b MVR_STATUS_PENDING 1))) ∧
      (st = 0 ∨ st = 4 → exec (.mvrAbort u n) s = .next s) ∧
      (st ≠ 0 → st ≠ 4 → 8 ≤ mvrPLAN s u n → exec (.mvrAbort u n) s = .next (haltChannel s u n 1 0)) ∧
      (st ≠ 0 → st ≠ 4 → mvrPLAN s u n < 8 → exec (.mvrAbort u n) s = .next (planFault
        (logEvent (haltChannel s u n 1 0) 0x8009 0xFF (mvrPLAN s u n) u n 0 0) (mvrPLAN s u n) 3 0xFF (u * 256 + n)))) ∧
    (mvrAtOp s u n 5 = true →
      (mvrWord s u n / 16 ≠ 0 → exec (.mvrEnd u n) s = .next (mvrFail s u n 3 4)) ∧
      (mvrWord s u n / 16 = 0 → (s.mvr u n).post ≠ [] → exec (.mvrEnd u n) s = .next s) ∧
      (mvrWord s u n / 16 = 0 → (s.mvr u n).post = [] →
        let p := mvrPulse s u n
        let q := p.setMvr u n { p.mvr u n with outFor := none }
        (∀ a, (p.mvr u n).next = some a → exec (.mvrEnd u n) s = .next (mvrStart q u n a.1 a.2)) ∧
        ((p.mvr u n).next = none → exec (.mvrEnd u n) s = .next (q.setF b MVR_STATUS_STATE 0))))

/-- The instructions of a mover program (R319 to R326, R333, Table 9.3): NOP goes on; LOOP starts with its runs, adds its increments to the
offsets and jumps while runs are left, for ever with COUNT 0, and goes on after the last; WAIT goes on past a pending pulse and clears
it, or past the entry it pops, and waits else; SIGNAL pulses a line, or pushes the held entry or its handle and clears it, and one
refused halts the channel with CAUSE 2; a MOVE or MOVE2D whose checks hold may issue bursts, and passes over a held marker it is relative
to; every programming error halts the channel with CAUSE 3. What the rules leave open of LOOP, WAIT and the last slot is log 33. -/
def Obligations.ChannelInstructions : Prop :=
  ∀ (s : State) (u : Fin 17) (n : Fin 32), Functional s →
    let b := mvrBase u n
    let pc := mvrPC s u n
    let w := mvrWord s u n
    let x := s.mvr u n
    let go (t : State) (i : Nat) := Sys2Proof.Spec.channelAt t u n i
    (mvrAtOp s u n 0 = true → (w / 16 = 0 → exec (.mvrNop u n) s = .next (go s (pc + 1))) ∧
      (w / 16 ≠ 0 → exec (.mvrNop u n) s = .next (mvrFail s u n 3 4))) ∧
    (mvrAtOp s u n 2 = true →
      let wrong := bits w 10 6 ≠ 0 ∨ bits w 40 24 ≠ 0
      let odd := bits w 64 32 % 64 ≠ 0 ∨ bits w 96 32 % 64 ≠ 0
      let beyond := mvrLen s u n ≤ bits w 4 6
      let jump (k : Nat) : State := go (s.setMvr u n { x with
        loop := some (pc, k)
        soff := signed 48 (unsigned 48 (x.soff + signed 32 (bits w 64 32)))
        doff := signed 48 (unsigned 48 (x.doff + signed 32 (bits w 96 32))) }) (bits w 4 6)
      (wrong → exec (.mvrLoop u n) s = .next (mvrFail s u n 3 4)) ∧
      (¬ wrong → odd → exec (.mvrLoop u n) s = .next (mvrFail s u n 3 2)) ∧
      (¬ wrong → ¬ odd → beyond → exec (.mvrLoop u n) s = .next (mvrFail s u n 3 6)) ∧
      (¬ wrong → ¬ odd → ¬ beyond →
        (∀ l, x.loop = some l → l.1 ≠ pc → exec (.mvrLoop u n) s = .next (mvrFail s u n 3 5)) ∧
        (∀ k, (x.loop = none ∧ bits w 16 24 = k + 1) ∨ x.loop = some (pc, k) → k < 2 ^ 24 →
          (k = 0 → exec (.mvrLoop u n) s = .next (go (s.setMvr u n { x with loop := none }) (pc + 1))) ∧
          (k ≠ 0 → exec (.mvrLoop u n) s = .next (jump (k - 1)))) ∧
        ((x.loop = none ∧ bits w 16 24 = 0) ∨ x.loop = some (pc, 2 ^ 24) → exec (.mvrLoop u n) s = .next (jump (2 ^ 24))))) ∧
    (mvrAtOp s u n 3 = true →
      let t := s.setMvr u n { x with outFor := none }
      let c := 8 * u.val + bits w 11 3
      let q := bits w 14 4
      (2 ≤ bits w 4 2 ∨ w / 2 ^ 18 ≠ 0 → exec (.mvrWait u n) s = .next (mvrFail s u n 3 4)) ∧
      (bits w 4 2 = 0 → w / 2 ^ 18 = 0 →
        (bit (t.getF b MVR_EVT_PEND) (bits w 6 5) = true → exec (.mvrWait u n) s =
          .next (go (t.setF b MVR_EVT_PEND (setBits (t.getF b MVR_EVT_PEND) (bits w 6 5) 1 0)) (pc + 1))) ∧
        (bit (t.getF b MVR_EVT_PEND) (bits w 6 5) = false → exec (.mvrWait u n) s = .next (t.setF b MVR_STATUS_STATE 3))) ∧
      (bits w 4 2 = 1 → w / 2 ^ 18 = 0 →
        (u.val = 16 ∨ x.held.isSome = true → exec (.mvrWait u n) s = .next (mvrFail s u n 3 7)) ∧
        (u.val < 16 → x.held = none →
          ((t.hq c q).entries = [] → exec (.mvrWait u n) s = .next (t.setF b MVR_STATUS_STATE 3)) ∧
          (∀ e rest, (t.hq c q).entries = e :: rest → exec (.mvrWait u n) s = .next (
            let p := progress ((t.setHq c q { t.hq c q with entries := rest }).addF (hqBase c q) STU_HQ_POPS_COUNT 1) c
            go ((p.setMvr u n { p.mvr u n with held := some (e, c, q), outFor := some c }).setF b MVR_STATUS_HELD 1) (pc + 1)))))) ∧
    (mvrAtOp s u n 4 = true →
      let c := 8 * u.val + bits w 11 3
      let q := bits w 14 4
      (bits w 4 2 = 3 ∨ w / 2 ^ 18 ≠ 0 → exec (.mvrSignal u n) s = .next (mvrFail s u n 3 4)) ∧
      (bits w 4 2 = 0 → w / 2 ^ 18 = 0 → exec (.mvrSignal u n) s = .next (go (mvrPulse s u (bits w 6 5)) (pc + 1))) ∧
      (bits w 4 2 = 1 ∨ bits w 4 2 = 2 → w / 2 ^ 18 = 0 →
        (u.val = 16 → exec (.mvrSignal u n) s = .next (mvrFail s u n 3 7)) ∧
        (u.val < 16 → x.held = none → exec (.mvrSignal u n) s = .next (mvrFail s u n 3 8)) ∧
        (∀ h e, u.val < 16 → x.held = some h → (bits w 4 2 = 1 ∧ e = h.1.toNat) ∨ (bits w 4 2 = 2 ∧ e = eHANDLE h.1.toNat) →
          let t := pushQueue s c q (BitVec.ofNat 64 e) q
          (pushRefused s c q e = false → exec (.mvrSignal u n) s =
            .next (go ((t.setMvr u n { t.mvr u n with held := none }).setF b MVR_STATUS_HELD 0) (pc + 1))) ∧
          (pushRefused s c q e = true → exec (.mvrSignal u n) s = .next (mvrFail t u n 2 4))))) ∧
    (let rel := mvSREL w = true ∨ mvDREL w = true
     let odd := mvrSrc s u n 0 % 64 ≠ 0 ∨ mvrDst s u n 0 % 64 ≠ 0
     let fit (r : Nat) : Prop := mvrFits (mvrSrc s u n r) (64 * mvUNITS w) = true ∧ mvrFits (mvrDst s u n r) (64 * mvUNITS w) = true
     let moving := s.setMvr u n { x with moving := true, row := 0, done := 0 }
     let v := mvrAt s u n (pc + 1)
     let stride := mv2SSTR v % 64 ≠ 0 ∨ mv2DSTR v % 64 ≠ 0
     (mvrAtOp s u n 1 = true →
       (rel → x.held = none → exec (.mvrMove u n) s = .next (mvrFail s u n 3 8)) ∧
       (¬ (rel ∧ x.held = none) →
         (odd → exec (.mvrMove u n) s = .next (mvrFail s u n 3 1)) ∧
         (¬ odd → rel → heldMarker s u n = true → exec (.mvrMove u n) s = .next (go s (pc + 1))) ∧
         (¬ odd → ¬ (rel ∧ heldMarker s u n = true) → ¬ fit 0 → exec (.mvrMove u n) s = .next (mvrFail s u n 3 2)) ∧
         (¬ odd → ¬ (rel ∧ heldMarker s u n = true) → fit 0 → exec (.mvrMove u n) s = .next moving))) ∧
     (mvrAtOp s u n 7 = true →
       (s.b0 = false → exec (.mvrMove2d u n) s = .next (mvrFail s u n 3 3)) ∧
       (s.b0 = true → mvrLen s u n ≤ pc + 1 → exec (.mvrMove2d u n) s = .next (mvrFail s u n 3 6)) ∧
       (s.b0 = true → pc + 1 < mvrLen s u n →
         (bits v 24 40 ≠ 0 → exec (.mvrMove2d u n) s = .next (mvrFail s u n 3 4)) ∧
         (bits v 24 40 = 0 → rel → x.held = none → exec (.mvrMove2d u n) s = .next (mvrFail s u n 3 8)) ∧
         (bits v 24 40 = 0 → ¬ (rel ∧ x.held = none) →
           (odd → exec (.mvrMove2d u n) s = .next (mvrFail s u n 3 1)) ∧
           (¬ odd → stride → exec (.mvrMove2d u n) s = .next (mvrFail s u n 3 2)) ∧
           (¬ odd → ¬ stride → rel → heldMarker s u n = true → exec (.mvrMove2d u n) s = .next (go s (pc + 2))) ∧
           (¬ odd → ¬ stride → ¬ (rel ∧ heldMarker s u n = true) →
             (¬ (fit 0 ∧ fit (mv2ROWS v - 1)) → exec (.mvrMove2d u n) s = .next (mvrFail s u n 3 2)) ∧
             (fit 0 → fit (mv2ROWS v - 1) → exec (.mvrMove2d u n) s = .next moving)))))) ∧
    (∀ o, o = 6 ∨ 8 ≤ o → mvrAtOp s u n o = true → exec (.mvrReservedOpcode u n) s = .next (mvrFail s u n 3 3))

/-- MVR_BURST (R316, R327, R328, R330, R331, R334, R335, R337, R339): writes on their way arrive first, and with no channel ready nothing
more happens. A burst issued is the repeat of the one that failed, which counts, or begins with no repeats. The lull channel counts a
burst of the work in hand. The channel whose turn it is loads its program up to the next 256-byte boundary, and runs once it is loaded;
or moves the bytes of its row up to that boundary of its destination, rearranged by SWAP, without BAR perhaps to arrive later (log 102),
and goes on to the next row or, after the last, instruction. A bus error is repeated while repeats are left, with what a failed write had
read (log 130), and then halts the channel with CAUSE 2, an access that R58 refuses with CAUSE 4; without room or awake memory it waits.
That a burst reads, checks and writes in one event is log 34, an injected error log 33. -/
def Sys2Proof.Spec.BurstsMoveData : Prop :=
  ∀ (s : State) (u : Fin 17), Functional s →
    let p := landAll s u
    (mvrPick p u = none → exec (.mvrBurst u) s = .next p) ∧
    (∀ n, mvrPick p u = some n →
      let a := { p with mvrLast := p.mvrLast.put u n }
      let x := p.mvr u n
      let b := mvrBase u n
      let w := mvrWord p u n
      let inj := injected a 0x09 (if u.val < 16 then u * 32 + n else 0x200 + n)
      let issued (t : State) : State :=
        let y := t.mvr u n
        if y.again then (t.setMvr u n { y with again := false, tries := y.tries + 1 }).addF b MVR_RETRIES_COUNT 1
        else t.setMvr u n { y with tries := 0 }
      let failed (t : State) (e : Nat) : Prop :=
        let y := t.mvr u n
        (y.tries < mvrRETRY t u n → exec (.mvrBurst u) s = .next (t.setMvr u n { y with again := true })) ∧
        (mvrRETRY t u n ≤ y.tries → exec (.mvrBurst u) s = .next (mvrFail t u n 2 e))
      let refused (t : State) (c o : Nat) : Prop :=
        exec (.mvrBurst u) s = .next (mvrFail (coreFault t c 0x01 0 (some (unsigned 23 o))) u n 4 0)
      (n = 15 → lullReady p u = true → (injected a 0x09 (u * 32 + 15)).1 = false →
        let t := issued a
        let k := t.cluster u
        exec (.mvrBurst u) s = .next ((t.setCluster u { k with lullDone := k.lullDone + 1 }).addF b MVR_BURSTS_COUNT 1)) ∧
      (¬ (n = 15 ∧ lullReady p u = true) →
        (inj.1 = true → failed (issued inj.2) 1) ∧
        (inj.1 = false → mvrState p u n = 1 →
          let len := min x.loadLeft (256 - x.loadAddr % 256)
          (∀ t, mvrRead a u x.loadAddr len = (.wait, t) → exec (.mvrBurst u) s = .next t) ∧
          (∀ e t, mvrRead a u x.loadAddr len = (.bus e, t) → failed (issued t) e) ∧
          (∀ c o t, mvrRead a u x.loadAddr len = (.bounds c o, t) → refused (issued t) c o) ∧
          (∀ d lv t, mvrRead a u x.loadAddr len = (.ok d lv, t) →
            let i := issued t
            let y := i.mvr u n
            let v := (i.setMvr u n { y with
              prog := y.prog ++ (cutBytes (len / 16 + 1) 16 d).map (fun p => BitVec.ofNat 128 (bytesToNat p))
              loadAddr := y.loadAddr + len, loadLeft := y.loadLeft - len }).addF b MVR_BURSTS_COUNT 1
            (len < y.loadLeft → exec (.mvrBurst u) s = .next v) ∧
            (y.loadLeft ≤ len → exec (.mvrBurst u) s = .next ((v.setF b MVR_STATUS_STATE 2).setF b MVR_STATUS_PC 0)))) ∧
        (inj.1 = false → mvrState p u n = 2 →
          let src := (mvrSrc p u n x.row).toNat + x.done
          let dst := (mvrDst p u n x.row).toNat + x.done
          let len := min (64 * mvUNITS w - x.done) (256 - dst % 256)
          (mvrRoom a dst len = false → exec (.mvrBurst u) s = .next a) ∧
          (∀ t, mvrRoom a dst len = true → asleep a dst len = some t → exec (.mvrBurst u) s = .next t) ∧
          (mvrRoom a dst len = true → asleep a dst len = none →
            (x.kept = none →
              (∀ t, mvrRead a u src len = (.wait, t) → exec (.mvrBurst u) s = .next t) ∧
              (∀ e t, mvrRead a u src len = (.bus e, t) → failed (issued t) e) ∧
              (∀ c o t, mvrRead a u src len = (.bounds c o, t) → refused (issued t) c o)) ∧
            (∀ d t, (x.kept = some d ∧ t = a) ∨ (x.kept = none ∧ ∃ lv r, mvrRead a u src len = (.ok d lv, r) ∧
                t = (if lv = 0 then r else r.setMvr u n { r.mvr u n with lastv := lv })) →
              let late := if mvBAR w then false else Config.lateWrite t.fresh
              let q := issued (if mvBAR w then t else { t with fresh := t.fresh + 1 })
              let put := mvrWrite q u dst (swapBytes (mvSWAP w) d) (if late then some n else none)
              (∀ e v, put = (.bus e, v) → failed (v.setMvr u n { v.mvr u n with kept := some d }) e) ∧
              (∀ c o v, put = (.bounds c o, v) → refused v c o) ∧
              (∀ l lv' v, put = (.ok l lv', v) →
                let y := v.addF b MVR_BURSTS_COUNT 1
                let z := v.mvr u n
                let next := { z with kept := none, done := z.done + len }
                (z.done + len < 64 * mvUNITS w → exec (.mvrBurst u) s = .next (y.setMvr u n next)) ∧
                (64 * mvUNITS w ≤ z.done + len → z.row + 1 < mvrRows y u n → exec (.mvrBurst u) s =
                  .next (y.setMvr u n { next with row := z.row + 1, done := 0 })) ∧
                (64 * mvUNITS w ≤ z.done + len → mvrRows y u n ≤ z.row + 1 →
                  let e := y.setMvr u n { next with row := z.row + 1, done := 0, moving := false }
                  (mvOP w = 1 → exec (.mvrBurst u) s = .next (Sys2Proof.Spec.channelAt e u n (mvrPC y u n + 1))) ∧
                  (mvOP w = 7 → exec (.mvrBurst u) s = .next (Sys2Proof.Spec.channelAt e u n (mvrPC y u n + 2))))))))))

/-- Mover channels are armed, aborted and ended (R315 to R318, R325, R336), and move their bytes in bursts (R327 to R334). -/
def Obligations.MoversRun : Prop := Sys2Proof.Spec.ChannelsArmed ∧ Sys2Proof.Spec.BurstsMoveData

/-! ### Ingest FIFOs and feeders -/

/-- FIF_APERTURE_WRITE, FIF_CONFIG_WRITE, PULL_REQUEST, PULL_COMPLETION and PULL_TIMEOUT (R341 to R343, R345, R349): a whole number of
elements that fits is stored into the open frame, and a frame that needs no more closes; bytes beyond REMAIN are discarded with ERR,
and all bytes of an aborted frame are, while they count against REMAIN; a write out of turn is discarded with ERR, and one that finds
no room aborts the frame with OVF. Configuration is written while the slot is unbound. A pull request is issued into space that is
free; its data are placed once no earlier request is missing, and one without data aborts the frame with PULL_ERR. A write of no bytes,
and a request or completion that no frame waits for, change nothing (log 2). -/
def Obligations.FifoWrites : Prop :=
  ∀ (s : State) (k : Fin 128), Functional s →
    let b := fifBase k
    let x := s.fifo k
    let drop := s.addF b FIF_DROPS_COUNT 1
    let closed (v : State) : Prop → (State → Prop) → Prop := fun last P => (last → P (fifClose v k)) ∧ (¬ last → P v)
    (∀ off, exec (.fifApertureWrite k off []) s = .next s) ∧
    (∀ (off : BitVec 7) (data : Bytes), data ≠ [] →
      let wrong := 128 < off.toNat + data.length ∨ data.length % fifElem s k ≠ 0 ∨ off.toNat % fifElem s k ≠ 0 ∨ fifSrc s k ≠ 0
      let rem := s.getF b FIF_REMAIN_BYTES
      let does (t : State) : Prop := exec (.fifApertureWrite k off data) s = .next t
      (wrong ∨ fifOpenFrame s k = none → does (fifFlag drop k FIF_STATUS_ERR)) ∧
      (∀ f, ¬ wrong → fifOpenFrame s k = some f →
        (f.bad = false → fifFree s k < data.length → does (fifSpoil (fifFlag drop k FIF_STATUS_OVF) k)) ∧
        (∀ base, f.bad = false → data.length ≤ fifFree s k →
          (data.length ≤ rem ∧ base = s) ∨ (rem < data.length ∧ base = fifFlag drop k FIF_STATUS_ERR) →
          let d := data.take rem
          let t := fifSetLast (fifStore base k (base.fifo k).wr d) k { f with got := f.got + d.length }
          let u := (fifAdvance t k d.length).addF b FIF_BYTES_COUNT d.length
          closed (u.setF b FIF_REMAIN_BYTES (u.getF b FIF_REMAIN_BYTES - d.length)) (u.getF b FIF_REMAIN_BYTES ≤ d.length) does) ∧
        (∀ base, f.bad = true →
          (data.length ≤ rem ∧ base = drop) ∨ (rem < data.length ∧ base = fifFlag drop k FIF_STATUS_ERR) →
          closed (base.setF b FIF_REMAIN_BYTES (rem - data.length)) (rem ≤ data.length) does))) ∧
    (∀ (j : Fin 3) (v : BitVec 32),
      ((s.stream k).plan.isSome = true → exec (.fifConfigWrite k j v) s = .next s) ∧
      ((s.stream k).plan = none → exec (.fifConfigWrite k j v) s = .next (s.writeRW (b + 4 * j) v.toNat))) ∧
    (fifOpenFrame s k = none → exec (.pullRequest k) s = .next s ∧ ∀ j d, exec (.pullCompletion k j d) s = .next s ∧
      exec (.pullTimeout k j) s = .next s) ∧
    (∀ f, fifOpenFrame s k = some f →
      let sz := 256 * 2 ^ s.getF b FIF_CFG_MRRS
      let n := min (f.len - x.asked) (sz - (fdINADDR f.desc + x.asked) % sz)
      (fifSrc s k ≠ 1 ∨ f.bad = true ∨ n = 0 ∨ fifFree s k < n → exec (.pullRequest k) s = .next s) ∧
      (fifSrc s k = 1 → f.bad = false → n ≠ 0 → n ≤ fifFree s k → exec (.pullRequest k) s = .next (
        (s.setFifo k { x with asked := x.asked + n, pulls := x.pulls ++ [⟨x.asked, n, none⟩] }).emit
          (.hostRead (fdINADDR f.desc + x.asked) n (relaxOn s))))) ∧
    (∀ (f : FFrame) (j : Nat) (p : Pull), fifOpenFrame s k = some f → x.pulls[j]? = some p → p.data = none →
      (f.bad = true → (∀ d, exec (.pullCompletion k j d) s = .next (pullGone s k j)) ∧
        exec (.pullTimeout k j) s = .next (pullGone s k j)) ∧
      (f.bad = false →
        let i := injected s 0x0E k
        let gone := pullGone (fifFlag (fifSpoil i.2 k) k FIF_STATUS_PULL_ERR) k j
        (∀ d, i.1 = false → exec (.pullCompletion k j (some d)) s = .next (pullPlace
          (s.setFifo k { x with pulls := x.pulls.set j { p with data := some (slice d 0 p.len) } }) k)) ∧
        (∀ d, i.1 = true → exec (.pullCompletion k j d) s = .next gone) ∧
        exec (.pullCompletion k j none) s = .next gone ∧ exec (.pullTimeout k j) s = .next gone))

/-- FEEDER_BUFFER_START, FEEDER_WORD and FEEDER_EOF (R46, R351 to R355): with a credit of the target in turn and its port free, a buffer
starts with a CONTROL token that names the handle, slot and sequence with FRAME and PUSH set; each DATA token carries the header word,
the next word of the frame, or zeros past its end; a word that is not there yet leaves the feeder starved and marks the frame; an
EOF goes to the targets in turn, where a mover reads the FIFO once it has read the admitted frames (the instant at which such an EOF
is due is log 35, DEDUCED), and none goes while a relocation holds the plan's feeder in its flush. Tokens carry the target's tag, the
feeder's epoch and the target's join sequence. A feeder with nothing to send or no room changes nothing. -/
def Obligations.FeedersSend : Prop :=
  ∀ (s : State) (p : Fin 8), Functional s →
    let x := s.feed p
    let b := fdBase p
    let sent (t typ payload : Nat) : State :=
      let q := feedPort s p t
      let tok : Token :=
        { typ := BitVec.ofNat 3 typ, tag := BitVec.ofNat 5 (s.getF (fdtBase p t) FIF_FDT_PORT_RT)
          epoch := BitVec.ofNat 12 (s.getF b FIF_FD_EPOCH_EPOCH)
          jseq := BitVec.ofNat 8 (SMap.get 0 x.jseq t), payload := BitVec.ofNat 512 payload }
      { s with edgeIn := s.edgeIn.put (4 * q.1 + q.2) tok }
    (x.todo = [] → exec (.feederBufferStart p) s = .next s ∧ exec (.feederWord p) s = .next s ∧ exec (.feederEof p) s = .next s) ∧
    (∀ slot seq rest, x.todo = (slot, some seq) :: rest →
      let t := x.buf % (s.getF b FIF_FD_CTRL_NT + 1)
      exec (.feederEof p) s = .next s ∧
      (∀ c cs, x.left = 0 → feedFree s p t = true → SMap.get [] x.credits t = c :: cs →
        exec (.feederBufferStart p) s = .next (
          let u := sent t 2 (c.toNat % 2 ^ 16 + slot * 2 ^ 16 + 2 ^ 23 + seq * 2 ^ 32 + 2 ^ 81)
          let v := u.setFeed p { u.feed p with credits := x.credits.put t cs, left := u.getF (fdtBase p t) FIF_FDT_BUF_SIZE + 1 }
          ((v.setF b FIF_FD_STATUS_SLOT slot).setF b FIF_FD_STATUS_BUSY 1).setF b FIF_FD_STATUS_TARGET t)) ∧
      (x.left ≠ 0 ∨ feedFree s p t = false ∨ SMap.get [] x.credits t = [] →
        exec (.feederBufferStart p) s = .next s) ∧
      (x.left = 0 ∨ feedFree s p t = false → exec (.feederWord p) s = .next s) ∧
      (x.left ≠ 0 → feedFree s p t = true → feedFrame s slot seq = none →
        exec (.feederWord p) s = .next (feederSent (sent t 0 0) p t 0)) ∧
      (∀ j f, x.left ≠ 0 → feedFree s p t = true → feedFrame s slot seq = some (j, f) →
        let h := s.getF b FIF_FD_CTRL_HDR
        let n := h + f.words64
        (x.word < h → exec (.feederWord p) s = .next (feederSent
          (sent t 0 (f.len % 2 ^ 27 + f.len % 64 * 2 ^ 32 + slot * 2 ^ 40 + seq * 2 ^ 64)) p t n)) ∧
        (n ≤ x.word → exec (.feederWord p) s = .next (feederSent (sent t 0 0) p t n)) ∧
        (h ≤ x.word → x.word < n → wordReady f (x.word - h) = true → exec (.feederWord p) s = .next
          (feederSent (wordTaken (sent t 0 (bytesToNat (wordAt s slot f (x.word - h)))) slot j) p t n)) ∧
        (h ≤ x.word → x.word < n → wordReady f (x.word - h) = false →
          let u := s.setF b FIF_FD_STATUS_STARVED 1
          (frameOf u slot seq = none → exec (.feederWord p) s = .next u) ∧
          (∀ g, frameOf u slot seq = some g → exec (.feederWord p) s = .next (setFrame u { g with starved := true }))))) ∧
    (∀ slot rest, x.todo = (slot, none) :: rest →
      let read := s.getF (fifBase slot) FIF_CFG_READER = 1 ∧ ∃ f ∈ (s.fifo slot).frames, f.seq.isSome = true
      exec (.feederBufferStart p) s = .next s ∧ exec (.feederWord p) s = .next s ∧
      ((s.plan p).reloc.isSome = true ∨ feedFree s p x.buf = false ∨ read → exec (.feederEof p) s = .next s) ∧
      ((s.plan p).reloc = none → feedFree s p x.buf = true → ¬ read →
        let u := sent x.buf 5 (slot + (s.stream slot).last * 2 ^ 32)
        (x.buf < u.getF b FIF_FD_CTRL_NT → exec (.feederEof p) s = .next (u.setFeed p { u.feed p with buf := x.buf + 1 })) ∧
        (u.getF b FIF_FD_CTRL_NT ≤ x.buf → exec (.feederEof p) s = .next
          ((u.setFeed p { u.feed p with todo := rest, buf := 0 }).setStream slot { u.stream slot with closing := 2 }))))

/-! ### Banks, the maintenance arbiter, LPDDR4X -/

/-- The retention, sweep, maintenance and LPDDR4X commands (R290 to R293, R295, R297 to R300, R306, R309). RET_REQ set asks the arbiter
for entry and RET_REQ cleared for wake, or withdraws an entry that still waits; entry ends in RETENTION, and asks for wake at once for
an access that came meanwhile; wake ends in ACTIVE. A claim asks, once its interval has passed, for the next good region; a region done
is read with its ECC checked and counted, and a failed one takes a spare or is marked bad and logged. Accesses that waited are then
served (log 107). A request for a busy group waits and is counted; one that preempts a sweep or a scrub does not wait: the sweep's
region is restored, or the scrub's block is read to its end and asked for again, the group is given up, and the abandoned unit is
counted. The order of what waits, and that a sweep runs only on an awake group, are logs 56 and 57. A free group is granted the oldest request, of one instant the lowest code; calibrations ask for their channel; a
refresh changes nothing commands can see; mode register 4 sets the multiplier, and a reading above 4x is logged (coding: log 58). The
scrub's blocks are claimed together and the last of them moves the index on. A command not due or without supply changes nothing (log 2). -/
def Obligations.MemoriesMaintained : Prop :=
  ∀ (s : State) (d : Fin 4), Functional s →
    (∀ g : Fin 36,
      let b := bnkBase d g
      let pos := s.getF b BNK_SWEEP_POS_REGION
      (diePowered s d = false → exec (.retentionRequest d g) s = .next (serveStuck s) ∧ exec (.wakeRequest d g) s = .next s ∧
        exec (.bankSweepClaim d g) s = .next s) ∧
      (diePowered s d = true → s.getF b BNK_CTRL_RET_REQ = 0 → exec (.wakeRequest d g) s = .next s ∧
        exec (.retentionRequest d g) s = .next (serveStuck (maRequest (s.setF b BNK_CTRL_RET_REQ 1) d g 1))) ∧
      (diePowered s d = true → s.getF b BNK_CTRL_RET_REQ = 1 → exec (.retentionRequest d g) s = .next (serveStuck s) ∧
        let t := s.setF b BNK_CTRL_RET_REQ 0
        (maWaits t d g 1 = true → exec (.wakeRequest d g) s = .next (t.setDie d { t.die d with
          waiting := (t.die d).waiting.filter (fun w => !(w.1 = g && w.2.1 = 1)) })) ∧
        (maWaits t d g 1 = false → exec (.wakeRequest d g) s = .next (maRequest t d g 3))) ∧
      (maRunning s d g = 1 →
        let t := maEnd (s.setF b BNK_STATE_STATE 2) d g
        ((t.die d).wakes.contains g.val = false → exec (.retentionEntryDone d g) s = .next (holdCheck t)) ∧
        ((t.die d).wakes.contains g.val = true → exec (.retentionEntryDone d g) s = .next (holdCheck (wakeByAccess
          (t.setDie d { t.die d with wakes := (t.die d).wakes.filter (· ≠ g.val) }) d g)))) ∧
      (maRunning s d g = 3 → exec (.wakeDone d g) s =
        .next (serveStuck (activeCheck (maEnd (s.setF b BNK_STATE_STATE 0) d g)))) ∧
      (diePowered s d = true →
        let due := s.getF b BNK_CTRL_SWEEP_EN = 1 ∧ groupAwake s d g = true ∧ maRunning s d g ≠ 7 ∧ maWaits s d g 7 = false ∧
          ∀ t, SMap.find (s.die d).swept g = some t → t + 1000 * max 100 (s.getF b BNK_SWEEP_INTERVAL) ≤ now s
        (¬ due → exec (.bankSweepClaim d g) s = .next s) ∧
        (due → exec (.bankSweepClaim d g) s = .next (maRequest
          ((s.setF b BNK_SWEEP_POS_REGION (nextRegion s d g (groupRegions g) pos)).setDie d
            { s.die d with swept := (s.die d).swept.put g (now s) }) d g 7))) ∧
      (maRunning s d g = 7 →
        let t := sweepSave s d g
        let y := t.die d
        let key := 128 * g.val + pos / 128
        let n := SMap.get 0 y.spares key
        let done (u : State) : State := serveStuck (maEnd ((u.addF b BNK_SWEEPS_COUNT 1).setF b BNK_SWEEP_POS_REGION
          (nextRegion u d g (groupRegions g) ((pos + 1) % groupRegions g))) d g)
        exec (.sweepRegionDone d g true) s = .next (done t) ∧
        (n < 2 → exec (.sweepRegionDone d g false) s =
          .next (done ((t.setDie d { y with spares := y.spares.put key (n + 1) }).addF b BNK_REPAIRS_USED 1))) ∧
        (2 ≤ n → exec (.sweepRegionDone d g false) s = .next (done (logUncorrectable
          ((t.setDie d { y with bad := y.bad ++ [(g.val, pos)] }).addF b BNK_REPAIRS_BAD 1) (regionAddr d g pos) 6 0xFF))))) ∧
    (∀ (g : Fin 52) (code : Nat),
      let act := maRunning s d g
      let preempts := code = 1 ∨ code = 2
      let ask (t : State) (l : List (Nat × Nat × Nat)) : State := t.setDie d { t.die d with waiting := (t.die d).waiting ++ l }
      let lpc := lpcBase d
      (act = 0 → maRequest s d g code = ask s [(g.val, code, now s)]) ∧
      (act ≠ 0 → ¬ (preempts ∧ (act = 7 ∨ act = 8)) →
        maRequest s d g code = (ask s [(g.val, code, now s)]).addF (maBase d) BNK_MA_WAITS_COUNT 1) ∧
      (preempts → act = 7 → maRequest s d g code =
        (ask (maEnd (sweepSave s d g) d g) [(g.val, code, 0)]).addF (maBase d) BNK_MA_ABORTS_COUNT 1) ∧
      (preempts → act = 8 → maRequest s d g code =
        (ask (maEnd (scrubBlock s d (g - 36) (s.getF lpc LPC_SCRUB_POS_BLOCK)) d g)
          [(g.val, code, 0), (g.val, 8, now s)]).addF (maBase d) BNK_MA_ABORTS_COUNT 1)) ∧
    (∀ g : Fin 52,
      (maRunning s d g ≠ 0 ∨ maNext s d g = none → exec (.maintenanceGrant d g) s = .next s) ∧
      (∀ w, maRunning s d g = 0 → maNext s d g = some w →
        w ∈ (s.die d).waiting ∧ w.1 = g.val ∧
        (∀ v ∈ (s.die d).waiting, v.1 = g.val → w.2.2 < v.2.2 ∨ (w.2.2 = v.2.2 ∧ w.2.1 ≤ v.2.1)) ∧
        exec (.maintenanceGrant d g) s =
          .next (maBegin (s.setDie d { s.die d with waiting := (s.die d).waiting.erase w }) d g w.2.1))) ∧
    (∀ c : Fin 16, exec (.lpddrRefresh d c) s = .next s ∧
      (channelActive s d c = true →
        (maWaits s d (36 + c) 5 = false → exec (.zqCalibration d c) s = .next (maRequest s d (36 + c) 5)) ∧
        (maWaits s d (36 + c) 6 = false → exec (.dqsOscCheck d c) s = .next (maRequest s d (36 + c) 6)) ∧
        (∀ rate : BitVec 3,
          let a := lpcBase d + 0x20
          let m := if rate.toNat ≤ 3 then 0 else if rate.toNat = 4 then 1 else 2
          let t := s.setReg a (setBits (s.reg a) (2 * c) 2 m)
          (rate.toNat ≠ 7 → exec (.mr4Poll d c rate) s = .next t) ∧
          (rate.toNat = 7 → exec (.mr4Poll d c rate) s = .next (logEvent t 0x800E 0xFF 0xFF (16 * d + c) 7 0 0)))) ∧
      (channelActive s d c = false → (∀ rate, exec (.mr4Poll d c rate) s = .next s) ∧ exec (.zqCalibration d c) s = .next s ∧
        exec (.dqsOscCheck d c) s = .next s) ∧
      (let pos := s.getF (lpcBase d) LPC_SCRUB_POS_BLOCK
       (maRunning s d (36 + c) = 8 →
         let t := maEnd (scrubBlock s d c pos) d (36 + c)
         (scrubOpen t d = true → exec (.patrolScrubStep d c) s = .next t) ∧
         (scrubOpen t d = false → exec (.patrolScrubStep d c) s =
           .next (t.setF (lpcBase d) LPC_SCRUB_POS_BLOCK ((pos + 1) % 4194304)))) ∧
       (maRunning s d (36 + c) ≠ 8 → s.getF (lpcBase d) LPC_SCRUB_EN = 1 → scrubOpen s d = false → scrubDue s d = true →
         (∀ j, j < 16 → channelActive s d j = true) → exec (.patrolScrubStep d c) s =
           .next ((List.range 16).foldl (fun t j => maRequest t d (36 + j) 8)
             (s.setDie d { s.die d with scrubAt := some (now s) })))))

/-! ### Boot and the steward -/

/-- HOST_BOOT_GO, FIRMWARE_VERIFIED and MEMORY_TRAINING_DONE (R304, R461, R513 to R516, R524, Tables 15.4 and 15.5). GO takes the image out
of cluster memory by checked reads, with WEN cleared. A host image that boots, because nothing failed or because OPEN is burned and only later checks
failed, starts the steward; one that does not gives its reason and WEN back. From SPI the ROM starts slot 0 or, if that does not boot, slot
1. BOOTSEL, or no image that boots, enters host boot where that is allowed, and else boot fails with reason 14. Training that leaves a
channel untrained fails with reason 15, and else READY follows unless a die is held, after the discovery at the first boot of a chain's
head or, on another module, with the record that its head made of it (log 72), and a request that waited is served. The
directory is read in single mode at 12.5 MHz, all else in the mode and at the clock that it names. Which order the events of a boot
come in and what each brings are log 60, and what a restart does with switches under way are logs 62 and 148. An event out of place changes nothing (log 2). -/
def Sys2Proof.Spec.BootProceeds : Prop :=
  (∀ s : State, Functional s →
    (romRuns s = true → s.getF hubWin MBX_STATUS_HOSTBOOT = 1 → s.boot.checking = none → exec .hostBootGo s = .next (
      let t := (s.setF hubWin MBX_BAR2_CTRL_WEN 0).setF hubWin MBX_BOOT_STAGE_STAGE 4
      let q := stewardBytes t (clusterMem 0) (t.getF hubWin MBX_HB_LEN_BYTES)
      { q.2 with met := s.met, boot := { t.boot with checking := some (2, q.1.getD []) } })) ∧
    (romRuns s = false ∨ s.getF hubWin MBX_STATUS_HOSTBOOT = 0 ∨ s.boot.checking.isSome = true →
      exec .hostBootGo s = .next s)) ∧
  (∀ (s : State) (flash : Bytes) (x y : Bool) (rec' : Option (Bytes × Bytes)), Functional s →
    let does (t : State) : Prop := exec (.firmwareVerified flash x y rec') s = .next t
    let id := flashIdentity flash rec'
    let boots (r : Nat) : Prop := r = 0 ∨ (policyBit s 0 = true ∧ 5 ≤ r)
    (romRuns s = false → does s) ∧
    (romRuns s = true →
      (∀ n img, s.boot.checking = some (n, img) →
        let r := if img.length = 1280 + leAt img 8 4 then fwReason s img else max (sigHeader s (slice img 0 1280) 1 false) 1
        let t := s.setF hubWin MBX_BOOT_REASON_HOST r
        let w := readIdentity (readDirectory t) flash id
        (boots r → does (startSteward ((w.setF hubWin MBX_BAR2_CTRL_EN 0).setF hubWin MBX_STATUS_HOSTBOOT 0) 2 img r id)) ∧
        (¬ boots r → does
          { (t.setF hubWin MBX_BAR2_CTRL_WEN 1).setF hubWin MBX_BOOT_STAGE_STAGE 3 with boot := { s.boot with checking := none } })) ∧
      (s.boot.checking = none → s.getF hubWin MBX_STATUS_HOSTBOOT = 1 → does s) ∧
      (s.boot.checking = none → s.getF hubWin MBX_STATUS_HOSTBOOT = 0 →
        let failed (t : State) : Prop :=
          (policyBit s 3 = false → does (enterHostBoot t)) ∧ (policyBit s 3 = true → does (bootFail t 14))
        let try1 (t : State) : Prop :=
          (spiSlot t flash 0x0C y = none → failed t) ∧
          (∀ img r, spiSlot t flash 0x0C y = some (img, r) →
            let u := (readImage t flash 0x0C r).setF hubWin MBX_BOOT_REASON_SLOT1 r
            (boots r → r ≠ 13 → does (readIdentity (startSteward u 1 img r id) flash id)) ∧ (¬ boots r ∨ r = 13 → failed u))
        let b := readDirectory s
        (s.boot.bootsel = true → policyBit s 3 = false → does (enterHostBoot s)) ∧
        (s.boot.bootsel = false ∨ policyBit s 3 = true →
          (policyBit s 4 = true → failed s) ∧
          (policyBit s 4 = false →
            (spiSlot b flash 0x08 x = none → try1 b) ∧
            (∀ img r, spiSlot b flash 0x08 x = some (img, r) →
              let u := (readImage b flash 0x08 r).setF hubWin MBX_BOOT_REASON_SLOT0 r
              (boots r → r ≠ 13 → does (readIdentity (startSteward u 0 img r id) flash id)) ∧ (¬ boots r ∨ r = 13 → try1 u))))))) ∧
  (∀ (s : State) (flash : Bytes) (addr len : Nat), Functional s →
    readDirectory s = s.emit (.spiRead 0x03 12500 0 64) ∧
    readFlash s flash addr len = s.emit (.spiRead (if leAt flash 4 1 = 1 then 0x3B else if leAt flash 4 1 = 2 then 0x6B else 0x03)
      (if 1 ≤ leAt flash 5 1 ∧ leAt flash 5 1 ≤ 50 then 1000 * leAt flash 5 1 else 12000) addr len)) ∧
  (∀ (s : State) (trained ms : BitVec 64) (rate : Fin 3) (net : List Bytes), Functional s →
    s.boot.image = [] ∨ (s.getF hubWin MBX_BOOT_STAGE_STAGE ≠ 5 ∧ s.getF hubWin MBX_BOOT_STAGE_STAGE ≠ 6) ∨ s.boot.waits = true ∨
      released s = false →
    exec (.memoryTrainingDone trained ms rate net) s = .next (spdmResume s)) ∧
  (∀ (s : State) (trained ms : BitVec 64) (rate : Fin 3) (net : List Bytes), Functional s → s.boot.image ≠ [] →
    s.getF hubWin MBX_BOOT_STAGE_STAGE = 5 ∨ s.getF hubWin MBX_BOOT_STAGE_STAGE = 6 → s.boot.waits = false → released s = true →
    let t := (List.range 4).foldl (fun t d =>
      ((t.setF (lpcBase d) LPC_CFG_RATE rate).setF (lpcBase d) LPC_STATUS_TRAINED (bits trained.toNat (16 * d) 16)).setF (lpcBase d)
        LPC_TRAIN_MS_MS (bits ms.toNat (16 * d) 16)) s
    let ready (u : State) : Prop := exec (.memoryTrainingDone trained ms rate net) s =
      .next (spdmResume (readyCheck { u with boot := { u.boot with waits := true } }))
    (trained ≠ BitVec.allOnes 64 → exec (.memoryTrainingDone trained ms rate net) s = .next (spdmResume (bootFail t 15))) ∧
    (trained = BitVec.allOnes 64 → s.boot.scope ≠ 1 → ready t) ∧
    (trained = BitVec.allOnes 64 → s.boot.scope = 1 → isHead t = true → ready (discover t net).1) ∧
    (trained = BitVec.allOnes 64 → s.boot.scope = 1 → isHead t = false → ready (takeRecord t net)))

/-- WDOG_KICK, STEWARD_WATCHDOG_EXPIRY and STEWARD_RESTART_COMPLETE (R502, R524, Table 12.9): a kick starts the period anew; LIMIT
milliseconds without one, with READY set, or an injected expiry, restart the steward, or reset the device warm when another expiry
came less than 10 s before, and nothing happens before that or with a LIMIT of zero; a steward that is back ends the commands it had
taken with STEWARD_RESTART, starts the relocations that waited and takes the switches and closes up where they stand (log 148), or leads to READY after a reset of the function; a request that
waited for it is served. -/
def Sys2Proof.Spec.StewardWatched : Prop :=
  ∀ s : State, Functional s →
    exec .wdogKick s = .next { s with boot := { s.boot with kick := now s } } ∧
    (s.getF hubWin MBX_STATUS_READY = 0 → exec .stewardWatchdogExpiry s = .next s) ∧
    (s.getF hubWin MBX_STATUS_READY = 1 →
      let i := injected s 0x11 0
      let limit := s.getF pwrHub PWR_WDOG_LIMIT
      (i.1 = false → limit = 0 ∨ now s < s.boot.kick + limit * 1000000 → exec .stewardWatchdogExpiry s = .next s) ∧
      (i.1 = true ∨ (limit ≠ 0 ∧ s.boot.kick + limit * 1000000 ≤ now s) →
        (s.boot.expiry = none → exec .stewardWatchdogExpiry s = .next (stewardFalls i.2)) ∧
        (∀ t, s.boot.expiry = some t →
          (now s < t + 10000000000 → exec .stewardWatchdogExpiry s = .next (deviceReset i.2 rsWARM 6 0)) ∧
          (t + 10000000000 ≤ now s → exec .stewardWatchdogExpiry s = .next (stewardFalls i.2))))) ∧
    (s.boot.down = false ∨ released s = false → exec .stewardRestartComplete s = .next (spdmResume s)) ∧
    (s.boot.down = true → released s = true →
      (s.boot.scope = 4 → exec .stewardRestartComplete s =
        .next (spdmResume (readyCheck { s with boot := { s.boot with down := false, waits := true } }))) ∧
      (s.boot.scope ≠ 4 → exec .stewardRestartComplete s = .next (
        let t := { s with boot := { s.boot with down := false, kick := now s } }
        let u := s.taken.foldl (fun v _ => finish v 0 0x5004 0 []) t
        let w := (List.range 8).foldl (fun v p => match (v.plan p).reloc with
          | some r => if r.stage = 0 then v.setPlan p { v.plan p with reloc := some { r with stage := 1, start := now v + 100000 } }
            else v
          | none => drainCheck v p) u
        spdmResume (awaited s ((List.range 128).foldl streamCheck (startGroup w))))))

/-- Boot (R304, R513 to R516) and the steward's watchdog (R502). -/
def Obligations.BootAndWatchdog : Prop := Sys2Proof.Spec.BootProceeds ∧ Sys2Proof.Spec.StewardWatched

/-! ### Supply and heat -/

/-- Squalls and brown-outs (R450, R485 to R487, R490, R491, R504, R524, Tables 14.4 and 14.5): a squall is counted and marks the frames of
every slot on the die, and lasts until 51 readings in a row above WARN + 10 mV, when lull ages and watchdogs count from zero again; a
reading, or one below WARN under an injected dip, is kept with its minimum and counted; a brown-out resets the device warm, loses
the SRAM of every die that fell with it and holds those dies, within a reset it is absorbed and its die is held too, and a held die
returns after 51 good readings. That the tests of a level count readings, and which dies a fall takes, are logs 52 and 54. An event out of place changes nothing (log 2). -/
def Sys2Proof.Spec.SupplyMonitored : Prop :=
  ∀ (s : State) (d : Fin 4), Functional s →
    let b := pwrDie d
    let x := s.die d
    (x.sq.isSome = true ∨ diePowered s d = false → exec (.squallBegin d) s = .next s) ∧
    (x.sq = none → diePowered s d = true → exec (.squallBegin d) s = .next (
      let t := ((s.setDie d { x with sq := some (now s, 0x3FF, 0) }).setF b PWR_STATUS_SQUALL 1).addF b PWR_SQ_CNT_COUNT 1
      (slotsOn t d).foldl (fun t p => riskFrames (t.setPlan p { t.plan p with squalls := (t.plan p).squalls ++ [d.val] }) p) t)) ∧
    (x.sq = none → exec (.squallEnd d) s = .next s) ∧
    (∀ t0 lo good, x.sq = some (t0, lo, good) →
      (good < 51 → exec (.squallEnd d) s = .next s) ∧
      (51 ≤ good → exec (.squallEnd d) s = .next (
        let us := ceilDiv (now s - t0) 1000
        let t := ((s.setDie d { x with sq := none }).setF b PWR_STATUS_SQUALL 0).addF b PWR_SQ_TIME_US us
        let u := (List.range 8).foldl (fun v p => if (v.plan p).squalls.contains d.val then
          restartAges (v.setPlan p { v.plan p with squalls := (v.plan p).squalls.filter (fun y => y ≠ d.val) }) p else v) t
        logEvent u 0x8008 0xFF 0xFF lo us 0 0))) ∧
    (∀ (mv : BitVec 10) (v : Nat) (u q : State),
      ((dipSample s d).1 = false ∧ v = mv.toNat ∧ q = u) ∨
        ((dipSample s d).1 = true ∧ v = sqWarn (dipSample s d).2 - 1 ∧ q = squallBegin u d) →
      (let t := (dipSample s d).2.setF b PWR_VMON_MV v
       (v < t.getF b PWR_VMIN_MV ∧ u = t.setF b PWR_VMIN_MV v) ∨ (t.getF b PWR_VMIN_MV ≤ v ∧ u = t)) →
      let z := q.die d
      ∀ y, (z.sq = none ∧ y = z) ∨ (∃ t0 lo good, z.sq = some (t0, lo, good) ∧
          ((sqWarn q + 10 < v ∧ y = { z with sq := some (t0, min lo v, good + 1) }) ∨
            (v ≤ sqWarn q + 10 ∧ y = { z with sq := some (t0, min lo v, 0) }))) →
        (z.browned = true → 710 < v → exec (.vddMonitorSample d mv) s = .next (q.setDie d { y with brGood := z.brGood + 1 })) ∧
        (z.browned = true → v ≤ 710 → exec (.vddMonitorSample d mv) s = .next (q.setDie d { y with brGood := 0 })) ∧
        (z.browned = false → 600 < v → exec (.vddMonitorSample d mv) s = .next (q.setDie d { y with low := false })) ∧
        (z.browned = false → v ≤ 600 → exec (.vddMonitorSample d mv) s = .next (q.setDie d y))) ∧
    (∀ below : BitVec 4,
      let t := s.setDie d { x with low := true }
      let inReset := s.boot.porLow = true ∨ (1 ≤ s.boot.scope ∧ s.boot.scope ≤ 3)
      let held (u : State) (e : Nat) : State :=
        (loseDie u e).setDie e { u.die e with browned := true, brGood := 0, low := true }
      (diePowered s d = false ∨ x.low = true → exec (.brownOut d below) s = .next s) ∧
      (diePowered s d = true → x.low = false →
        (s.hubHot = true → exec (.brownOut d below) s = .next t) ∧
        (s.hubHot = false → inReset → exec (.brownOut d below) s = .next (held s d)) ∧
        (s.hubHot = false → ¬ inReset → exec (.brownOut d below) s = .next (
          (maskBits 4 (below.toNat ||| 2 ^ d.val)).foldl held (deviceReset t rsWARM 5 d))))) ∧
    (x.browned = true → 51 ≤ x.brGood → exec (.dieBrownoutRecovery d) s =
      .next (spdmResume (readyCheck (s.setDie d { x with browned := false, brGood := 0, low := false })))) ∧
    (x.browned = false ∨ x.brGood < 51 → exec (.dieBrownoutRecovery d) s = .next (spdmResume s))

/-- Heat, regulators and voltage targets (R482, R483, R492 to R495, R524, R546): a sample is kept with its peak; from the warning level a
notice begins, which runs with its peak and ends after 11 cooler samples; from the shutdown level the die is shut down, and from that
of the hub everything is until a power-on reset; a die shut down for heat returns once it has cooled and is asked for. A poll of a
regulator reads its voltage, current, temperature and STATUS_WORD, an alert the STATUS_WORD of each, and every STATUS_WORD with a fault
bit is logged (the bits: log 63; the codes: log 149); a target is clamped, rounded down to 5 mV and sent. That a notice ends by a count
of samples is log 52, how notices and frames meet is log 53. -/
def Sys2Proof.Spec.HeatMonitored : Prop :=
  (∀ (s : State) (d : Fin 4) (w : BitVec 128), Functional s →
    let b := pwrDie d
    let l := readings 8 w.toNat
    let h := hottest l
    let t := ((s.setDie d { s.die d with temps := l }).setF b PWR_TEMP_HOT (unsigned 16 h.1)).setF b PWR_TEMP_SENSOR h.2
    let x := t.die d
    ∀ u, (signed 16 (t.getF b PWR_TMAX_PEAK) < h.1 ∧ u = t.setF b PWR_TMAX_PEAK (unsigned 16 h.1)) ∨
        (h.1 ≤ signed 16 (t.getF b PWR_TMAX_PEAK) ∧ u = t) →
      ∀ v, (x.ot = none ∧ h.1 < 16 * (thWarn u : Int) ∧ v = u) ∨
          (x.ot = none ∧ 16 * (thWarn u : Int) ≤ h.1 ∧
            v = (let y := ((u.setDie d { x with ot := some (now u, h.1, 0) }).setF b PWR_STATUS_OVERTEMP 1).addF b PWR_OT_CNT_COUNT 1
              (slotsOn y d).foldl (fun z p =>
                riskFrames (z.setPlan p { z.plan p with overs := (z.plan p).overs ++ [d.val] }) p) y)) ∨
          (∃ t0 peak n, x.ot = some (t0, peak, n) ∧
            ((h.1 < 16 * ((thWarn u : Int) - 3) ∧ v = u.setDie d { x with ot := some (t0, max peak h.1, n + 1) }) ∨
              (16 * ((thWarn u : Int) - 3) ≤ h.1 ∧ v = u.setDie d { x with ot := some (t0, max peak h.1, 0) }))) →
        (h.1 < 1840 → exec (.tempSample ⟨d, by omega⟩ w) s = .next v) ∧
        (1840 ≤ h.1 → exec (.tempSample ⟨d, by omega⟩ w) s = .next (heatDown v d))) ∧
  (∀ (s : State) (w : BitVec 128), Functional s →
    let t := { s with hubTemps := readings 2 w.toNat }
    ((hottest (readings 2 w.toNat)).1 < 1840 → exec (.tempSample 4 w) s = .next t) ∧
    (1840 ≤ (hottest (readings 2 w.toNat)).1 → exec (.tempSample 4 w) s = .next (
      let u := ((List.range 4).foldl heatDown t).setF hubWin MBX_STATUS_READY 0
      thermPin { u with hubHot := true, boot := { u.boot with cfgReady := false } }))) ∧
  (∀ (s : State) (d : Fin 4), Functional s →
    ((s.die d).ot = none → exec (.overtempEnd d) s = .next s) ∧
    (∀ t0 peak n, (s.die d).ot = some (t0, peak, n) →
      (n < 11 → exec (.overtempEnd d) s = .next s) ∧
      (11 ≤ n → exec (.overtempEnd d) s = .next (
        let t := (s.setDie d { s.die d with ot := none }).setF (pwrDie d) PWR_STATUS_OVERTEMP 0
        let u := (List.range 8).foldl (fun v p => if (v.plan p).overs.contains d.val then
          restartAges (v.setPlan p { v.plan p with overs := (v.plan p).overs.filter (fun y => y ≠ d.val) }) p else v) t
        logEvent u 0x800D 0xFF 0xFF (unsigned 32 peak) (ceilDiv (now s - t0) 1000) 0 0))) ∧
    (let asked := s.getF hubWin MBX_STATUS_READY = 0 ∨
       (s.boot.down = false ∧ ∃ t ∈ s.taken, t.started = true ∧ tkOPC t = 0x0B ∧ tkArg t 8 1 = 0)
     let cool := ∀ x ∈ (s.die d).temps, x < 1520
     (dieShut s d = false ∨ s.hubHot = true ∨ ¬ asked ∨ ¬ cool → exec (.dieHeatRecovery d) s = .next (spdmResume s)) ∧
     (dieShut s d = true → s.hubHot = false → asked → cool →
       exec (.dieHeatRecovery d) s = .next (spdmResume (activeCheck (readyCheck (dieReturn s d)))))) ∧
    (∀ mv : BitVec 10, exec (.vsetWrite d mv) s = .next (
      let t := s.setF (pwrHub + 4 * d) PWR_VSET_MV mv.toNat
      t.emit (.avs d (min 850 (max mv.toNat (max 650 (sqWarn t + 20))) / 5 * 5))))) ∧
  (∀ (s : State) (addr : BitVec 7) (status : BitVec 16), Functional s →
    let read (u : State) (a c : Nat) : State := u.emit (.pmbusRead a c)
    let asked (u : State) (a : Nat) : State := read (read (read u a 0x8B) a 0x8C) a 0x8D
    let answered (u : State) (a w : Nat) : State :=
      if w &&& 0xF73F = 0 then read u a 0x79 else logEvent (read u a 0x79) 0x800F 0xFF 0xFF a w 0 0
    exec (.pmbusPoll addr status) s = .next (answered (asked s addr.toNat) addr.toNat status.toNat) ∧
    (∀ answers : List (BitVec 7 × BitVec 16),
      exec (.pmbAlert answers) s = .next (answers.foldl (fun t a => answered t a.1.toNat a.2.toNat) s)))

/-- Supply (R486, R487, R490, R491) and heat (R482, R483, R492 to R495, R546). -/
def Obligations.SupplyAndHeat : Prop := Sys2Proof.Spec.SupplyMonitored ∧ Sys2Proof.Spec.HeatMonitored

/-! ### Relay links -/

/-- The states of a relay port (R450, R459, R460, R475): EN = 1 takes DOWN to DETECT; a signal, its training and its lock lead through
TRAIN and LOCK to ID, where TRAIN flits are exchanged, and a timeout leads back to DETECT; a TRAIN flit of a peer makes the port UP with
its link state fresh, two heads stay in ID and are logged, one that an injection spoils is lost and one whose CRC fails discarded; EN = 0 takes a port DOWN and
a retraining one to DETECT, and a port that leaves UP is counted and logged and the paths and flits that needed it are broken (log 71).
An event of another state changes nothing (log 2). -/
def Sys2Proof.Spec.PortStates : Prop :=
  ∀ (s : State) (p : Fin 8), Functional s →
    let b := rlyPort p
    let st := portState s p
    let set (t : State) (n : Nat) := t.setF b RLY_P_STATUS_STATE n
    let out (t : State) (f : Flit) : State := t.emit (.flit p f (BitVec.ofNat 32 (crc32 (flitBytes f))))
    let leaves (t : State) (n : Nat) (P : State → Prop) : Prop :=
      let u := (set t n).setF b RLY_P_STATUS_PEER 0x3F
      let v := (u.setPort p PortSt.reset).addF b RLY_P_DOWNS_COUNT 1
      (portState t p ≠ 5 → P u) ∧
      (portState t p = 5 → P ((u.port p).sendq.foldl deadFlit (brokenPaths (logEvent v 0x800C 0xFF 0xFF (myDev v) p 0 0))))
    (let t := s.setF b RLY_P_CTRL_EN 1
     (portState t p = 0 → exec (.rlyPortEnable p) s = .next (set t 1)) ∧
     (portState t p ≠ 0 → exec (.rlyPortEnable p) s = .next t)) ∧
    (st = 1 ∨ (st = 0 ∧ s.getF b RLY_P_CTRL_EN = 1) → exec (.rlySignalDetect p) s = .next (set s 2)) ∧
    (¬ (st = 1 ∨ (st = 0 ∧ s.getF b RLY_P_CTRL_EN = 1)) → exec (.rlySignalDetect p) s = .next s) ∧
    (st = 2 → exec (.rlyTrainingDone p) s = .next (set s 3) ∧ exec (.rlyTrainingTimeout p) s = .next (set s 1)) ∧
    (st = 3 → exec (.rlyLockTimeout p) s = .next (set s 1) ∧
      exec (.rlyLockDone p) s = .next (out (set s 4) (trainFlitOut (set s 4) p))) ∧
    (st ≠ 2 → exec (.rlyTrainingDone p) s = .next s ∧ exec (.rlyTrainingTimeout p) s = .next s) ∧
    (st ≠ 3 → exec (.rlyLockDone p) s = .next s ∧ exec (.rlyLockTimeout p) s = .next s) ∧
    (∀ (w : BitVec 2048) (ce : BitVec 4),
      let f := parseFlit w.toNat
      let t := s.addF b RLY_P_FEC_CE_COUNT ce.toNat
      let peer := bits (leAt f.args 0 1) 0 6
      let note := (t.setF b RLY_P_STATUS_PEER peer).setF b RLY_P_STATUS_PEERPORT (leAt f.args 1 1)
      (f.kind ≠ 1 ∨ flitReserved w.toNat = true ∨ portState t p < 4 → exec (.trainFlit p w ce) s = .next t) ∧
      (f.kind = 1 → flitReserved w.toNat = false → 4 ≤ portState t p →
        ((injected t 0x12 p).1 = true → exec (.trainFlit p w ce) s = .next (flitLost (injected t 0x12 p).2 p)) ∧
        (let sound := crc32 (natToBytes 252 w.toNat) = bits w.toNat 2016 32
         (injected t 0x12 p).1 = false → (¬ sound → exec (.trainFlit p w ce) s = .next (t.setPort p { t.port p with nak := true })) ∧
          (sound → (portState t p = 5 → exec (.trainFlit p w ce) s = .next note) ∧
          (portState t p ≠ 5 → (bit (leAt f.args 2 1) 0 && isHead t) = false →
            exec (.trainFlit p w ce) s = .next ((set note 5).setPort p PortSt.reset)) ∧
          (portState t p ≠ 5 → (bit (leAt f.args 2 1) 0 && isHead t) = true →
            (t.getF b RLY_P_STATUS_PEER = peer → exec (.trainFlit p w ce) s = .next note) ∧
            (t.getF b RLY_P_STATUS_PEER ≠ peer →
              exec (.trainFlit p w ce) s = .next (logEvent note 0x800C 0xFF 0xFF (myDev t) p 0 0))))))) ∧
    leaves (s.setF b RLY_P_CTRL_EN 0) 0 (fun t => exec (.rlyPortDisable p) s = .next t) ∧
    (st < 2 → exec (.rlyRetrain p) s = .next s) ∧
    (2 ≤ st → leaves s 1 (fun t => exec (.rlyRetrain p) s = .next t))

/-- The sequenced flits with their kinds and what each does at its destination (Table 13.2, R465, R466, R469, R470, R472, R474). -/
def Sys2Proof.Spec.flits (p : Fin 8) (w : BitVec 2048) (ce : BitVec 4) (got : Option Bytes) :
    List (Instr × Nat × (State → Flit → State)) :=
  [(.syncFlit p w ce, 0x02, syncHere p),
   (.cmdFlit p w ce, 0x10, fun t f =>
     let c : Taken := ⟨slice f.payload 0 64, 0, some f.src, false, 0, 0⟩
     if t.boot.scope = 0 then acceptCommand t c
     else (flitSend t (mkFlit t 0x11 f.src 0 []
       (completionBytes (tkCID c) 0x5003 0 [] 0 (myDev t) ++ natToBytes 4 0))).2),
   (.cplFlit p w ce, 0x11, cplHere),
   (.fcredFlit p w ce, 0x12, fun t f =>
     let k := 128 * f.src + leAt f.args 0 1 % 128
     relayPump { t with grants := t.grants.put k (SMap.get 0 t.grants k + leAt f.args 4 4) }),
   (.mrdFlit p w ce got, 0x20, mrdHere got),
   (.mwrFlit p w ce, 0x21, fun t f =>
     if isHead t then t.emit (.hostWrite (leAt f.args 0 8) (f.payload.take (f.plen + 1)) false) else t),
   (.irqFlit p w ce, 0x22, fun t f => if isHead t then raiseVector t (leAt f.args 0 1 % 64) else t),
   (.mcplFlit p w ce, 0x28, mcplHere), (.fhdrFlit p w ce, 0x30, fhdrHere), (.fdataFlit p w ce, 0x31, fdataHere), (.fendFlit p w ce, 0x32, fendHere)]

/-- A flit of a relay stream waits in its port's buffer (R341, R413, R456; log 137, DESIGN CHOICE): a header that opens no frame yet,
header and data behind a flit of their stream that waits, an end whose header or data wait. -/
def Sys2Proof.Spec.streamWaits (v : State) (p : Fin 8) (f : Flit) : Prop :=
  let l := (v.port p).bufs.filter
    (fun g => g.dst = myDev v && (g.src = f.src && leAt g.args 0 1 % 128 = leAt f.args 0 1 % 128))
  f.dst = myDev v ∧
    ((f.kind = 0x30 ∧ (l ≠ [] ∨ headerWaits v f = true)) ∨ (f.kind = 0x31 ∧ l ≠ []) ∨
      (f.kind = 0x32 ∧ ((∃ g ∈ l, g.kind = 0x30 ∧ leAt g.args 8 4 = leAt f.args 4 4) ∨ ∃ g, l.head? = some g ∧ g.kind = 0x31)))

/-- A flit taken in order: its number, and the credits that it returns, with what may then leave (R456, R458). -/
def Sys2Proof.Spec.taken (u : State) (p : Fin 8) (f : Flit) : State :=
  let w := u.setPort p { u.port p with rx := f.fseq, nak := false }
  let cred := (List.range 4).map fun c => min ([16, 32, 64, 32].getD c 0) ((w.port p).cred.getD c 0 + bits f.cret (4 * c) 4)
  portDrain (w.setPort p { w.port p with cred := cred }) p

/-- A sequenced flit (R450, R452, R454 to R456, R458, R462): on a port that is UP its acknowledgement and NAK are taken; the next in order
is taken with its credits, does what its kind does at its destination and returns its buffer's credit, or waits in a buffer to go on, a
flit of a relay stream also while its stream waits; one taken before is dropped (log 71), and any other out of order is discarded and
asked for again. A flit that an injection spoils is lost, and one whose CRC fails is discarded. On a port that is not UP, and of
another kind, a flit does nothing (log 2). -/
def Obligations.FlitsReceived : Prop :=
  ∀ (s : State) (p : Fin 8) (w : BitVec 2048) (ce : BitVec 4) (got : Option Bytes)
    (x : Instr × Nat × (State → Flit → State)), Functional s → x ∈ Sys2Proof.Spec.flits p w ce got →
    let f := parseFlit w.toNat
    let t := s.addF (rlyPort p) RLY_P_FEC_CE_COUNT ce.toNat
    (f.kind ≠ x.2.1 ∨ portState t p ≠ 5 ∨ flitReserved w.toNat = true → exec x.1 s = .next t) ∧
    (f.kind = x.2.1 → portState t p = 5 → flitReserved w.toNat = false →
      let sound := crc32 (natToBytes 252 w.toNat) = bits w.toNat 2016 32
      ((injected t 0x12 p).1 = true → exec x.1 s = .next (flitLost (injected t 0x12 p).2 p)) ∧
      ((injected t 0x12 p).1 = false → ¬ sound → exec x.1 s = .next (t.setPort p { t.port p with nak := true })) ∧
      ((injected t 0x12 p).1 = false → sound →
        let u := linkPart t p f
        let y := u.port p
        (portState u p ≠ 5 → exec x.1 s = .next u) ∧
        (portState u p = 5 → f.fseq = (y.rx + 1) % 65536 →
          let v := Sys2Proof.Spec.taken u p f
          let stays := (f.dst ≠ myDev v ∧ f.kind ≠ 2) ∨ Sys2Proof.Spec.streamWaits v p f
          (¬ stays → exec x.1 s = .next (freeBuffer (x.2.2 v f) p f.vc)) ∧
          (stays → exec x.1 s = .next (v.setPort p { v.port p with bufs := (v.port p).bufs ++ [f] }))) ∧
        (portState u p = 5 → f.fseq ≠ (y.rx + 1) % 65536 →
          ((y.rx + 65536 - f.fseq) % 65536 < 128 → exec x.1 s = .next u) ∧
          (128 ≤ (y.rx + 65536 - f.fseq) % 65536 → exec x.1 s = .next (u.setPort p { y with nak := true })))))

/-- The other events of a port (R341, R414, R450, R454 to R458, R469, R470, R474, R475): a corrupt flit sets NAK, an uncorrectable codeword
is counted; a reserved flit is acknowledged, discarded and counted; an IDLE flit carries its link part alone; a FHDR opens a relay frame
by the rules of a descriptor, writes the result of one that breaks them, or is logged and dropped; 1 µs after the last acknowledgement a
replay sends every flit not acknowledged again with the credits it carried, and a flit's eighth in a row leaves UP; SYNC and credit
returns go out on a port that is UP; a flit that waited here is taken, else a buffered one goes on once its next port takes it, behind the
flits of its channel, or is broken where there is none. Edges: logs 71, 137, 141 and 142; a port not UP and nothing to do: log 2. -/
def Sys2Proof.Spec.PortEvents : Prop :=
  ∀ (s : State) (p : Fin 8), Functional s →
    let n := s.setPort p { s.port p with nak := true }
    (portState s p < 4 → ∀ ue, exec (.flitCorrupt p ue) s = .next s) ∧
    (4 ≤ portState s p → exec (.flitCorrupt p false) s = .next n ∧
      exec (.flitCorrupt p true) s = .next (n.addF (rlyPort p) RLY_P_FEC_UE_COUNT 1)) ∧
    (portState s p ≠ 5 → exec (.replayTimeout p) s = .next s ∧ exec (.syncTimer p) s = .next s ∧
      exec (.creditReturn p) s = .next s) ∧
    (portState s p = 5 →
      let x := s.port p
      let l := x.unacked.map (fun u => (u.1, u.2 + 1))
      let again := l.foldl (fun t u =>
          let f : Flit := { u.1 with ack := x.rx, nak := x.nak }
          t.emit (.flit p f (BitVec.ofNat 32 (crc32 (flitBytes f)))))
        ((s.setPort p { x with unacked := l, ackT := now s }).addF (rlyPort p) RLY_P_REPLAY_COUNT l.length)
      let due := x.unacked ≠ [] ∧ x.ackT + 1000 ≤ now s
      (¬ due → exec (.replayTimeout p) s = .next s) ∧
      (due → (∀ u ∈ l, u.2 < 8) → exec (.replayTimeout p) s = .next again) ∧
      (due → (∃ u ∈ l, 8 ≤ u.2) → exec (.replayTimeout p) s = .next (portLeaves again p 1)) ∧
      exec (.syncTimer p) s = .next (
        let f := mkFlit s 2 (s.getF (rlyPort p) RLY_P_STATUS_PEER) 0
          (natToBytes 8 (now s) ++ natToBytes 8 x.sync.1 ++ natToBytes 8 x.sync.2) [0]
        portDrain (s.setPort p { x with sendq := x.sendq ++ [f] }) p) ∧
      (x.ret.all (fun r => r = 0) = true → exec (.creditReturn p) s = .next s) ∧
      (x.ret.all (fun r => r = 0) = false → exec (.creditReturn p) s = .next
        (portXmit s p (mkFlit s 0 (s.getF (rlyPort p) RLY_P_STATUS_PEER) 0 [] [0])))) ∧
    (∀ (w : BitVec 2048) (ce : BitVec 4),
      let f := parseFlit w.toNat
      let t := s.addF (rlyPort p) RLY_P_FEC_CE_COUNT ce.toNat
      let i := injected t 0x12 p
      let sound := crc32 (natToBytes 252 w.toNat) = bits w.toNat 2016 32
      let bad := t.setPort p { t.port p with nak := true }
      let u := linkPart t p f
      let next := f.fseq = ((u.port p).rx + 1) % 65536
      let v := Sys2Proof.Spec.taken u p f
      (f.kind ≠ 0 ∨ portState t p ≠ 5 ∨ flitReserved w.toNat = true → exec (.idleFlit p w ce) s = .next t) ∧
      (f.kind = 0 → portState t p = 5 → flitReserved w.toNat = false →
        (i.1 = true → exec (.idleFlit p w ce) s = .next (flitLost i.2 p)) ∧
        (i.1 = false → ¬ sound → exec (.idleFlit p w ce) s = .next bad) ∧
        (i.1 = false → sound → exec (.idleFlit p w ce) s = .next (linkPart (takeCredits t p f) p f))) ∧
      (portState t p < 4 ∨ flitReserved w.toNat = false → exec (.reservedFlit p w ce) s = .next t) ∧
      (4 ≤ portState t p → flitReserved w.toNat = true →
        let counted (y : State) : State := y.addF (rlyPort p) RLY_P_PROTO_COUNT 1
        (i.1 = true → exec (.reservedFlit p w ce) s = .next (flitLost i.2 p)) ∧
        (i.1 = false → ¬ sound → exec (.reservedFlit p w ce) s = .next bad) ∧
        (i.1 = false → sound →
          (f.kind < 2 → exec (.reservedFlit p w ce) s = .next (counted (takeCredits u p f))) ∧
          (2 ≤ f.kind → next → exec (.reservedFlit p w ce) s = .next (counted (freeBuffer v p f.vc))) ∧
          (2 ≤ f.kind → ¬ next → exec (.reservedFlit p w ce) s = .next (outOfOrder u p f)))) ∧
      (f.kind = 0x30 → flitReserved w.toNat = false → portState t p = 5 → i.1 = false → sound → portState u p = 5 → next →
        f.dst = myDev v → ¬ Sys2Proof.Spec.streamWaits v p f →
          let k := leAt f.args 0 1 % 128
          let d := relayDesc f.args
          let up := leAt f.args 2 2
          let len := fdINLEN d
          let takes := relaySlot v k = true ∧ (v.stream k).closing = 0
          let good := 1 ≤ len ∧ len ≤ 67108864 ∧ len % fifElem v k = 0 ∧ fdOUTADDR d % 64 = 0 ∧ fdOUTLEN d % 64 = 0
          let does (y : State) : Prop := exec (.fhdrFlit p w ce) s = .next (freeBuffer y p f.vc)
          (¬ takes → does (logEvent v 0x800B 0xFF 0xFF k f.src 0 0)) ∧
          (takes → good → does (fifGrant (fifOpen v k
            { newFFrame d 0 len with src := some f.src, upFlags := up, trel := leAt f.args 40 8 }) k)) ∧
          (takes → ¬ good → does (afterNotrun v
            (writeResult (publishBefore v k) k (fdUSER d) 0xFFFFFFFF 0 ((2 ^ fNOTRUN) ||| up) 0 false) k)))) ∧
    (∀ vc : Fin 4,
      (∀ f, takeable s p vc = some f → exec (.flitForward p vc) s = .next (
        let t := if f.kind = 0x30 then fhdrHere s f else if f.kind = 0x31 then fdataHere s f else fendHere s f
        freeBuffer (t.setPort p { t.port p with bufs := (t.port p).bufs.erase f }) p f.vc)) ∧
      (takeable s p vc = none →
        let first := (s.port p).bufs.find? (fun f => f.vc = vc.val && f.dst ≠ myDev s)
        (first = none → exec (.flitForward p vc) s = .next s) ∧
        (∀ f, first = some f →
          let q := routeTo s f.dst
          let gone := freeBuffer (s.setPort p { s.port p with bufs := (s.port p).bufs.erase f }) p f.vc
          let may := portMay s q f = true ∧ ∀ g ∈ (s.port q).sendq, g.vc ≠ f.vc
          (8 ≤ q ∨ portUp s q = false → exec (.flitForward p vc) s = .next (deadFlit gone f)) ∧
          (q < 8 → portUp s q = true → may → exec (.flitForward p vc) s = .next (portXmit gone q f)) ∧
          (q < 8 → portUp s q = true → ¬ may → exec (.flitForward p vc) s = .next s))))

/-- The states of a relay port (R459, R460, R475), and its other events (R341, R454 to R458, R470, R474, R475). -/
def Obligations.RelayPorts : Prop := Sys2Proof.Spec.PortStates ∧ Sys2Proof.Spec.PortEvents

/-! ### Attestation over Data Object Exchange -/

/-- The requests of SPDM with their codes (R522, R523; the codes are DSP0274's, PRESUMED in log entry 64). -/
def Sys2Proof.Spec.spdmRequests (req : Bytes) : List (Instr × Nat) :=
  [(.getVersion req, 0x84), (.getCapabilities req, 0xE1), (.negotiateAlgorithms req, 0xE3), (.getDigests req, 0x81),
   (.getCertificate req, 0x82), (.challenge req, 0x83), (.getMeasurements req, 0xE0)]

/-- A request is served at once: the steward runs, and no request and no quote came before it and still waits (R524). -/
def Sys2Proof.Spec.served (s : State) : Prop := stewardUp s = true ∧ s.spdm.busy = [] ∧ ∀ t ∈ s.taken, tkOPC t ≠ 0x0C

/-- Requests while the endpoint is up (R519, R522 to R524): a request waits while the steward does not run and behind the requests and
quotes that came before it, in order of arrival (log 143), and DOE abort discards those that wait;
Discovery names itself and CMA/SPDM; the negotiation answers version 1.2, the capabilities of certificates, challenge and signed
measurements, and the algorithms; one out of its place is ERROR UnexpectedRequest, one of another version, one that needs an identity
that is not there, and any other request ERROR UnsupportedRequest. A request of another code than its own, and one while the endpoint is
down, change nothing (log 2). Layouts and the order of requests are DSP0274's (the model's choice, log entry 64). -/
def Sys2Proof.Spec.SpdmAnswers : Prop :=
  ∀ (s : State) (req : Bytes), Functional s →
    let all := Sys2Proof.Spec.spdmRequests req
    exec .doeAbort s = .next { s with spdm := { s.spdm with busy := [] } } ∧
    (endpointUp s = false → (∀ j, exec (.doeDiscovery j) s = .next s) ∧ exec (.spdmUnsupportedRequest req) s = .next s ∧
      ∀ x ∈ all, exec x.1 s = .next s) ∧
    (∀ x ∈ all, spdmCode req ≠ x.2 → exec x.1 s = .next s) ∧
    ((∃ x ∈ all, spdmCode req = x.2) → exec (.spdmUnsupportedRequest req) s = .next s) ∧
    (endpointUp s = true →
      exec (.doeDiscovery 0) s = .next (doeRespond s 0 [1, 0, 0, 1]) ∧
      exec (.doeDiscovery 1) s = .next (doeRespond s 0 [1, 0, 1, 0]) ∧
      (∀ j : BitVec 8, 2 ≤ j.toNat → exec (.doeDiscovery j) s = .next (doeRespond s 0 [0xFF, 0xFF, 0, 0])) ∧
      (¬ Sys2Proof.Spec.served s →
        let ahead := s.taken.filter (fun t => tkOPC t = 0x0C)
        let waits := { s with spdm := { s.spdm with busy := s.spdm.busy ++ [(req, ahead)] } }
        (∀ x ∈ all, spdmCode req = x.2 → exec x.1 s = .next waits) ∧
        ((∀ x ∈ all, spdmCode req ≠ x.2) → exec (.spdmUnsupportedRequest req) s = .next waits)) ∧
      (Sys2Proof.Spec.served s →
        let unsupported := spdmError s 7 (spdmCode req)
        ((∀ x ∈ all, spdmCode req ≠ x.2) → exec (.spdmUnsupportedRequest req) s = .next unsupported) ∧
        (spdmCode req = 0x84 → exec (.getVersion req) s = .next (
          let r : Bytes := [0x10, 0x04, 0, 0, 0, 1, 0x00, 0x12]
          doeRespond { s with spdm := { SpdmSt.reset with version := true, vca := req ++ r, busy := s.spdm.busy } } 1 r)) ∧
        (leAt req 0 1 ≠ 0x12 → ∀ x ∈ all.drop 1, spdmCode req = x.2 → exec x.1 s = .next unsupported) ∧
        (leAt req 0 1 = 0x12 →
          (spdmCode req = 0xE1 → s.spdm.version = false → exec (.getCapabilities req) s = .next (spdmError s 4 0)) ∧
          (spdmCode req = 0xE1 → s.spdm.version = true → exec (.getCapabilities req) s = .next (
            let r := spdmHead 0x61 0 0 ++ [0] ++ natToBytes 1 (Config.spdmField 0) ++ [0, 0] ++ natToBytes 4 0x16 ++
              natToBytes 4 (Config.spdmField 1) ++ natToBytes 4 (Config.spdmField 2)
            doeRespond { s with spdm := { s.spdm with caps := true, vca := s.spdm.vca ++ req ++ r } } 1 r)) ∧
          (spdmCode req = 0xE3 → s.spdm.caps = false → exec (.negotiateAlgorithms req) s = .next (spdmError s 4 0)) ∧
          (spdmCode req = 0xE3 → s.spdm.caps = true → exec (.negotiateAlgorithms req) s = .next (
            let r := spdmHead 0x63 0 0 ++ natToBytes 2 36 ++ natToBytes 1 (leAt req 6 1 &&& 1) ++ [0] ++ natToBytes 4 8 ++
              natToBytes 4 (leAt req 8 4 &&& 0x40) ++ natToBytes 4 (leAt req 12 4 &&& 4) ++ slice [] 0 16
            doeRespond { s with spdm := { s.spdm with algs := true, vca := s.spdm.vca ++ req ++ r } } 1 r)) ∧
          (∀ x ∈ all.drop 3, spdmCode req = x.2 →
            (s.boot.ident ≠ 0 → exec x.1 s = .next unsupported) ∧
            (s.boot.ident = 0 → s.spdm.algs = false → exec x.1 s = .next (spdmError s 4 0))))))

/-- With an identity and algorithms agreed (R518 to R522, R525, Table 15.9): GET_DIGESTS answers the hash of the chain of slot 0,
GET_CERTIFICATE the part of the chain asked for, CHALLENGE a fresh nonce with an RSASSA-PSS signature of the
identity key over the transcript, and GET_MEASUREMENTS the
number of measurements, one of them or all, signed when asked. Layouts are DSP0274's (the model's choice, log entry 64). -/
def Sys2Proof.Spec.IdentityProved : Prop :=
  ∀ (s : State) (req : Bytes), Functional s → endpointUp s = true → Sys2Proof.Spec.served s → leAt req 0 1 = 0x12 →
    s.boot.ident = 0 → s.spdm.algs = true →
    let unsupported := spdmError s 7 (spdmCode req)
    let c := spdmChain s
    let d := drawNonce s
    let sign (u : State) (context : String) (m : Bytes) : Bytes × State :=
      let x := ascii "dmtf-spdm-v1.2.*"
      let e := drawBytes u 16
      (pssSign u.boot.key e.1 (x ++ x ++ x ++ x ++ List.replicate (36 - (ascii context).length) 0 ++ ascii context ++ sha512 m),
        e.2.addF secBase SEC_QUOTES_COUNT 1)
    (spdmCode req = 0x81 → exec (.getDigests req) s = .next (
      let r := spdmHead 0x01 0 1 ++ sha512 c
      doeRespond { s with spdm := { s.spdm with certs := s.spdm.certs ++ req ++ r } } 1 r)) ∧
    (spdmCode req = 0x82 → leAt req 2 1 % 16 ≠ 0 ∨ c.length ≤ leAt req 4 2 → exec (.getCertificate req) s = .next unsupported) ∧
    (spdmCode req = 0x82 → leAt req 2 1 % 16 = 0 → leAt req 4 2 < c.length → exec (.getCertificate req) s = .next (
      let off := leAt req 4 2
      let n := min (leAt req 6 2) (c.length - off)
      let r := spdmHead 0x02 0 0 ++ natToBytes 2 n ++ natToBytes 2 (c.length - off - n) ++ slice c off n
      doeRespond { s with spdm := { s.spdm with certs := s.spdm.certs ++ req ++ r } } 1 r)) ∧
    (spdmCode req = 0x83 →
      let h := leAt req 3 1
      (leAt req 2 1 ≠ 0 ∨ (h ≠ 0 ∧ h ≠ 1 ∧ h ≠ 255) → exec (.challenge req) s = .next unsupported) ∧
      (∀ sum, leAt req 2 1 = 0 → (h = 0 ∧ sum = []) ∨ (h = 1 ∧ sum = sha512 ([1, 2, 3].flatMap (spdmBlock s))) ∨
          (h = 255 ∧ sum = sha512 (spdmIndices.flatMap (spdmBlock s))) → exec (.challenge req) s = .next (
        let r := spdmHead 0x03 0 1 ++ sha512 c ++ d.1 ++ sum ++ [0, 0]
        let g := sign d.2 "responder-challenge_auth signing" (s.spdm.vca ++ s.spdm.certs ++ req ++ r)
        doeRespond { g.2 with spdm := { g.2.spdm with certs := [], meas := [] } } 1 (r ++ g.1)))) ∧
    (spdmCode req = 0xE0 →
      let op := leAt req 3 1
      let signed := bit (leAt req 2 1) 0
      ∀ l n, (op = 0 ∧ l = [] ∧ n = 11) ∨ (op = 255 ∧ l = spdmIndices ∧ n = 0) ∨ (op ≠ 0 ∧ op ≠ 255 ∧ l = [op] ∧ n = 0) →
        let wrong := (∃ j ∈ l, j ∉ spdmIndices) ∨ (signed = true ∧ leAt req 36 1 % 16 ≠ 0)
        let rec' := l.flatMap (spdmBlock s)
        let r := spdmHead 0x60 n 0 ++ natToBytes 1 l.length ++ natToBytes 3 rec'.length ++ rec' ++ d.1 ++ [0, 0]
        let m := s.spdm.meas ++ req ++ r
        (wrong → exec (.getMeasurements req) s = .next unsupported) ∧
        (¬ wrong → signed = true → exec (.getMeasurements req) s = .next (
          let g := sign d.2 "responder-measurements signing" (s.spdm.vca ++ m)
          doeRespond { g.2 with spdm := { g.2.spdm with meas := [] } } 1 (r ++ g.1))) ∧
        (¬ wrong → signed = false → exec (.getMeasurements req) s = .next
          (doeRespond { d.2 with spdm := { d.2.spdm with meas := m } } 1 r)))

/-- Data Object Exchange answers (R519, R522 to R524), and proves the device's identity (R518 to R522, R525). -/
def Obligations.AttestationAnswers : Prop := Sys2Proof.Spec.SpdmAnswers ∧ Sys2Proof.Spec.IdentityProved

/-! ### The monitor -/

/-- The monitor's commands that the lock refuses (R530, Table 16.1). -/
def Sys2Proof.Spec.guarded (args : Bytes) : List Instr :=
  [.monRd args, .monPk args, .monWr args, .monMrd args, .monMwr args, .monLog args, .monFuse args, .monBurn args false,
   .monBurn args true]

/-- Every line of the monitor. -/
def Sys2Proof.Spec.lines (args : Bytes) : List Instr :=
  Sys2Proof.Spec.guarded args ++ [.monHelp args, .monId args, .monStat args, .monBaud args, .monChal args, .monRsp args,
    .monUnlk args, .monLock args, .lineDiscard, .monitorUnknownCommand args]

/-- The monitor's lines (R527 to R530, R534, R536, R537): a line behind one whose access waits is buffered, or discarded
where 256 characters are already held (log 107); nothing is answered
before the monitor is up (log 69); while it is locked the commands of Table 16.1 that need it unlocked answer ER 04 and change nothing; a
name that is no command answers ER 01, a wrong number of arguments or one out of its range ER 02, a line discarded ER 03; a challenge
lapses 600 s after its issue and a lockout 60 s after it began, not before; the steward may lock. -/
def Sys2Proof.Spec.MonitorLines : Prop :=
  ∀ (s : State) (args : Bytes), Functional s →
    let lines := Sys2Proof.Spec.lines args
    let waits := s.stuck.any (fun e => monLine e.2)
    (waits = true → ∀ i ∈ lines,
      (monHeld s + lineChars i ≤ 256 → exec i s = .next { s with stuck := s.stuck ++ [(hubWin, i)] }) ∧
      (256 < monHeld s + lineChars i → exec i s = .next { s with stuck := s.stuck ++ [(hubWin, .lineDiscard)] })) ∧
    (waits = false → benchUp s = false → ∀ i ∈ lines, exec i s = .next s) ∧
    (waits = false → benchUp s = true →
      let bad := monErr s 2 []
      (monLocked s = true → ∀ i ∈ Sys2Proof.Spec.guarded args,
        exec i s = .next (s.emit (.uart (([69, 82, 32] ++ hexText 2 4) ++ [13, 10] ++ [62, 32])))) ∧
      (words args ≠ [] → ∀ i ∈ [Instr.monHelp args, .monId args, .monStat args, .monChal args, .monLock args],
        exec i s = .next bad) ∧
      ((∀ n, numbers args ≠ some [n]) → exec (.monBaud args) s = .next bad ∧
        exec (.monUnlk args) s = .next (monErr (dropChallenge s) 2 [])) ∧
      (∀ n, numbers args = some [n] → (8 ≤ n → exec (.monBaud args) s = .next bad) ∧
        (4 ≤ n → exec (.monUnlk args) s = .next (monErr (dropChallenge s) 2 []))) ∧
      (let pair := ∃ o h off b, words args = [o, h] ∧ hexNumber o = some off ∧ hexString h = some b
       (¬ pair → exec (.monRsp args) s = .next bad) ∧ (¬ pair → monLocked s = false → exec (.monMwr args) s = .next bad)) ∧
      (monLocked s = false →
        (words args ≠ [] → exec (.monFuse args) s = .next bad) ∧
        ((∀ n, numbers args ≠ some [n]) → exec (.monRd args) s = .next bad ∧ ∀ low, exec (.monBurn args low) s = .next bad) ∧
        ((∀ a n, numbers args ≠ some [a, n]) →
          ∀ i ∈ [Instr.monPk args, .monWr args, .monMrd args, .monLog args], exec i s = .next bad) ∧
        (∀ a n, numbers args = some [a, n] →
          (n = 0 ∨ 64 < n → exec (.monPk args) s = .next bad) ∧ (2 ^ 32 ≤ n → exec (.monWr args) s = .next bad) ∧
          (n < 4 ∨ 256 < n ∨ n % 4 ≠ 0 ∨ a % 4 ≠ 0 → exec (.monMrd args) s = .next bad) ∧
          (n = 0 ∨ 16 < n ∨ 2 ^ 32 ≤ a → exec (.monLog args) s = .next bad))) ∧
      (words args = [] → exec (.monitorUnknownCommand args) s = .next (monErr s 1 [])) ∧
      (∀ w r, words args = w :: r → monNames.contains (w.map upper) = false →
        exec (.monitorUnknownCommand args) s = .next (monErr s 1 [])) ∧
      exec .lineDiscard s = .next (monErr (s.addF dbgBase DBG_LINEERR_COUNT 1) 3 [])) ∧
    (∀ r t, s.mon.chal = some (r, t) →
      (t + 600000000000 ≤ now s → exec .challengeExpiry s =
        .next ({ s with mon := { s.mon with chal := none } }.setF dbgBase DBG_STATUS_CHAL 0)) ∧
      (now s < t + 600000000000 → exec .challengeExpiry s = .next s)) ∧
    (∀ t, s.mon.lockout = some t →
      (t + 60000000000 ≤ now s → exec .lockoutEnd s =
        .next ({ s with mon := { s.mon with lockout := none } }.setF dbgBase DBG_STATUS_LOCKOUT 0)) ∧
      (now s < t + 60000000000 → exec .lockoutEnd s = .next s)) ∧
    (s.mon.chal = none → exec .challengeExpiry s = .next s) ∧
    (s.mon.lockout = none → exec .lockoutEnd s = .next s) ∧
    (stewardUp s = true → exec .dbgLockWrite s = .next (monitorLock s)) ∧
    (stewardUp s = false → exec .dbgLockWrite s = .next s)

/-- What the monitor's commands do (R528 to R538, Tables 16.1 and 16.2): every answer is counted; CHAL draws a fresh nonce and issues a
record, or tells the rest of a lockout; RSP writes the response buffer; UNLK with a signature that verifies under slot k unlocks,
and one that does not is a failure; LOCK locks; RD has the effect of a read and PK none; WR is a register write; memory is read and
written, hub SRAM too (log 106), a bus error answers ER 05, an uncorrectable read prints open bytes (log 68), and an access to a sleeping
group waits (log 107); LOG, FUSE and BURN as their rules say. The widths of printed fields are the model's choice (log
entry 66), and how commands and failures are counted is log 67. -/
def Sys2Proof.Spec.MonitorCommands : Prop :=
  ∀ (s : State) (args : Bytes), Functional s → benchUp s = true → s.stuck.any (fun e => monLine e.2) = false →
    let ok (t : State) (l : List Bytes) : State := monCount (monOk t l)
    (words args = [] →
      exec (.monHelp args) s = .next (ok s (["HELP", "ID", "STAT", "BAUD", "CHAL", "RSP", "UNLK", "LOCK", "RD", "PK", "WR", "MRD", "MWR",
        "LOG", "FUSE", "BURN"].map (fun t => t.toList.map (fun c => BitVec.ofNat 8 c.toNat)))) ∧
      exec (.monId args) s = .next (ok s [hexText 8 (idcode s), hexText 2 (stepByte s), hexText 32 (bits s.fuses 2156 128),
        hexText 8 (regView s (hubWin + 8)), hexText 8 (regView s (hubWin + 0x100)), hexText 8 (regView s (hubWin + 0x104))]) ∧
      exec (.monStat args) s = .next (ok s [hexText 8 (regView s (hubWin + 4)),
        (List.range 8).flatMap (fun p => hexText 1 (planState s p)), hexText 8 (regView s (pwrHub + 0x18)),
        hexText 8 (regView s (pwrHub + 0x34)), hexText 8 (regView s dbgBase)]) ∧
      exec (.monLock args) s = .next (ok (monitorLock s) []) ∧
      (∀ t, s.mon.lockout = some t → exec (.monChal args) s =
        .next (monCount (monErr s 8 (hexText 2 (ceilDiv (60000000000 - (now s - t)) 1000000000))))) ∧
      (s.mon.lockout = none → exec (.monChal args) s = .next (
        let nonce := (List.range 8).flatMap (fun j => natToBytes 4 (Config.entropy (s.fresh + j)).toNat)
        let r := challengeRecord s nonce
        let t := { s with fresh := s.fresh + 8, mon := { s.mon with chal := some (r, now s), resp := List.replicate 1024 0 } }
        ok (t.setF dbgBase DBG_STATUS_CHAL 1) ((List.range 4).map (fun j => hexBytes (slice r (32 * j) 32)))))) ∧
    (∀ n, numbers args = some [n] →
      (n < 8 → exec (.monBaud args) s = .next ((ok s []).setF dbgBase DBG_UART_BAUD n)) ∧
      (let blank := policyBit s 5 = false ∧ s.mon.resp.all (fun b => b = 0) = true
       (n < 4 → blank → exec (.monUnlk args) s = .next (monCount (monUnlocked (dropChallenge s) n))) ∧
       (n < 4 → ¬ blank → s.mon.chal = none → exec (.monUnlk args) s = .next (monCount (monErr s 6 []))) ∧
       (∀ r t, n < 4 → ¬ blank → s.mon.chal = some (r, t) →
         let key := slice s.mon.resp 0 512
         let u := dropChallenge s
         (unlockKey s n key = 0 → pssVerify key (slice s.mon.resp 512 512) r = true →
           exec (.monUnlk args) s = .next (monCount (monUnlocked u n))) ∧
         (unlockKey s n key = 0 → pssVerify key (slice s.mon.resp 512 512) r = false →
           exec (.monUnlk args) s = .next (monCount (monUnlockFails u 10))) ∧
         (unlockKey s n key ≠ 0 → exec (.monUnlk args) s = .next (monCount (monUnlockFails u (unlockKey s n key))))))) ∧
    (∀ o h off b, words args = [o, h] → hexNumber o = some off → hexString h = some b →
      (1 ≤ b.length → b.length ≤ 64 → off + b.length ≤ 1024 → exec (.monRsp args) s =
        .next (ok { s with mon := { s.mon with resp := patch s.mon.resp off b } } [])) ∧
      (b.length = 0 ∨ 64 < b.length ∨ 1024 < off + b.length → exec (.monRsp args) s = .next (monErr s 2 []))) ∧
    (monLocked s = false →
      let bus (a : Nat) : State := monCount (monErr (logBusError s a) 5 (hexText (max 12 (a.log2 / 4 + 1)) a))
      (∀ a, numbers args = some [a] →
        (wordReg s a = true → exec (.monRd args) s = .next (ok (regRead s a none).2 [hexText 8 (regRead s a none).1])) ∧
        (wordReg s a = false → exec (.monRd args) s = .next (bus a)) ∧
        (∀ low,
          let refused := 4096 ≤ a ∨ (2284 ≤ a ∧ a < 2540) ∨ low = true
          (refused → exec (.monBurn args low) s = .next (monCount (monErr s 9 (hexText (max 4 (a.log2 / 4 + 1)) a)))) ∧
          (¬ refused → exec (.monBurn args low) s = .next (ok { s with fuses := s.fuses ||| 2 ^ a } [])))) ∧
      (∀ a n, numbers args = some [a, n] →
        (let l := (List.range n).map (fun j => a + 4 * j)
         1 ≤ n → n ≤ 64 →
           ((∀ x ∈ l, wordReg s x = true) → exec (.monPk args) s = .next (ok s (l.map (fun x => hexText 8 (regView s x))))) ∧
           (∀ x, l.find? (fun x => !wordReg s x) = some x → exec (.monPk args) s = .next (bus x))) ∧
        (n < 2 ^ 32 → (wordReg s a = true → exec (.monWr args) s = .next (ok (regWrite s a n) [])) ∧
          (wordReg s a = false → exec (.monWr args) s = .next (bus a))) ∧
        (1 ≤ n → n ≤ 16 → a < 2 ^ 32 → exec (.monLog args) s = .next
          (ok s (((logFrom s a).take n).map (fun r => hexBytes (logBytes r))))) ∧
        (4 ≤ n → n ≤ 256 → n % 4 = 0 → a % 4 = 0 →
          (monMem s a n = false → exec (.monMrd args) s = .next (bus a)) ∧
          (monMem s a n = true →
            (∀ t, asleep s a n = some t → exec (.monMrd args) s = .next { t with stuck := t.stuck ++ [(a, .monMrd args)] }) ∧
            (∀ b t, asleep s a n = none → memRead s a n = (.ok b, t) → exec (.monMrd args) s = .next (ok t [hexBytes b])) ∧
            (∀ l t, asleep s a n = none → memRead s a n = (.ue l, t) → exec (.monMrd args) s = .next
              (ok (logUncorrectable { t with fresh := t.fresh + 1 } l 9 0xFF)
                [hexBytes ((List.range n).map (fun j => Config.undefByte t.fresh (a + j)))]))))) ∧
      (∀ w h a b, words args = [w, h] → hexNumber w = some a → hexString h = some b →
        let good := 4 ≤ b.length ∧ b.length ≤ 64 ∧ b.length % 4 = 0 ∧ a % 4 = 0
        (¬ good → exec (.monMwr args) s = .next (monErr s 2 [])) ∧
        (good → monMem s a b.length = false → exec (.monMwr args) s = .next (bus a)) ∧
        (good → monMem s a b.length = true →
          (∀ t, asleep s a b.length = some t → exec (.monMwr args) s = .next { t with stuck := t.stuck ++ [(a, .monMwr args)] }) ∧
          (asleep s a b.length = none →
            (placeOf a = .hubSram → exec (.monMwr args) s = .next (ok (s.putBytes a b) [])) ∧
            (placeOf a ≠ .hubSram → ∀ t,
              (∀ l, memWrite s a b = (.ue l, t) → exec (.monMwr args) s = .next (ok (logUncorrectable t l 9 0xFF) [])) ∧
              (∀ r, memWrite s a b = (r, t) → (∀ l, r ≠ .ue l) → exec (.monMwr args) s = .next (ok t [])))))) ∧
      (words args = [] → exec (.monFuse args) s = .next (ok s
        ((List.range 16).map (fun j => hexBytes (natToBytes 32 (bits (setBits s.fuses 2284 256 0) (256 * j) 256)))))))

/-- The monitor's lines and lock (R527 to R530, R534, R536, R537), and its commands (R528 to R538). -/
def Obligations.MonitorAnswers : Prop := Sys2Proof.Spec.MonitorLines ∧ Sys2Proof.Spec.MonitorCommands

/-! ### The TAP and the SMBus target -/

/-- The TAP (R539 to R543, Table 16.6), from a controller that rests (see StepKeepsInvariant): each instruction is the one loaded, and the
controller comes back to Run-Test/Idle. SAMPLE_PRELOAD and the EXTEST instructions scan the boundary register: its cells capture the
lands, shift out, and take what was shifted in into their latches, but for the three observe-only cells; EXTEST, CLAMP, HIGHZ and the two
of IEEE 1149.6 drive the pins from the latches, leave them undriven, pulse or toggle them, and leave the functional state undefined;
IDCODE shifts out the word of the stepping and BYPASS, CLAMP and HIGHZ a single bit. TRST_N, and five clocks with TMS high, select IDCODE
and give the pins back, from every state of the controller. They run in every functional state. (The cells of POR_N, PERST_N and THERM_N
hold the levels of those lands; order and number of cells and what a scan is: log 109; the walk of the controller: log 70.) -/
def Sys2Proof.Spec.TapInstructions : Prop :=
  (∀ s : State, TapRests s →
    let load (code drive : Nat) (test : Bool) : State :=
      { s with jtagIr := code, scanned := s.scanned || test, bscan := { s.bscan with drive := drive, tap := .updateIr } }
    let shift (t : State) (n captured : Nat) : State := { t with bscan := { t.bscan with tap := .runTest } }.emit (.tdo n captured)
    let scan (t : State) : State :=
      shift { t with fresh := s.fresh + 1
                     bscan := { t.bscan with cap := landLevels t, latch := Config.tdiBits s.fresh &&& ((-1 : BitVec 128) >>> 3) } }
        128 (landLevels t).toNat
    exec .jtagExtest s = .next (scan (load 0 1 true)) ∧
    exec .jtagSamplePreload s = .next (scan (load 1 0 false)) ∧
    (s.b0 = false → exec .jtagIdcode s = .next (shift (load 2 0 false) 32 0x1D1285A7)) ∧
    (s.b0 = true → exec .jtagIdcode s = .next (shift (load 2 0 false) 32 0x2D1285A7)) ∧
    exec .jtagClamp s = .next (shift (load 3 1 true) 1 0) ∧
    exec .jtagHighz s = .next (shift (load 4 2 true) 1 0) ∧
    exec .jtagExtestPulse s = .next (scan (load 5 3 true)) ∧
    exec .jtagExtestTrain s = .next (scan (load 6 4 true)) ∧
    (∀ code : BitVec 8, 7 ≤ code.toNat → exec (.jtagBypass code) s = .next (shift (load code.toNat 0 false) 1 0))) ∧
  (∀ s : State,
    exec .trstNAssert s = .next { s with jtagIr := 2, bscan := { s.bscan with drive := 0, tap := .testLogicReset } } ∧
    tapWalk s (List.replicate 5 true) = { s with jtagIr := 2, bscan := { s.bscan with drive := 0, tap := .testLogicReset } } ∧
    (∀ code : BitVec 8, code.toNat < 7 → exec (.jtagBypass code) s = .next s)) ∧
  (∀ (s : State) (j : Nat), j < 128 →
    (j = 25 → (landLevels s).getLsbD j = !s.boot.porLow) ∧ (j = 26 → (landLevels s).getLsbD j = !s.boot.perstLow) ∧
    (j = 28 → s.bscan.drive = 0 → (landLevels s).getLsbD j = !s.therm) ∧
    (j ≠ 25 → j ≠ 26 → j ≠ 28 ∨ s.bscan.drive ≠ 0 → (landLevels s).getLsbD j = (Config.landLevels s.fresh).getLsbD j))

/-- IDCODE reads the device identification word of the stepping (R541), the pins stay the device's, and the fields of both words are as
given. The controller rests before and after (see StepKeepsInvariant). -/
def Obligations.IdcodeWord : Prop :=
  (∀ s : State, TapRests s → let t := { s with jtagIr := 2, bscan := { s.bscan with drive := 0, tap := .runTest } }
    (s.b0 = false → exec .jtagIdcode s = .next (t.emit (.tdo 32 0x1D1285A7))) ∧
    (s.b0 = true → exec .jtagIdcode s = .next (t.emit (.tdo 32 0x2D1285A7)))) ∧
  (bits 0x1D1285A7 28 4 = 1 ∧ bits 0x2D1285A7 28 4 = 2 ∧
    ∀ v ∈ [0x1D1285A7, 0x2D1285A7], bits v 12 16 = 0xD128 ∧ bits v 1 11 = 0x2D3 ∧ bit v 0 = true)

/-- The SMBus target (R555, Table 17.9): once up it answers the hottest compute die and the hub in whole degrees rounded down, the
health bits, the stepping, 0 to an unlisted command and no acknowledgement to another protocol; before that it is silent
(the millisecond is counted in boot.upNs; whatever answers first is log 69). -/
def Sys2Proof.Spec.SmbusAnswers : Prop :=
  ∀ s : State, Functional s →
    (benchUp s = false → exec .smbDieTemp s = .next s ∧ exec .smbHubTemp s = .next s ∧ exec .smbStatus s = .next s ∧
      exec .smbStepping s = .next s ∧ ∀ b c, exec (.smbUnsupportedRequest b c) s = .next s) ∧
    (benchUp s = true →
      (s.b0 = true → exec .smbStepping s = .next (s.emit (.smbus 0xB0))) ∧
      (s.b0 = false → exec .smbStepping s = .next (s.emit (.smbus 0xA1))) ∧
      (∀ h : Int, (∃ d, d < 4 ∧ dieTemp s d = h) → (∀ d, d < 4 → dieTemp s d ≤ h) →
        exec .smbDieTemp s = .next (s.emit (.smbus (BitVec.ofInt 8 (h / 16))))) ∧
      (∀ h : Int, h ∈ s.hubTemps → (∀ x ∈ s.hubTemps, x ≤ h) →
        exec .smbHubTemp s = .next (s.emit (.smbus (BitVec.ofInt 8 (h / 16))))) ∧
      exec .smbStatus s = .next (s.emit (.smbus (BitVec.ofNat 8 (healthBits s)))) ∧
      (∀ c : BitVec 8, 4 ≤ c.toNat → exec (.smbUnsupportedRequest true c) s = .next (s.emit (.smbus 0))) ∧
      (∀ c, exec (.smbUnsupportedRequest false c) s = .next (s.emit .smbusNack)))

/-- The TAP (R539 to R543) and the SMBus target (R555). -/
def Obligations.TestPorts : Prop := Sys2Proof.Spec.TapInstructions ∧ Sys2Proof.Spec.SmbusAnswers

/-! ### The whole block -/

/-- A step is the command at the front of the queue run on the state with the queue's rest; on an empty queue a nanosecond passes
(R30; that a step on an empty queue is one nanosecond is the model's choice, log entry 1): nothing while POR_N is low; else the time
base counts, with a nanosecond more or less in each 10,000 while it is slewed toward the head's (R474), the time of each starved feeder
counts (Table 9.11), an enabled relay port leaves DOWN for DETECT (Table 13.3, log 138), the boot goes from stage to stage (Table 15.7, log
147), and what waits for a completion or an access is taken up where it can go on (R291, R410, R528). -/
def Obligations.StepRunsFrontCommand : Prop :=
  (∀ (c : Instr) (rest : List Instr) (s : State), step { s with pending := c :: rest } = exec c { s with pending := rest }) ∧
  (∀ s : State, s.pending = [] → s.boot.porLow = true → step s = .next s) ∧
  (∀ s u : State, s.pending = [] → s.boot.porLow = false →
    let t := { s with boot := { s.boot with upNs := s.boot.upNs + 1 } }
    let more := 10000 ≤ s.slewN + 1
    (s.slew = 0 ∧ u = { t with timeBase := s.timeBase + 1 }) ∨
      (s.slew ≠ 0 ∧ s.slewN + 1 < 10000 ∧ u = { t with timeBase := s.timeBase + 1, slewN := s.slewN + 1 }) ∨
      (0 < s.slew ∧ more ∧ u = { t with timeBase := s.timeBase + 2, slewN := 0, slew := s.slew - 1 }) ∨
      (s.slew < 0 ∧ more ∧ u = { t with slewN := 0, slew := s.slew + 1 }) →
    let starved (v : State) (p : Nat) : State :=
      if v.getF (fdBase p) FIF_FD_STATUS_STARVED = 1 then v.addF (fdBase p) FIF_FD_STARVE_NS 1 else v
    let detects (v : State) (p : Nat) : State :=
      if v.getF (rlyPort p) RLY_P_STATUS_STATE = 0 ∧ v.getF (rlyPort p) RLY_P_CTRL_EN = 1 then v.setF (rlyPort p) RLY_P_STATUS_STATE 1
      else v
    ∀ v w, v = (List.range 8).foldl detects ((List.range 8).foldl starved u) → w = resetGo (bootAdvance v) →
      (w.stuck = [] → step s = .next w) ∧ (w.stuck ≠ [] → step s = .next (serveStuck w))) ∧
  (∀ s : State,
    let st := s.getF hubWin MBX_BOOT_STAGE_STAGE
    let goes (n : Nat) : Prop := bootAdvance s = s.setF hubWin MBX_BOOT_STAGE_STAGE n
    let spi := policyBit s 4 = false ∧ (s.boot.bootsel = false ∨ policyBit s 3 = true)
    let rom := romRuns s = true ∧ s.getF hubWin MBX_STATUS_HOSTBOOT = 0
    (rom → st = 0 → goes 1) ∧ (rom → spi → st = 1 → goes 2) ∧ (rom → spi → st = 2 → goes 4) ∧
    (¬ rom → st ≠ 5 → bootAdvance s = s) ∧ (st = 5 → released s = true → goes 6) ∧ (st = 5 → released s = false → bootAdvance s = s) ∧
    (st = 3 ∨ st = 4 ∨ 6 ≤ st → bootAdvance s = s) ∧ (¬ spi → st = 1 ∨ st = 2 → bootAdvance s = s))

/-- The commands that act on a device whose functional state is undefined: the TAP's, TRST_N, POR_N and the loss of VDD_HUB (R543). -/
def Sys2Proof.Spec.acts : Instr → Bool
  | .jtagExtest | .jtagSamplePreload | .jtagIdcode | .jtagClamp | .jtagHighz | .jtagExtestPulse | .jtagExtestTrain
  | .jtagBypass _ | .trstNAssert | .porNAssert _ | .vddHubLow => true
  | _ => false

/-- After an instruction that drives the boundary scan the functional state is undefined until a power-on reset (R543): every command
but the TAP's, POR_N and VDD_HUB stops, and POR_N ends it. -/
def Obligations.ScannedDeviceStops : Prop :=
  (∀ (c : Instr) (s : State), s.scanned = true → Sys2Proof.Spec.acts c = false →
    exec c s = .fault .functionalStateUndefined) ∧
  (∀ (s : State) (ns : Nat), 10000 ≤ ns → ∃ t, exec (.porNAssert ns) s = .next t ∧ t.scanned = false) ∧
  (∀ (s : State), ∃ t, exec .vddHubLow s = .next t ∧ t.scanned = false)

/-- The state after reset keeps the invariants of the machine (R30, R503; that no byte is listed at reset is the model's memory's form). -/
def Obligations.ResetMeetsInvariant : Prop := Inv State.reset ∧ State.reset.pending = [] ∧ Functional State.reset

/-- Every step keeps the machine's invariants: memory in canonical form, at most 4,096 event records (R411), every fuse that was burned at
power-on still burned (R507), and the TAP controller at rest between the instructions of the table (R539). -/
def Obligations.StepKeepsInvariant : Prop :=
  ∀ s t : State, Inv s → step s = .next t → Inv t

/-- No command writes the queue of commands or the stepping of the device, no fuse that is burned is ever cleared (R507), and a hub shut
down for heat stays shut down but for a power-on reset (R494). -/
def Obligations.CommandsKeep : Prop :=
  ∀ (c : Instr) (s t : State), exec c s = .next t →
    t.pending = s.pending ∧ t.b0 = s.b0 ∧ (∀ j, s.fuses.testBit j = true → t.fuses.testBit j = true) ∧
    (s.hubHot = true → (∀ ns, c ≠ .porNAssert ns) → c ≠ .vddHubLow → t.hubHot = true)
end

