-- ==== Sys2Proof/Laws/State.lean ====
section
/-! SUPPORT. What each update of the state leaves in each field, so that no proof unfolds an update. -/

namespace Sys2Proof.Machine
open Sys2Proof

/-! ### setReg -/

@[simp] theorem State.setReg_pending (s : State) (a v : Nat) : (s.setReg a v).pending = s.pending := rfl
@[simp] theorem State.setReg_b0 (s : State) (a v : Nat) : (s.setReg a v).b0 = s.b0 := rfl
@[simp] theorem State.setReg_timeBase (s : State) (a v : Nat) : (s.setReg a v).timeBase = s.timeBase := rfl
@[simp] theorem State.setReg_mem (s : State) (a v : Nat) : (s.setReg a v).mem = s.mem := rfl
@[simp] theorem State.setReg_lost (s : State) (a v : Nat) : (s.setReg a v).lost = s.lost := rfl
@[simp] theorem State.setReg_poison (s : State) (a v : Nat) : (s.setReg a v).poison = s.poison := rfl
@[simp] theorem State.setReg_cores (s : State) (a v : Nat) : (s.setReg a v).cores = s.cores := rfl
@[simp] theorem State.setReg_clusters (s : State) (a v : Nat) : (s.setReg a v).clusters = s.clusters := rfl
@[simp] theorem State.setReg_dies (s : State) (a v : Nat) : (s.setReg a v).dies = s.dies := rfl
@[simp] theorem State.setReg_stuck (s : State) (a v : Nat) : (s.setReg a v).stuck = s.stuck := rfl
@[simp] theorem State.setReg_edgeIn (s : State) (a v : Nat) : (s.setReg a v).edgeIn = s.edgeIn := rfl
@[simp] theorem State.setReg_reports (s : State) (a v : Nat) : (s.setReg a v).reports = s.reports := rfl
@[simp] theorem State.setReg_notices (s : State) (a v : Nat) : (s.setReg a v).notices = s.notices := rfl
@[simp] theorem State.setReg_purge (s : State) (a v : Nat) : (s.setReg a v).purge = s.purge := rfl
@[simp] theorem State.setReg_log (s : State) (a v : Nat) : (s.setReg a v).log = s.log := rfl
@[simp] theorem State.setReg_taken (s : State) (a v : Nat) : (s.setReg a v).taken = s.taken := rfl
@[simp] theorem State.setReg_forwarded (s : State) (a v : Nat) : (s.setReg a v).forwarded = s.forwarded := rfl
@[simp] theorem State.setReg_ccWait (s : State) (a v : Nat) : (s.setReg a v).ccWait = s.ccWait := rfl
@[simp] theorem State.setReg_ccUnread (s : State) (a v : Nat) : (s.setReg a v).ccUnread = s.ccUnread := rfl
@[simp] theorem State.setReg_crStop (s : State) (a v : Nat) : (s.setReg a v).crStop = s.crStop := rfl
@[simp] theorem State.setReg_ccStop (s : State) (a v : Nat) : (s.setReg a v).ccStop = s.ccStop := rfl
@[simp] theorem State.setReg_fifos (s : State) (a v : Nat) : (s.setReg a v).fifos = s.fifos := rfl
@[simp] theorem State.setReg_streams (s : State) (a v : Nat) : (s.setReg a v).streams = s.streams := rfl
@[simp] theorem State.setReg_frames (s : State) (a v : Nat) : (s.setReg a v).frames = s.frames := rfl
@[simp] theorem State.setReg_plans (s : State) (a v : Nat) : (s.setReg a v).plans = s.plans := rfl
@[simp] theorem State.setReg_feeds (s : State) (a v : Nat) : (s.setReg a v).feeds = s.feeds := rfl
@[simp] theorem State.setReg_groups (s : State) (a v : Nat) : (s.setReg a v).groups = s.groups := rfl
@[simp] theorem State.setReg_two (s : State) (a v : Nat) : (s.setReg a v).two = s.two := rfl
@[simp] theorem State.setReg_movers (s : State) (a v : Nat) : (s.setReg a v).movers = s.movers := rfl
@[simp] theorem State.setReg_mvrLast (s : State) (a v : Nat) : (s.setReg a v).mvrLast = s.mvrLast := rfl
@[simp] theorem State.setReg_ports (s : State) (a v : Nat) : (s.setReg a v).ports = s.ports := rfl
@[simp] theorem State.setReg_proxy (s : State) (a v : Nat) : (s.setReg a v).proxy = s.proxy := rfl
@[simp] theorem State.setReg_nextTag (s : State) (a v : Nat) : (s.setReg a v).nextTag = s.nextTag := rfl
@[simp] theorem State.setReg_relayq (s : State) (a v : Nat) : (s.setReg a v).relayq = s.relayq := rfl
@[simp] theorem State.setReg_grants (s : State) (a v : Nat) : (s.setReg a v).grants = s.grants := rfl
@[simp] theorem State.setReg_boot (s : State) (a v : Nat) : (s.setReg a v).boot = s.boot := rfl
@[simp] theorem State.setReg_spdm (s : State) (a v : Nat) : (s.setReg a v).spdm = s.spdm := rfl
@[simp] theorem State.setReg_mon (s : State) (a v : Nat) : (s.setReg a v).mon = s.mon := rfl
@[simp] theorem State.setReg_fuses (s : State) (a v : Nat) : (s.setReg a v).fuses = s.fuses := rfl
@[simp] theorem State.setReg_fuses0 (s : State) (a v : Nat) : (s.setReg a v).fuses0 = s.fuses0 := rfl
@[simp] theorem State.setReg_cfgSpace (s : State) (a v : Nat) : (s.setReg a v).cfgSpace = s.cfgSpace := rfl
@[simp] theorem State.setReg_jtagIr (s : State) (a v : Nat) : (s.setReg a v).jtagIr = s.jtagIr := rfl
@[simp] theorem State.setReg_bscan (s : State) (a v : Nat) : (s.setReg a v).bscan = s.bscan := rfl
@[simp] theorem State.setReg_therm (s : State) (a v : Nat) : (s.setReg a v).therm = s.therm := rfl
@[simp] theorem State.setReg_hubHot (s : State) (a v : Nat) : (s.setReg a v).hubHot = s.hubHot := rfl
@[simp] theorem State.setReg_hubTemps (s : State) (a v : Nat) : (s.setReg a v).hubTemps = s.hubTemps := rfl
@[simp] theorem State.setReg_out (s : State) (a v : Nat) : (s.setReg a v).out = s.out := rfl
@[simp] theorem State.setReg_fresh (s : State) (a v : Nat) : (s.setReg a v).fresh = s.fresh := rfl
@[simp] theorem State.setReg_scanned (s : State) (a v : Nat) : (s.setReg a v).scanned = s.scanned := rfl
@[simp] theorem State.setReg_met (s : State) (a v : Nat) : (s.setReg a v).met = s.met := rfl
@[simp] theorem State.setReg_writes (s : State) (a v : Nat) : (s.setReg a v).writes = s.writes := rfl
@[simp] theorem State.setReg_slew (s : State) (a v : Nat) : (s.setReg a v).slew = s.slew := rfl
@[simp] theorem State.setReg_slewN (s : State) (a v : Nat) : (s.setReg a v).slewN = s.slewN := rfl

/-! ### setF -/

@[simp] theorem State.setF_pending (s : State) (b : Nat) (f : Fld) (v : Nat) : (s.setF b f v).pending = s.pending := rfl
@[simp] theorem State.setF_b0 (s : State) (b : Nat) (f : Fld) (v : Nat) : (s.setF b f v).b0 = s.b0 := rfl
@[simp] theorem State.setF_timeBase (s : State) (b : Nat) (f : Fld) (v : Nat) : (s.setF b f v).timeBase = s.timeBase := rfl
@[simp] theorem State.setF_mem (s : State) (b : Nat) (f : Fld) (v : Nat) : (s.setF b f v).mem = s.mem := rfl
@[simp] theorem State.setF_lost (s : State) (b : Nat) (f : Fld) (v : Nat) : (s.setF b f v).lost = s.lost := rfl
@[simp] theorem State.setF_poison (s : State) (b : Nat) (f : Fld) (v : Nat) : (s.setF b f v).poison = s.poison := rfl
@[simp] theorem State.setF_cores (s : State) (b : Nat) (f : Fld) (v : Nat) : (s.setF b f v).cores = s.cores := rfl
@[simp] theorem State.setF_clusters (s : State) (b : Nat) (f : Fld) (v : Nat) : (s.setF b f v).clusters = s.clusters := rfl
@[simp] theorem State.setF_dies (s : State) (b : Nat) (f : Fld) (v : Nat) : (s.setF b f v).dies = s.dies := rfl
@[simp] theorem State.setF_stuck (s : State) (b : Nat) (f : Fld) (v : Nat) : (s.setF b f v).stuck = s.stuck := rfl
@[simp] theorem State.setF_edgeIn (s : State) (b : Nat) (f : Fld) (v : Nat) : (s.setF b f v).edgeIn = s.edgeIn := rfl
@[simp] theorem State.setF_reports (s : State) (b : Nat) (f : Fld) (v : Nat) : (s.setF b f v).reports = s.reports := rfl
@[simp] theorem State.setF_notices (s : State) (b : Nat) (f : Fld) (v : Nat) : (s.setF b f v).notices = s.notices := rfl
@[simp] theorem State.setF_purge (s : State) (b : Nat) (f : Fld) (v : Nat) : (s.setF b f v).purge = s.purge := rfl
@[simp] theorem State.setF_log (s : State) (b : Nat) (f : Fld) (v : Nat) : (s.setF b f v).log = s.log := rfl
@[simp] theorem State.setF_taken (s : State) (b : Nat) (f : Fld) (v : Nat) : (s.setF b f v).taken = s.taken := rfl
@[simp] theorem State.setF_forwarded (s : State) (b : Nat) (f : Fld) (v : Nat) : (s.setF b f v).forwarded = s.forwarded := rfl
@[simp] theorem State.setF_ccWait (s : State) (b : Nat) (f : Fld) (v : Nat) : (s.setF b f v).ccWait = s.ccWait := rfl
@[simp] theorem State.setF_ccUnread (s : State) (b : Nat) (f : Fld) (v : Nat) : (s.setF b f v).ccUnread = s.ccUnread := rfl
@[simp] theorem State.setF_crStop (s : State) (b : Nat) (f : Fld) (v : Nat) : (s.setF b f v).crStop = s.crStop := rfl
@[simp] theorem State.setF_ccStop (s : State) (b : Nat) (f : Fld) (v : Nat) : (s.setF b f v).ccStop = s.ccStop := rfl
@[simp] theorem State.setF_fifos (s : State) (b : Nat) (f : Fld) (v : Nat) : (s.setF b f v).fifos = s.fifos := rfl
@[simp] theorem State.setF_streams (s : State) (b : Nat) (f : Fld) (v : Nat) : (s.setF b f v).streams = s.streams := rfl
@[simp] theorem State.setF_frames (s : State) (b : Nat) (f : Fld) (v : Nat) : (s.setF b f v).frames = s.frames := rfl
@[simp] theorem State.setF_plans (s : State) (b : Nat) (f : Fld) (v : Nat) : (s.setF b f v).plans = s.plans := rfl
@[simp] theorem State.setF_feeds (s : State) (b : Nat) (f : Fld) (v : Nat) : (s.setF b f v).feeds = s.feeds := rfl
@[simp] theorem State.setF_groups (s : State) (b : Nat) (f : Fld) (v : Nat) : (s.setF b f v).groups = s.groups := rfl
@[simp] theorem State.setF_two (s : State) (b : Nat) (f : Fld) (v : Nat) : (s.setF b f v).two = s.two := rfl
@[simp] theorem State.setF_movers (s : State) (b : Nat) (f : Fld) (v : Nat) : (s.setF b f v).movers = s.movers := rfl
@[simp] theorem State.setF_mvrLast (s : State) (b : Nat) (f : Fld) (v : Nat) : (s.setF b f v).mvrLast = s.mvrLast := rfl
@[simp] theorem State.setF_ports (s : State) (b : Nat) (f : Fld) (v : Nat) : (s.setF b f v).ports = s.ports := rfl
@[simp] theorem State.setF_proxy (s : State) (b : Nat) (f : Fld) (v : Nat) : (s.setF b f v).proxy = s.proxy := rfl
@[simp] theorem State.setF_nextTag (s : State) (b : Nat) (f : Fld) (v : Nat) : (s.setF b f v).nextTag = s.nextTag := rfl
@[simp] theorem State.setF_relayq (s : State) (b : Nat) (f : Fld) (v : Nat) : (s.setF b f v).relayq = s.relayq := rfl
@[simp] theorem State.setF_grants (s : State) (b : Nat) (f : Fld) (v : Nat) : (s.setF b f v).grants = s.grants := rfl
@[simp] theorem State.setF_boot (s : State) (b : Nat) (f : Fld) (v : Nat) : (s.setF b f v).boot = s.boot := rfl
@[simp] theorem State.setF_spdm (s : State) (b : Nat) (f : Fld) (v : Nat) : (s.setF b f v).spdm = s.spdm := rfl
@[simp] theorem State.setF_mon (s : State) (b : Nat) (f : Fld) (v : Nat) : (s.setF b f v).mon = s.mon := rfl
@[simp] theorem State.setF_fuses (s : State) (b : Nat) (f : Fld) (v : Nat) : (s.setF b f v).fuses = s.fuses := rfl
@[simp] theorem State.setF_fuses0 (s : State) (b : Nat) (f : Fld) (v : Nat) : (s.setF b f v).fuses0 = s.fuses0 := rfl
@[simp] theorem State.setF_cfgSpace (s : State) (b : Nat) (f : Fld) (v : Nat) : (s.setF b f v).cfgSpace = s.cfgSpace := rfl
@[simp] theorem State.setF_jtagIr (s : State) (b : Nat) (f : Fld) (v : Nat) : (s.setF b f v).jtagIr = s.jtagIr := rfl
@[simp] theorem State.setF_bscan (s : State) (b : Nat) (f : Fld) (v : Nat) : (s.setF b f v).bscan = s.bscan := rfl
@[simp] theorem State.setF_therm (s : State) (b : Nat) (f : Fld) (v : Nat) : (s.setF b f v).therm = s.therm := rfl
@[simp] theorem State.setF_hubHot (s : State) (b : Nat) (f : Fld) (v : Nat) : (s.setF b f v).hubHot = s.hubHot := rfl
@[simp] theorem State.setF_hubTemps (s : State) (b : Nat) (f : Fld) (v : Nat) : (s.setF b f v).hubTemps = s.hubTemps := rfl
@[simp] theorem State.setF_out (s : State) (b : Nat) (f : Fld) (v : Nat) : (s.setF b f v).out = s.out := rfl
@[simp] theorem State.setF_fresh (s : State) (b : Nat) (f : Fld) (v : Nat) : (s.setF b f v).fresh = s.fresh := rfl
@[simp] theorem State.setF_scanned (s : State) (b : Nat) (f : Fld) (v : Nat) : (s.setF b f v).scanned = s.scanned := rfl
@[simp] theorem State.setF_met (s : State) (b : Nat) (f : Fld) (v : Nat) : (s.setF b f v).met = s.met := rfl
@[simp] theorem State.setF_writes (s : State) (b : Nat) (f : Fld) (v : Nat) : (s.setF b f v).writes = s.writes := rfl
@[simp] theorem State.setF_slew (s : State) (b : Nat) (f : Fld) (v : Nat) : (s.setF b f v).slew = s.slew := rfl
@[simp] theorem State.setF_slewN (s : State) (b : Nat) (f : Fld) (v : Nat) : (s.setF b f v).slewN = s.slewN := rfl

/-! ### addF -/

@[simp] theorem State.addF_pending (s : State) (b : Nat) (f : Fld) (k : Nat) : (s.addF b f k).pending = s.pending := rfl
@[simp] theorem State.addF_b0 (s : State) (b : Nat) (f : Fld) (k : Nat) : (s.addF b f k).b0 = s.b0 := rfl
@[simp] theorem State.addF_timeBase (s : State) (b : Nat) (f : Fld) (k : Nat) : (s.addF b f k).timeBase = s.timeBase := rfl
@[simp] theorem State.addF_mem (s : State) (b : Nat) (f : Fld) (k : Nat) : (s.addF b f k).mem = s.mem := rfl
@[simp] theorem State.addF_lost (s : State) (b : Nat) (f : Fld) (k : Nat) : (s.addF b f k).lost = s.lost := rfl
@[simp] theorem State.addF_poison (s : State) (b : Nat) (f : Fld) (k : Nat) : (s.addF b f k).poison = s.poison := rfl
@[simp] theorem State.addF_cores (s : State) (b : Nat) (f : Fld) (k : Nat) : (s.addF b f k).cores = s.cores := rfl
@[simp] theorem State.addF_clusters (s : State) (b : Nat) (f : Fld) (k : Nat) : (s.addF b f k).clusters = s.clusters := rfl
@[simp] theorem State.addF_dies (s : State) (b : Nat) (f : Fld) (k : Nat) : (s.addF b f k).dies = s.dies := rfl
@[simp] theorem State.addF_stuck (s : State) (b : Nat) (f : Fld) (k : Nat) : (s.addF b f k).stuck = s.stuck := rfl
@[simp] theorem State.addF_edgeIn (s : State) (b : Nat) (f : Fld) (k : Nat) : (s.addF b f k).edgeIn = s.edgeIn := rfl
@[simp] theorem State.addF_reports (s : State) (b : Nat) (f : Fld) (k : Nat) : (s.addF b f k).reports = s.reports := rfl
@[simp] theorem State.addF_notices (s : State) (b : Nat) (f : Fld) (k : Nat) : (s.addF b f k).notices = s.notices := rfl
@[simp] theorem State.addF_purge (s : State) (b : Nat) (f : Fld) (k : Nat) : (s.addF b f k).purge = s.purge := rfl
@[simp] theorem State.addF_log (s : State) (b : Nat) (f : Fld) (k : Nat) : (s.addF b f k).log = s.log := rfl
@[simp] theorem State.addF_taken (s : State) (b : Nat) (f : Fld) (k : Nat) : (s.addF b f k).taken = s.taken := rfl
@[simp] theorem State.addF_forwarded (s : State) (b : Nat) (f : Fld) (k : Nat) : (s.addF b f k).forwarded = s.forwarded := rfl
@[simp] theorem State.addF_ccWait (s : State) (b : Nat) (f : Fld) (k : Nat) : (s.addF b f k).ccWait = s.ccWait := rfl
@[simp] theorem State.addF_ccUnread (s : State) (b : Nat) (f : Fld) (k : Nat) : (s.addF b f k).ccUnread = s.ccUnread := rfl
@[simp] theorem State.addF_crStop (s : State) (b : Nat) (f : Fld) (k : Nat) : (s.addF b f k).crStop = s.crStop := rfl
@[simp] theorem State.addF_ccStop (s : State) (b : Nat) (f : Fld) (k : Nat) : (s.addF b f k).ccStop = s.ccStop := rfl
@[simp] theorem State.addF_fifos (s : State) (b : Nat) (f : Fld) (k : Nat) : (s.addF b f k).fifos = s.fifos := rfl
@[simp] theorem State.addF_streams (s : State) (b : Nat) (f : Fld) (k : Nat) : (s.addF b f k).streams = s.streams := rfl
@[simp] theorem State.addF_frames (s : State) (b : Nat) (f : Fld) (k : Nat) : (s.addF b f k).frames = s.frames := rfl
@[simp] theorem State.addF_plans (s : State) (b : Nat) (f : Fld) (k : Nat) : (s.addF b f k).plans = s.plans := rfl
@[simp] theorem State.addF_feeds (s : State) (b : Nat) (f : Fld) (k : Nat) : (s.addF b f k).feeds = s.feeds := rfl
@[simp] theorem State.addF_groups (s : State) (b : Nat) (f : Fld) (k : Nat) : (s.addF b f k).groups = s.groups := rfl
@[simp] theorem State.addF_two (s : State) (b : Nat) (f : Fld) (k : Nat) : (s.addF b f k).two = s.two := rfl
@[simp] theorem State.addF_movers (s : State) (b : Nat) (f : Fld) (k : Nat) : (s.addF b f k).movers = s.movers := rfl
@[simp] theorem State.addF_mvrLast (s : State) (b : Nat) (f : Fld) (k : Nat) : (s.addF b f k).mvrLast = s.mvrLast := rfl
@[simp] theorem State.addF_ports (s : State) (b : Nat) (f : Fld) (k : Nat) : (s.addF b f k).ports = s.ports := rfl
@[simp] theorem State.addF_proxy (s : State) (b : Nat) (f : Fld) (k : Nat) : (s.addF b f k).proxy = s.proxy := rfl
@[simp] theorem State.addF_nextTag (s : State) (b : Nat) (f : Fld) (k : Nat) : (s.addF b f k).nextTag = s.nextTag := rfl
@[simp] theorem State.addF_relayq (s : State) (b : Nat) (f : Fld) (k : Nat) : (s.addF b f k).relayq = s.relayq := rfl
@[simp] theorem State.addF_grants (s : State) (b : Nat) (f : Fld) (k : Nat) : (s.addF b f k).grants = s.grants := rfl
@[simp] theorem State.addF_boot (s : State) (b : Nat) (f : Fld) (k : Nat) : (s.addF b f k).boot = s.boot := rfl
@[simp] theorem State.addF_spdm (s : State) (b : Nat) (f : Fld) (k : Nat) : (s.addF b f k).spdm = s.spdm := rfl
@[simp] theorem State.addF_mon (s : State) (b : Nat) (f : Fld) (k : Nat) : (s.addF b f k).mon = s.mon := rfl
@[simp] theorem State.addF_fuses (s : State) (b : Nat) (f : Fld) (k : Nat) : (s.addF b f k).fuses = s.fuses := rfl
@[simp] theorem State.addF_fuses0 (s : State) (b : Nat) (f : Fld) (k : Nat) : (s.addF b f k).fuses0 = s.fuses0 := rfl
@[simp] theorem State.addF_cfgSpace (s : State) (b : Nat) (f : Fld) (k : Nat) : (s.addF b f k).cfgSpace = s.cfgSpace := rfl
@[simp] theorem State.addF_jtagIr (s : State) (b : Nat) (f : Fld) (k : Nat) : (s.addF b f k).jtagIr = s.jtagIr := rfl
@[simp] theorem State.addF_bscan (s : State) (b : Nat) (f : Fld) (k : Nat) : (s.addF b f k).bscan = s.bscan := rfl
@[simp] theorem State.addF_therm (s : State) (b : Nat) (f : Fld) (k : Nat) : (s.addF b f k).therm = s.therm := rfl
@[simp] theorem State.addF_hubHot (s : State) (b : Nat) (f : Fld) (k : Nat) : (s.addF b f k).hubHot = s.hubHot := rfl
@[simp] theorem State.addF_hubTemps (s : State) (b : Nat) (f : Fld) (k : Nat) : (s.addF b f k).hubTemps = s.hubTemps := rfl
@[simp] theorem State.addF_out (s : State) (b : Nat) (f : Fld) (k : Nat) : (s.addF b f k).out = s.out := rfl
@[simp] theorem State.addF_fresh (s : State) (b : Nat) (f : Fld) (k : Nat) : (s.addF b f k).fresh = s.fresh := rfl
@[simp] theorem State.addF_scanned (s : State) (b : Nat) (f : Fld) (k : Nat) : (s.addF b f k).scanned = s.scanned := rfl
@[simp] theorem State.addF_met (s : State) (b : Nat) (f : Fld) (k : Nat) : (s.addF b f k).met = s.met := rfl
@[simp] theorem State.addF_writes (s : State) (b : Nat) (f : Fld) (k : Nat) : (s.addF b f k).writes = s.writes := rfl
@[simp] theorem State.addF_slew (s : State) (b : Nat) (f : Fld) (k : Nat) : (s.addF b f k).slew = s.slew := rfl
@[simp] theorem State.addF_slewN (s : State) (b : Nat) (f : Fld) (k : Nat) : (s.addF b f k).slewN = s.slewN := rfl

/-! ### writeRW -/

@[simp] theorem State.writeRW_pending (s : State) (a v : Nat) : (s.writeRW a v).pending = s.pending := rfl
@[simp] theorem State.writeRW_b0 (s : State) (a v : Nat) : (s.writeRW a v).b0 = s.b0 := rfl
@[simp] theorem State.writeRW_timeBase (s : State) (a v : Nat) : (s.writeRW a v).timeBase = s.timeBase := rfl
@[simp] theorem State.writeRW_mem (s : State) (a v : Nat) : (s.writeRW a v).mem = s.mem := rfl
@[simp] theorem State.writeRW_lost (s : State) (a v : Nat) : (s.writeRW a v).lost = s.lost := rfl
@[simp] theorem State.writeRW_poison (s : State) (a v : Nat) : (s.writeRW a v).poison = s.poison := rfl
@[simp] theorem State.writeRW_cores (s : State) (a v : Nat) : (s.writeRW a v).cores = s.cores := rfl
@[simp] theorem State.writeRW_clusters (s : State) (a v : Nat) : (s.writeRW a v).clusters = s.clusters := rfl
@[simp] theorem State.writeRW_dies (s : State) (a v : Nat) : (s.writeRW a v).dies = s.dies := rfl
@[simp] theorem State.writeRW_stuck (s : State) (a v : Nat) : (s.writeRW a v).stuck = s.stuck := rfl
@[simp] theorem State.writeRW_edgeIn (s : State) (a v : Nat) : (s.writeRW a v).edgeIn = s.edgeIn := rfl
@[simp] theorem State.writeRW_reports (s : State) (a v : Nat) : (s.writeRW a v).reports = s.reports := rfl
@[simp] theorem State.writeRW_notices (s : State) (a v : Nat) : (s.writeRW a v).notices = s.notices := rfl
@[simp] theorem State.writeRW_purge (s : State) (a v : Nat) : (s.writeRW a v).purge = s.purge := rfl
@[simp] theorem State.writeRW_log (s : State) (a v : Nat) : (s.writeRW a v).log = s.log := rfl
@[simp] theorem State.writeRW_taken (s : State) (a v : Nat) : (s.writeRW a v).taken = s.taken := rfl
@[simp] theorem State.writeRW_forwarded (s : State) (a v : Nat) : (s.writeRW a v).forwarded = s.forwarded := rfl
@[simp] theorem State.writeRW_ccWait (s : State) (a v : Nat) : (s.writeRW a v).ccWait = s.ccWait := rfl
@[simp] theorem State.writeRW_ccUnread (s : State) (a v : Nat) : (s.writeRW a v).ccUnread = s.ccUnread := rfl
@[simp] theorem State.writeRW_crStop (s : State) (a v : Nat) : (s.writeRW a v).crStop = s.crStop := rfl
@[simp] theorem State.writeRW_ccStop (s : State) (a v : Nat) : (s.writeRW a v).ccStop = s.ccStop := rfl
@[simp] theorem State.writeRW_fifos (s : State) (a v : Nat) : (s.writeRW a v).fifos = s.fifos := rfl
@[simp] theorem State.writeRW_streams (s : State) (a v : Nat) : (s.writeRW a v).streams = s.streams := rfl
@[simp] theorem State.writeRW_frames (s : State) (a v : Nat) : (s.writeRW a v).frames = s.frames := rfl
@[simp] theorem State.writeRW_plans (s : State) (a v : Nat) : (s.writeRW a v).plans = s.plans := rfl
@[simp] theorem State.writeRW_feeds (s : State) (a v : Nat) : (s.writeRW a v).feeds = s.feeds := rfl
@[simp] theorem State.writeRW_groups (s : State) (a v : Nat) : (s.writeRW a v).groups = s.groups := rfl
@[simp] theorem State.writeRW_two (s : State) (a v : Nat) : (s.writeRW a v).two = s.two := rfl
@[simp] theorem State.writeRW_movers (s : State) (a v : Nat) : (s.writeRW a v).movers = s.movers := rfl
@[simp] theorem State.writeRW_mvrLast (s : State) (a v : Nat) : (s.writeRW a v).mvrLast = s.mvrLast := rfl
@[simp] theorem State.writeRW_ports (s : State) (a v : Nat) : (s.writeRW a v).ports = s.ports := rfl
@[simp] theorem State.writeRW_proxy (s : State) (a v : Nat) : (s.writeRW a v).proxy = s.proxy := rfl
@[simp] theorem State.writeRW_nextTag (s : State) (a v : Nat) : (s.writeRW a v).nextTag = s.nextTag := rfl
@[simp] theorem State.writeRW_relayq (s : State) (a v : Nat) : (s.writeRW a v).relayq = s.relayq := rfl
@[simp] theorem State.writeRW_grants (s : State) (a v : Nat) : (s.writeRW a v).grants = s.grants := rfl
@[simp] theorem State.writeRW_boot (s : State) (a v : Nat) : (s.writeRW a v).boot = s.boot := rfl
@[simp] theorem State.writeRW_spdm (s : State) (a v : Nat) : (s.writeRW a v).spdm = s.spdm := rfl
@[simp] theorem State.writeRW_mon (s : State) (a v : Nat) : (s.writeRW a v).mon = s.mon := rfl
@[simp] theorem State.writeRW_fuses (s : State) (a v : Nat) : (s.writeRW a v).fuses = s.fuses := rfl
@[simp] theorem State.writeRW_fuses0 (s : State) (a v : Nat) : (s.writeRW a v).fuses0 = s.fuses0 := rfl
@[simp] theorem State.writeRW_cfgSpace (s : State) (a v : Nat) : (s.writeRW a v).cfgSpace = s.cfgSpace := rfl
@[simp] theorem State.writeRW_jtagIr (s : State) (a v : Nat) : (s.writeRW a v).jtagIr = s.jtagIr := rfl
@[simp] theorem State.writeRW_bscan (s : State) (a v : Nat) : (s.writeRW a v).bscan = s.bscan := rfl
@[simp] theorem State.writeRW_therm (s : State) (a v : Nat) : (s.writeRW a v).therm = s.therm := rfl
@[simp] theorem State.writeRW_hubHot (s : State) (a v : Nat) : (s.writeRW a v).hubHot = s.hubHot := rfl
@[simp] theorem State.writeRW_hubTemps (s : State) (a v : Nat) : (s.writeRW a v).hubTemps = s.hubTemps := rfl
@[simp] theorem State.writeRW_out (s : State) (a v : Nat) : (s.writeRW a v).out = s.out := rfl
@[simp] theorem State.writeRW_fresh (s : State) (a v : Nat) : (s.writeRW a v).fresh = s.fresh := rfl
@[simp] theorem State.writeRW_scanned (s : State) (a v : Nat) : (s.writeRW a v).scanned = s.scanned := rfl
@[simp] theorem State.writeRW_met (s : State) (a v : Nat) : (s.writeRW a v).met = s.met := rfl
@[simp] theorem State.writeRW_writes (s : State) (a v : Nat) : (s.writeRW a v).writes = s.writes := rfl
@[simp] theorem State.writeRW_slew (s : State) (a v : Nat) : (s.writeRW a v).slew = s.slew := rfl
@[simp] theorem State.writeRW_slewN (s : State) (a v : Nat) : (s.writeRW a v).slewN = s.slewN := rfl

/-! ### writePlain -/

@[simp] theorem State.writePlain_pending (s : State) (a v : Nat) : (s.writePlain a v).pending = s.pending := rfl
@[simp] theorem State.writePlain_b0 (s : State) (a v : Nat) : (s.writePlain a v).b0 = s.b0 := rfl
@[simp] theorem State.writePlain_timeBase (s : State) (a v : Nat) : (s.writePlain a v).timeBase = s.timeBase := rfl
@[simp] theorem State.writePlain_mem (s : State) (a v : Nat) : (s.writePlain a v).mem = s.mem := rfl
@[simp] theorem State.writePlain_lost (s : State) (a v : Nat) : (s.writePlain a v).lost = s.lost := rfl
@[simp] theorem State.writePlain_poison (s : State) (a v : Nat) : (s.writePlain a v).poison = s.poison := rfl
@[simp] theorem State.writePlain_cores (s : State) (a v : Nat) : (s.writePlain a v).cores = s.cores := rfl
@[simp] theorem State.writePlain_clusters (s : State) (a v : Nat) : (s.writePlain a v).clusters = s.clusters := rfl
@[simp] theorem State.writePlain_dies (s : State) (a v : Nat) : (s.writePlain a v).dies = s.dies := rfl
@[simp] theorem State.writePlain_stuck (s : State) (a v : Nat) : (s.writePlain a v).stuck = s.stuck := rfl
@[simp] theorem State.writePlain_edgeIn (s : State) (a v : Nat) : (s.writePlain a v).edgeIn = s.edgeIn := rfl
@[simp] theorem State.writePlain_reports (s : State) (a v : Nat) : (s.writePlain a v).reports = s.reports := rfl
@[simp] theorem State.writePlain_notices (s : State) (a v : Nat) : (s.writePlain a v).notices = s.notices := rfl
@[simp] theorem State.writePlain_purge (s : State) (a v : Nat) : (s.writePlain a v).purge = s.purge := rfl
@[simp] theorem State.writePlain_log (s : State) (a v : Nat) : (s.writePlain a v).log = s.log := rfl
@[simp] theorem State.writePlain_taken (s : State) (a v : Nat) : (s.writePlain a v).taken = s.taken := rfl
@[simp] theorem State.writePlain_forwarded (s : State) (a v : Nat) : (s.writePlain a v).forwarded = s.forwarded := rfl
@[simp] theorem State.writePlain_ccWait (s : State) (a v : Nat) : (s.writePlain a v).ccWait = s.ccWait := rfl
@[simp] theorem State.writePlain_ccUnread (s : State) (a v : Nat) : (s.writePlain a v).ccUnread = s.ccUnread := rfl
@[simp] theorem State.writePlain_crStop (s : State) (a v : Nat) : (s.writePlain a v).crStop = s.crStop := rfl
@[simp] theorem State.writePlain_ccStop (s : State) (a v : Nat) : (s.writePlain a v).ccStop = s.ccStop := rfl
@[simp] theorem State.writePlain_fifos (s : State) (a v : Nat) : (s.writePlain a v).fifos = s.fifos := rfl
@[simp] theorem State.writePlain_streams (s : State) (a v : Nat) : (s.writePlain a v).streams = s.streams := rfl
@[simp] theorem State.writePlain_frames (s : State) (a v : Nat) : (s.writePlain a v).frames = s.frames := rfl
@[simp] theorem State.writePlain_plans (s : State) (a v : Nat) : (s.writePlain a v).plans = s.plans := rfl
@[simp] theorem State.writePlain_feeds (s : State) (a v : Nat) : (s.writePlain a v).feeds = s.feeds := rfl
@[simp] theorem State.writePlain_groups (s : State) (a v : Nat) : (s.writePlain a v).groups = s.groups := rfl
@[simp] theorem State.writePlain_two (s : State) (a v : Nat) : (s.writePlain a v).two = s.two := rfl
@[simp] theorem State.writePlain_movers (s : State) (a v : Nat) : (s.writePlain a v).movers = s.movers := rfl
@[simp] theorem State.writePlain_mvrLast (s : State) (a v : Nat) : (s.writePlain a v).mvrLast = s.mvrLast := rfl
@[simp] theorem State.writePlain_ports (s : State) (a v : Nat) : (s.writePlain a v).ports = s.ports := rfl
@[simp] theorem State.writePlain_proxy (s : State) (a v : Nat) : (s.writePlain a v).proxy = s.proxy := rfl
@[simp] theorem State.writePlain_nextTag (s : State) (a v : Nat) : (s.writePlain a v).nextTag = s.nextTag := rfl
@[simp] theorem State.writePlain_relayq (s : State) (a v : Nat) : (s.writePlain a v).relayq = s.relayq := rfl
@[simp] theorem State.writePlain_grants (s : State) (a v : Nat) : (s.writePlain a v).grants = s.grants := rfl
@[simp] theorem State.writePlain_boot (s : State) (a v : Nat) : (s.writePlain a v).boot = s.boot := rfl
@[simp] theorem State.writePlain_spdm (s : State) (a v : Nat) : (s.writePlain a v).spdm = s.spdm := rfl
@[simp] theorem State.writePlain_mon (s : State) (a v : Nat) : (s.writePlain a v).mon = s.mon := rfl
@[simp] theorem State.writePlain_fuses (s : State) (a v : Nat) : (s.writePlain a v).fuses = s.fuses := rfl
@[simp] theorem State.writePlain_fuses0 (s : State) (a v : Nat) : (s.writePlain a v).fuses0 = s.fuses0 := rfl
@[simp] theorem State.writePlain_cfgSpace (s : State) (a v : Nat) : (s.writePlain a v).cfgSpace = s.cfgSpace := rfl
@[simp] theorem State.writePlain_jtagIr (s : State) (a v : Nat) : (s.writePlain a v).jtagIr = s.jtagIr := rfl
@[simp] theorem State.writePlain_bscan (s : State) (a v : Nat) : (s.writePlain a v).bscan = s.bscan := rfl
@[simp] theorem State.writePlain_therm (s : State) (a v : Nat) : (s.writePlain a v).therm = s.therm := rfl
@[simp] theorem State.writePlain_hubHot (s : State) (a v : Nat) : (s.writePlain a v).hubHot = s.hubHot := rfl
@[simp] theorem State.writePlain_hubTemps (s : State) (a v : Nat) : (s.writePlain a v).hubTemps = s.hubTemps := rfl
@[simp] theorem State.writePlain_out (s : State) (a v : Nat) : (s.writePlain a v).out = s.out := rfl
@[simp] theorem State.writePlain_fresh (s : State) (a v : Nat) : (s.writePlain a v).fresh = s.fresh := rfl
@[simp] theorem State.writePlain_scanned (s : State) (a v : Nat) : (s.writePlain a v).scanned = s.scanned := rfl
@[simp] theorem State.writePlain_met (s : State) (a v : Nat) : (s.writePlain a v).met = s.met := rfl
@[simp] theorem State.writePlain_writes (s : State) (a v : Nat) : (s.writePlain a v).writes = s.writes := rfl
@[simp] theorem State.writePlain_slew (s : State) (a v : Nat) : (s.writePlain a v).slew = s.slew := rfl
@[simp] theorem State.writePlain_slewN (s : State) (a v : Nat) : (s.writePlain a v).slewN = s.slewN := rfl

/-! ### setCore -/

@[simp] theorem State.setCore_pending (s : State) (c : Nat) (x : CoreSt) : (s.setCore c x).pending = s.pending := rfl
@[simp] theorem State.setCore_b0 (s : State) (c : Nat) (x : CoreSt) : (s.setCore c x).b0 = s.b0 := rfl
@[simp] theorem State.setCore_timeBase (s : State) (c : Nat) (x : CoreSt) : (s.setCore c x).timeBase = s.timeBase := rfl
@[simp] theorem State.setCore_regs (s : State) (c : Nat) (x : CoreSt) : (s.setCore c x).regs = s.regs := rfl
@[simp] theorem State.setCore_mem (s : State) (c : Nat) (x : CoreSt) : (s.setCore c x).mem = s.mem := rfl
@[simp] theorem State.setCore_lost (s : State) (c : Nat) (x : CoreSt) : (s.setCore c x).lost = s.lost := rfl
@[simp] theorem State.setCore_poison (s : State) (c : Nat) (x : CoreSt) : (s.setCore c x).poison = s.poison := rfl
@[simp] theorem State.setCore_clusters (s : State) (c : Nat) (x : CoreSt) : (s.setCore c x).clusters = s.clusters := rfl
@[simp] theorem State.setCore_dies (s : State) (c : Nat) (x : CoreSt) : (s.setCore c x).dies = s.dies := rfl
@[simp] theorem State.setCore_stuck (s : State) (c : Nat) (x : CoreSt) : (s.setCore c x).stuck = s.stuck := rfl
@[simp] theorem State.setCore_edgeIn (s : State) (c : Nat) (x : CoreSt) : (s.setCore c x).edgeIn = s.edgeIn := rfl
@[simp] theorem State.setCore_reports (s : State) (c : Nat) (x : CoreSt) : (s.setCore c x).reports = s.reports := rfl
@[simp] theorem State.setCore_notices (s : State) (c : Nat) (x : CoreSt) : (s.setCore c x).notices = s.notices := rfl
@[simp] theorem State.setCore_purge (s : State) (c : Nat) (x : CoreSt) : (s.setCore c x).purge = s.purge := rfl
@[simp] theorem State.setCore_log (s : State) (c : Nat) (x : CoreSt) : (s.setCore c x).log = s.log := rfl
@[simp] theorem State.setCore_taken (s : State) (c : Nat) (x : CoreSt) : (s.setCore c x).taken = s.taken := rfl
@[simp] theorem State.setCore_forwarded (s : State) (c : Nat) (x : CoreSt) : (s.setCore c x).forwarded = s.forwarded := rfl
@[simp] theorem State.setCore_ccWait (s : State) (c : Nat) (x : CoreSt) : (s.setCore c x).ccWait = s.ccWait := rfl
@[simp] theorem State.setCore_ccUnread (s : State) (c : Nat) (x : CoreSt) : (s.setCore c x).ccUnread = s.ccUnread := rfl
@[simp] theorem State.setCore_crStop (s : State) (c : Nat) (x : CoreSt) : (s.setCore c x).crStop = s.crStop := rfl
@[simp] theorem State.setCore_ccStop (s : State) (c : Nat) (x : CoreSt) : (s.setCore c x).ccStop = s.ccStop := rfl
@[simp] theorem State.setCore_fifos (s : State) (c : Nat) (x : CoreSt) : (s.setCore c x).fifos = s.fifos := rfl
@[simp] theorem State.setCore_streams (s : State) (c : Nat) (x : CoreSt) : (s.setCore c x).streams = s.streams := rfl
@[simp] theorem State.setCore_frames (s : State) (c : Nat) (x : CoreSt) : (s.setCore c x).frames = s.frames := rfl
@[simp] theorem State.setCore_plans (s : State) (c : Nat) (x : CoreSt) : (s.setCore c x).plans = s.plans := rfl
@[simp] theorem State.setCore_feeds (s : State) (c : Nat) (x : CoreSt) : (s.setCore c x).feeds = s.feeds := rfl
@[simp] theorem State.setCore_groups (s : State) (c : Nat) (x : CoreSt) : (s.setCore c x).groups = s.groups := rfl
@[simp] theorem State.setCore_two (s : State) (c : Nat) (x : CoreSt) : (s.setCore c x).two = s.two := rfl
@[simp] theorem State.setCore_movers (s : State) (c : Nat) (x : CoreSt) : (s.setCore c x).movers = s.movers := rfl
@[simp] theorem State.setCore_mvrLast (s : State) (c : Nat) (x : CoreSt) : (s.setCore c x).mvrLast = s.mvrLast := rfl
@[simp] theorem State.setCore_ports (s : State) (c : Nat) (x : CoreSt) : (s.setCore c x).ports = s.ports := rfl
@[simp] theorem State.setCore_proxy (s : State) (c : Nat) (x : CoreSt) : (s.setCore c x).proxy = s.proxy := rfl
@[simp] theorem State.setCore_nextTag (s : State) (c : Nat) (x : CoreSt) : (s.setCore c x).nextTag = s.nextTag := rfl
@[simp] theorem State.setCore_relayq (s : State) (c : Nat) (x : CoreSt) : (s.setCore c x).relayq = s.relayq := rfl
@[simp] theorem State.setCore_grants (s : State) (c : Nat) (x : CoreSt) : (s.setCore c x).grants = s.grants := rfl
@[simp] theorem State.setCore_boot (s : State) (c : Nat) (x : CoreSt) : (s.setCore c x).boot = s.boot := rfl
@[simp] theorem State.setCore_spdm (s : State) (c : Nat) (x : CoreSt) : (s.setCore c x).spdm = s.spdm := rfl
@[simp] theorem State.setCore_mon (s : State) (c : Nat) (x : CoreSt) : (s.setCore c x).mon = s.mon := rfl
@[simp] theorem State.setCore_fuses (s : State) (c : Nat) (x : CoreSt) : (s.setCore c x).fuses = s.fuses := rfl
@[simp] theorem State.setCore_fuses0 (s : State) (c : Nat) (x : CoreSt) : (s.setCore c x).fuses0 = s.fuses0 := rfl
@[simp] theorem State.setCore_cfgSpace (s : State) (c : Nat) (x : CoreSt) : (s.setCore c x).cfgSpace = s.cfgSpace := rfl
@[simp] theorem State.setCore_jtagIr (s : State) (c : Nat) (x : CoreSt) : (s.setCore c x).jtagIr = s.jtagIr := rfl
@[simp] theorem State.setCore_bscan (s : State) (c : Nat) (x : CoreSt) : (s.setCore c x).bscan = s.bscan := rfl
@[simp] theorem State.setCore_therm (s : State) (c : Nat) (x : CoreSt) : (s.setCore c x).therm = s.therm := rfl
@[simp] theorem State.setCore_hubHot (s : State) (c : Nat) (x : CoreSt) : (s.setCore c x).hubHot = s.hubHot := rfl
@[simp] theorem State.setCore_hubTemps (s : State) (c : Nat) (x : CoreSt) : (s.setCore c x).hubTemps = s.hubTemps := rfl
@[simp] theorem State.setCore_out (s : State) (c : Nat) (x : CoreSt) : (s.setCore c x).out = s.out := rfl
@[simp] theorem State.setCore_fresh (s : State) (c : Nat) (x : CoreSt) : (s.setCore c x).fresh = s.fresh := rfl
@[simp] theorem State.setCore_scanned (s : State) (c : Nat) (x : CoreSt) : (s.setCore c x).scanned = s.scanned := rfl
@[simp] theorem State.setCore_met (s : State) (c : Nat) (x : CoreSt) : (s.setCore c x).met = s.met := rfl
@[simp] theorem State.setCore_writes (s : State) (c : Nat) (x : CoreSt) : (s.setCore c x).writes = s.writes := rfl
@[simp] theorem State.setCore_slew (s : State) (c : Nat) (x : CoreSt) : (s.setCore c x).slew = s.slew := rfl
@[simp] theorem State.setCore_slewN (s : State) (c : Nat) (x : CoreSt) : (s.setCore c x).slewN = s.slewN := rfl

/-! ### setCluster -/

@[simp] theorem State.setCluster_pending (s : State) (c : Nat) (x : ClusterSt) : (s.setCluster c x).pending = s.pending := rfl
@[simp] theorem State.setCluster_b0 (s : State) (c : Nat) (x : ClusterSt) : (s.setCluster c x).b0 = s.b0 := rfl
@[simp] theorem State.setCluster_timeBase (s : State) (c : Nat) (x : ClusterSt) : (s.setCluster c x).timeBase = s.timeBase := rfl
@[simp] theorem State.setCluster_regs (s : State) (c : Nat) (x : ClusterSt) : (s.setCluster c x).regs = s.regs := rfl
@[simp] theorem State.setCluster_mem (s : State) (c : Nat) (x : ClusterSt) : (s.setCluster c x).mem = s.mem := rfl
@[simp] theorem State.setCluster_lost (s : State) (c : Nat) (x : ClusterSt) : (s.setCluster c x).lost = s.lost := rfl
@[simp] theorem State.setCluster_poison (s : State) (c : Nat) (x : ClusterSt) : (s.setCluster c x).poison = s.poison := rfl
@[simp] theorem State.setCluster_cores (s : State) (c : Nat) (x : ClusterSt) : (s.setCluster c x).cores = s.cores := rfl
@[simp] theorem State.setCluster_dies (s : State) (c : Nat) (x : ClusterSt) : (s.setCluster c x).dies = s.dies := rfl
@[simp] theorem State.setCluster_stuck (s : State) (c : Nat) (x : ClusterSt) : (s.setCluster c x).stuck = s.stuck := rfl
@[simp] theorem State.setCluster_edgeIn (s : State) (c : Nat) (x : ClusterSt) : (s.setCluster c x).edgeIn = s.edgeIn := rfl
@[simp] theorem State.setCluster_reports (s : State) (c : Nat) (x : ClusterSt) : (s.setCluster c x).reports = s.reports := rfl
@[simp] theorem State.setCluster_notices (s : State) (c : Nat) (x : ClusterSt) : (s.setCluster c x).notices = s.notices := rfl
@[simp] theorem State.setCluster_purge (s : State) (c : Nat) (x : ClusterSt) : (s.setCluster c x).purge = s.purge := rfl
@[simp] theorem State.setCluster_log (s : State) (c : Nat) (x : ClusterSt) : (s.setCluster c x).log = s.log := rfl
@[simp] theorem State.setCluster_taken (s : State) (c : Nat) (x : ClusterSt) : (s.setCluster c x).taken = s.taken := rfl
@[simp] theorem State.setCluster_forwarded (s : State) (c : Nat) (x : ClusterSt) : (s.setCluster c x).forwarded = s.forwarded := rfl
@[simp] theorem State.setCluster_ccWait (s : State) (c : Nat) (x : ClusterSt) : (s.setCluster c x).ccWait = s.ccWait := rfl
@[simp] theorem State.setCluster_ccUnread (s : State) (c : Nat) (x : ClusterSt) : (s.setCluster c x).ccUnread = s.ccUnread := rfl
@[simp] theorem State.setCluster_crStop (s : State) (c : Nat) (x : ClusterSt) : (s.setCluster c x).crStop = s.crStop := rfl
@[simp] theorem State.setCluster_ccStop (s : State) (c : Nat) (x : ClusterSt) : (s.setCluster c x).ccStop = s.ccStop := rfl
@[simp] theorem State.setCluster_fifos (s : State) (c : Nat) (x : ClusterSt) : (s.setCluster c x).fifos = s.fifos := rfl
@[simp] theorem State.setCluster_streams (s : State) (c : Nat) (x : ClusterSt) : (s.setCluster c x).streams = s.streams := rfl
@[simp] theorem State.setCluster_frames (s : State) (c : Nat) (x : ClusterSt) : (s.setCluster c x).frames = s.frames := rfl
@[simp] theorem State.setCluster_plans (s : State) (c : Nat) (x : ClusterSt) : (s.setCluster c x).plans = s.plans := rfl
@[simp] theorem State.setCluster_feeds (s : State) (c : Nat) (x : ClusterSt) : (s.setCluster c x).feeds = s.feeds := rfl
@[simp] theorem State.setCluster_groups (s : State) (c : Nat) (x : ClusterSt) : (s.setCluster c x).groups = s.groups := rfl
@[simp] theorem State.setCluster_two (s : State) (c : Nat) (x : ClusterSt) : (s.setCluster c x).two = s.two := rfl
@[simp] theorem State.setCluster_movers (s : State) (c : Nat) (x : ClusterSt) : (s.setCluster c x).movers = s.movers := rfl
@[simp] theorem State.setCluster_mvrLast (s : State) (c : Nat) (x : ClusterSt) : (s.setCluster c x).mvrLast = s.mvrLast := rfl
@[simp] theorem State.setCluster_ports (s : State) (c : Nat) (x : ClusterSt) : (s.setCluster c x).ports = s.ports := rfl
@[simp] theorem State.setCluster_proxy (s : State) (c : Nat) (x : ClusterSt) : (s.setCluster c x).proxy = s.proxy := rfl
@[simp] theorem State.setCluster_nextTag (s : State) (c : Nat) (x : ClusterSt) : (s.setCluster c x).nextTag = s.nextTag := rfl
@[simp] theorem State.setCluster_relayq (s : State) (c : Nat) (x : ClusterSt) : (s.setCluster c x).relayq = s.relayq := rfl
@[simp] theorem State.setCluster_grants (s : State) (c : Nat) (x : ClusterSt) : (s.setCluster c x).grants = s.grants := rfl
@[simp] theorem State.setCluster_boot (s : State) (c : Nat) (x : ClusterSt) : (s.setCluster c x).boot = s.boot := rfl
@[simp] theorem State.setCluster_spdm (s : State) (c : Nat) (x : ClusterSt) : (s.setCluster c x).spdm = s.spdm := rfl
@[simp] theorem State.setCluster_mon (s : State) (c : Nat) (x : ClusterSt) : (s.setCluster c x).mon = s.mon := rfl
@[simp] theorem State.setCluster_fuses (s : State) (c : Nat) (x : ClusterSt) : (s.setCluster c x).fuses = s.fuses := rfl
@[simp] theorem State.setCluster_fuses0 (s : State) (c : Nat) (x : ClusterSt) : (s.setCluster c x).fuses0 = s.fuses0 := rfl
@[simp] theorem State.setCluster_cfgSpace (s : State) (c : Nat) (x : ClusterSt) : (s.setCluster c x).cfgSpace = s.cfgSpace := rfl
@[simp] theorem State.setCluster_jtagIr (s : State) (c : Nat) (x : ClusterSt) : (s.setCluster c x).jtagIr = s.jtagIr := rfl
@[simp] theorem State.setCluster_bscan (s : State) (c : Nat) (x : ClusterSt) : (s.setCluster c x).bscan = s.bscan := rfl
@[simp] theorem State.setCluster_therm (s : State) (c : Nat) (x : ClusterSt) : (s.setCluster c x).therm = s.therm := rfl
@[simp] theorem State.setCluster_hubHot (s : State) (c : Nat) (x : ClusterSt) : (s.setCluster c x).hubHot = s.hubHot := rfl
@[simp] theorem State.setCluster_hubTemps (s : State) (c : Nat) (x : ClusterSt) : (s.setCluster c x).hubTemps = s.hubTemps := rfl
@[simp] theorem State.setCluster_out (s : State) (c : Nat) (x : ClusterSt) : (s.setCluster c x).out = s.out := rfl
@[simp] theorem State.setCluster_fresh (s : State) (c : Nat) (x : ClusterSt) : (s.setCluster c x).fresh = s.fresh := rfl
@[simp] theorem State.setCluster_scanned (s : State) (c : Nat) (x : ClusterSt) : (s.setCluster c x).scanned = s.scanned := rfl
@[simp] theorem State.setCluster_met (s : State) (c : Nat) (x : ClusterSt) : (s.setCluster c x).met = s.met := rfl
@[simp] theorem State.setCluster_writes (s : State) (c : Nat) (x : ClusterSt) : (s.setCluster c x).writes = s.writes := rfl
@[simp] theorem State.setCluster_slew (s : State) (c : Nat) (x : ClusterSt) : (s.setCluster c x).slew = s.slew := rfl
@[simp] theorem State.setCluster_slewN (s : State) (c : Nat) (x : ClusterSt) : (s.setCluster c x).slewN = s.slewN := rfl

/-! ### setEng -/

@[simp] theorem State.setEng_pending (s : State) (c e : Nat) (x : EngSt) : (s.setEng c e x).pending = s.pending := rfl
@[simp] theorem State.setEng_b0 (s : State) (c e : Nat) (x : EngSt) : (s.setEng c e x).b0 = s.b0 := rfl
@[simp] theorem State.setEng_timeBase (s : State) (c e : Nat) (x : EngSt) : (s.setEng c e x).timeBase = s.timeBase := rfl
@[simp] theorem State.setEng_regs (s : State) (c e : Nat) (x : EngSt) : (s.setEng c e x).regs = s.regs := rfl
@[simp] theorem State.setEng_mem (s : State) (c e : Nat) (x : EngSt) : (s.setEng c e x).mem = s.mem := rfl
@[simp] theorem State.setEng_lost (s : State) (c e : Nat) (x : EngSt) : (s.setEng c e x).lost = s.lost := rfl
@[simp] theorem State.setEng_poison (s : State) (c e : Nat) (x : EngSt) : (s.setEng c e x).poison = s.poison := rfl
@[simp] theorem State.setEng_clusters (s : State) (c e : Nat) (x : EngSt) : (s.setEng c e x).clusters = s.clusters := rfl
@[simp] theorem State.setEng_dies (s : State) (c e : Nat) (x : EngSt) : (s.setEng c e x).dies = s.dies := rfl
@[simp] theorem State.setEng_stuck (s : State) (c e : Nat) (x : EngSt) : (s.setEng c e x).stuck = s.stuck := rfl
@[simp] theorem State.setEng_edgeIn (s : State) (c e : Nat) (x : EngSt) : (s.setEng c e x).edgeIn = s.edgeIn := rfl
@[simp] theorem State.setEng_reports (s : State) (c e : Nat) (x : EngSt) : (s.setEng c e x).reports = s.reports := rfl
@[simp] theorem State.setEng_notices (s : State) (c e : Nat) (x : EngSt) : (s.setEng c e x).notices = s.notices := rfl
@[simp] theorem State.setEng_purge (s : State) (c e : Nat) (x : EngSt) : (s.setEng c e x).purge = s.purge := rfl
@[simp] theorem State.setEng_log (s : State) (c e : Nat) (x : EngSt) : (s.setEng c e x).log = s.log := rfl
@[simp] theorem State.setEng_taken (s : State) (c e : Nat) (x : EngSt) : (s.setEng c e x).taken = s.taken := rfl
@[simp] theorem State.setEng_forwarded (s : State) (c e : Nat) (x : EngSt) : (s.setEng c e x).forwarded = s.forwarded := rfl
@[simp] theorem State.setEng_ccWait (s : State) (c e : Nat) (x : EngSt) : (s.setEng c e x).ccWait = s.ccWait := rfl
@[simp] theorem State.setEng_ccUnread (s : State) (c e : Nat) (x : EngSt) : (s.setEng c e x).ccUnread = s.ccUnread := rfl
@[simp] theorem State.setEng_crStop (s : State) (c e : Nat) (x : EngSt) : (s.setEng c e x).crStop = s.crStop := rfl
@[simp] theorem State.setEng_ccStop (s : State) (c e : Nat) (x : EngSt) : (s.setEng c e x).ccStop = s.ccStop := rfl
@[simp] theorem State.setEng_fifos (s : State) (c e : Nat) (x : EngSt) : (s.setEng c e x).fifos = s.fifos := rfl
@[simp] theorem State.setEng_streams (s : State) (c e : Nat) (x : EngSt) : (s.setEng c e x).streams = s.streams := rfl
@[simp] theorem State.setEng_frames (s : State) (c e : Nat) (x : EngSt) : (s.setEng c e x).frames = s.frames := rfl
@[simp] theorem State.setEng_plans (s : State) (c e : Nat) (x : EngSt) : (s.setEng c e x).plans = s.plans := rfl
@[simp] theorem State.setEng_feeds (s : State) (c e : Nat) (x : EngSt) : (s.setEng c e x).feeds = s.feeds := rfl
@[simp] theorem State.setEng_groups (s : State) (c e : Nat) (x : EngSt) : (s.setEng c e x).groups = s.groups := rfl
@[simp] theorem State.setEng_two (s : State) (c e : Nat) (x : EngSt) : (s.setEng c e x).two = s.two := rfl
@[simp] theorem State.setEng_movers (s : State) (c e : Nat) (x : EngSt) : (s.setEng c e x).movers = s.movers := rfl
@[simp] theorem State.setEng_mvrLast (s : State) (c e : Nat) (x : EngSt) : (s.setEng c e x).mvrLast = s.mvrLast := rfl
@[simp] theorem State.setEng_ports (s : State) (c e : Nat) (x : EngSt) : (s.setEng c e x).ports = s.ports := rfl
@[simp] theorem State.setEng_proxy (s : State) (c e : Nat) (x : EngSt) : (s.setEng c e x).proxy = s.proxy := rfl
@[simp] theorem State.setEng_nextTag (s : State) (c e : Nat) (x : EngSt) : (s.setEng c e x).nextTag = s.nextTag := rfl
@[simp] theorem State.setEng_relayq (s : State) (c e : Nat) (x : EngSt) : (s.setEng c e x).relayq = s.relayq := rfl
@[simp] theorem State.setEng_grants (s : State) (c e : Nat) (x : EngSt) : (s.setEng c e x).grants = s.grants := rfl
@[simp] theorem State.setEng_boot (s : State) (c e : Nat) (x : EngSt) : (s.setEng c e x).boot = s.boot := rfl
@[simp] theorem State.setEng_spdm (s : State) (c e : Nat) (x : EngSt) : (s.setEng c e x).spdm = s.spdm := rfl
@[simp] theorem State.setEng_mon (s : State) (c e : Nat) (x : EngSt) : (s.setEng c e x).mon = s.mon := rfl
@[simp] theorem State.setEng_fuses (s : State) (c e : Nat) (x : EngSt) : (s.setEng c e x).fuses = s.fuses := rfl
@[simp] theorem State.setEng_fuses0 (s : State) (c e : Nat) (x : EngSt) : (s.setEng c e x).fuses0 = s.fuses0 := rfl
@[simp] theorem State.setEng_cfgSpace (s : State) (c e : Nat) (x : EngSt) : (s.setEng c e x).cfgSpace = s.cfgSpace := rfl
@[simp] theorem State.setEng_jtagIr (s : State) (c e : Nat) (x : EngSt) : (s.setEng c e x).jtagIr = s.jtagIr := rfl
@[simp] theorem State.setEng_bscan (s : State) (c e : Nat) (x : EngSt) : (s.setEng c e x).bscan = s.bscan := rfl
@[simp] theorem State.setEng_therm (s : State) (c e : Nat) (x : EngSt) : (s.setEng c e x).therm = s.therm := rfl
@[simp] theorem State.setEng_hubHot (s : State) (c e : Nat) (x : EngSt) : (s.setEng c e x).hubHot = s.hubHot := rfl
@[simp] theorem State.setEng_hubTemps (s : State) (c e : Nat) (x : EngSt) : (s.setEng c e x).hubTemps = s.hubTemps := rfl
@[simp] theorem State.setEng_out (s : State) (c e : Nat) (x : EngSt) : (s.setEng c e x).out = s.out := rfl
@[simp] theorem State.setEng_fresh (s : State) (c e : Nat) (x : EngSt) : (s.setEng c e x).fresh = s.fresh := rfl
@[simp] theorem State.setEng_scanned (s : State) (c e : Nat) (x : EngSt) : (s.setEng c e x).scanned = s.scanned := rfl
@[simp] theorem State.setEng_met (s : State) (c e : Nat) (x : EngSt) : (s.setEng c e x).met = s.met := rfl
@[simp] theorem State.setEng_writes (s : State) (c e : Nat) (x : EngSt) : (s.setEng c e x).writes = s.writes := rfl
@[simp] theorem State.setEng_slew (s : State) (c e : Nat) (x : EngSt) : (s.setEng c e x).slew = s.slew := rfl
@[simp] theorem State.setEng_slewN (s : State) (c e : Nat) (x : EngSt) : (s.setEng c e x).slewN = s.slewN := rfl

/-! ### setSag -/

@[simp] theorem State.setSag_pending (s : State) (c n : Nat) (x : SagSt) : (s.setSag c n x).pending = s.pending := rfl
@[simp] theorem State.setSag_b0 (s : State) (c n : Nat) (x : SagSt) : (s.setSag c n x).b0 = s.b0 := rfl
@[simp] theorem State.setSag_timeBase (s : State) (c n : Nat) (x : SagSt) : (s.setSag c n x).timeBase = s.timeBase := rfl
@[simp] theorem State.setSag_regs (s : State) (c n : Nat) (x : SagSt) : (s.setSag c n x).regs = s.regs := rfl
@[simp] theorem State.setSag_mem (s : State) (c n : Nat) (x : SagSt) : (s.setSag c n x).mem = s.mem := rfl
@[simp] theorem State.setSag_lost (s : State) (c n : Nat) (x : SagSt) : (s.setSag c n x).lost = s.lost := rfl
@[simp] theorem State.setSag_poison (s : State) (c n : Nat) (x : SagSt) : (s.setSag c n x).poison = s.poison := rfl
@[simp] theorem State.setSag_clusters (s : State) (c n : Nat) (x : SagSt) : (s.setSag c n x).clusters = s.clusters := rfl
@[simp] theorem State.setSag_dies (s : State) (c n : Nat) (x : SagSt) : (s.setSag c n x).dies = s.dies := rfl
@[simp] theorem State.setSag_stuck (s : State) (c n : Nat) (x : SagSt) : (s.setSag c n x).stuck = s.stuck := rfl
@[simp] theorem State.setSag_edgeIn (s : State) (c n : Nat) (x : SagSt) : (s.setSag c n x).edgeIn = s.edgeIn := rfl
@[simp] theorem State.setSag_reports (s : State) (c n : Nat) (x : SagSt) : (s.setSag c n x).reports = s.reports := rfl
@[simp] theorem State.setSag_notices (s : State) (c n : Nat) (x : SagSt) : (s.setSag c n x).notices = s.notices := rfl
@[simp] theorem State.setSag_purge (s : State) (c n : Nat) (x : SagSt) : (s.setSag c n x).purge = s.purge := rfl
@[simp] theorem State.setSag_log (s : State) (c n : Nat) (x : SagSt) : (s.setSag c n x).log = s.log := rfl
@[simp] theorem State.setSag_taken (s : State) (c n : Nat) (x : SagSt) : (s.setSag c n x).taken = s.taken := rfl
@[simp] theorem State.setSag_forwarded (s : State) (c n : Nat) (x : SagSt) : (s.setSag c n x).forwarded = s.forwarded := rfl
@[simp] theorem State.setSag_ccWait (s : State) (c n : Nat) (x : SagSt) : (s.setSag c n x).ccWait = s.ccWait := rfl
@[simp] theorem State.setSag_ccUnread (s : State) (c n : Nat) (x : SagSt) : (s.setSag c n x).ccUnread = s.ccUnread := rfl
@[simp] theorem State.setSag_crStop (s : State) (c n : Nat) (x : SagSt) : (s.setSag c n x).crStop = s.crStop := rfl
@[simp] theorem State.setSag_ccStop (s : State) (c n : Nat) (x : SagSt) : (s.setSag c n x).ccStop = s.ccStop := rfl
@[simp] theorem State.setSag_fifos (s : State) (c n : Nat) (x : SagSt) : (s.setSag c n x).fifos = s.fifos := rfl
@[simp] theorem State.setSag_streams (s : State) (c n : Nat) (x : SagSt) : (s.setSag c n x).streams = s.streams := rfl
@[simp] theorem State.setSag_frames (s : State) (c n : Nat) (x : SagSt) : (s.setSag c n x).frames = s.frames := rfl
@[simp] theorem State.setSag_plans (s : State) (c n : Nat) (x : SagSt) : (s.setSag c n x).plans = s.plans := rfl
@[simp] theorem State.setSag_feeds (s : State) (c n : Nat) (x : SagSt) : (s.setSag c n x).feeds = s.feeds := rfl
@[simp] theorem State.setSag_groups (s : State) (c n : Nat) (x : SagSt) : (s.setSag c n x).groups = s.groups := rfl
@[simp] theorem State.setSag_two (s : State) (c n : Nat) (x : SagSt) : (s.setSag c n x).two = s.two := rfl
@[simp] theorem State.setSag_movers (s : State) (c n : Nat) (x : SagSt) : (s.setSag c n x).movers = s.movers := rfl
@[simp] theorem State.setSag_mvrLast (s : State) (c n : Nat) (x : SagSt) : (s.setSag c n x).mvrLast = s.mvrLast := rfl
@[simp] theorem State.setSag_ports (s : State) (c n : Nat) (x : SagSt) : (s.setSag c n x).ports = s.ports := rfl
@[simp] theorem State.setSag_proxy (s : State) (c n : Nat) (x : SagSt) : (s.setSag c n x).proxy = s.proxy := rfl
@[simp] theorem State.setSag_nextTag (s : State) (c n : Nat) (x : SagSt) : (s.setSag c n x).nextTag = s.nextTag := rfl
@[simp] theorem State.setSag_relayq (s : State) (c n : Nat) (x : SagSt) : (s.setSag c n x).relayq = s.relayq := rfl
@[simp] theorem State.setSag_grants (s : State) (c n : Nat) (x : SagSt) : (s.setSag c n x).grants = s.grants := rfl
@[simp] theorem State.setSag_boot (s : State) (c n : Nat) (x : SagSt) : (s.setSag c n x).boot = s.boot := rfl
@[simp] theorem State.setSag_spdm (s : State) (c n : Nat) (x : SagSt) : (s.setSag c n x).spdm = s.spdm := rfl
@[simp] theorem State.setSag_mon (s : State) (c n : Nat) (x : SagSt) : (s.setSag c n x).mon = s.mon := rfl
@[simp] theorem State.setSag_fuses (s : State) (c n : Nat) (x : SagSt) : (s.setSag c n x).fuses = s.fuses := rfl
@[simp] theorem State.setSag_fuses0 (s : State) (c n : Nat) (x : SagSt) : (s.setSag c n x).fuses0 = s.fuses0 := rfl
@[simp] theorem State.setSag_cfgSpace (s : State) (c n : Nat) (x : SagSt) : (s.setSag c n x).cfgSpace = s.cfgSpace := rfl
@[simp] theorem State.setSag_jtagIr (s : State) (c n : Nat) (x : SagSt) : (s.setSag c n x).jtagIr = s.jtagIr := rfl
@[simp] theorem State.setSag_bscan (s : State) (c n : Nat) (x : SagSt) : (s.setSag c n x).bscan = s.bscan := rfl
@[simp] theorem State.setSag_therm (s : State) (c n : Nat) (x : SagSt) : (s.setSag c n x).therm = s.therm := rfl
@[simp] theorem State.setSag_hubHot (s : State) (c n : Nat) (x : SagSt) : (s.setSag c n x).hubHot = s.hubHot := rfl
@[simp] theorem State.setSag_hubTemps (s : State) (c n : Nat) (x : SagSt) : (s.setSag c n x).hubTemps = s.hubTemps := rfl
@[simp] theorem State.setSag_out (s : State) (c n : Nat) (x : SagSt) : (s.setSag c n x).out = s.out := rfl
@[simp] theorem State.setSag_fresh (s : State) (c n : Nat) (x : SagSt) : (s.setSag c n x).fresh = s.fresh := rfl
@[simp] theorem State.setSag_scanned (s : State) (c n : Nat) (x : SagSt) : (s.setSag c n x).scanned = s.scanned := rfl
@[simp] theorem State.setSag_met (s : State) (c n : Nat) (x : SagSt) : (s.setSag c n x).met = s.met := rfl
@[simp] theorem State.setSag_writes (s : State) (c n : Nat) (x : SagSt) : (s.setSag c n x).writes = s.writes := rfl
@[simp] theorem State.setSag_slew (s : State) (c n : Nat) (x : SagSt) : (s.setSag c n x).slew = s.slew := rfl
@[simp] theorem State.setSag_slewN (s : State) (c n : Nat) (x : SagSt) : (s.setSag c n x).slewN = s.slewN := rfl

/-! ### setHq -/

@[simp] theorem State.setHq_pending (s : State) (c q : Nat) (x : HqSt) : (s.setHq c q x).pending = s.pending := rfl
@[simp] theorem State.setHq_b0 (s : State) (c q : Nat) (x : HqSt) : (s.setHq c q x).b0 = s.b0 := rfl
@[simp] theorem State.setHq_timeBase (s : State) (c q : Nat) (x : HqSt) : (s.setHq c q x).timeBase = s.timeBase := rfl
@[simp] theorem State.setHq_regs (s : State) (c q : Nat) (x : HqSt) : (s.setHq c q x).regs = s.regs := rfl
@[simp] theorem State.setHq_mem (s : State) (c q : Nat) (x : HqSt) : (s.setHq c q x).mem = s.mem := rfl
@[simp] theorem State.setHq_lost (s : State) (c q : Nat) (x : HqSt) : (s.setHq c q x).lost = s.lost := rfl
@[simp] theorem State.setHq_poison (s : State) (c q : Nat) (x : HqSt) : (s.setHq c q x).poison = s.poison := rfl
@[simp] theorem State.setHq_clusters (s : State) (c q : Nat) (x : HqSt) : (s.setHq c q x).clusters = s.clusters := rfl
@[simp] theorem State.setHq_dies (s : State) (c q : Nat) (x : HqSt) : (s.setHq c q x).dies = s.dies := rfl
@[simp] theorem State.setHq_stuck (s : State) (c q : Nat) (x : HqSt) : (s.setHq c q x).stuck = s.stuck := rfl
@[simp] theorem State.setHq_edgeIn (s : State) (c q : Nat) (x : HqSt) : (s.setHq c q x).edgeIn = s.edgeIn := rfl
@[simp] theorem State.setHq_reports (s : State) (c q : Nat) (x : HqSt) : (s.setHq c q x).reports = s.reports := rfl
@[simp] theorem State.setHq_notices (s : State) (c q : Nat) (x : HqSt) : (s.setHq c q x).notices = s.notices := rfl
@[simp] theorem State.setHq_purge (s : State) (c q : Nat) (x : HqSt) : (s.setHq c q x).purge = s.purge := rfl
@[simp] theorem State.setHq_log (s : State) (c q : Nat) (x : HqSt) : (s.setHq c q x).log = s.log := rfl
@[simp] theorem State.setHq_taken (s : State) (c q : Nat) (x : HqSt) : (s.setHq c q x).taken = s.taken := rfl
@[simp] theorem State.setHq_forwarded (s : State) (c q : Nat) (x : HqSt) : (s.setHq c q x).forwarded = s.forwarded := rfl
@[simp] theorem State.setHq_ccWait (s : State) (c q : Nat) (x : HqSt) : (s.setHq c q x).ccWait = s.ccWait := rfl
@[simp] theorem State.setHq_ccUnread (s : State) (c q : Nat) (x : HqSt) : (s.setHq c q x).ccUnread = s.ccUnread := rfl
@[simp] theorem State.setHq_crStop (s : State) (c q : Nat) (x : HqSt) : (s.setHq c q x).crStop = s.crStop := rfl
@[simp] theorem State.setHq_ccStop (s : State) (c q : Nat) (x : HqSt) : (s.setHq c q x).ccStop = s.ccStop := rfl
@[simp] theorem State.setHq_fifos (s : State) (c q : Nat) (x : HqSt) : (s.setHq c q x).fifos = s.fifos := rfl
@[simp] theorem State.setHq_streams (s : State) (c q : Nat) (x : HqSt) : (s.setHq c q x).streams = s.streams := rfl
@[simp] theorem State.setHq_frames (s : State) (c q : Nat) (x : HqSt) : (s.setHq c q x).frames = s.frames := rfl
@[simp] theorem State.setHq_plans (s : State) (c q : Nat) (x : HqSt) : (s.setHq c q x).plans = s.plans := rfl
@[simp] theorem State.setHq_feeds (s : State) (c q : Nat) (x : HqSt) : (s.setHq c q x).feeds = s.feeds := rfl
@[simp] theorem State.setHq_groups (s : State) (c q : Nat) (x : HqSt) : (s.setHq c q x).groups = s.groups := rfl
@[simp] theorem State.setHq_two (s : State) (c q : Nat) (x : HqSt) : (s.setHq c q x).two = s.two := rfl
@[simp] theorem State.setHq_movers (s : State) (c q : Nat) (x : HqSt) : (s.setHq c q x).movers = s.movers := rfl
@[simp] theorem State.setHq_mvrLast (s : State) (c q : Nat) (x : HqSt) : (s.setHq c q x).mvrLast = s.mvrLast := rfl
@[simp] theorem State.setHq_ports (s : State) (c q : Nat) (x : HqSt) : (s.setHq c q x).ports = s.ports := rfl
@[simp] theorem State.setHq_proxy (s : State) (c q : Nat) (x : HqSt) : (s.setHq c q x).proxy = s.proxy := rfl
@[simp] theorem State.setHq_nextTag (s : State) (c q : Nat) (x : HqSt) : (s.setHq c q x).nextTag = s.nextTag := rfl
@[simp] theorem State.setHq_relayq (s : State) (c q : Nat) (x : HqSt) : (s.setHq c q x).relayq = s.relayq := rfl
@[simp] theorem State.setHq_grants (s : State) (c q : Nat) (x : HqSt) : (s.setHq c q x).grants = s.grants := rfl
@[simp] theorem State.setHq_boot (s : State) (c q : Nat) (x : HqSt) : (s.setHq c q x).boot = s.boot := rfl
@[simp] theorem State.setHq_spdm (s : State) (c q : Nat) (x : HqSt) : (s.setHq c q x).spdm = s.spdm := rfl
@[simp] theorem State.setHq_mon (s : State) (c q : Nat) (x : HqSt) : (s.setHq c q x).mon = s.mon := rfl
@[simp] theorem State.setHq_fuses (s : State) (c q : Nat) (x : HqSt) : (s.setHq c q x).fuses = s.fuses := rfl
@[simp] theorem State.setHq_fuses0 (s : State) (c q : Nat) (x : HqSt) : (s.setHq c q x).fuses0 = s.fuses0 := rfl
@[simp] theorem State.setHq_cfgSpace (s : State) (c q : Nat) (x : HqSt) : (s.setHq c q x).cfgSpace = s.cfgSpace := rfl
@[simp] theorem State.setHq_jtagIr (s : State) (c q : Nat) (x : HqSt) : (s.setHq c q x).jtagIr = s.jtagIr := rfl
@[simp] theorem State.setHq_bscan (s : State) (c q : Nat) (x : HqSt) : (s.setHq c q x).bscan = s.bscan := rfl
@[simp] theorem State.setHq_therm (s : State) (c q : Nat) (x : HqSt) : (s.setHq c q x).therm = s.therm := rfl
@[simp] theorem State.setHq_hubHot (s : State) (c q : Nat) (x : HqSt) : (s.setHq c q x).hubHot = s.hubHot := rfl
@[simp] theorem State.setHq_hubTemps (s : State) (c q : Nat) (x : HqSt) : (s.setHq c q x).hubTemps = s.hubTemps := rfl
@[simp] theorem State.setHq_out (s : State) (c q : Nat) (x : HqSt) : (s.setHq c q x).out = s.out := rfl
@[simp] theorem State.setHq_fresh (s : State) (c q : Nat) (x : HqSt) : (s.setHq c q x).fresh = s.fresh := rfl
@[simp] theorem State.setHq_scanned (s : State) (c q : Nat) (x : HqSt) : (s.setHq c q x).scanned = s.scanned := rfl
@[simp] theorem State.setHq_met (s : State) (c q : Nat) (x : HqSt) : (s.setHq c q x).met = s.met := rfl
@[simp] theorem State.setHq_writes (s : State) (c q : Nat) (x : HqSt) : (s.setHq c q x).writes = s.writes := rfl
@[simp] theorem State.setHq_slew (s : State) (c q : Nat) (x : HqSt) : (s.setHq c q x).slew = s.slew := rfl
@[simp] theorem State.setHq_slewN (s : State) (c q : Nat) (x : HqSt) : (s.setHq c q x).slewN = s.slewN := rfl

/-! ### setOp -/

@[simp] theorem State.setOp_pending (s : State) (c : Nat) (o : Op) : (s.setOp c o).pending = s.pending := rfl
@[simp] theorem State.setOp_b0 (s : State) (c : Nat) (o : Op) : (s.setOp c o).b0 = s.b0 := rfl
@[simp] theorem State.setOp_timeBase (s : State) (c : Nat) (o : Op) : (s.setOp c o).timeBase = s.timeBase := rfl
@[simp] theorem State.setOp_regs (s : State) (c : Nat) (o : Op) : (s.setOp c o).regs = s.regs := rfl
@[simp] theorem State.setOp_mem (s : State) (c : Nat) (o : Op) : (s.setOp c o).mem = s.mem := rfl
@[simp] theorem State.setOp_lost (s : State) (c : Nat) (o : Op) : (s.setOp c o).lost = s.lost := rfl
@[simp] theorem State.setOp_poison (s : State) (c : Nat) (o : Op) : (s.setOp c o).poison = s.poison := rfl
@[simp] theorem State.setOp_clusters (s : State) (c : Nat) (o : Op) : (s.setOp c o).clusters = s.clusters := rfl
@[simp] theorem State.setOp_dies (s : State) (c : Nat) (o : Op) : (s.setOp c o).dies = s.dies := rfl
@[simp] theorem State.setOp_stuck (s : State) (c : Nat) (o : Op) : (s.setOp c o).stuck = s.stuck := rfl
@[simp] theorem State.setOp_edgeIn (s : State) (c : Nat) (o : Op) : (s.setOp c o).edgeIn = s.edgeIn := rfl
@[simp] theorem State.setOp_reports (s : State) (c : Nat) (o : Op) : (s.setOp c o).reports = s.reports := rfl
@[simp] theorem State.setOp_notices (s : State) (c : Nat) (o : Op) : (s.setOp c o).notices = s.notices := rfl
@[simp] theorem State.setOp_purge (s : State) (c : Nat) (o : Op) : (s.setOp c o).purge = s.purge := rfl
@[simp] theorem State.setOp_log (s : State) (c : Nat) (o : Op) : (s.setOp c o).log = s.log := rfl
@[simp] theorem State.setOp_taken (s : State) (c : Nat) (o : Op) : (s.setOp c o).taken = s.taken := rfl
@[simp] theorem State.setOp_forwarded (s : State) (c : Nat) (o : Op) : (s.setOp c o).forwarded = s.forwarded := rfl
@[simp] theorem State.setOp_ccWait (s : State) (c : Nat) (o : Op) : (s.setOp c o).ccWait = s.ccWait := rfl
@[simp] theorem State.setOp_ccUnread (s : State) (c : Nat) (o : Op) : (s.setOp c o).ccUnread = s.ccUnread := rfl
@[simp] theorem State.setOp_crStop (s : State) (c : Nat) (o : Op) : (s.setOp c o).crStop = s.crStop := rfl
@[simp] theorem State.setOp_ccStop (s : State) (c : Nat) (o : Op) : (s.setOp c o).ccStop = s.ccStop := rfl
@[simp] theorem State.setOp_fifos (s : State) (c : Nat) (o : Op) : (s.setOp c o).fifos = s.fifos := rfl
@[simp] theorem State.setOp_streams (s : State) (c : Nat) (o : Op) : (s.setOp c o).streams = s.streams := rfl
@[simp] theorem State.setOp_frames (s : State) (c : Nat) (o : Op) : (s.setOp c o).frames = s.frames := rfl
@[simp] theorem State.setOp_plans (s : State) (c : Nat) (o : Op) : (s.setOp c o).plans = s.plans := rfl
@[simp] theorem State.setOp_feeds (s : State) (c : Nat) (o : Op) : (s.setOp c o).feeds = s.feeds := rfl
@[simp] theorem State.setOp_groups (s : State) (c : Nat) (o : Op) : (s.setOp c o).groups = s.groups := rfl
@[simp] theorem State.setOp_two (s : State) (c : Nat) (o : Op) : (s.setOp c o).two = s.two := rfl
@[simp] theorem State.setOp_movers (s : State) (c : Nat) (o : Op) : (s.setOp c o).movers = s.movers := rfl
@[simp] theorem State.setOp_mvrLast (s : State) (c : Nat) (o : Op) : (s.setOp c o).mvrLast = s.mvrLast := rfl
@[simp] theorem State.setOp_ports (s : State) (c : Nat) (o : Op) : (s.setOp c o).ports = s.ports := rfl
@[simp] theorem State.setOp_proxy (s : State) (c : Nat) (o : Op) : (s.setOp c o).proxy = s.proxy := rfl
@[simp] theorem State.setOp_nextTag (s : State) (c : Nat) (o : Op) : (s.setOp c o).nextTag = s.nextTag := rfl
@[simp] theorem State.setOp_relayq (s : State) (c : Nat) (o : Op) : (s.setOp c o).relayq = s.relayq := rfl
@[simp] theorem State.setOp_grants (s : State) (c : Nat) (o : Op) : (s.setOp c o).grants = s.grants := rfl
@[simp] theorem State.setOp_boot (s : State) (c : Nat) (o : Op) : (s.setOp c o).boot = s.boot := rfl
@[simp] theorem State.setOp_spdm (s : State) (c : Nat) (o : Op) : (s.setOp c o).spdm = s.spdm := rfl
@[simp] theorem State.setOp_mon (s : State) (c : Nat) (o : Op) : (s.setOp c o).mon = s.mon := rfl
@[simp] theorem State.setOp_fuses (s : State) (c : Nat) (o : Op) : (s.setOp c o).fuses = s.fuses := rfl
@[simp] theorem State.setOp_fuses0 (s : State) (c : Nat) (o : Op) : (s.setOp c o).fuses0 = s.fuses0 := rfl
@[simp] theorem State.setOp_cfgSpace (s : State) (c : Nat) (o : Op) : (s.setOp c o).cfgSpace = s.cfgSpace := rfl
@[simp] theorem State.setOp_jtagIr (s : State) (c : Nat) (o : Op) : (s.setOp c o).jtagIr = s.jtagIr := rfl
@[simp] theorem State.setOp_bscan (s : State) (c : Nat) (o : Op) : (s.setOp c o).bscan = s.bscan := rfl
@[simp] theorem State.setOp_therm (s : State) (c : Nat) (o : Op) : (s.setOp c o).therm = s.therm := rfl
@[simp] theorem State.setOp_hubHot (s : State) (c : Nat) (o : Op) : (s.setOp c o).hubHot = s.hubHot := rfl
@[simp] theorem State.setOp_hubTemps (s : State) (c : Nat) (o : Op) : (s.setOp c o).hubTemps = s.hubTemps := rfl
@[simp] theorem State.setOp_out (s : State) (c : Nat) (o : Op) : (s.setOp c o).out = s.out := rfl
@[simp] theorem State.setOp_fresh (s : State) (c : Nat) (o : Op) : (s.setOp c o).fresh = s.fresh := rfl
@[simp] theorem State.setOp_scanned (s : State) (c : Nat) (o : Op) : (s.setOp c o).scanned = s.scanned := rfl
@[simp] theorem State.setOp_met (s : State) (c : Nat) (o : Op) : (s.setOp c o).met = s.met := rfl
@[simp] theorem State.setOp_writes (s : State) (c : Nat) (o : Op) : (s.setOp c o).writes = s.writes := rfl
@[simp] theorem State.setOp_slew (s : State) (c : Nat) (o : Op) : (s.setOp c o).slew = s.slew := rfl
@[simp] theorem State.setOp_slewN (s : State) (c : Nat) (o : Op) : (s.setOp c o).slewN = s.slewN := rfl

/-! ### setDie -/

@[simp] theorem State.setDie_pending (s : State) (d : Nat) (x : DieSt) : (s.setDie d x).pending = s.pending := rfl
@[simp] theorem State.setDie_b0 (s : State) (d : Nat) (x : DieSt) : (s.setDie d x).b0 = s.b0 := rfl
@[simp] theorem State.setDie_timeBase (s : State) (d : Nat) (x : DieSt) : (s.setDie d x).timeBase = s.timeBase := rfl
@[simp] theorem State.setDie_regs (s : State) (d : Nat) (x : DieSt) : (s.setDie d x).regs = s.regs := rfl
@[simp] theorem State.setDie_mem (s : State) (d : Nat) (x : DieSt) : (s.setDie d x).mem = s.mem := rfl
@[simp] theorem State.setDie_lost (s : State) (d : Nat) (x : DieSt) : (s.setDie d x).lost = s.lost := rfl
@[simp] theorem State.setDie_poison (s : State) (d : Nat) (x : DieSt) : (s.setDie d x).poison = s.poison := rfl
@[simp] theorem State.setDie_cores (s : State) (d : Nat) (x : DieSt) : (s.setDie d x).cores = s.cores := rfl
@[simp] theorem State.setDie_clusters (s : State) (d : Nat) (x : DieSt) : (s.setDie d x).clusters = s.clusters := rfl
@[simp] theorem State.setDie_stuck (s : State) (d : Nat) (x : DieSt) : (s.setDie d x).stuck = s.stuck := rfl
@[simp] theorem State.setDie_edgeIn (s : State) (d : Nat) (x : DieSt) : (s.setDie d x).edgeIn = s.edgeIn := rfl
@[simp] theorem State.setDie_reports (s : State) (d : Nat) (x : DieSt) : (s.setDie d x).reports = s.reports := rfl
@[simp] theorem State.setDie_notices (s : State) (d : Nat) (x : DieSt) : (s.setDie d x).notices = s.notices := rfl
@[simp] theorem State.setDie_purge (s : State) (d : Nat) (x : DieSt) : (s.setDie d x).purge = s.purge := rfl
@[simp] theorem State.setDie_log (s : State) (d : Nat) (x : DieSt) : (s.setDie d x).log = s.log := rfl
@[simp] theorem State.setDie_taken (s : State) (d : Nat) (x : DieSt) : (s.setDie d x).taken = s.taken := rfl
@[simp] theorem State.setDie_forwarded (s : State) (d : Nat) (x : DieSt) : (s.setDie d x).forwarded = s.forwarded := rfl
@[simp] theorem State.setDie_ccWait (s : State) (d : Nat) (x : DieSt) : (s.setDie d x).ccWait = s.ccWait := rfl
@[simp] theorem State.setDie_ccUnread (s : State) (d : Nat) (x : DieSt) : (s.setDie d x).ccUnread = s.ccUnread := rfl
@[simp] theorem State.setDie_crStop (s : State) (d : Nat) (x : DieSt) : (s.setDie d x).crStop = s.crStop := rfl
@[simp] theorem State.setDie_ccStop (s : State) (d : Nat) (x : DieSt) : (s.setDie d x).ccStop = s.ccStop := rfl
@[simp] theorem State.setDie_fifos (s : State) (d : Nat) (x : DieSt) : (s.setDie d x).fifos = s.fifos := rfl
@[simp] theorem State.setDie_streams (s : State) (d : Nat) (x : DieSt) : (s.setDie d x).streams = s.streams := rfl
@[simp] theorem State.setDie_frames (s : State) (d : Nat) (x : DieSt) : (s.setDie d x).frames = s.frames := rfl
@[simp] theorem State.setDie_plans (s : State) (d : Nat) (x : DieSt) : (s.setDie d x).plans = s.plans := rfl
@[simp] theorem State.setDie_feeds (s : State) (d : Nat) (x : DieSt) : (s.setDie d x).feeds = s.feeds := rfl
@[simp] theorem State.setDie_groups (s : State) (d : Nat) (x : DieSt) : (s.setDie d x).groups = s.groups := rfl
@[simp] theorem State.setDie_two (s : State) (d : Nat) (x : DieSt) : (s.setDie d x).two = s.two := rfl
@[simp] theorem State.setDie_movers (s : State) (d : Nat) (x : DieSt) : (s.setDie d x).movers = s.movers := rfl
@[simp] theorem State.setDie_mvrLast (s : State) (d : Nat) (x : DieSt) : (s.setDie d x).mvrLast = s.mvrLast := rfl
@[simp] theorem State.setDie_ports (s : State) (d : Nat) (x : DieSt) : (s.setDie d x).ports = s.ports := rfl
@[simp] theorem State.setDie_proxy (s : State) (d : Nat) (x : DieSt) : (s.setDie d x).proxy = s.proxy := rfl
@[simp] theorem State.setDie_nextTag (s : State) (d : Nat) (x : DieSt) : (s.setDie d x).nextTag = s.nextTag := rfl
@[simp] theorem State.setDie_relayq (s : State) (d : Nat) (x : DieSt) : (s.setDie d x).relayq = s.relayq := rfl
@[simp] theorem State.setDie_grants (s : State) (d : Nat) (x : DieSt) : (s.setDie d x).grants = s.grants := rfl
@[simp] theorem State.setDie_boot (s : State) (d : Nat) (x : DieSt) : (s.setDie d x).boot = s.boot := rfl
@[simp] theorem State.setDie_spdm (s : State) (d : Nat) (x : DieSt) : (s.setDie d x).spdm = s.spdm := rfl
@[simp] theorem State.setDie_mon (s : State) (d : Nat) (x : DieSt) : (s.setDie d x).mon = s.mon := rfl
@[simp] theorem State.setDie_fuses (s : State) (d : Nat) (x : DieSt) : (s.setDie d x).fuses = s.fuses := rfl
@[simp] theorem State.setDie_fuses0 (s : State) (d : Nat) (x : DieSt) : (s.setDie d x).fuses0 = s.fuses0 := rfl
@[simp] theorem State.setDie_cfgSpace (s : State) (d : Nat) (x : DieSt) : (s.setDie d x).cfgSpace = s.cfgSpace := rfl
@[simp] theorem State.setDie_jtagIr (s : State) (d : Nat) (x : DieSt) : (s.setDie d x).jtagIr = s.jtagIr := rfl
@[simp] theorem State.setDie_bscan (s : State) (d : Nat) (x : DieSt) : (s.setDie d x).bscan = s.bscan := rfl
@[simp] theorem State.setDie_therm (s : State) (d : Nat) (x : DieSt) : (s.setDie d x).therm = s.therm := rfl
@[simp] theorem State.setDie_hubHot (s : State) (d : Nat) (x : DieSt) : (s.setDie d x).hubHot = s.hubHot := rfl
@[simp] theorem State.setDie_hubTemps (s : State) (d : Nat) (x : DieSt) : (s.setDie d x).hubTemps = s.hubTemps := rfl
@[simp] theorem State.setDie_out (s : State) (d : Nat) (x : DieSt) : (s.setDie d x).out = s.out := rfl
@[simp] theorem State.setDie_fresh (s : State) (d : Nat) (x : DieSt) : (s.setDie d x).fresh = s.fresh := rfl
@[simp] theorem State.setDie_scanned (s : State) (d : Nat) (x : DieSt) : (s.setDie d x).scanned = s.scanned := rfl
@[simp] theorem State.setDie_met (s : State) (d : Nat) (x : DieSt) : (s.setDie d x).met = s.met := rfl
@[simp] theorem State.setDie_writes (s : State) (d : Nat) (x : DieSt) : (s.setDie d x).writes = s.writes := rfl
@[simp] theorem State.setDie_slew (s : State) (d : Nat) (x : DieSt) : (s.setDie d x).slew = s.slew := rfl
@[simp] theorem State.setDie_slewN (s : State) (d : Nat) (x : DieSt) : (s.setDie d x).slewN = s.slewN := rfl

/-! ### setFifo -/

@[simp] theorem State.setFifo_pending (s : State) (k : Nat) (x : FifoSt) : (s.setFifo k x).pending = s.pending := rfl
@[simp] theorem State.setFifo_b0 (s : State) (k : Nat) (x : FifoSt) : (s.setFifo k x).b0 = s.b0 := rfl
@[simp] theorem State.setFifo_timeBase (s : State) (k : Nat) (x : FifoSt) : (s.setFifo k x).timeBase = s.timeBase := rfl
@[simp] theorem State.setFifo_regs (s : State) (k : Nat) (x : FifoSt) : (s.setFifo k x).regs = s.regs := rfl
@[simp] theorem State.setFifo_mem (s : State) (k : Nat) (x : FifoSt) : (s.setFifo k x).mem = s.mem := rfl
@[simp] theorem State.setFifo_lost (s : State) (k : Nat) (x : FifoSt) : (s.setFifo k x).lost = s.lost := rfl
@[simp] theorem State.setFifo_poison (s : State) (k : Nat) (x : FifoSt) : (s.setFifo k x).poison = s.poison := rfl
@[simp] theorem State.setFifo_cores (s : State) (k : Nat) (x : FifoSt) : (s.setFifo k x).cores = s.cores := rfl
@[simp] theorem State.setFifo_clusters (s : State) (k : Nat) (x : FifoSt) : (s.setFifo k x).clusters = s.clusters := rfl
@[simp] theorem State.setFifo_dies (s : State) (k : Nat) (x : FifoSt) : (s.setFifo k x).dies = s.dies := rfl
@[simp] theorem State.setFifo_stuck (s : State) (k : Nat) (x : FifoSt) : (s.setFifo k x).stuck = s.stuck := rfl
@[simp] theorem State.setFifo_edgeIn (s : State) (k : Nat) (x : FifoSt) : (s.setFifo k x).edgeIn = s.edgeIn := rfl
@[simp] theorem State.setFifo_reports (s : State) (k : Nat) (x : FifoSt) : (s.setFifo k x).reports = s.reports := rfl
@[simp] theorem State.setFifo_notices (s : State) (k : Nat) (x : FifoSt) : (s.setFifo k x).notices = s.notices := rfl
@[simp] theorem State.setFifo_purge (s : State) (k : Nat) (x : FifoSt) : (s.setFifo k x).purge = s.purge := rfl
@[simp] theorem State.setFifo_log (s : State) (k : Nat) (x : FifoSt) : (s.setFifo k x).log = s.log := rfl
@[simp] theorem State.setFifo_taken (s : State) (k : Nat) (x : FifoSt) : (s.setFifo k x).taken = s.taken := rfl
@[simp] theorem State.setFifo_forwarded (s : State) (k : Nat) (x : FifoSt) : (s.setFifo k x).forwarded = s.forwarded := rfl
@[simp] theorem State.setFifo_ccWait (s : State) (k : Nat) (x : FifoSt) : (s.setFifo k x).ccWait = s.ccWait := rfl
@[simp] theorem State.setFifo_ccUnread (s : State) (k : Nat) (x : FifoSt) : (s.setFifo k x).ccUnread = s.ccUnread := rfl
@[simp] theorem State.setFifo_crStop (s : State) (k : Nat) (x : FifoSt) : (s.setFifo k x).crStop = s.crStop := rfl
@[simp] theorem State.setFifo_ccStop (s : State) (k : Nat) (x : FifoSt) : (s.setFifo k x).ccStop = s.ccStop := rfl
@[simp] theorem State.setFifo_streams (s : State) (k : Nat) (x : FifoSt) : (s.setFifo k x).streams = s.streams := rfl
@[simp] theorem State.setFifo_frames (s : State) (k : Nat) (x : FifoSt) : (s.setFifo k x).frames = s.frames := rfl
@[simp] theorem State.setFifo_plans (s : State) (k : Nat) (x : FifoSt) : (s.setFifo k x).plans = s.plans := rfl
@[simp] theorem State.setFifo_feeds (s : State) (k : Nat) (x : FifoSt) : (s.setFifo k x).feeds = s.feeds := rfl
@[simp] theorem State.setFifo_groups (s : State) (k : Nat) (x : FifoSt) : (s.setFifo k x).groups = s.groups := rfl
@[simp] theorem State.setFifo_two (s : State) (k : Nat) (x : FifoSt) : (s.setFifo k x).two = s.two := rfl
@[simp] theorem State.setFifo_movers (s : State) (k : Nat) (x : FifoSt) : (s.setFifo k x).movers = s.movers := rfl
@[simp] theorem State.setFifo_mvrLast (s : State) (k : Nat) (x : FifoSt) : (s.setFifo k x).mvrLast = s.mvrLast := rfl
@[simp] theorem State.setFifo_ports (s : State) (k : Nat) (x : FifoSt) : (s.setFifo k x).ports = s.ports := rfl
@[simp] theorem State.setFifo_proxy (s : State) (k : Nat) (x : FifoSt) : (s.setFifo k x).proxy = s.proxy := rfl
@[simp] theorem State.setFifo_nextTag (s : State) (k : Nat) (x : FifoSt) : (s.setFifo k x).nextTag = s.nextTag := rfl
@[simp] theorem State.setFifo_relayq (s : State) (k : Nat) (x : FifoSt) : (s.setFifo k x).relayq = s.relayq := rfl
@[simp] theorem State.setFifo_grants (s : State) (k : Nat) (x : FifoSt) : (s.setFifo k x).grants = s.grants := rfl
@[simp] theorem State.setFifo_boot (s : State) (k : Nat) (x : FifoSt) : (s.setFifo k x).boot = s.boot := rfl
@[simp] theorem State.setFifo_spdm (s : State) (k : Nat) (x : FifoSt) : (s.setFifo k x).spdm = s.spdm := rfl
@[simp] theorem State.setFifo_mon (s : State) (k : Nat) (x : FifoSt) : (s.setFifo k x).mon = s.mon := rfl
@[simp] theorem State.setFifo_fuses (s : State) (k : Nat) (x : FifoSt) : (s.setFifo k x).fuses = s.fuses := rfl
@[simp] theorem State.setFifo_fuses0 (s : State) (k : Nat) (x : FifoSt) : (s.setFifo k x).fuses0 = s.fuses0 := rfl
@[simp] theorem State.setFifo_cfgSpace (s : State) (k : Nat) (x : FifoSt) : (s.setFifo k x).cfgSpace = s.cfgSpace := rfl
@[simp] theorem State.setFifo_jtagIr (s : State) (k : Nat) (x : FifoSt) : (s.setFifo k x).jtagIr = s.jtagIr := rfl
@[simp] theorem State.setFifo_bscan (s : State) (k : Nat) (x : FifoSt) : (s.setFifo k x).bscan = s.bscan := rfl
@[simp] theorem State.setFifo_therm (s : State) (k : Nat) (x : FifoSt) : (s.setFifo k x).therm = s.therm := rfl
@[simp] theorem State.setFifo_hubHot (s : State) (k : Nat) (x : FifoSt) : (s.setFifo k x).hubHot = s.hubHot := rfl
@[simp] theorem State.setFifo_hubTemps (s : State) (k : Nat) (x : FifoSt) : (s.setFifo k x).hubTemps = s.hubTemps := rfl
@[simp] theorem State.setFifo_out (s : State) (k : Nat) (x : FifoSt) : (s.setFifo k x).out = s.out := rfl
@[simp] theorem State.setFifo_fresh (s : State) (k : Nat) (x : FifoSt) : (s.setFifo k x).fresh = s.fresh := rfl
@[simp] theorem State.setFifo_scanned (s : State) (k : Nat) (x : FifoSt) : (s.setFifo k x).scanned = s.scanned := rfl
@[simp] theorem State.setFifo_met (s : State) (k : Nat) (x : FifoSt) : (s.setFifo k x).met = s.met := rfl
@[simp] theorem State.setFifo_writes (s : State) (k : Nat) (x : FifoSt) : (s.setFifo k x).writes = s.writes := rfl
@[simp] theorem State.setFifo_slew (s : State) (k : Nat) (x : FifoSt) : (s.setFifo k x).slew = s.slew := rfl
@[simp] theorem State.setFifo_slewN (s : State) (k : Nat) (x : FifoSt) : (s.setFifo k x).slewN = s.slewN := rfl

/-! ### setStream -/

@[simp] theorem State.setStream_pending (s : State) (k : Nat) (x : StreamSt) : (s.setStream k x).pending = s.pending := rfl
@[simp] theorem State.setStream_b0 (s : State) (k : Nat) (x : StreamSt) : (s.setStream k x).b0 = s.b0 := rfl
@[simp] theorem State.setStream_timeBase (s : State) (k : Nat) (x : StreamSt) : (s.setStream k x).timeBase = s.timeBase := rfl
@[simp] theorem State.setStream_regs (s : State) (k : Nat) (x : StreamSt) : (s.setStream k x).regs = s.regs := rfl
@[simp] theorem State.setStream_mem (s : State) (k : Nat) (x : StreamSt) : (s.setStream k x).mem = s.mem := rfl
@[simp] theorem State.setStream_lost (s : State) (k : Nat) (x : StreamSt) : (s.setStream k x).lost = s.lost := rfl
@[simp] theorem State.setStream_poison (s : State) (k : Nat) (x : StreamSt) : (s.setStream k x).poison = s.poison := rfl
@[simp] theorem State.setStream_cores (s : State) (k : Nat) (x : StreamSt) : (s.setStream k x).cores = s.cores := rfl
@[simp] theorem State.setStream_clusters (s : State) (k : Nat) (x : StreamSt) : (s.setStream k x).clusters = s.clusters := rfl
@[simp] theorem State.setStream_dies (s : State) (k : Nat) (x : StreamSt) : (s.setStream k x).dies = s.dies := rfl
@[simp] theorem State.setStream_stuck (s : State) (k : Nat) (x : StreamSt) : (s.setStream k x).stuck = s.stuck := rfl
@[simp] theorem State.setStream_edgeIn (s : State) (k : Nat) (x : StreamSt) : (s.setStream k x).edgeIn = s.edgeIn := rfl
@[simp] theorem State.setStream_reports (s : State) (k : Nat) (x : StreamSt) : (s.setStream k x).reports = s.reports := rfl
@[simp] theorem State.setStream_notices (s : State) (k : Nat) (x : StreamSt) : (s.setStream k x).notices = s.notices := rfl
@[simp] theorem State.setStream_purge (s : State) (k : Nat) (x : StreamSt) : (s.setStream k x).purge = s.purge := rfl
@[simp] theorem State.setStream_log (s : State) (k : Nat) (x : StreamSt) : (s.setStream k x).log = s.log := rfl
@[simp] theorem State.setStream_taken (s : State) (k : Nat) (x : StreamSt) : (s.setStream k x).taken = s.taken := rfl
@[simp] theorem State.setStream_forwarded (s : State) (k : Nat) (x : StreamSt) : (s.setStream k x).forwarded = s.forwarded := rfl
@[simp] theorem State.setStream_ccWait (s : State) (k : Nat) (x : StreamSt) : (s.setStream k x).ccWait = s.ccWait := rfl
@[simp] theorem State.setStream_ccUnread (s : State) (k : Nat) (x : StreamSt) : (s.setStream k x).ccUnread = s.ccUnread := rfl
@[simp] theorem State.setStream_crStop (s : State) (k : Nat) (x : StreamSt) : (s.setStream k x).crStop = s.crStop := rfl
@[simp] theorem State.setStream_ccStop (s : State) (k : Nat) (x : StreamSt) : (s.setStream k x).ccStop = s.ccStop := rfl
@[simp] theorem State.setStream_fifos (s : State) (k : Nat) (x : StreamSt) : (s.setStream k x).fifos = s.fifos := rfl
@[simp] theorem State.setStream_frames (s : State) (k : Nat) (x : StreamSt) : (s.setStream k x).frames = s.frames := rfl
@[simp] theorem State.setStream_plans (s : State) (k : Nat) (x : StreamSt) : (s.setStream k x).plans = s.plans := rfl
@[simp] theorem State.setStream_feeds (s : State) (k : Nat) (x : StreamSt) : (s.setStream k x).feeds = s.feeds := rfl
@[simp] theorem State.setStream_groups (s : State) (k : Nat) (x : StreamSt) : (s.setStream k x).groups = s.groups := rfl
@[simp] theorem State.setStream_two (s : State) (k : Nat) (x : StreamSt) : (s.setStream k x).two = s.two := rfl
@[simp] theorem State.setStream_movers (s : State) (k : Nat) (x : StreamSt) : (s.setStream k x).movers = s.movers := rfl
@[simp] theorem State.setStream_mvrLast (s : State) (k : Nat) (x : StreamSt) : (s.setStream k x).mvrLast = s.mvrLast := rfl
@[simp] theorem State.setStream_ports (s : State) (k : Nat) (x : StreamSt) : (s.setStream k x).ports = s.ports := rfl
@[simp] theorem State.setStream_proxy (s : State) (k : Nat) (x : StreamSt) : (s.setStream k x).proxy = s.proxy := rfl
@[simp] theorem State.setStream_nextTag (s : State) (k : Nat) (x : StreamSt) : (s.setStream k x).nextTag = s.nextTag := rfl
@[simp] theorem State.setStream_relayq (s : State) (k : Nat) (x : StreamSt) : (s.setStream k x).relayq = s.relayq := rfl
@[simp] theorem State.setStream_grants (s : State) (k : Nat) (x : StreamSt) : (s.setStream k x).grants = s.grants := rfl
@[simp] theorem State.setStream_boot (s : State) (k : Nat) (x : StreamSt) : (s.setStream k x).boot = s.boot := rfl
@[simp] theorem State.setStream_spdm (s : State) (k : Nat) (x : StreamSt) : (s.setStream k x).spdm = s.spdm := rfl
@[simp] theorem State.setStream_mon (s : State) (k : Nat) (x : StreamSt) : (s.setStream k x).mon = s.mon := rfl
@[simp] theorem State.setStream_fuses (s : State) (k : Nat) (x : StreamSt) : (s.setStream k x).fuses = s.fuses := rfl
@[simp] theorem State.setStream_fuses0 (s : State) (k : Nat) (x : StreamSt) : (s.setStream k x).fuses0 = s.fuses0 := rfl
@[simp] theorem State.setStream_cfgSpace (s : State) (k : Nat) (x : StreamSt) : (s.setStream k x).cfgSpace = s.cfgSpace := rfl
@[simp] theorem State.setStream_jtagIr (s : State) (k : Nat) (x : StreamSt) : (s.setStream k x).jtagIr = s.jtagIr := rfl
@[simp] theorem State.setStream_bscan (s : State) (k : Nat) (x : StreamSt) : (s.setStream k x).bscan = s.bscan := rfl
@[simp] theorem State.setStream_therm (s : State) (k : Nat) (x : StreamSt) : (s.setStream k x).therm = s.therm := rfl
@[simp] theorem State.setStream_hubHot (s : State) (k : Nat) (x : StreamSt) : (s.setStream k x).hubHot = s.hubHot := rfl
@[simp] theorem State.setStream_hubTemps (s : State) (k : Nat) (x : StreamSt) : (s.setStream k x).hubTemps = s.hubTemps := rfl
@[simp] theorem State.setStream_out (s : State) (k : Nat) (x : StreamSt) : (s.setStream k x).out = s.out := rfl
@[simp] theorem State.setStream_fresh (s : State) (k : Nat) (x : StreamSt) : (s.setStream k x).fresh = s.fresh := rfl
@[simp] theorem State.setStream_scanned (s : State) (k : Nat) (x : StreamSt) : (s.setStream k x).scanned = s.scanned := rfl
@[simp] theorem State.setStream_met (s : State) (k : Nat) (x : StreamSt) : (s.setStream k x).met = s.met := rfl
@[simp] theorem State.setStream_writes (s : State) (k : Nat) (x : StreamSt) : (s.setStream k x).writes = s.writes := rfl
@[simp] theorem State.setStream_slew (s : State) (k : Nat) (x : StreamSt) : (s.setStream k x).slew = s.slew := rfl
@[simp] theorem State.setStream_slewN (s : State) (k : Nat) (x : StreamSt) : (s.setStream k x).slewN = s.slewN := rfl

/-! ### setFeed -/

@[simp] theorem State.setFeed_pending (s : State) (p : Nat) (x : FeedSt) : (s.setFeed p x).pending = s.pending := rfl
@[simp] theorem State.setFeed_b0 (s : State) (p : Nat) (x : FeedSt) : (s.setFeed p x).b0 = s.b0 := rfl
@[simp] theorem State.setFeed_timeBase (s : State) (p : Nat) (x : FeedSt) : (s.setFeed p x).timeBase = s.timeBase := rfl
@[simp] theorem State.setFeed_regs (s : State) (p : Nat) (x : FeedSt) : (s.setFeed p x).regs = s.regs := rfl
@[simp] theorem State.setFeed_mem (s : State) (p : Nat) (x : FeedSt) : (s.setFeed p x).mem = s.mem := rfl
@[simp] theorem State.setFeed_lost (s : State) (p : Nat) (x : FeedSt) : (s.setFeed p x).lost = s.lost := rfl
@[simp] theorem State.setFeed_poison (s : State) (p : Nat) (x : FeedSt) : (s.setFeed p x).poison = s.poison := rfl
@[simp] theorem State.setFeed_cores (s : State) (p : Nat) (x : FeedSt) : (s.setFeed p x).cores = s.cores := rfl
@[simp] theorem State.setFeed_clusters (s : State) (p : Nat) (x : FeedSt) : (s.setFeed p x).clusters = s.clusters := rfl
@[simp] theorem State.setFeed_dies (s : State) (p : Nat) (x : FeedSt) : (s.setFeed p x).dies = s.dies := rfl
@[simp] theorem State.setFeed_stuck (s : State) (p : Nat) (x : FeedSt) : (s.setFeed p x).stuck = s.stuck := rfl
@[simp] theorem State.setFeed_edgeIn (s : State) (p : Nat) (x : FeedSt) : (s.setFeed p x).edgeIn = s.edgeIn := rfl
@[simp] theorem State.setFeed_reports (s : State) (p : Nat) (x : FeedSt) : (s.setFeed p x).reports = s.reports := rfl
@[simp] theorem State.setFeed_notices (s : State) (p : Nat) (x : FeedSt) : (s.setFeed p x).notices = s.notices := rfl
@[simp] theorem State.setFeed_purge (s : State) (p : Nat) (x : FeedSt) : (s.setFeed p x).purge = s.purge := rfl
@[simp] theorem State.setFeed_log (s : State) (p : Nat) (x : FeedSt) : (s.setFeed p x).log = s.log := rfl
@[simp] theorem State.setFeed_taken (s : State) (p : Nat) (x : FeedSt) : (s.setFeed p x).taken = s.taken := rfl
@[simp] theorem State.setFeed_forwarded (s : State) (p : Nat) (x : FeedSt) : (s.setFeed p x).forwarded = s.forwarded := rfl
@[simp] theorem State.setFeed_ccWait (s : State) (p : Nat) (x : FeedSt) : (s.setFeed p x).ccWait = s.ccWait := rfl
@[simp] theorem State.setFeed_ccUnread (s : State) (p : Nat) (x : FeedSt) : (s.setFeed p x).ccUnread = s.ccUnread := rfl
@[simp] theorem State.setFeed_crStop (s : State) (p : Nat) (x : FeedSt) : (s.setFeed p x).crStop = s.crStop := rfl
@[simp] theorem State.setFeed_ccStop (s : State) (p : Nat) (x : FeedSt) : (s.setFeed p x).ccStop = s.ccStop := rfl
@[simp] theorem State.setFeed_fifos (s : State) (p : Nat) (x : FeedSt) : (s.setFeed p x).fifos = s.fifos := rfl
@[simp] theorem State.setFeed_streams (s : State) (p : Nat) (x : FeedSt) : (s.setFeed p x).streams = s.streams := rfl
@[simp] theorem State.setFeed_frames (s : State) (p : Nat) (x : FeedSt) : (s.setFeed p x).frames = s.frames := rfl
@[simp] theorem State.setFeed_plans (s : State) (p : Nat) (x : FeedSt) : (s.setFeed p x).plans = s.plans := rfl
@[simp] theorem State.setFeed_groups (s : State) (p : Nat) (x : FeedSt) : (s.setFeed p x).groups = s.groups := rfl
@[simp] theorem State.setFeed_two (s : State) (p : Nat) (x : FeedSt) : (s.setFeed p x).two = s.two := rfl
@[simp] theorem State.setFeed_movers (s : State) (p : Nat) (x : FeedSt) : (s.setFeed p x).movers = s.movers := rfl
@[simp] theorem State.setFeed_mvrLast (s : State) (p : Nat) (x : FeedSt) : (s.setFeed p x).mvrLast = s.mvrLast := rfl
@[simp] theorem State.setFeed_ports (s : State) (p : Nat) (x : FeedSt) : (s.setFeed p x).ports = s.ports := rfl
@[simp] theorem State.setFeed_proxy (s : State) (p : Nat) (x : FeedSt) : (s.setFeed p x).proxy = s.proxy := rfl
@[simp] theorem State.setFeed_nextTag (s : State) (p : Nat) (x : FeedSt) : (s.setFeed p x).nextTag = s.nextTag := rfl
@[simp] theorem State.setFeed_relayq (s : State) (p : Nat) (x : FeedSt) : (s.setFeed p x).relayq = s.relayq := rfl
@[simp] theorem State.setFeed_grants (s : State) (p : Nat) (x : FeedSt) : (s.setFeed p x).grants = s.grants := rfl
@[simp] theorem State.setFeed_boot (s : State) (p : Nat) (x : FeedSt) : (s.setFeed p x).boot = s.boot := rfl
@[simp] theorem State.setFeed_spdm (s : State) (p : Nat) (x : FeedSt) : (s.setFeed p x).spdm = s.spdm := rfl
@[simp] theorem State.setFeed_mon (s : State) (p : Nat) (x : FeedSt) : (s.setFeed p x).mon = s.mon := rfl
@[simp] theorem State.setFeed_fuses (s : State) (p : Nat) (x : FeedSt) : (s.setFeed p x).fuses = s.fuses := rfl
@[simp] theorem State.setFeed_fuses0 (s : State) (p : Nat) (x : FeedSt) : (s.setFeed p x).fuses0 = s.fuses0 := rfl
@[simp] theorem State.setFeed_cfgSpace (s : State) (p : Nat) (x : FeedSt) : (s.setFeed p x).cfgSpace = s.cfgSpace := rfl
@[simp] theorem State.setFeed_jtagIr (s : State) (p : Nat) (x : FeedSt) : (s.setFeed p x).jtagIr = s.jtagIr := rfl
@[simp] theorem State.setFeed_bscan (s : State) (p : Nat) (x : FeedSt) : (s.setFeed p x).bscan = s.bscan := rfl
@[simp] theorem State.setFeed_therm (s : State) (p : Nat) (x : FeedSt) : (s.setFeed p x).therm = s.therm := rfl
@[simp] theorem State.setFeed_hubHot (s : State) (p : Nat) (x : FeedSt) : (s.setFeed p x).hubHot = s.hubHot := rfl
@[simp] theorem State.setFeed_hubTemps (s : State) (p : Nat) (x : FeedSt) : (s.setFeed p x).hubTemps = s.hubTemps := rfl
@[simp] theorem State.setFeed_out (s : State) (p : Nat) (x : FeedSt) : (s.setFeed p x).out = s.out := rfl
@[simp] theorem State.setFeed_fresh (s : State) (p : Nat) (x : FeedSt) : (s.setFeed p x).fresh = s.fresh := rfl
@[simp] theorem State.setFeed_scanned (s : State) (p : Nat) (x : FeedSt) : (s.setFeed p x).scanned = s.scanned := rfl
@[simp] theorem State.setFeed_met (s : State) (p : Nat) (x : FeedSt) : (s.setFeed p x).met = s.met := rfl
@[simp] theorem State.setFeed_writes (s : State) (p : Nat) (x : FeedSt) : (s.setFeed p x).writes = s.writes := rfl
@[simp] theorem State.setFeed_slew (s : State) (p : Nat) (x : FeedSt) : (s.setFeed p x).slew = s.slew := rfl
@[simp] theorem State.setFeed_slewN (s : State) (p : Nat) (x : FeedSt) : (s.setFeed p x).slewN = s.slewN := rfl

/-! ### setMvr -/

@[simp] theorem State.setMvr_pending (s : State) (u n : Nat) (x : MvrSt) : (s.setMvr u n x).pending = s.pending := rfl
@[simp] theorem State.setMvr_b0 (s : State) (u n : Nat) (x : MvrSt) : (s.setMvr u n x).b0 = s.b0 := rfl
@[simp] theorem State.setMvr_timeBase (s : State) (u n : Nat) (x : MvrSt) : (s.setMvr u n x).timeBase = s.timeBase := rfl
@[simp] theorem State.setMvr_regs (s : State) (u n : Nat) (x : MvrSt) : (s.setMvr u n x).regs = s.regs := rfl
@[simp] theorem State.setMvr_mem (s : State) (u n : Nat) (x : MvrSt) : (s.setMvr u n x).mem = s.mem := rfl
@[simp] theorem State.setMvr_lost (s : State) (u n : Nat) (x : MvrSt) : (s.setMvr u n x).lost = s.lost := rfl
@[simp] theorem State.setMvr_poison (s : State) (u n : Nat) (x : MvrSt) : (s.setMvr u n x).poison = s.poison := rfl
@[simp] theorem State.setMvr_cores (s : State) (u n : Nat) (x : MvrSt) : (s.setMvr u n x).cores = s.cores := rfl
@[simp] theorem State.setMvr_clusters (s : State) (u n : Nat) (x : MvrSt) : (s.setMvr u n x).clusters = s.clusters := rfl
@[simp] theorem State.setMvr_dies (s : State) (u n : Nat) (x : MvrSt) : (s.setMvr u n x).dies = s.dies := rfl
@[simp] theorem State.setMvr_stuck (s : State) (u n : Nat) (x : MvrSt) : (s.setMvr u n x).stuck = s.stuck := rfl
@[simp] theorem State.setMvr_edgeIn (s : State) (u n : Nat) (x : MvrSt) : (s.setMvr u n x).edgeIn = s.edgeIn := rfl
@[simp] theorem State.setMvr_reports (s : State) (u n : Nat) (x : MvrSt) : (s.setMvr u n x).reports = s.reports := rfl
@[simp] theorem State.setMvr_notices (s : State) (u n : Nat) (x : MvrSt) : (s.setMvr u n x).notices = s.notices := rfl
@[simp] theorem State.setMvr_purge (s : State) (u n : Nat) (x : MvrSt) : (s.setMvr u n x).purge = s.purge := rfl
@[simp] theorem State.setMvr_log (s : State) (u n : Nat) (x : MvrSt) : (s.setMvr u n x).log = s.log := rfl
@[simp] theorem State.setMvr_taken (s : State) (u n : Nat) (x : MvrSt) : (s.setMvr u n x).taken = s.taken := rfl
@[simp] theorem State.setMvr_forwarded (s : State) (u n : Nat) (x : MvrSt) : (s.setMvr u n x).forwarded = s.forwarded := rfl
@[simp] theorem State.setMvr_ccWait (s : State) (u n : Nat) (x : MvrSt) : (s.setMvr u n x).ccWait = s.ccWait := rfl
@[simp] theorem State.setMvr_ccUnread (s : State) (u n : Nat) (x : MvrSt) : (s.setMvr u n x).ccUnread = s.ccUnread := rfl
@[simp] theorem State.setMvr_crStop (s : State) (u n : Nat) (x : MvrSt) : (s.setMvr u n x).crStop = s.crStop := rfl
@[simp] theorem State.setMvr_ccStop (s : State) (u n : Nat) (x : MvrSt) : (s.setMvr u n x).ccStop = s.ccStop := rfl
@[simp] theorem State.setMvr_fifos (s : State) (u n : Nat) (x : MvrSt) : (s.setMvr u n x).fifos = s.fifos := rfl
@[simp] theorem State.setMvr_streams (s : State) (u n : Nat) (x : MvrSt) : (s.setMvr u n x).streams = s.streams := rfl
@[simp] theorem State.setMvr_frames (s : State) (u n : Nat) (x : MvrSt) : (s.setMvr u n x).frames = s.frames := rfl
@[simp] theorem State.setMvr_plans (s : State) (u n : Nat) (x : MvrSt) : (s.setMvr u n x).plans = s.plans := rfl
@[simp] theorem State.setMvr_feeds (s : State) (u n : Nat) (x : MvrSt) : (s.setMvr u n x).feeds = s.feeds := rfl
@[simp] theorem State.setMvr_groups (s : State) (u n : Nat) (x : MvrSt) : (s.setMvr u n x).groups = s.groups := rfl
@[simp] theorem State.setMvr_two (s : State) (u n : Nat) (x : MvrSt) : (s.setMvr u n x).two = s.two := rfl
@[simp] theorem State.setMvr_mvrLast (s : State) (u n : Nat) (x : MvrSt) : (s.setMvr u n x).mvrLast = s.mvrLast := rfl
@[simp] theorem State.setMvr_ports (s : State) (u n : Nat) (x : MvrSt) : (s.setMvr u n x).ports = s.ports := rfl
@[simp] theorem State.setMvr_proxy (s : State) (u n : Nat) (x : MvrSt) : (s.setMvr u n x).proxy = s.proxy := rfl
@[simp] theorem State.setMvr_nextTag (s : State) (u n : Nat) (x : MvrSt) : (s.setMvr u n x).nextTag = s.nextTag := rfl
@[simp] theorem State.setMvr_relayq (s : State) (u n : Nat) (x : MvrSt) : (s.setMvr u n x).relayq = s.relayq := rfl
@[simp] theorem State.setMvr_grants (s : State) (u n : Nat) (x : MvrSt) : (s.setMvr u n x).grants = s.grants := rfl
@[simp] theorem State.setMvr_boot (s : State) (u n : Nat) (x : MvrSt) : (s.setMvr u n x).boot = s.boot := rfl
@[simp] theorem State.setMvr_spdm (s : State) (u n : Nat) (x : MvrSt) : (s.setMvr u n x).spdm = s.spdm := rfl
@[simp] theorem State.setMvr_mon (s : State) (u n : Nat) (x : MvrSt) : (s.setMvr u n x).mon = s.mon := rfl
@[simp] theorem State.setMvr_fuses (s : State) (u n : Nat) (x : MvrSt) : (s.setMvr u n x).fuses = s.fuses := rfl
@[simp] theorem State.setMvr_fuses0 (s : State) (u n : Nat) (x : MvrSt) : (s.setMvr u n x).fuses0 = s.fuses0 := rfl
@[simp] theorem State.setMvr_cfgSpace (s : State) (u n : Nat) (x : MvrSt) : (s.setMvr u n x).cfgSpace = s.cfgSpace := rfl
@[simp] theorem State.setMvr_jtagIr (s : State) (u n : Nat) (x : MvrSt) : (s.setMvr u n x).jtagIr = s.jtagIr := rfl
@[simp] theorem State.setMvr_bscan (s : State) (u n : Nat) (x : MvrSt) : (s.setMvr u n x).bscan = s.bscan := rfl
@[simp] theorem State.setMvr_therm (s : State) (u n : Nat) (x : MvrSt) : (s.setMvr u n x).therm = s.therm := rfl
@[simp] theorem State.setMvr_hubHot (s : State) (u n : Nat) (x : MvrSt) : (s.setMvr u n x).hubHot = s.hubHot := rfl
@[simp] theorem State.setMvr_hubTemps (s : State) (u n : Nat) (x : MvrSt) : (s.setMvr u n x).hubTemps = s.hubTemps := rfl
@[simp] theorem State.setMvr_out (s : State) (u n : Nat) (x : MvrSt) : (s.setMvr u n x).out = s.out := rfl
@[simp] theorem State.setMvr_fresh (s : State) (u n : Nat) (x : MvrSt) : (s.setMvr u n x).fresh = s.fresh := rfl
@[simp] theorem State.setMvr_scanned (s : State) (u n : Nat) (x : MvrSt) : (s.setMvr u n x).scanned = s.scanned := rfl
@[simp] theorem State.setMvr_met (s : State) (u n : Nat) (x : MvrSt) : (s.setMvr u n x).met = s.met := rfl
@[simp] theorem State.setMvr_writes (s : State) (u n : Nat) (x : MvrSt) : (s.setMvr u n x).writes = s.writes := rfl
@[simp] theorem State.setMvr_slew (s : State) (u n : Nat) (x : MvrSt) : (s.setMvr u n x).slew = s.slew := rfl
@[simp] theorem State.setMvr_slewN (s : State) (u n : Nat) (x : MvrSt) : (s.setMvr u n x).slewN = s.slewN := rfl

/-! ### setPort -/

@[simp] theorem State.setPort_pending (s : State) (p : Nat) (x : PortSt) : (s.setPort p x).pending = s.pending := rfl
@[simp] theorem State.setPort_b0 (s : State) (p : Nat) (x : PortSt) : (s.setPort p x).b0 = s.b0 := rfl
@[simp] theorem State.setPort_timeBase (s : State) (p : Nat) (x : PortSt) : (s.setPort p x).timeBase = s.timeBase := rfl
@[simp] theorem State.setPort_regs (s : State) (p : Nat) (x : PortSt) : (s.setPort p x).regs = s.regs := rfl
@[simp] theorem State.setPort_mem (s : State) (p : Nat) (x : PortSt) : (s.setPort p x).mem = s.mem := rfl
@[simp] theorem State.setPort_lost (s : State) (p : Nat) (x : PortSt) : (s.setPort p x).lost = s.lost := rfl
@[simp] theorem State.setPort_poison (s : State) (p : Nat) (x : PortSt) : (s.setPort p x).poison = s.poison := rfl
@[simp] theorem State.setPort_cores (s : State) (p : Nat) (x : PortSt) : (s.setPort p x).cores = s.cores := rfl
@[simp] theorem State.setPort_clusters (s : State) (p : Nat) (x : PortSt) : (s.setPort p x).clusters = s.clusters := rfl
@[simp] theorem State.setPort_dies (s : State) (p : Nat) (x : PortSt) : (s.setPort p x).dies = s.dies := rfl
@[simp] theorem State.setPort_stuck (s : State) (p : Nat) (x : PortSt) : (s.setPort p x).stuck = s.stuck := rfl
@[simp] theorem State.setPort_edgeIn (s : State) (p : Nat) (x : PortSt) : (s.setPort p x).edgeIn = s.edgeIn := rfl
@[simp] theorem State.setPort_reports (s : State) (p : Nat) (x : PortSt) : (s.setPort p x).reports = s.reports := rfl
@[simp] theorem State.setPort_notices (s : State) (p : Nat) (x : PortSt) : (s.setPort p x).notices = s.notices := rfl
@[simp] theorem State.setPort_purge (s : State) (p : Nat) (x : PortSt) : (s.setPort p x).purge = s.purge := rfl
@[simp] theorem State.setPort_log (s : State) (p : Nat) (x : PortSt) : (s.setPort p x).log = s.log := rfl
@[simp] theorem State.setPort_taken (s : State) (p : Nat) (x : PortSt) : (s.setPort p x).taken = s.taken := rfl
@[simp] theorem State.setPort_forwarded (s : State) (p : Nat) (x : PortSt) : (s.setPort p x).forwarded = s.forwarded := rfl
@[simp] theorem State.setPort_ccWait (s : State) (p : Nat) (x : PortSt) : (s.setPort p x).ccWait = s.ccWait := rfl
@[simp] theorem State.setPort_ccUnread (s : State) (p : Nat) (x : PortSt) : (s.setPort p x).ccUnread = s.ccUnread := rfl
@[simp] theorem State.setPort_crStop (s : State) (p : Nat) (x : PortSt) : (s.setPort p x).crStop = s.crStop := rfl
@[simp] theorem State.setPort_ccStop (s : State) (p : Nat) (x : PortSt) : (s.setPort p x).ccStop = s.ccStop := rfl
@[simp] theorem State.setPort_fifos (s : State) (p : Nat) (x : PortSt) : (s.setPort p x).fifos = s.fifos := rfl
@[simp] theorem State.setPort_streams (s : State) (p : Nat) (x : PortSt) : (s.setPort p x).streams = s.streams := rfl
@[simp] theorem State.setPort_frames (s : State) (p : Nat) (x : PortSt) : (s.setPort p x).frames = s.frames := rfl
@[simp] theorem State.setPort_plans (s : State) (p : Nat) (x : PortSt) : (s.setPort p x).plans = s.plans := rfl
@[simp] theorem State.setPort_feeds (s : State) (p : Nat) (x : PortSt) : (s.setPort p x).feeds = s.feeds := rfl
@[simp] theorem State.setPort_groups (s : State) (p : Nat) (x : PortSt) : (s.setPort p x).groups = s.groups := rfl
@[simp] theorem State.setPort_two (s : State) (p : Nat) (x : PortSt) : (s.setPort p x).two = s.two := rfl
@[simp] theorem State.setPort_movers (s : State) (p : Nat) (x : PortSt) : (s.setPort p x).movers = s.movers := rfl
@[simp] theorem State.setPort_mvrLast (s : State) (p : Nat) (x : PortSt) : (s.setPort p x).mvrLast = s.mvrLast := rfl
@[simp] theorem State.setPort_proxy (s : State) (p : Nat) (x : PortSt) : (s.setPort p x).proxy = s.proxy := rfl
@[simp] theorem State.setPort_nextTag (s : State) (p : Nat) (x : PortSt) : (s.setPort p x).nextTag = s.nextTag := rfl
@[simp] theorem State.setPort_relayq (s : State) (p : Nat) (x : PortSt) : (s.setPort p x).relayq = s.relayq := rfl
@[simp] theorem State.setPort_grants (s : State) (p : Nat) (x : PortSt) : (s.setPort p x).grants = s.grants := rfl
@[simp] theorem State.setPort_boot (s : State) (p : Nat) (x : PortSt) : (s.setPort p x).boot = s.boot := rfl
@[simp] theorem State.setPort_spdm (s : State) (p : Nat) (x : PortSt) : (s.setPort p x).spdm = s.spdm := rfl
@[simp] theorem State.setPort_mon (s : State) (p : Nat) (x : PortSt) : (s.setPort p x).mon = s.mon := rfl
@[simp] theorem State.setPort_fuses (s : State) (p : Nat) (x : PortSt) : (s.setPort p x).fuses = s.fuses := rfl
@[simp] theorem State.setPort_fuses0 (s : State) (p : Nat) (x : PortSt) : (s.setPort p x).fuses0 = s.fuses0 := rfl
@[simp] theorem State.setPort_cfgSpace (s : State) (p : Nat) (x : PortSt) : (s.setPort p x).cfgSpace = s.cfgSpace := rfl
@[simp] theorem State.setPort_jtagIr (s : State) (p : Nat) (x : PortSt) : (s.setPort p x).jtagIr = s.jtagIr := rfl
@[simp] theorem State.setPort_bscan (s : State) (p : Nat) (x : PortSt) : (s.setPort p x).bscan = s.bscan := rfl
@[simp] theorem State.setPort_therm (s : State) (p : Nat) (x : PortSt) : (s.setPort p x).therm = s.therm := rfl
@[simp] theorem State.setPort_hubHot (s : State) (p : Nat) (x : PortSt) : (s.setPort p x).hubHot = s.hubHot := rfl
@[simp] theorem State.setPort_hubTemps (s : State) (p : Nat) (x : PortSt) : (s.setPort p x).hubTemps = s.hubTemps := rfl
@[simp] theorem State.setPort_out (s : State) (p : Nat) (x : PortSt) : (s.setPort p x).out = s.out := rfl
@[simp] theorem State.setPort_fresh (s : State) (p : Nat) (x : PortSt) : (s.setPort p x).fresh = s.fresh := rfl
@[simp] theorem State.setPort_scanned (s : State) (p : Nat) (x : PortSt) : (s.setPort p x).scanned = s.scanned := rfl
@[simp] theorem State.setPort_met (s : State) (p : Nat) (x : PortSt) : (s.setPort p x).met = s.met := rfl
@[simp] theorem State.setPort_writes (s : State) (p : Nat) (x : PortSt) : (s.setPort p x).writes = s.writes := rfl
@[simp] theorem State.setPort_slew (s : State) (p : Nat) (x : PortSt) : (s.setPort p x).slew = s.slew := rfl
@[simp] theorem State.setPort_slewN (s : State) (p : Nat) (x : PortSt) : (s.setPort p x).slewN = s.slewN := rfl

/-! ### setPlan -/

@[simp] theorem State.setPlan_pending (s : State) (p : Nat) (x : PlanSt) : (s.setPlan p x).pending = s.pending := rfl
@[simp] theorem State.setPlan_b0 (s : State) (p : Nat) (x : PlanSt) : (s.setPlan p x).b0 = s.b0 := rfl
@[simp] theorem State.setPlan_timeBase (s : State) (p : Nat) (x : PlanSt) : (s.setPlan p x).timeBase = s.timeBase := rfl
@[simp] theorem State.setPlan_regs (s : State) (p : Nat) (x : PlanSt) : (s.setPlan p x).regs = s.regs := rfl
@[simp] theorem State.setPlan_mem (s : State) (p : Nat) (x : PlanSt) : (s.setPlan p x).mem = s.mem := rfl
@[simp] theorem State.setPlan_lost (s : State) (p : Nat) (x : PlanSt) : (s.setPlan p x).lost = s.lost := rfl
@[simp] theorem State.setPlan_poison (s : State) (p : Nat) (x : PlanSt) : (s.setPlan p x).poison = s.poison := rfl
@[simp] theorem State.setPlan_cores (s : State) (p : Nat) (x : PlanSt) : (s.setPlan p x).cores = s.cores := rfl
@[simp] theorem State.setPlan_clusters (s : State) (p : Nat) (x : PlanSt) : (s.setPlan p x).clusters = s.clusters := rfl
@[simp] theorem State.setPlan_dies (s : State) (p : Nat) (x : PlanSt) : (s.setPlan p x).dies = s.dies := rfl
@[simp] theorem State.setPlan_stuck (s : State) (p : Nat) (x : PlanSt) : (s.setPlan p x).stuck = s.stuck := rfl
@[simp] theorem State.setPlan_edgeIn (s : State) (p : Nat) (x : PlanSt) : (s.setPlan p x).edgeIn = s.edgeIn := rfl
@[simp] theorem State.setPlan_reports (s : State) (p : Nat) (x : PlanSt) : (s.setPlan p x).reports = s.reports := rfl
@[simp] theorem State.setPlan_notices (s : State) (p : Nat) (x : PlanSt) : (s.setPlan p x).notices = s.notices := rfl
@[simp] theorem State.setPlan_purge (s : State) (p : Nat) (x : PlanSt) : (s.setPlan p x).purge = s.purge := rfl
@[simp] theorem State.setPlan_log (s : State) (p : Nat) (x : PlanSt) : (s.setPlan p x).log = s.log := rfl
@[simp] theorem State.setPlan_taken (s : State) (p : Nat) (x : PlanSt) : (s.setPlan p x).taken = s.taken := rfl
@[simp] theorem State.setPlan_forwarded (s : State) (p : Nat) (x : PlanSt) : (s.setPlan p x).forwarded = s.forwarded := rfl
@[simp] theorem State.setPlan_ccWait (s : State) (p : Nat) (x : PlanSt) : (s.setPlan p x).ccWait = s.ccWait := rfl
@[simp] theorem State.setPlan_ccUnread (s : State) (p : Nat) (x : PlanSt) : (s.setPlan p x).ccUnread = s.ccUnread := rfl
@[simp] theorem State.setPlan_crStop (s : State) (p : Nat) (x : PlanSt) : (s.setPlan p x).crStop = s.crStop := rfl
@[simp] theorem State.setPlan_ccStop (s : State) (p : Nat) (x : PlanSt) : (s.setPlan p x).ccStop = s.ccStop := rfl
@[simp] theorem State.setPlan_fifos (s : State) (p : Nat) (x : PlanSt) : (s.setPlan p x).fifos = s.fifos := rfl
@[simp] theorem State.setPlan_streams (s : State) (p : Nat) (x : PlanSt) : (s.setPlan p x).streams = s.streams := rfl
@[simp] theorem State.setPlan_frames (s : State) (p : Nat) (x : PlanSt) : (s.setPlan p x).frames = s.frames := rfl
@[simp] theorem State.setPlan_feeds (s : State) (p : Nat) (x : PlanSt) : (s.setPlan p x).feeds = s.feeds := rfl
@[simp] theorem State.setPlan_groups (s : State) (p : Nat) (x : PlanSt) : (s.setPlan p x).groups = s.groups := rfl
@[simp] theorem State.setPlan_two (s : State) (p : Nat) (x : PlanSt) : (s.setPlan p x).two = s.two := rfl
@[simp] theorem State.setPlan_movers (s : State) (p : Nat) (x : PlanSt) : (s.setPlan p x).movers = s.movers := rfl
@[simp] theorem State.setPlan_mvrLast (s : State) (p : Nat) (x : PlanSt) : (s.setPlan p x).mvrLast = s.mvrLast := rfl
@[simp] theorem State.setPlan_ports (s : State) (p : Nat) (x : PlanSt) : (s.setPlan p x).ports = s.ports := rfl
@[simp] theorem State.setPlan_proxy (s : State) (p : Nat) (x : PlanSt) : (s.setPlan p x).proxy = s.proxy := rfl
@[simp] theorem State.setPlan_nextTag (s : State) (p : Nat) (x : PlanSt) : (s.setPlan p x).nextTag = s.nextTag := rfl
@[simp] theorem State.setPlan_relayq (s : State) (p : Nat) (x : PlanSt) : (s.setPlan p x).relayq = s.relayq := rfl
@[simp] theorem State.setPlan_grants (s : State) (p : Nat) (x : PlanSt) : (s.setPlan p x).grants = s.grants := rfl
@[simp] theorem State.setPlan_boot (s : State) (p : Nat) (x : PlanSt) : (s.setPlan p x).boot = s.boot := rfl
@[simp] theorem State.setPlan_spdm (s : State) (p : Nat) (x : PlanSt) : (s.setPlan p x).spdm = s.spdm := rfl
@[simp] theorem State.setPlan_mon (s : State) (p : Nat) (x : PlanSt) : (s.setPlan p x).mon = s.mon := rfl
@[simp] theorem State.setPlan_fuses (s : State) (p : Nat) (x : PlanSt) : (s.setPlan p x).fuses = s.fuses := rfl
@[simp] theorem State.setPlan_fuses0 (s : State) (p : Nat) (x : PlanSt) : (s.setPlan p x).fuses0 = s.fuses0 := rfl
@[simp] theorem State.setPlan_cfgSpace (s : State) (p : Nat) (x : PlanSt) : (s.setPlan p x).cfgSpace = s.cfgSpace := rfl
@[simp] theorem State.setPlan_jtagIr (s : State) (p : Nat) (x : PlanSt) : (s.setPlan p x).jtagIr = s.jtagIr := rfl
@[simp] theorem State.setPlan_bscan (s : State) (p : Nat) (x : PlanSt) : (s.setPlan p x).bscan = s.bscan := rfl
@[simp] theorem State.setPlan_therm (s : State) (p : Nat) (x : PlanSt) : (s.setPlan p x).therm = s.therm := rfl
@[simp] theorem State.setPlan_hubHot (s : State) (p : Nat) (x : PlanSt) : (s.setPlan p x).hubHot = s.hubHot := rfl
@[simp] theorem State.setPlan_hubTemps (s : State) (p : Nat) (x : PlanSt) : (s.setPlan p x).hubTemps = s.hubTemps := rfl
@[simp] theorem State.setPlan_out (s : State) (p : Nat) (x : PlanSt) : (s.setPlan p x).out = s.out := rfl
@[simp] theorem State.setPlan_fresh (s : State) (p : Nat) (x : PlanSt) : (s.setPlan p x).fresh = s.fresh := rfl
@[simp] theorem State.setPlan_scanned (s : State) (p : Nat) (x : PlanSt) : (s.setPlan p x).scanned = s.scanned := rfl
@[simp] theorem State.setPlan_met (s : State) (p : Nat) (x : PlanSt) : (s.setPlan p x).met = s.met := rfl
@[simp] theorem State.setPlan_writes (s : State) (p : Nat) (x : PlanSt) : (s.setPlan p x).writes = s.writes := rfl
@[simp] theorem State.setPlan_slew (s : State) (p : Nat) (x : PlanSt) : (s.setPlan p x).slew = s.slew := rfl
@[simp] theorem State.setPlan_slewN (s : State) (p : Nat) (x : PlanSt) : (s.setPlan p x).slewN = s.slewN := rfl

/-! ### emit -/

@[simp] theorem State.emit_pending (s : State) (o : Out) : (s.emit o).pending = s.pending := rfl
@[simp] theorem State.emit_b0 (s : State) (o : Out) : (s.emit o).b0 = s.b0 := rfl
@[simp] theorem State.emit_timeBase (s : State) (o : Out) : (s.emit o).timeBase = s.timeBase := rfl
@[simp] theorem State.emit_regs (s : State) (o : Out) : (s.emit o).regs = s.regs := rfl
@[simp] theorem State.emit_mem (s : State) (o : Out) : (s.emit o).mem = s.mem := rfl
@[simp] theorem State.emit_lost (s : State) (o : Out) : (s.emit o).lost = s.lost := rfl
@[simp] theorem State.emit_poison (s : State) (o : Out) : (s.emit o).poison = s.poison := rfl
@[simp] theorem State.emit_cores (s : State) (o : Out) : (s.emit o).cores = s.cores := rfl
@[simp] theorem State.emit_clusters (s : State) (o : Out) : (s.emit o).clusters = s.clusters := rfl
@[simp] theorem State.emit_dies (s : State) (o : Out) : (s.emit o).dies = s.dies := rfl
@[simp] theorem State.emit_stuck (s : State) (o : Out) : (s.emit o).stuck = s.stuck := rfl
@[simp] theorem State.emit_edgeIn (s : State) (o : Out) : (s.emit o).edgeIn = s.edgeIn := rfl
@[simp] theorem State.emit_reports (s : State) (o : Out) : (s.emit o).reports = s.reports := rfl
@[simp] theorem State.emit_notices (s : State) (o : Out) : (s.emit o).notices = s.notices := rfl
@[simp] theorem State.emit_purge (s : State) (o : Out) : (s.emit o).purge = s.purge := rfl
@[simp] theorem State.emit_log (s : State) (o : Out) : (s.emit o).log = s.log := rfl
@[simp] theorem State.emit_taken (s : State) (o : Out) : (s.emit o).taken = s.taken := rfl
@[simp] theorem State.emit_forwarded (s : State) (o : Out) : (s.emit o).forwarded = s.forwarded := rfl
@[simp] theorem State.emit_ccWait (s : State) (o : Out) : (s.emit o).ccWait = s.ccWait := rfl
@[simp] theorem State.emit_ccUnread (s : State) (o : Out) : (s.emit o).ccUnread = s.ccUnread := rfl
@[simp] theorem State.emit_crStop (s : State) (o : Out) : (s.emit o).crStop = s.crStop := rfl
@[simp] theorem State.emit_ccStop (s : State) (o : Out) : (s.emit o).ccStop = s.ccStop := rfl
@[simp] theorem State.emit_fifos (s : State) (o : Out) : (s.emit o).fifos = s.fifos := rfl
@[simp] theorem State.emit_streams (s : State) (o : Out) : (s.emit o).streams = s.streams := rfl
@[simp] theorem State.emit_frames (s : State) (o : Out) : (s.emit o).frames = s.frames := rfl
@[simp] theorem State.emit_plans (s : State) (o : Out) : (s.emit o).plans = s.plans := rfl
@[simp] theorem State.emit_feeds (s : State) (o : Out) : (s.emit o).feeds = s.feeds := rfl
@[simp] theorem State.emit_groups (s : State) (o : Out) : (s.emit o).groups = s.groups := rfl
@[simp] theorem State.emit_two (s : State) (o : Out) : (s.emit o).two = s.two := rfl
@[simp] theorem State.emit_movers (s : State) (o : Out) : (s.emit o).movers = s.movers := rfl
@[simp] theorem State.emit_mvrLast (s : State) (o : Out) : (s.emit o).mvrLast = s.mvrLast := rfl
@[simp] theorem State.emit_ports (s : State) (o : Out) : (s.emit o).ports = s.ports := rfl
@[simp] theorem State.emit_proxy (s : State) (o : Out) : (s.emit o).proxy = s.proxy := rfl
@[simp] theorem State.emit_nextTag (s : State) (o : Out) : (s.emit o).nextTag = s.nextTag := rfl
@[simp] theorem State.emit_relayq (s : State) (o : Out) : (s.emit o).relayq = s.relayq := rfl
@[simp] theorem State.emit_grants (s : State) (o : Out) : (s.emit o).grants = s.grants := rfl
@[simp] theorem State.emit_boot (s : State) (o : Out) : (s.emit o).boot = s.boot := rfl
@[simp] theorem State.emit_spdm (s : State) (o : Out) : (s.emit o).spdm = s.spdm := rfl
@[simp] theorem State.emit_mon (s : State) (o : Out) : (s.emit o).mon = s.mon := rfl
@[simp] theorem State.emit_fuses (s : State) (o : Out) : (s.emit o).fuses = s.fuses := rfl
@[simp] theorem State.emit_fuses0 (s : State) (o : Out) : (s.emit o).fuses0 = s.fuses0 := rfl
@[simp] theorem State.emit_cfgSpace (s : State) (o : Out) : (s.emit o).cfgSpace = s.cfgSpace := rfl
@[simp] theorem State.emit_jtagIr (s : State) (o : Out) : (s.emit o).jtagIr = s.jtagIr := rfl
@[simp] theorem State.emit_bscan (s : State) (o : Out) : (s.emit o).bscan = s.bscan := rfl
@[simp] theorem State.emit_therm (s : State) (o : Out) : (s.emit o).therm = s.therm := rfl
@[simp] theorem State.emit_hubHot (s : State) (o : Out) : (s.emit o).hubHot = s.hubHot := rfl
@[simp] theorem State.emit_hubTemps (s : State) (o : Out) : (s.emit o).hubTemps = s.hubTemps := rfl
@[simp] theorem State.emit_fresh (s : State) (o : Out) : (s.emit o).fresh = s.fresh := rfl
@[simp] theorem State.emit_scanned (s : State) (o : Out) : (s.emit o).scanned = s.scanned := rfl
@[simp] theorem State.emit_met (s : State) (o : Out) : (s.emit o).met = s.met := rfl
@[simp] theorem State.emit_writes (s : State) (o : Out) : (s.emit o).writes = s.writes := rfl
@[simp] theorem State.emit_slew (s : State) (o : Out) : (s.emit o).slew = s.slew := rfl
@[simp] theorem State.emit_slewN (s : State) (o : Out) : (s.emit o).slewN = s.slewN := rfl

@[simp] theorem State.emit_out (s : State) (o : Out) : (s.emit o).out = s.out ++ [o] := rfl

end Sys2Proof.Machine
end

