-- ==== Sys2Proof/Laws/Store.lean ====
section
/-! SUPPORT. Laws of the plain data helpers: finite maps and bit fields. -/

namespace Sys2Proof.Machine
open Sys2Proof

/-! ### Finite maps -/

@[simp] theorem SMap.find_nil {α : Type} (k : Nat) : SMap.find ([] : SMap α) k = none := rfl

theorem SMap.find_put_same {α : Type} (m : SMap α) (k : Nat) (v : α) : SMap.find (SMap.put m k v) k = some v := by
  induction m with
  | nil => simp [SMap.put, SMap.find]
  | cons p t ih =>
    obtain ⟨a, w⟩ := p
    simp only [SMap.put]
    split
    · simp [SMap.find]
    · split
      · simp [SMap.find]
      · simp_all [SMap.find]

theorem SMap.find_put_ne {α : Type} (m : SMap α) {k j : Nat} (v : α) (h : j ≠ k) :
    SMap.find (SMap.put m k v) j = SMap.find m j := by
  induction m with
  | nil => simp [SMap.put, SMap.find, Ne.symm h]
  | cons p t ih =>
    obtain ⟨a, w⟩ := p
    simp only [SMap.put]
    split
    · simp [SMap.find, Ne.symm h]
    · split
      · next h2 => subst h2; simp [SMap.find, Ne.symm h]
      · simp only [SMap.find, ih]

@[simp] theorem SMap.get_put_same {α : Type} (d : α) (m : SMap α) (k : Nat) (v : α) :
    SMap.get d (SMap.put m k v) k = v := by simp [SMap.get, SMap.find_put_same]

theorem SMap.get_put_ne {α : Type} (d : α) (m : SMap α) {k j : Nat} (v : α) (h : j ≠ k) :
    SMap.get d (SMap.put m k v) j = SMap.get d m j := by simp [SMap.get, SMap.find_put_ne m v h]

theorem SMap.find_filter {α : Type} (m : SMap α) (p : Nat → Bool) (k : Nat) :
    SMap.find (m.filter (fun q => p q.1)) k = if p k then SMap.find m k else none := by
  induction m with
  | nil => simp [SMap.find]
  | cons q t ih =>
    obtain ⟨a, w⟩ := q
    by_cases hp : p a = true
    · rw [List.filter_cons_of_pos (by simpa using hp)]
      simp only [SMap.find, ih]
      by_cases hk : a = k
      · subst hk; simp [hp]
      · simp [hk]
    · rw [List.filter_cons_of_neg (by simpa using hp), ih]
      simp only [SMap.find]
      by_cases hk : a = k
      · subst hk; simp_all
      · simp [hk]

theorem SMap.find_erase_same {α : Type} (m : SMap α) (k : Nat) : SMap.find (SMap.erase m k) k = none := by
  have h := SMap.find_filter m (fun a => decide (a ≠ k)) k
  simpa [SMap.erase] using h

theorem SMap.find_erase_ne {α : Type} (m : SMap α) {k j : Nat} (h : j ≠ k) :
    SMap.find (SMap.erase m k) j = SMap.find m j := by
  have e := SMap.find_filter m (fun a => decide (a ≠ k)) j
  simpa [SMap.erase, h] using e

theorem SMap.sortedFrom_mono {α : Type} {m : SMap α} {a b : Nat} (h : a ≤ b) (hm : SMap.sortedFrom b m = true) :
    SMap.sortedFrom a m = true := by
  cases m with
  | nil => rfl
  | cons p t =>
    obtain ⟨k, v⟩ := p
    simp only [SMap.sortedFrom, Bool.and_eq_true, decide_eq_true_eq] at hm ⊢
    exact ⟨le_trans h hm.1, hm.2⟩

theorem SMap.sortedFrom_put {α : Type} (m : SMap α) (lo k : Nat) (v : α) (h : SMap.sortedFrom lo m = true) (hk : lo ≤ k) :
    SMap.sortedFrom lo (SMap.put m k v) = true := by
  induction m generalizing lo with
  | nil => simpa [SMap.put, SMap.sortedFrom] using hk
  | cons p t ih =>
    obtain ⟨a, w⟩ := p
    simp only [SMap.sortedFrom, Bool.and_eq_true, decide_eq_true_eq] at h
    simp only [SMap.put]
    split
    · next h1 =>
      simp only [SMap.sortedFrom, Bool.and_eq_true, decide_eq_true_eq]
      exact ⟨hk, by omega, h.2⟩
    · split
      · next h2 =>
        subst h2
        simp only [SMap.sortedFrom, Bool.and_eq_true, decide_eq_true_eq]
        exact ⟨hk, h.2⟩
      · next h1 h2 =>
        simp only [SMap.sortedFrom, Bool.and_eq_true, decide_eq_true_eq]
        exact ⟨h.1, ih (a + 1) h.2 (by omega)⟩

theorem SMap.sortedFrom_filter {α : Type} (m : SMap α) (lo : Nat) (p : Nat × α → Bool)
    (h : SMap.sortedFrom lo m = true) : SMap.sortedFrom lo (m.filter p) = true := by
  induction m generalizing lo with
  | nil => rfl
  | cons q t ih =>
    obtain ⟨a, w⟩ := q
    simp only [SMap.sortedFrom, Bool.and_eq_true, decide_eq_true_eq] at h
    by_cases hp : p (a, w) = true
    · rw [List.filter_cons_of_pos hp]
      simp only [SMap.sortedFrom, Bool.and_eq_true, decide_eq_true_eq]
      exact ⟨h.1, ih (a + 1) h.2⟩
    · rw [List.filter_cons_of_neg hp]
      exact ih lo (SMap.sortedFrom_mono (by omega) h.2)

theorem SMap.mem_put {α : Type} (m : SMap α) (k : Nat) (v : α) (e : Nat × α) (h : e ∈ SMap.put m k v) :
    e = (k, v) ∨ e ∈ m := by
  induction m with
  | nil => simpa [SMap.put] using h
  | cons p t ih =>
    obtain ⟨a, w⟩ := p
    simp only [SMap.put] at h
    split at h
    · simpa using h
    · split at h
      · simp only [List.mem_cons] at h ⊢
        tauto
      · simp only [List.mem_cons] at h ⊢
        rcases h with h | h
        · tauto
        · rcases ih h with h | h <;> tauto

/-! ### Bit fields -/

theorem bits_lt (n lo w : Nat) : bits n lo w < 2 ^ w := Nat.mod_lt _ (Nat.two_pow_pos w)

theorem testBit_bits (n lo w i : Nat) : (bits n lo w).testBit i = (decide (i < w) && n.testBit (lo + i)) := by
  simp [bits, Nat.testBit_mod_two_pow, Nat.testBit_shiftRight]

theorem bits_split (n lo w : Nat) : n = n % 2 ^ lo + bits n lo w * 2 ^ lo + n / 2 ^ (lo + w) * 2 ^ (lo + w) := by
  have h1 := Nat.div_add_mod n (2 ^ lo)
  have h2 := Nat.div_add_mod (n / 2 ^ lo) (2 ^ w)
  have h3 : n / 2 ^ lo / 2 ^ w = n / 2 ^ (lo + w) := by rw [Nat.div_div_eq_div_mul, pow_add]
  simp only [bits, Nat.shiftRight_eq_div_pow]
  rw [h3] at h2
  have : n / 2 ^ lo = n / 2 ^ (lo + w) * 2 ^ w + n / 2 ^ lo % 2 ^ w := by rw [mul_comm]; exact h2.symm
  calc n = 2 ^ lo * (n / 2 ^ lo) + n % 2 ^ lo := h1.symm
    _ = 2 ^ lo * (n / 2 ^ (lo + w) * 2 ^ w + n / 2 ^ lo % 2 ^ w) + n % 2 ^ lo := by rw [← this]
    _ = _ := by rw [pow_add]; ring

theorem setBits_eq (n lo w v : Nat) :
    setBits n lo w v = n % 2 ^ lo + (v % 2 ^ w) * 2 ^ lo + n / 2 ^ (lo + w) * 2 ^ (lo + w) := by
  have h := bits_split n lo w
  unfold setBits
  generalize hq : n / 2 ^ (lo + w) = q at h ⊢
  generalize hr : n % 2 ^ lo = r at h ⊢
  generalize bits n lo w = b at h ⊢
  rw [h]
  omega

theorem testBit_setBits (n lo w v i : Nat) :
    (setBits n lo w v).testBit i = if lo ≤ i ∧ i < lo + w then v.testBit (i - lo) else n.testBit i := by
  rw [setBits_eq]
  have hr : n % 2 ^ lo < 2 ^ lo := Nat.mod_lt _ (Nat.two_pow_pos lo)
  have hv : v % 2 ^ w < 2 ^ w := Nat.mod_lt _ (Nat.two_pow_pos w)
  have h1 : n % 2 ^ lo + (v % 2 ^ w) * 2 ^ lo = 2 ^ lo * (v % 2 ^ w) + n % 2 ^ lo := by ring
  have hlt : 2 ^ lo * (v % 2 ^ w) + n % 2 ^ lo < 2 ^ (lo + w) := by
    rw [pow_add]
    calc 2 ^ lo * (v % 2 ^ w) + n % 2 ^ lo < 2 ^ lo * (v % 2 ^ w) + 2 ^ lo := by omega
      _ = 2 ^ lo * (v % 2 ^ w + 1) := by ring
      _ ≤ 2 ^ lo * 2 ^ w := Nat.mul_le_mul_left _ hv
  rw [h1, add_comm, mul_comm (n / 2 ^ (lo + w)), Nat.testBit_two_pow_mul_add _ hlt]
  by_cases hi : i < lo + w
  · simp only [hi, if_true, and_true]
    rw [Nat.testBit_two_pow_mul_add _ hr]
    by_cases hl : i < lo
    · simp [hl, Nat.not_le.mpr hl, Nat.testBit_mod_two_pow]
    · have hle : lo ≤ i := Nat.le_of_not_lt hl
      have : i - lo < w := by omega
      simp [hl, hle, Nat.testBit_mod_two_pow, this]
  · simp only [hi, if_false, and_false]
    rw [Nat.testBit_div_two_pow]
    congr 1
    omega

/-- A field that was replaced reads as the value's low bits. -/
theorem bits_setBits_same (n lo w v : Nat) : bits (setBits n lo w v) lo w = v % 2 ^ w := by
  apply Nat.eq_of_testBit_eq
  intro i
  rw [testBit_bits, testBit_setBits, Nat.testBit_mod_two_pow]
  by_cases h : i < w
  · simp [h]
  · simp [h]

/-- A field apart from the one replaced keeps its value. -/
theorem bits_setBits_apart (n lo w v lo' w' : Nat) (h : lo' + w' ≤ lo ∨ lo + w ≤ lo') :
    bits (setBits n lo w v) lo' w' = bits n lo' w' := by
  apply Nat.eq_of_testBit_eq
  intro i
  rw [testBit_bits, testBit_bits, testBit_setBits]
  by_cases hi : i < w'
  · have : ¬(lo ≤ lo' + i ∧ lo' + i < lo + w) := by omega
    simp [hi, this]
  · simp [hi]

theorem setBits_lt (n lo w v k : Nat) (hn : n < 2 ^ k) (h : lo + w ≤ k) : setBits n lo w v < 2 ^ k := by
  apply Nat.lt_pow_two_of_testBit
  intro i hi
  rw [testBit_setBits]
  have : ¬(lo ≤ i ∧ i < lo + w) := by omega
  rw [if_neg this]
  exact Nat.testBit_lt_two_pow (lt_of_lt_of_le hn (Nat.pow_le_pow_right (by omega) hi))

theorem satAdd_le (w n k : Nat) : satAdd w n k ≤ 2 ^ w - 1 := min_le_right _ _

/-! ### Bytes -/

@[simp] theorem natToBytes_length (len n : Nat) : (natToBytes len n).length = len := by
  induction len generalizing n with
  | zero => rfl
  | succ k ih => simp [natToBytes, ih]

theorem bytesToNat_natToBytes (len n : Nat) : bytesToNat (natToBytes len n) = n % 256 ^ len := by
  induction len generalizing n with
  | zero => simp [natToBytes, bytesToNat, Nat.mod_one]
  | succ k ih =>
    simp only [natToBytes, bytesToNat, ih, BitVec.toNat_ofNat]
    rw [pow_succ' 256 k, Nat.mod_mul]

@[simp] theorem slice_length (b : Bytes) (off len : Nat) : (slice b off len).length = len := by
  simp only [slice, List.length_append, List.length_take, List.length_drop, List.length_replicate]
  omega

end Sys2Proof.Machine
end

