-- ==== Sys2Proof/Laws/Registers.lean ====
section
/-! SUPPORT. Read-back laws of registers and units: what was replaced reads as written, all else as before. -/

namespace Sys2Proof.Machine
open Sys2Proof

/-! ### Registers -/

@[simp] theorem State.reg_setReg_same (s : State) (a v : Nat) : (s.setReg a v).reg a = v % 2 ^ 32 := by
  simp [State.reg, State.setReg, SMap.find_put_same]

theorem State.reg_setReg_ne (s : State) {a b : Nat} (v : Nat) (h : b ≠ a) : (s.setReg a v).reg b = s.reg b := by
  simp [State.reg, State.setReg, SMap.find_put_ne _ _ h]

/-- A register reads the same in two states with the same register words. -/
theorem State.reg_congr {s t : State} (h : t.regs = s.regs) (a : Nat) : t.reg a = s.reg a := by simp [State.reg, h]

theorem State.getF_congr {s t : State} (h : t.regs = s.regs) (b : Nat) (f : Fld) : t.getF b f = s.getF b f := by
  simp [State.getF, State.reg_congr h]

/-- A field that was replaced reads as the value's low bits. -/
theorem State.getF_setF_same (s : State) (b : Nat) (f : Fld) (v : Nat) (h : f.lsb + f.width ≤ 32) :
    (s.setF b f v).getF b f = v % 2 ^ f.width := by
  simp only [State.getF, State.setF, State.reg_setReg_same]
  apply Nat.eq_of_testBit_eq
  intro i
  rw [testBit_bits, Nat.testBit_mod_two_pow, Nat.testBit_mod_two_pow, testBit_setBits]
  by_cases hi : i < f.width
  · have h1 : f.lsb + i < 32 := by omega
    simp [hi, h1]
  · simp [hi]

/-- A field of another word, or apart in the same word, keeps its value. -/
theorem State.getF_setF_apart (s : State) (b b' : Nat) (f g : Fld) (v : Nat) (hg : g.lsb + g.width ≤ 32)
    (h : b' + g.off ≠ b + f.off ∨ g.lsb + g.width ≤ f.lsb ∨ f.lsb + f.width ≤ g.lsb) :
    (s.setF b f v).getF b' g = s.getF b' g := by
  by_cases hw : b' + g.off = b + f.off
  · have hd := h.resolve_left (fun hn => hn hw)
    simp only [State.getF, State.setF, hw, State.reg_setReg_same]
    apply Nat.eq_of_testBit_eq
    intro i
    rw [testBit_bits, testBit_bits, Nat.testBit_mod_two_pow, testBit_setBits]
    by_cases hi : i < g.width
    · have h1 : g.lsb + i < 32 := by omega
      have h2 : ¬(f.lsb ≤ g.lsb + i ∧ g.lsb + i < f.lsb + f.width) := by omega
      simp [hi, h1, h2]
    · simp [hi]
  · simp only [State.getF, State.setF, State.reg_setReg_ne s _ hw]

theorem State.reg_setF_ne (s : State) (b : Nat) (f : Fld) (v a : Nat) (h : a ≠ b + f.off) :
    (s.setF b f v).reg a = s.reg a := State.reg_setReg_ne s _ h

theorem State.reg_addF_ne (s : State) (b : Nat) (f : Fld) (k a : Nat) (h : a ≠ b + f.off) :
    (s.addF b f k).reg a = s.reg a := State.reg_setReg_ne s _ h

/-- A counter advances and saturates. -/
theorem State.getF_addF_same (s : State) (b : Nat) (f : Fld) (k : Nat) (h : f.lsb + f.width ≤ 32) :
    (s.addF b f k).getF b f = min (s.getF b f + k) (2 ^ f.width - 1) := by
  have hp := Nat.two_pow_pos f.width
  unfold State.addF
  rw [State.getF_setF_same s b f _ h]
  exact Nat.mod_eq_of_lt (lt_of_le_of_lt (satAdd_le _ _ _) (by omega))

theorem State.getF_addF_apart (s : State) (b b' : Nat) (f g : Fld) (k : Nat) (hg : g.lsb + g.width ≤ 32)
    (h : b' + g.off ≠ b + f.off ∨ g.lsb + g.width ≤ f.lsb ∨ f.lsb + f.width ≤ g.lsb) :
    (s.addF b f k).getF b' g = s.getF b' g := State.getF_setF_apart s b b' f g _ hg h

/-- What a plain write leaves in a word: RW fields take the value, ones clear W1C bits, the rest stays (Table 0.6). -/
theorem State.reg_writePlain_same (s : State) (a v : Nat) :
    (s.writePlain a v).reg a =
      ((((s.reg a &&& (2 ^ 32 - 1 - accMask a .rw)) + (v &&& accMask a .rw)) % 2 ^ 32) &&&
        (2 ^ 32 - 1 - (v % 2 ^ 32 &&& accMask a .w1c))) % 2 ^ 32 := by
  simp [State.writePlain, State.writeRW]

theorem State.reg_writePlain_ne (s : State) {a b : Nat} (v : Nat) (h : b ≠ a) : (s.writePlain a v).reg b = s.reg b := by
  simp only [State.writePlain, State.writeRW, State.reg_setReg_ne _ _ h]

/-! ### Units -/

@[simp] theorem State.core_setCore_same (s : State) (c : Nat) (x : CoreSt) : (s.setCore c x).core c = x := by
  simp [State.core, State.setCore]

theorem State.core_setCore_ne (s : State) {c d : Nat} (x : CoreSt) (h : d ≠ c) : (s.setCore c x).core d = s.core d := by
  simp [State.core, State.setCore, SMap.get_put_ne _ _ _ h]

@[simp] theorem State.cluster_setCluster_same (s : State) (c : Nat) (x : ClusterSt) : (s.setCluster c x).cluster c = x := by
  simp [State.cluster, State.setCluster]

@[simp] theorem State.die_setDie_same (s : State) (d : Nat) (x : DieSt) : (s.setDie d x).die d = x := by
  simp [State.die, State.setDie]

@[simp] theorem State.fifo_setFifo_same (s : State) (k : Nat) (x : FifoSt) : (s.setFifo k x).fifo k = x := by
  simp [State.fifo, State.setFifo]

@[simp] theorem State.stream_setStream_same (s : State) (k : Nat) (x : StreamSt) : (s.setStream k x).stream k = x := by
  simp [State.stream, State.setStream]

@[simp] theorem State.feed_setFeed_same (s : State) (p : Nat) (x : FeedSt) : (s.setFeed p x).feed p = x := by
  simp [State.feed, State.setFeed]

@[simp] theorem State.mvr_setMvr_same (s : State) (u n : Nat) (x : MvrSt) : (s.setMvr u n x).mvr u n = x := by
  simp [State.mvr, State.setMvr]

@[simp] theorem State.port_setPort_same (s : State) (p : Nat) (x : PortSt) : (s.setPort p x).port p = x := by
  simp [State.port, State.setPort]

@[simp] theorem State.plan_setPlan_same (s : State) (p : Nat) (x : PlanSt) : (s.setPlan p x).plan p = x := by
  simp [State.plan, State.setPlan]

@[simp] theorem State.sag_setSag_same (s : State) (c n : Nat) (x : SagSt) : (s.setSag c n x).sag c n = x := by
  simp [State.sag, State.setSag]

@[simp] theorem State.eng_setEng_same (s : State) (c e : Nat) (x : EngSt) : (s.setEng c e x).eng c e = x := by
  simp [State.eng, State.setEng]

@[simp] theorem State.hq_setHq_same (s : State) (c q : Nat) (x : HqSt) : (s.setHq c q x).hq c q = x := by
  simp [State.hq, State.setHq]

end Sys2Proof.Machine
end

