-- ==== Sys2Proof/Laws/Memory.lean ====
section
/-! SUPPORT. Laws of memory: a byte written is the byte read, every other byte stays, and every memory operation keeps
the canonical form. -/

namespace Sys2Proof.Machine
open Sys2Proof

/-! ### One byte -/

theorem State.byteAt_putByte_same (s : State) (a : Nat) (b : Byte) : (s.putByte a b).byteAt a = b := by
  unfold State.putByte
  split
  · next h =>
    simp only [Bool.and_eq_true, decide_eq_true_eq, Option.isNone_iff_eq_none] at h
    simp [State.byteAt, SMap.find_erase_same, h]
  · simp [State.byteAt, SMap.find_put_same]

theorem State.byteAt_putByte_ne (s : State) {a c : Nat} (b : Byte) (h : c ≠ a) :
    (s.putByte a b).byteAt c = s.byteAt c := by
  unfold State.putByte
  split
  · simp [State.byteAt, SMap.find_erase_ne _ h]
  · simp [State.byteAt, SMap.find_put_ne _ _ h]

@[simp] theorem State.putByte_lost (s : State) (a : Nat) (b : Byte) : (s.putByte a b).lost = s.lost := by
  unfold State.putByte
  split <;> rfl

@[simp] theorem State.putByte_regs (s : State) (a : Nat) (b : Byte) : (s.putByte a b).regs = s.regs := by
  unfold State.putByte
  split <;> rfl

/-! ### Byte strings -/

theorem State.byteAt_putBytes_out (s : State) (a c : Nat) (l : Bytes) (h : c < a ∨ a + l.length ≤ c) :
    (s.putBytes a l).byteAt c = s.byteAt c := by
  induction l generalizing s a with
  | nil => rfl
  | cons b t ih =>
    simp only [List.length_cons] at h
    simp only [State.putBytes]
    rw [ih (s.putByte a b) (a + 1) (by omega), State.byteAt_putByte_ne s b (by omega)]

theorem State.byteAt_putBytes_in (s : State) (a i : Nat) (l : Bytes) (h : i < l.length) :
    (s.putBytes a l).byteAt (a + i) = l[i] := by
  induction l generalizing s a i with
  | nil => simp at h
  | cons b t ih =>
    simp only [State.putBytes]
    cases i with
    | zero =>
      rw [State.byteAt_putBytes_out _ _ _ _ (by omega)]
      exact State.byteAt_putByte_same s a b
    | succ j =>
      have e : a + (j + 1) = a + 1 + j := by omega
      rw [e, ih _ _ _ (by simpa using h)]
      rfl

@[simp] theorem State.bytesAt_length (s : State) (a n : Nat) : (s.bytesAt a n).length = n := by
  induction n generalizing a with
  | zero => rfl
  | succ k ih => simp [State.bytesAt, ih]

theorem State.bytesAt_congr {s t : State} (a n : Nat) (h : ∀ i, i < n → t.byteAt (a + i) = s.byteAt (a + i)) :
    t.bytesAt a n = s.bytesAt a n := by
  induction n generalizing a with
  | zero => rfl
  | succ k ih =>
    simp only [State.bytesAt]
    rw [ih (a + 1) (fun i hi => by have := h (i + 1) (by omega); rwa [show a + 1 + i = a + (i + 1) by omega])]
    rw [show t.byteAt a = s.byteAt a from h 0 (by omega)]

/-- Bytes written are the bytes read. -/
theorem State.bytesAt_putBytes (s : State) (a : Nat) (l : Bytes) : (s.putBytes a l).bytesAt a l.length = l := by
  induction l generalizing s a with
  | nil => rfl
  | cons b t ih =>
    simp only [State.putBytes, List.length_cons, State.bytesAt]
    rw [ih, State.byteAt_putBytes_out _ _ _ _ (by omega), State.byteAt_putByte_same]

/-! ### The canonical form -/

theorem Memory.wf_iff (m : List Host.Cell) (l : List (Nat × Nat × Nat)) :
    Memory.wf m l = true ↔
      SMap.sortedFrom 0 m = true ∧ ∀ c ∈ m, c.2 ≠ 0 ∨ (lostAt l c.1).isSome = true := by
  simp [Memory.wf]

theorem lostAt_cons (r : Nat × Nat × Nat) (l : List (Nat × Nat × Nat)) (a : Nat) (h : (lostAt l a).isSome = true) :
    (lostAt (r :: l) a).isSome = true := by
  by_cases hr : (decide (r.1 ≤ a) && decide (a < r.2.1)) = true
  · simp [lostAt, hr]
  · simpa [lostAt, List.find?_cons, hr] using h

/-- One byte written keeps the canonical form. -/
theorem State.putByte_wf (s : State) (a : Nat) (b : Byte) (h : Memory.wf s.mem s.lost = true) :
    Memory.wf (s.putByte a b).mem (s.putByte a b).lost = true := by
  rw [State.putByte_lost]
  rw [Memory.wf_iff] at h ⊢
  unfold State.putByte
  split
  · refine ⟨SMap.sortedFrom_filter _ _ _ h.1, fun c hc => h.2 c ?_⟩
    exact List.mem_of_mem_filter hc
  · next hn =>
    refine ⟨SMap.sortedFrom_put _ _ _ _ h.1 (Nat.zero_le _), fun c hc => ?_⟩
    rcases SMap.mem_put _ _ _ _ hc with rfl | hc
    · by_cases hb : b = 0
      · right
        subst hb
        cases hl : lostAt s.lost a with
        | none => simp [hl] at hn
        | some _ => rfl
      · exact .inl hb
    · exact h.2 c hc

theorem State.putBytes_wf (s : State) (a : Nat) (l : Bytes) (h : Memory.wf s.mem s.lost = true) :
    Memory.wf (s.putBytes a l).mem (s.putBytes a l).lost = true := by
  induction l generalizing s a with
  | nil => exact h
  | cons b t ih => exact ih _ _ (State.putByte_wf s a b h)

/-- A loss of contents keeps the canonical form. -/
theorem State.loseRange_wf (s : State) (lo hi : Nat) (h : Memory.wf s.mem s.lost = true) :
    Memory.wf (s.loseRange lo hi).mem (s.loseRange lo hi).lost = true := by
  rw [Memory.wf_iff] at h ⊢
  refine ⟨SMap.sortedFrom_filter _ _ _ h.1, fun c hc => ?_⟩
  rcases h.2 c (List.mem_of_mem_filter hc) with h1 | h1
  · exact .inl h1
  · exact .inr (lostAt_cons _ _ _ h1)

/-! ### The operations of the address map -/

/-- Memory as one state has it is memory as another has it. -/
def SameMem (s t : State) : Prop := t.mem = s.mem ∧ t.lost = s.lost

theorem SameMem.refl (s : State) : SameMem s s := ⟨rfl, rfl⟩

theorem SameMem.trans {s t u : State} (h : SameMem s t) (k : SameMem t u) : SameMem s u :=
  ⟨k.1.trans h.1, k.2.trans h.2⟩

theorem SameMem.wf {s t : State} (h : SameMem s t) (w : Memory.wf s.mem s.lost = true) : Memory.wf t.mem t.lost = true := by
  rw [h.1, h.2]
  exact w

theorem SameMem.byteAt {s t : State} (h : SameMem s t) (a : Nat) : t.byteAt a = s.byteAt a := by
  simp [State.byteAt, h.1, h.2]

theorem injected_sameMem (s : State) (d x : Nat) : SameMem s (injected s d x).2 := by
  unfold injected
  simp only
  split <;> exact ⟨rfl, rfl⟩

/-- A fold of steps that change no byte changes none. -/
theorem SameMem.foldl {α : Type} (f : State → α → State) (h : ∀ t x, SameMem t (f t x)) (l : List α) (s : State) :
    SameMem s (l.foldl f s) := by
  induction l generalizing s with
  | nil => exact SameMem.refl s
  | cons x l ih => exact (h s x).trans (ih (f s x))

/-- The same for a fold that carries a result beside the state. -/
theorem SameMem.foldl_snd {α β : Type} (f : β × State → α → β × State) (h : ∀ st x, SameMem st.2 (f st x).2)
    (l : List α) (st : β × State) : SameMem st.2 (l.foldl f st).2 := by
  induction l generalizing st with
  | nil => exact SameMem.refl st.2
  | cons x l ih => exact (h st x).trans (ih (f st x))

/-- An access of a bank changes no byte. -/
theorem bankAccess_sameMem (s : State) (a len : Nat) : SameMem s (bankAccess s a len).2 := by
  unfold bankAccess
  simp only
  have h1 := injected_sameMem s 1 (bankTarget (groupOf a).1 (groupOf a).2.1)
  generalize hu : (if (injected s 1 (bankTarget (groupOf a).1 (groupOf a).2.1)).1 = true then
    (injected s 1 (bankTarget (groupOf a).1 (groupOf a).2.1)).2.addF (bnkBase (groupOf a).1 (groupOf a).2.1)
      Reg.BNK_CE_CNT_COUNT 1 else (injected s 1 (bankTarget (groupOf a).1 (groupOf a).2.1)).2) = u
  have h2 : SameMem s u := by
    rw [← hu]
    split
    · exact h1.trans ⟨rfl, rfl⟩
    · exact h1
  have h3 := h2.trans (injected_sameMem u 2 (bankTarget (groupOf a).1 (groupOf a).2.1))
  split
  · exact h3.trans ⟨rfl, rfl⟩
  · split
    · exact h3.trans ⟨rfl, rfl⟩
    · exact h3

/-- Noting an access that has to wait changes no byte. -/
theorem noteMet_sameMem (s : State) (a len : Nat) : SameMem s (noteMet s a len) := by
  unfold noteMet
  split <;> exact ⟨rfl, rfl⟩

/-- Accesses one after another change no byte where none of them does. -/
theorem allAccess_sameMem {f : State → Nat → Nat → Option Nat × State} (h : ∀ t a len, SameMem t (f t a len).2) (s : State)
    (l : List (Nat × Nat)) : SameMem s (allAccess f s l).2 :=
  SameMem.foldl_snd (fun (st : Option Nat × State) (p : Nat × Nat) => (st.1.or (f st.2 p.1 p.2).1, (f st.2 p.1 p.2).2))
    (fun st p => h st.2 p.1 p.2) l (none, s)

/-- A read of a bank changes no byte. -/
theorem bankRead_sameMem (s : State) (a len : Nat) : SameMem s (bankRead s a len).2 :=
  (noteMet_sameMem s a len).trans (allAccess_sameMem bankAccess_sameMem _ _)

/-- An access of a line changes no byte. -/
theorem lineAccess_sameMem (s : State) (a len : Nat) : SameMem s (lineAccess s a len).2 := by
  unfold lineAccess
  simp only
  have h1 := injected_sameMem s 3 (16 * (a / 2 ^ 36) + channelOf a)
  generalize hu : (if (injected s 3 (16 * (a / 2 ^ 36) + channelOf a)).1 = true then
    (injected s 3 (16 * (a / 2 ^ 36) + channelOf a)).2.addF (lpcBase (a / 2 ^ 36)) Reg.LPC_CE_CNT_COUNT 1
      else (injected s 3 (16 * (a / 2 ^ 36) + channelOf a)).2) = u
  have h2 : SameMem s u := by
    rw [← hu]
    split
    · exact h1.trans ⟨rfl, rfl⟩
    · exact h1
  have h3 := h2.trans (injected_sameMem u 4 (16 * (a / 2 ^ 36) + channelOf a))
  split
  · exact h3.trans ⟨rfl, rfl⟩
  · exact h3

/-- A read of LPDDR4X changes no byte. -/
theorem lineRead_sameMem (s : State) (a len : Nat) : SameMem s (lineRead s a len).2 :=
  (noteMet_sameMem s a len).trans (allAccess_sameMem lineAccess_sameMem _ _)

theorem poison_sameMem (s : State) (w : Nat) : SameMem s (poison s w) := by
  unfold poison
  split <;> exact ⟨rfl, rfl⟩

theorem sramMerge_wf (s : State) (a : Nat) (b : Bytes) (h : Memory.wf s.mem s.lost = true) :
    Memory.wf (sramMerge s a b).2.mem (sramMerge s a b).2.lost = true := by
  unfold sramMerge
  simp only
  have key : ∀ (l : List (Nat × Nat)) (t : State), Memory.wf t.mem t.lost = true →
      Memory.wf (l.foldl (fun t p => if badRegion t p.1 p.2 = true then t else t.putBytes p.1 (slice b (p.1 - a) p.2)) t).mem
        (l.foldl (fun t p => if badRegion t p.1 p.2 = true then t else t.putBytes p.1 (slice b (p.1 - a) p.2)) t).lost
        = true := by
    intro l
    induction l with
    | nil => exact fun t ht => ht
    | cons x l ih =>
      intro t ht
      refine ih _ ?_
      beta_reduce
      split
      · exact ht
      · exact State.putBytes_wf _ _ _ ht
  refine key _ _ (SameMem.wf (s := s) ?_ h)
  refine (noteMet_sameMem s a b.length).trans (SameMem.foldl_snd _ (fun st w => ?_) _ (none, noteMet s a b.length))
  split
  · exact SameMem.refl st.2
  · simp only
    split
    · exact bankAccess_sameMem st.2 w 8
    · exact (bankAccess_sameMem st.2 w 8).trans (poison_sameMem _ _)

theorem sramWrite_wf (s : State) (a : Nat) (b : Bytes) (h : Memory.wf s.mem s.lost = true) :
    Memory.wf (sramWrite s a b).mem (sramWrite s a b).lost = true := sramMerge_wf s a b h

theorem lineMerge_wf (s : State) (a : Nat) (b : Bytes) (h : Memory.wf s.mem s.lost = true) :
    Memory.wf (lineMerge s a b).2.mem (lineMerge s a b).2.lost = true := by
  unfold lineMerge
  split
  · exact h
  · simp only
    refine State.putBytes_wf _ _ _ (SameMem.wf ?_ h)
    refine (noteMet_sameMem s a b.length).trans (SameMem.foldl_snd _ (fun st w => ?_) _ (none, noteMet s a b.length))
    simp only
    split
    · exact lineAccess_sameMem st.2 w 64
    · exact (lineAccess_sameMem st.2 w 64).trans (poison_sameMem _ _)

theorem lineWrite_wf (s : State) (a : Nat) (b : Bytes) (h : Memory.wf s.mem s.lost = true) :
    Memory.wf (lineWrite s a b).mem (lineWrite s a b).lost = true := lineMerge_wf s a b h

/-- A read of memory changes no byte. -/
theorem memRead_sameMem (s : State) (a len : Nat) : SameMem s (memRead s a len).2 := by
  unfold memRead
  split
  · exact SameMem.refl s
  · split
    · exact lineRead_sameMem s a len
    · exact bankRead_sameMem s a len
    · exact bankRead_sameMem s a len
    · exact SameMem.refl s
    · exact SameMem.refl s

/-- A write of memory keeps the canonical form. -/
theorem memWrite_wf (s : State) (a : Nat) (b : Bytes) (h : Memory.wf s.mem s.lost = true) :
    Memory.wf (memWrite s a b).2.mem (memWrite s a b).2.lost = true := by
  unfold memWrite
  split
  · exact h
  · split
    · exact lineMerge_wf s a b h
    · exact sramMerge_wf s a b h
    · exact sramMerge_wf s a b h
    · exact h

/-! ### Work that may have to wait -/

/-- Work that noted no access is done. -/
theorem awaited_of_met_eq {s t : State} (h : t.met = s.met) : awaited s t = t := by
  unfold awaited
  cases hs : s.met <;> simp [h, hs]

/-- Work that noted an access is not done: wake is requested. -/
theorem awaited_of_met_some {s t : State} {g : Nat × Nat} (hs : s.met = none) (ht : t.met = some g) :
    awaited s t = wakeByAccess s g.1 g.2 := by
  unfold awaited
  rw [hs, ht]

end Sys2Proof.Machine
end

