-- ==== Sys2Proof/Laws/Steady.lean ====
section
/-! SUPPORT. What every operation of the machine keeps: the queue and the stepping, burned fuses, the invariant of the
memory and of the event log, and (for κ = true) a shutdown of the hub for heat. One lemma per operation of Ops, Hub and Bus;
the others go the same way, by cut, ofIte, ofPair, foldl and upd. -/

namespace Sys2Proof.Machine
open Sys2Proof Sys2Proof.Machine.Reg

theorem TapRests.of {s t : State} (h : TapRests s) (e : t.bscan = s.bscan) : TapRests t := by
  rwa [TapRests, e]

/-- A state as a command or an operation may leave another: see the fields. κ asks that a hub shut down stays so. -/
structure Steady (κ : Bool) (s t : State) : Prop where
  pending : t.pending = s.pending
  b0 : t.b0 = s.b0
  fuses : ∀ j, s.fuses.testBit j = true → t.fuses.testBit j = true
  inv : Inv s → Inv t
  hot : κ = true → s.hubHot = true → t.hubHot = true

theorem Steady.refl (κ : Bool) (s : State) : Steady κ s s := ⟨rfl, rfl, fun _ h => h, id, fun _ h => h⟩

theorem Steady.trans {κ : Bool} {s t u : State} (h : Steady κ s t) (g : Steady κ t u) : Steady κ s u :=
  ⟨g.pending.trans h.pending, g.b0.trans h.b0, fun j x => g.fuses j (h.fuses j x), fun i => g.inv (h.inv i),
    fun a b => g.hot a (h.hot a b)⟩

/-- Fields that no invariant speaks of are replaced. -/
theorem Steady.upd {κ : Bool} {s t : State} (h : Steady κ s t) {x_timeBase : BitVec 64} {x_regs : SMap (BitVec 32)} {x_poison
    : List Nat} {x_cores : SMap CoreSt} {x_clusters : SMap ClusterSt} {x_dies : SMap DieSt} {x_stuck : List (Nat × Instr)}
    {x_edgeIn : SMap Token}
    {x_reports : List Report} {x_notices : List (Nat × Nat × Nat × List Nat)} {x_purge : List (Nat × Nat × Nat)} {x_taken :
    List Taken} {x_forwarded : List Forwarded} {x_ccWait : List (Bytes × Bool)} {x_ccUnread : Nat} {x_crStop : Bool}
    {x_ccStop : Bool} {x_fifos : SMap FifoSt} {x_streams : SMap StreamSt} {x_frames : List Frame} {x_plans : SMap PlanSt}
    {x_feeds : SMap FeedSt} {x_groups : List Group} {x_two : TwoPhase} {x_movers : SMap MvrSt} {x_mvrLast : SMap Nat}
    {x_ports : SMap PortSt} {x_proxy : List ProxyRd} {x_nextTag : Nat} {x_relayq : List Flit} {x_grants : SMap Nat} {x_boot :
    BootSt} {x_spdm : SpdmSt} {x_mon : MonSt} {x_cfgSpace : SMap (BitVec 32)} {x_jtagIr : Nat} {x_therm : Bool} {x_hubTemps :
    List Int} {x_out : List Out} {x_fresh : Nat} {x_scanned : Bool} {x_met : Option (Nat × Nat)} {x_writes : List (Nat × Nat)}
    {x_slew : Int} {x_slewN : Nat} :
    Steady κ s (State.mk t.pending t.b0 x_timeBase x_regs t.mem t.lost x_poison x_cores x_clusters x_dies x_stuck x_edgeIn x_reports
    x_notices x_purge t.log x_taken x_forwarded x_ccWait x_ccUnread x_crStop x_ccStop x_fifos x_streams x_frames x_plans
    x_feeds x_groups x_two x_movers x_mvrLast x_ports x_proxy x_nextTag x_relayq x_grants x_boot x_spdm x_mon t.fuses
    t.fuses0 x_cfgSpace x_jtagIr t.bscan x_therm t.hubHot x_hubTemps x_out x_fresh x_scanned
    x_met x_writes x_slew x_slewN) :=
  ⟨h.pending, h.b0, h.fuses, fun i => ⟨(h.inv i).mem, (h.inv i).log, (h.inv i).fuses, (h.inv i).tap⟩, h.hot⟩

/-- The state of a pair that is taken apart. -/
theorem Steady.ofPair {α : Type} {κ : Bool} {s u : State} {p : α × State} {a : α} (e : p = (a, u)) (h : Steady κ s p.2) :
    Steady κ s u := by
  rw [e] at h
  exact h

theorem Steady.ofPairFst {α : Type} {κ : Bool} {s u : State} {p : State × α} {a : α} (e : p = (u, a)) (h : Steady κ s p.1) :
    Steady κ s u := by
  rw [e] at h
  exact h

theorem Steady.foldl {α : Type} {κ : Bool} {s t : State} {g : State → α → State} {l : List α} (h : Steady κ s t)
    (hg : ∀ u x, Steady κ s u → Steady κ s (g u x)) : Steady κ s (l.foldl g t) := by
  induction l generalizing t with
  | nil => exact h
  | cons x l ih => exact ih (hg t x h)

theorem Steady.foldlFst {α β : Type} {κ : Bool} {s : State} {g : State × β → α → State × β} {l : List α} {p : State × β}
    (h : Steady κ s p.1) (hg : ∀ u x, Steady κ s u.1 → Steady κ s (g u x).1) : Steady κ s (l.foldl g p).1 := by
  induction l generalizing p with
  | nil => exact h
  | cons x l ih => exact ih (hg p x h)

theorem Steady.foldlSnd {α β : Type} {κ : Bool} {s : State} {g : β × State → α → β × State} {l : List α} {p : β × State}
    (h : Steady κ s p.2) (hg : ∀ u x, Steady κ s u.2 → Steady κ s (g u x).2) : Steady κ s (l.foldl g p).2 := by
  induction l generalizing p with
  | nil => exact h
  | cons x l ih => exact ih (hg p x h)

theorem State.putByte_steady {κ : Bool} {s₀ s : State} (a : Nat) (b : Byte) (h : Steady κ s₀ s) : Steady κ s₀ (s.putByte a b)
    := by
  have e : (s.putByte a b).pending = s.pending ∧ (s.putByte a b).b0 = s.b0 ∧ (s.putByte a b).fuses = s.fuses ∧
      (s.putByte a b).fuses0 = s.fuses0 ∧ (s.putByte a b).log = s.log ∧ (s.putByte a b).hubHot = s.hubHot ∧
      (s.putByte a b).bscan = s.bscan := by
    unfold State.putByte
    split <;> exact ⟨rfl, rfl, rfl, rfl, rfl, rfl, rfl⟩
  exact ⟨e.1.trans h.pending, e.2.1.trans h.b0, fun j x => by rw [e.2.2.1]; exact h.fuses j x,
    fun i => ⟨State.putByte_wf s a b (h.inv i).mem, by rw [e.2.2.2.2.1]; exact (h.inv i).log,
      fun j => by rw [e.2.2.1, e.2.2.2.1]; exact (h.inv i).fuses j,
      by have r := (h.inv i).tap; rwa [TapRests, e.2.2.2.2.2.2]⟩,
    fun x y => by rw [e.2.2.2.2.2.1]; exact h.hot x y⟩

theorem State.putBytes_steady {κ : Bool} {s₀ s : State} (a : Nat) (l : Bytes) (h : Steady κ s₀ s) : Steady κ s₀ (s.putBytes a
    l) := by
  induction l generalizing s a with
  | nil => exact h
  | cons b t ih => exact ih _ (State.putByte_steady a b h)

theorem State.loseRange_steady {κ : Bool} {s₀ s : State} (lo hi : Nat) (h : Steady κ s₀ s) : Steady κ s₀ (s.loseRange lo hi) :=
  ⟨h.pending, h.b0, h.fuses, fun i => ⟨State.loseRange_wf s lo hi (h.inv i).mem, (h.inv i).log, (h.inv i).fuses, (h.inv i).tap⟩, h.hot⟩

theorem Steady.ofIte {κ : Bool} {s t u : State} {c : Prop} [Decidable c] (h : c → Steady κ s t) (g : ¬c → Steady κ s u) :
    Steady κ s (if c then t else u) := by
  split
  · exact h ‹_›
  · exact g ‹_›

theorem Steady.ofIteSnd {α : Type} {κ : Bool} {s : State} {p q : α × State} {c : Prop} [Decidable c] (h : c → Steady κ s p.2)
    (g : ¬c → Steady κ s q.2) : Steady κ s (if c then p else q).2 := by
  split
  · exact h ‹_›
  · exact g ‹_›

theorem Steady.ofIteFst {α : Type} {κ : Bool} {s : State} {p q : State × α} {c : Prop} [Decidable c] (h : c → Steady κ s p.1)
    (g : ¬c → Steady κ s q.1) : Steady κ s (if c then p else q).1 := by
  split
  · exact h ‹_›
  · exact g ‹_›

/-- A state on the way: what holds of it first, and then the rest. -/
theorem Steady.cut {κ : Bool} {s t u : State} (x : State) (hx : Steady κ s x) (h : Steady κ s x → Steady κ t u) : Steady κ t
    u := h hx

theorem Steady.cutSnd {α : Type} {κ : Bool} {s t u : State} (x : α × State) (hx : Steady κ s x.2)
    (h : Steady κ s x.2 → Steady κ t u) : Steady κ t u := h hx

theorem Steady.cutFst {α : Type} {κ : Bool} {s t u : State} (x : State × α) (hx : Steady κ s x.1)
    (h : Steady κ s x.1 → Steady κ t u) : Steady κ t u := h hx

/-! ### Operations -/

theorem State.setReg_steady {κ : Bool} {s₀ s : State} (a : Nat) (v : Nat) (h : Steady κ s₀ s) :
    Steady κ s₀ (State.setReg s a v) := by
  unfold State.setReg
  exact h.upd

theorem State.setF_steady {κ : Bool} {s₀ s : State} (base : Nat) (f : Fld) (v : Nat) (h : Steady κ s₀ s) :
    Steady κ s₀ (State.setF s base f v) := by
  unfold State.setF
  exact h.upd

theorem State.addF_steady {κ : Bool} {s₀ s : State} (base : Nat) (f : Fld) (k : Nat) (h : Steady κ s₀ s) :
    Steady κ s₀ (State.addF s base f k) := by
  unfold State.addF
  exact h.upd

theorem State.maxF_steady {κ : Bool} {s₀ s : State} (base : Nat) (f : Fld) (v : Nat) (h : Steady κ s₀ s) :
    Steady κ s₀ (State.maxF s base f v) := by
  unfold State.maxF
  repeat' first
    | with_reducible assumption
    | with_reducible apply State.setF_steady
    | (with_reducible apply Steady.upd; with_reducible first | assumption | apply State.setF_steady)
    | split

theorem State.writeRW_steady {κ : Bool} {s₀ s : State} (a : Nat) (v : Nat) (h : Steady κ s₀ s) :
    Steady κ s₀ (State.writeRW s a v) := by
  unfold State.writeRW
  exact h.upd

theorem State.writePlain_steady {κ : Bool} {s₀ s : State} (a : Nat) (v : Nat) (h : Steady κ s₀ s) :
    Steady κ s₀ (State.writePlain s a v) := by
  unfold State.writePlain
  exact h.upd

theorem State.setCore_steady {κ : Bool} {s₀ s : State} (c : Nat) (x : CoreSt) (h : Steady κ s₀ s) :
    Steady κ s₀ (State.setCore s c x) := by
  unfold State.setCore
  exact h.upd

theorem State.setCluster_steady {κ : Bool} {s₀ s : State} (cl : Nat) (x : ClusterSt) (h : Steady κ s₀ s) :
    Steady κ s₀ (State.setCluster s cl x) := by
  unfold State.setCluster
  exact h.upd

theorem State.setEng_steady {κ : Bool} {s₀ s : State} (c : Nat) (e : Nat) (x : EngSt) (h : Steady κ s₀ s) :
    Steady κ s₀ (State.setEng s c e x) := by
  unfold State.setEng
  exact h.upd

theorem State.setSag_steady {κ : Bool} {s₀ s : State} (c : Nat) (n : Nat) (x : SagSt) (h : Steady κ s₀ s) :
    Steady κ s₀ (State.setSag s c n x) := by
  unfold State.setSag
  exact h.upd

theorem State.setHq_steady {κ : Bool} {s₀ s : State} (c : Nat) (q : Nat) (x : HqSt) (h : Steady κ s₀ s) :
    Steady κ s₀ (State.setHq s c q x) := by
  unfold State.setHq
  exact h.upd

theorem State.setOp_steady {κ : Bool} {s₀ s : State} (c : Nat) (o : Op) (h : Steady κ s₀ s) :
    Steady κ s₀ (State.setOp s c o) := by
  unfold State.setOp
  exact h.upd

theorem State.setDie_steady {κ : Bool} {s₀ s : State} (d : Nat) (x : DieSt) (h : Steady κ s₀ s) :
    Steady κ s₀ (State.setDie s d x) := by
  unfold State.setDie
  exact h.upd

theorem State.setFifo_steady {κ : Bool} {s₀ s : State} (k : Nat) (x : FifoSt) (h : Steady κ s₀ s) :
    Steady κ s₀ (State.setFifo s k x) := by
  unfold State.setFifo
  exact h.upd

theorem State.setStream_steady {κ : Bool} {s₀ s : State} (k : Nat) (x : StreamSt) (h : Steady κ s₀ s) :
    Steady κ s₀ (State.setStream s k x) := by
  unfold State.setStream
  exact h.upd

theorem State.setFeed_steady {κ : Bool} {s₀ s : State} (p : Nat) (x : FeedSt) (h : Steady κ s₀ s) :
    Steady κ s₀ (State.setFeed s p x) := by
  unfold State.setFeed
  exact h.upd

theorem State.setMvr_steady {κ : Bool} {s₀ s : State} (u : Nat) (n : Nat) (x : MvrSt) (h : Steady κ s₀ s) :
    Steady κ s₀ (State.setMvr s u n x) := by
  unfold State.setMvr
  exact h.upd

theorem State.setPort_steady {κ : Bool} {s₀ s : State} (p : Nat) (x : PortSt) (h : Steady κ s₀ s) :
    Steady κ s₀ (State.setPort s p x) := by
  unfold State.setPort
  exact h.upd

theorem State.emit_steady {κ : Bool} {s₀ s : State} (o : Out) (h : Steady κ s₀ s) :
    Steady κ s₀ (State.emit s o) := by
  unfold State.emit
  exact h.upd

theorem State.setPlan_steady {κ : Bool} {s₀ s : State} (p : Nat) (x : PlanSt) (h : Steady κ s₀ s) :
    Steady κ s₀ (State.setPlan s p x) := by
  unfold State.setPlan
  exact h.upd

theorem injected_steady {κ : Bool} {s₀ s : State} (d : Nat) (target : Nat) (h : Steady κ s₀ s) :
    Steady κ s₀ (injected s d target).2 := by
  unfold injected
  repeat' first
    | with_reducible assumption
    | extract_lets +onlyGivenNames x
    | with_reducible apply State.addF_steady
    | with_reducible apply State.setF_steady
    | (with_reducible apply Steady.upd
       with_reducible first
       | assumption
       | apply State.addF_steady
       | apply State.setF_steady)
    | split

theorem emitFlit_steady {κ : Bool} {s₀ s : State} (p : Nat) (f : Flit) (h : Steady κ s₀ s) :
    Steady κ s₀ (emitFlit s p f) := State.emit_steady _ h

theorem portXmit_steady {κ : Bool} {s₀ s : State} (p : Nat) (f : Flit) (h : Steady κ s₀ s) :
    Steady κ s₀ (portXmit s p f) := by
  unfold portXmit
  exact emitFlit_steady _ _ (State.setPort_steady _ _ h)

theorem portDrain_steady {κ : Bool} {s₀ s : State} (p : Nat) (h : Steady κ s₀ s) :
    Steady κ s₀ (portDrain s p) := by
  unfold portDrain
  repeat' first
    | with_reducible assumption
    | (extract_lets +onlyGivenNames x
       first
       | (refine Steady.cut (s := s₀) x ?_ ?_ <;> [subst x; (intro _; clear_value x)])
       | (refine Steady.cutSnd (s := s₀) x ?_ ?_ <;> [subst x; (intro _; clear_value x)])
       | (refine Steady.cutFst (s := s₀) x ?_ ?_ <;> [subst x; (intro _; clear_value x)])
       | skip)
    | with_reducible apply State.setPort_steady
    | with_reducible apply portXmit_steady
    | with_reducible apply Steady.foldl
    | with_reducible apply Steady.foldlFst
    | with_reducible apply Steady.foldlSnd
    | (intro _; try beta_reduce)
    | with_reducible apply Steady.ofIte
    | with_reducible apply Steady.ofIteSnd
    | with_reducible apply Steady.ofIteFst
    | (with_reducible apply Steady.ofPair; with_reducible assumption)
    | (with_reducible apply Steady.ofPairFst; with_reducible assumption)
    | (with_reducible apply Steady.upd
       with_reducible first
       | assumption
       | apply State.setPort_steady
       | apply portXmit_steady
       | apply Steady.foldl
       | apply Steady.foldlFst
       | apply Steady.foldlSnd
       | apply Steady.ofIte
       | (apply Steady.ofPair; assumption)
       | (apply Steady.ofPairFst; assumption))
    | split

theorem flitSend_steady {κ : Bool} {s₀ s : State} (f : Flit) (h : Steady κ s₀ s) :
    Steady κ s₀ (flitSend s f).2 := by
  unfold flitSend
  repeat' first
    | with_reducible assumption
    | extract_lets +onlyGivenNames x
    | with_reducible apply State.setPort_steady
    | with_reducible apply portDrain_steady
    | (with_reducible apply Steady.upd
       with_reducible first
       | assumption
       | apply State.setPort_steady
       | apply portDrain_steady)
    | split

theorem hostPut_steady {κ : Bool} {s₀ s : State} (addr : Nat) (data : Bytes) (relaxed : Bool) (h : Steady κ s₀ s) :
    Steady κ s₀ (hostPut s addr data relaxed) := by
  unfold hostPut
  repeat' first
    | with_reducible assumption
    | (extract_lets +onlyGivenNames x
       first
       | (refine Steady.cut (s := s₀) x ?_ ?_ <;> [subst x; (intro _; clear_value x)])
       | (refine Steady.cutSnd (s := s₀) x ?_ ?_ <;> [subst x; (intro _; clear_value x)])
       | (refine Steady.cutFst (s := s₀) x ?_ ?_ <;> [subst x; (intro _; clear_value x)])
       | skip)
    | with_reducible apply State.emit_steady
    | with_reducible apply flitSend_steady
    | with_reducible apply Steady.foldl
    | with_reducible apply Steady.foldlFst
    | with_reducible apply Steady.foldlSnd
    | (intro _; try beta_reduce)
    | with_reducible apply Steady.ofIte
    | with_reducible apply Steady.ofIteSnd
    | with_reducible apply Steady.ofIteFst
    | (with_reducible apply Steady.ofPair; with_reducible assumption)
    | (with_reducible apply Steady.ofPairFst; with_reducible assumption)
    | (with_reducible apply Steady.upd
       with_reducible first
       | assumption
       | apply State.emit_steady
       | apply flitSend_steady
       | apply Steady.foldl
       | apply Steady.foldlFst
       | apply Steady.foldlSnd
       | apply Steady.ofIte
       | (apply Steady.ofPair; assumption)
       | (apply Steady.ofPairFst; assumption))
    | split

theorem hostWrite_steady {κ : Bool} {s₀ s : State} (addr : Nat) (data : Bytes) (h : Steady κ s₀ s) :
    Steady κ s₀ (hostWrite s addr data) := hostPut_steady _ _ _ h

theorem hostRead_steady {κ : Bool} {s₀ s : State} (addr : Nat) (len : Nat) (got : Option Bytes) (h : Steady κ s₀ s) :
    Steady κ s₀ (hostRead s addr len got).2 := by
  unfold hostRead
  repeat' first
    | with_reducible assumption
    | (extract_lets +onlyGivenNames x; refine Steady.cut (s := s₀) x ?_ ?_ <;> [subst x; (intro _; clear_value x)])
    | extract_lets +onlyGivenNames x
    | with_reducible apply State.emit_steady
    | with_reducible apply flitSend_steady
    | with_reducible apply Steady.foldl
    | (intro _; try beta_reduce)
    | (with_reducible apply Steady.upd
       with_reducible first
       | assumption
       | apply State.emit_steady
       | apply flitSend_steady)
    | split

theorem raiseVector_steady {κ : Bool} {s₀ s : State} (v : Nat) (h : Steady κ s₀ s) :
    Steady κ s₀ (raiseVector s v) := by
  unfold raiseVector
  repeat' first
    | with_reducible assumption
    | with_reducible apply State.emit_steady
    | with_reducible apply State.setReg_steady
    | with_reducible apply flitSend_steady
    | (with_reducible apply Steady.upd
       with_reducible first
       | assumption
       | apply State.emit_steady
       | apply State.setReg_steady
       | apply flitSend_steady)
    | split

theorem fifPend_steady {κ : Bool} {s₀ s : State} (k : Nat) (h : Steady κ s₀ s) :
    Steady κ s₀ (fifPend s k) := by
  unfold fifPend
  repeat' first
    | with_reducible assumption
    | extract_lets +onlyGivenNames x
    | with_reducible apply State.setReg_steady
    | with_reducible apply raiseVector_steady
    | (with_reducible apply Steady.upd
       with_reducible first
       | assumption
       | apply State.setReg_steady
       | apply raiseVector_steady)
    | split

theorem logEvent_steady {κ : Bool} {s₀ s : State} (code core slot a0 a1 a2 a3 : Nat) (h : Steady κ s₀ s) :
    Steady κ s₀ (logEvent s code core slot a0 a1 a2 a3) := by
  unfold logEvent
  dsimp only
  refine raiseVector_steady _ (State.setF_steady _ _ _ ?_)
  refine ⟨h.pending, h.b0, h.fuses, fun i => ⟨(h.inv i).mem, ?_, (h.inv i).fuses, ?_⟩, h.hot⟩
  case refine_2 => exact (h.inv i).tap.of rfl
  have := (h.inv i).log
  simp only [List.length_drop, List.length_append, List.length_singleton]
  omega

theorem logBusError_steady {κ : Bool} {s₀ s : State} (a : Nat) (h : Steady κ s₀ s) :
    Steady κ s₀ (logBusError s a) := by
  unfold logBusError
  repeat' first
    | with_reducible assumption
    | with_reducible apply logEvent_steady
    | with_reducible apply Steady.upd
    | split

theorem logUncorrectable_steady {κ : Bool} {s₀ s : State} (a : Nat) (req : Nat) (core : Nat) (h : Steady κ s₀ s) :
    Steady κ s₀ (logUncorrectable s a req core) := by
  unfold logUncorrectable
  repeat' first
    | with_reducible assumption
    | with_reducible apply logEvent_steady
    | with_reducible apply Steady.upd
    | split

theorem writeCompletion_steady {κ : Bool} {s₀ s : State} (e : Bytes) (noirq : Bool) (h : Steady κ s₀ s) :
    Steady κ s₀ (writeCompletion s e noirq) := by
  unfold writeCompletion
  repeat' first
    | with_reducible assumption
    | with_reducible apply State.setF_steady
    | with_reducible apply hostWrite_steady
    | with_reducible apply raiseVector_steady
    | (with_reducible apply Steady.upd
       with_reducible first
       | assumption
       | apply State.setF_steady
       | apply hostWrite_steady
       | apply raiseVector_steady)
    | split

theorem finish_steady {κ : Bool} {s₀ s : State} (i : Nat) (status : Nat) (detail : Nat) (result : Bytes) (h : Steady κ s₀ s) :
    Steady κ s₀ (finish s i status detail result) := by
  unfold finish
  repeat' first
    | with_reducible assumption
    | with_reducible apply flitSend_steady
    | with_reducible apply writeCompletion_steady
    | (with_reducible apply Steady.upd
       with_reducible first
       | assumption
       | apply flitSend_steady
       | apply writeCompletion_steady)
    | split

theorem finishAll_steady {κ : Bool} {s₀ s : State} (p : Taken → Bool) (r : Taken → Nat × Nat × Bytes) (h : Steady κ s₀ s) :
    Steady κ s₀ (finishAll s p r) := by
  unfold finishAll
  repeat' first
    | with_reducible assumption
    | (extract_lets +onlyGivenNames x; refine Steady.cut (s := s₀) x ?_ ?_ <;> [subst x; (intro _; clear_value x)])
    | extract_lets +onlyGivenNames x
    | with_reducible apply finish_steady
    | with_reducible apply Steady.foldl
    | (intro _; try beta_reduce)
    | (with_reducible apply Steady.upd; with_reducible first | assumption | apply finish_steady)
    | split

theorem startTaken_steady {κ : Bool} {s₀ s : State} (i : Nat) (v0 : Nat) (v1 : Nat) (h : Steady κ s₀ s) :
    Steady κ s₀ (startTaken s i v0 v1) := by
  unfold startTaken
  repeat' first
    | with_reducible assumption
    | (with_reducible apply Steady.upd; with_reducible first | assumption)
    | split

theorem countResult_steady {κ : Bool} {s₀ s : State} (k : Nat) (h : Steady κ s₀ s) :
    Steady κ s₀ (countResult s k) := by
  unfold countResult
  repeat' first
    | with_reducible assumption
    | extract_lets +onlyGivenNames x
    | with_reducible apply State.setStream_steady
    | with_reducible apply raiseVector_steady
    | (with_reducible apply Steady.upd
       with_reducible first
       | assumption
       | apply State.setStream_steady
       | apply raiseVector_steady)
    | split

theorem writeResult_steady {κ : Bool} {s₀ s : State} (k : Nat) (user : Nat) (seq : Nat) (outBytes : Nat) (flags : Nat) (ring
    : Nat) (noirq : Bool) (h : Steady κ s₀ s) :
    Steady κ s₀ (writeResult s k user seq outBytes flags ring noirq) := by
  unfold writeResult
  repeat' first
    | with_reducible assumption
    | with_reducible apply State.setF_steady
    | with_reducible apply State.setStream_steady
    | with_reducible apply countResult_steady
    | with_reducible apply hostWrite_steady
    | (with_reducible apply Steady.upd
       with_reducible first
       | assumption
       | apply State.setF_steady
       | apply State.setStream_steady
       | apply countResult_steady
       | apply hostWrite_steady)
    | split

theorem setFrame_steady {κ : Bool} {s₀ s : State} (f : Frame) (h : Steady κ s₀ s) :
    Steady κ s₀ (setFrame s f) := by
  unfold setFrame
  exact h.upd

theorem relayPump_steady {κ : Bool} {s₀ s : State}  (h : Steady κ s₀ s) :
    Steady κ s₀ (relayPump s) := by
  unfold relayPump
  repeat' first
    | with_reducible assumption
    | (extract_lets +onlyGivenNames x
       first
       | (refine Steady.cut (s := s₀) x ?_ ?_ <;> [subst x; (intro _; clear_value x)])
       | (refine Steady.cutSnd (s := s₀) x ?_ ?_ <;> [subst x; (intro _; clear_value x)])
       | (refine Steady.cutFst (s := s₀) x ?_ ?_ <;> [subst x; (intro _; clear_value x)])
       | skip)
    | with_reducible apply flitSend_steady
    | with_reducible apply Steady.foldl
    | with_reducible apply Steady.foldlFst
    | with_reducible apply Steady.foldlSnd
    | (intro _; try beta_reduce)
    | with_reducible apply Steady.ofIte
    | with_reducible apply Steady.ofIteSnd
    | with_reducible apply Steady.ofIteFst
    | (with_reducible apply Steady.ofPair; with_reducible assumption)
    | (with_reducible apply Steady.ofPairFst; with_reducible assumption)
    | (with_reducible apply Steady.upd
       with_reducible first
       | assumption
       | apply flitSend_steady
       | apply Steady.foldl
       | apply Steady.foldlFst
       | apply Steady.foldlSnd
       | apply Steady.ofIte
       | (apply Steady.ofPair; assumption)
       | (apply Steady.ofPairFst; assumption))
    | split

theorem relaySend_steady {κ : Bool} {s₀ s : State} (f : Flit) (h : Steady κ s₀ s) :
    Steady κ s₀ (relaySend s f) := by
  unfold relaySend
  repeat' first
    | with_reducible assumption
    | with_reducible apply relayPump_steady
    | with_reducible apply Steady.upd
    | split

theorem publish_steady {κ : Bool} {s₀ s : State} (f : Frame) (flags : Nat) (h : Steady κ s₀ s) :
    Steady κ s₀ (publish s f flags) := by
  unfold publish
  repeat' first
    | with_reducible assumption
    | extract_lets +onlyGivenNames x
    | with_reducible apply relaySend_steady
    | with_reducible apply writeResult_steady
    | (with_reducible apply Steady.upd
       with_reducible first
       | assumption
       | apply relaySend_steady
       | apply writeResult_steady)
    | split

theorem noteUE_steady {κ : Bool} {s₀ s : State} (bnk : Nat) (off : Nat) (h : Steady κ s₀ s) :
    Steady κ s₀ (noteUE s bnk off) := by
  unfold noteUE
  exact h.upd

theorem poison_steady {κ : Bool} {s₀ s : State} (w : Nat) (h : Steady κ s₀ s) : Steady κ s₀ (poison s w) := by
  unfold poison
  split
  · exact h
  · exact h.upd

theorem bankAccess_steady {κ : Bool} {s₀ s : State} (a len : Nat) (h : Steady κ s₀ s) :
    Steady κ s₀ (bankAccess s a len).2 := by
  unfold bankAccess
  extract_lets g t b i1 u i2
  have hi : Steady κ s₀ i1.2 := injected_steady _ _ h
  have hu : Steady κ s₀ u := Steady.ofIte (fun _ => State.addF_steady _ _ _ hi) (fun _ => hi)
  have h2 : Steady κ s₀ i2.2 := injected_steady _ _ hu
  split
  · exact noteUE_steady _ _ h2
  · exact Steady.ofIteSnd (fun _ => noteUE_steady _ _ h2) (fun _ => h2)

theorem noteMet_steady {κ : Bool} {s₀ s : State} (a len : Nat) (h : Steady κ s₀ s) : Steady κ s₀ (noteMet s a len) := by
  unfold noteMet
  exact Steady.ofIte (fun _ => h) fun _ => h.upd

/-- Accesses one after another keep what each of them keeps. -/
theorem allAccess_steady {κ : Bool} {s₀ s : State} {f : State → Nat → Nat → Option Nat × State} (l : List (Nat × Nat))
    (hf : ∀ u a len, Steady κ s₀ u → Steady κ s₀ (f u a len).2) (h : Steady κ s₀ s) : Steady κ s₀ (allAccess f s l).2 :=
  Steady.foldlSnd h fun u x hu => hf u.2 x.1 x.2 hu

theorem bankRead_steady {κ : Bool} {s₀ s : State} (a : Nat) (len : Nat) (h : Steady κ s₀ s) :
    Steady κ s₀ (bankRead s a len).2 :=
  allAccess_steady _ (fun _ a len => bankAccess_steady a len) (noteMet_steady _ _ h)

theorem sramMerge_steady {κ : Bool} {s₀ s : State} (a : Nat) (b : Bytes) (h : Steady κ s₀ s) :
    Steady κ s₀ (sramMerge s a b).2 := by
  unfold sramMerge
  extract_lets r t
  have hr : Steady κ s₀ r.2 := Steady.foldlSnd (noteMet_steady _ _ h) fun u x hu => Steady.ofIteSnd (fun _ => hu) fun _ =>
    Steady.ofIte (fun _ => bankAccess_steady _ _ hu) fun _ => poison_steady _ (bankAccess_steady _ _ hu)
  have ht : Steady κ s₀ t := Steady.foldl hr fun _ _ hu => Steady.ofIte (fun _ => hu) fun _ => State.putBytes_steady _ _ hu
  exact ht.upd

theorem sramWrite_steady {κ : Bool} {s₀ s : State} (a : Nat) (b : Bytes) (h : Steady κ s₀ s) :
    Steady κ s₀ (sramWrite s a b) := sramMerge_steady a b h

theorem noteLine_steady {κ : Bool} {s₀ s : State} (a : Nat) (h : Steady κ s₀ s) :
    Steady κ s₀ (noteLine s a) := by
  unfold noteLine
  exact h.upd

theorem lineAccess_steady {κ : Bool} {s₀ s : State} (a len : Nat) (h : Steady κ s₀ s) :
    Steady κ s₀ (lineAccess s a len).2 := by
  unfold lineAccess
  extract_lets l t i1 u i2
  have hi : Steady κ s₀ i1.2 := injected_steady _ _ h
  have hu : Steady κ s₀ u := Steady.ofIte (fun _ => State.addF_steady _ _ _ hi) (fun _ => hi)
  have h2 : Steady κ s₀ i2.2 := injected_steady _ _ hu
  exact Steady.ofIteSnd (fun _ => noteLine_steady _ h2) (fun _ => h2)

theorem lineRead_steady {κ : Bool} {s₀ s : State} (a : Nat) (len : Nat) (h : Steady κ s₀ s) :
    Steady κ s₀ (lineRead s a len).2 :=
  allAccess_steady _ (fun _ a len => lineAccess_steady a len) (noteMet_steady _ _ h)

theorem lineMerge_steady {κ : Bool} {s₀ s : State} (a : Nat) (b : Bytes) (h : Steady κ s₀ s) :
    Steady κ s₀ (lineMerge s a b).2 := by
  unfold lineMerge
  refine Steady.ofIteSnd (fun _ => h) fun _ => ?_
  extract_lets r t
  have hr : Steady κ s₀ r.2 := Steady.foldlSnd (noteMet_steady _ _ h) fun u x hu =>
    Steady.ofIte (fun _ => lineAccess_steady _ _ hu) fun _ => poison_steady _ (lineAccess_steady _ _ hu)
  have ht : Steady κ s₀ t := State.putBytes_steady _ _ hr
  exact ht.upd

theorem lineWrite_steady {κ : Bool} {s₀ s : State} (a : Nat) (b : Bytes) (h : Steady κ s₀ s) :
    Steady κ s₀ (lineWrite s a b) := lineMerge_steady a b h

theorem memRead_steady {κ : Bool} {s₀ s : State} (a : Nat) (len : Nat) (h : Steady κ s₀ s) :
    Steady κ s₀ (memRead s a len).2 := by
  unfold memRead
  refine Steady.ofIteSnd (fun _ => h) fun _ => ?_
  split
  · exact lineRead_steady _ _ h
  · exact bankRead_steady _ _ h
  · exact bankRead_steady _ _ h
  · exact h
  · exact h

theorem memWrite_steady {κ : Bool} {s₀ s : State} (a : Nat) (b : Bytes) (h : Steady κ s₀ s) :
    Steady κ s₀ (memWrite s a b).2 := by
  unfold memWrite
  refine Steady.ofIteSnd (fun _ => h) fun _ => ?_
  split
  · exact lineMerge_steady _ _ h
  · exact sramMerge_steady _ _ h
  · exact sramMerge_steady _ _ h
  · exact h

theorem maEnd_steady {κ : Bool} {s₀ s : State} (d g : Nat) (h : Steady κ s₀ s) : Steady κ s₀ (maEnd s d g) :=
  State.setDie_steady _ _ h

theorem scrubBlock_steady {κ : Bool} {s₀ s : State} (d c blk : Nat) (h : Steady κ s₀ s) :
    Steady κ s₀ (scrubBlock s d c blk) := by
  refine Steady.upd (Steady.foldl h fun u i hu => ?_)
  have hr := lineRead_steady (lineAddr d c (15 * blk + i)) 64 hu
  split
  · rename_i e
    exact logUncorrectable_steady _ _ _ (Steady.ofPair e hr)
  · rename_i e
    exact Steady.ofPair e hr

theorem sweepSave_steady {κ : Bool} {s₀ s : State} (d g : Nat) (h : Steady κ s₀ s) : Steady κ s₀ (sweepSave s d g) := by
  unfold sweepSave
  extract_lets a q
  have hq : Steady κ s₀ q.2 := bankRead_steady _ _ h
  refine Steady.upd ?_
  show Steady κ s₀ (match q.1 with
    | .inl w => logUncorrectable q.2 w 6 0xFF
    | .inr _ => q.2)
  split
  · exact logUncorrectable_steady _ _ _ hq
  · exact hq

theorem maRequest_steady {κ : Bool} {s₀ s : State} (d : Nat) (g : Nat) (code : Nat) (h : Steady κ s₀ s) :
    Steady κ s₀ (maRequest s d g code) := by
  unfold maRequest
  extract_lets act ask u v
  have hask : ∀ t l, Steady κ s₀ t → Steady κ s₀ (ask t l) := fun t l ht => State.setDie_steady _ _ ht
  have hu : Steady κ s₀ u := Steady.ofIte (fun _ => scrubBlock_steady _ _ _ h) fun _ => sweepSave_steady _ _ h
  have hv : Steady κ s₀ v := hask _ _ h
  exact Steady.ofIte (fun _ => State.addF_steady _ _ _ (hask _ _ (maEnd_steady _ _ hu))) fun _ =>
    Steady.ofIte (fun _ => hv) fun _ => State.addF_steady _ _ _ hv

theorem setHold_steady {κ : Bool} {s₀ s : State} (d : Nat) (g : Nat) (on : Bool) (h : Steady κ s₀ s) :
    Steady κ s₀ (setHold s d g on) := by
  unfold setHold
  repeat' first
    | with_reducible assumption
    | with_reducible apply State.setReg_steady
    | (with_reducible apply Steady.upd; with_reducible first | assumption | apply State.setReg_steady)
    | split

theorem wakeByAccess_steady {κ : Bool} {s₀ s : State} (d : Nat) (g : Nat) (h : Steady κ s₀ s) :
    Steady κ s₀ (wakeByAccess s d g) := by
  unfold wakeByAccess
  repeat' first
    | with_reducible assumption
    | extract_lets +onlyGivenNames x
    | with_reducible apply State.addF_steady
    | with_reducible apply State.setF_steady
    | with_reducible apply State.setDie_steady
    | with_reducible apply maRequest_steady
    | with_reducible apply setHold_steady
    | (with_reducible apply Steady.upd
       with_reducible first
       | assumption
       | apply State.addF_steady
       | apply State.setF_steady
       | apply maRequest_steady
       | apply setHold_steady)
    | split

end Sys2Proof.Machine
end

