-- ==== Sys2Proof/Laws/Tap.lean ====
section
/-! SUPPORT. The TAP controller (R539 to R543): where its walks lead, and what its commands keep. -/

namespace Sys2Proof.Machine
open Sys2Proof Sys2Proof.Machine.Reg

/-- A walk in two parts. -/
theorem tapWalk_append (s : State) (a b : List Bool) : tapWalk s (a ++ b) = tapWalk (tapWalk s a) b := List.foldl_append ..

/-- Shifting goes on while TMS is low. -/
theorem tapWalk_pausing (s : State) (n : Nat) (h : s.bscan.tap = .shiftDr) : tapWalk s (List.replicate n false) = s := by
  have e : tapClock s false = s := by
    have : ({ s with bscan := { s.bscan with tap := .shiftDr } } : State) = s := by rw [← h]
    simpa [tapClock, h, TapState.next] using this
  induction n with
  | zero => rfl
  | succ n ih => rw [List.replicate_succ]; show tapWalk (tapClock s false) _ = s; rw [e, ih]

/-- An instruction is loaded from rest: its code and its drive are in force, and the controller stands in Update-IR. -/
theorem tapLoad_eq (s : State) (code drive : Nat) (h : TapRests s) :
    tapLoad s code drive = { s with jtagIr := code, bscan := { s.bscan with drive := drive, tap := .updateIr } } := by
  rcases h with h | h <;> simp [tapLoad, tapToIr, tapWalk, tapClock, TapState.next, h]

/-- A register is shifted from Update-IR, and the controller rests again. -/
theorem tapShift_eq (s : State) (n captured : Nat) (h : s.bscan.tap = .updateIr) :
    tapShift s n captured = { s with bscan := { s.bscan with tap := .runTest } }.emit (.tdo n captured) := by
  have w : tapWalk s [true, false, false] = { s with bscan := { s.bscan with tap := .shiftDr } } := by
    simp [tapWalk, tapClock, TapState.next, h]
  unfold tapShift tapToDr
  rw [tapWalk_append, tapWalk_append, tapWalk_append, w, tapWalk_pausing _ _ rfl]
  rfl

/-- The TAP and the boundary register alone change. -/
theorem Steady.tap {κ : Bool} {s t u : State} (h : Steady κ s t)
    (e : { u with jtagIr := t.jtagIr, bscan := t.bscan, scanned := t.scanned, fresh := t.fresh, out := t.out } = t)
    (r : TapRests t → TapRests u) : Steady κ s u := by
  have p : u.pending = t.pending ∧ u.b0 = t.b0 ∧ u.fuses = t.fuses ∧ u.fuses0 = t.fuses0 ∧ u.mem = t.mem ∧ u.lost = t.lost ∧
      u.log = t.log ∧ u.hubHot = t.hubHot := by
    rw [← e]; exact ⟨rfl, rfl, rfl, rfl, rfl, rfl, rfl, rfl⟩
  obtain ⟨p1, p2, p3, p4, p5, p6, p7, p8⟩ := p
  exact ⟨p1.trans h.pending, p2.trans h.b0, fun j x => by rw [p3]; exact h.fuses j x,
    fun i => ⟨by rw [p5, p6]; exact (h.inv i).mem, by rw [p7]; exact (h.inv i).log,
      fun j => by rw [p4, p3]; exact (h.inv i).fuses j, r (h.inv i).tap⟩, fun x y => by rw [p8]; exact h.hot x y⟩

end Sys2Proof.Machine
end

