-- ==== Sys2Proof/WellFormed.lean ====
section
/-! DEFINITION. The commands that the block's surroundings can send: what a row's operands must satisfy beyond their
types. A command that is not well-formed is none of its row's; its meaning leaves the state as it is. -/

namespace Sys2Proof

/-- A write to a FIFO aperture lies within its 128 bytes (R342). -/
def apertureOk (off : Nat) (data : Bytes) : Bool := !data.isEmpty && decide (off + data.length ≤ 128)

/-- A register access by the host names an aligned word of BAR0: another is BAR0_INVALID_ACCESS (R397). The steward's may
name any address (R283). -/
def registerOk (host : Bool) (a : BitVec 48) : Bool := !host || (a.toNat % 4 = 0 && decide (a.toNat < 0x10000))

/-- An SPDM request carries the code of its row (R523). -/
def spdmIs (code : BitVec 8) (req : Bytes) : Bool := decide (4 ≤ req.length) && req[1]? = some code

/-- An SPDM request of no code of Table 15.12. -/
def spdmOtherOk (req : Bytes) : Bool :=
  decide (4 ≤ req.length) && !([0x84, 0xE1, 0xE3, 0x81, 0x82, 0x83, 0xE0].any (fun c => spdmIs c req))

/-- A flit carries the kind of its row in byte 0 (Tables 13.1, 13.2). -/
def flitIs (kind : Nat) (w : BitVec 2048) : Bool := w.toNat % 256 = kind

/-- A monitor line is at most 256 characters: the name, a space, the arguments (R528). -/
def lineOk (name : Nat) (args : Bytes) : Bool := decide (name + 1 + args.length ≤ 256)

/-- A command is well-formed. -/
def Instr.wf (i : Instr) : Bool :=
  match i with
  | .crEnable _ => true
  | .crDisable _ => true
  | .ccEnable _ => true
  | .ccDisable _ => true
  | .crTailWrite _ => true
  | .ccHeadWrite _ => true
  | .commandTake _ => true
  | .devInfo _ => true
  | .planLoad _ _ _ => true
  | .planStart _ => true
  | .planStop _ => true
  | .planUnload _ => true
  | .streamOpen _ => true
  | .streamClose _ => true
  | .kilnRun _ => true
  | .fenceCore _ => true
  | .resetDevice _ => true
  | .powerState _ => true
  | .attestQuote _ => true
  | .logRead _ => true
  | .inject _ => true
  | .relayTopology _ _ _ _ => true
  | .frTailWrite _ _ => true
  | .rrHeadWrite _ _ => true
  | .descriptorFetch _ _ => true
  | .bar2Read n len => decide (1 ≤ len.val) && decide (n.toNat + len.val ≤ 2 ^ 28)
  | .bar2Write n data => !data.isEmpty && decide (n.toNat + data.length ≤ 2 ^ 28)
  | .bar0InvalidAccess _ => true
  | .functionLevelReset => true
  | .hotReset => true
  | .perstNAssert _ => true
  | .perstNRelease _ _ => true
  | .frameAdmission _ => true
  | .roundWindowClose _ => true
  | .frameEndReport _ => true
  | .resultPublish => true
  | .resultModerationTimer _ => true
  | .outputTimeout _ _ => true
  | .hubTokenReceive _ _ _ => true
  | .drainProbeStart _ => true
  | .drainTimeout _ => true
  | .txuCommit _ => true
  | .txuClear _ => true
  | .txuActWrite _ _ _ _ => true
  | .txuFenceSet _ _ => true
  | .txuPrepare _ => true
  | .txuVote _ => true
  | .txuVoteTimeout => true
  | .txuApply _ => true
  | .txuDiscard _ => true
  | .txuAck _ => true
  | .nop _ => true
  | .conv _ => true
  | .wino _ => true
  | .dwconv _ => true
  | .matmul _ => true
  | .pool _ => true
  | .resize _ => true
  | .eltwise _ => true
  | .reduce _ => true
  | .gather _ => true
  | .scatter _ => true
  | .segment _ => true
  | .topk _ => true
  | .sort _ => true
  | .knn _ => true
  | .fps _ => true
  | .ball _ => true
  | .copy _ => true
  | .halo _ => true
  | .crop _ => true
  | .s2d _ => true
  | .d2s _ => true
  | .loadw _ => true
  | .kiln _ => true
  | .wait _ => true
  | .signal _ => true
  | .release _ => true
  | .loop _ => true
  | .jump _ => true
  | .barrier _ => true
  | .endOp _ => true
  | .macroOpComplete _ _ => true
  | .seqEofToken _ => true
  | .stageWatchdogTick _ => true
  | .engineVector _ _ => true
  | .shadowBeat _ _ => true
  | .shadowSwap _ _ => true
  | .ppuElement _ _ => true
  | .sagStep _ _ => true
  | .sagNop _ _ => true
  | .sagSeti _ _ => true
  | .sagAddi _ _ => true
  | .sagAdd _ _ => true
  | .sagModi _ _ => true
  | .sagEmit _ _ => true
  | .sagEmitz _ _ => true
  | .sagSetc _ _ => true
  | .sagLoop _ _ => true
  | .sagJmp _ _ => true
  | .sagEnd _ _ => true
  | .engSeedWrite _ _ _ => true
  | .coreConfigWrite _ off _ => off.toNat % 4 = 0
  | .hqConfigWrite _ _ off _ => off.toNat % 4 = 0 && decide (off.toNat < 0x18)
  | .tokenArrive _ _ _ => true
  | .passThroughForward _ _ => true
  | .tokenSteer _ _ => true
  | .joinFire _ _ => true
  | .gustFeedWrite _ _ off data => data.length = 64 && off.toNat % 64 = 0
  | .gustBeat _ _ => true
  | .lullTick _ => true
  | .spillComplete _ => true
  | .rotationComplete _ => true
  | .refillComplete _ => true
  | .rluAccept _ => true
  | .rluGatherIssue _ => true
  | .rluGatherReturn _ _ _ => true
  | .overflowPass _ _ => true
  | .rluOpComplete _ _ => true
  | .abortNotice _ _ => true
  | .abortHistoryInvalidate _ => true
  | .mvrArm _ _ _ => true
  | .mvrAbort _ _ => true
  | .mvrBurst _ => true
  | .mvrNop _ _ => true
  | .mvrMove _ _ => true
  | .mvrMove2d _ _ => true
  | .mvrLoop _ _ => true
  | .mvrWait _ _ => true
  | .mvrSignal _ _ => true
  | .mvrEnd _ _ => true
  | .fifApertureWrite _ off data => apertureOk off.toNat data
  | .fifConfigWrite _ _ _ => true
  | .pullRequest _ => true
  | .pullCompletion _ _ _ => true
  | .pullTimeout _ _ => true
  | .feederBufferStart _ => true
  | .feederWord _ => true
  | .feederEof _ => true
  | .bankSweepClaim _ _ => true
  | .sweepRegionDone _ _ _ => true
  | .retentionRequest _ _ => true
  | .wakeRequest _ _ => true
  | .retentionEntryDone _ _ => true
  | .wakeDone _ _ => true
  | .maintenanceGrant _ _ => true
  | .lpddrRefresh _ _ => true
  | .zqCalibration _ _ => true
  | .dqsOscCheck _ _ => true
  | .patrolScrubStep _ _ => true
  | .mr4Poll _ _ _ => true
  | .porNAssert _ => true
  | .porNRelease _ _ => true
  | .hostBootGo => true
  | .firmwareVerified _ _ _ _ => true
  | .memoryTrainingDone _ _ _ _ => true
  | .squallBegin _ => true
  | .vddMonitorSample _ _ => true
  | .squallEnd _ => true
  | .brownOut _ _ => true
  | .dieBrownoutRecovery _ => true
  | .tempSample _ _ => true
  | .overtempEnd _ => true
  | .dieHeatRecovery _ => true
  | .pmbusPoll _ _ => true
  | .pmbAlert _ => true
  | .vsetWrite _ _ => true
  | .stewardWatchdogExpiry => true
  | .wdogKick => true
  | .flushSettleEnd _ => true
  | .rlyPortEnable _ => true
  | .rlyPortDisable _ => true
  | .rlyRetrain _ => true
  | .rlySignalDetect _ => true
  | .rlyTrainingDone _ => true
  | .rlyTrainingTimeout _ => true
  | .rlyLockDone _ => true
  | .rlyLockTimeout _ => true
  | .idleFlit _ w _ => flitIs 0x00 w
  | .trainFlit _ w _ => flitIs 0x01 w
  | .syncFlit _ w _ => flitIs 0x02 w
  | .cmdFlit _ w _ => flitIs 0x10 w
  | .cplFlit _ w _ => flitIs 0x11 w
  | .fcredFlit _ w _ => flitIs 0x12 w
  | .mrdFlit _ w _ _ => flitIs 0x20 w
  | .mwrFlit _ w _ => flitIs 0x21 w
  | .irqFlit _ w _ => flitIs 0x22 w
  | .mcplFlit _ w _ => flitIs 0x28 w
  | .fhdrFlit _ w _ => flitIs 0x30 w
  | .fdataFlit _ w _ => flitIs 0x31 w
  | .fendFlit _ w _ => flitIs 0x32 w
  | .flitCorrupt _ _ => true
  | .replayTimeout _ => true
  | .syncTimer _ => true
  | .creditReturn _ => true
  | .flitForward _ _ => true
  | .doeDiscovery _ => true
  | .getVersion req => spdmIs 0x84 req
  | .getCapabilities req => spdmIs 0xE1 req
  | .negotiateAlgorithms req => spdmIs 0xE3 req
  | .getDigests req => spdmIs 0x81 req
  | .getCertificate req => spdmIs 0x82 req
  | .challenge req => spdmIs 0x83 req
  | .getMeasurements req => spdmIs 0xE0 req
  | .doeAbort => true
  | .monHelp args => lineOk 4 args
  | .monId args => lineOk 2 args
  | .monStat args => lineOk 4 args
  | .monBaud args => lineOk 4 args
  | .monChal args => lineOk 4 args
  | .monRsp args => lineOk 3 args
  | .monUnlk args => lineOk 4 args
  | .monLock args => lineOk 4 args
  | .monRd args => lineOk 2 args
  | .monPk args => lineOk 2 args
  | .monWr args => lineOk 2 args
  | .monMrd args => lineOk 3 args
  | .monMwr args => lineOk 3 args
  | .monLog args => lineOk 3 args
  | .monFuse args => lineOk 4 args
  | .monBurn args _ => lineOk 4 args
  | .lineDiscard => true
  | .challengeExpiry => true
  | .lockoutEnd => true
  | .dbgLockWrite => true
  | .jtagExtest => true
  | .jtagSamplePreload => true
  | .jtagIdcode => true
  | .jtagClamp => true
  | .jtagHighz => true
  | .jtagExtestPulse => true
  | .jtagExtestTrain => true
  | .jtagBypass code => decide (7 ≤ code.toNat)
  | .trstNAssert => true
  | .smbDieTemp => true
  | .smbHubTemp => true
  | .smbStatus => true
  | .smbStepping => true
  | .cadTimeLoRead _ => true
  | .readClear host a _ => registerOk host a
  | .registerWrite host a _ _ => registerOk host a
  | .vddHubLow => true
  | .configurationRequest _ o _ _ => o.toNat % 4 = 0
  | .stewardRestartComplete => true
  | .powerStateExitDone => true
  | .smbUnsupportedRequest readByte command => !(readByte && decide (command.toNat < 4))
  | .monitorUnknownCommand line => decide (line.length ≤ 256)
  | .spdmUnsupportedRequest req => spdmOtherOk req
  | .reservedMacroOperation _ => true
  | .sagReservedOpcode _ _ => true
  | .mvrReservedOpcode _ _ => true
  | .reservedFlit _ _ _ => true

end Sys2Proof
end

