-- ==== Sys2Proof/Tests/Slice0.lean ====
section
/-! SUPPORT. Worked examples from the spec, a refused term for each check of WellFormed, and for every statement with
hypotheses states and operands that meet them. -/

namespace Sys2Proof.Tests
open Sys2Proof Sys2Proof.Machine Sys2Proof.Machine.Reg
set_option Elab.async false

/-- A device that has booted and is the head of its chain. -/
def up : State :=
  ({ State.reset with boot := { BootSt.reset with scope := 0, cfgReady := true, image := [1], upNs := 1000000 }, timeBase := 2000000000 }.setF
    hubWin MBX_STATUS_READY 1).setF hubWin MBX_STATUS_HEAD 1

/-- A command entry: code, and its arguments from byte 8. -/
def entry (op : Nat) (args : Bytes) : Bytes := slice (natToBytes 1 op ++ [0, 0, 0, 0, 0, 0, 0] ++ args) 0 64

/-- A command taken. -/
def cmd (op : Nat) (args : Bytes) : Taken := ⟨entry op args, 0, none, false, 0, 0⟩

/-- The device with one command taken. -/
def having (s : State) (c : Taken) : State := { s with taken := [c] }
/-- The modulus of a key of 4,096 bits, made for these tests. -/
def keyN : Nat :=
  0x63079c8269f159d098efc262e5583912d563c2c19cb7aec45ebcc3c7f964f52746e56345e8aad820b95c77ba337a1f7c21bdc7f288335a21703e9fe0d141d5b9 +
  2 ^ 512 * 0xa3d4f5a644a8aa3df41d91c5efb646f1671b8da5c5da349de635a60d73b54e41dfd49daa08c36b8f81cf884e482ce050869c06ea3d3ec9e19ac60cb4b747cd11 +
  2 ^ 1024 * 0xc3057901420495fe0399b258b90640c44913ac68b5974a4d8a559490b252fe848935a91ecb45babe7d440b7363e7dcf09abc98fae31090891958b955b4b1711 +
  2 ^ 1536 * 0xa1a91854f6cf3d7e44693f99faef5e53dbc525225258606b14cefb1da1ea0e694cf70e862d41dde5d27b6be554e1bfbb074d8b9e669eb32d82b27ac493fde28a +
  2 ^ 2048 * 0x9deb661bbdb24529a9d47f701c209ff4a2b6a0c8e7852041823b1039d6e4995d6173886c9828b0e705eb9c10bec138a2ff37e1ca0a9a07de9b798cdefd43159a +
  2 ^ 2560 * 0x6bd6d981b59d3af907ca95cc7b13a7c6605efa75707a585667acc772425ea590a889033c8cba2dcf1b2b3a7095da553ebb11acd5f796743ca2471ba97ea4f9e0 +
  2 ^ 3072 * 0xb2fd8c694b8e5fb01ec674c17b192636981a7e1d94495c224cd49d8fee2447e7d2f83ed6f01980827b93096de5b84d6a2c12a90543b5b5849941bd42127e518e +
  2 ^ 3584 * 0xf698b2ca31255a7f1e646a8665f0c66640f5fb81fa78ffd116f1a411abc750fcbd0ebb74e5278e54d2c2df3fd17b27466b98037f2598a2274da3f41e750e6194

/-- Its KEYHASH fuse: the SHA-512 of modulus and exponent (R509). -/
def keyHash : Nat :=
  0x32e1d1e80c5ffb99a7b3b47b414ec0688b9b7c3921537c188bf5588a38a651ab1e3cd6c9584ee17d028a743ae40928992cb4d0b31344ee8c1387974e30de547d

/-- A signature under the key, made with OpenSSL (RSASSA-PSS, SHA-512, a salt of 64 bytes), of the header signedHeader. -/
def sigImage : Nat :=
  0x30b515ba6de4f52c8f9201d7434b53ba7242043cef1b808ba16e8e4bc4b7187d612395a97f07b8f4d3e2523327f3d1989d52ecf17140ad3c27924f8dff81a9f1 +
  2 ^ 512 * 0xbdff58b67c049db54d78339bf2c33947a2fb94d6bcc35c370973ed1967d879d8786d830ca8f658304b197767d9e0f8deac5cc6d2073699f6c65bd548e3d5fefa +
  2 ^ 1024 * 0x228509aaeb6328a44829e97ef287d30d42fe6a461290083f95daabd0f7bd012fd38b2608ee529f7fe1850e43098753eee672804cec9f6f0d5b95676740802a28 +
  2 ^ 1536 * 0xc0bce1b19a36e749dc1f324099f0351b74953ea9ebac03ae06346536fa3800211e5036e166015bd008deddd5b2577663023b719286c772317c3e8579f34e5f5 +
  2 ^ 2048 * 0xf5b2fcb9639cccffb3411f06bb88d8e0b22bca9615e1df57840caabff72d0e0fb252a323be4f5fa9a3042a9c0de25787a8fdfe2db4b464f133c33de729fce518 +
  2 ^ 2560 * 0xdbb962c063966245ca587fe5a7944e903f12c6c19959a4dda23ca9a181c835188d0c4d86ff701e5b0f40e61ac604847f496d8f2d471ba0bf6cf101ebdc78235b +
  2 ^ 3072 * 0x14cb1b3e73638a575f44f341804594a6b25e0ef1b1e5df3ee938d4b1950c35830cc71b6169b90da37371796f415c8cde1f1d9a2ffd681e50bcb9b3423b617772 +
  2 ^ 3584 * 0xa5244b43fcba980f38f331edfe16a33234224ae4f5658b8905b087c3986d31bd2d4749f1758b9b79294bc7012c3d44d15c8743900ba829b9f6810e4540f41f5f

/-- The same of the bytes 0 to 127. -/
def sigRecord : Nat :=
  0xa68ae71b99aa10b5cf4861379a9b89573f2824b7c6e4c228f63d612b9112e4f918dccc7db09d069d1c72cb29de84bed55b7b3ea23a94c003d281eb719bc5493b +
  2 ^ 512 * 0x68a6f9e03cdf89e12b93ee096fbb775bea093fbc6f4740a1b23570e126448c9d5f26a5712adca687b58f6d3ba2a1cd8e7a8b4a135ee3bb3bb7499303d0b37fb1 +
  2 ^ 1024 * 0x8362d28991825749910c74ef03ff74ad572e209b6496ae13e721d85ccccdb0b591ff254be1dd06a8c782e001d4e73b9284d31824dc5007b8a5942891f7165fdf +
  2 ^ 1536 * 0x45c09dfa18124ca0e5bf877aa65bf9f208b106001b6beb6b57f2b1224a6ac100155e3290ac4fdde4cda9ad1639fa19df9b4e762f642ee22c4150004c55afa3f2 +
  2 ^ 2048 * 0x64a78ca31041999949c8e4aa21548285b936f7359a2d21a4ee001ec2041a93e4f49c6bff63e6b99b18a95bf52a5cf56882c53d12a3e35db66b26c859e71d1ae6 +
  2 ^ 2560 * 0xa94cb13169a1e6a632da3b9b6d1e5da1f8d859444677ac814aa600557337f946bfccfbe67ed9cd437a5690b7ef64c05fd1185fa5bd59c9a6a9eb39a7cec90b8b +
  2 ^ 3072 * 0x3ab0d32d7e10f7096e7ac6bf7533e488f9be32fe629624f2a457a8878b8280c22cc7db57ee29df8106de0343378a28b6c6588a3e4d43bffdf99f27191c3ca155 +
  2 ^ 3584 * 0x13f641f2daab95641c4f6af5d5baa8d2687907ef81710864ff1ae852338193e5992e32155023d77d23bcf41f1ec3d7ba5845fec53401472b9d3b15761dbd9ae7


/-- A small plan image: FEATURES, then PLANINFO (at 192), CLAIMS (at 256) and the PROOF of configuration 0 (at 384), whose
one stage runs on some cores. -/
def image (features : Nat) (info claims : Bytes) (cores : Nat) : Bytes :=
  let sect (typ off len : Nat) : Bytes := natToBytes 8 typ ++ natToBytes 8 off ++ natToBytes 8 len ++ natToBytes 8 0
  slice (natToBytes 12 0 ++ natToBytes 4 3 ++ natToBytes 8 832 ++ natToBytes 4 features ++ natToBytes 20 0 ++
    natToBytes 8 64) 0 64 ++
  slice (sect 1 192 64 ++ sect 4 256 128 ++ sect 3 384 448) 0 128 ++ slice info 0 64 ++ slice claims 0 128 ++
  slice [0, 0, 1, 0] 0 256 ++ slice (natToBytes 16 0 ++ natToBytes 16 cores) 0 192

/-- PLANINFO: P_ADM, L_PLAN, GRID, NSEG, BSEG, P_BATCH. -/
def info (padm lplan grid nseg bseg pbatch : Nat) : Bytes :=
  natToBytes 4 padm ++ natToBytes 4 lplan ++ natToBytes 4 grid ++ natToBytes 2 0 ++ natToBytes 2 nseg ++ natToBytes 4 bseg ++
    natToBytes 4 pbatch

/-- A plan of one segment that holds the cores of a mask. -/
def onePlan (held : Nat) : PlanSt := { PlanSt.reset with img := image 0 (info 1000 5000 0 1 1 0) (natToBytes 16 held) held }

/-- The device with a plan in slot 0, in a state of Table 1.1. -/
def withPlan (s : State) (x : PlanSt) (st : Nat) : State := (s.setPlan 0 x).setF (cadBase 0) CAD_STATE_SLOT st

/-- The arguments of a STREAM_OPEN of stream 5 to plan slot 0 that Table 11.10 accepts. -/
def openArgs (interval : Nat) : Bytes :=
  [5, 0, 0xFF, 4] ++ natToBytes 2 0x400 ++ [1, 0] ++ natToBytes 4 64 ++ natToBytes 4 64 ++ natToBytes 4 0 ++
    natToBytes 4 interval ++ natToBytes 8 4096 ++ natToBytes 8 8192 ++ [4]

/-- Both rings enabled with 16 entries, one command behind the head. -/
def rings : State :=
  ((((up.setF hubWin MBX_CR_CFG_EN 1).setF hubWin MBX_CR_CFG_SIZE 4).setF hubWin MBX_CC_CFG_EN 1).setF hubWin MBX_CC_CFG_SIZE 4).setF
    hubWin MBX_CR_TAIL_INDEX 1

/-- An image of 1,296 bytes that a load accepts: PLANINFO, GALE, the PROOF of one stage on core 0, CLAIMS of core 0, and one
register write. Its CRC is worked by the rule of R363. -/
def goodImage : Bytes :=
  let sect (typ cfg off len : Nat) : Nat := typ + cfg * 2 ^ 16 + off * 2 ^ 64 + len * 2 ^ 128
  natToBytes 64 (0x1A4C504A + 2 ^ 32 + 64 * 2 ^ 64 + 5 * 2 ^ 96 + 1296 * 2 ^ 128 + 1608702176 * 2 ^ 224 + 64 * 2 ^ 384) ++
  natToBytes 192 (sect 1 0xFF 256 256 + 2 ^ 256 * sect 2 0xFF 512 144 + 2 ^ 512 * sect 3 0 704 448 +
    2 ^ 768 * sect 4 0xFF 1152 96 + 2 ^ 1024 * sect 8 0 1280 16) ++
  natToBytes 256 (1000 + 5000 * 2 ^ 32 + 2 ^ 112 + 2 ^ 128 + 20 * 2 ^ 224 + 4096 * 2 ^ 288) ++
  natToBytes 16 (32 * 2 ^ 32) ++ (galeTable true).flatMap (natToBytes 4) ++ natToBytes 48 0 ++
  natToBytes 256 (2 ^ 16) ++ natToBytes 192 (2 ^ 128) ++ natToBytes 128 1 ++ natToBytes 16 (coreWin 0 + 0x44)

/-- A good descriptor: 64 bytes in. -/
def goodDesc : Bytes := slice (natToBytes 8 0 ++ natToBytes 4 64) 0 64

/-- A frame of stream 5 in plan slot 0. -/
def frame5 : Frame := ⟨0, 5, 7, goodDesc, 0, 0, 100, 0, [], none, false, [], [], [], 0, false, none, none, none⟩

/-- A token of a type and epoch with a payload. -/
def token (typ epoch payload : Nat) : Token := ⟨BitVec.ofNat 3 typ, 2, BitVec.ofNat 12 epoch, 0, BitVec.ofNat 512 payload⟩

/-- Word k of the program store of a core. -/
def progWord (s : State) (c k w : Nat) : State :=
  let a := coreWin c + 0x10000 + 16 * k
  (((s.setReg a (bits w 0 32)).setReg (a + 4) (bits w 32 32)).setReg (a + 8) (bits w 64 32)).setReg (a + 12) (bits w 96 32)

/-- A core stands at a macro-operation word, its bounds window 0 grants all of its scratch, and its SAGs have one dimension. -/
def atWordOf (c w : Nat) : State :=
  (List.range 16).foldl (fun s n => s.setReg (sagBase c n + 4) 8)
    ((progWord up c 0 w).setReg (coreWin c + 0x44) (0x60000000 + 0x17FFF))

/-- Core 127 at a macro-operation word. -/
def atWord (w : Nat) : State := atWordOf 127 w

/-- A MATMUL on engine 7 of core 127: two tiles of 8-bit formats in one slice, one vector a tile. -/
def matmulOp : Op :=
  ⟨0, 0, BitVec.ofNat 128 (4 + 2 ^ 8 * 0x80 + 2 ^ 16 * 0x222), natToBytes 64 (2 ^ 4 + 2 ^ 128), 0, 0, 0, Acc.zero, [], [], 0, 0, 0, 0,
    false, false⟩

/-! ### The mailbox and the streams -/

theorem wit_RingsEnabledAndDisabled :
    Functional up ∧ Functional rings ∧
    endpointUp up = true ∧ crOn up = false ∧ ccOn up = false ∧ ringGood up 0x1000 12 = true ∧
      ringGood up 0x1014 4 = true ∧ up.ccWait = [] ∧ ringGood up 0x1000 3 = false ∧ ringGood up 0x1014 13 = false ∧
      endpointUp rings = true ∧ crOn rings = true ∧ ccOn rings = true ∧
      up.taken.any (fun c => c.started && resetsDevice c) = false :=
  ⟨rfl, rfl, by decide +kernel⟩

theorem wit_RingsIndexed :
    Functional rings ∧
    endpointUp rings = true ∧ crOn rings = true ∧ ccOn rings = true ∧
      15 < 2 ^ rings.getF hubWin MBX_CR_CFG_SIZE ∧ 2 ^ rings.getF hubWin MBX_CR_CFG_SIZE ≤ 16 ∧ 15 < ccSize rings ∧
      ccSize rings ≤ 16 ∧ endpointUp { up with ccWait := [([], false)] } = true ∧
      ccOn { up with ccWait := [([], false)] } = false ∧ up.ccStop = false ∧
      up.taken.any (fun c => c.started && resetsDevice c) = false :=
  ⟨rfl, by decide +kernel⟩

theorem wit_CommandTaken :
    Functional rings ∧
    mayTake rings = true ∧ rings.taken.any resetsDevice = false ∧
      leAt (natToBytes 64 (1 : BitVec 512).toNat) 4 1 = myDev rings ∧ tkOPC ⟨natToBytes 64 1, 1, none, false, 0, 0⟩ = 1 ∧
      0xF < tkOPC ⟨natToBytes 64 0x10, 1, none, false, 0, 0⟩ :=
  ⟨rfl, by decide +kernel⟩

theorem wit_CompletionEntryWritten :
    let c : Taken := ⟨slice [1, 1] 0 64, 0, none, false, 0, 0⟩
    (having rings c).taken[0]? = some c ∧ c.from_ = none ∧ isHead (having rings c) = true ∧ ccOpen (having rings c) = true ∧
      bit (leAt c.entry 1 1) 0 = true := by decide +kernel

theorem wit_ReportingCommandsComplete :
    let d := cmd 1 ([0, 0, 0, 0, 0, 0, 0, 0] ++ natToBytes 4 256)
    let l := cmd 0xD (natToBytes 4 0 ++ natToBytes 4 0 ++ natToBytes 8 0 ++ natToBytes 4 64)
    let q := cmd 0xC (slice [] 0 32 ++ natToBytes 8 0 ++ natToBytes 4 4096)
    let r := cmd 0xF (natToBytes 8 0 ++ natToBytes 8 0 ++ natToBytes 4 12352)
    Functional (having up d) ∧ Functional (having up l) ∧ Functional (having up q) ∧ Functional (having up r) ∧
    cmdAt (having up d) 0 1 = some d ∧ badBuffer d 8 0x10 256 = none ∧
      cmdAt (having up l) 0 0xD = some l ∧ badBuffer l 0x10 0x18 32 = none ∧
      cmdAt (having up q) 0 0xC = some q ∧ badBuffer q 0x28 0x30 0 = none ∧
      cmdAt (having up r) 0 0xF = some r ∧ tkArg r 8 1 = 0 ∧ badBuffer r 0x10 0x18 12352 = none ∧
      { having up q with boot := { up.boot with ident := 0 } }.boot.ident = 0 ∧
      ceilDiv ((quoteBody (having up q) (slice q.entry 8 32) (tkArg q 0x34 4)).length + 512) 64 * 64 ≤ tkArg q 0x30 4 ∧
      (logFrom (having up l) 0).take 2 = [] ∧
      (logFrom (({ having up l with log := [⟨5, 0, 0, 0, 0, 0, 0, 0, 0⟩] } : State).setF hubWin MBX_EVT_SEQ_SEQ 5) 0).take 2 ≠ [] ∧
      (∀ r ∈ (having up l).log, r.seq ≤ (having up l).getF hubWin MBX_EVT_SEQ_SEQ) :=
  ⟨rfl, rfl, rfl, rfl, by decide +kernel⟩

theorem wit_PlanSlotCommandsComplete :
    let a := having (withPlan up (onePlan 1) 2) (cmd 3 [0])
    let b := having { withPlan up (onePlan 1) 3 with frames := [⟨0, 5, 0, [], 0, 0, 0, 0, [], none, false, [], [], [], 0, false,
      none, none, none⟩] } (cmd 4 [0])
    let c := having (withPlan up (onePlan 1) 6) (cmd 5 [0])
    let k := having (withPlan up { onePlan 1 with img := image 2 (info 1000 5000 0 1 1 0) [1] 1 } 3) (cmd 8 [0, 0, 1, 0])
    Functional a ∧ Functional b ∧ Functional c ∧ Functional k ∧
    cmdAt a 0 3 = some (cmd 3 [0]) ∧ planState a 0 = 2 ∧
    cmdAt b 0 4 = some (cmd 4 [0]) ∧ planState b 0 = 3 ∧ (b.plan 0).reloc = none ∧ (b.plan 0).switch = 0 ∧
      (b.frames.any (fun f => f.plan = 0 && f.held.isNone && !segDone b f)) = true ∧
    cmdAt c 0 5 = some (cmd 5 [0]) ∧ planState c 0 = 6 ∧
      (∀ k ∈ List.range 128, (c.stream k).plan ≠ some 0) ∧
    cmdAt k 0 8 = some (cmd 8 [0, 0, 1, 0]) ∧ planState k 0 = 3 ∧ imKiln (k.plan 0).img = true ∧
      tkArg (cmd 8 [0, 0, 1, 0]) 0xA 2 < 2 ^ piNSEG (k.plan 0).img :=
  ⟨rfl, rfl, rfl, rfl, by decide +kernel⟩

theorem wit_MailboxRefusals :
    let d := cmd 1 (natToBytes 8 1 ++ natToBytes 4 256)
    let p := cmd 3 [8]
    let q := cmd 4 [7]
    Functional (having up d) ∧
    cmdAt (having up d) 0 1 = some d ∧ badBuffer d 8 0x10 256 = some (0x1003, 8) ∧
    badBuffer (cmd 1 (natToBytes 8 0 ++ natToBytes 4 255)) 8 0x10 256 = some (0x1003, 0x10) ∧
    badBuffer (cmd 1 (natToBytes 8 0 ++ natToBytes 4 192)) 8 0x10 256 = some (0x1002, 0x10) ∧
    cmdAt (having up p) 0 3 = some p ∧ 7 < tkArg p 8 1 ∧ cmdAt (having up q) 0 4 = some q ∧ tkArg q 8 1 ≤ 7 ∧
      planState (having up q) 7 = 0 :=
  ⟨rfl, by decide +kernel⟩

theorem wit_PlanLoaded :
    let c := cmd 2 ([0, 0] ++ natToBytes 6 0 ++ natToBytes 8 0 ++ natToBytes 8 4096)
    Functional (having up c) ∧
    cmdAt (having up c) 0 2 = some c ∧ loadBad (having up c) c = none ∧ c.v0 = 0 ∧ tkArg c 9 1 = 0 ∧
      isHead (having up c) = true ∧ planState (having up c) 0 = 0 ∧ planState (having (withPlan up (onePlan 1) 2) c) 0 ≠ 0 ∧
      cmdAt (having (withPlan up (onePlan 1) 2) c) 0 2 = some c ∧ loadBad (having (withPlan up (onePlan 1) 2) c) c = none ∧
      (loadImage ((having up c).emit (.hostRead 0 64 false)) 0 (slice [] 0 64) 4096 []).1 = some (1, 0) ∧ 63 < 64 ∧
      63 < tkArg c 0x18 8 :=
  ⟨rfl, by decide +kernel⟩

/-- An image that a load accepts. -/
def loadCmd : Taken := cmd 2 ([0, 0] ++ natToBytes 6 0 ++ natToBytes 8 0 ++ natToBytes 8 1296)

theorem wit_PlanLoaded_accepted :
    cmdAt (having up loadCmd) 0 2 = some loadCmd ∧ loadBad (having up loadCmd) loadCmd = none ∧ loadCmd.v0 = 0 ∧
      tkArg loadCmd 9 1 = 0 ∧ isHead (having up loadCmd) = true ∧ planState (having up loadCmd) 0 = 0 ∧
      min (tkArg loadCmd 0x18 8) (max 64 (leAt goodImage 0x10 8)) = 1296 := by decide +kernel

set_option maxRecDepth 200000 in
theorem wit_PlanLoaded_passes :
    (loadImage ((having up loadCmd).emit (.hostRead (tkArg loadCmd 0x10 8) 1296 false)) 0 (slice goodImage 0 1296) 1296 []).1 = none := by
  decide +kernel

theorem wit_StreamsOpenedAndClosed :
    let c := cmd 6 (openArgs 1000)
    let e := cmd 6 (openArgs 999)
    let s := having (withPlan up (onePlan 1) 2) c
    let d := cmd 7 [5]
    let b := having ((withPlan up (onePlan 1) 2).setStream 5 { StreamSt.reset with plan := some 0 }) d
    Functional s ∧ Functional b ∧
    cmdAt s 0 6 = some c ∧ openField c = none ∧ (s.stream 5).plan = none ∧ planState s 0 = 2 ∧
      openBad s c = none ∧ mates s 0 = [] ∧ rateOk (piPADM (s.plan 0).img) [tkArg c 0x1C 4] = true ∧
      openField e = none ∧ rateOk (piPADM (s.plan 0).img) [tkArg e 0x1C 4] = false ∧
      openField (cmd 6 [128]) = some 8 ∧ openField (cmd 6 [127, 8]) = some 9 ∧
      openBad s (cmd 6 [5, 0, 0, 3]) = some (0x4005, 3) ∧
    cmdAt b 0 7 = some d ∧ (b.stream 5).plan = some 0 ∧ (b.fifo 5).frames = [] ∧ planState b 0 = 2 ∧
      b.frames.all (fun f => f.slot ≠ 5) = true ∧ 127 < tkArg (cmd 7 [128]) 8 1 ∧ (up.stream 127).plan = none ∧
      (∀ m ∈ mates s 0, tkArg c 0xA 1 = 0xFF ∨ (s.stream m).hblk ≠ tkArg c 0xA 1) ∧ planState (having up c) 0 = 0 ∧
      ((having (b.setStream 5 { StreamSt.reset with plan := some 0 }) c).stream 5).plan = some 0 :=
  ⟨rfl, rfl, by decide +kernel⟩

/-- A running plan with a feeder (a FEEDER section, FIF_CFG.READER 0), stream 127 bound to it. -/
def fed : State :=
  (withPlan up { onePlan 1 with img := patch (slice (onePlan 1).img 0 832) 64 [10] } 3).setStream 127
    { StreamSt.reset with plan := some 0 }

theorem wit_StreamsOpenedAndClosed_closed :
    let d := cmd 7 [127]
    let e := having fed d
    let f : State := { having (fed.setF (cadBase 0) CAD_STATE_SLOT 6) d with frames := [⟨0, 127, 7, [], 0, 0, 100, 0, [], none, false,
      [], [], [], 0, false, none, none, none⟩] }
    Functional e ∧ Functional f ∧
    cmdAt e 0 7 = some d ∧ (e.stream 127).plan = some 0 ∧ (e.fifo 127).frames = [] ∧ planState e 0 = 3 ∧ hasFeeder e 0 = true ∧
    cmdAt f 0 7 = some d ∧ (f.stream 127).plan = some 0 ∧ planState f 0 = 6 ∧
      (∃ g ∈ f.frames, g.slot = 127 ∧ g.aborted = false) ∧
    hasFeeder (having ((withPlan up (onePlan 1) 3).setStream 127 { StreamSt.reset with plan := some 0 }) d) 0 = false :=
  ⟨rfl, rfl, by decide +kernel⟩

/-- A frame fetched and not admitted. -/
def waiting5 : FFrame := newFFrame goodDesc 0 64

theorem wit_StreamsOpenedAndClosed_waiting :
    let d := cmd 7 [127]
    let e := having (fed.setFifo 127 { FifoSt.reset with frames := [waiting5], wr := 64 }) d
    Functional e ∧ cmdAt e 0 7 = some d ∧ (e.stream 127).plan = some 0 ∧
      (e.fifo 127).frames.filter (fun f => f.seq.isNone) = [waiting5] ∧ (∀ f ∈ e.frames, f.slot = 127 → f.held = none) ∧
      planState e 0 ≠ 2 ∧ planState e 0 ≠ 6 ∧ hasFeeder e 0 = true :=
  ⟨rfl, by decide +kernel⟩

theorem wit_StreamDoorbells :
    let s := up.setStream 127 { StreamSt.reset with plan := some 0, rsize := 4 }
    Functional s ∧
    (s.stream 127).plan = some 0 ∧ (15 : BitVec 32).toNat % 4096 < 2 ^ (s.stream 127).rsize ∧
      2 ^ (s.stream 127).rsize ≤ (16 : BitVec 32).toNat % 4096 ∧ (s.stream 0).plan = none :=
  ⟨rfl, by decide +kernel⟩

theorem wit_DeviceCommandsComplete :
    let i := cmd 0xE (natToBytes 4 0x13 ++ natToBytes 4 0)
    let s := having { up with fuses := up.fuses + 2 ^ 2126 } i
    let f := cmd 9 [127]
    let r := cmd 0xA [1, 15]
    let p (a : Bytes) := having up (cmd 0xB a)
    Functional s ∧
    cmdAt s 0 0xE = some i ∧ bit s.fuses 2126 = true ∧ 1 ≤ tkArg i 8 2 ∧ injTargetOk 0x13 (tkArg i 0xC 4) = true ∧
      cmdAt (having up i) 0 0xE = some i ∧ bit up.fuses 2126 = false ∧
    cmdAt (having up f) 0 9 = some f ∧ fenced (having up f) 127 = false ∧ holderOf (having up f) 127 = none ∧
    cmdAt (having (withPlan up (onePlan 1) 3) (cmd 9 [0])) 0 9 = some (cmd 9 [0]) ∧
      holderOf (withPlan up (onePlan 1) 3) 0 = some 0 ∧ idleSpare (withPlan up (onePlan 1) 3) 0 0 = false ∧
    cmdAt (having up r) 0 0xA = some r ∧ tkArg r 8 1 = 1 ∧ tkArg r 9 1 < 16 ∧
      (∀ n ∈ List.range 8, holderOf (having up r) (8 * 15 + n) = none) ∧
    cmdAt (p [0]) 0 0xB = some (cmd 0xB [0]) ∧ (∀ d ∈ List.range 4, dieOff (p [0]) d = false) ∧
      (p [0]).getF pwrHub PWR_STATE_STANDBY ≠ 1 ∧ (∀ j ∈ List.range 4, (p [0]).reg (pwrHub + 0x1C + 4 * j) = 0) ∧
    cmdAt (p [2, 15]) 0 0xB = some (cmd 0xB [2, 15]) ∧ (∀ d ∈ List.range 4, dieHeld (p [2, 15]) d = false) ∧
    cmdAt (p [3]) 0 0xB = some (cmd 0xB [3]) ∧ cmdAt (p [4]) 0 0xB = some (cmd 0xB [4]) ∧
      (∀ q ∈ List.range 8, planState (p [3]) q < 3 ∨ 5 < planState (p [3]) q) :=
  ⟨rfl, by decide +kernel⟩

theorem wit_DeviceCommandsComplete_states :
    let p (s : State) (a : Bytes) := having s (cmd 0xB a)
    let stdby := p (up.setF pwrHub PWR_STATE_STANDBY 1) [0]
    let off := p (up.setF (pwrDie 3) PWR_STATUS_OFF 1) [0]
    let hold := p (up.setReg (pwrHub + 0x28) 1) [0]
    let one := p up ([1] ++ List.replicate 23 0xFF)
    Functional stdby ∧ Functional off ∧ Functional hold ∧ Functional one ∧
    cmdAt stdby 0 0xB = some (cmd 0xB [0]) ∧ tkArg (cmd 0xB [0]) 8 1 = 0 ∧ stdby.getF pwrHub PWR_STATE_STANDBY = 1 ∧
    cmdAt off 0 0xB = some (cmd 0xB [0]) ∧ dieOff off 3 = true ∧ off.getF pwrHub PWR_STATE_STANDBY ≠ 1 ∧
    cmdAt hold 0 0xB = some (cmd 0xB [0]) ∧ (∀ d ∈ List.range 4, dieOff hold d = false) ∧ hold.reg (pwrHub + 0x1C + 4 * 3) ≠ 0 ∧
      hold.getF pwrHub PWR_STATE_STANDBY ≠ 1 ∧
    cmdAt one 0 0xB = some (cmd 0xB ([1] ++ List.replicate 23 0xFF)) ∧
      tkArg (cmd 0xB ([1] ++ List.replicate 23 0xFF)) 8 1 = 1 ∧ (∀ n ∈ List.range 128, holderOf one n = none) :=
  ⟨rfl, rfl, rfl, rfl, by decide +kernel⟩

theorem wit_DeviceCommandsComplete_exit :
    let c : Taken := { cmd 0xB [0] with started := true, v0 := 5 }
    let s := having up c
    Functional s ∧
    s.taken.findIdx? (fun t => t.started && tkOPC t = 0x0B && tkArg t 8 1 = 0 && t.v1 = 0 &&
      decide (t.v0 ≤ now s)) = some 0 ∧ s.taken[0]? = some c ∧ (up.setF pwrHub PWR_STATE_STANDBY 1).getF pwrHub PWR_STATE_STANDBY = 1 :=
  ⟨rfl, by decide +kernel⟩



theorem wit_DeviceCommandsComplete_resets :
    let r := cmd 0xA [0]
    let n := cmd 0xB [1, 1]
    let hot : State := { up with hubHot := true }
    Functional (having rings r) ∧ Functional (having up r) ∧ Functional (having rings n) ∧ Functional hot ∧
    cmdAt (having rings r) 0 0xA = some r ∧ tkArg r 8 1 = 0 ∧ r.from_ = none ∧ ccOpen (having rings r) = true ∧
    cmdAt (having up r) 0 0xA = some r ∧ ccOpen (having up r) = false ∧
    fenced ((having up (cmd 9 [0])).setF (coreWin 0) SEQ_STATUS_STATE 4) 0 = true ∧
    up.boot.down = false ∧ up.hubHot = false ∧ hot.hubHot = true :=
  ⟨rfl, rfl, rfl, rfl, by decide +kernel⟩
/-! ### What the host and the steward read and write, resets -/

theorem wit_RegisterWriteByAccessType :
    Functional up ∧
    stewardUp up = true ∧ (0xF0FF00000000 : BitVec 48).toNat % 4 = 0 ∧
      windowOf (0xF0FF00000000 : BitVec 48).toNat = some (.die, 0) ∧ reachable up (0xF0FF00000000 : BitVec 48).toNat = true ∧
      windowOf (0xF3FF00002010 : BitVec 48).toNat = some (.die, 0x2010) ∧ reachable up (0xF3FF00002010 : BitVec 48).toNat = true :=
  ⟨rfl, by decide +kernel⟩

theorem wit_RegisterWriteByAccessType_acts :
    let locked := up.setF (txuBase 16) TXU_STATUS_STATE 5
    Functional locked ∧
    Sys2Proof.Spec.plainWord .die 0 ∧ Sys2Proof.Spec.plainWord .cluster 0x3000 ∧ Sys2Proof.Spec.plainWord .hub 0x10000 ∧
    (BitVec.ofNat 48 (txuBase 16)).toNat = txuBase 16 ∧ reachable up (txuBase 16) = true ∧ reachable up (txuBase 15) = true ∧
      bits (0 : BitVec 32).toNat 0 2 = 0 ∧ bits (2 : BitVec 32).toNat 0 2 = 2 ∧ txuState locked 16 = 5 ∧
      bits (0x8000 : BitVec 32).toNat 8 8 = 2 ^ 7 ∧ holderOf up (8 * 15 + 7) = none ∧
      (BitVec.ofNat 48 (hubWin + 0x90008)).toNat = hubWin + 0x90008 ∧ bit (1 : BitVec 32).toNat 0 = true ∧
      (BitVec.ofNat 48 (hubWin + 0x70030)).toNat = hubWin + 0x70030 ∧ stewardUp locked = true ∧ stewardUp up = true :=
  ⟨rfl, trivial, ⟨.inr (by decide), by decide +kernel⟩, .inl (by decide), by decide +kernel⟩

theorem wit_RegistersRead :
    let a : BitVec 48 := BitVec.ofNat 48 (cadBase 7 + 0x14)
    Functional up ∧
    endpointUp up = true ∧ stewardUp up = true ∧ wordReg up a.toNat = true ∧ aliasOf a.toNat = a.toNat ∧
      windowOf a.toNat = some (.hub, 0x10714) ∧ a.toNat ≠ hubWin + 0x10800 ∧ accMask a.toNat .rc = 2 ^ 32 - 1 ∧
      wordReg up (hubWin + 0x3000) = true ∧ aliasOf (hubWin + 0x3000) ≠ hubWin + 0x3000 ∧
      (0xFFFC : BitVec 48).toNat < 0x10000 ∧ (0xFFFC : BitVec 48).toNat ≠ 0x3800 ∧
      placeOf (0xF00000000 : BitVec 48).toNat = .unmapped ∧ (0xFFC : BitVec 48).toNat < 0x1000 ∧ (0xFFC : BitVec 48).toNat ≠ 0x10C :=
  ⟨rfl, by decide +kernel⟩

theorem wit_RegistersRead_clauses :
    let m := mvrBase 0 0
    Functional up ∧
    rcMeasure .hub 0x10714 = false ∧ windowOf (BitVec.ofNat 48 (cadBase 7 + 0x1C)).toNat = some (.hub, 0x1071C) ∧
      rcMeasure .hub 0x1071C = true ∧ accMask (cadBase 7 + 0x1C) .rc ≠ 0 ∧
      wordReg up (cadBase 7 + 0x1C) = true ∧ aliasOf (cadBase 7 + 0x1C) = cadBase 7 + 0x1C ∧
      cadBase 7 + 0x1C ≠ hubWin + 0x10800 ∧ bit (cfgHeld up 0x114 0x2000) 13 = true ∧
      bit (cfgHeld { up with cfgSpace := [(0x114, 0)] } 0x114 0x2000) 13 = false ∧
    placeOf (m + 2) = .dieReg ∧ (m + 2) % 4 ≠ 0 ∧ (feedWindow (clusterWin 0 + 0x10000)).isSome = true ∧
    (0xFFC : BitVec 48).toNat < 0x1000 ∧ (0xFFC : BitVec 48).toNat % 4 = 0 ∧ (0xFFC : BitVec 48).toNat ≠ 0x10C :=
  ⟨rfl, by decide +kernel⟩

/-- BAR2 on the last bytes of LPDDR4X of die 0, readable and writable. -/
def bar2Up : State :=
  ((up.setF hubWin MBX_BAR2_CTRL_EN 1).setF hubWin MBX_BAR2_CTRL_WEN 1).setF hubWin MBX_BAR2_LO_ADDR 0xE

/-- BAR2 on the register windows of die 0. -/
def bar2Regs : State := (bar2Up.setF hubWin MBX_BAR2_HI_ADDR 0xF0FF).setF hubWin MBX_BAR2_LO_ADDR 0

/-- BAR2 on the register window of cluster 0. -/
def bar2Cluster : State := (bar2Up.setF hubWin MBX_BAR2_HI_ADDR 0xF00F).setF hubWin MBX_BAR2_LO_ADDR 0

/-- BAR2 on the scratch of core 0, whose bank group is in retention. -/
def bar2Asleep : State :=
  ((bar2Up.setF hubWin MBX_BAR2_HI_ADDR 0x8000).setF hubWin MBX_BAR2_LO_ADDR 0).setF (bnkBase 0 0) BNK_STATE_STATE 2

theorem wit_Bar2Accesses_spans :
    let s := (bar2Up.setF hubWin MBX_BAR2_HI_ADDR 0xE).setF hubWin MBX_BAR2_LO_ADDR 0xF
    let a := s.getF hubWin MBX_BAR2_HI_ADDR * 2 ^ 32 + s.getF hubWin MBX_BAR2_LO_ADDR * 2 ^ 28 + 0xFFFFFFF
    endpointUp s = true ∧ s.getF hubWin MBX_BAR2_CTRL_EN = 1 ∧ s.getF hubWin MBX_BAR2_CTRL_WEN = 1 ∧ s.scanned = false ∧
      bar2Maps s a = true ∧ bar2Maps s (a + 2 - 1) = false ∧ ([1, 2] : Bytes) ≠ [] ∧ ((2 : Fin 4097).val ≠ 0) := by decide +kernel

theorem wit_Bar2Accesses_windows :
    let f := bar2Cluster.getF hubWin MBX_BAR2_HI_ADDR * 2 ^ 32 + bar2Cluster.getF hubWin MBX_BAR2_LO_ADDR * 2 ^ 28 + 0x17000
    let z := bar2Asleep.getF hubWin MBX_BAR2_HI_ADDR * 2 ^ 32 + bar2Asleep.getF hubWin MBX_BAR2_LO_ADDR * 2 ^ 28 + 0x100
    let full := bar2Cluster.setCluster 0 { ClusterSt.reset with feeds := [(7, List.replicate 16 0)] }
    Functional bar2Cluster ∧ Functional bar2Asleep ∧ Functional full ∧
    endpointUp bar2Cluster = true ∧ bar2Cluster.getF hubWin MBX_BAR2_CTRL_EN = 1 ∧
      bar2Cluster.getF hubWin MBX_BAR2_CTRL_WEN = 1 ∧ bar2Maps bar2Cluster f = true ∧ bar2Maps bar2Cluster (f + 63) = true ∧
      placeOf f = .dieReg ∧ placeOf (f + 63) = .dieReg ∧ feedWindow f = some (0, 7, 0) ∧ f % 64 = 0 ∧
      mvrRoom bar2Cluster f 64 = true ∧ mvrRoom full f 64 = false ∧ (f + 4) % 64 ≠ 0 ∧ feedWindow (f + 4) = some (0, 7, 4) ∧
    endpointUp bar2Asleep = true ∧ bar2Asleep.getF hubWin MBX_BAR2_CTRL_WEN = 1 ∧ bar2Maps bar2Asleep z = true ∧
      placeOf z = .scratch 0 ∧ (asleep bar2Asleep z 1).isSome = true ∧ (asleep bar2Asleep z 4).isSome = true ∧
    (let r := bar2Regs.getF hubWin MBX_BAR2_HI_ADDR * 2 ^ 32 + bar2Regs.getF hubWin MBX_BAR2_LO_ADDR * 2 ^ 28 + 0x2000
     feedWindow r = none ∧ r % 8 = 0 ∧ bar2Maps bar2Regs (r + 7) = true ∧ placeOf (r + 7) = .dieReg) :=
  ⟨rfl, rfl, rfl, by decide +kernel⟩

theorem wit_Bar2Accesses :
    let a := bar2Up.getF hubWin MBX_BAR2_HI_ADDR * 2 ^ 32 + bar2Up.getF hubWin MBX_BAR2_LO_ADDR * 2 ^ 28 + 0xFFFFFFF
    let r := bar2Regs.getF hubWin MBX_BAR2_HI_ADDR * 2 ^ 32 + bar2Regs.getF hubWin MBX_BAR2_LO_ADDR * 2 ^ 28 + 0x2000
    Functional bar2Up ∧ Functional bar2Regs ∧
    endpointUp bar2Up = true ∧ ([1] : Bytes) ≠ [] ∧ up.getF hubWin MBX_BAR2_CTRL_EN = 0 ∧
      bar2Up.getF hubWin MBX_BAR2_CTRL_EN = 1 ∧ bar2Up.getF hubWin MBX_BAR2_CTRL_WEN = 1 ∧ bar2Maps bar2Up a = true ∧
      placeOf a = .lpddr 0 ∧ asleep bar2Up a 1 = none ∧ badRegion bar2Up a 1 = false ∧ bar2Up.poison = [] ∧
      (∀ d ∈ [1, 2, 3, 4], bar2Up.getF (injBase d) TXU_INJ_COUNT = 0) ∧ bar2Maps up 0xF00000000 = false ∧
    endpointUp bar2Regs = true ∧ bar2Regs.getF hubWin MBX_BAR2_CTRL_WEN = 1 ∧ bar2Maps bar2Regs r = true ∧
      bar2Maps bar2Regs (r + 3) = true ∧ placeOf r = .dieReg ∧ placeOf (r + 3) = .dieReg ∧ r % 4 = 0 ∧
      ¬ ((3 = 4 ∧ r % 4 = 0) ∨ (3 = 8 ∧ r % 8 = 0)) ∧ ((4097 - 1 : Nat) ≠ 0) :=
  ⟨rfl, rfl, by decide +kernel⟩

theorem wit_ConfigurationAnswered :
    Functional up ∧
    endpointUp up = true ∧ (0x3C : BitVec 12).toNat % 4 = 0 ∧ up.boot.cfgReady = true ∧
      (0x40 : BitVec 12).toNat ∉ [0x04, 0x10, 0x14, 0x18, 0x1C, 0x3C, 0x44, 0x50, 0x78, 0x98, 0x104, 0x108, 0x10C, 0x110, 0x114] ∧
      endpointUp State.reset = true ∧ State.reset.boot.cfgReady = false ∧ (0x1C : BitVec 12).toNat ∈ [0x10, 0x14, 0x18, 0x1C] ∧
      (0x110 : BitVec 12).toNat ∈ [0x104, 0x110] :=
  ⟨rfl, by decide +kernel⟩

theorem wit_ResetPins :
    let p : State := { up with boot := { up.boot with perstLow := true } }
    let q : State := { up with boot := { up.boot with porLow := true } }
    let r : State := { p with boot := { p.boot with scope := rsPERST } }
    let o : State := { p with boot := { p.boot with scope := rsPOR } }
    Functional up ∧ Functional p ∧ Functional q ∧
    p.boot.scope ≠ rsPERST ∧ p.boot.scope ≠ rsPOR ∧ r.boot.scope = rsPERST ∧ r.boot.perstLow = true ∧ o.boot.scope = rsPOR ∧
      o.boot.perstLow = true ∧ o.boot.porLow = false ∧ o.hubHot = false ∧
    endpointUp up = true ∧ up.boot.scope = 0 ∧ up.boot.porLow = false ∧ up.hubHot = false ∧ p.boot.perstLow = true ∧
      p.boot.porLow = false ∧ q.boot.porLow = true ∧ (1000 ≤ 9999 ∧ 9999 < 10000) ∧ 99999 < 100000 :=
  ⟨rfl, rfl, rfl, by decide +kernel⟩

theorem wit_RegistersAfterReset :
    rsFLR ∈ [rsPOR, rsPERST, rsWARM, rsFLR] ∧ rsPOR ∈ [rsPOR, rsPERST, rsWARM, rsFLR] ∧
      cadBase 0 ∉ [hubWin + 4, pwrHub + 0x34, pwrHub + 0x18, dbgBase, pwrHub + 0x1C, pwrHub + 0x20, pwrHub + 0x24,
        pwrHub + 0x28] ∧ (∀ d ∈ List.range 4, cadBase 0 ≠ pwrDie d + 0x10 ∧ cadBase 0 ≠ lpcBase d + 4 ∧
        cadBase 0 ≠ maBase d + 8) ∧
      (∀ c ∈ List.range 128, cadBase 0 ≠ coreWin c + 4) ∧
      (∀ p ∈ List.range 8, cadBase 0 ≠ rlyPort p + RLY_P_STATUS_STATE.off) ∧
      ((up.setF (rlyPort 7) RLY_P_STATUS_STATE 5).getF (rlyPort 7) RLY_P_STATUS_STATE = 5) ∧ rsWARM ≠ rsFLR := by decide +kernel

/-! ### The admission pacer and the gate -/

/-- Stream 5 of a running plan, with a descriptor to fetch. -/
def ringed : State :=
  ((withPlan up (onePlan 1) 3).setStream 5 { StreamSt.reset with plan := some 0, rsize := 4 }).setF (ringBase 5) MBX_FR_TAIL_INDEX 1

theorem wit_DescriptorsFetched :
    Functional ringed ∧
    isHead ringed = true ∧ (ringed.stream 5).plan.isSome = true ∧ (ringed.stream 5).closing = 0 ∧ fifSrc ringed 5 ≠ 2 ∧
      fifOpenFrame ringed 5 = none ∧ ringed.getF (ringBase 5) MBX_FR_HEAD_INDEX ≠ ringed.getF (ringBase 5) MBX_FR_TAIL_INDEX ∧
      fetchedFrames ringed 5 < 2 ^ (ringed.stream 5).rsize ∧ descOk ringed 5 goodDesc = true ∧
      descOk ringed 5 (slice [] 0 64) = false ∧ (∀ f ∈ ringed.frames, f.slot = 5 → f.held = none) :=
  ⟨rfl, by decide +kernel⟩

/-- A closed frame of 64 bytes waits in the FIFO of stream 127. -/
def waiting : State :=
  ((withPlan up (onePlan 1) 3).setStream 127 { StreamSt.reset with plan := some 0, rsize := 4 }).setFifo 127
    { FifoSt.reset with frames := [⟨goodDesc, 0, none, 0, 0, 64, 64, 0, true, false, none, 0, false, none⟩], wr := 64 }

theorem wit_FramesAdmitted :
    let g := waiting.setF (cadBase 0) CAD_GRID_PERIOD 33
    Functional waiting ∧ Functional g ∧
    planState waiting 0 = 3 ∧ heldByDie waiting 0 = false ∧ (waiting.plan 0).reloc = none ∧ (waiting.plan 0).switch = 0 ∧
      paceOk waiting 0 = true ∧ pickStream waiting 0 = some 127 ∧
      nextUnadmitted waiting 127 = some ⟨goodDesc, 0, none, 0, 0, 64, 64, 0, true, false, none, 0, false, none⟩ ∧
      waiting.getF (cadBase 0) CAD_GRID_PERIOD = 0 ∧ pickStream g 0 = some 127 ∧ 0 < g.getF (cadBase 0) CAD_GRID_PERIOD ∧
      planState waiting 7 ≠ 3 :=
  ⟨rfl, rfl, by decide +kernel⟩

theorem wit_GateReleases :
    let r : Report := ⟨3, 5, 7, true, false, false⟩
    let a : State := { withPlan up (onePlan 1) 3 with frames := [frame5], reports := [r] }
    let b : State := { a with frames := [{ frame5 with held := some 50 }] }
    let o : State := { a with frames := [{ frame5 with cores := [128], ports := [1] }] }
    let w := (withPlan up { onePlan 1 with window := true, roundFirst := some 5 } 3)
    let m := up.setStream 127 { StreamSt.reset with sinceT := some 5, modus := 1, since := 1 }
    Functional a ∧ Functional b ∧ Functional o ∧ Functional w ∧ Functional m ∧
    a.reports[0]? = some r ∧ frameOf a 5 7 = some frame5 ∧ frame5.aborted = false ∧ frame5.held = none ∧
      segDone (setFrame { a with reports := a.reports.eraseIdx 0 }
        { frame5 with flags := 4, cores := [3] }) { frame5 with flags := 4, cores := [3] } = false ∧
    dueFrame b = some { frame5 with held := some 50 } ∧ dueFrame a = none ∧ up.reports[0]? = none ∧
    frameOf o 5 (7 : BitVec 32).toNat = some { frame5 with cores := [128], ports := [1] } ∧ outEN (o.plan 0) = false ∧
      frame5.trel + 10000000 ≤ now o ∧ now { o with timeBase := 5 } < frame5.trel + 10000000 ∧
      portDone o { frame5 with cores := [128], ports := [1] } 1 = false ∧ o.hubHot = false ∧ b.hubHot = false ∧ { b with hubHot := true }.hubHot = true ∧
      (({ frame5 with cores := [128], ports := [1] } : Frame).src.isSome = true →
        ({ frame5 with cores := [128], ports := [1] } : Frame).fend.isSome = true) ∧
    (w.plan 0).window = true ∧ (w.plan 0).roundFirst.getD 0 + (piBSEG (w.plan 0).img - 1) * piPBATCH (w.plan 0).img ≤ now w ∧
      (w.plan 1).window = false ∧ (m.stream 127).sinceT = some 5 ∧ (m.stream 127).modus ≠ 0 ∧
      5 + 1000 * (m.stream 127).modus ≤ now m ∧ now { m with timeBase := 1004 } < 5 + 1000 * (m.stream 127).modus :=
  ⟨rfl, rfl, rfl, rfl, rfl, by decide +kernel⟩

theorem wit_GateReleases_reports :
    let r : Report := ⟨0, 5, 7, true, true, true⟩
    let one (x : PlanSt) (f : Frame) : State := { withPlan up x 3 with frames := [f], reports := [r] }
    let seg : PlanSt := { onePlan 1 with img := image 0 (info 1000 5000 0 2 4 1000) (natToBytes 16 1) 1 }
    let g : Frame := { frame5 with flags := 28, cores := [0] }
    let u (x : PlanSt) (f : Frame) : State := setFrame { one x f with reports := [] } { f with flags := 28, cores := [0] }
    let d : Frame := { frame5 with cores := [128] }
    let e : State := { one (onePlan 1) d with reports := [] }
    Functional (one (onePlan 1) frame5) ∧ Functional (one seg frame5) ∧ Functional e ∧
    (one (onePlan 1) frame5).reports[0]? = some r ∧ frameOf (one (onePlan 1) frame5) 5 7 = some frame5 ∧
      segDone (u (onePlan 1) frame5) g = true ∧ lastCfg ((one (onePlan 1) frame5).plan 0) = true ∧
    segDone (u seg frame5) g = true ∧ lastCfg ((one seg frame5).plan 0) = false ∧
    frameOf (one (onePlan 1) { frame5 with aborted := true }) 5 7 = some { frame5 with aborted := true } ∧
    frameOf e 5 7 = some d ∧ d.held = none ∧ d.aborted = false ∧ 128 ∈ d.cores ∧ (∀ q ∈ d.ports, portDone e d q = true) ∧
      (d.src.isSome = true → d.fend.isSome = true) ∧ outEN (e.plan d.plan) = false ∧ d.trel < now e ∧
      now { e with timeBase := 100 } ≤ d.trel :=
  ⟨rfl, rfl, rfl, by decide +kernel⟩

theorem wit_GateReleases_windows :
    let x : PlanSt := { onePlan 1 with img := image 0 (info 1000 5000 0 2 4 1000) (natToBytes 16 1) 1, window := true, roundFirst := some 5,
                                       roundN := 1 }
    let w := withPlan up x 3
    let b : State := { w with frames := [frame5] }
    Functional w ∧ Functional b ∧
    (w.plan 0).window = true ∧ (w.plan 0).roundFirst.getD 0 + (piBSEG (w.plan 0).img - 1) * piPBATCH (w.plan 0).img ≤ now w ∧
      working w 0 = [] ∧ planState w 0 = 3 ∧ (w.plan 0).reloc = none ∧ (w.plan 0).switch = 0 ∧ (w.plan 0).kiln = none ∧
      1 < piNSEG (w.plan 0).img ∧ (w.plan 0).roundN ≠ 0 ∧ working b 0 ≠ [] ∧ planState b 0 = 3 ∧
      now { w with timeBase := 3004 } < (w.plan 0).roundFirst.getD 0 + (piBSEG (w.plan 0).img - 1) * piPBATCH (w.plan 0).img :=
  ⟨rfl, rfl, by decide +kernel⟩

theorem wit_PublishedFrameIsFirst :
    dueFrame { up with frames := [{ frame5 with held := some 50 }, { frame5 with slot := 3, held := some 50 }] } =
      some { frame5 with slot := 3, held := some 50 } := by decide +kernel

/-- The plan of slot 0 names edge port 32, the west port of core 0, and core 0 holds a token there. -/
def atEdge (t : Token) : State :=
  (withPlan up { PlanSt.reset with img := image 0 (info 1000 5000 0 1 1 0) (natToBytes 0x38 1 ++ natToBytes 8 (2 ^ 32)) 1 } 3).setCore 0
    { CoreSt.reset with outp := [(3, t)] }

theorem wit_HubTokensSorted :
    Functional (atEdge (token 5 0 5)) ∧
    edgeIndex 0 3 = some 32 ∧
    (∀ t ∈ [token 5 0 5, token 4 0 0, token 0 0 0, token 2 0 9, token 3 4095 0], edgeOwner (atEdge t) 0 3 = some 0 ∧
      SMap.find ((atEdge t).core 0).outp 3 = some t ∧ portKind (atEdge t) 0 3 ≠ 0 ∧ linkToken (linkBits t) = (t, true) ∧
      planState (atEdge t) 0 ≠ 6 ∧ ((atEdge t).plan 0).reloc = none) ∧
    (linkToken (linkBits (token 0 0 0) ^^^ 1)).2 = false :=
  ⟨rfl, by decide +kernel⟩

/-- The same plan with a feeder whose target 0 sends at port 32 and takes credits on tag 2. -/
def atFeeder (t : Token) : State :=
  let s := atEdge t
  (s.setPlan 0 { s.plan 0 with img := patch (s.plan 0).img 64 [10] }).setReg (fdtBase 0 0 + 0x40) (32 + 2 * 2 ^ 6 + 2 * 2 ^ 11)

theorem wit_HubTokensSorted_credits :
    let t := token 1 0 5
    let u (s : State) := s.setCore 0 { s.core 0 with outp := [], refus := (s.core 0).refus.put 7 0 }
    Functional (atEdge t) ∧ Functional (atFeeder t) ∧
    edgeOwner (atFeeder t) 0 3 = some 0 ∧ (t.typ = 1) ∧ (creditTarget (u (atFeeder t)) 0 32 2).isSome = true ∧
      creditTarget (u (atEdge t)) 0 32 2 = none ∧ t.epoch.toNat = (u (atEdge t)).getF (fdBase 0) FIF_FD_EPOCH_EPOCH ∧
      frameOf (u (atEdge t)) (eSLOT 5) (eSEQ 5) = none ∧
      (frameOf { u (atEdge t) with frames := [⟨0, eSLOT 5, eSEQ 5, goodDesc, 0, 0, 100, 0, [], none, false, [], [], [], 0, false, none,
        none, none⟩] } (eSLOT 5) (eSEQ 5)).isSome = true ∧
      ((token 3 4095 0).epoch.toNat ≠ (u (atEdge (token 3 4095 0))).getF (fdBase 0) FIF_FD_EPOCH_EPOCH) ∧
      ((token 1 4095 5).epoch.toNat ≠ (u (atEdge (token 1 4095 5))).getF (fdBase 0) FIF_FD_EPOCH_EPOCH ∧
        creditTarget (u (atEdge (token 1 4095 5))) 0 32 2 = none) ∧
      planState ((atEdge t).setF (cadBase 0) CAD_STATE_SLOT 6) 0 = 6 ∧
      edgeOwner ((atEdge t).setF (cadBase 0) CAD_STATE_SLOT 6) 0 3 = some 0 :=
  ⟨rfl, rfl, by decide +kernel⟩

/-! ### Transactions, drains, relocation -/

/-- The TXU of cluster 15 with one action staged. -/
def stagedOne (kind : Nat) : State :=
  ((up.setF (txuBase 15) TXU_STATUS_STATE 1).setF (txuBase 15) TXU_STATUS_COUNT 1).setReg (txuBase 15 + 0x100) kind

theorem wit_TransactionsStaged :
    Functional (stagedOne 0) ∧
    up.getF (txuBase 16) TXU_STATUS_STATE ≠ 2 ∧ up.getF (txuBase 16) TXU_STATUS_STATE ≠ 3 ∧
      (stagedOne 0).getF (txuBase 15) TXU_STATUS_STATE = 1 ∧ (stagedOne 0).getF (txuBase 15) TXU_STATUS_COUNT ≠ 0 ∧
      (groupFault (stagedOne 0) 15 (staged (stagedOne 0) 15)).isSome = true ∧
      (up.setF (txuBase 3) TXU_STATUS_STATE 3).getF (txuBase 3) TXU_STATUS_STATE = 3 :=
  ⟨rfl, by decide +kernel⟩

/-- A commit group under way in cluster 15, with no action in it. -/
def preparing : State :=
  { up.setF (txuBase 16) TXU_STATUS_STATE 2 with
    groups := [⟨1, 0, [], []⟩], two := { TwoPhase.reset with start := 5, prep := [15], dec := [15], await := [15], votes := [(15, true)], acks := [15] } }

theorem wit_TransactionsStaged_commits :
    let g := stagedOne 4
    let h := up.setF (txuBase 16) TXU_STATUS_COUNT 1
    let i := up.setF (txuBase 16) TXU_PART_CLUSTERS 0x8000
    Functional g ∧ Functional h ∧ Functional i ∧
    i.getF (txuBase 16) TXU_STATUS_COUNT = 0 ∧ maskBits 16 (i.getF (txuBase 16) TXU_PART_CLUSTERS) = [15] ∧
      maskBits 16 (up.getF (txuBase 16) TXU_PART_CLUSTERS) = [] ∧ up.getF (txuBase 16) TXU_STATUS_COUNT = 0 ∧
    (up.setF (txuBase 16) TXU_STATUS_STATE 2).getF (txuBase 16) TXU_STATUS_STATE = 2 ∧
      g.getF (txuBase 15) TXU_STATUS_STATE ≠ 2 ∧ g.getF (txuBase 15) TXU_STATUS_STATE ≠ 3 ∧
      g.getF (txuBase 15) TXU_STATUS_COUNT ≠ 0 ∧ groupFault g 15 (staged g 15) = none ∧
      up.getF (txuBase 15) TXU_STATUS_COUNT = 0 ∧ h.getF (txuBase 16) TXU_STATUS_COUNT ≠ 0 ∧
      h.getF (txuBase 16) TXU_STATUS_STATE ≠ 2 ∧ h.getF (txuBase 16) TXU_STATUS_STATE ≠ 3 :=
  ⟨rfl, rfl, rfl, by decide +kernel⟩

/-- Two register writes of core 127 on one address, and one on the next (R428). -/
def actOne : BitVec 128 := mkAction 1 (coreWin 127 + 0xA000) 1 0
def actTwo : BitVec 128 := mkAction 1 (coreWin 127 + 0xA000) 2 0
def actNext : BitVec 128 := mkAction 1 (coreWin 127 + 0xA004) 3 0

/-- The cluster of core 127, which is in FAULT, prepares the first of them. -/
def preparingOne : State :=
  ({ up with groups := [⟨1, 0, [(15, [actOne])], []⟩], two := { TwoPhase.reset with prep := [15] } } : State).setF (coreWin 127)
    SEQ_STATUS_STATE 3

theorem wit_TwoPhaseCommit_order :
    Functional preparingOne ∧
    (∃ x ∈ [actNext, actTwo], sameAddr actOne x = true) ∧ sameAddr actNext actTwo = false ∧ lastActs [actOne, actNext, actTwo] = [actNext, actTwo] ∧
    preparingOne.two.prep.contains 15 = true ∧ dieOff preparingOne (15 / 4) = false ∧
      preparingOne.getF (injBase 0x0C) TXU_INJ_COUNT = 0 ∧ preparingOne.getF (injBase 0x0D) TXU_INJ_COUNT = 0 ∧
      groupFault { preparingOne with two := { preparingOne.two with prep := [] } } 15 (actsOf preparingOne 15) = none ∧
      actsOf preparingOne 15 = [actOne] ∧ namedCores 15 actOne.toNat = [127] ∧
      seqStateOf { preparingOne with two := { preparingOne.two with prep := [] } } 127 = 3 :=
  ⟨rfl, ⟨actTwo, by simp, by decide +kernel⟩, by decide +kernel⟩

theorem wit_TwoPhaseCommit :
    let bad : State := { preparing with groups := [⟨1, 0, [(15, [0])], []⟩] }
    Functional preparing ∧ Functional bad ∧
    preparing.two.prep.contains 15 = true ∧ dieOff preparing (15 / 4) = false ∧ preparing.getF (injBase 0x0C) TXU_INJ_COUNT = 0 ∧
      preparing.getF (injBase 0x0D) TXU_INJ_COUNT = 0 ∧ groupFault preparing 15 (actsOf preparing 15) = none ∧
      (actsOf preparing 15).any (fun a => (namedCores 15 a.toNat).any (fun c => seqStateOf preparing c = 3 || (seqStateOf preparing c = 4 && !false))) = false ∧
      (groupFault bad 15 (actsOf bad 15)).isSome = true ∧ preparing.two.votes[0]? = some (15, true) ∧
    preparing.getF (txuBase 16) TXU_STATUS_STATE = 2 ∧ preparing.getF (txuBase 16) TXU_DECISION_VALUE = 0 ∧
      preparing.two.await ≠ [] ∧ preparing.two.start + 100000 ≤ now preparing ∧
      preparing.getF (txuBase 16) TXU_STATUS_FAIL_WHY = 0 ∧ now { preparing with timeBase := 100004 } < preparing.two.start + 100000 ∧
    preparing.two.dec.contains 15 = true ∧ (preparing.setF (txuBase 16) TXU_DECISION_VALUE 1).getF (txuBase 16) TXU_DECISION_VALUE = 1 ∧
      (preparing.setF (txuBase 16) TXU_DECISION_VALUE 2).getF (txuBase 16) TXU_DECISION_VALUE = 2 ∧ preparing.two.acks[0]? = some 15 :=
  ⟨rfl, rfl, by decide +kernel⟩

theorem wit_DrainsFlushesAborts :
    let a := withPlan up { onePlan 1 with switch := 1, lastDone := 5 } 4
    let r : Reloc := ⟨[0], 1, 5, 0, []⟩
    let b := withPlan up { onePlan 1 with reloc := some r } 4
    let n : State := { withPlan up (onePlan 1) 3 with notices := [(0, 5, 7, [127])], frames := [frame5], purge := [(0, 5, 7)] }
    let e : State := { n with frames := [] }
    let d : State := { n with boot := { up.boot with down := true } }
    let c := (withPlan up { onePlan 1 with lastDone := 5 } 3).setStream 127 { StreamSt.reset with plan := some 0, closing := 2 }
    Functional a ∧ Functional b ∧ Functional n ∧ Functional e ∧ Functional d ∧ Functional c ∧
    (a.plan 0).switch = 1 ∧ planState a 0 = 4 ∧ (a.plan 0).reloc = none ∧ planQuiet a 0 = true ∧
      (a.plan 0).lastDone + 10000000 ≤ now a ∧ now { a with timeBase := 10000004 } < (a.plan 0).lastDone + 10000000 ∧
    (b.plan 0).reloc = some r ∧ r.stage = 1 ∧ b.boot.down = false ∧ r.start ≤ now b ∧ planState b 0 ≠ 6 ∧
      now { b with timeBase := 4 } < r.start ∧
    (c.plan 0).reloc = none ∧ planState c 0 ≠ 6 ∧ (c.stream 127).plan = some 0 ∧ (c.stream 127).closing = 2 ∧
      (∀ f ∈ working c 0, f.slot ≠ 127) ∧ (c.stream 127).closeT + 10000000 ≤ now c ∧ c.boot.down = false ∧ a.boot.down = false ∧
      now { c with timeBase := 9999999 } < (c.stream 127).closeT + 10000000 ∧
    n.notices[0]? = some (0, 5, 7, [127]) ∧ seqStateOf n 127 < 3 ∧ endedIn n 127 5 7 = false ∧ (n.core 127).notices.length < 32 ∧
      endedIn e 127 5 7 = true ∧ 127 ∈ [127] ∧ seqStateOf (n.setF (coreWin 127) SEQ_STATUS_STATE 3) 127 = 3 ∧
      n.purge[0]? = some (0, 5, 7) ∧ { n with purge := [(0, 5, 2 ^ 32)] }.purge[0]? = some (0, 5, 2 ^ 32) ∧ n.boot.down = false ∧ d.boot.down = true :=
  ⟨rfl, rfl, rfl, rfl, rfl, rfl, by decide +kernel⟩

/-! ### The core -/

theorem wit_SequencerMoves :
    let l := (atWord (0x1B + 2 ^ 48 * 2)).setCore 127 { CoreSt.reset with loops := [some 1, none, none, none] }
    Functional (atWord 0) ∧ Functional l ∧
    (∀ o ∈ [0, 0x1B, 0x1C, 0x1D], atOp (atWord o) 127 o = true ∧ wReservedClear (fetchWord (atWord o) 127) = true ∧
      wSYNC (fetchWord (atWord o) 127) = false) ∧
    ((atWord 0x1B).core 127).loops.getD 0 none = none ∧ (l.core 127).loops.getD 0 none = some 1 ∧ atOp l 127 0x1B = true ∧
    ((atWord 0x1D).core 127).ops = [] ∧ outstanding (atWord 0x1D) 127 = false ∧
      wSYNC (fetchWord (atWord (2 ^ 29)) 127) = true ∧ ((atWord (2 ^ 29)).core 127).ops = [] :=
  ⟨rfl, rfl, by decide +kernel⟩

theorem wit_ProgramsEnd :
    let e := atWord 0x1F
    let o : Op := ⟨0, 0, 0x11, [], 0, 0, 0, Acc.zero, [], [], 0, 0, 0, 0, false, true⟩
    let m : State := e.setCore 127 { CoreSt.reset with ops := [o] }
    let q : State := up.setCore 127 { CoreSt.reset with eof := [token 5 0 5] }
    let v := (e.setF (coreWin 127) SEQ_FRAME_VALID 1).setCore 127 { CoreSt.reset with eof := [token 5 0 5] }
    Functional e ∧ Functional m ∧ Functional q ∧ Functional v ∧
    atOp e 127 0x1F = true ∧ wReservedClear (fetchWord e 127) = true ∧ (e.core 127).ops = [] ∧
      (∀ k ∈ List.range 8, (e.eng 127 k).chst = []) ∧
    (m.core 127).ops[0]? = some o ∧ halted m 127 = false ∧ opDone m 127 o = true ∧ o.opc ≠ 0x17 ∧
    (q.core 127).eof = [token 5 0 5] ∧ halted q 127 = false ∧
      q.getF (coreWin 127) SEQ_STATUS_PC = q.getF (coreWin 127) SEQ_CTRL_ENTRY ∧ q.getF (coreWin 127) SEQ_FRAME_VALID = 0 ∧
      (v.core 127).eof = [token 5 0 5] ∧ v.getF (coreWin 127) SEQ_FRAME_VALID = 1 ∧
    (m.core 127).ops = o :: [] ∧ linkWait m 127 = false ∧ (∀ p ∈ List.range 8, holderOf m 127 ≠ some p) ∧
      m.getF (injBase 0x06) TXU_INJ_COUNT = 0 ∧ m.getF (coreWin 127) SEQ_WDOG_LIMIT = 0 ∧
      (m.setF (coreWin 127) SEQ_WDOG_LIMIT 1).getF (coreWin 127) SEQ_WDOG_LIMIT = (m.core 127).wdog + 1 ∧
      (m.setF (coreWin 127) SEQ_WDOG_LIMIT 2).getF (coreWin 127) SEQ_WDOG_LIMIT ≠ 0 :=
  ⟨rfl, rfl, rfl, rfl, by decide +kernel⟩

theorem wit_StatisticsWritten :
    let x : EngSt := { EngSt.reset with chst := [(3, { ChStat.reset with maxAbs := .fin false ⟨5, 1⟩, seen := true })] }
    let s := (atWord 0x1F).setCore 127 { CoreSt.reset with engs := [(7, x)] }
    Functional s ∧ atOp s 127 0x1F = true ∧ wReservedClear (fetchWord s 127) = true ∧ (s.core 127).ops = [] ∧
      (s.eng 127 7).chst = [(3, { ChStat.reset with maxAbs := .fin false ⟨5, 1⟩, seen := true })] ∧
      (∀ d ∈ List.range 7, (s.eng 127 d).chst = []) ∧ ppuF s 127 7 PPU_CTRL_RSMODE ≠ 2 ∧ (s.core 127).dark = false ∧
      64 * ppuF s 127 7 PPU_STATS_BASE + 16 * (3 - ppuF s 127 7 PPU_CH_CHBASE) + 16 ≤ 0x600000 ∧
      waitsOn s (scratchWin 127 + 48) 16 = none ∧ badRegion s (scratchWin 127 + 48) 16 = false ∧
      ((s.setCore 127 { s.core 127 with dark := true }).core 127).dark = true :=
  ⟨rfl, by decide +kernel⟩

/-- A KILN over SAGs 0 and 1 that have ended, its state area at the start of scratch. -/
def kilning : State :=
  ((up.setReg (coreWin 127 + 0x44) (0x60000000 + 0x17FFF)).setReg (sagBase 127 0 + 4) 8).setCore 127 { CoreSt.reset with
    ops := [⟨0, 5, BitVec.ofNat 128 (0x17 + 2 ^ 8 * 0x80 + 2 ^ 16 * 0x222 + 2 ^ 36), natToBytes 64 0, 0, 0, 0, Acc.zero, [], [], 0, 0, 0,
      0, false, false⟩]
    sags := [(0, { SagSt.reset with ended := true }), (1, { SagSt.reset with ended := true })] }

theorem wit_ProgramsEnd_kiln :
    let o : Op := ⟨0, 5, BitVec.ofNat 128 (0x17 + 2 ^ 8 * 0x80 + 2 ^ 16 * 0x222 + 2 ^ 36), natToBytes 64 0, 0, 0, 0, Acc.zero, [], [], 0, 0,
      0, 0, false, false⟩
    Functional kilning ∧
    (kilning.core 127).ops[0]? = some o ∧ halted kilning 127 = false ∧ opDone kilning 127 o = true ∧ o.opc = 0x17 ∧
      halted (kilnFinish kilning 127 ((wEngines o.word.toNat).headD 0) o) 127 = false :=
  ⟨rfl, by decide +kernel⟩

theorem wit_ProgramsEnd_barrier :
    let b := (atWord 0x1D).setMvr 15 0 { MvrSt.reset with outFor := some 127 }
    Functional b ∧ (b.core 127).ops = [] ∧ barrierWait b 127 = true ∧ (∀ p ∈ List.range 8, holderOf b 127 ≠ some p) ∧
      b.getF (injBase 0x06) TXU_INJ_COUNT = 0 ∧ b.getF (coreWin 127) SEQ_WDOG_LIMIT = 0 ∧
      (b.setF (coreWin 127) SEQ_WDOG_LIMIT 1).getF (coreWin 127) SEQ_WDOG_LIMIT ≤ (b.core 127).wdog + 1 :=
  ⟨rfl, by decide +kernel⟩

theorem wit_HandlesMoved :
    let w := (atWord (0x18 + 2 ^ 48 * 15)).setHq 127 15 { HqSt.reset with entries := [5, 6] }
    let g := (atWord (0x19 + 2 ^ 48 * 15)).setHq 127 15 { HqSt.reset with held := some 5 }
    let r := (atWord (0x1A + 2 ^ 48 * 15)).setHq 127 15 { HqSt.reset with held := some 5 }
    Functional w ∧ Functional g ∧ Functional r ∧
    atOp w 127 0x18 = true ∧ wReservedClear (fetchWord w 127) = true ∧ (w.core 127).ops = [] ∧ (w.hq 127 15).held = none ∧
      (w.hq 127 15).entries = 5 :: [6] ∧ bit (5 : BitVec 64).toNat 24 = false ∧ 15 ≠ w.getF (coreWin 127) SEQ_CTRL_FRAME_Q ∧
      ((atWord (0x18 + 2 ^ 48 * 15)).hq 127 15).entries = [] ∧
    atOp g 127 0x19 = true ∧ (g.hq 127 15).held = some 5 ∧ ((atWord (0x19 + 2 ^ 48 * 15)).hq 127 15).held = none ∧
    atOp r 127 0x1A = true ∧ (r.hq 127 15).held = some 5 ∧ (r.hq 127 15).spilling = false ∧
      ((atWord (0x1A + 2 ^ 48 * 15)).hq 127 15).held = none :=
  ⟨rfl, rfl, rfl, by decide +kernel⟩

theorem wit_HandlesMoved_frames :
    let f := ((atWord (0x18 + 2 ^ 48 * 15)).setF (coreWin 127) SEQ_CTRL_FRAME_Q 15).setHq 127 15 { HqSt.reset with entries := [5, 6] }
    let e := (atWord (0x18 + 2 ^ 48 * 15)).setHq 127 15 { HqSt.reset with entries := [0x1000000, 6] }
    let o := (atWord (0x1A + 2 ^ 48 * 15)).setHq 127 15 { HqSt.reset with held := some 5, spilling := true }
    let i := o.setF (hqBase 127 15) STU_HQ_RANGE_COUNT 6
    Functional f ∧ Functional e ∧ Functional o ∧ Functional i ∧
    atOp f 127 0x18 = true ∧ (f.hq 127 15).held = none ∧ (f.hq 127 15).entries = 5 :: [6] ∧ bit (5 : BitVec 64).toNat 24 = false ∧
      15 = f.getF (coreWin 127) SEQ_CTRL_FRAME_Q ∧
    atOp e 127 0x18 = true ∧ (e.hq 127 15).entries = 0x1000000 :: [6] ∧ bit (0x1000000 : BitVec 64).toNat 24 = true ∧
      15 ≠ e.getF (coreWin 127) SEQ_CTRL_FRAME_Q ∧
    atOp o 127 0x1A = true ∧ (o.hq 127 15).spilling = true ∧ handleInRange o 127 15 (bits 5 0 16) = false ∧
    atOp i 127 0x1A = true ∧ (i.hq 127 15).held = some 5 ∧ (i.hq 127 15).spilling = true ∧ handleInRange i 127 15 (bits 5 0 16) = true :=
  ⟨rfl, rfl, rfl, rfl, by decide +kernel⟩

theorem wit_MacroOperationsIssue_load :
    let w := 0x16 + 2 ^ 8 * 0x80
    Functional (atWord w) ∧
    ((Instr.loadw 127, 0x16, false) ∈ (Instr.copy 127, 0x11, true) :: Spec.operators 127) ∧
    atOp (atWord w) 127 0x16 = true ∧ wReservedClear (fetchWord (atWord w) 127) = true ∧
      resourcesFree (atWord w) 127 w 0 = true ∧ fieldsOk (atWord w) 127 w 0 = true ∧
      (∀ n ∈ sagsNamed (atWord w) 127 w 0, sagOk (atWord w) 127 n = true) :=
  ⟨rfl, by decide +kernel⟩

theorem wit_MacroOperationsIssue_copy :
    let w := 0x11 + 2 ^ 32 * 0x321
    let b := natToBytes 64 (2 ^ 64 * 64)
    let s := (atWord w).putBytes (scratchWin 127) b
    Functional s ∧
    ((Instr.copy 127, 0x11, true) ∈ (Instr.copy 127, 0x11, true) :: Spec.operators 127) ∧
    atOp s 127 0x11 = true ∧ wReservedClear (fetchWord s 127) = true ∧
      resourcesFree s 127 w (peekBlock s 127 w) = true ∧ readBlock s 127 w = (some b, s) ∧
      fieldsOk s 127 w (bytesToNat b) = true ∧ (∀ n ∈ sagsNamed s 127 w (bytesToNat b), sagOk s 127 n = true) :=
  ⟨by unfold Functional; decide +kernel, by simp, by decide +kernel⟩

theorem wit_MacroOperationsIssue_eltwise :
    let w := 7 + 2 ^ 8 * 0x80 + 2 ^ 16 * 0x222 + 2 ^ 32 * 0x321
    Functional (atWord w) ∧
    ((Instr.eltwise 127, 7, true) ∈ (Instr.copy 127, 0x11, true) :: Spec.operators 127) ∧
    atOp (atWord w) 127 7 = true ∧ wReservedClear (fetchWord (atWord w) 127) = true ∧
      resourcesFree (atWord w) 127 w (peekBlock (atWord w) 127 w) = true ∧
      readBlock (atWord w) 127 w = (some (List.replicate 64 0), atWord w) ∧
      fieldsOk (atWord w) 127 w (bytesToNat (List.replicate 64 0)) = true ∧
      (∀ n ∈ sagsNamed (atWord w) 127 w 0, sagOk (atWord w) 127 n = true) :=
  ⟨rfl, by decide +kernel⟩

theorem wit_MacroOperationsIssue_sort :
    let w := 0xD + 2 ^ 16 * 0x505 + 2 ^ 32 * 0x321
    Functional (atWord w) ∧
    ((Instr.sort 127, 0xD) ∈ Spec.relations 127) ∧
    atOp (atWord w) 127 0xD = true ∧ wReservedClear (fetchWord (atWord w) 127) = true ∧
      (∀ r ∈ ((atWord w).cluster 15).rluq, r.1 ≠ 127) ∧ resourcesFree (atWord w) 127 w 0 = true ∧
      readBlock (atWord w) 127 w = (some (List.replicate 64 0), atWord w) ∧ relOk w 0 (wPLEN w) = true ∧ relTables 15 w 0 = true ∧
      (∀ n ∈ sagsNamed (atWord w) 127 w 0, sagOk (atWord w) 127 n = true) :=
  ⟨rfl, by decide +kernel⟩

/-- A COPY of mode 1 on queue 3, whose held entry it sends. -/
theorem wit_MacroOperationsIssue_control :
    let w := 0x11 + 2 ^ 32 * 0x321
    let b := natToBytes 64 (1 + 2 ^ 7 * 3 + 2 ^ 64 * 64)
    let s := (((atWord w).setReg (sagBase 127 1 + 4) (8 + 2 ^ 8 * 63)).putBytes (scratchWin 127) b).setHq 127 (cpCQ (bytesToNat b)) { HqSt.reset with held := some 5 }
    Functional s ∧ atOp s 127 0x11 = true ∧ wReservedClear (fetchWord s 127) = true ∧
      resourcesFree s 127 w (peekBlock s 127 w) = true ∧ readBlock s 127 w = (some b, s) ∧ cpMODE (bytesToNat b) = 1 ∧
      (s.hq 127 (cpCQ (bytesToNat b))).held = some 5 ∧ fieldsOk s 127 w (bytesToNat b) = true ∧
      (∀ n ∈ sagsNamed s 127 w (bytesToNat b), sagOk s 127 n = true) :=
  ⟨by unfold Functional; decide +kernel, by decide +kernel⟩

/-- A SORT of core 120, with requests of cores 121 (of an earlier instant) and 127 (of the same one) in the queue. -/
theorem wit_MacroOperationsIssue_queue :
    let w := 0xD + 2 ^ 16 * 0x505 + 2 ^ 32 * 0x321
    let a : Nat × BitVec 128 × Bytes × Nat := (121, 0, [], 5)
    let z : Nat × BitVec 128 × Bytes × Nat := (127, 0, [], 2000000000)
    let s := (atWordOf 120 w).setCluster 15 { ClusterSt.reset with rluq := [a, z] }
    Functional s ∧ atOp s 120 0xD = true ∧ wReservedClear (fetchWord s 120) = true ∧
      (∀ r ∈ (s.cluster 15).rluq, r.1 ≠ 120) ∧ resourcesFree s 120 w 0 = true ∧
      readBlock s 120 w = (some (List.replicate 64 0), s) ∧ relOk w 0 (wPLEN w) = true ∧ relTables 15 w 0 = true ∧
      (∀ n ∈ sagsNamed s 120 w 0, sagOk s 120 n = true) ∧
      (s.cluster 15).rluq = [a] ++ [z] ∧ a.2.2.2 ≠ now s ∧ z.2.2.2 = now s ∧ 120 < z.1 :=
  ⟨by unfold Functional; decide +kernel, by decide +kernel⟩

theorem wit_BadMacroOperationsFault :
    Functional (atWord (1 + 2 ^ 127)) ∧
    (Instr.conv 127, 0x01, true) ∈ Spec.operators 127 ∧ atOp (atWord 0) 127 1 = false ∧ atOp (atWord (1 + 2 ^ 127)) 127 1 = true ∧
      wReservedClear (fetchWord (atWord (1 + 2 ^ 127)) 127) = false ∧ wOPC (fetchWord (atWord 0xFF) 127) = 0xFF ∧
      atOp (atWord 0xFF) 127 0xFF = true ∧ wOPC (fetchWord (atWord 0x20) 127) = 0x20 ∧ atOp (atWord 0x20) 127 0x20 = true ∧
      wOPC (fetchWord (atWord 0x1E) 127) = 0x1E ∧ atOp (atWord 0x1E) 127 0x1E = true :=
  ⟨rfl, by decide +kernel⟩

theorem wit_BadMacroOperationsFault_fields :
    let w := 7 + 2 ^ 8 * 0x80 + 2 ^ 16 * 0x222 + 2 ^ 32 * 0x321
    let b := natToBytes 64 (2 ^ 140)
    let s := (atWord w).putBytes (scratchWin 127) b
    let g := (atWord w).setReg (sagBase 127 3 + 4) 0
    let l := 0x16 + 2 ^ 8 * 0x80 + 2 ^ 36 * 3
    let k := (atWord l).setReg (sagBase 127 3 + 4) 0
    Functional s ∧ Functional g ∧ Functional k ∧
    ((Instr.eltwise 127, 7, true) ∈ Spec.operators 127) ∧ ((Instr.loadw 127, 0x16, false) ∈ Spec.operators 127) ∧
    atOp s 127 7 = true ∧ wReservedClear (fetchWord s 127) = true ∧ resourcesFree s 127 w (peekBlock s 127 w) = true ∧
      readBlock s 127 w = (some b, s) ∧ fieldsOk s 127 w (bytesToNat b) = false ∧
      (sagsNamed s 127 w (bytesToNat b)).filter (fun n => !sagOk s 127 n) = [] ∧
    atOp g 127 7 = true ∧ wReservedClear (fetchWord g 127) = true ∧ resourcesFree g 127 w (peekBlock g 127 w) = true ∧
      readBlock g 127 w = (some (List.replicate 64 0), g) ∧ fieldsOk g 127 w 0 = true ∧
      (sagsNamed g 127 w 0).filter (fun n => !sagOk g 127 n) = [3] ∧
    atOp k 127 0x16 = true ∧ wReservedClear (fetchWord k 127) = true ∧ resourcesFree k 127 l 0 = true ∧ fieldsOk k 127 l 0 = true ∧
      (sagsNamed k 127 l 0).filter (fun n => !sagOk k 127 n) = [3] ∧
    (Instr.nop 127, 0x00) ∈ Spec.sequencing 127 ∧ atOp (atWord (2 ^ 127)) 127 0 = true ∧
      wReservedClear (fetchWord (atWord (2 ^ 127)) 127) = false ∧
    atOp (atWord (0x1F + 2 ^ 127)) 127 0x1F = true ∧ wReservedClear (fetchWord (atWord (0x1F + 2 ^ 127)) 127) = false :=
  ⟨by unfold Functional; decide +kernel, rfl, rfl, by decide +kernel⟩

/-- Core 127 with an operation in flight and its engine 7. -/
def working127 (o : Op) (x : EngSt) : State := up.setCore 127 { CoreSt.reset with ops := [o], engs := [(7, x)], gust := [(0, 1)] }

theorem wit_EngineEvents :
    let o := matmulOp
    let g : Op := { o with block := natToBytes 64 (2 ^ 4 + 2 ^ 128 + 2 ^ 52) }
    let r := (working127 o EngSt.reset).setF (engBase 127 7) ENG_STATUS_SHADOW_READY 1
    let v := working127 o { EngSt.reset with tile := 2, inb := List.replicate 32 1 }
    let q : Op := { o with word := BitVec.ofNat 128 (4 + 2 ^ 8 * 0x80 + 2 ^ 16 * 0x2C2) }
    let b := working127 q { EngSt.reset with tile := 2, active := [0xAA] }
    Functional (working127 g EngSt.reset) ∧ Functional r ∧ Functional v ∧ Functional b ∧
    engOp (working127 g EngSt.reset) 127 7 = some g ∧ halted (working127 g EngSt.reset) 127 = false ∧ fromGust g = true ∧
      takeGust ((working127 g EngSt.reset).getF (coreWin 127) STU_GUST_CHAN) ((working127 g EngSt.reset).core 127).gust = some (1, []) ∧ nextTileEngine (working127 g EngSt.reset) 127 g = some 7 ∧
      (working127 g EngSt.reset).getF (engBase 127 7) ENG_STATUS_SHADOW_READY = 0 ∧
    engOp r 127 7 = some o ∧ isCellOp o.opc = true ∧ r.getF (engBase 127 7) ENG_STATUS_SHADOW_READY = 1 ∧
      (r.eng 127 7).tile = 0 ∧ 0 < engTiles o 1 0 ∧
    engOp v 127 7 = some o ∧ halted v 127 = false ∧ (v.core 127).locked = false ∧ (v.eng 127 7).tile ≠ 0 ∧
      (v.eng 127 7).vec < hVpt o.blk ∧ hENGMODE o.blk ≠ 1 ∧ (vecPlace o 1 0 1 0).first = false ∧ ((vecPlace o 1 0 0 0).first = true ∧ (v.eng 127 7).acc.length < 4096) ∧
      woBeyond o 1 0 1 0 = false ∧ (hENGMODE o.blk = 1 → o.opc ≠ 0x02 → o.vecs % 1 = 0) ∧
      ternBad (wFMTB o.word.toNat) (v.eng 127 7).active = false ∧
      (match engVec v 127 7 o 1 0 1 0 with | .vec _ _ t => decide (t.met = v.met) | _ => false) = true ∧
    engOp b 127 7 = some q ∧ ternBad (wFMTB q.word.toNat) (b.eng 127 7).active = true :=
  ⟨rfl, rfl, rfl, rfl, by decide +kernel⟩

theorem wit_EngineEvents_beats :
    let o := matmulOp
    let a := (working127 o { EngSt.reset with shadow := [1] }).setSag 127 0 { SagSt.reset with dlv := List.replicate 64 1 }
    let f := (working127 o { EngSt.reset with shadow := List.replicate 4032 1 }).setSag 127 0 { SagSt.reset with dlv := List.replicate 64 1 }
    let w : Op := { o with word := BitVec.ofNat 128 (2 + 2 ^ 8 * 0x80 + 2 ^ 16 * 0x222), block := natToBytes 64 (2 ^ 20) }
    let v := working127 w { EngSt.reset with tile := 1, vec := 1 }
    Functional a ∧ Functional f ∧ Functional v ∧
    nextTileEngine a 127 o = some 7 ∧ a.getF (engBase 127 7) ENG_STATUS_SHADOW_READY = 0 ∧ fromGust o = false ∧
      sagVector (a.sag 127 (wSAGB o.word.toNat)) = some (List.replicate 64 1) ∧ 1 + 64 < tileBeats (wFMTB o.word.toNat) * 64 ∧
    nextTileEngine f 127 o = some 7 ∧ sagVector (f.sag 127 (wSAGB o.word.toNat)) = some (List.replicate 64 1) ∧
      tileBeats (wFMTB o.word.toNat) * 64 ≤ 4032 + 64 ∧
    engOp v 127 7 = some w ∧ halted v 127 = false ∧ (v.core 127).locked = false ∧ isCellOp w.opc = true ∧ (v.eng 127 7).tile ≠ 0 ∧
      (v.eng 127 7).vec < hVpt w.blk ∧ ternBad (wFMTB w.word.toNat) (v.eng 127 7).active = false ∧
      (match engVec v 127 7 w 1 0 0 1 with | .vec _ _ t => decide (t.met = v.met) | _ => false) = true ∧ woBeyond w 1 0 0 1 = true ∧
      (v.eng 127 7).acc.length < 4096 :=
  ⟨rfl, rfl, rfl, by decide +kernel⟩

/-- The operands of a macro-operation of one engine, all of 8-bit formats, one byte in its SAG 0. -/
def plainOp (opc block : Nat) : Op :=
  { matmulOp with word := BitVec.ofNat 128 (opc + 2 ^ 8 * 0x80 + 2 ^ 16 * 0x222 + 2 ^ 40), block := natToBytes 64 block }

/-- Core 127 with such an operation, a value delivered to its SAG 0. -/
def withElement (o : Op) : State := (working127 o EngSt.reset).setSag 127 0 { SagSt.reset with dlv := [0x7F, 0x7E] }

theorem wit_PpuElements :
    let e := plainOp 7 (2 ^ 192 * 0x3F800000 + 2 ^ 224 * 0x3F800000 + 2 ^ 256 * 0x3F800000)
    let r := plainOp 8 (2 ^ 240 * 0x3F800000 + 2 ^ 272 * 0x3F800000)
    let l := plainOp 8 (2 ^ 176)
    let m := plainOp 8 (2 ^ 128 * 2 + 2 ^ 176)
    let n := plainOp 8 (2 ^ 128 * 3 + 2 ^ 176)
    (∀ o ∈ [e, r, l, m, n], halted (withElement o) 127 = false ∧ ((withElement o).core 127).locked = false ∧
      engOp (withElement o) 127 7 = some o ∧ wRND o.word.toNat = false ∧ wFMTOUT o.word.toNat ∈ [0x2, 0x3, 0x4, 0x5] ∧
      (withElement o).getF (ppuBase 127 7) PPU_SIDE_EN = 0 ∧ ((withElement o).sag 127 (wSAGOUT o.word.toNat)).half = none ∧
      operand (withElement o) 127 o (wSAGA o.word.toNat) 2 0 0 = some (.fin false ⟨0x7F, 1⟩)) ∧
    elOP e.blk = 0 ∧ 0 < elCOUNT e.blk ∧ elBCAST e.blk = 0 ∧
      operand (withElement e) 127 e (wSAGB e.word.toNat) 2 0 0 = some (.fin false ⟨0x7F, 1⟩) ∧
      ((Spec.eltwise 0 (Spec.deq 2 (.fin false ⟨0x7F, 1⟩) 0 (floatElem 0xB 0x3F800000))
        (Spec.deq 2 (.fin false ⟨0x7F, 1⟩) 0 (floatElem 0xB 0x3F800000))).mul (floatElem 0xB 0x3F800000)).1.fp32.1 = .fin false ⟨16646144, 65536⟩ ∧
    elOP r.blk = 0 ∧ fmtFloat 2 = false ∧ 0 / reLEN r.blk < reNRUN r.blk ∧ 0 / reLEN r.blk % 1 = 0 ∧ 0 % reLEN r.blk + 1 = reLEN r.blk ∧
      r.outs = [] ∧ (((FV.ofQ (clampQ ((⟨0, 1⟩ : Q).add ((⟨0x7F, 1⟩ : Q).sub (Q.ofInt 0))) 0) false).mul (floatElem 0xB 0x3F800000)).1.fp32.1.mul
        (floatElem 0xB 0x3F800000)).1.fp32.1 = .fin false ⟨16646144, 131072⟩ ∧
    elOP l.blk = 0 ∧ 0 / reLEN l.blk < reNRUN l.blk ∧ 0 / reLEN l.blk / unitOf l % 1 = 0 ∧ 0 % reLEN l.blk + 1 < reLEN l.blk ∧
    elOP m.blk = 2 ∧ elOP n.blk = 3 ∧ 0 % reLEN m.blk + 1 < reLEN m.blk ∧ 0 / reLEN m.blk / unitOf m % 1 = 0 ∧ m.red.f.isNaN = false := by
  decide +kernel

/-- A global maximum POOL of one input pixel, its scratch granted, and a MATMUL with its accumulator ready. -/
def poolOp : Op := plainOp 5 (2 ^ 256 * 2)

def pooling : State :=
  ((withElement poolOp).setReg (coreWin 127 + 0x44) (0x60000000 + 0x17FFF)).setReg (sagBase 127 0 + 4) 8

def multiplied : State :=
  (working127 matmulOp { EngSt.reset with acc := [(0, { Acc.zero with i := 5, fin := true })] }).setReg (coreWin 127 + 0x44)
    (0x60000000 + 0x17FFF)

/-- Whether the premises on an element of a pipelined operator hold: the step-6 value is finite, its zero point read. -/
def sixReady (s : State) (o : Op) : Bool :=
  let el := outEl s 127 7 o 1 0 0
  match sixOf s 127 7 o 1 el with
  | .val (.fin _ _) _ _ u =>
    match zpEntry u 127 7 o el.ch with
    | (some _, v) => ppuF v 127 7 PPU_CTRL_RSMODE = 0 && v.getF (ppuBase 127 7) PPU_SIDE_EN = 0 &&
        boundsOk v 127 (sagOrigin v 127 (wSAGOUT o.word.toNat)) 1 true && v.dies.all (fun d => d.2.bad.isEmpty) &&
        v.cores.all (fun x => x.2.engs.all (fun y => decide (y.2.outq.length < 31)))
    | _ => false
  | _ => false

theorem wit_PipelineElements :
    let z := (pooling.putBytes (scratchWin 127) (natToBytes 8 (2 ^ 30 * 200)))
    Functional pooling ∧ Functional multiplied ∧
    (∀ x ∈ [(pooling, poolOp), (multiplied, matmulOp)], halted x.1 127 = false ∧ (x.1.core 127).locked = false ∧
      engOp x.1 127 7 = some x.2 ∧ x.2.opc ∈ [0x01, 0x03, 0x04, 0x05, 0x06, 0x13] ∧ wRND x.2.word.toNat = false ∧
      ppuF x.1 127 7 PPU_CTRL_RSMODE = 0 ∧ x.1.getF (ppuBase 127 7) PPU_SIDE_EN = 0 ∧ (x.1.eng 127 7).outk < outTotal x.1 127 x.2 1 0 ∧
      (outEl x.1 127 7 x.2 1 0 0).skip = false ∧ sixReady x.1 x.2 = true) ∧
    wFMTOUT poolOp.word.toNat = 2 ∧ (outEl pooling 127 7 poolOp 1 0 0).dst = some (0, 0, 0, 0) ∧
    (outEl multiplied 127 7 matmulOp 1 0 0).dst = none ∧
    (rescaleEntry z 127 7 poolOp 0).1 = some (2 ^ 30 * 200) ∧ intMax 2 ≤ signed 16 (bits (2 ^ 30 * 200) 30 16) :=
  ⟨rfl, rfl, by decide +kernel⟩

/-- A KILN over INT8 codes against BF16 shadows, and one over TERN2. -/
theorem wit_KilnElements :
    let at0 (f : Nat) (d : Bytes) : Op × State :=
      let o : Op := { matmulOp with word := BitVec.ofNat 128 (0x17 + 2 ^ 8 * 0x80 + 2 ^ 16 * f + 2 ^ 20 * 0xA + 2 ^ 36), block := natToBytes 64 0 }
      (o, ((working127 o EngSt.reset).setReg (coreWin 127 + 0x44) (0x60000000 + 0x17FFF)).setCore 127 { CoreSt.reset with
        ops := [o], engs := [(7, EngSt.reset)], sags := [(0, { SagSt.reset with dlv := d }), (1, { SagSt.reset with dlv := [0, 0] })] })
    let i := at0 2 [3]
    let m := at0 2 [0x7F]
    let t := at0 0xC [2]
    let g := at0 0xC [1]
    (∀ x ∈ [i, m, t, g], Functional x.2 → halted x.2 127 = false ∧ (x.2.core 127).locked = false ∧ engOp x.2 127 7 = some x.1 ∧
      x.1.opc = 0x17 ∧ indexIn (wEngines x.1.word.toNat) 7 = 0 ∧
      operand x.2 127 x.1 (wSAGB x.1.word.toNat) 0xA 0 0 = some (.fin false ⟨0, 1⟩) ∧
      (rescaleEntry x.2 127 7 x.1 (streamChannel x.2 127 7 0)).1 = some 0 ∧
      (rescaleEntry x.2 127 7 x.1 (streamChannel x.2 127 7 0)).2.met = x.2.met) ∧
    (operandCode i.2 127 i.1 0 2 0 0).map (·.1) = some 3 ∧ 3 ≠ satCode 2 true ∧ 3 ≠ satCode 2 false ∧
    (operandCode m.2 127 m.1 0 2 0 0).map (·.1) = some 0x7F ∧ 0x7F = satCode 2 false ∧
    (operandCode t.2 127 t.1 0 0xC 0 0).map (·.1) = some 2 ∧ (operandCode g.2 127 g.1 0 0xC 0 0).map (·.1) = some 1 := by
  simp only [Functional]; decide +kernel

/-- SAG 15 of core 127 in a macro-operation, in address-program mode, at an instruction word. -/
def atInstr (w : Nat) (x : SagSt) : State :=
  ((up.setReg (sagBase 127 15 + 4) (8 + 2 ^ 6)).setReg (coreWin 127 + 0x3000 + 0x100 * 15 + 4 * x.pc) w).setCore 127
    { CoreSt.reset with sags := [(15, { x with owner := some 0 })], ops := [matmulOp] }

theorem wit_AddressProgramSteps :
    Functional (atInstr 0 SagSt.reset) ∧
    (∀ o ∈ [0, 1, 2, 3, 7, 8, 9, 0xA, 0xE], apAt (atInstr (o * 2 ^ 28) SagSt.reset) 127 15 o = true) ∧
      apAt (atInstr (4 * 2 ^ 28 + 1) SagSt.reset) 127 15 4 = true ∧ aIMM (apWord (atInstr (4 * 2 ^ 28 + 1) SagSt.reset) 127 15) = 1 ∧
      apAt (atInstr (4 * 2 ^ 28) SagSt.reset) 127 15 4 = true ∧ aIMM (apWord (atInstr (4 * 2 ^ 28) SagSt.reset) 127 15) = 0 ∧
      apAt (atInstr (7 * 2 ^ 28 + 4 * 2 ^ 25) SagSt.reset) 127 15 7 = true ∧
      aRD (apWord (atInstr (7 * 2 ^ 28 + 4 * 2 ^ 25) SagSt.reset) 127 15) = 4 ∧
      aRD (apWord (atInstr (7 * 2 ^ 28 + 3 * 2 ^ 25) SagSt.reset) 127 15) < 4 ∧
      apAt (atInstr (8 * 2 ^ 28) { SagSt.reset with cnt := [2, 0, 0, 0] }) 127 15 8 = true ∧
      apAt (atInstr (8 * 2 ^ 28) { SagSt.reset with cnt := [1, 0, 0, 0] }) 127 15 8 = true ∧
      apAt (atInstr (8 * 2 ^ 28 + 4 * 2 ^ 25) SagSt.reset) 127 15 8 = true ∧
      aRD (apWord (atInstr (8 * 2 ^ 28 + 4 * 2 ^ 25) SagSt.reset) 127 15) = 4 ∧
      apAt (atInstr 0 { SagSt.reset with pc := 63 }) 127 15 0 = true ∧ apAt (atInstr 0 { SagSt.reset with pc := 62 }) 127 15 0 = true :=
  ⟨rfl, by decide +kernel⟩

theorem wit_StreamsStep :
    let z := (atInstr (6 * 2 ^ 28 + 1) { SagSt.reset with inb := [1, 2] }).setReg (sagBase 127 15 + 4) (8 + 2 ^ 6 + 2 ^ 7)
    let e := (atInstr 0 { SagSt.reset with emLeft := 2, inb := [1, 2] })
    let d := (atInstr 0 { SagSt.reset with emLeft := 2 }).setReg (sagBase 127 15 + 4) (8 + 2 ^ 6 + 2 ^ 7)
    Functional z ∧ Functional e ∧ Functional d ∧
    apAt (atInstr (5 * 2 ^ 28) SagSt.reset) 127 15 5 = true ∧ apAt z 127 15 6 = true ∧
      z.getF (sagBase 127 15) SAG_CFG_DIR = 1 ∧ (bits (aIMM (apWord z 127 15)) 0 6 + 1) * sagElem z 127 15 = 2 ∧
      apAt (atInstr (15 * 2 ^ 28) SagSt.reset) 127 15 15 = true ∧
    (e.sag 127 15).owner = some 0 ∧ e.op 127 0 = some matmulOp ∧ matmulOp.opc = 4 ∧
      sagRuns e 127 15 1 = true ∧ (e.sag 127 15).emLeft ≠ 0 ∧ e.getF (sagBase 127 15) SAG_CFG_DIR = 0 ∧
      d.getF (sagBase 127 15) SAG_CFG_DIR = 1 ∧ (d.sag 127 15).inb.length < 2 :=
  ⟨rfl, rfl, rfl, by decide +kernel⟩

theorem wit_StreamsStep_runs :
    let z := atInstr (6 * 2 ^ 28 + 1) SagSt.reset
    let e := (atInstr 0 { SagSt.reset with emLeft := 2, pc := 64 }).setReg (coreWin 127 + 0x44) (0x60000000 + 0x17FFF)
    let d := (atInstr 0 SagSt.reset).setReg (sagBase 127 15 + 4) 8
    let o : Op := { matmulOp with word := BitVec.ofNat 128 (0x14 + 2 ^ 16 * 0x222 + 2 ^ 40 * 15) }
    let r := (atInstr 0 SagSt.reset).setCore 127 { CoreSt.reset with sags := [(15, { SagSt.reset with owner := some 0 })], ops := [o] }
    let f (x : SagSt) (len : Nat) : SagSt := { x with emAddr := x.emAddr + len, emLeft := x.emLeft - len }
    Functional z ∧ Functional e ∧ Functional d ∧ Functional r ∧
    apAt z 127 15 6 = true ∧ z.getF (sagBase 127 15) SAG_CFG_DIR = 0 ∧ (z.sag 127 15).pc < 63 ∧
      sagRuns e 127 15 1 = true ∧ (e.sag 127 15).emLeft ≠ 0 ∧ e.getF (sagBase 127 15) SAG_CFG_DIR = 0 ∧ streamsSag matmulOp 15 = true ∧
      ((sagAccess e 127 15 0 2 (f · 2) 2).sag 127 15).emLeft = 0 ∧ 64 ≤ ((sagAccess e 127 15 0 2 (f · 2) 2).sag 127 15).pc ∧
      ((sagAccess (e.setSag 127 15 { e.sag 127 15 with pc := 63 }) 127 15 0 2 (f · 2) 2).sag 127 15).pc < 64 ∧
    (d.sag 127 15).owner = some 0 ∧ d.op 127 0 = some matmulOp ∧ sagRuns d 127 15 0 = true ∧
    (r.sag 127 15).owner = some 0 ∧ r.op 127 0 = some o ∧ o.opc = 0x14 ∧ 15 = wSAGOUT o.word.toNat ∧ halted r 127 = false :=
  ⟨rfl, rfl, rfl, rfl, by decide +kernel⟩

/-- The program of a SAG whose order its macro-operation generates: SAG_A of a CONV, SAG_OUT of a SORT. -/
theorem wit_AddressProgramSteps_ignored :
    let o (opc a : Nat) : Op := { matmulOp with word := BitVec.ofNat 128 (opc + 2 ^ 16 * 0x222 + a) }
    let s (p : Op) : State := (atInstr 0 SagSt.reset).setCore 127
      { CoreSt.reset with sags := [(15, { SagSt.reset with owner := some 0 })], ops := [p] }
    Functional (s (o 1 (2 ^ 32 * 15))) ∧ Functional (s (o 0xD (2 ^ 40 * 15))) ∧
    (∀ p ∈ [o 1 (2 ^ 32 * 15), o 0xD (2 ^ 40 * 15)], ((s p).sag 127 15).owner = some 0 ∧ (s p).op 127 0 = some p ∧
      streamsSag p 15 = false) ∧
    (o 1 (2 ^ 32 * 15)).opc = 1 ∧ 15 = wSAGA (o 1 (2 ^ 32 * 15)).word.toNat ∧ (o 0xD (2 ^ 40 * 15)).opc = 0xD ∧
      15 = wSAGOUT (o 0xD (2 ^ 40 * 15)).word.toNat ∧ streamsSag matmulOp 15 = true :=
  ⟨rfl, rfl, by decide +kernel⟩

/-- A CROP whose box list is all there. -/
def boxed : State :=
  (atInstr 0 SagSt.reset).setCore 127 { CoreSt.reset with
    ops := [{ matmulOp with word := BitVec.ofNat 128 (0x13 + 2 ^ 16 * 0x222 + 2 ^ 44 * 15) }]
    sags := [(15, { SagSt.reset with owner := some 0, emLeft := 2, dlv := List.replicate 65552 0 })] }

theorem wit_StreamsStep_boxes :
    Functional boxed ∧ (boxed.sag 127 15).dlv.length = 65552 ∧ min 64 (65552 - 65552) = 0 ∧
    (boxed.sag 127 15).owner = some 0 ∧ (boxed.sag 127 15).emLeft = 2 ∧
    (boxed.op 127 0).map (fun o => (o.opc, wSAGAUX o.word.toNat, streamsSag o 15)) = some (0x13, 15, true) ∧
      sagRuns boxed 127 15 1 = true ∧ boxed.getF (sagBase 127 15) SAG_CFG_DIR = 0 :=
  ⟨rfl, List.length_replicate, by decide, by decide +kernel⟩

theorem wit_AddressesAndBounds :
    let s := ((up.setReg (sagBase 127 15 + 4) (2 * 8)).setReg (sagBase 127 15 + 8) 3).setReg (sagBase 127 15 + 16) 1
    sagCount s 127 15 2 = 1 ∧ sagCount s 127 15 3 = 1 ∧ sagCount s 127 15 4 = 1 ∧ sagCount s 127 15 0 = 4 ∧ sagCount s 127 15 1 = 2 ∧
      3 < sagCount s 127 15 0 ∧ 1 < sagCount s 127 15 1 ∧ s.getF (sagBase 127 15) SAG_CFG_DIR = 0 ∧
      (∀ m ∈ List.range 8, windowGrants s 127 m 0 1 false = false) := by decide +kernel

/-! ### Configuration and tokens -/

theorem wit_SeedWritten :
    let b := up.setF (coreWin 127) SEQ_FRAME_VALID 1
    Functional up ∧ Functional b ∧ drained up 127 = true ∧ drained b 127 = false ∧ b.getF (coreWin 127) SEQ_FRAME_VALID = 1 :=
  ⟨rfl, rfl, by decide +kernel⟩

theorem wit_CoreConfigured :
    let b := up.setF (coreWin 127) SEQ_FRAME_VALID 1
    Functional up ∧ Functional b ∧
    drained up 127 = true ∧ drained b 127 = false ∧ isCoreConfig (0x13FFC : BitVec 32).toNat = true ∧
      isCoreConfig (0x14000 : BitVec 32).toNat = false ∧ isCoreConfig (0x8400 : BitVec 32).toNat = true ∧
      isCoreConfig (0 : BitVec 32).toNat = true ∧ (0x8401 : BitVec 32).toNat % 4 ≠ 0 ∧ (0x87FC : BitVec 32).toNat < 0x8800 ∧
      isCoreConfig (0x87D4 : BitVec 32).toNat = true ∧ (0x18 : BitVec 6).toNat = 0x18 ∧
      (0x10000 : BitVec 32).toNat % 4 = 0 ∧ 0x8800 ≤ (0x10000 : BitVec 32).toNat ∧ (0x14 : BitVec 6).toNat < 0x18 :=
  ⟨rfl, rfl, by decide +kernel⟩

/-- Core 1 holds a token out to core 0, its western neighbour. -/
def link (x : CoreSt) (t : Token) : State := (up.setCore 0 x).setCore 1 { CoreSt.reset with outp := [(3, t)] }

theorem wit_TokensCrossLinks :
    let t := token 0 0 9
    let s := link CoreSt.reset t
    let f := link { CoreSt.reset with inq := [(1, [t, t])] } t
    let p := s.setReg (coreWin 0 + 0x1014) 4
    let q := up.setCore 1 { CoreSt.reset with pass := [(1, t)] }
    let r := up.setCore 1 { CoreSt.reset with pass := [(1, t)], outp := [(3, t)] }
    Functional s ∧ Functional f ∧ Functional p ∧ Functional q ∧ Functional r ∧
    heldOut s 0 1 = some (t, some 1) ∧ portKind s 0 1 ≠ 0 ∧ (injected s 0x05 1).1 = false ∧
      bit (s.getF (coreWin 0 + 4) STU_PASS_MASK) t.tag.toNat = false ∧ seqState s 0 ≠ 3 ∧ (s.inq 0 1).length = 0 ∧
    heldOut f 0 1 = some (t, some 1) ∧ 2 ≤ (f.inq 0 1).length ∧
    heldOut p 0 1 = some (t, some 1) ∧ bit (p.getF (coreWin 0 + 4) STU_PASS_MASK) t.tag.toNat = true ∧
      SMap.find (p.core 0).pass 1 = none ∧ portKind (p.setReg 0 0) 0 1 ≠ 0 ∧
    SMap.find (q.core 1).pass 1 = some t ∧ portKind q 1 (oppPort 1) ≠ 0 ∧ SMap.find (q.core 1).outp (oppPort 1) = none ∧
    SMap.find (r.core 1).pass 1 = some t ∧ SMap.find (r.core 1).outp (oppPort 1) = some t ∧
    (linkToken (linkBits t ^^^ (1 : BitVec 560).toNat)).2 = false ∧
    (let d := (s.setReg (coreWin 0 + 0x1014) 4)
     let v := takeOut d 0 1
     portKind (v.setCore 0 { v.core 0 with refus := (v.core 0).refus.put 1 0 }) 0 (oppPort 1) = 0) ∧
    (let d := (up.setCore 2 { CoreSt.reset with outp := [(3, t)] }).setReg (coreWin 1 + 0x1014) 4
     let v := takeOut d 1 1
     heldOut d 1 1 = some (t, some 2) ∧ portKind d 1 1 ≠ 0 ∧ SMap.find (d.core 1).pass 1 = none ∧
       portKind (v.setCore 1 { v.core 1 with refus := (v.core 1).refus.put 1 0 }) 1 (oppPort 1) ≠ 0) ∧
    (let d := (s.setCore 0 { CoreSt.reset with pass := [(1, t)] }).setReg (coreWin 0 + 0x1014) 4
     heldOut d 0 1 = some (t, some 1) ∧ SMap.find (d.core 0).pass 1 = some t) ∧
    seqState (s.setF (coreWin 0) SEQ_STATUS_STATE 3) 0 = 3 :=
  ⟨rfl, rfl, rfl, rfl, rfl, by decide +kernel⟩

/-- A token at the head of an input port of core 0, with the words of route 2. -/
def steered (t : Token) (lo : Nat) : State :=
  (up.setCore 0 { CoreSt.reset with inq := [(3, [t])] }).setReg (coreWin 0 + 0x1100 + 8 * 2) lo

theorem wit_TokensSteered :
    let w (dest : Nat) := 0x3F + dest * 2 ^ 10
    Functional (steered (token 0 0 0) (w 0)) ∧
    (steered (token 0 0 0) (w 0)).inq 0 3 = [token 0 0 0] ∧ seqState (steered (token 0 0 0) (w 0)) 0 < 3 ∧
      ((steered (token 0 0 0) (w 0)).core 0).locked = false ∧ ((steered (token 0 0 0) (w 0)).core 0).flush = false ∧
      (injected (steered (token 0 0 0) (w 0)) 0x0A 0).1 = false ∧
      (token 0 0 0).epoch.toNat = (steered (token 0 0 0) (w 0)).getF (coreWin 0) SEQ_EPOCH_EPOCH ∧
      (token 0 4095 0).epoch.toNat ≠ (steered (token 0 4095 0) (w 0)).getF (coreWin 0) SEQ_EPOCH_EPOCH ∧
      6 ≤ (token 6 0 0).typ.toNat ∧ bit ((steered (token 0 0 0) 0).getF (routeBase 0 2) STU_ROUTE_ACCEPT) 0 = false ∧
      (token 4 0 0).typ = 4 ∧ (steered (token 4 0 0) (w 0)).getF (routeBase 0 2) STU_ROUTE_DEST ≠ 3 ∧
      (steered (token 0 0 0) (w 0)).getF (routeBase 0 2) STU_ROUTE_JOIN = 0 ∧
      bit ((steered (token 0 0 0) (w 0)).getF (routeBase 0 2) STU_ROUTE_ACCEPT) (token 0 0 0).typ.toNat = true ∧
      (steered (token 0 0 0) (w 0)).getF (routeBase 0 2) STU_ROUTE_DEST = 0 ∧ (token 1 0 0).typ = 1 ∧
      (steered (token 1 0 0) (w 2)).getF (routeBase 0 2) STU_ROUTE_DEST = 2 ∧
      (token 2 0 0).typ = 2 ∧ (steered (token 2 0 0) (w 0)).getF (routeBase 0 2) STU_ROUTE_DEST = 0 ∧
      (token 3 0 0).typ = 3 ∧ (steered (token 3 0 0) (w 2)).getF (routeBase 0 2) STU_ROUTE_DEST = 2 ∧
      seqState ((steered (token 0 0 0) (w 0)).setF (coreWin 0) SEQ_STATUS_STATE 4) 0 = 4 :=
  ⟨rfl, by decide +kernel⟩

theorem wit_TokensSteered_waits :
    let s := (steered (token 3 0 0) (0x3F + 1 * 2 ^ 10)).setF (bnkBase 0 0) BNK_STATE_STATE 2
    let o := (up.setCore 1 { CoreSt.reset with orig := [token 0 0 9] }).setReg (coreWin 1 + 0x1100 + 8 * 2) (0x3F + 3 * 2 ^ 10 + 3 * 2 ^ 14)
    Functional s ∧ Functional o ∧
    s.inq 0 3 = [token 3 0 0] ∧ seqState s 0 < 3  ∧
    (o.core 1).orig = [token 0 0 9] ∧ seqState o 1 < 3 ∧ (token 0 0 9).typ.toNat < 4 ∧
      bit (o.getF (routeBase 1 2) STU_ROUTE_ACCEPT) (token 0 0 9).typ.toNat = true ∧ o.getF (routeBase 1 2) STU_ROUTE_DEST = 3 ∧
      o.getF (routeBase 1 2) STU_ROUTE_JOIN = 0 ∧ portKind o 1 (o.getF (routeBase 1 2) STU_ROUTE_INDEX % 4) ≠ 0 ∧
      SMap.find (o.core 1).outp (o.getF (routeBase 1 2) STU_ROUTE_INDEX % 4) = none :=
  ⟨rfl, rfl, by decide +kernel⟩

theorem wit_JoinsAndGusts :
    let j : JoinSt := { JoinSt.reset with data := [token 0 0 1], armed := some 0, run := 2 }
    let s := up.setCore 127 { CoreSt.reset with joins := [(31, j)] }
    let g := (up.setReg (gstBase 15 7) 0xFF).setCluster 15 { ClusterSt.reset with feeds := [(7, [5])] }
    let b := g.setCore 127 { CoreSt.reset with gust := [(0, 1), (0, 2), (0, 3), (0, 4)] }
    Functional s ∧ Functional g ∧ Functional b ∧
    halted s 127 = false ∧ (s.join 127 31).armed = some 0 ∧ (s.join 127 31).heads = [] ∧ (s.join 127 31).data = [token 0 0 1] ∧
      (token 0 0 1).jseq = 0 ∧ (token 0 0 1).typ = 0 ∧ 1 < (s.join 127 31).run ∧
      s.getF (routeBase 127 31) STU_ROUTE_DEST = 0 ∧ (up.join 127 31).armed = none ∧
    SMap.get [] (g.cluster 15).feeds 7 = 5 :: [] ∧
      (∀ i ∈ maskList (g.getF (gstBase 15 7) GST_CH_MASK_CORES), (g.core (8 * 15 + i)).gust.length < 4) ∧
      7 ∈ maskList (b.getF (gstBase 15 7) GST_CH_MASK_CORES) ∧ 4 ≤ (b.core (8 * 15 + 7)).gust.length ∧
      (0xFC0 : BitVec 12).toNat % 64 = 0 ∧ (0xFC1 : BitVec 12).toNat % 64 ≠ 0 ∧ (List.replicate 64 (0 : Byte)).length = 64 ∧
      SMap.get [] (up.cluster 15).feeds 7 = [] :=
  ⟨rfl, rfl, rfl, by decide +kernel⟩

/-- A route that has armed, its governing heads still to be delivered or its run at a place. -/
def joined (j : JoinSt) (lo : Nat) : State :=
  ((up.setCore 127 { CoreSt.reset with joins := [(31, j)] }).setReg (routeBase 127 31) lo).setReg (coreWin 127 + 0x44) (0x60000000 + 0x17FFF)

theorem wit_JoinsAndGusts_joins :
    let sc : Token := token 3 0 (2 ^ 16)
    let h := joined { JoinSt.reset with heads := [sc], armed := some 0, run := 1 } 0
    let d (run : Nat) : JoinSt := { JoinSt.reset with data := [token 0 0 1], ctl := [token 2 0 0], armed := some 0, run := run }
    let f := joined (d 1) (2 * 2 ^ 10)
    let n := f.setReg (coreWin 127 + 0x44) 0
    let u (s : State) := fillWrite s 127 31 (s.getF (routeBase 127 31) STU_ROUTE_INDEX) (token 2 0 0) (token 0 0 1)
      (s.getF (routeBase 127 31) STU_ROUTE_RUN + 1 - 1) 1
    let w := (joined (d 1) (2 * 2 ^ 10)).setF (bnkBase 3 31) BNK_STATE_STATE 2
    Functional h ∧ Functional f ∧ Functional w ∧
    halted h 127 = false ∧ (h.join 127 31).armed.isSome = true ∧ (h.join 127 31).heads = [sc] ∧
      h.getF (routeBase 127 31) STU_ROUTE_DEST = 0 ∧ sc.typ = 3 ∧ scOk sc.payload.toNat = true ∧
    (f.join 127 31).armed = some 0 ∧ f.getF (routeBase 127 31) STU_ROUTE_DEST = 2 ∧ (f.join 127 31).ctl.head? = some (token 2 0 0) ∧
      (token 0 0 1).jseq = 0 ∧
      halted ((u f).setJoin 127 31 { (u f).join 127 31 with data := [], run := 0 }) 127 = false ∧
      halted ((u n).setJoin 127 31 { (u n).join 127 31 with data := [], run := 0 }) 127 = true ∧
      halted (giveEngines (joined (d 1) 0) 127 0 (fun x => x)) 127 = false ∧
    (w.join 127 31).armed = some 0 ∧ (w.join 127 31).heads = [] ∧ (w.join 127 31).data = [token 0 0 1] ∧
      (w.join 127 31).ctl.head? = some (token 2 0 0) ∧ w.getF (routeBase 127 31) STU_ROUTE_DEST = 2 ∧ w.met = none ∧
      fcOFFSET (token 2 0 0).payload.toNat + (w.getF (routeBase 127 31) STU_ROUTE_RUN + 1 - 1) ≤
        w.getF (hqBase 127 (w.getF (routeBase 127 31) STU_ROUTE_INDEX)) STU_HQ_BUF_SIZE ∧
      boundsOk w 127 (bufferBase w 127 (w.getF (routeBase 127 31) STU_ROUTE_INDEX) (eHANDLE (fcENTRY (token 2 0 0).payload.toNat))) 64 true = true ∧
      (asleep w (scratchWin 127) 64).isSome = true ∧
    ((joined { d 1 with data := [{ token 0 0 1 with jseq := 1 }] } 0).join 127 31).data = [{ token 0 0 1 with jseq := 1 }] ∧
      ({ token 0 0 1 with jseq := 1 } : Token).jseq ≠ 0 :=
  ⟨rfl, rfl, rfl, by decide +kernel⟩

/-! ### Lulls and cellars -/

/-- Cores 0 and 1 of a running plan wait on queue 0, which one core each fills, and have waited long. -/
def stuck (src0 src1 : Nat) (h : HqSt) : State :=
  let c (s : State) (c src : Nat) : State :=
    (((progWord s c 0 0x18).setF (coreWin c) SEQ_STATUS_STATE 2).setF (hqBase c 0) STU_HQ_CFG_SRC src).setCore c
      { CoreSt.reset with age := 200, hqs := [(15, h)] }
  c (c (withPlan up (onePlan 3) 3) 0 src0) 1 src1

/-- The plan of slot 0 with its cores one microsecond older. -/
def aged (s : State) : State := (heldCores s 0).foldl (fun t c => t.setCore c { t.core c with age := (t.core c).age + 1 }) s

theorem wit_LullsAndCellars_declared :
    let s := stuck 1 0 HqSt.reset
    let o := stuck 0 2 HqSt.reset
    let v := ((stuck 1 0 { HqSt.reset with entries := [5] }).setF (hqBase 0 15) STU_HQ_CFG_SPILL 1).setF (hqBase 0 15)
      STU_HQ_CEL_HI_CAP 2
    let n := withPlan up (onePlan 3) 3
    Functional s ∧ Functional o ∧ Functional v ∧ Functional n ∧
    s.getF (lulBase 0) LUL_CTRL_EN ≠ 0 ∧ planState (aged s) 0 = 3 ∧ heldByDie (aged s) 0 = false ∧
      injectedCycles (aged s) 0 = ([], aged s) ∧ cycles (aged s) 0 = [[0, 1]] ∧ victim (aged s) [0, 1] = none ∧
    injectedCycles (aged o) 0 = ([], aged o) ∧ cycles (aged o) 0 = [[0]] ∧
    injectedCycles (aged v) 0 = ([], aged v) ∧ cycles (aged v) 0 = [[0, 1]] ∧ victim (aged v) [0, 1] = some (0, 15) ∧
    injectedCycles (aged n) 0 = ([], aged n) ∧ cycles (aged n) 0 = [] ∧ planState (aged n) 0 = 3 ∧ planState up 7 < 3 :=
  ⟨rfl, rfl, rfl, rfl, by decide +kernel⟩

/-- Cores 0 and 1 wait on each other, and 2 and 3. -/
def stuckTwice (h : HqSt) : State :=
  let c (s : State) (c src : Nat) : State :=
    (((progWord s c 0 0x18).setF (coreWin c) SEQ_STATUS_STATE 2).setF (hqBase c 0) STU_HQ_CFG_SRC src).setCore c
      { CoreSt.reset with age := 200, hqs := [(15, h)] }
  c (c (c (c (withPlan up (onePlan 15) 3) 0 1) 1 0) 2 3) 3 2

theorem wit_LullsAndCellars_pairs :
    let s := stuckTwice HqSt.reset
    let v := ((stuckTwice { HqSt.reset with entries := [5] }).setF (hqBase 0 15) STU_HQ_CFG_SPILL 1).setF (hqBase 0 15)
      STU_HQ_CEL_HI_CAP 2
    Functional s ∧ Functional v ∧
    s.getF (lulBase 0) LUL_CTRL_EN ≠ 0 ∧ planState (aged s) 0 = 3 ∧ heldByDie (aged s) 0 = false ∧
      injectedCycles (aged s) 0 = ([], aged s) ∧ cycles (aged s) 0 = [[0, 1], [2, 3]] ∧
      planState (declareLull (aged s) 0 [0, 1]) 0 = 6 ∧
    injectedCycles (aged v) 0 = ([], aged v) ∧ cycles (aged v) 0 = [[0, 1], [2, 3]] ∧
      planState (declareLull (aged v) 0 [0, 1]) 0 ≠ 6 :=
  ⟨rfl, rfl, by decide +kernel⟩

/-- A transfer waits at the lull channel of cluster 0, for queue 15 of core 0. -/
def transfer (h : HqSt) (k : Option (BitVec 64)) (n : Nat) : State :=
  (((stuck 1 0 h).setCluster 0 { ClusterSt.reset with lull := [(0, 15, k, n)] }).setF (hqBase 0 15) STU_HQ_CEL_HI_CAP 4).setF
    (hqBase 0 15) STU_HQ_RANGE_COUNT 64

/-- The same with all bursts of the transfer done. -/
def transferred (h : HqSt) (k : Option (BitVec 64)) (n : Nat) : State :=
  let s := transfer h k n
  s.setCluster 0 { s.cluster 0 with lullDone := 100 }

/-- The scratch of core 0 in retention. -/
def dozing (s : State) : State := s.setF (bnkBase 0 0) BNK_STATE_STATE 2

/-- The spill of the entry 5 into the cellar of queue 15 of core 0. -/
def spillOf (s : State) : Bool × State :=
  [5].foldl (fun (st : Bool × State) e => if st.1 then celWrite st.2 0 15 e else st) (true, s)

/-- A spill in hand at the head of the lull channel, its bursts done; the same with its cellar outside memory. -/
def spillReady : State := transferred { HqSt.reset with entries := [5] } none 1
def spillLost : State := spillReady.setF (hqBase 0 15) STU_HQ_CEL_HI_BASE 0x3C000

set_option synthInstance.maxSize 1000 in
theorem wit_LullsAndCellars_spills :
    let w := transfer { HqSt.reset with entries := [5] } none 1
    Functional spillReady ∧ Functional w ∧ Functional (dozing spillReady) ∧ Functional spillLost ∧
    lullHead spillReady 0 = some (0, 15, none, 1) ∧ lullMoved spillReady 0 = true ∧
      (spillOf spillReady).1 = true ∧
    lullHead w 0 = some (0, 15, none, 1) ∧ lullMoved w 0 = false ∧
    lullHead (dozing spillReady) 0 = some (0, 15, none, 1) ∧ lullMoved (dozing spillReady) 0 = true ∧
      (spillOf (dozing spillReady)).2.met.isSome = true ∧
    lullHead spillLost 0 = some (0, 15, none, 1) ∧ lullMoved spillLost 0 = true ∧
      (spillOf spillLost).1 = false :=
  ⟨rfl, rfl, rfl, rfl, by decide +kernel⟩

set_option synthInstance.maxSize 1000 in
theorem wit_LullsAndCellars_rotations :
    let s (e : BitVec 64) := transferred { HqSt.reset with celCount := 1 } (some e) 0
    let w := transfer { HqSt.reset with celCount := 1 } (some 5) 0
    let b := (s 5).setF (hqBase 0 15) STU_HQ_CEL_HI_BASE 0x3C000
    Functional (s 5) ∧ Functional (s 0x1000000) ∧ Functional w ∧ Functional b ∧
    lullHead (s 5) 0 = some (0, 15, some 5, 0) ∧ lullMoved (s 5) 0 = true ∧ (celWrite (s 5) 0 15 5).1 = true ∧
      eEOF (5 : BitVec 64).toNat = false ∧ lullHead (s 0x1000000) 0 = some (0, 15, some 0x1000000, 0) ∧
      (celWrite (s 0x1000000) 0 15 0x1000000).1 = true ∧ eEOF (0x1000000 : BitVec 64).toNat = true ∧
    lullHead w 0 = some (0, 15, some 5, 0) ∧ lullMoved w 0 = false ∧ (celWrite (dozing (s 5)) 0 15 5).2.met.isSome = true ∧
      lullMoved (dozing (s 5)) 0 = true ∧ lullMoved b 0 = true ∧ (celWrite b 0 15 5).1 = false :=
  ⟨rfl, rfl, rfl, rfl, by decide +kernel⟩

set_option synthInstance.maxSize 1000 in
theorem wit_LullsAndCellars_refills :
    let f := transferred HqSt.reset (some 5) 1
    let g := transferred { HqSt.reset with celCount := 1 } (some 5) 1
    let w := transfer { HqSt.reset with celCount := 1 } (some 5) 1
    let h := g.setF (hqBase 0 15) STU_HQ_RANGE_COUNT 0
    let b := g.setF (hqBase 0 15) STU_HQ_CEL_HI_BASE 0x3C000
    Functional f ∧ Functional g ∧ Functional w ∧ Functional b ∧
    lullHead f 0 = some (0, 15, some 5, 1) ∧ lullMoved f 0 = true ∧ (f.hq 0 15).celCount = 0 ∧
    lullHead w 0 = some (0, 15, some 5, 1) ∧ lullMoved w 0 = false ∧ lullMoved (dozing f) 0 = true ∧
    lullHead g 0 = some (0, 15, some 5, 1) ∧ lullMoved g 0 = true ∧ (g.hq 0 15).celCount ≠ 0 ∧ (celRead g 0 15).1.isSome = true ∧
      (bufAddr (celRead g 0 15).2 0 15 5).isSome = true ∧ (celRead h 0 15).1.isSome = true ∧
      bufAddr (celRead h 0 15).2 0 15 5 = none ∧ (celRead b 0 15).1 = none :=
  ⟨rfl, rfl, rfl, rfl, by decide +kernel⟩

/-! ### The relation unit -/

/-- A relation operation of core 127 held by the unit of cluster 15. -/
def held127 (word : Nat) (block : Bytes) (issued : Nat) (outst : List Nat) : RluOp :=
  ⟨127, 0, BitVec.ofNat 128 word, block, 0, 0, false, 0, 0, issued, 0, outst, [], [], 0, [0, 0, 0, 0], [], [], [], [], 0, false⟩

/-- The unit of cluster 15 with some operations, SAG_AUX (SAG 1) and SAG_A (SAG 0) of core 127 having delivered bytes. -/
def inUnit (l : List RluOp) (dlv : Bytes) : State :=
  (((up.setSag 127 1 { SagSt.reset with dlv := dlv }).setSag 127 0 { SagSt.reset with dlv := dlv }).setReg (coreWin 127 + 0x44)
    (0x60000000 + 0x17FFF)).setCluster 15 { ClusterSt.reset with rops := l }

/-- The scratch of core 127 in retention. -/
def dozing127 (s : State) : State := s.setF (bnkBase 3 31) BNK_STATE_STATE 2

theorem wit_RelationUnitWorks_accept :
    let s := up.setCluster 15 { ClusterSt.reset with rluq := [(127, BitVec.ofNat 128 9, natToBytes 64 0, 5)] }
    let f := up.setCluster 15 { ClusterSt.reset with rluq := [(127, BitVec.ofNat 128 9, natToBytes 64 0, 5)],
                                                     rops := List.replicate 8 (held127 9 (natToBytes 64 0) 0 []) }
    let h := s.setF (coreWin 127) SEQ_STATUS_STATE 3
    Functional s ∧ Functional f ∧ Functional h ∧
    (up.cluster 15).rluq = [] ∧ (s.cluster 15).rluq = (127, BitVec.ofNat 128 9, natToBytes 64 0, 5) :: [] ∧ halted s 127 = false ∧
      (s.cluster 15).rops.length < 8 ∧ rWIN (bytesToNat (natToBytes 64 0)) ≤ freeSlots s 15 ∧ 8 ≤ (f.cluster 15).rops.length ∧
      halted h 127 = true ∧ freeSlots (inUnit [held127 9 (natToBytes 64 (511 * 16)) 0 []] []) 15 = 0 :=
  ⟨rfl, rfl, rfl, by decide +kernel⟩

/-- A GATHER ROWS word over SAG_AUX 1, and its block: two indices into a table of one row of so many bytes. -/
def rowsWord : Nat := 9 + 2 ^ 16 * 2 + 2 ^ 24 * 2 + 2 ^ 44
def rowsBlock (len : Nat) : Bytes := natToBytes 64 (2 ^ 128 * (scratchWin 127 + 2 ^ 48 * 2 + 2 ^ 96 * (len - 1)) + 2 ^ 256)

theorem wit_RelationUnitWorks_issue :
    let one := held127 rowsWord (rowsBlock 1) 0 []
    let two := held127 rowsWord (rowsBlock 128) 0 []
    let more := { one with hs := 2 }
    let top := held127 (0xC + 2 ^ 16 * 2) (natToBytes 64 0) 0 []
    let s (r : RluOp) (id : Bytes) := inUnit [r] (id ++ [0, 0, 0, 0])
    Functional (s one [0, 0, 0, 0]) ∧ Functional (dozing127 (s one [0, 0, 0, 0])) ∧
    (∀ r ∈ [one, two, more], ∀ id ∈ [[0, 0, 0, 0], [1, 0, 0, 0], [0xFF, 0xFF, 0xFF, 0xFF]],
      ((s r id).cluster 15).rops = [r] ∧ canIssue (s r id) r = true ∧ r.opc = 9 ∧ rSUB r.b = 0 ∧
      relStream (s r id) r (wSAGAUX r.w) (4 * r.issued) 4 = some id) ∧
    (rTAB one.b).noRow 0 = false ∧ (rTAB one.b).words ≤ 1 ∧ (rTAB one.b).noRow 0xFFFFFFFF = true ∧ 0xFFFFFFFF = nullIndex ∧
      (1 ≠ nullIndex) ∧ (rTAB one.b).nrows ≤ 1 ∧ 1 < more.hs ∧ (rTAB two.b).noRow 0 = false ∧ 1 < (rTAB two.b).words ∧
    canIssue (s top [7]) top = true ∧ top.opc ≠ 9 ∧ top.opc ≠ 0xA ∧
    (∀ r ∈ ((inUnit [held127 rowsWord (rowsBlock 1) 2 []] []).cluster 15).rops,
      canIssue (inUnit [held127 rowsWord (rowsBlock 1) 2 []] []) r = false) :=
  ⟨rfl, rfl, by decide +kernel⟩

/-- A GATHER NBR of one node with two neighbours, of which so many have been fetched. -/
def neighbours (hs nbr : Nat) (outst : List Nat) : RluOp :=
  { held127 rowsWord (natToBytes 192 (1 + 2 ^ 4 + 2 ^ 128 * (scratchWin 127 + 2 ^ 48 * 2) + 2 ^ 256)) 0 outst with
    hs := hs, nbr := nbr, nodes := [(0, (0, 2, false))], ids := [(0, 0), (1, 0)] }

theorem wit_RelationUnitWorks_neighbours :
    let s (r : RluOp) := inUnit [r] ([1] ++ List.replicate 67 0)
    Functional (s (neighbours 1 0 [])) ∧
    (∀ r ∈ [neighbours 1 0 [], neighbours 1 1 [0], neighbours 2 0 []], ((s r).cluster 15).rops = [r] ∧ canIssue (s r) r = true ∧
      r.opc = 9 ∧ rSUB r.b = 1 ∧ SMap.find r.nodes r.issued = some (0, 2, false) ∧ (r.hs = 1 ∨ 1 < r.hs) ∧
      (rTAB r.b).noRow (SMap.get nullIndex r.ids (256 * r.issued + r.nbr)) = false) ∧
    ¬ 2 ≤ (neighbours 1 0 []).nbr + 1 ∧ 2 ≤ (neighbours 1 1 [0]).nbr + 1 ∧
    (neighbours 0 1 [0]).outst[0]? = some 0 ∧ SMap.get nullIndex (neighbours 0 1 [0]).ids 0 = 0 ∧ (neighbours 0 1 [0]).issued ≤ 0 / 256 ∧
      (relRead ((s (neighbours 0 1 [0])).setRop 15 { neighbours 0 1 [0] with outst := [] }) { neighbours 0 1 [0] with outst := [] }
        ((rTAB (neighbours 0 1 [0]).b).base + 0) (rTAB (neighbours 0 1 [0]).b).rowBytes).1.isSome = true :=
  ⟨rfl, by decide +kernel⟩

/-- The turn of the round robin: operation 1 of two that can both go on, the one at place 0 having had the last. -/
theorem wit_RelationUnitWorks_turn :
    let r := held127 rowsWord (rowsBlock 1) 0 []
    let f := { held127 rowsWord (rowsBlock 1) 2 [] with num := 1 }
    let s := (inUnit [r, { r with num := 1 }] [0, 0, 0, 0, 0, 0, 0, 0])
    let t := s.setCluster 15 { s.cluster 15 with rr := 1 }
    let u := (inUnit [f, { r with num := 2 }] [0, 0, 0, 0, 0, 0, 0, 0])
    Functional t ∧ Functional u ∧ (t.cluster 15).rops[1]? = some { r with num := 1 } ∧ canIssue t { r with num := 1 } = true ∧
      1 = ((t.cluster 15).rr + 0) % 2 ∧
    (u.cluster 15).rops[1]? = some { r with num := 2 } ∧ canIssue u { r with num := 2 } = true ∧ 1 = ((u.cluster 15).rr + 1) % 2 ∧
      (u.cluster 15).rops[((u.cluster 15).rr + 0) % 2]? = some f ∧ canIssue u f = false :=
  ⟨rfl, rfl, by decide +kernel⟩

theorem wit_RelationUnitWorks_return :
    let q := held127 rowsWord (rowsBlock 1) 1 [0]
    let x := held127 rowsWord (natToBytes 64 (2 ^ 128 * (0x700000000000 + 2 ^ 48 * 2) + 2 ^ 256)) 1 [0]
    let a := held127 (0xA + 2 ^ 16 * 2 + 2 ^ 44) (rowsBlock 1) 1 [0]
    let t (r : RluOp) := inUnit [r] [0, 0, 0, 0]
    let read (r : RluOp) := (relRead ((t r).setRop 15 { r with outst := [] }) { r with outst := [] } ((rTAB r.b).base + 0)
      (rTAB r.b).rowBytes).1
    Functional (t q) ∧ Functional (t x) ∧ Functional (t a) ∧ Functional (dozing127 (t q)) ∧
    (∀ r ∈ [q, x, a], ((t r).cluster 15).rops[0]? = some r ∧ halted (t r) r.core = false ∧ r.outst[0]? = some 0 ∧
      relStream (t r) r (wSAGAUX r.w) (4 * 0) 4 = some [0, 0, 0, 0]) ∧
    q.opc = 9 ∧ rSUB q.b = 0 ∧ (read q).isSome = true ∧ (read x) = none ∧ a.opc = 0xA ∧ (read a).isSome = true ∧ q.outst[1]? = none ∧
      (let u := (dozing127 (t q)).setRop 15 { q with outst := [] }
       (relRead u { q with outst := [] } ((rTAB q.b).base + 0) (rTAB q.b).rowBytes).2.met.isSome = true) :=
  ⟨rfl, rfl, rfl, rfl, by decide +kernel⟩

theorem wit_RelationUnitWorks_lane :
    let n := held127 rowsWord (natToBytes 192 1) 0 []
    let l : RluOp := { held127 rowsWord (natToBytes 192 (1 + 2 ^ 288 * 0x700000000000 + 2 ^ 512 * 5)) 0 [] with lane := [⟨0, 0, 1⟩] }
    let s (r : RluOp) := inUnit [r] (List.replicate 64 0)
    let i (s : State) := (s.setF (injBase 0x0F) TXU_INJ_COUNT 1).setF (injBase 0x0F) TXU_INJ_TARGET 15
    Functional (s n) ∧ Functional (s l) ∧ Functional (i (s n)) ∧
    (∀ r ∈ [n, l], ((s r).cluster 15).rops[0]? = some r ∧ halted (s r) r.core = false ∧ r.opc = 9 ∧ rSUB r.b = 1 ∧ r.laneDone = false ∧
      mainDone (s r) r = true ∧ (injected (s r) 0x0F 15).1 = false) ∧
    (injected (i (s n)) 0x0F 15).1 = true ∧ mainDone (i (s n)) n = true ∧
    (n.lane.foldl (laneEntry 15 n) ((s n), nbBUDGET n.b, decide (0 < nbBUDGET n.b))).1 = s n ∧
    halted (l.lane.foldl (laneEntry 15 l) ((injected (s l) 0x0F 15).2, nbBUDGET l.b, decide (0 < nbBUDGET l.b))).1 127 = true :=
  ⟨rfl, rfl, rfl, by decide +kernel⟩

theorem wit_RelationUnitWorks_end :
    let t : RluOp := { held127 (0xC + 2 ^ 16 * 2) (natToBytes 64 0) 0 [] with hs := 2 }
    let m : RluOp := { t with block := natToBytes 64 (2 ^ 13 + 2 ^ 64 * 0x3FFFF), valid := true, slot := 127 }
    let n : RluOp := { held127 rowsWord (natToBytes 192 (1 + 2 ^ 466)) 1 [] with excess := 1 }
    let u (r : RluOp) := inUnit [r] ([1, 0, 0, 0] ++ List.replicate 64 0)
    let d (s : State) := s.setReg (coreWin 127 + 0x44) 0
    let ro (s : State) := s.setReg (coreWin 127 + 0x44) (0x20000000 + 0x17FFF)
    let c (s : State) (r : RluOp) := relCompute s 15 r
    let y (s : State) (r : RluOp) := relHistory (c s r) (ropNow (c s r) 15 r)
    let z (s : State) (r : RluOp) := nbExcess (y s r) 15 (ropNow (c s r) 15 r)
    Functional (u t) ∧ Functional (d (u t)) ∧ Functional (u m) ∧ Functional (ro (u n)) ∧ Functional (dozing127 (u t)) ∧
    (∀ r ∈ [t, m, n], ((u r).cluster 15).rops[0]? = some r ∧ halted (u r) r.core = false ∧ relReady (u r) r = true) ∧
    halted (c (u t) t) 127 = false ∧ halted (y (u t) t) 127 = false ∧ halted (z (u t) t) 127 = false ∧
    relReady (d (u t)) t = true ∧ halted (c (d (u t)) t) 127 = true ∧
    halted (c (u m) m) 127 = false ∧ halted (y (u m) m) 127 = true ∧
    relReady (ro (u n)) n = true ∧ halted (c (ro (u n)) n) 127 = false ∧ halted (y (ro (u n)) n) 127 = false ∧
      halted (z (ro (u n)) n) 127 = true ∧
    relReady (dozing127 (u t)) t = true ∧ (c (dozing127 (u t)) t).met.isSome = true ∧
    relReady (inUnit [{ t with hs := 0 }] [7]) { t with hs := 0 } = false :=
  ⟨rfl, rfl, rfl, rfl, rfl, by decide +kernel⟩

/-! ### Movers -/

/-- Channel 31 of the hub mover stands at slot 0 of a program. -/
def channel (st : Nat) (x : MvrSt) (prog : List Nat) : State :=
  (up.setF (mvrBase 16 31) MVR_STATUS_STATE st).setMvr 16 31 { x with prog := prog.map (BitVec.ofNat 128) }

theorem wit_ChannelsArmed :
    let l := up.setCluster 15 { ClusterSt.reset with lull := [(127, 0, none, 1)] }
    let c := channel 2 MvrSt.reset [5]
    let d := channel 2 { MvrSt.reset with next := some (0, 1) } [5]
    let p := channel 2 { MvrSt.reset with cfg := 0xE0 } [5]
    let e := channel 2 MvrSt.reset [21]
    let w := channel 2 { MvrSt.reset with post := [(0x3000, [1])] } [5]
    Functional l ∧ Functional c ∧ Functional d ∧ Functional p ∧ Functional e ∧
    mvrExists 15 16 = false ∧ mvrExists 15 15 = true ∧ mvrExists 16 31 = true ∧ (l.cluster 15).lull ≠ [] ∧
      mvrState up 16 31 = 0 ∧ mvrState (channel 4 MvrSt.reset [5]) 16 31 = 4 ∧ mvrState c 16 31 = 2 ∧
      (c.mvr 16 31).next = none ∧ (d.mvr 16 31).next.isSome = true ∧ mvrState d 16 31 = 2 ∧ mvrPLAN c 16 31 = 15 ∧
      mvrPLAN p 16 31 = 7 ∧ mvrAtOp c 16 31 5 = true ∧ mvrWord c 16 31 / 16 = 0 ∧ mvrAtOp d 16 31 5 = true ∧
      ((mvrPulse d 16 31).mvr 16 31).next = some (0, 1) ∧ ((mvrPulse c 16 31).mvr 16 31).next = none ∧
      mvrAtOp e 16 31 5 = true ∧ mvrWord e 16 31 / 16 ≠ 0 ∧ (c.mvr 16 31).post = [] ∧
      mvrAtOp w 16 31 5 = true ∧ mvrWord w 16 31 / 16 = 0 ∧ (w.mvr 16 31).post ≠ [] :=
  ⟨rfl, rfl, rfl, rfl, rfl, by decide +kernel⟩

/-- A MOVE of one unit with BAR in LPDDR4X, from 0x1000 to a destination. -/
def moveTo (dst : Nat) : Nat := 1 + 2 ^ 6 + 2 ^ 32 * 0x1000 + 2 ^ 80 * dst

/-- The source and the destination of a burst of 64 bytes of channel 31: whether both answer, and the channel stands as before. -/
def bursts (s : State) (src dst : Nat) : Bool :=
  match mvrRead s 16 src 64 with
  | (.ok d _, t) => (match mvrWrite t 16 dst (swapBytes 0 d) none with
    | (.ok _ _, v) => decide (v.mvr 16 31 = s.mvr 16 31)
    | _ => false)
  | _ => false

/-- A state with its mover's turn noted. -/
def turned (s : State) : State := { s with mvrLast := s.mvrLast.put 16 31 }

theorem wit_BurstsMoveData :
    let s := channel 2 { MvrSt.reset with moving := true } [moveTo 0x2040, 5]
    let m := channel 2 { MvrSt.reset with moving := true } [moveTo 0x2040 + 2 ^ 17, 5]
    let d := channel 2 { MvrSt.reset with moving := true } [moveTo 0x2040 + 6, 1 + 2 ^ 64 * 64 + 2 ^ 96 * 64, 5]
    let e := channel 2 { MvrSt.reset with moving := true, row := 1 } [moveTo 0x2040 + 6, 1 + 2 ^ 64 * 64 + 2 ^ 96 * 64, 5]
    Functional up ∧ Functional s ∧ Functional m ∧ Functional d ∧ Functional e ∧
    landAll up 16 = up ∧ mvrPick up 16 = none ∧
    landAll s 16 = s ∧ mvrPick s 16 = some 31 ∧ (injected (turned s) 0x09 (0x200 + 31)).1 = false ∧ mvrState s 16 31 = 2 ∧
      mvrRoom (turned s) 0x2040 64 = true ∧ asleep (turned s) 0x2040 64 = none ∧ mvBAR (mvrWord s 16 31) = true ∧
      mvOP (mvrWord s 16 31) = 1 ∧ bursts (turned s) 0x1000 0x2040 = true ∧
    landAll m 16 = m ∧ mvrPick m 16 = some 31 ∧ bursts (turned m) 0x1000 0x2040 = true ∧ mvUNITS (mvrWord m 16 31) = 2 ∧
    landAll d 16 = d ∧ mvrPick d 16 = some 31 ∧ bursts (turned d) 0x1000 0x2040 = true ∧ mvrRows (turned d) 16 31 = 2 ∧
    landAll e 16 = e ∧ mvrPick e 16 = some 31 ∧ bursts (turned e) 0x1040 0x2080 = true ∧ mvOP (mvrWord e 16 31) = 7 :=
  ⟨rfl, rfl, rfl, rfl, rfl, by decide +kernel⟩

theorem wit_BurstsMoveData_writes :
    let k (dst : Nat) := channel 2 { MvrSt.reset with moving := true } [moveTo dst, 5]
    let full (s : State) := s.setCluster 15 { ClusterSt.reset with feeds := SMap.put [] 0 (List.replicate 16 0) }
    let win := clusterWin 15 + 0x10000
    let p := (k 0x2040).setMvr 16 31 { (k 0x2040).mvr 16 31 with post := [(0x3000, [1])] }
    let z := (k (scratchWin 127)).setF (bnkBase 3 31) BNK_STATE_STATE 2
    Functional (full (k win)) ∧ Functional z ∧ Functional (k 0x880000000000) ∧ Functional (k (scratchWin 127)) ∧ Functional p ∧
    (landAll p 16).byteAt 0x3000 = 1 ∧ mvrPick (landAll p 16) 16 = some 31 ∧
    mvrPick (full (k win)) 16 = some 31 ∧ feedWindow win = some (15, 0, 0) ∧ mvrRoom (turned (full (k win))) win 64 = false ∧
      mvrRoom (turned (k win)) win 64 = true ∧
    mvrPick z 16 = some 31 ∧ (asleep (turned z) (scratchWin 127) 64).isSome = true ∧
    asleep (turned (k 0x880000000000)) 0x880000000000 64 = none ∧
      (match mvrWrite (turned (k 0x880000000000)) 16 0x880000000000 (natToBytes 64 5) none with | (.bus _, _) => true | _ => false) = true ∧
    asleep (turned (k (scratchWin 127))) (scratchWin 127) 64 = none ∧
      (match mvrWrite (turned (k (scratchWin 127))) 16 (scratchWin 127) (natToBytes 64 5) none with | (.bounds _ _, _) => true | _ => false) = true ∧
      (match mvrWrite (turned (k 0x2040)) 16 0x2040 (natToBytes 64 5) (some 31) with
        | (.ok _ _, v) => decide ((v.mvr 16 31).post = [(0x2040, natToBytes 64 5)])
        | _ => false) = true :=
  ⟨rfl, rfl, rfl, rfl, rfl, by decide +kernel⟩

theorem wit_BurstsMoveData_loads :
    let k (a n tries : Nat) := channel 1 { MvrSt.reset with loadAddr := a, loadLeft := n, cfg := 4 + 0x100, tries := tries } []
    let rd (s : State) (a n : Nat) := mvrRead (turned s) 16 a n
    let ok (s : State) (a n : Nat) : Bool := match rd s a n with | (.ok _ _, t) => decide (t.mvr 16 31 = s.mvr 16 31) | _ => false
    let bus (s : State) (a n : Nat) : Bool := match rd s a n with | (.bus _, t) => decide (t.mvr 16 31 = s.mvr 16 31) | _ => false
    let z := (k (scratchWin 127) 64 0).setF (bnkBase 3 31) BNK_STATE_STATE 2
    let i := ((k 0x1000 64 0).setF (injBase 9) TXU_INJ_COUNT 1).setF (injBase 9) TXU_INJ_TARGET (0x200 + 31)
    Functional (k 0x1000 512 0) ∧ Functional (k 0xF00000000 16 1) ∧ Functional (k (scratchWin 127) 64 0) ∧ Functional z ∧ Functional i ∧
    mvrPick (k 0x1000 512 0) 16 = some 31 ∧ mvrState (k 0x1000 512 0) 16 31 = 1 ∧ ok (k 0x1000 512 0) 0x1000 256 = true ∧
      ok (k 0x1000 256 0) 0x1000 256 = true ∧ landAll (k 0x1000 512 0) 16 = k 0x1000 512 0 ∧
    bus (k 0xF00000000 16 0) 0xF00000000 16 = true ∧ mvrRETRY (turned (k 0xF00000000 16 0)) 16 31 = 1 ∧
      bus (k 0xF00000000 16 1) 0xF00000000 16 = true ∧
    (match rd (k (scratchWin 127) 64 0) (scratchWin 127) 64 with | (.bounds _ _, _) => true | _ => false) = true ∧
    (match rd z (scratchWin 127) 64 with | (.wait, _) => true | _ => false) = true ∧
    mvrPick i 16 = some 31 ∧ (injected (turned i) 0x09 (0x200 + 31)).1 = true :=
  ⟨rfl, rfl, rfl, rfl, rfl, by decide +kernel⟩

/-- The repeat of a burst whose write failed, with the 64 bytes it had read. -/
theorem wit_BurstsMoveData_repeats :
    let k (a : Bool) (n : Nat) := channel 2 { MvrSt.reset with moving := true, kept := some (natToBytes 64 5), again := a, tries := n, cfg := 0x104 }
      [moveTo 0x2040, 5]
    Functional (k true 0) ∧ mvrPick (k true 0) 16 = some 31 ∧ ((k true 0).mvr 16 31).again = true ∧ ((k false 0).mvr 16 31).again = false ∧
      ((k true 0).mvr 16 31).kept = some (natToBytes 64 5) ∧ mvrRoom (turned (k true 0)) 0x2040 64 = true ∧
      asleep (turned (k true 0)) 0x2040 64 = none ∧
      (match mvrWrite (turned (k true 0)) 16 0x2040 (swapBytes 0 (natToBytes 64 5)) none with | (.ok _ _, _) => true | _ => false) = true ∧
      ((k true 0).mvr 16 31).tries < mvrRETRY (k true 0) 16 31 ∧ mvrRETRY (k true 4) 16 31 ≤ ((k true 4).mvr 16 31).tries :=
  ⟨rfl, by decide +kernel⟩

theorem wit_BurstsMoveData_lull :
    let s := transfer { HqSt.reset with entries := [5] } none 1
    Functional s ∧ landAll s 0 = s ∧ mvrPick s 0 = some 15 ∧ lullReady s 0 = true ∧
      (injected { s with mvrLast := s.mvrLast.put 0 15 } 0x09 (0 * 32 + 15)).1 = false :=
  ⟨rfl, by decide +kernel⟩

/-- A word at which channel 31 of the hub mover stands. -/
def atSlot (w : Nat) : State := channel 2 MvrSt.reset [w, 5]

theorem wit_ChannelInstructions_loops :
    let o (l : Option (Nat × Nat)) (w : Nat) := channel 2 { MvrSt.reset with loop := l } [w, 5]
    Functional (atSlot 0) ∧ Functional (atSlot 16) ∧ Functional (o (some (0, 1)) (2 + 2 ^ 16)) ∧
    mvrAtOp (atSlot 0) 16 31 0 = true ∧ mvrWord (atSlot 0) 16 31 / 16 = 0 ∧ mvrWord (atSlot 16) 16 31 / 16 ≠ 0 ∧
    mvrAtOp (atSlot (2 + 2 ^ 16)) 16 31 2 = true ∧
    bits (mvrWord (atSlot (2 + 2 ^ 10)) 16 31) 10 6 ≠ 0 ∧ bits (mvrWord (atSlot (2 + 2 ^ 40)) 16 31) 40 24 ≠ 0 ∧
      bits (mvrWord (atSlot (2 + 2 ^ 64)) 16 31) 64 32 % 64 ≠ 0 ∧ bits (mvrWord (atSlot (2 + 2 ^ 96)) 16 31) 96 32 % 64 ≠ 0 ∧
    mvrLen (atSlot 2) 16 31 ≤ bits (mvrWord (atSlot (2 + 2 ^ 4 * 2)) 16 31) 4 6 ∧
      bits (mvrWord (atSlot (2 + 2 ^ 4)) 16 31) 4 6 < mvrLen (atSlot 2) 16 31 ∧
    mvrPC (o (some (1, 1)) 2) 16 31 ≠ 1 ∧ bits (mvrWord (atSlot (2 + 2 ^ 16)) 16 31) 16 24 = 0 + 1 ∧
      bits (mvrWord (atSlot (2 + 2 ^ 16 * 0xFFFFFF)) 16 31) 16 24 = 0xFFFFFE + 1 ∧ 0xFFFFFE < 2 ^ 24 ∧
      ((o (some (0, 1)) 2).mvr 16 31).loop = some (mvrPC (o (some (0, 1)) 2) 16 31, 1) ∧
      bits (mvrWord (atSlot 2) 16 31) 16 24 = 0 ∧
    mvrAtOp (atSlot 6) 16 31 6 = true ∧ mvrAtOp (atSlot 8) 16 31 8 = true ∧ mvrAtOp (atSlot 15) 16 31 15 = true :=
  ⟨rfl, rfl, rfl, by decide +kernel⟩

theorem wit_ChannelInstructions_lines :
    let p := (atSlot 3).setF (mvrBase 16 31) MVR_EVT_PEND 1
    Functional (atSlot 3) ∧ Functional p ∧ Functional (atSlot 4) ∧
    mvrAtOp (atSlot 3) 16 31 3 = true ∧ bits (mvrWord (atSlot 3) 16 31) 4 2 = 0 ∧ mvrWord (atSlot 3) 16 31 / 2 ^ 18 = 0 ∧
      bits (mvrWord (atSlot (3 + 2 ^ 5)) 16 31) 4 2 = 2 ∧ mvrWord (atSlot (3 + 2 ^ 18)) 16 31 / 2 ^ 18 ≠ 0 ∧
      bit ((atSlot 3).getF (mvrBase 16 31) MVR_EVT_PEND) 0 = false ∧ mvrAtOp p 16 31 3 = true ∧
      bit (p.getF (mvrBase 16 31) MVR_EVT_PEND) 0 = true ∧ bits (mvrWord (atSlot (3 + 2 ^ 4)) 16 31) 4 2 = 1 ∧
    mvrAtOp (atSlot 4) 16 31 4 = true ∧ bits (mvrWord (atSlot 4) 16 31) 4 2 = 0 ∧ mvrWord (atSlot 4) 16 31 / 2 ^ 18 = 0 ∧
      bits (mvrWord (atSlot (4 + 2 ^ 4 * 3)) 16 31) 4 2 = 3 ∧ mvrWord (atSlot (4 + 2 ^ 18)) 16 31 / 2 ^ 18 ≠ 0 ∧
      bits (mvrWord (atSlot (4 + 2 ^ 4)) 16 31) 4 2 = 1 :=
  ⟨rfl, rfl, rfl, by decide +kernel⟩

theorem wit_ChannelInstructions_queues :
    let c (x : MvrSt) (p : Nat) : State := (up.setF (mvrBase 15 0) MVR_STATUS_STATE 2).setMvr 15 0 { x with prog := [BitVec.ofNat 128 p] }
    let w := c MvrSt.reset (3 + 2 ^ 4 + 2 ^ 11 * 7)
    let q := w.setHq 127 0 { HqSt.reset with entries := [5] }
    let x := { MvrSt.reset with held := some (0x50000, 127, 0) }
    let g (m : Nat) := (c x (4 + 2 ^ 4 * m + 2 ^ 11 * 7)).setReg (hqBase 127 0) 1
    let h (m : Nat) := (g m).setReg (hqBase 127 0 + 4) (2 ^ 16)
    Functional w ∧ Functional q ∧ Functional (h 1) ∧ Functional (g 2) ∧
    mvrAtOp w 15 0 3 = true ∧ bits (mvrWord w 15 0) 4 2 = 1 ∧ mvrWord w 15 0 / 2 ^ 18 = 0 ∧ (w.mvr 15 0).held = none ∧
      (w.hq 127 0).entries = [] ∧ (q.hq 127 0).entries = 5 :: [] ∧ bits (mvrWord w 15 0) 11 3 = 7 ∧ bits (mvrWord w 15 0) 14 4 = 0 ∧
      ((c x 3).mvr 15 0).held.isSome = true ∧
    mvrAtOp (h 1) 15 0 4 = true ∧ bits (mvrWord (h 1) 15 0) 4 2 = 1 ∧ bits (mvrWord (h 2) 15 0) 4 2 = 2 ∧
      mvrWord (h 2) 15 0 / 2 ^ 18 = 0 ∧ ((h 1).mvr 15 0).held = some (0x50000, 127, 0) ∧ (w.mvr 15 0).held = none ∧
      pushRefused (h 1) (8 * 15 + 7) 0 (0x50000 : BitVec 64).toNat = false ∧ eHANDLE (0x50000 : BitVec 64).toNat = 0 ∧
      pushRefused (h 2) (8 * 15 + 7) 0 0 = false ∧ pushRefused (g 2) (8 * 15 + 7) 0 0 = true :=
  ⟨rfl, rfl, rfl, rfl, by decide +kernel⟩

theorem wit_ChannelInstructions_moves :
    let m := atSlot (moveTo 0x2040)
    let rel := moveTo 0x2040 + 2 ^ 8
    let hold (e : BitVec 64) (w w2 : Nat) := channel 2 { MvrSt.reset with held := some (e, 0, 0) } [w, w2]
    let f (w : Nat) := mvrFits (mvrDst (atSlot w) 16 31 0) 64
    Functional m ∧ Functional (hold 0x1000000 rel 5) ∧
    mvrAtOp m 16 31 1 = true ∧ mvSREL (mvrWord m 16 31) = false ∧ mvDREL (mvrWord m 16 31) = false ∧ mvrSrc m 16 31 0 % 64 = 0 ∧
      mvrDst m 16 31 0 % 64 = 0 ∧ mvUNITS (mvrWord m 16 31) = 1 ∧ mvrFits (mvrSrc m 16 31 0) 64 = true ∧ f (moveTo 0x2040) = true ∧
      f (moveTo 0xFFFFFFFFFFC0) = true ∧ mvrFits (mvrDst (atSlot (moveTo 0xFFFFFFFFFFC0 + 2 ^ 17)) 16 31 0) 128 = false ∧
      mvrDst (atSlot (moveTo 0x2041)) 16 31 0 % 64 ≠ 0 ∧
    mvrAtOp (atSlot rel) 16 31 1 = true ∧ mvSREL (mvrWord (atSlot rel) 16 31) = true ∧ ((atSlot rel).mvr 16 31).held = none ∧
      mvDREL (mvrWord (atSlot (moveTo 0 + 2 ^ 9)) 16 31) = true ∧
    mvrAtOp (hold 0x1000000 rel 5) 16 31 1 = true ∧ heldMarker (hold 0x1000000 rel 5) 16 31 = true ∧
      mvrSrc (hold 0x1000000 rel 5) 16 31 0 % 64 = 0 ∧ heldMarker (hold 5 rel 5) 16 31 = false :=
  ⟨rfl, rfl, by decide +kernel⟩

theorem wit_ChannelInstructions_rows :
    let d (w w2 : Nat) := channel 2 MvrSt.reset [moveTo w + 6, w2]
    let r := channel 2 { MvrSt.reset with held := some (0x1000000, 0, 0) } [moveTo 0 + 6 + 2 ^ 8, 1, 5]
    let g := d 0x2040 (1 + 2 ^ 64 * 64 + 2 ^ 96 * 64)
    Functional g ∧ Functional r ∧
    mvrAtOp g 16 31 7 = true ∧ g.b0 = true ∧ ({ g with b0 := false } : State).b0 = false ∧
      mvrLen (channel 2 MvrSt.reset [7]) 16 31 ≤ mvrPC (channel 2 MvrSt.reset [7]) 16 31 + 1 ∧
      mvrPC g 16 31 + 1 < mvrLen g 16 31 ∧ bits (mvrAt (d 0 (2 ^ 24)) 16 31 1) 24 40 ≠ 0 ∧ bits (mvrAt g 16 31 1) 24 40 = 0 ∧
      mv2SSTR (mvrAt (d 0 (2 ^ 64)) 16 31 1) % 64 ≠ 0 ∧ mv2DSTR (mvrAt (d 0 (2 ^ 96 * 32)) 16 31 1) % 64 ≠ 0 ∧
      mv2SSTR (mvrAt g 16 31 1) % 64 = 0 ∧ mv2DSTR (mvrAt g 16 31 1) % 64 = 0 ∧
    mvrAtOp r 16 31 7 = true ∧ heldMarker r 16 31 = true ∧ mvrSrc r 16 31 0 % 64 = 0 ∧ mvSREL (mvrWord r 16 31) = true ∧
    mv2ROWS (mvrAt g 16 31 1) = 2 ∧ mvrFits (mvrSrc g 16 31 1) 64 = true ∧ mvrFits (mvrDst g 16 31 1) 64 = true ∧
      mvrFits (mvrDst (d 0 (1 + 2 ^ 96 * 0xFFFFFFC0)) 16 31 1) 64 = false ∧
      mvrFits (mvrDst (d 0 (1 + 2 ^ 96 * 0xFFFFFFC0)) 16 31 0) 64 = true :=
  ⟨rfl, rfl, by decide +kernel⟩
/-! ### Ingest and feeders -/

/-- An open frame in the FIFO of stream 127, whose REMAIN counts its bytes. -/
def filled (f : FFrame) (src : Nat) (pulls : List Pull) : State :=
  ((up.setFifo 127 { FifoSt.reset with frames := [f], pulls := pulls }).setF (fifBase 127) FIF_REMAIN_BYTES f.len).setF (fifBase 127)
    FIF_CFG_SRC src

/-- A frame of some bytes, and the same one aborted. -/
def plainFrame (len : Nat) : FFrame := newFFrame goodDesc 0 len
def spoilt (len : Nat) : FFrame := { plainFrame len with bad := true }

theorem wit_FifoWrites_aperture :
    let s := filled (plainFrame 64) 0 []
    let a := filled (spoilt 64) 0 []
    let n := s.setFifo 127 { s.fifo 127 with wr := fifSize s 127 }
    Functional s ∧ Functional a ∧ Functional n ∧
    ([1, 2] : Bytes) ≠ [] ∧ (126 : BitVec 7).toNat + 2 ≤ 128 ∧ 128 < (127 : BitVec 7).toNat + 2 ∧ 2 % fifElem s 127 = 0 ∧
      fifSrc s 127 = 0 ∧ fifSrc (filled (plainFrame 64) 1 []) 127 ≠ 0 ∧ fifOpenFrame up 127 = none ∧
    fifOpenFrame s 127 = some (plainFrame 64) ∧ (plainFrame 64).bad = false ∧ fifFree n 127 < 2 ∧ 128 ≤ fifFree s 127 ∧
      64 ≤ s.getF (fifBase 127) FIF_REMAIN_BYTES ∧ s.getF (fifBase 127) FIF_REMAIN_BYTES < 65 ∧
    fifOpenFrame a 127 = some (spoilt 64) ∧ (spoilt 64).bad = true ∧ a.getF (fifBase 127) FIF_REMAIN_BYTES = 64 ∧
    (up.stream 127).plan = none ∧ ((up.setStream 127 { up.stream 127 with plan := some 0 }).stream 127).plan.isSome = true :=
  ⟨rfl, rfl, rfl, by decide +kernel⟩

theorem wit_FifoWrites_pulls :
    let s := filled (plainFrame 64) 1 [⟨0, 64, none⟩]
    let r := filled (plainFrame 64) 1 []
    let a := filled (spoilt 64) 1 [⟨0, 64, none⟩]
    let d := (r.setFifo 127 { r.fifo 127 with asked := 64 })
    let n := (r.setFifo 127 { r.fifo 127 with wr := fifSize r 127 })
    let i := (s.setF (injBase 14) TXU_INJ_COUNT 1).setF (injBase 14) TXU_INJ_TARGET 127
    Functional up ∧ Functional s ∧ Functional r ∧ Functional a ∧ Functional i ∧ fifOpenFrame up 127 = none ∧
    fifOpenFrame r 127 = some (plainFrame 64) ∧ fifSrc r 127 = 1 ∧
      min (64 - (r.fifo 127).asked) (256 * 2 ^ r.getF (fifBase 127) FIF_CFG_MRRS) = 64 ∧ 64 ≤ fifFree r 127 ∧
      (d.fifo 127).asked = 64 ∧ fifFree n 127 < 64 ∧
    fifOpenFrame s 127 = some (plainFrame 64) ∧ (s.fifo 127).pulls[0]? = some ⟨0, 64, none⟩ ∧ (injected s 0x0E 127).1 = false ∧
      (injected i 0x0E 127).1 = true ∧ fifOpenFrame i 127 = some (plainFrame 64) ∧
    fifOpenFrame a 127 = some (spoilt 64) ∧ (a.fifo 127).pulls[0]? = some ⟨0, 64, none⟩ :=
  ⟨rfl, rfl, rfl, rfl, rfl, by decide +kernel⟩

/-- Feeder 7 with work of stream 127, words of a buffer left, and the place in the frame. -/
def feeding (todo : Option Nat) (left word : Nat) (credits : SMap (List (BitVec 64))) : State :=
  up.setFeed 7 { FeedSt.reset with todo := [(127, todo)], left := left, word := word, credits := credits }

/-- Its frame: 100 bytes, of which one whole word has come. -/
def fedFrame : FFrame := { newFFrame goodDesc 0 100 with got := 64, seq := some 3 }
def withFed (s : State) : State := s.setFifo 127 { FifoSt.reset with frames := [fedFrame] }

theorem wit_FeedersSend_words :
    let s := feeding (some 3) 0 0 [(0, [5])]
    let g (w : Nat) := withFed (feeding (some 3) 2 w [])
    let h := (g 0).setF (fdBase 7) FIF_FD_CTRL_HDR 1
    let b : State := { g 0 with edgeIn := [(0, token 5 0 0)] }
    Functional up ∧ Functional s ∧ Functional (g 0) ∧ Functional (g 1) ∧ Functional (g 2) ∧ Functional h ∧ (up.feed 7).todo = [] ∧
    (s.feed 7).todo = (127, some 3) :: [] ∧ (s.feed 7).left = 0 ∧ feedFree s 7 0 = true ∧ SMap.get [] (s.feed 7).credits 0 = 5 :: [] ∧
      SMap.get [] ((g 0).feed 7).credits 0 = [] ∧ feedFree b 7 0 = false ∧ feedFrame (feeding (some 3) 2 0 []) 127 3 = none ∧
    ((g 0).feed 7).left ≠ 0 ∧ feedFree (g 0) 7 0 = true ∧ feedFrame (g 0) 127 3 = some (0, fedFrame) ∧
      (g 0).getF (fdBase 7) FIF_FD_CTRL_HDR = 0 ∧ fedFrame.words64 = 2 ∧ wordReady fedFrame 0 = true ∧
      ((g 1).feed 7).word = 1 ∧ wordReady fedFrame 1 = false ∧ frameOf (g 1) 127 3 = none ∧ ((g 2).feed 7).word = 2 ∧
    (h.feed 7).word < h.getF (fdBase 7) FIF_FD_CTRL_HDR ∧ feedFrame h 127 3 = some (0, fedFrame) :=
  ⟨rfl, rfl, rfl, rfl, rfl, rfl, by decide +kernel⟩

theorem wit_FeedersSend_starved :
    let g := { withFed (feeding (some 3) 2 1 []) with frames := [{ frame5 with slot := 127, seq := 3 }] }
    Functional g ∧ feedFrame g 127 3 = some (0, fedFrame) ∧
      (frameOf (g.setF (fdBase 7) FIF_FD_STATUS_STARVED 1) 127 3).isSome = true :=
  ⟨rfl, by decide +kernel⟩

theorem wit_FeedersSend_ends :
    let e := feeding none 0 0 []
    let b : State := { e with edgeIn := [(0, token 5 0 0)] }
    let r := (withFed e).setF (fifBase 127) FIF_CFG_READER 1
    let m := e.setF (fdBase 7) FIF_FD_CTRL_NT 1
    let w : State := e.setPlan 7 { PlanSt.reset with reloc := some ⟨[0], 1, 5, 0, []⟩ }
    Functional e ∧ Functional b ∧ Functional r ∧ Functional m ∧ Functional w ∧
    (w.feed 7).todo = (127, none) :: [] ∧ (w.plan 7).reloc.isSome = true ∧ (e.plan 7).reloc = none ∧ (m.plan 7).reloc = none ∧
    (e.feed 7).todo = (127, none) :: [] ∧ (e.feed 7).buf = 0 ∧ feedFree e 7 0 = true ∧ feedFree b 7 0 = false ∧
      e.getF (fifBase 127) FIF_CFG_READER = 0 ∧ e.getF (fdBase 7) FIF_FD_CTRL_NT = 0 ∧
    r.getF (fifBase 127) FIF_CFG_READER = 1 ∧ feedFree r 7 0 = true ∧ (∃ f ∈ (r.fifo 127).frames, f.seq.isSome = true) ∧
    feedFree m 7 0 = true ∧ (m.feed 7).buf < m.getF (fdBase 7) FIF_FD_CTRL_NT :=
  ⟨rfl, rfl, rfl, rfl, rfl, by decide +kernel⟩
/-! ### Banks, LPDDR4X -/

/-- Die 3 with an activity that runs on a group. -/
def busy (g c : Nat) : State := up.setDie 3 { DieSt.reset with running := [(g, c)] }

theorem wit_MemoriesMaintained_retention :
    let b := bnkBase 3 35
    let q := up.setF b BNK_CTRL_RET_REQ 1
    let w := q.setDie 3 { DieSt.reset with waiting := [(35, 1, 7)] }
    let k := (busy 35 1).setDie 3 { DieSt.reset with running := [(35, 1)], wakes := [35] }
    let off := up.setF (pwrDie 3) PWR_STATUS_OFF 1
    Functional up ∧ Functional q ∧ Functional w ∧ Functional (busy 35 1) ∧ Functional k ∧ Functional off ∧ Functional (busy 35 3) ∧
    diePowered up 3 = true ∧ diePowered off 3 = false ∧ up.getF b BNK_CTRL_RET_REQ = 0 ∧ q.getF b BNK_CTRL_RET_REQ = 1 ∧
      diePowered w 3 = true ∧ w.getF b BNK_CTRL_RET_REQ = 1 ∧ maWaits (w.setF b BNK_CTRL_RET_REQ 0) 3 35 1 = true ∧
      maWaits (q.setF b BNK_CTRL_RET_REQ 0) 3 35 1 = false ∧
    maRunning (busy 35 1) 3 35 = 1 ∧
      ((maEnd ((busy 35 1).setF b BNK_STATE_STATE 2) 3 35).die 3).wakes.contains (35 : Fin 36).val = false ∧
      ((maEnd (k.setF b BNK_STATE_STATE 2) 3 35).die 3).wakes.contains (35 : Fin 36).val = true ∧
    maRunning (busy 35 3) 3 35 = 3 :=
  ⟨rfl, rfl, rfl, rfl, rfl, rfl, rfl, by decide +kernel⟩

theorem wit_MemoriesMaintained_sweep :
    let b := bnkBase 3 35
    let at' (t : Nat) : State := ({ up with timeBase := BitVec.ofNat 64 t }.setF b BNK_SWEEP_INTERVAL 50).setDie 3
      { DieSt.reset with swept := [(35, 5)] }
    let full := (busy 35 7).setDie 3 { DieSt.reset with running := [(35, 7)], spares := [(128 * 35, 2)] }
    let bad := { busy 35 7 with poison := [regionAddr 3 35 0 + 1008] }
    Functional up ∧ Functional (at' 100005) ∧ Functional (busy 35 7) ∧ Functional full ∧ Functional bad ∧
    up.getF b BNK_CTRL_SWEEP_EN = 1 ∧ groupAwake up 3 35 = true ∧ maRunning up 3 35 = 0 ∧ maWaits up 3 35 7 = false ∧
      SMap.find (up.die 3).swept 35 = none ∧ (up.setF b BNK_CTRL_SWEEP_EN 0).getF b BNK_CTRL_SWEEP_EN = 0 ∧
    SMap.find ((at' 100005).die 3).swept 35 = some 5 ∧ 5 + 1000 * max 100 ((at' 0).getF b BNK_SWEEP_INTERVAL) = now (at' 100005) ∧
      now (at' 100004) < 5 + 1000 * max 100 ((at' 0).getF b BNK_SWEEP_INTERVAL) ∧
    maRunning (busy 35 7) 3 35 = 7 ∧ SMap.get 0 ((sweepSave (busy 35 7) 3 35).die 3).spares (128 * 35) = 0 ∧
    maRunning full 3 35 = 7 ∧ SMap.get 0 ((sweepSave full 3 35).die 3).spares (128 * 35) = 2 ∧
    maRunning bad 3 35 = 7 ∧ (bankRead bad (regionAddr 3 35 0) 1024).1.isLeft = true :=
  ⟨rfl, rfl, rfl, rfl, rfl, by decide +kernel⟩

theorem wit_MemoriesMaintained_grants :
    let w := up.setDie 3 { DieSt.reset with waiting := [(51, 8, 7), (51, 5, 7), (51, 4, 9)] }
    Functional w ∧ Functional (busy 51 5) ∧ maRunning w 3 51 = 0 ∧ maNext w 3 51 = some (51, 5, 7) ∧ maRunning (busy 51 5) 3 51 = 5 ∧
      maRunning up 3 51 = 0 ∧ maNext up 3 51 = none :=
  ⟨rfl, rfl, by decide +kernel⟩

/-- Requests of a group that is free, that a scrub keeps, and that a sweep or a scrub gives up (R299). -/
theorem wit_MemoriesMaintained_requests :
    maRunning up 3 51 = 0 ∧ maRunning (busy 51 8) 3 51 = 8 ∧ ¬ ((5 = 1 ∨ 5 = 2) ∧ (8 = 7 ∨ 8 = 8)) ∧ maRunning (busy 35 1) 3 35 = 1 ∧
      ¬ ((1 = 1 ∨ 1 = 2) ∧ (1 = 7 ∨ 1 = 8)) ∧ maRunning (busy 35 7) 3 35 = 7 ∧ (1 = 1 ∨ 1 = 2) ∧ (2 = 1 ∨ 2 = 2) := by decide +kernel

theorem wit_MemoriesMaintained_lpddr :
    let off := up.setF (pwrDie 3) PWR_STATUS_OFF 1
    let two := up.setDie 3 { DieSt.reset with running := [(50, 8), (51, 8)] }
    let late := up.setDie 3 { DieSt.reset with scrubAt := some (now up) }
    Functional up ∧ Functional off ∧ Functional (busy 51 8) ∧ Functional two ∧
    channelActive up 3 15 = true ∧ channelActive off 3 15 = false ∧ maWaits up 3 (36 + 15) 5 = false ∧ maWaits up 3 (36 + 15) 6 = false ∧
      (3 : BitVec 3).toNat ≤ 3 ∧ (4 : BitVec 3).toNat = 4 ∧ (5 : BitVec 3).toNat ≠ 7 ∧ (7 : BitVec 3).toNat = 7 ∧
    maRunning (busy 51 8) 3 (36 + 15) = 8 ∧ scrubOpen (maEnd (scrubBlock (busy 51 8) 3 15 0) 3 51) 3 = false ∧
    maRunning two 3 (36 + 15) = 8 ∧ scrubOpen (maEnd (scrubBlock two 3 15 0) 3 51) 3 = true ∧
    maRunning up 3 (36 + 15) ≠ 8 ∧ up.getF (lpcBase 3) LPC_SCRUB_EN = 1 ∧ scrubOpen up 3 = false ∧ scrubDue up 3 = true ∧
      scrubDue late 3 = false ∧ (∀ j ∈ List.range 16, channelActive up 3 j = true) :=
  ⟨rfl, rfl, rfl, rfl, by decide +kernel⟩
/-! ### Boot, the steward, supply and heat -/

/-- A device in the boot ROM: PERST_N high, no image yet. -/
def rom : State := { State.reset with fuses := keyHash + 2 ^ 2052, fuses0 := keyHash + 2 ^ 2052 }

/-- A firmware image of 64 zero bytes signed with the test key in slot 0. -/
def signedHeader : Bytes :=
  natToBytes 4 0x57535A47 ++ [1, 0, 1, 0] ++ natToBytes 24 64 ++ beBytes 64
    0x7be9fda48f4179e611c698a73cff09faf72869431efee6eaad14de0cb44bbf66503f752b7a8eb17083355f3ce6eb7d2806f236b25af96a24e22b887405c20081 ++
    List.replicate 32 0 ++
    beBytes 512 keyN ++ natToBytes 4 65537 ++ List.replicate 124 0

theorem wit_BootProceeds_image :
    let img := signedHeader ++ beBytes 512 sigImage ++ List.replicate 64 0
    fwReason rom img = 0 ∧ fwReason State.reset img = 5 ∧ img.length = 1280 + leAt img 8 4 := by decide +kernel

theorem wit_BootProceeds_rom :
    let h : State := rom.setF hubWin MBX_STATUS_HOSTBOOT 1
    let c (img : Bytes) : State := { h with boot := { h.boot with checking := some (2, img) } }
    let b : State := { rom with boot := { rom.boot with bootsel := true } }
    let f : State := { rom with fuses0 := 2 ^ 2127 + 2 ^ 2128 }
    let o : State := { rom with fuses0 := 2 ^ 2124 }
    let dir (x : Nat) : Bytes := natToBytes 16 (0x52495A47 + 2 ^ 64 * x)
    Functional h ∧ Functional (c []) ∧ Functional b ∧ Functional f ∧ Functional rom ∧
    romRuns up = false ∧ romRuns h = true ∧ h.getF hubWin MBX_STATUS_HOSTBOOT = 1 ∧ h.boot.checking = none ∧
      rom.getF hubWin MBX_STATUS_HOSTBOOT = 0 ∧ (c []).boot.checking.isSome = true ∧
    romRuns (c [1]) = true ∧ (c [1]).boot.checking = some (2, [1]) ∧ max (sigHeader (c [1]) (slice [1] 0 1280) 1 false) 1 ≠ 0 ∧
      policyBit (c [1]) 0 = false ∧ policyBit o 0 = true ∧
    romRuns rom = true ∧ rom.boot.checking = none ∧ rom.boot.bootsel = false ∧ policyBit rom 3 = false ∧ policyBit rom 4 = false ∧
      spiSlot rom [] 0x08 false = none ∧ spiSlot rom [] 0x0C false = none ∧
      spiSlot rom (dir 64) 0x08 true = some ([], 13) ∧ (spiSlot rom (dir 64) 0x08 false).isSome = true ∧
      (spiSlot rom (dir (2 ^ 32 * 64)) 0x0C false).isSome = true ∧
    romRuns b = true ∧ b.boot.bootsel = true ∧ policyBit b 3 = false ∧ romRuns f = true ∧ policyBit f 3 = true ∧ policyBit f 4 = true :=
  ⟨rfl, rfl, rfl, rfl, rfl, by decide +kernel⟩

theorem wit_BootProceeds_trained :
    let t (sc : Nat) : State := { up.setF hubWin MBX_BOOT_STAGE_STAGE 6 with boot := { up.boot with scope := sc } }
    let set (s : State) : State := (List.range 4).foldl (fun t d =>
      ((t.setF (lpcBase d) LPC_CFG_RATE 2).setF (lpcBase d) LPC_STATUS_TRAINED 0xFFFF).setF (lpcBase d) LPC_TRAIN_MS_MS 7) s
    Functional State.reset ∧ Functional (t 1) ∧ Functional (t 2) ∧
    State.reset.boot.image = [] ∧ up.getF hubWin MBX_BOOT_STAGE_STAGE ≠ 6 ∧
    (t 1).boot.image ≠ [] ∧ (t 1).getF hubWin MBX_BOOT_STAGE_STAGE = 6 ∧ (t 1).boot.waits = false ∧ endpointUp (t 1) = true ∧ released (t 1) = true ∧ released rom = true ∧
      released { rom with boot := { rom.boot with porLow := true } } = false ∧ (State.reset.setF hubWin MBX_BOOT_STAGE_STAGE 5).getF hubWin MBX_BOOT_STAGE_STAGE = 5 ∧
      isHead (set (t 1)) = true ∧ (t 1).boot.scope = 1 ∧ (t 2).boot.scope ≠ 1 ∧ isHead ((set (t 1)).setF hubWin MBX_STATUS_HEAD 0) = false ∧
      (0 : BitVec 64) ≠ BitVec.allOnes 64 :=
  ⟨rfl, rfl, rfl, by decide +kernel⟩

theorem wit_StewardWatched :
    let w : State := up.setF pwrHub PWR_WDOG_LIMIT 100
    let k : State := { w with boot := { w.boot with kick := now w } }
    let e (t : Nat) : State := { { w with timeBase := 20000000000 } with boot := { w.boot with expiry := some t } }
    let i : State := up.setF (injBase 17) TXU_INJ_COUNT 1
    let d : State := { up with boot := { up.boot with down := true }, taken := [cmd 1 []] }
    let f : State := { up with boot := { up.boot with down := true, scope := 4 } }
    Functional w ∧ Functional k ∧ Functional (e 1) ∧ Functional i ∧ Functional d ∧ Functional f ∧
    w.getF hubWin MBX_STATUS_READY = 1 ∧ (injected w 0x11 0).1 = false ∧ w.getF pwrHub PWR_WDOG_LIMIT ≠ 0 ∧
      w.boot.kick + w.getF pwrHub PWR_WDOG_LIMIT * 1000000 ≤ now w ∧ w.boot.expiry = none ∧
      now k < k.boot.kick + k.getF pwrHub PWR_WDOG_LIMIT * 1000000 ∧ (injected i 0x11 0).1 = true ∧ i.getF hubWin MBX_STATUS_READY = 1 ∧
      10000000000 = now (e 0) - 10000000000 ∧ now (e 1) < 10000000001 + 10000000000 ∧ (e 10000000000).getF hubWin MBX_STATUS_READY = 1 ∧
      up.getF pwrHub PWR_WDOG_LIMIT = 1000 ∧
      State.reset.getF hubWin MBX_STATUS_READY = 0 ∧ up.boot.down = false ∧
      d.boot.down = true ∧ released d = true ∧ released { d with boot := { d.boot with porLow := true } } = false ∧ d.boot.scope ≠ 4 ∧ d.taken = [cmd 1 []] ∧
      f.boot.down = true ∧ released f = true ∧ f.boot.scope = 4 :=
  ⟨rfl, rfl, rfl, rfl, rfl, rfl, by decide +kernel⟩

theorem wit_SupplyMonitored_squalls :
    let q (n : Nat) : State := up.setDie 3 { up.die 3 with sq := some (1000, 700, n) }
    let off := up.setF (pwrDie 3) PWR_STATUS_OFF 1
    Functional up ∧ Functional (q 51) ∧ Functional (q 50) ∧ Functional off ∧
    (up.die 3).sq = none ∧ diePowered up 3 = true ∧ diePowered off 3 = false ∧ ((q 50).die 3).sq = some (1000, 700, 50) ∧
      ((q 51).die 3).sq = some (1000, 700, 51) :=
  ⟨rfl, rfl, rfl, rfl, by decide +kernel⟩

theorem wit_SupplyMonitored_samples :
    let b := pwrDie 3
    let q : State := up.setDie 3 { up.die 3 with sq := some (1000, 700, 5) }
    let dip := (up.setF (injBase 16) TXU_INJ_TARGET 3).setF (injBase 16) TXU_INJ_COUNT 2
    let br : State := up.setDie 3 { up.die 3 with browned := true, brGood := 51 }
    let br' : State := up.setDie 3 { up.die 3 with browned := true, brGood := 50 }
    Functional up ∧ Functional q ∧ Functional dip ∧ Functional br ∧ Functional br' ∧
    (dipSample up 3).1 = false ∧ (dipSample dip 3).1 = true ∧ sqWarn up = 700 ∧ (600 : BitVec 10).toNat < (up.setF b PWR_VMON_MV 0).getF b PWR_VMIN_MV ∧
      (up.setF b PWR_VMON_MV 1023).getF b PWR_VMIN_MV ≤ (1023 : BitVec 10).toNat ∧ (up.die 3).browned = false ∧
      (q.die 3).sq = some (1000, 700, 5) ∧ sqWarn q + 10 < 711 ∧ 710 ≤ sqWarn q + 10 ∧ (br.die 3).browned = true ∧
      51 ≤ (br.die 3).brGood ∧ (br'.die 3).brGood < 51 :=
  ⟨rfl, rfl, rfl, rfl, rfl, by decide +kernel⟩

theorem wit_SupplyMonitored_brownOut :
    let l : State := up.setDie 3 { up.die 3 with low := true }
    let p : State := { up with boot := { up.boot with porLow := true } }
    let c : State := { up with boot := { up.boot with scope := 1 } }
    Functional up ∧ Functional l ∧ Functional p ∧ Functional c ∧
    diePowered up 3 = true ∧ (up.die 3).low = false ∧ up.boot.porLow = false ∧ up.boot.perstLow = false ∧ up.boot.scope = 0 ∧
      up.hubHot = false ∧ (l.die 3).low = true ∧ p.boot.porLow = true ∧ diePowered p 3 = true ∧ c.boot.scope = 1 ∧ diePowered c 3 = true ∧ { up with hubHot := true }.hubHot = true ∧
      p.hubHot = false ∧ c.hubHot = false ∧ (c.die 3).low = false ∧ ¬ (1 ≤ up.boot.scope ∧ up.boot.scope ≤ 3) :=
  ⟨rfl, rfl, rfl, rfl, by decide +kernel⟩

theorem wit_HeatMonitored_samples :
    let o (n : Nat) : State := up.setDie 3 { up.die 3 with ot := some (1000, 1700, n) }
    let warm (x : Nat) : Int := (hottest (readings 8 (bytesToNat (natToBytes 16 x)))).1
    Functional up ∧ Functional (o 10) ∧ Functional (o 11) ∧
    thWarn up = 105 ∧ (up.die 3).ot = none ∧ warm 0 < 16 * (thWarn up : Int) ∧ 16 * (thWarn up : Int) ≤ warm (105 * 16) ∧
      warm (0x73 * 16 - 1) < 1840 ∧ 1840 ≤ warm (0x73 * 16) ∧
      warm 0 ≤ signed 16 ((up.setF (pwrDie 3) PWR_TMAX_PEAK 200).getF (pwrDie 3) PWR_TMAX_PEAK) ∧ signed 16 (up.getF (pwrDie 3) PWR_TMAX_PEAK) < warm (105 * 16) ∧
      ((o 10).die 3).ot = some (1000, 1700, 10) ∧ ((o 11).die 3).ot = some (1000, 1700, 11) ∧
      warm (102 * 16 - 1) < 16 * ((thWarn up : Int) - 3) ∧ 16 * ((thWarn up : Int) - 3) ≤ warm (102 * 16) ∧
      (hottest (readings 2 (0x73 * 16))).1 = 1840 ∧ (hottest (readings 2 0)).1 < 1840 :=
  ⟨rfl, rfl, rfl, by decide +kernel⟩

theorem wit_HeatMonitored_recovery :
    let h : State := State.reset.setF (pwrDie 3) PWR_STATUS_SHUTDOWN 1
    let a : State := { (up.setF (pwrDie 3) PWR_STATUS_SHUTDOWN 1) with taken := [{ cmd 0x0B [0] with started := true }] }
    let n : State := up.setF (pwrDie 3) PWR_STATUS_SHUTDOWN 1
    let w : State := h.setDie 3 { h.die 3 with temps := [1520] }
    Functional up ∧ Functional h ∧ Functional a ∧ Functional n ∧ Functional w ∧
    dieShut up 3 = false ∧ dieShut h 3 = true ∧ h.hubHot = false ∧ h.getF hubWin MBX_STATUS_READY = 0 ∧
      (∀ x ∈ (h.die 3).temps, x < 1520) ∧ dieShut a 3 = true ∧
      (∃ t ∈ a.taken, t.started = true ∧ tkOPC t = 0x0B ∧ tkArg t 8 1 = 0) ∧
      dieShut n 3 = true ∧ n.getF hubWin MBX_STATUS_READY = 1 ∧ n.taken = [] ∧ (w.die 3).temps = [1520] ∧
      a.boot.down = false ∧ 0x08C0 &&& 0xF73F = 0 ∧ 0x0020 &&& 0xF73F ≠ 0 :=
  ⟨rfl, rfl, rfl, rfl, rfl, by decide +kernel⟩
/-! ### Relay links -/

/-- Port 7 in a state, on a module with number 0. -/
def portIn (st : Nat) : State := up.setF (rlyPort 7) RLY_P_STATUS_STATE st

/-- The bytes of a flit with its CRC, and with a wrong one. -/
def withCrc (x : Nat) : BitVec 2048 := BitVec.ofNat 2048 (x + 2 ^ 2016 * crc32 (natToBytes 252 x))
def spoiltFlit (w : BitVec 2048) : BitVec 2048 := w ^^^ BitVec.ofNat 2048 (2 ^ 2016)

/-- A flit of a kind to a module with a sequence number and arguments. -/
def flit (kind dst fseq : Nat) (args : Bytes) : BitVec 2048 :=
  withCrc (bytesToNat (natToBytes 2 (kind + 256 * dst) ++ [0, 0, 0, 0, 0, 0] ++ natToBytes 4 fseq ++ args))

/-- Whether the CRC of a flit is right. -/
def sound (w : BitVec 2048) : Bool := crc32 (natToBytes 252 w.toNat) = bits w.toNat 2016 32

/-- The injection point 0x12 armed for port 7. -/
def spoils (s : State) : State := (s.setF (injBase 0x12) TXU_INJ_COUNT 1).setF (injBase 0x12) TXU_INJ_TARGET 7

theorem wit_PortStates :
    let t := (flit 1 0 0 [5, 2]).toNat
    let h := (flit 1 0 0 [5, 2, 1]).toNat
    Functional (portIn 0) ∧ Functional (portIn 4) ∧ Functional (portIn 5) ∧
    (∀ n ∈ List.range 6, portState (portIn n) 7 = n) ∧ (parseFlit t).kind = 1 ∧ flitReserved t = false ∧
      (bit (leAt (parseFlit t).args 2 1) 0 && isHead up) = false ∧ (parseFlit h).kind = 1 ∧ flitReserved h = false ∧
      (bit (leAt (parseFlit h).args 2 1) 0 && isHead up) = true ∧ up.getF (rlyPort 7) RLY_P_STATUS_PEER ≠ 5 ∧
      ((portIn 4).setF (rlyPort 7) RLY_P_STATUS_PEER 5).getF (rlyPort 7) RLY_P_STATUS_PEER = bits (leAt (parseFlit h).args 0 1) 0 6 ∧
      (injected (portIn 4) 0x12 7).1 = false ∧ flitReserved (2 ^ 88 + 1 : Nat) = true ∧ (injected (spoils (portIn 4)) 0x12 7).1 = true ∧
      sound (flit 1 0 0 [5, 2]) = true ∧ sound (flit 1 0 0 [5, 2, 1]) = true ∧ sound (spoiltFlit (flit 1 0 0 [5, 2])) = false ∧
      (parseFlit (spoiltFlit (flit 1 0 0 [5, 2])).toNat).kind = 1 ∧ flitReserved (spoiltFlit (flit 1 0 0 [5, 2])).toNat = false ∧
      (up.setF (rlyPort 7) RLY_P_CTRL_EN 1).getF (rlyPort 7) RLY_P_CTRL_EN = 1 ∧ portState ((portIn 5).setF (rlyPort 7) RLY_P_CTRL_EN 0) 7 = 5 ∧
      portState ((portIn 3).setF (rlyPort 7) RLY_P_CTRL_EN 0) 7 ≠ 5 :=
  ⟨rfl, rfl, rfl, by decide +kernel⟩

theorem wit_FlitsReceived :
    let s := portIn 5
    let t (x : State) := x.addF (rlyPort 7) RLY_P_FEC_CE_COUNT 15
    let w := flit 0x10 0 1 []
    Functional s ∧ Functional (spoils s) ∧
    (∀ k ∈ [0x02, 0x10, 0x11, 0x12, 0x20, 0x21, 0x22, 0x28, 0x30, 0x31, 0x32],
      (parseFlit (flit k 0 1 []).toNat).kind = k ∧ flitReserved (flit k 0 1 []).toNat = false) ∧
      portState (t s) 7 = 5 ∧ (injected (t (spoils s)) 0x12 7).1 = true ∧ (injected (t s) 0x12 7).1 = false ∧
      sound w = true ∧ sound (spoiltFlit w) = false ∧ portState (linkPart (t s) 7 (parseFlit w.toNat)) 7 = 5 ∧
      (parseFlit w.toNat).fseq = (((linkPart (t s) 7 (parseFlit w.toNat)).port 7).rx + 1) % 65536 ∧
      (parseFlit w.toNat).dst = myDev s ∧ (parseFlit (flit 0x10 1 1 []).toNat).dst ≠ myDev s ∧
      (∀ q ∈ [0, 0xFF81, 0xFF80, 2], (parseFlit (flit 0x10 0 q []).toNat).fseq ≠ ((s.port 7).rx + 1) % 65536) ∧
      ((s.port 7).rx + 65536 - (parseFlit (flit 0x10 0 0xFF81 []).toNat).fseq) % 65536 = 127 ∧
      ((s.port 7).rx + 65536 - (parseFlit (flit 0x10 0 0xFF80 []).toNat).fseq) % 65536 = 128 :=
  ⟨rfl, rfl, by decide +kernel⟩

/-- Stream 5 bound with relay frames as its source, elements of a byte. -/
def relayed : State :=
  ((portIn 5).setStream 5 { up.stream 5 with plan := some 0 }).setF (fifBase 5) FIF_CFG_SRC 2

/-- The same with an open frame, or with flits in the buffers of port 7. -/
def openRelay : State := relayed.setFifo 5 { FifoSt.reset with frames := [newFFrame goodDesc 0 64] }
def buffering (l : List Flit) : State := relayed.setPort 7 { PortSt.reset with bufs := l }

/-- A frame header, its data and its end for stream 5, frame 9 of the source. -/
def hdr (fseq : Nat) : BitVec 2048 := flit 0x30 0 fseq [5, 0, 0, 0, 16, 0, 0, 0, 9]
def dat (fseq : Nat) : BitVec 2048 := flit 0x31 0 fseq [5]
def fin (fseq : Nat) : BitVec 2048 := flit 0x32 0 fseq [5, 0, 0, 0, 9]

theorem wit_FlitsReceived_waits :
    let f (w : BitVec 2048) : Flit := parseFlit w.toNat
    Spec.streamWaits openRelay 7 (f (hdr 1)) ∧ ¬ Spec.streamWaits relayed 7 (f (hdr 1)) ∧
    Spec.streamWaits (buffering [f (hdr 1)]) 7 (f (dat 2)) ∧ ¬ Spec.streamWaits relayed 7 (f (dat 2)) ∧
    Spec.streamWaits (buffering [f (hdr 1)]) 7 (f (fin 2)) ∧ Spec.streamWaits (buffering [f (dat 1)]) 7 (f (fin 2)) ∧
    ¬ Spec.streamWaits relayed 7 (f (fin 2)) ∧ ¬ Spec.streamWaits (buffering [f (hdr 1)]) 7 (f (flit 0x10 0 2 [])) := by
  have free (s : State) (g : Flit) (h : g.kind = 0x32) (hb : (s.port ((7 : Fin 8) : Nat)).bufs = []) : ¬ Spec.streamWaits s 7 g := by
    unfold Spec.streamWaits; rw [hb]; simp [h]
  refine ⟨?_, ?_, ?_, ?_, ?_, ?_, free _ _ (by decide +kernel) (by decide +kernel), ?_⟩ <;> simp only [Spec.streamWaits]
  · decide +kernel
  · decide +kernel
  · decide +kernel
  · decide +kernel
  · exact ⟨by decide +kernel, .inr (.inr ⟨by decide +kernel, .inl ⟨parseFlit (hdr 1).toNat, by decide +kernel⟩⟩)⟩
  · exact ⟨by decide +kernel, .inr (.inr ⟨by decide +kernel, .inr ⟨parseFlit (dat 1).toNat, by decide +kernel⟩⟩)⟩
  · decide +kernel

theorem wit_PortEvents :
    let s := portIn 5
    let f := parseFlit (flit 0x10 9 1 []).toNat
    let a (n : Nat) := s.setPort 7 { s.port 7 with unacked := [(f, n)], ackT := 5 }
    let c := s.setPort 7 { s.port 7 with ret := [0, 1, 0, 0] }
    let b := s.setPort 7 { s.port 7 with bufs := [f] }
    let o := (b.setF (rlyPort 6) RLY_P_STATUS_STATE 5).setReg (rlyBase + 0x808) 0x60
    let n := o.setPort 6 { o.port 6 with cred := [0, 0, 0, 0] }
    let h := o.setPort 6 { o.port 6 with sendq := [f] }
    Functional s ∧ Functional (a 0) ∧ Functional c ∧ Functional b ∧ Functional o ∧ Functional n ∧
    portState (portIn 4) 7 = 4 ∧ portState (portIn 3) 7 = 3 ∧ (s.port 7).unacked = [] ∧ ((a 6).port 7).unacked ≠ [] ∧ portState (a 6) 7 = 5 ∧
      ((a 6).port 7).ackT + 1000 ≤ now (a 6) ∧ now { a 6 with timeBase := 1004 } < ((a 6).port 7).ackT + 1000 ∧
      ((a 6).port 7).unacked.map (fun u => (u.1, u.2 + 1)) = [(f, 7)] ∧ ((a 7).port 7).unacked.map (fun u => (u.1, u.2 + 1)) = [(f, 8)] ∧
      portMay h 6 f = true ∧ (∃ g ∈ (h.port 6).sendq, g.vc = f.vc) ∧ (injected s 0x12 7).1 = false ∧ routeTo o 9 = 6 ∧
      (s.port 7).ret.all (fun r => r = 0) = true ∧ (c.port 7).ret.all (fun r => r = 0) = false ∧ portState c 7 = 5 ∧
      (s.port 7).bufs.find? (fun f => f.vc = 0 && f.dst ≠ myDev s) = none ∧ takeable s 7 0 = none ∧ takeable b 7 0 = none ∧
      (b.port 7).bufs.find? (fun f => f.vc = 0 && f.dst ≠ myDev b) = some f ∧
      portUp b (routeTo b f.dst) = false ∧ routeTo o f.dst < 8 ∧ portUp o (routeTo o f.dst) = true ∧ takeable o 7 0 = none ∧
      portMay o (routeTo o f.dst) f = true ∧ (o.port (routeTo o f.dst)).sendq = [] ∧
      (n.port 7).bufs.find? (fun f => f.vc = 0 && f.dst ≠ myDev n) = some f ∧ portUp n (routeTo n f.dst) = true ∧
      portMay n (routeTo n f.dst) f = false ∧ takeable n 7 0 = none :=
  ⟨rfl, rfl, rfl, rfl, rfl, rfl, by decide +kernel⟩

theorem wit_PortEvents_reserved :
    let i := flit 0 0 0 []
    let r := withCrc (2 ^ 88)
    let q := withCrc (2 ^ 88 + 2 + 2 ^ 64)
    let u := withCrc (2 ^ 88 + 2 + 2 ^ 64 * 5)
    Functional (portIn 5) ∧ flitReserved i.toNat = false ∧ (parseFlit i.toNat).kind = 0 ∧ sound i = true ∧ sound (spoiltFlit i) = false ∧
      flitReserved (spoiltFlit i).toNat = false ∧ (injected (portIn 5) 0x12 7).1 = false ∧ (injected (spoils (portIn 5)) 0x12 7).1 = true ∧
    flitReserved r.toNat = true ∧ (parseFlit r.toNat).kind < 2 ∧ sound r = true ∧ flitReserved q.toNat = true ∧ sound q = true ∧
      2 ≤ (parseFlit q.toNat).kind ∧ (parseFlit q.toNat).fseq = ((linkPart (portIn 5) 7 (parseFlit q.toNat)).port 7).rx + 1 ∧
    flitReserved u.toNat = true ∧ sound u = true ∧ 2 ≤ (parseFlit u.toNat).kind ∧
      (parseFlit u.toNat).fseq ≠ ((linkPart (portIn 5) 7 (parseFlit u.toNat)).port 7).rx + 1 :=
  ⟨rfl, by decide +kernel⟩

theorem wit_PortEvents_header :
    let f := parseFlit (hdr 1).toNat
    let z := flit 0x30 0 1 [5, 0, 0, 0, 0]
    let t (s : State) := s.addF (rlyPort 7) RLY_P_FEC_CE_COUNT 0
    let v (s : State) := Spec.taken (linkPart (t s) 7 f) 7 f
    Functional (portIn 5) ∧ Functional relayed ∧
    (∀ s ∈ [portIn 5, relayed], (injected (t s) 0x12 7).1 = false ∧ portState (t s) 7 = 5 ∧ portState (linkPart (t s) 7 f) 7 = 5 ∧
      f.fseq = (((linkPart (t s) 7 f).port 7).rx + 1) % 65536 ∧ f.dst = myDev (v s) ∧ ((v s).port 7).bufs = [] ∧ headerWaits (v s) f = false) ∧
    f.kind = 0x30 ∧ flitReserved (hdr 1).toNat = false ∧ sound (hdr 1) = true ∧ leAt f.args 0 1 % 128 = 5 ∧
      relaySlot (v (portIn 5)) 5 = false ∧ relaySlot (v relayed) 5 = true ∧ ((v relayed).stream 5).closing = 0 ∧
      fdINLEN (relayDesc f.args) = 16 ∧ 16 % fifElem (v relayed) 5 = 0 ∧ fdOUTADDR (relayDesc f.args) % 64 = 0 ∧
      fdOUTLEN (relayDesc f.args) % 64 = 0 ∧
    (parseFlit z.toNat).kind = 0x30 ∧ flitReserved z.toNat = false ∧ sound z = true ∧ fdINLEN (relayDesc (parseFlit z.toNat).args) = 0 :=
  ⟨rfl, rfl, by decide +kernel⟩

theorem wit_PortEvents_taken :
    let f (w : BitVec 2048) : Flit := parseFlit w.toNat
    Functional (buffering [f (hdr 1), f (dat 2)]) ∧
    takeable (buffering [f (hdr 1), f (dat 2)]) 7 0 = some (f (hdr 1)) ∧ takeable (buffering [f (dat 2)]) 7 0 = some (f (dat 2)) ∧
    takeable (buffering [f (fin 2)]) 7 0 = some (f (fin 2)) ∧
    takeable (openRelay.setPort 7 { PortSt.reset with bufs := [f (hdr 1)] }) 7 0 = none :=
  ⟨rfl, by decide +kernel⟩

/-- R476: the steward writes a route and an output setting, which BAR0 does not reach; R461: a module takes its record. -/
theorem test_relay_registers_by_steward :
    (stewardRegWrite up (rlyBase + 0x804) 0x1234).reg (rlyBase + 0x804) = 0x1234 ∧
      (stewardRegWrite up (rlyBase + 0xA0C) 0xFFFFFFFF).reg (rlyBase + 0xA0C) = 2 ^ 27 - 1 ∧
      (regWrite up (rlyBase + 0x804) 0x1234).reg (rlyBase + 0x804) = 0xFFFFFFFF ∧
      myDev (takeRecord up [[5, 1, 0xA1, 0], [], []]) = 5 ∧ takeRecord up [] = up := by
  decide +kernel
/-! ### Attestation, the monitor, the test ports -/

theorem wit_SpdmAnswers :
    let v : State := { up with spdm := { up.spdm with version := true } }
    let c : State := { v with spdm := { v.spdm with caps := true } }
    let h : State := { c with boot := { c.boot with ident := 0 } }
    let d : State := { up with boot := { up.boot with down := true } }
    let q : State := { up with taken := [cmd 0x0C []] }
    let b : State := { up with spdm := { up.spdm with busy := [([0x12, 0x84, 0, 0], [])] } }
    Functional up ∧ Functional v ∧ Functional c ∧ Functional h ∧ Functional d ∧
    (∀ s ∈ [up, v, c, h], stewardUp s = true ∧ s.spdm.busy = [] ∧ s.taken = []) ∧ tkOPC (cmd 0x0C []) = 0x0C ∧ q.taken = [cmd 0x0C []] ∧
      b.spdm.busy ≠ [] ∧ endpointUp q = true ∧ endpointUp b = true ∧
    endpointUp up = true ∧ stewardUp up = true ∧ endpointUp State.reset = true ∧ stewardUp State.reset = false ∧
      endpointUp d = true ∧ stewardUp d = false ∧ endpointUp { up with hubHot := true } = false ∧
      (∀ k ∈ [0x84, 0xE1, 0xE3, 0x81, 0x82, 0x83, 0xE0], spdmCode [0x12, BitVec.ofNat 8 k, 0, 0] = k) ∧
      (∀ x ∈ Sys2Proof.Spec.spdmRequests [0x12, 0x85, 0, 0], spdmCode [0x12, 0x85, 0, 0] ≠ x.2) ∧
      (∃ x ∈ Sys2Proof.Spec.spdmRequests [0x12, 0x84, 0, 0], spdmCode [0x12, 0x84, 0, 0] = x.2) ∧
      leAt ([0x12, 0xE1, 0, 0] : Bytes) 0 1 = 0x12 ∧ leAt ([0x11, 0xE1, 0, 0] : Bytes) 0 1 ≠ 0x12 ∧
      up.spdm.version = false ∧ v.spdm.version = true ∧ v.spdm.caps = false ∧ c.spdm.caps = true ∧ up.boot.ident ≠ 0 ∧
      h.boot.ident = 0 ∧ h.spdm.algs = false :=
  ⟨rfl, rfl, rfl, rfl, rfl, by decide +kernel⟩

/-- A device with an identity and the algorithms agreed. -/
def identified : State :=
  { up with boot := { up.boot with ident := 0, chain := [0x30, 2, 5, 0] }, spdm := { up.spdm with version := true, caps := true, algs := true } }

theorem wit_IdentityProved :
    Functional identified ∧
    endpointUp identified = true ∧ stewardUp identified = true ∧ identified.spdm.busy = [] ∧ identified.taken = [] ∧ identified.boot.ident = 0 ∧ identified.spdm.algs = true ∧
      leAt ([0x12, 0x82, 0, 0, 0, 0, 0xFF, 0xFF] : Bytes) 0 1 = 0x12 ∧ leAt ([0x12, 0x82, 1, 0] : Bytes) 2 1 % 16 ≠ 0 ∧
      leAt ([0x12, 0x82, 0, 0, 71, 0, 0xFF, 0xFF] : Bytes) 4 2 < (spdmChain identified).length ∧
      (spdmChain identified).length ≤
        leAt ([0x12, 0x82, 0, 0, 72, 0, 0xFF, 0xFF] : Bytes) 4 2 ∧
      leAt ([0x12, 0x83, 0, 255] : Bytes) 3 1 = 255 ∧ leAt ([0x12, 0x83, 0, 1] : Bytes) 3 1 = 1 ∧ leAt ([0x12, 0x83, 0, 0] : Bytes) 3 1 = 0 ∧
      leAt ([0x12, 0x83, 1, 0] : Bytes) 2 1 ≠ 0 ∧ leAt ([0x12, 0x83, 0, 2] : Bytes) 3 1 = 2 ∧
      bit (leAt ([0x12, 0xE0, 1, 255] : Bytes) 2 1) 0 = true ∧ bit (leAt ([0x12, 0xE0, 0, 0] : Bytes) 2 1) 0 = false ∧
      leAt ([0x12, 0xE0, 1, 255] ++ List.replicate 33 0 : Bytes) 36 1 % 16 = 0 ∧
      leAt ([0x12, 0xE0, 1, 255] ++ List.replicate 32 0 ++ [1] : Bytes) 36 1 % 16 ≠ 0 ∧
      leAt ([0x12, 0xE0, 0, 24] : Bytes) 3 1 = 24 ∧ 24 ∈ spdmIndices ∧ 25 ∉ spdmIndices ∧ 4 ∉ spdmIndices :=
  ⟨rfl, by decide +kernel⟩

theorem wit_MonitorLines :
    let d : State := { State.reset with boot := { State.reset.boot with upNs := 999999 } }
    let c (t : Nat) : State := { up with mon := { up.mon with chal := some ([], 0), lockout := some 0 }, timeBase := BitVec.ofNat 64 t }
    let l := up.setF dbgBase DBG_STATUS_LOCKED 1
    let w : State := { up with stuck := [(0, .monMrd [])] }
    Functional d ∧ Functional up ∧ Functional (c 0) ∧ Functional l ∧ Functional w ∧
    monHeld w + lineChars (.monRd [65]) ≤ 256 ∧ 256 < monHeld w + lineChars (.monRd (List.replicate 253 65)) ∧
    w.stuck.any (fun e => monLine e.2) = true ∧ up.stuck.any (fun e => monLine e.2) = false ∧ d.stuck.any (fun e => monLine e.2) = false ∧
    benchUp d = false ∧ benchUp { d with boot := { d.boot with upNs := 1000000 } } = true ∧ benchUp up = true ∧ benchUp l = true ∧ monLocked l = true ∧
      monLocked (up.setF dbgBase DBG_STATUS_LOCKED 0) = false ∧
      words [65] ≠ [] ∧ numbers [120] = none ∧ numbers [49, 48] = some [16] ∧ numbers [56] = some [8] ∧ numbers [52] = some [4] ∧
      numbers [48, 32, 48] = some [0, 0] ∧ numbers [48, 32, 52, 49] = some [0, 65] ∧ numbers [49, 32, 52] = some [1, 4] ∧
      numbers [48, 32, 49, 48, 52] = some [0, 260] ∧ numbers [48, 32, 49, 49] = some [0, 17] ∧
      words ([] : Bytes) = [] ∧ words [32, 88] = [88] :: [] ∧ monNames.contains ([88].map upper) = false ∧
      (c 0).mon.chal = some ([], 0) ∧ (c 0).mon.lockout = some 0 ∧ now (c 600000000000) = 0 + 600000000000 ∧
      now (c 599999999999) < 0 + 600000000000 ∧ now (c 60000000000) = 0 + 60000000000 ∧ now (c 59999999999) < 0 + 60000000000 ∧
      up.mon.chal = none ∧ up.mon.lockout = none ∧ stewardUp up = true ∧ stewardUp d = false :=
  ⟨rfl, rfl, rfl, rfl, rfl, by decide +kernel⟩

/-- The bytes 0 to 127, the challenge the tests sign. -/
def record128 : Bytes := (List.range 128).map (BitVec.ofNat 8)

/-- A device locked by its fuse, with the test key in slot 0, that has a challenge out and an answer in its buffer. -/
def challenged (sig : Nat) : State :=
  { up with fuses := keyHash + 2 ^ 2052, fuses0 := keyHash + 2 ^ 2052 + 2 ^ 2129,
            mon := { up.mon with chal := some (record128, 0), resp := beBytes 512 keyN ++ beBytes 512 sig } }

theorem wit_MonitorCommands_unlock :
    let s := challenged sigRecord
    let b := challenged 0
    let n : State := { s with fuses0 := 2 ^ 2129 }
    let o : State := { up with fuses0 := 0 }
    Functional s ∧ Functional b ∧ Functional n ∧ Functional o ∧
    benchUp s = true ∧ numbers [48] = some [0] ∧ policyBit s 5 = true ∧ s.mon.chal = some (record128, 0) ∧
      unlockKey s 0 (slice s.mon.resp 0 512) = 0 ∧
      pssVerify (slice s.mon.resp 0 512) (slice s.mon.resp 512 512) record128 = true ∧
      pssVerify (slice b.mon.resp 0 512) (slice b.mon.resp 512 512) record128 = false ∧
      unlockKey n 0 (slice n.mon.resp 0 512) = 5 ∧ policyBit n 5 = true ∧ policyBit o 5 = false ∧
      (o.mon.resp.all (fun b => b = 0)) = true :=
  ⟨rfl, rfl, rfl, rfl, by decide +kernel⟩

theorem wit_MonitorCommands :
    let u : State := up.setF dbgBase DBG_STATUS_LOCKED 0
    let l : State := { up with mon := { up.mon with lockout := some 0 } }
    Functional u ∧ Functional l ∧
    benchUp u = true ∧ u.stuck.any (fun e => monLine e.2) = false ∧ monLocked u = false ∧ u.mon.lockout = none ∧ l.mon.lockout = some 0 ∧
      numbers [55] = some [7] ∧ words [48, 32, 102, 70] = [[48], [102, 70]] ∧
      hexNumber [49, 95, 48] = some 16 ∧ hexString [102, 70] = some [0xFF] ∧ hexString [102] = none ∧
      numbers [48, 32, 49] = some [0, 1] ∧ wordReg u hubWin = true ∧ wordReg u (hubWin + 2) = false ∧
      wordReg u (clusterWin 0 + 0x10000) = false :=
  ⟨rfl, rfl, by decide +kernel⟩

theorem wit_MonitorCommands_memory :
    let u : State := up.setF dbgBase DBG_STATUS_LOCKED 0
    let z := u.setF (bnkBase 0 0) BNK_STATE_STATE 2
    let p : State := { u with poison := [0x1000] }
    Functional u ∧ Functional z ∧ Functional p ∧ z.stuck.any (fun e => monLine e.2) = false ∧
    monMem u 0x880000000000 256 = true ∧ asleep u 0x880000000000 256 = none ∧ placeOf 0x880000000000 = .hubSram ∧
      monMem u 0xF00000000 4 = false ∧ monMem u 0x1000 256 = true ∧ placeOf 0x1000 ≠ .hubSram ∧ asleep u 0x1000 256 = none ∧
      (match (memRead u 0x1000 256).1 with | .ok _ => true | _ => false) = true ∧
      (match (memRead p 0x1000 256).1 with | .ue _ => true | _ => false) = true ∧
      monMem z (scratchWin 0) 4 = true ∧ (asleep z (scratchWin 0) 4).isSome = true ∧ benchUp z = true ∧ monLocked z = false :=
  ⟨rfl, rfl, rfl, by decide +kernel⟩

theorem wit_SmbusAnswers :
    let s := (up.setF (pwrDie 3) PWR_TEMP_HOT 0xFFF1)
    let t : State := { s with hubTemps := [-15, -17] }
    Functional s ∧ Functional t ∧
    benchUp s = true ∧ benchUp State.reset = false ∧ dieTemp s 3 = -15 ∧ dieTemp up 2 = 0 ∧
      (∀ d ∈ List.range 4, dieTemp s d ≤ 0) ∧ -15 ∈ t.hubTemps ∧ (∀ x ∈ t.hubTemps, x ≤ -15) ∧ 4 ≤ (4 : BitVec 8).toNat ∧
      7 ≤ (7 : BitVec 8).toNat :=
  ⟨rfl, rfl, by decide +kernel⟩

/-- The state after a command. -/
def nextOf (i : Instr) (s : State) : State :=
  match exec i s with
  | .next t => t
  | _ => s

/-- EXTEST loaded and then BYPASS: the pins are driven, and then the device's again (R540, R542); the controller rests, before, between
and after. -/
theorem test_boundary_register :
    let t := nextOf .jtagExtest up
    let u := nextOf (.jtagBypass 0xFF) t
    TapRests up ∧ TapRests { up with bscan := { up.bscan with tap := .testLogicReset } } ∧
    t.bscan.drive = 1 ∧ u.bscan.drive = 0 ∧ u.jtagIr = 0xFF ∧ u.scanned = true ∧ u.fresh = up.fresh + 1 ∧ t.bscan.tap = .runTest ∧
      u.bscan.tap = .runTest := by
  refine ⟨?_, ?_, by decide +kernel⟩ <;> unfold TapRests <;> decide +kernel
/-! ### The whole block -/

/-- A queue, POR_N low, and on an empty queue each slew, with nothing and with a command waiting for its access. -/
theorem wit_StepRunsFrontCommand :
    let slews (a n : Int) : State := { up with slew := a, slewN := n.toNat }
    let w := resetGo (bootAdvance up)
    up.pending = [] ∧ up.boot.porLow = false ∧ ({ up with boot := { up.boot with porLow := true } } : State).boot.porLow = true ∧
    up.slew = 0 ∧ (slews 3 7).slew ≠ 0 ∧ (slews 3 7).slewN + 1 < 10000 ∧
    0 < (slews 3 9999).slew ∧ 10000 ≤ (slews 3 9999).slewN + 1 ∧ (slews (-3) 9999).slew < 0 ∧ 10000 ≤ (slews (-3) 9999).slewN + 1 ∧
    (up.setF (fdBase 0) FIF_FD_STATUS_STARVED 1).getF (fdBase 0) FIF_FD_STATUS_STARVED = 1 ∧
    portState up 0 = 0 ∧ up.getF (rlyPort 0) RLY_P_CTRL_EN = 1 ∧ w.stuck = [] ∧
    (resetGo (bootAdvance { up with stuck := [(0, .monMrd [])] })).stuck ≠ [] :=
  ⟨rfl, rfl, rfl, rfl, by decide, by decide, by decide, by decide, by decide, by decide,
    by decide +kernel, by decide +kernel, by decide +kernel, by decide +kernel, by decide +kernel⟩

/-- The boot from flash at each stage of Table 15.7, and from the host. -/
theorem wit_StepRunsFrontCommand_boot :
    let b : State := { rom with boot := { rom.boot with bootsel := true } }
    let at' (s : State) (n : Nat) : State := s.setF hubWin MBX_BOOT_STAGE_STAGE n
    (∀ n < 3, romRuns (at' rom n) = true ∧ (at' rom n).getF hubWin MBX_STATUS_HOSTBOOT = 0 ∧
      (at' rom n).getF hubWin MBX_BOOT_STAGE_STAGE = n ∧ policyBit (at' rom n) 4 = false ∧ (at' rom n).boot.bootsel = false) ∧
    policyBit (at' b 1) 3 = false ∧ (at' b 1).boot.bootsel = true ∧ (at' b 1).getF hubWin MBX_BOOT_STAGE_STAGE = 1 ∧
    romRuns up = false ∧ up.getF hubWin MBX_BOOT_STAGE_STAGE ≠ 5 ∧
    released (at' up 5) = true ∧ (at' up 5).getF hubWin MBX_BOOT_STAGE_STAGE = 5 ∧
    released { at' up 5 with boot := { up.boot with porLow := true } } = false ∧
    (at' up 3).getF hubWin MBX_BOOT_STAGE_STAGE = 3 ∧ 6 ≤ (at' up 6).getF hubWin MBX_BOOT_STAGE_STAGE := by decide +kernel

theorem wit_ScannedDeviceStops :
    ({ up with scanned := true } : State).scanned = true ∧ Sys2Proof.Spec.acts .wdogKick = false ∧ 10000 ≤ 10000 := by decide

theorem wit_StepKeepsInvariant :
    Inv State.reset ∧ step { State.reset with pending := [.wdogKick] } =
      .next { State.reset with boot := { State.reset.boot with kick := 0 } } :=
  ⟨⟨by decide +kernel, by decide, fun _ h => h, .inl rfl⟩, rfl⟩

theorem wit_CommandsKeep :
    exec .trstNAssert { up with hubHot := true, fuses := 1 } = .next (tapReset { up with hubHot := true, fuses := 1 }) ∧
      (1 : Nat).testBit 0 = true := ⟨rfl, by decide⟩

theorem wit_ResetLeaves : ∀ x ∈ [rsPOR, rsPERST, rsWARM, rsFLR], x ∈ [rsPOR, rsPERST, rsWARM, rsFLR] := by decide

/-! ## A refused term for each check of WellFormed -/

theorem test_wf_lengths :
    Instr.wf (.bar2Read 0 0) = false ∧ Instr.wf (.bar2Read 0xFFFFFFF 2) = false ∧ Instr.wf (.bar2Read 0xFFFFFFF 1) = true ∧
    Instr.wf (.bar2Write 0 []) = false ∧ Instr.wf (.bar2Write 0xFFFFFFF [0, 0]) = false ∧
    Instr.wf (.fifApertureWrite 0 127 [0, 0]) = false ∧ Instr.wf (.fifApertureWrite 0 127 [0]) = true ∧
    Instr.wf (.gustFeedWrite 0 0 0 [0]) = false ∧ Instr.wf (.gustFeedWrite 0 0 1 (List.replicate 64 0)) = false := by
  decide +kernel

theorem test_wf_addresses :
    Instr.wf (.coreConfigWrite 0 0x10002 0) = false ∧ Instr.wf (.hqConfigWrite 0 0 2 0) = false ∧
    Instr.wf (.hqConfigWrite 0 0 0x18 0) = false ∧ Instr.wf (.hqConfigWrite 0 0 0x14 0) = true ∧
    Instr.wf (.readClear false 2 none) = true ∧ Instr.wf (.readClear true 2 none) = false ∧ Instr.wf (.readClear true 0x10000 none) = false ∧
    Instr.wf (.registerWrite true 0x10000 0 0) = false ∧ Instr.wf (.registerWrite false 1 0 0) = true ∧
    Instr.wf (.configurationRequest true 2 0 false) = false := by decide +kernel

theorem test_wf_flits :
    (∀ i ∈ [Instr.idleFlit 0 1 0, .trainFlit 0 0 0, .syncFlit 0 0 0, .cmdFlit 0 0 0, .cplFlit 0 0 0, .fcredFlit 0 0 0,
      .mrdFlit 0 0 0 none, .mwrFlit 0 0 0, .irqFlit 0 0 0, .mcplFlit 0 0 0, .fhdrFlit 0 0 0, .fdataFlit 0 0 0, .fendFlit 0 0 0],
      i.wf = false) ∧ Instr.wf (.fendFlit 0 0x132 0) = true := by decide +kernel

theorem test_wf_texts :
    (∀ i ∈ [Instr.getVersion [0x12, 0, 0, 0], .getCapabilities [], .negotiateAlgorithms [], .getDigests [], .getCertificate [],
      .challenge [0x12, 0x83], .getMeasurements [], .spdmUnsupportedRequest [0x12, 0x84, 0, 0], .jtagBypass 6,
      .smbUnsupportedRequest true 3], i.wf = false) ∧
    (∀ i ∈ [Instr.monHelp, .monId, .monStat, .monBaud, .monChal, .monRsp, .monUnlk, .monLock, .monRd, .monPk, .monWr, .monMrd,
      .monMwr, .monLog, .monFuse, fun a => .monBurn a false, .monitorUnknownCommand],
      (i (List.replicate 257 32)).wf = false ∧ (i (List.replicate 251 32)).wf = true) := by decide +kernel

/-! ## Worked examples. The expected values are the spec's own or worked by hand from its rules. -/

/-- The state after a command. -/
def after (c : Instr) (s : State) : Option State := stepNext { s with pending := [c] }

/-- The addresses of core 2.3.5 and cluster 2.3 (R4, R9: the examples of the spec). -/
theorem test_addresses :
    scratchWin 93 = 0x823500000000 ∧ clusterMem 11 = 0x823F00000000 ∧ coreWin 93 = 0xF23500000000 := by decide +kernel

/-- SHA-512 of "abc" (FIPS 180-4) and the CRC-32 of "123456789" (the check value of IEEE 802.3). -/
theorem test_hashes :
    sha512 [97, 98, 99] = beBytes 64 (0xddaf35a193617abacc417349ae20413112e6fa4e89a97ea20a9eeee64b55d39a * 2 ^ 256 +
      0x2192992a274fc1a836ba3c23a3feebbd454d4423643ce80e2a9ac94fa54ca49f) ∧
    crc32 [49, 50, 51, 52, 53, 54, 55, 56, 57] = 0xCBF43926 := by decide +kernel

/-- The two vectors of the worked case of R97 and those of the worked case of R155. -/
theorem test_group_folds :
    let f (a : Int) (p e : Int) (w : Nat) := foldColumn 0xE 0xE 16 (.int [([p], e)]) [1] [w] { Acc.zero with i := a }
    f 0 150000 (-3) 1 = ({ Acc.zero with i := 2457600000 }, ⟨0, 0⟩) ∧
    f 2457600000 (-1000) (-21) 1 = ({ Acc.zero with i := 2457599937 }, ⟨0, 0⟩) ∧
    f 0 12345 (-2) 0xFA = ({ Acc.zero with i := 3160320 }, ⟨0, 0⟩) ∧
    f 3160320 (-4321) (-2) 0xFB = ({ Acc.zero with i := 947968 }, ⟨0, 0⟩) := by decide +kernel

/-- Rescale, bias and row shift of the worked case of R155. -/
theorem test_channel_rescale :
    stepsInt (FV.ofQ (Q.ofInt 947968) false) 0 0 0 12345678 10 16 0 (-2500) = (171893, CFlags.none) ∧
    rowShift 2 0 (FV.ofQ (Q.ofInt 250000) false) 0 = 11 ∧ Q.round .rna ⟨171893, 2048⟩ = 84 := by decide +kernel

/-- The history shifts of Table 4.10: frames 100, 101, 103, 104. -/
theorem test_history_shifts :
    [3100, 20000, 2500, 2600].map (fun m => rowShift 2 0 (FV.ofQ (Q.ofInt m) false) 1) = [6, 9, 6, 6] := by decide +kernel

/-- The worked case of R107: 0.3 into FP8-E4M3 under RNA and SR. -/
theorem test_fp8_conversion :
    let c (x : Int) (r : Rnd) := encodeGrid 7 (decide (x < 0)) (roundGrid 7 r ⟨x, 2 ^ 25⟩)
    c 10066330 .rna = 0x2A ∧ c 10066330 (.sr 0x80000000) = 0x2A ∧ c 10066330 (.sr 0x40000000) = 0x29 ∧
    c (-10066330) .rna = 0xAA ∧ c (-10066330) (.sr 2576982016) = 0xA9 ∧ c (-10066330) (.sr 2576982015) = 0xAA := by
  decide +kernel

/-- The spec's example of a learnt correction (R161), and ties away from zero (R102). -/
theorem test_rounding :
    ((Q.ofInt 12345678).mulRoot16 5).round .rna = 15331577 ∧ Q.round .rna ⟨5, 2⟩ = 3 ∧ Q.round .rna ⟨-5, 2⟩ = -3 := by
  decide +kernel

/-- A draw of R104, worked by hand. -/
theorem test_draw : mix 1 = 0xAB656AC ∧ draw 5 7 3 = 0x26AB6ABE := by decide +kernel

/-- SEL 0x003 gives four records in 960 bytes (the spec's example of R521). -/
theorem test_quote_length : (quoteBody State.reset [] 3).length + 512 = 960 := by decide +kernel

/-- An addition in an address program wraps modulo 2^32 (R67). -/
theorem test_sag_add_wraps :
    (after (.sagAdd 127 15) (atInstr (3 * 2 ^ 28 + 2 ^ 25) { SagSt.reset with a := [1, 0xFFFFFFFF, 0, 0, 0, 0, 0, 0] })).map
      (fun t => ((t.sag 127 15).a, (t.sag 127 15).pc)) = some ([1, 0, 0, 0, 0, 0, 0, 0], 1) := by decide +kernel

/-- SETI and MODI in an address program: 22 bits unsigned, and the remainder by IMM (R67). -/
theorem test_sag_seti_modi :
    (after (.sagSeti 127 15) (atInstr (2 ^ 28 + 2 ^ 25 + 0x3FFFFF) SagSt.reset)).map (fun t => (t.sag 127 15).a) =
      some [0, 0x3FFFFF, 0, 0, 0, 0, 0, 0] ∧
    (after (.sagModi 127 15) (atInstr (4 * 2 ^ 28 + 7) { SagSt.reset with a := [23, 0, 0, 0, 0, 0, 0, 0] })).map
      (fun t => (t.sag 127 15).a) = some [2, 0, 0, 0, 0, 0, 0, 0] := by decide +kernel

/-- A counter of two takes LOOP back once and then on (R67). -/
theorem test_sag_loop :
    (after (.sagLoop 127 15) (atInstr (8 * 2 ^ 28 + 5) { SagSt.reset with pc := 9, cnt := [2, 0, 0, 0] })).map
      (fun t => ((t.sag 127 15).cnt, (t.sag 127 15).pc)) = some ([1, 0, 0, 0], 5) ∧
    (after (.sagLoop 127 15) (atInstr (8 * 2 ^ 28 + 5) { SagSt.reset with pc := 9, cnt := [1, 0, 0, 0] })).map
      (fun t => ((t.sag 127 15).cnt, (t.sag 127 15).pc)) = some ([0, 0, 0, 0], 10) := by decide +kernel

/-- The worked case of R303: channel, location and check field of an address, and the highest line of a channel. -/
theorem test_line_location :
    channelOf 0x2123456780 = 7 ∧ lineOf 0x2123456780 = 4772186 ∧ lineLocation 0x2123456780 = 0x136B06C0 ∧
      lineCheck 0x2123456780 = 0x136B07EC ∧ lineAddr 2 7 4772186 = 0x2123456780 ∧
      lineLocation (lineAddr 0 15 62914559) = 4294967168 ∧ lineOf (lineAddr 3 15 62914559) = 62914559 := by decide +kernel

/-- A nanosecond passes on an empty queue. -/
theorem test_idle_tick : (stepNext State.reset).map (·.timeBase) = some 1 := by decide +kernel

/-- The WARN level of 700 mV keeps a target at 720 mV or above; 850 mV is the most, and 748 rounds down to 745 (R483, R487). -/
theorem test_vset :
    [0, 748, 1023].map (fun v => (after (.vsetWrite 2 v) State.reset).map (·.out)) =
      [some [.avs 2 720], some [.avs 2 745], some [.avs 2 850]] := by decide +kernel

/-- −15/16 °C is answered as −1 (R555). -/
theorem test_smbus_temperature :
    (after .smbDieTemp ((List.range 4).foldl (fun s d => s.setF (pwrDie d) PWR_TEMP_HOT 0xFFF1) up)).map (·.out) =
      some [.smbus 0xFF] := by decide +kernel

/-- EN = 1 takes a port from DOWN to DETECT, and a signal there to TRAIN (R459). -/
theorem test_port_states :
    (after (.rlyPortEnable 7) State.reset).map (fun t => portState t 7) = some 1 ∧
    (after (.rlySignalDetect 7) (portIn 1)).map (fun t => portState t 7) = some 2 := by decide +kernel

/-- An unknown name on the monitor is answered ER 01 with the prompt (R528, R530). -/
theorem test_monitor_unknown :
    (after (.monitorUnknownCommand [88]) up).map (·.out) = some [.uart [69, 82, 32, 48, 49, 13, 10, 62, 32]] := by decide +kernel

/-- IDCODE of stepping B0 and of A1 (R541). -/
theorem test_idcode :
    (after .jtagIdcode State.reset).map (·.out) = some [.tdo 32 0x2D1285A7] ∧
    (after .jtagIdcode { State.reset with b0 := false }).map (·.out) = some [.tdo 32 0x1D1285A7] := by decide +kernel

/-- No word of the table's bits spells a command: the table gives no bits. -/
theorem test_decode_none : decodeTableWord 32 0 = none := by decide

end Sys2Proof.Tests
end

section
/-! Commands that have their effect, register words changed alone, and work that leaves no write of a commit group. -/

namespace Sys2Proof.Machine
open Sys2Proof Sys2Proof.Machine.Reg

/-- A command whose effect is `t` answers `t` while the functional state is defined (R543). -/
theorem live_of_functional {s : State} (h : Functional s) (t : State) : live s t = .next t := by
  unfold Functional at h
  simp [live, h]

/-! ### Register words changed alone -/

theorem OnlyRegs.refl (s : State) (l : List Nat) : OnlyRegs s s l := ⟨rfl, fun _ _ => rfl⟩

theorem OnlyRegs.setReg {s t : State} {l : List Nat} (h : OnlyRegs s t l) {a : Nat} (v : Nat) (ha : a ∈ l) :
    OnlyRegs s (t.setReg a v) l :=
  ⟨h.1, fun b hb => (State.reg_setReg_ne t v (ne_of_mem_of_not_mem ha hb).symm).trans (h.2 b hb)⟩

theorem OnlyRegs.setF {s t : State} {l : List Nat} (h : OnlyRegs s t l) {b : Nat} {f : Fld} (v : Nat) (hb : b + f.off ∈ l) :
    OnlyRegs s (t.setF b f v) l := h.setReg _ hb

theorem OnlyRegs.maxF {s t : State} {l : List Nat} (h : OnlyRegs s t l) {b : Nat} {f : Fld} (v : Nat) (hb : b + f.off ∈ l) :
    OnlyRegs s (t.maxF b f v) l := by
  unfold State.maxF
  split
  · exact h.setF v hb
  · exact h

theorem State.getF_setReg_ne (s : State) {a b : Nat} {f : Fld} (v : Nat) (h : b + f.off ≠ a) :
    (s.setReg a v).getF b f = s.getF b f := by
  simp only [State.getF, State.reg_setReg_ne s v h]

theorem State.reg_maxF_ne (s : State) {b : Nat} {f : Fld} (v : Nat) {a : Nat} (h : a ≠ b + f.off) :
    (s.maxF b f v).reg a = s.reg a := by
  unfold State.maxF
  split
  · exact State.reg_setF_ne s b f v a h
  · rfl

/-- A field raised to a value that fits it reads as the larger of the two. -/
theorem State.getF_maxF_same (s : State) (b : Nat) (f : Fld) {v : Nat} (hf : f.lsb + f.width ≤ 32) (hv : v < 2 ^ f.width) :
    (s.maxF b f v).getF b f = max (s.getF b f) v := by
  unfold State.maxF
  split
  · next h => rw [State.getF_setF_same s b f v hf, Nat.mod_eq_of_lt hv, max_eq_right h.le]
  · next h => rw [max_eq_left (not_lt.mp h)]

/-! ### Work with no writes of a group (R427) -/

/-- Work that leaves the writes of a group empty is carried out as it stands. -/
theorem carryOut_of_writes_nil {s : State} {work : State → State} (h : (work { s with writes := [] }).writes = []) :
    carryOut s work = { work { s with writes := [] } with writes := s.writes } := by
  simp only [carryOut, h, List.foldl_nil]

end Sys2Proof.Machine
end

section
/-! Transaction units: staging, clearing and committing (Table 12.10, R428 to R431), and the fence registers (R439). -/

namespace Sys2Proof.Machine
open Sys2Proof Sys2Proof.Machine.Reg

theorem exec_txuActWrite (u : Fin 17) (j : Fin 64) (k : Fin 4) (v : BitVec 32) (s : State) :
    exec (.txuActWrite u j k v) s = live s (txuActWrite s u j k v.toNat) := rfl

theorem exec_txuClear (u : Fin 17) (s : State) : exec (.txuClear u) s = live s (txuClear s u) := rfl

theorem exec_txuCommit (u : Fin 17) (s : State) :
    exec (.txuCommit u) s = live s (carryOut s (fun t => txuCommit t u)) := rfl

theorem exec_txuFenceSet (u : Fin 17) (mask : BitVec 8) (s : State) :
    exec (.txuFenceSet u mask) s = live s (txuFence s u mask.toNat) := rfl

theorem txuBusy_iff (s : State) (u : Nat) :
    txuBusy s u = true ↔ s.getF (txuBase u) TXU_STATUS_STATE = 2 ∨ s.getF (txuBase u) TXU_STATUS_STATE = 3 := by
  simp only [txuBusy, Bool.or_eq_true, decide_eq_true_eq]
  rfl

theorem not_txuBusy {s : State} {u : Nat} (h2 : s.getF (txuBase u) TXU_STATUS_STATE ≠ 2)
    (h3 : s.getF (txuBase u) TXU_STATUS_STATE ≠ 3) : ¬ txuBusy s u = true := by
  rw [txuBusy_iff]
  exact not_or.mpr ⟨h2, h3⟩

/-! ### Staging (R429, R430, R13) -/

/-- Word 0 of an action record without its reserved bits [7:4] (Table 12.1). -/
theorem setBits_reserved_nibble (v : Nat) : setBits v 4 4 0 = v - v % 2 ^ 8 + v % 2 ^ 4 := by
  rw [setBits_eq]
  omega

theorem txuActWrite_busy {s : State} {u : Nat} (h : txuBusy s u = true) (i k v : Nat) :
    txuActWrite s u i k v = s.setF (txuBase u) TXU_STATUS_BUSY_ERR 1 := by
  simp [txuActWrite, h]

theorem txuActWrite_idle {s : State} {u : Nat} (h : ¬ txuBusy s u = true) (i k v : Nat) :
    txuActWrite s u i k v =
      ((s.setReg (txuBase u + 0x100 + 16 * i + 4 * k)
        (if k = 0 then setBits v 4 4 0 else if k = 1 then v % 2 ^ 24 else v)).maxF (txuBase u) TXU_STATUS_COUNT (i + 1)).setF
        (txuBase u) TXU_STATUS_STATE 1 := by
  simp [txuActWrite, h]

/-- What staging leaves: the word without its reserved bits, a unit that is STAGED, and a count that covers the record. -/
theorem txuActWrite_staged {s : State} {u : Nat} (h : ¬ txuBusy s u = true) {i k v : Nat} (hi : i < 64) (hv : v < 2 ^ 32) :
    (txuActWrite s u i k v).reg (txuBase u + 0x100 + 16 * i + 4 * k) =
        (if k = 0 then v - v % 2 ^ 8 + v % 2 ^ 4 else if k = 1 then v % 2 ^ 24 else v) ∧
      (txuActWrite s u i k v).getF (txuBase u) TXU_STATUS_STATE = 1 ∧
      (txuActWrite s u i k v).getF (txuBase u) TXU_STATUS_COUNT = max (s.getF (txuBase u) TXU_STATUS_COUNT) (i + 1) ∧
      OnlyRegs s (txuActWrite s u i k v) [txuBase u + 0x100 + 16 * i + 4 * k, txuBase u + 4] := by
  have hw : txuBase u + 0x100 + 16 * i + 4 * k ≠ txuBase u + 4 := by omega
  rw [txuActWrite_idle h]
  refine ⟨?_, ?_, ?_, ?_⟩
  · rw [State.reg_setF_ne _ _ _ _ _ hw, State.reg_maxF_ne _ _ hw, State.reg_setReg_same, setBits_reserved_nibble]
    split
    · omega
    · split <;> omega
  · exact State.getF_setF_same _ _ _ _ (by decide)
  · rw [State.getF_setF_apart _ _ _ _ _ _ (by decide) (.inr (.inl (by decide))),
      State.getF_maxF_same _ _ _ (by decide) (show i + 1 < 128 by omega), State.getF_setReg_ne _ _ hw.symm]
  · exact (((OnlyRegs.refl s _).setReg _ List.mem_cons_self).maxF _ (List.mem_cons_of_mem _ List.mem_cons_self)).setF _
      (List.mem_cons_of_mem _ List.mem_cons_self)

/-! ### Clearing (R430) -/

theorem txuClear_staged {s : State} {u : Nat} (h : txuState s u = 1 ∨ txuState s u = 5) :
    txuClear s u = (s.setF (txuBase u) TXU_STATUS_COUNT 0).setF (txuBase u) TXU_STATUS_STATE 0 := if_pos h

theorem txuClear_other {s : State} {u : Nat} (h : ¬ (txuState s u = 1 ∨ txuState s u = 5)) : txuClear s u = s := if_neg h

/-! ### Committing (R428 to R431) -/

theorem txuCommit_busy {s : State} {u : Nat} (h : txuBusy s u = true) :
    txuCommit s u = s.setF (txuBase u) TXU_STATUS_BUSY_ERR 1 := by
  simp [txuCommit, h]

theorem txuCommit_cluster {s : State} {u : Nat} (h : ¬ txuBusy s u = true) (hu : u < 16) : txuCommit s u = localCommit s u := by
  simp [txuCommit, h, hu]

theorem localCommit_empty {s : State} {u : Nat} (h : txuCount s u = 0) :
    localCommit s u = s.setF (txuBase u) TXU_STATUS_STATE 4 := by
  simp [localCommit, h]

theorem localCommit_fails {s : State} {u n w : Nat} (h : txuCount s u ≠ 0) (hf : groupFault s u (staged s u) = some (n, w)) :
    localCommit s u =
      ((txuFail s u n w).setF (txuBase u) TXU_STATUS_STATE 5).addF (txuBase u) TXU_FAILS_COUNT 1 := by
  simp [localCommit, h, hf]

theorem localCommit_applies {s : State} {u : Nat} (h : txuCount s u ≠ 0) (hf : groupFault s u (staged s u) = none) :
    localCommit s u = txuDone (txuFail (applyGroup s u (staged s u)) u 0 0) u := by
  simp [localCommit, h, hf]

theorem txuCommit_hub_empty {s : State} (h : ¬ txuBusy s 16 = true) (hc : txuCount s 16 = 0)
    (hp : maskBits 16 (s.getF (txuBase 16) TXU_PART_CLUSTERS) = []) :
    txuCommit s 16 = s.setF (txuBase 16) TXU_STATUS_STATE 4 := by
  simp [txuCommit, h, hc, hp]

/-- A commit in the hub begins the two phases with the clusters of TXU_PART (R431). -/
theorem txuCommit_hub {s : State} (h : ¬ txuBusy s 16 = true)
    (hp : txuCount s 16 ≠ 0 ∨ maskBits 16 (s.getF (txuBase 16) TXU_PART_CLUSTERS) ≠ []) :
    txuCommit s 16 = startGroup (beginGroup { s with groups :=
      { kind := 0, plan := 8, acts := (maskBits 16 (s.getF (txuBase 16) TXU_PART_CLUSTERS)).map (fun n => (n, staged s n))
        hub := staged s 16 } :: s.groups }) := by
  have hn : ¬ (txuCount s 16 = 0 ∧ maskBits 16 (s.getF (txuBase 16) TXU_PART_CLUSTERS) = []) := by tauto
  simp [txuCommit, h, hn]

/-- A commit that writes only registers is carried out as it stands. -/
theorem exec_txuCommit_of_eq {s t : State} {u : Fin 17} (hs : Functional s)
    (h : txuCommit { s with writes := [] } u = { t with writes := [] }) (ht : t.writes = s.writes) :
    exec (.txuCommit u) s = .next t := by
  rw [exec_txuCommit, live_of_functional hs, carryOut_of_writes_nil (by rw [h]), h, ← ht]

/-! ### The obligation -/

/-- Settles O23, command by command: a busy unit refuses, an idle one stages, and a commit is that of its cluster or of the
hub. -/
theorem transactionsStaged : Obligations.TransactionsStaged := by
  unfold Obligations.TransactionsStaged
  refine ⟨fun s u j k v hs => ⟨fun hb => ?_, fun h2 h3 => ?_⟩, fun s u hs => ⟨fun h => ?_, fun h1 h5 => ?_⟩,
    fun s u hs => ⟨fun hb => ?_, fun h2 h3 hu hc => ⟨fun n w hf => ?_, fun hf => ?_⟩, fun h2 h3 hc hp => ?_,
      fun h2 h3 hu hc => ?_⟩, fun s u mask hs => ?_⟩
  · rw [exec_txuActWrite, live_of_functional hs, txuActWrite_busy ((txuBusy_iff s u).mpr hb)]
  · refine ⟨_, by rw [exec_txuActWrite, live_of_functional hs], ?_⟩
    exact txuActWrite_staged (not_txuBusy h2 h3) j.isLt v.isLt
  · rw [exec_txuClear, live_of_functional hs, txuClear_staged h]
  · rw [exec_txuClear, live_of_functional hs, txuClear_other (not_or.mpr ⟨h1, h5⟩)]
  · exact exec_txuCommit_of_eq hs (txuCommit_busy (s := { s with writes := [] }) ((txuBusy_iff s u).mpr hb)) rfl
  · have hi := not_txuBusy h2 h3
    refine exec_txuCommit_of_eq hs ?_ rfl
    rw [txuCommit_cluster (s := { s with writes := [] }) hi hu, localCommit_fails (s := { s with writes := [] }) hc hf]
    rfl
  · have hi := not_txuBusy h2 h3
    rw [exec_txuCommit, live_of_functional hs, carryOut, carryOut,
      txuCommit_cluster (s := { s with writes := [] }) hi hu, localCommit_applies (s := { s with writes := [] }) hc hf]
    rfl
  · have hi := not_txuBusy h2 h3
    refine exec_txuCommit_of_eq hs ?_ rfl
    by_cases hu : u.val < 16
    · exact (txuCommit_cluster (s := { s with writes := [] }) hi hu).trans (localCommit_empty hc)
    · have h16 : u.val = 16 := by omega
      rw [h16] at hi hc hp ⊢
      exact txuCommit_hub_empty (s := { s with writes := [] }) hi hc (hp rfl)
  · have hi := not_txuBusy h2 h3
    rw [hu] at hi hc
    change exec (.txuCommit u) s = .next (carryOut s _)
    rw [exec_txuCommit, live_of_functional hs, hu, carryOut, carryOut,
      txuCommit_hub (s := { s with writes := [] }) hi hc]
    rfl
  · rw [exec_txuFenceSet, live_of_functional hs]
    by_cases hu : u.val = 16
    · simp [txuFence, hu]
    · simp [txuFence, hu, maskBits, show ¬ 16 ≤ u.val by omega]

end Sys2Proof.Machine
end

section
/-! Where register words lie (R280 to R284), what an access of the steward or the host to one is, and what the register map says
of the bits that a write clears (Table 0.6). -/

namespace Sys2Proof.Machine
open Sys2Proof Sys2Proof.Machine.Reg

/-! ### Register windows (R282) -/

theorem hubWin_eq : hubWin = 0xF80000000000 := rfl

theorem windowOf_hub {o : Nat} (h : o < 2 ^ 20) : windowOf (hubWin + o) = some (.hub, o) := by
  rw [windowOf, if_pos (by omega), Nat.add_sub_cancel_left]

/-- The part of the map that holds the compute dies' register windows. -/
theorem windowOf_dies {a : Nat} (h : a < hubWin) :
    windowOf a = if 0xF00000000000 ≤ a ∧ a < 0xF40000000000 then
      if bits a 36 4 = 0xF ∧ bits a 32 4 = 0xF then some (.die, a % 2 ^ 32)
      else if bits a 36 4 < 4 ∧ bits a 32 4 = 0xF then some (.cluster, a % 2 ^ 32)
      else if bits a 36 4 < 4 ∧ bits a 32 4 < 8 then some (.core, a % 2 ^ 32)
      else none
    else none := by
  rw [windowOf, if_neg (by omega)]

theorem windowOf_above {a : Nat} (h : hubWin + 2 ^ 20 ≤ a) : windowOf a = none := by
  have := hubWin_eq
  rw [windowOf, if_neg (by omega), if_neg (by omega)]

/-- A register word of a compute die. -/
theorem lt_of_windowOf_dies {a o : Nat} {w : Win} (h : windowOf a = some (w, o)) (ha : a < hubWin) :
    w ≠ .hub ∧ 0xF00000000000 ≤ a ∧ o = a % 2 ^ 32 := by
  rw [windowOf_dies ha] at h
  have found {v : Win} (hv : v ≠ .hub) (hlo : 0xF00000000000 ≤ a) (e : some (v, a % 2 ^ 32) = some (w, o)) :
      w ≠ .hub ∧ 0xF00000000000 ≤ a ∧ o = a % 2 ^ 32 := by
    simp only [Option.some.injEq, Prod.mk.injEq] at e
    exact ⟨e.1 ▸ hv, hlo, e.2.symm⟩
  split at h
  · next hr =>
    split at h
    · exact found (by decide) hr.1 h
    · split at h
      · exact found (by decide) hr.1 h
      · split at h
        · exact found (by decide) hr.1 h
        · cases h
  · cases h

/-- An address in the hub's register window. -/
theorem eq_of_windowOf_hub {a o : Nat} (h : windowOf a = some (.hub, o)) : a = hubWin + o ∧ o < 2 ^ 20 := by
  by_cases hl : a < hubWin
  · exact absurd rfl (lt_of_windowOf_dies h hl).1
  · by_cases hg : hubWin + 2 ^ 20 ≤ a
    · simp [windowOf_above hg] at h
    · obtain ⟨d, rfl⟩ := Nat.exists_eq_add_of_le (not_lt.mp hl)
      rw [windowOf_hub (by omega)] at h
      simp only [Option.some.injEq, Prod.mk.injEq, true_and] at h
      omega

/-- An address in a register window of a compute die. -/
theorem lt_of_windowOf {a o : Nat} {w : Win} (h : windowOf a = some (w, o)) (hw : w ≠ .hub) :
    0xF00000000000 ≤ a ∧ a < hubWin ∧ o = a % 2 ^ 32 := by
  have hl : a < hubWin := by
    by_contra hl
    obtain ⟨d, rfl⟩ := Nat.exists_eq_add_of_le (not_lt.mp hl)
    by_cases hd : d < 2 ^ 20
    · simp_all [windowOf_hub hd]
    · simp [windowOf_above (show hubWin + 2 ^ 20 ≤ hubWin + d by omega)] at h
  obtain ⟨_, h1, h2⟩ := lt_of_windowOf_dies h hl
  exact ⟨h1, hl, h2⟩

theorem le_of_windowOf {a : Nat} (h : (windowOf a).isSome = true) : 0xF00000000000 ≤ a := by
  obtain ⟨⟨w, o⟩, h⟩ := Option.isSome_iff_exists.mp h
  by_cases hw : w = .hub
  · have := (eq_of_windowOf_hub (hw ▸ h)).1
    have := hubWin_eq
    omega
  · exact (lt_of_windowOf h hw).1

/-! ### Places (R280, R281) -/

/-- Memory ends below the register windows. -/
theorem placeOf_window {a o : Nat} {w : Win} (h : windowOf a = some (w, o)) :
    placeOf a = if w = .hub then .hubReg else .dieReg := by
  have ha := le_of_windowOf (a := a) (by rw [h]; rfl)
  rw [placeOf, if_neg (by omega), if_neg (by omega), if_neg (by omega), h]
  cases w <;> rfl

theorem placeOf_hub {a o : Nat} (h : windowOf a = some (.hub, o)) : placeOf a = .hubReg := by
  rw [placeOf_window h, if_pos rfl]

theorem placeOf_die {a o : Nat} {w : Win} (h : windowOf a = some (w, o)) (hw : w ≠ .hub) : placeOf a = .dieReg := by
  rw [placeOf_window h, if_neg hw]

/-- What stands at a register place is a word of a window. -/
theorem windowOf_of_placeOf {a : Nat} (h : placeOf a = .dieReg) : ∃ w o, windowOf a = some (w, o) ∧ w ≠ .hub := by
  unfold placeOf at h
  split at h
  · split at h <;> simp at h
  · split at h
    · simp only at h
      repeat' split at h
      all_goals simp at h
    · split at h
      · simp at h
      · cases hw : windowOf a with
        | none => simp [hw] at h
        | some p =>
          obtain ⟨w, o⟩ := p
          refine ⟨w, o, rfl, ?_⟩
          rintro rfl
          simp [hw] at h

theorem reachable_hub {a o : Nat} (s : State) (h : windowOf a = some (.hub, o)) : reachable s a = true := by
  simp [reachable, placeDie, placeOf_hub h]

theorem not_reachable_of_unmapped {a : Nat} (s : State) (h : placeOf a = .unmapped) : reachable s a = false := by
  simp [reachable, h]

/-- A gust feed window lies in the upper part of a cluster's register window (R283). -/
theorem feedWindow_none {a o : Nat} {w : Win} (h : windowOf a = some (w, o))
    (hn : w = .cluster → o < 0x10000 ∨ 0x18000 ≤ o) : feedWindow a = none := by
  unfold feedWindow
  rw [h]
  cases w with
  | cluster => exact if_neg (by have := hn rfl; omega)
  | core => rfl
  | die => rfl
  | hub => rfl

theorem windowOf_of_feedWindow {a : Nat} (h : (feedWindow a).isSome = true) : ∃ o, windowOf a = some (.cluster, o) := by
  unfold feedWindow at h
  split at h
  · next o hw => exact ⟨o, hw⟩
  · simp at h

theorem placeOf_of_feedWindow {a : Nat} (h : (feedWindow a).isSome = true) : placeOf a = .dieReg := by
  obtain ⟨o, ho⟩ := windowOf_of_feedWindow h
  exact placeOf_die ho (by decide)

/-! ### The aliases of the mailbox block (R398) -/

theorem aliasOf_of_not_mailbox {a : Nat} (h : a < hubWin ∨ hubWin + 0x10000 ≤ a) : aliasOf a = a := if_neg (by omega)

theorem bar0Addr_mailbox {n : Nat} (h : n < 0x3000) : bar0Addr n = hubWin + n := by
  rw [bar0Addr, if_neg (by omega), if_neg (by omega)]

/-- The address that BAR0 reaches stands for itself. -/
theorem aliasOf_bar0Addr {n : Nat} (h : n < 0x10000) : aliasOf (bar0Addr n) = bar0Addr n := by
  by_cases hc : 0x3000 ≤ n ∧ n < 0x4000
  · rw [bar0Addr, if_pos hc, aliasOf_of_not_mailbox (by omega)]
  · by_cases hf : 0x8000 ≤ n
    · rw [bar0Addr, if_neg hc, if_pos hf, aliasOf_of_not_mailbox (by omega)]
    · have he : bar0Addr n = hubWin + n := by rw [bar0Addr, if_neg hc, if_neg hf]
      rw [he, aliasOf, if_pos (by omega), Nat.add_sub_cancel_left, he]

end Sys2Proof.Machine
end

section
/-! Reads and writes of register words by the host and the steward (R12, R14, R121, R283, R284, R397). -/

namespace Sys2Proof.Machine
open Sys2Proof Sys2Proof.Machine.Reg

theorem exec_registerWrite (host : Bool) (a : BitVec 48) (v sets : BitVec 32) (s : State) :
    exec (.registerWrite host a v sets) s = live s (registerWrite s host a.toNat v.toNat sets.toNat) := rfl

theorem exec_readClear (host : Bool) (a : BitVec 48) (inc : Option (BitVec 32)) (s : State) :
    exec (.readClear host a inc) s = live s (registerRead s host a.toNat inc) := rfl

theorem exec_cadTimeLoRead (host : Bool) (s : State) :
    exec (.cadTimeLoRead host) s = live s (registerRead s host (if host then 0x3800 else hubWin + 0x10800) none) := rfl

theorem exec_bar0InvalidAccess (write : Bool) (s : State) :
    exec (.bar0InvalidAccess write) s = live s (bar0Invalid s write) := rfl

/-! ### What an access is -/

theorem wordReg_iff (s : State) (a : Nat) :
    wordReg s a = true ↔ a % 4 = 0 ∧ reachable s a = true ∧ (windowOf a).isSome = true ∧ feedWindow a = none := by
  simp [wordReg, and_assoc]

theorem registerRead_steward {s : State} (hu : stewardUp s = true) (a : Nat) (inc : Option (BitVec 32)) :
    registerRead s false a inc = if wordReg s a then (regRead s a inc).2 else noRegister s a := by
  simp [registerRead, hu]

theorem registerRead_host {s : State} (hu : endpointUp s = true) {a : Nat} (ha : a < 0x10000) (h4 : a % 4 = 0)
    (inc : Option (BitVec 32)) :
    registerRead s true a inc =
      (regRead s (bar0Addr a) inc).2.emit (.readData (natToBytes 4 (regRead s (bar0Addr a) inc).1)) := by
  simp [registerRead, hu, ha, h4]

theorem registerWrite_steward {s : State} (hu : stewardUp s = true) (a v sets : Nat) :
    registerWrite s false a v sets =
      if wordReg s a then coincide s (aliasOf a) v sets (fun t w => stewardRegWrite t a w) else noRegister s a := by
  simp [registerWrite, hu]

theorem registerWrite_host {s : State} (hu : endpointUp s = true) {a : Nat} (ha : a < 0x10000) (h4 : a % 4 = 0) (v sets : Nat) :
    registerWrite s true a v sets = coincide s (bar0Addr a) v sets (fun t w => regWrite t (hubWin + a) w) := by
  simp [registerWrite, hu, ha, h4, bar0Write]

/-- An address that no memory and no register word lies at is a bus error (R284). -/
theorem noRegister_of_not_memory {s : State} {a : Nat}
    (h : reachable s a = false ∨ placeOf a = .dieReg ∨ placeOf a = .hubReg) : noRegister s a = logBusError s a := by
  rcases h with h | h | h <;> simp [noRegister, h]

/-! ### Reads -/

/-- A read of CAD_TIME_LO latches the high half of the time base (R39). -/
theorem regRead_timeLo (s : State) (inc : Option (BitVec 32)) :
    regRead s (hubWin + 0x10800) inc = (now s % 2 ^ 32, s.setReg (hubWin + 0x10804) (now s / 2 ^ 32)) := by
  have ha : aliasOf (hubWin + 0x10800) = hubWin + 0x10800 := aliasOf_of_not_mailbox (by omega)
  simp only [regRead, ha, if_true, regView, windowOf_hub (show 0x10800 < 2 ^ 20 by decide)]
  simp [hubView]

theorem regRead_other (s : State) {a : Nat} (h : aliasOf a ≠ hubWin + 0x10800) (inc : Option (BitVec 32)) :
    regRead s a inc = (regView s (aliasOf a), clearRC s (aliasOf a) inc) := by
  simp [regRead, h]

/-- The RC fields of a word that is read return to their reset value (R12). -/
theorem clearRC_none (s : State) {a : Nat} (hw : (windowOf a).isSome = true) (hm : accMask a .rc ≠ 0) :
    clearRC s a none =
      s.setReg a ((s.reg a &&& (2 ^ 32 - 1 - accMask a .rc)) + (resetWord a &&& accMask a .rc)) := by
  obtain ⟨⟨w, o⟩, h⟩ := Option.isSome_iff_exists.mp hw
  simp [clearRC, h, hm]

/-- What the hardware records as the word is read takes effect: 1 in a counter, the value in a measure (R14, R121). -/
theorem clearRC_recorded (s : State) {a o : Nat} {w : Win} (h : windowOf a = some (w, o)) (hm : accMask a .rc ≠ 0)
    (n : BitVec 32) :
    clearRC s a (some n) = s.setReg a
      ((s.reg a &&& (2 ^ 32 - 1 - accMask a .rc)) + (if rcMeasure w o then n.toNat &&& accMask a .rc else 1)) := by
  simp [clearRC, h, hm]

/-! ### Writes -/

/-- A word whose W1C bits the hardware sets at the moment of the write, none of them here. -/
theorem coincide_of_w1c_zero {a : Nat} (h : accMask a .w1c = 0) (s : State) (v sets : Nat) (write : State → Nat → State) :
    coincide s a v sets write = write s v := by
  simp [coincide, h]

/-- A write that leaves no write of a group is what it does. -/
theorem regWrite_of_effect {s t : State} {a v : Nat} (h : regEffect { s with writes := [] } a v = { t with writes := [] })
    (ht : t.writes = s.writes) : regWrite s a v = t := by
  rw [regWrite, carryOut_of_writes_nil (by rw [h]), h, ← ht]

/-- A word whose write has no effect of its own. -/
theorem regWrite_plain {a v : Nat} (s : State)
    (h : regEffect { s with writes := [] } a v = State.writePlain { s with writes := [] } a v) :
    regWrite s a v = s.writePlain a v := regWrite_of_effect h rfl

/-- Writes of the mailbox's identity, status, window and boot words have no effect of their own, but that of MBX_HB_GO. -/
theorem regEffect_mailbox_plain (s : State) {o : Nat} (h : o < 0x1000) (hg : o ≠ 0x10C) (v : Nat) :
    regEffect s (hubWin + o) v = s.writePlain (hubWin + o) v := by
  simp only [regEffect, windowOf_hub (show o < 2 ^ 20 by omega), hubRegWrite, mbxWrite]
  rw [if_pos (by omega)]
  repeat rw [if_neg (by omega)]

/-! ### Advisory errors of BAR0 (R397, R423) -/

theorem bar0Invalid_up {s : State} (hu : endpointUp s = true) (write : Bool) :
    bar0Invalid s write = aerAdvisory (if write then s else s.emit .completerAbort) := by
  simp [bar0Invalid, hu]

/-- The configuration space in which AER has noted an advisory error: bit 15 of the uncorrectable status register, bit 13 of the
correctable one. -/
def aerStatus (s : State) : SMap (BitVec 32) :=
  (s.cfgSpace.put 0x104 (BitVec.ofNat 32 (cfgHeld s 0x104 0 ||| 2 ^ 15))).put 0x110
    (BitVec.ofNat 32 (cfgHeld s 0x110 0 ||| 2 ^ 13))

/-- The mask of the correctable errors stands apart from the two status registers. -/
theorem cfgHeld_mask_aerStatus (s : State) :
    cfgHeld { s with cfgSpace := aerStatus s } 0x114 0x2000 = cfgHeld s 0x114 0x2000 := by
  simp [cfgHeld, aerStatus, SMap.find_put_ne]

theorem aerAdvisory_masked {s : State} (h : bit (cfgHeld s 0x114 0x2000) 13 = true) :
    aerAdvisory s = { s with cfgSpace := aerStatus s } :=
  if_pos (show bit (cfgHeld { s with cfgSpace := aerStatus s } 0x114 0x2000) 13 = true by rwa [cfgHeld_mask_aerStatus])

theorem aerAdvisory_unmasked {s : State} (h : bit (cfgHeld s 0x114 0x2000) 13 = false) :
    aerAdvisory s = raiseVector (State.emit { s with cfgSpace := aerStatus s } .aerAdvisory) 1 :=
  if_neg (show ¬ bit (cfgHeld { s with cfgSpace := aerStatus s } 0x114 0x2000) 13 = true by simp [cfgHeld_mask_aerStatus, h])

/-! ### The obligation -/

/-- Settles O12, access by access: the time base, the RC fields, BAR0, bus errors and the advisory error. -/
theorem registersRead : Obligations.RegistersRead := by
  unfold Obligations.RegistersRead
  refine ⟨fun s hs hu => ?_, fun s hs hu => ?_, fun s a w o hs hu hr => ?_, fun s a inc hs hu h4 ha hn => ?_,
    fun s a v sets hs hu h => ?_, fun s a v sets hs hu h4 ha hg => ?_, fun s hs hu => ?_⟩
  · rw [exec_cadTimeLoRead, live_of_functional hs, if_pos rfl, registerRead_host hu (by decide) (by decide),
      show bar0Addr 0x3800 = hubWin + 0x10800 from rfl, regRead_timeLo]
  · have hr : wordReg s (hubWin + 0x10800) = true := by
      have hw : windowOf (hubWin + 0x10800) = some (.hub, 0x10800) := windowOf_hub (by decide)
      exact (wordReg_iff _ _).mpr ⟨rfl, reachable_hub s hw, by rw [hw]; rfl, feedWindow_none hw (by simp)⟩
    rw [exec_cadTimeLoRead, live_of_functional hs, if_neg (by decide), registerRead_steward hu, if_pos hr, regRead_timeLo]
  · intro b hw hb hm kept
    have hread (inc : Option (BitVec 32)) : exec (.readClear false a inc) s = .next (clearRC s b inc) := by
      rw [exec_readClear, live_of_functional hs, registerRead_steward hu, if_pos hr, regRead_other s hb]
    refine ⟨?_, fun n => ⟨fun hc => ?_, fun hc => ?_⟩⟩
    · rw [hread, clearRC_none s (by rw [hw]; rfl) hm]
    · rw [hread, clearRC_recorded s hw hm, hc]
      rfl
    · rw [hread, clearRC_recorded s hw hm, if_pos hc]
  · have hb : aliasOf (bar0Addr a.toNat) = bar0Addr a.toNat := aliasOf_bar0Addr ha
    have hn' : bar0Addr a.toNat ≠ hubWin + 0x10800 := by
      unfold bar0Addr
      split
      · omega
      · split <;> omega
    rw [exec_readClear, live_of_functional hs, registerRead_host hu ha h4, regRead_other s (by rwa [hb]), hb]
  · have hno : wordReg s a.toNat = false ∧ noRegister s a.toNat = logBusError s a.toNat := by
      rw [Bool.eq_false_iff, ne_eq, wordReg_iff]
      rcases h with h | ⟨h4, h⟩ | h
      · have hr := not_reachable_of_unmapped s h
        exact ⟨by simp [hr], noRegister_of_not_memory (.inl hr)⟩
      · exact ⟨fun hc => h4 hc.1, noRegister_of_not_memory (.inr h)⟩
      · exact ⟨fun hc => by simp [hc.2.2.2] at h, noRegister_of_not_memory (.inr (.inl (placeOf_of_feedWindow h)))⟩
    rw [exec_registerWrite, live_of_functional hs, registerWrite_steward hu, hno.1, if_neg (by decide), hno.2]
    rfl
  · rw [exec_registerWrite, live_of_functional hs, registerWrite_host hu (by omega) h4, bar0Addr_mailbox (by omega)]
    congr 2
    funext t w
    exact regWrite_plain t (regEffect_mailbox_plain _ ha hg w)
  · have hread : exec (.bar0InvalidAccess false) s = .next (aerAdvisory (s.emit .completerAbort)) := by
      rw [exec_bar0InvalidAccess, live_of_functional hs, bar0Invalid_up hu, if_neg (by decide)]
    have hwrite : exec (.bar0InvalidAccess true) s = .next (aerAdvisory s) := by
      rw [exec_bar0InvalidAccess, live_of_functional hs, bar0Invalid_up hu, if_pos rfl]
    refine ⟨fun hb => ⟨?_, ?_⟩, fun hb => ⟨?_, ?_⟩⟩
    · rw [hread, aerAdvisory_masked (s := s.emit .completerAbort) hb]
      rfl
    · rw [hwrite, aerAdvisory_masked hb]
      rfl
    · rw [hread, aerAdvisory_unmasked (s := s.emit .completerAbort) hb]
      rfl
    · rw [hwrite, aerAdvisory_unmasked hb]
      rfl

end Sys2Proof.Machine
end

section
/-! What the register map says of the bits of a word (Table 0.6), and what a plain write leaves in it. -/

namespace Sys2Proof.Machine
open Sys2Proof Sys2Proof.Machine.Reg

/-! ### The bits of an access type -/

/-- Every field of the register map fits its word. -/
theorem field_fits : ∀ f ∈ regMap, f.lsb + f.width ≤ 32 := by decide +kernel

theorem accMask_lt (a : Nat) (k : Access) : accMask a k < 2 ^ 32 := by
  unfold accMask
  split
  · refine List.foldlRecOn (motive := (· < 2 ^ 32)) _ _ (by decide) fun m hm f hf => ?_
    split
    · exact setBits_lt _ _ _ _ _ hm (field_fits f (List.mem_of_mem_filter hf))
    · exact hm
  · decide

/-- A word on no row of an access type has no bit of it. -/
theorem accMask_eq_zero {a o : Nat} {w : Win} {k : Access} (h : windowOf a = some (w, o))
    (hn : ∀ f ∈ regMap, f.acc = k → f.win = w → f.off ≤ o → onRow f.reps (o - f.off) = false) : accMask a k = 0 := by
  rw [accMask, h]
  refine List.foldlRecOn (motive := (· = 0)) _ _ rfl fun m hm f hf => ?_
  obtain ⟨hf, hrow⟩ := List.mem_filter.mp hf
  simp only [Bool.and_eq_true, decide_eq_true_eq] at hrow
  obtain ⟨⟨hw, hle⟩, hon⟩ := hrow
  rw [if_neg fun hk => Bool.eq_false_iff.mp (hn f hf hk hw hle) hon, hm]

/-- The words with W1C bits: SEQ_ERR, TXU_STATUS, MVR_CHn_STATUS, FIF_STATUS, MBX_STATUS. -/
def holdsW1C : Win → Nat → Prop
  | .core, o => o = 0x20
  | .cluster, o => o = 4 ∨ o % 0x100 = 0x10 ∧ 0x2000 ≤ o ∧ o < 0x3000
  | .hub, o => o = 4 ∨ o = 0x30004 ∨ o % 0x100 = 0x10 ∧ 0x50000 ≤ o ∧ o < 0x52000 ∨
      o % 0x100 = 0xC ∧ 0x40000 ≤ o ∧ o < 0x48000
  | .die, _ => False

theorem w1c_rows : ∀ f ∈ regMap, f.acc = .w1c → (f.win, f.off, f.reps) ∈
    [(Win.core, 0x20, []), (.cluster, 4, []), (.cluster, 0x2010, [(256, 16)]), (.hub, 4, []), (.hub, 0x30004, []),
      (.hub, 0x50010, [(256, 32)]), (.hub, 0x4000C, [(256, 128)])] := by decide +kernel

theorem eq_of_onRow_nil {o p : Nat} (h : onRow [] (o - p) = true) (hle : p ≤ o) : o = p := by
  simp only [onRow, decide_eq_true_eq] at h
  omega

theorem onRow_strides {n d : Nat} (h : onRow [(256, n + 1)] d = true) : d % 256 = 0 ∧ d / 256 ≤ n := by
  simp only [onRow, decide_eq_true_eq] at h
  omega

theorem accMask_w1c_zero {a o : Nat} {w : Win} (h : windowOf a = some (w, o)) (hn : ¬ holdsW1C w o) :
    accMask a .w1c = 0 := by
  refine accMask_eq_zero h fun f hf hk hw hle => Bool.eq_false_iff.mpr fun hr => hn ?_
  have hrow := w1c_rows f hf hk
  obtain ⟨win, off, reps, _, _, _, _⟩ := f
  obtain rfl : win = w := hw
  simp only [List.mem_cons, List.not_mem_nil, or_false, Prod.mk.injEq] at hrow
  simp only at hr hle
  rcases hrow with ⟨rfl, rfl, rfl⟩ | ⟨rfl, rfl, rfl⟩ | ⟨rfl, rfl, rfl⟩ | ⟨rfl, rfl, rfl⟩ | ⟨rfl, rfl, rfl⟩ |
    ⟨rfl, rfl, rfl⟩ | ⟨rfl, rfl, rfl⟩
  · exact eq_of_onRow_nil hr hle
  · exact .inl (eq_of_onRow_nil hr hle)
  · have := onRow_strides hr
    exact .inr (by omega)
  · exact .inl (eq_of_onRow_nil hr hle)
  · exact .inr (.inl (eq_of_onRow_nil hr hle))
  · have := onRow_strides hr
    exact .inr (.inr (.inl (by omega)))
  · have := onRow_strides hr
    exact .inr (.inr (.inr (by omega)))

/-! ### A plain write, bit by bit -/

theorem testBit_add_of_and_eq_zero {a b : Nat} (h : a &&& b = 0) (j : Nat) :
    (a + b).testBit j = (a.testBit j || b.testBit j) := by
  have hd : BitVec.ofNat (j + 1) a &&& BitVec.ofNat (j + 1) b = 0 := by
    apply BitVec.eq_of_toNat_eq
    simp [← Nat.and_mod_two_pow, h]
  have e := congrArg (fun x => x.getLsbD j) (BitVec.add_eq_or_of_and_eq_zero _ _ hd)
  simp only [← BitVec.ofNat_add, BitVec.getLsbD_or, BitVec.getLsbD_ofNat] at e
  simpa using e

theorem testBit_merge {x v m : Nat} (hm : m < 2 ^ 32) {j : Nat} (hj : j < 32) :
    ((x &&& (2 ^ 32 - 1 - m)) + (v &&& m)).testBit j = if m.testBit j then v.testBit j else x.testBit j := by
  have hc (i : Nat) : (2 ^ 32 - 1 - m).testBit i = (decide (i < 32) && !m.testBit i) := by
    rw [Nat.sub_sub, Nat.add_comm 1 m, Nat.testBit_two_pow_sub_succ hm]
  rw [testBit_add_of_and_eq_zero]
  · simp only [Nat.testBit_and, hc, hj]
    cases m.testBit j <;> simp
  · apply Nat.eq_of_testBit_eq
    intro i
    simp only [Nat.testBit_and, hc, Nat.zero_testBit]
    cases m.testBit i <;> simp

/-- A plain write of a word without W1C bits: RW bits take the value, the others keep theirs. -/
theorem testBit_reg_writePlain {a : Nat} (hw : accMask a .w1c = 0) (s : State) (v : Nat) {j : Nat} (hj : j < 32) :
    ((s.writePlain a v).reg a).testBit j = if (accMask a .rw).testBit j then v.testBit j else (s.reg a).testBit j := by
  rw [State.reg_writePlain_same, hw, ← testBit_merge (accMask_lt a .rw) hj]
  simp only [Nat.and_zero, Nat.sub_zero, Nat.testBit_mod_two_pow, Nat.testBit_and, Nat.testBit_two_pow_sub_one, hj, decide_true,
    Bool.true_and, Bool.and_true]

theorem OnlyRegs.writePlain (s : State) (a v : Nat) : OnlyRegs s (s.writePlain a v) [a] :=
  ((OnlyRegs.refl s [a]).setReg _ List.mem_cons_self).setReg _ List.mem_cons_self

end Sys2Proof.Machine
end

section
/-! Where the windows of clusters and cores lie (R282), and what a fence does to the core's state and leaves of the rest
(R439). -/

namespace Sys2Proof.Machine
open Sys2Proof Sys2Proof.Machine.Reg

/-! ### Windows of clusters and cores -/

theorem bits_eq_div (n lo w : Nat) : bits n lo w = n / 2 ^ lo % 2 ^ w := by
  rw [bits, Nat.shiftRight_eq_div_pow]

theorem windowOf_cluster {u o : Nat} (hu : u < 16) (ho : o < 2 ^ 32) : windowOf (clusterWin u + o) = some (.cluster, o) := by
  have hc := hubWin_eq
  have ha : clusterWin u + o = 0xF00000000000 + (u / 4 * 2 ^ 40 + u % 4 * 2 ^ 36 + 0xF * 2 ^ 32) + o := rfl
  rw [windowOf_dies (by omega), if_pos (by omega), bits_eq_div, bits_eq_div, if_neg (by omega), if_pos (by omega)]
  simp only [Option.some.injEq, Prod.mk.injEq, true_and]
  omega

theorem clusterOfAddr_cluster {u o : Nat} (hu : u < 16) (ho : o < 2 ^ 32) : clusterOfAddr (clusterWin u + o) = u := by
  have ha : clusterWin u + o = 0xF00000000000 + (u / 4 * 2 ^ 40 + u % 4 * 2 ^ 36 + 0xF * 2 ^ 32) + o := rfl
  rw [clusterOfAddr, bits_eq_div, bits_eq_div]
  omega

theorem clusterWin_lt {u : Nat} (hu : u < 16) : clusterWin u + 2 ^ 32 ≤ hubWin := by
  unfold clusterWin windowBits hubWin
  omega

theorem coreWin_lt {c : Nat} (hc : c < 128) : coreWin c + 2 ^ 32 ≤ hubWin := by
  unfold coreWin windowBits hubWin
  omega

/-- The bank registers of a core's scratch lie in its window (R297). -/
theorem bnkBase_core (c : Nat) : bnkBase (c / 32) (c % 32) = coreWin c + 0x6000 := by
  rw [bnkBase, if_pos (Nat.mod_lt _ (by decide)), Nat.div_add_mod]

/-! ### Registers back at reset -/

theorem reg_resetRegs_out (s : State) {lo hi a : Nat} (keep : List Nat) (h : hi ≤ a) :
    (resetRegs s lo hi keep).reg a = s.reg a := by
  have hf := SMap.find_filter s.regs (fun r => decide (r < lo) || decide (hi ≤ r) || keep.contains r) a
  simp only [h, decide_true, Bool.or_true, Bool.true_or, if_true] at hf
  simp only [State.reg, resetRegs, hf]

/-! ### What a fence leaves -/

/-- The plans and the writes of a commit group stay, and so do the hub's registers but DBG_STATUS. -/
structure FenceKeeps (s t : State) : Prop where
  plans : t.plans = s.plans
  writes : t.writes = s.writes
  hub : ∀ a, hubWin ≤ a → a ≠ dbgBase → t.reg a = s.reg a

theorem FenceKeeps.refl (s : State) : FenceKeeps s s := ⟨rfl, rfl, fun _ _ _ => rfl⟩

theorem FenceKeeps.trans {s t u : State} (h : FenceKeeps s t) (k : FenceKeeps t u) : FenceKeeps s u :=
  ⟨k.plans.trans h.plans, k.writes.trans h.writes, fun a ha hd => (k.hub a ha hd).trans (h.hub a ha hd)⟩

theorem FenceKeeps.setReg {s t : State} (h : FenceKeeps s t) {b : Nat} (v : Nat) (hb : b < hubWin ∨ b = dbgBase) :
    FenceKeeps s (t.setReg b v) :=
  ⟨h.plans, h.writes, fun a ha hd => (State.reg_setReg_ne t v (by omega)).trans (h.hub a ha hd)⟩

theorem FenceKeeps.setF {s t : State} (h : FenceKeeps s t) {b : Nat} {f : Fld} (v : Nat)
    (hb : b + f.off < hubWin ∨ b + f.off = dbgBase) : FenceKeeps s (t.setF b f v) := h.setReg _ hb

theorem holderOf_of_fenceKeeps {s t : State} (h : FenceKeeps s t) (c : Nat) : holderOf t c = holderOf s c := by
  have hst : ∀ p < 8, planState t p = planState s p := by
    intro p hp
    have hd : dbgBase = hubWin + 0x90000 := rfl
    have hb : cadBase p + CAD_STATE_SLOT.off = hubWin + 0x10000 + 0x100 * p + 0x10 := rfl
    simp only [planState, State.getF]
    rw [h.hub _ (by omega) (by omega)]
  have ho : occupied t = occupied s :=
    List.filter_congr fun p hp => by rw [hst p (List.mem_range.mp hp)]
  simp only [holderOf, ho, State.plan, h.plans]

theorem dropChallenge_fenceKeeps (s : State) : FenceKeeps s (dropChallenge s) := by
  have h : FenceKeeps s { s with mon := { s.mon with chal := none } } := ⟨rfl, rfl, fun _ _ _ => rfl⟩
  exact h.setF 0 (.inr rfl)

theorem dropWork_fenceKeeps (s : State) (c : Nat) : FenceKeeps s (dropWork s c) := ⟨rfl, rfl, fun _ _ _ => rfl⟩

theorem fenceReset_fenceKeeps (s : State) {c : Nat} (hc : c < 128) : FenceKeeps s (fenceReset s c) := by
  have hw := coreWin_lt hc
  have h0 (keep : List Nat) : FenceKeeps s (resetRegs s (coreWin c) (coreWin c + 2 ^ 32) keep) :=
    ⟨rfl, rfl, fun a ha _ => reg_resetRegs_out s _ (hw.trans ha)⟩
  have hr := (h0 [coreWin c + 0x6000, coreWin c + 0x6004, coreWin c + 0x601C]).setF (b := coreWin c + 0x6000)
    (f := BNK_CTRL_SWEEP_EN) 1 (.inl (show coreWin c + 0x6000 + 0 < hubWin by omega))
  have hp (t : State) (ht : FenceKeeps s t) : FenceKeeps s
      ((List.range 4).foldl (fun t p => t.setReg (coreWin c + 0x1010 + 4 * p) (passInForce t c p)) t) :=
    List.foldlRecOn (motive := FenceKeeps s) _ _ ht fun t ht p hp =>
      ht.setReg _ (.inl (by have := List.mem_range.mp hp; omega))
  have hc (t : State) (x : CoreSt) (ht : FenceKeeps s t) : FenceKeeps s (t.setCore c x) := ⟨ht.plans, ht.writes, ht.hub⟩
  unfold fenceReset
  dsimp only
  split
  · exact (hc _ _ (hp _ hr)).setF 4 (.inl (show coreWin c + 4 < hubWin by omega))
  · exact hc _ _ (hp _ hr)

theorem sweepGroup_fenceKeeps (s : State) {c : Nat} (hc : c < 128) (images : List Bytes) :
    FenceKeeps s (sweepGroup s (c / 32, c % 32) images) := by
  have hw := coreWin_lt hc
  unfold sweepGroup
  rw [bnkBase_core]
  refine FenceKeeps.setF ?_ _ (.inl (show coreWin c + 0x6000 + 8 < hubWin by omega))
  split
  · exact (FenceKeeps.refl s).setF 0 (.inl (show coreWin c + 0x6000 + 0 < hubWin by omega))
  · exact FenceKeeps.refl s

theorem keepSeeds_of_free {s : State} {c : Nat} (h : holderOf s c = none) : keepSeeds s c = s := by
  simp [keepSeeds, h]

/-- The fence bit of a core set (R439). -/
theorem fenceBit_fenceKeeps (s : State) {c : Nat} (hc : c < 128) (v : Nat) :
    FenceKeeps s (s.setF (txuBase (c / 8)) TXU_FENCE_FENCED v) := by
  have hu : c / 8 < 16 := by omega
  have hw := clusterWin_lt hu
  refine (FenceKeeps.refl s).setF v (.inl ?_)
  rw [txuBase, if_pos hu]
  exact show clusterWin (c / 8) + 0x10 < hubWin by omega

/-- The fence of a core that no plan holds leaves the plans and the hub's registers but DBG_STATUS. -/
theorem fenceCore_fenceKeeps {s : State} {c : Nat} (hc : c < 128) (h : holderOf s c = none) : FenceKeeps s (fenceCore s c) := by
  have hb := fenceBit_fenceKeeps s hc (s.getF (txuBase (c / 8)) TXU_FENCE_FENCED ||| 2 ^ (c % 8))
  have hw := coreWin_lt hc
  unfold fenceCore
  dsimp only
  rw [keepSeeds_of_free ((holderOf_of_fenceKeeps hb c).trans h)]
  refine FenceKeeps.trans ?_ (sweepGroup_fenceKeeps _ hc _)
  refine FenceKeeps.trans ?_ (fenceReset_fenceKeeps _ hc)
  exact ((hb.trans (dropChallenge_fenceKeeps _)).trans (dropWork_fenceKeeps _ c)).setF 4
    (.inl (show coreWin c + 4 < hubWin by omega))

/-! ### The state of a fenced core -/

theorem seqStateOf_setF_fenced (s : State) (c : Nat) : seqStateOf (s.setF (coreWin c) SEQ_STATUS_STATE 4) c = 4 := by
  rw [seqStateOf, State.getF_setF_same _ _ _ _ (by decide)]
  rfl

/-- The fence reset leaves a core fenced that was. -/
theorem seqStateOf_fenceReset {s : State} {c : Nat} (h : seqStateOf s c = 4) : seqStateOf (fenceReset s c) c = 4 := by
  unfold fenceReset
  dsimp only
  rw [if_pos h, seqStateOf_setF_fenced]

theorem seqStateOf_sweepGroup (s : State) (c : Nat) (images : List Bytes) :
    seqStateOf (sweepGroup s (c / 32, c % 32) images) c = seqStateOf s c := by
  have h8 : coreWin c + SEQ_STATUS_STATE.off ≠ coreWin c + 0x6000 + BNK_SWEEP_INTERVAL.off :=
    show coreWin c + 4 ≠ coreWin c + 0x6000 + 8 by omega
  have h0 : coreWin c + SEQ_STATUS_STATE.off ≠ coreWin c + 0x6000 + BNK_CTRL_SWEEP_EN.off :=
    show coreWin c + 4 ≠ coreWin c + 0x6000 + 0 by omega
  simp only [sweepGroup, bnkBase_core, seqStateOf, State.getF, State.reg_setF_ne _ _ _ _ _ h8]
  split
  · rw [State.reg_setF_ne _ _ _ _ _ h0]
  · rfl

theorem fenced_fenceCore (s : State) (c : Nat) : fenced (fenceCore s c) c = true := by
  unfold fenceCore
  dsimp only
  rw [fenced, seqStateOf_sweepGroup, seqStateOf_fenceReset (seqStateOf_setF_fenced _ c)]
  rfl

/-- A core that no plan holds is fenced, and nothing moves. -/
theorem fenceAndMove_of_free {s : State} {c : Nat} (hc : c < 128) (h : holderOf s c = none) :
    fenceAndMove s c = fenceCore s c := by
  have hn : holderOf (fenceCore s c) c = none := (holderOf_of_fenceKeeps (fenceCore_fenceKeeps hc h) c).trans h
  unfold fenceAndMove
  dsimp only
  rw [hn]

end Sys2Proof.Machine
end

section
/-! REGISTER_WRITE by the steward, word by word (R12, R14): plain words, and words whose write acts. -/

namespace Sys2Proof.Machine
open Sys2Proof Sys2Proof.Machine.Reg

/-! ### A steward's write of a word -/

/-- The words of a window that a steward's write reaches at their own address, with no W1C bit in them: none that stands for another
block, no gust feed window, no relay register. -/
structure DirectWord (w : Win) (o : Nat) : Prop where
  cluster : w = .cluster → o < 0x10000
  hub : w = .hub → o < 0x3000 ∨ 0x10000 ≤ o ∧ o < 0x60000 ∨ 0x70000 ≤ o
  w1c : ¬ holdsW1C w o

/-- The steward's own bits of the relay registers lie below the power controller's registers (R476). -/
theorem rlyStewardMask_above {o : Nat} (h : 0x10000 ≤ o) : rlyStewardMask o = 0 := by
  unfold rlyStewardMask
  split
  · rfl
  · rw [if_neg (by omega), if_neg (by omega)]

theorem aliasOf_direct {a o : Nat} {w : Win} (h : windowOf a = some (w, o)) (hd : DirectWord w o) : aliasOf a = a := by
  by_cases hw : w = .hub
  · obtain ⟨rfl, ho⟩ := eq_of_windowOf_hub (hw ▸ h)
    by_cases hl : o < 0x3000
    · rw [← bar0Addr_mailbox hl, aliasOf_bar0Addr (by omega)]
    · exact aliasOf_of_not_mailbox (by have := hd.hub hw; omega)
  · exact aliasOf_of_not_mailbox (.inl (lt_of_windowOf h hw).2.1)

theorem stewardRegWrite_direct {a o : Nat} {w : Win} (h : windowOf a = some (w, o)) (hd : DirectWord w o) (s : State) (v : Nat) :
    stewardRegWrite s a v = regWrite s a v := by
  have hr : rlyBase = hubWin + 0x60000 := rfl
  have hm : (if rlyBase ≤ a then rlyStewardMask (a - rlyBase) else 0) = 0 := by
    split
    · next hle =>
      have hw : w = .hub := by
        by_contra hw
        have := (lt_of_windowOf h hw).2.1
        omega
      obtain ⟨rfl, ho⟩ := eq_of_windowOf_hub (hw ▸ h)
      have := hd.hub hw
      exact rlyStewardMask_above (by omega)
    · rfl
  rw [stewardRegWrite]
  exact if_pos hm

/-- A steward's write of a word is carried out as the write of that word. -/
theorem exec_registerWrite_direct {s : State} {a : BitVec 48} {w : Win} {o : Nat} (hs : Functional s) (hu : stewardUp s = true)
    (hr : reachable s a.toNat = true) (h4 : a.toNat % 4 = 0) (h : windowOf a.toNat = some (w, o)) (hd : DirectWord w o)
    (v sets : BitVec 32) : exec (.registerWrite false a v sets) s = .next (regWrite s a.toNat v.toNat) := by
  have hword : wordReg s a.toNat = true :=
    (wordReg_iff _ _).mpr ⟨h4, hr, by rw [h]; rfl, feedWindow_none h fun hw => .inl (hd.cluster hw)⟩
  rw [exec_registerWrite, live_of_functional hs, registerWrite_steward hu, if_pos hword, aliasOf_direct h hd,
    coincide_of_w1c_zero (accMask_w1c_zero h hd.w1c), stewardRegWrite_direct h hd]

/-! ### Plain words -/

theorem directWord_plain {w : Win} {o : Nat} (h : Spec.plainWord w o) : DirectWord w o := by
  cases w with
  | die => exact ⟨by simp, by simp, id⟩
  | cluster =>
    obtain ⟨h, _⟩ := h
    exact ⟨fun _ => by omega, by simp, by unfold holdsW1C; omega⟩
  | hub =>
    unfold Spec.plainWord at h
    exact ⟨by simp, fun _ => by omega, by unfold holdsW1C; omega⟩
  | core => exact h.elim

/-- The words that no unit acts on are written plainly. -/
theorem regEffect_plain {a o : Nat} {w : Win} (h : windowOf a = some (w, o)) (hp : Spec.plainWord w o) (s : State) (v : Nat) :
    regEffect s a v = s.writePlain a v := by
  cases w with
  | die => simp only [regEffect, h]
  | cluster =>
    obtain ⟨ho, hg⟩ := hp
    simp only [regEffect, h, clusterRegWrite, hg]
    rw [if_neg (by omega), if_neg (by omega), if_neg (by omega)]
  | hub =>
    unfold Spec.plainWord at hp
    simp only [regEffect, h, hubRegWrite]
    repeat rw [if_neg (by omega)]
  | core => exact hp.elim

/-! ### Words of the transaction units and of the movers -/

theorem regEffect_cluster {s : State} {u o : Nat} (hu : u < 16) (ho : o < 2 ^ 32) (v : Nat) :
    regEffect s (clusterWin u + o) v = clusterRegWrite s u o (clusterWin u + o) v := by
  rw [regEffect, windowOf_cluster hu ho, clusterOfAddr_cluster hu ho]

theorem regEffect_hub {s : State} {o : Nat} (ho : o < 2 ^ 20) (v : Nat) :
    regEffect s (hubWin + o) v = hubRegWrite s o (hubWin + o) v := by
  rw [regEffect, windowOf_hub ho]

theorem clusterRegWrite_mvr (s : State) {n o : Nat} (hn : n < 16) (ho : o < 0x100) (u a v : Nat) :
    clusterRegWrite s u (0x2000 + 0x100 * n + o) a v = mvrRegWrite s u n o a v := by
  have hch : (0x2000 + 0x100 * n + o - 0x2000) / 0x100 = n := by omega
  have hof : (0x2000 + 0x100 * n + o) % 0x100 = o := by omega
  rw [clusterRegWrite, if_neg (by omega), if_pos (by omega), hch, hof]

theorem hubRegWrite_txu (s : State) {o : Nat} (ho : o < 0x1000) (a v : Nat) :
    hubRegWrite s (0x30000 + o) a v = txuRegWrite s 16 o a v := by
  rw [hubRegWrite, if_neg (by omega), if_pos (by omega), Nat.add_sub_cancel_left]

theorem hubRegWrite_mvr (s : State) {n o : Nat} (hn : n < 16) (ho : o < 0x100) (a v : Nat) :
    hubRegWrite s (0x50000 + 0x100 * n + o) a v = mvrRegWrite s 16 n o a v := by
  have hch : (0x50000 + 0x100 * n + o - 0x50000) / 0x100 = n := by omega
  have hof : (0x50000 + 0x100 * n + o) % 0x100 = o := by omega
  rw [hubRegWrite, if_neg (by omega), if_neg (by omega), if_neg (by omega), if_pos (by omega), hch, hof]

/-- A word of a transaction unit's block, but TXU_STATUS. -/
theorem windowOf_txu {u o : Nat} (hu : u < 17) (ho : o < 0x1000) (hn : o ≠ 4) :
    ∃ w p, windowOf (txuBase u + o) = some (w, p) ∧ DirectWord w p ∧
      ∀ s v, regEffect s (txuBase u + o) v = txuRegWrite s u o (txuBase u + o) v := by
  by_cases hc : u < 16
  · have hb : txuBase u = clusterWin u := if_pos hc
    have hl : o < 2 ^ 32 := by omega
    rw [hb]
    refine ⟨_, _, windowOf_cluster hc hl, ⟨fun _ => by omega, by simp, by unfold holdsW1C; omega⟩, fun s v => ?_⟩
    rw [regEffect_cluster hc hl, clusterRegWrite, if_pos ho]
  · obtain rfl : u = 16 := by omega
    have hb : txuBase 16 + o = hubWin + (0x30000 + o) := Nat.add_assoc _ _ _
    have hl : 0x30000 + o < 2 ^ 20 := by omega
    rw [hb]
    refine ⟨_, _, windowOf_hub hl, ⟨by simp, fun _ => by omega, by unfold holdsW1C; omega⟩, fun s v => ?_⟩
    rw [regEffect_hub hl, hubRegWrite_txu s ho]

/-- A word of a mover channel, but MVR_CHn_STATUS. -/
theorem windowOf_mvr {u n o : Nat} (hu : u < 17) (hn : n < 16) (ho : o < 0x100) (hne : o ≠ 0x10) :
    ∃ w p, windowOf (mvrBase u n + o) = some (w, p) ∧ DirectWord w p ∧
      ∀ s v, regEffect s (mvrBase u n + o) v = mvrRegWrite s u n o (mvrBase u n + o) v := by
  by_cases hc : u < 16
  · have hb : mvrBase u n + o = clusterWin u + (0x2000 + 0x100 * n + o) := by
      rw [mvrBase, if_pos hc]
      omega
    have hl : 0x2000 + 0x100 * n + o < 2 ^ 32 := by omega
    rw [hb]
    refine ⟨_, _, windowOf_cluster hc hl, ⟨fun _ => by omega, by simp, by unfold holdsW1C; omega⟩, fun s v => ?_⟩
    rw [regEffect_cluster hc hl, clusterRegWrite_mvr s hn ho]
  · obtain rfl : u = 16 := by omega
    have hb : mvrBase 16 n + o = hubWin + (0x50000 + 0x100 * n + o) := by
      rw [mvrBase, if_neg hc]
      omega
    have hl : 0x50000 + 0x100 * n + o < 2 ^ 20 := by omega
    rw [hb]
    refine ⟨_, _, windowOf_hub hl, ⟨by simp, fun _ => by omega, by unfold holdsW1C; omega⟩, fun s v => ?_⟩
    rw [regEffect_hub hl, hubRegWrite_mvr s hn ho]

theorem txuBase_aligned (u : Nat) : txuBase u % 4 = 0 := by
  unfold txuBase clusterWin windowBits hubWin
  split <;> omega

theorem mvrBase_aligned (u n : Nat) : mvrBase u n % 4 = 0 := by
  unfold mvrBase clusterWin windowBits hubWin
  split <;> omega

/-- A steward's write of a transaction unit's word is that unit's (Table 12.10). -/
theorem exec_registerWrite_txu_carried {s : State} {a : BitVec 48} {u o : Nat} {v sets : BitVec 32} (hs : Functional s)
    (hu : stewardUp s = true) (hr : reachable s a.toNat = true) (hlt : u < 17) (ho : o < 0x1000) (h4 : o % 4 = 0) (hn : o ≠ 4)
    (ha : a.toNat = txuBase u + o) :
    exec (.registerWrite false a v sets) s = .next (carryOut s (fun t => txuRegWrite t u o (txuBase u + o) v.toNat)) := by
  obtain ⟨w, p, hw, hd, he⟩ := windowOf_txu hlt ho hn
  have hal := txuBase_aligned u
  rw [exec_registerWrite_direct hs hu hr (by omega) (ha ▸ hw) hd, ha, regWrite]
  simp only [he]

theorem exec_registerWrite_txu {s t : State} {a : BitVec 48} {u o : Nat} {v : BitVec 32} (hs : Functional s)
    (hu : stewardUp s = true) (hr : reachable s a.toNat = true) (hlt : u < 17) (ho : o < 0x1000) (h4 : o % 4 = 0) (hn : o ≠ 4)
    (ha : a.toNat = txuBase u + o) (h : txuRegWrite { s with writes := [] } u o (txuBase u + o) v.toNat = { t with writes := [] })
    (ht : t.writes = s.writes) (sets : BitVec 32) : exec (.registerWrite false a v sets) s = .next t := by
  rw [exec_registerWrite_txu_carried hs hu hr hlt ho h4 hn ha, carryOut_of_writes_nil (by rw [h]), h, ← ht]

/-! ### Words of the hub -/

/-- A steward's write of a hub word outside the aliases and the relay registers. -/
theorem exec_registerWrite_hub {s t : State} {a : BitVec 48} {o : Nat} {v : BitVec 32} (hs : Functional s)
    (hu : stewardUp s = true) (hd : DirectWord .hub o) (ho : o < 2 ^ 20) (h4 : o % 4 = 0) (ha : a.toNat = hubWin + o)
    (h : hubRegWrite { s with writes := [] } o (hubWin + o) v.toNat = { t with writes := [] })
    (ht : t.writes = s.writes) (sets : BitVec 32) : exec (.registerWrite false a v sets) s = .next t := by
  have hw : windowOf (hubWin + o) = some (.hub, o) := windowOf_hub ho
  have hal : (hubWin + o) % 4 = 0 := by
    have := hubWin_eq
    omega
  rw [exec_registerWrite_direct hs hu (by rw [ha]; exact reachable_hub s hw) (ha ▸ hal) (ha ▸ hw) hd, ha,
    regWrite_of_effect ((regEffect_hub ho _).trans h) ht]

/-- The words of the hub that the statement names. -/
theorem directWord_hub {o : Nat} (h : o = 0x10C ∨ o = 0x90008 ∨ o = 0x70030) : DirectWord .hub o :=
  ⟨by simp, fun _ => by omega, by unfold holdsW1C; omega⟩

/-! ### Zeros and ones written -/

/-- The two bits of TXU_CTRL, COMMIT and CLEAR. -/
theorem bits_zero_two (v : Nat) : (bits v 0 2).testBit 0 = bit v 0 ∧ (bits v 0 2).testBit 1 = bit v 1 := by
  rw [testBit_bits, testBit_bits]
  exact ⟨rfl, rfl⟩

/-- A mask of one core names that core. -/
theorem maskBits_one : ∀ k : Fin 8, maskBits 8 (2 ^ k.val) = [k.val] := by decide

theorem txuFence_zero (s : State) (u : Nat) : txuFence s u 0 = s := by
  unfold txuFence
  split <;> rfl

/-- A one written to TXU_FENCE.SET for a core that no plan holds leaves it fenced (R439). -/
theorem txuFence_one_fenced (s : State) (u : Fin 16) (k : Fin 8) (h : holderOf s (8 * u + k) = none) :
    fenced (txuFence s u (2 ^ k.val)) (8 * u + k) = true ∧ (txuFence s u (2 ^ k.val)).writes = s.writes := by
  have hc : 8 * u.val + k.val < 128 := by omega
  rw [txuFence, if_neg (by omega), maskBits_one, List.foldl_cons, List.foldl_nil]
  split
  · next hf => exact ⟨hf, rfl⟩
  · rw [fenceAndMove_of_free hc h]
    exact ⟨fenced_fenceCore s _, (fenceCore_fenceKeeps hc h).writes⟩

/-! ### The monitor locked (R537) -/

theorem getF_dropChallenge_locked (s : State) :
    (dropChallenge s).getF dbgBase DBG_STATUS_LOCKED = s.getF dbgBase DBG_STATUS_LOCKED :=
  State.getF_setF_apart { s with mon := { s.mon with chal := none } } dbgBase dbgBase DBG_STATUS_CHAL DBG_STATUS_LOCKED 0
    (by decide) (.inr (.inl (by decide)))

theorem reg_dropChallenge_ne (s : State) {a : Nat} (h : a ≠ dbgBase + DBG_STATUS_CHAL.off) :
    (dropChallenge s).reg a = s.reg a :=
  State.reg_setF_ne { s with mon := { s.mon with chal := none } } dbgBase DBG_STATUS_CHAL 0 a h

/-- A one written to DBG_LOCK locks the monitor and discards its challenge; of the registers only DBG_STATUS changes. -/
theorem monitorLock_locked (s : State) :
    (monitorLock s).getF dbgBase DBG_STATUS_LOCKED = 1 ∧ (monitorLock s).getF dbgBase DBG_STATUS_CHAL = 0 ∧
      RegsKept s (monitorLock s) [dbgBase + DBG_STATUS_LOCKED.off] := by
  refine ⟨?_, State.getF_setF_same _ dbgBase DBG_STATUS_CHAL 0 (by decide), fun b hb => ?_⟩
  · exact (getF_dropChallenge_locked _).trans (State.getF_setF_same s dbgBase DBG_STATUS_LOCKED 1 (by decide))
  · have hne : b ≠ dbgBase + DBG_STATUS_LOCKED.off := fun e => hb (e ▸ List.mem_cons_self)
    exact (reg_dropChallenge_ne _ hne).trans (State.reg_setF_ne s _ _ _ _ hne)

/-! ### The obligation -/

/-- What a plain write leaves, bit by bit (Table 0.6): no plain word has a W1C bit. -/
theorem registerWrite_plain_bits {s : State} {a : BitVec 48} {w : Win} {o : Nat} {v sets : BitVec 32} (hs : Functional s)
    (hu : stewardUp s = true) (h4 : a.toNat % 4 = 0) (h : windowOf a.toNat = some (w, o)) (hp : Spec.plainWord w o)
    (hr : reachable s a.toNat = true) :
    ∃ t, exec (.registerWrite false a v sets) s = .next t ∧ OnlyRegs s t [a.toNat] ∧
      ∀ j, j < 32 →
        let r := if bit (accMask a.toNat .rw) j then bit v.toNat j else bit (s.reg a.toNat) j
        bit (t.reg a.toNat) j = if bit (accMask a.toNat .w1c) j then (r && !bit v.toNat j) || bit sets.toNat j else r := by
  have hd := directWord_plain hp
  have hw := accMask_w1c_zero h hd.w1c
  refine ⟨s.writePlain a.toNat v.toNat, ?_, OnlyRegs.writePlain s _ _, fun j hj => ?_⟩
  · rw [exec_registerWrite_direct hs hu hr h4 h hd, regWrite_plain s (regEffect_plain h hp _ _)]
  · have h0 : bit (accMask a.toNat .w1c) j = false := by rw [hw]; exact Nat.zero_testBit j
    rw [h0]
    exact testBit_reg_writePlain hw s v.toNat hj

/-- A zero written to a WO or W1S field does nothing (Table 0.6). -/
theorem registerWrite_zero {s : State} {a : BitVec 48} {v : BitVec 32} (sets : BitVec 32) {u : Fin 17} {n : Fin 16}
    (hs : Functional s) (hu : stewardUp s = true) (hr : reachable s a.toNat = true)
    (h : a.toNat = txuBase u ∧ bits v.toNat 0 2 = 0 ∨ a.toNat = txuBase u + 0x10 ∧ bits v.toNat 8 8 = 0 ∨
      a.toNat = mvrBase u n + 4 ∧ bit v.toNat 0 = false ∨ a.toNat = hubWin + 0x10C ∧ bit v.toNat 0 = false ∨
      a.toNat = hubWin + 0x90008 ∧ bit v.toNat 0 = false) :
    exec (.registerWrite false a v sets) s = .next s := by
  rcases h with ⟨ha, hv⟩ | ⟨ha, hv⟩ | ⟨ha, hv⟩ | ⟨ha, hv⟩ | ⟨ha, hv⟩
  · obtain ⟨h0, h1⟩ := bits_zero_two v.toNat
    rw [hv, Nat.zero_testBit] at h0 h1
    refine exec_registerWrite_txu (o := 0) hs hu hr u.isLt (by decide) (by decide) (by decide) ha ?_ rfl sets
    simp [txuRegWrite, ← h0, ← h1]
  · refine exec_registerWrite_txu (o := 0x10) hs hu hr u.isLt (by decide) (by decide) (by decide) ha ?_ rfl sets
    simp [txuRegWrite, hv, txuFence_zero]
  · obtain ⟨w, p, hw, hd, he⟩ := windowOf_mvr (o := 4) u.isLt n.isLt (by decide) (by decide)
    have hal := mvrBase_aligned u n
    rw [exec_registerWrite_direct hs hu hr (by omega) (ha ▸ hw) hd, ha]
    exact congrArg _ (regWrite_of_effect ((he _ _).trans (by simp [mvrRegWrite, hv])) rfl)
  · refine exec_registerWrite_hub (o := 0x10C) hs hu (directWord_hub (.inl rfl)) (by decide) (by decide) ha ?_ rfl sets
    simp [hubRegWrite, mbxWrite, hv]
  · refine exec_registerWrite_hub (o := 0x90008) hs hu (directWord_hub (.inr (.inl rfl))) (by decide) (by decide) ha ?_ rfl sets
    simp [hubRegWrite, hv]

/-- Settles O11: plain words bit by bit, zeros that do nothing, and the ones that act. -/
theorem registerWriteByAccessType : Obligations.RegisterWriteByAccessType := by
  unfold Obligations.RegisterWriteByAccessType
  refine ⟨fun s a w o v sets hs hu h4 h hp hr => registerWrite_plain_bits hs hu h4 h hp hr,
    fun s a v sets u n hs hu hr h => registerWrite_zero sets hs hu hr h, fun s a v sets hs hu =>
      ⟨fun ha hv => ?_, fun ha => ?_, fun u ha hr hv hst => ?_, fun u k ha hr hv hh => ?_⟩⟩
  · obtain ⟨hl, hc, hk⟩ := monitorLock_locked s
    refine ⟨monitorLock s, ?_, hl, hc, rfl, rfl, hk⟩
    refine exec_registerWrite_hub (t := monitorLock s) (o := 0x90008) hs hu (directWord_hub (.inr (.inl rfl))) (by decide)
      (by decide) ha ?_ rfl sets
    simp only [hubRegWrite, hv]
    rfl
  · exact exec_registerWrite_hub (t := wdogKick s) (o := 0x70030) hs hu (directWord_hub (.inr (.inr rfl))) (by decide)
      (by decide) ha rfl rfl sets
  · obtain ⟨h0, h1⟩ := bits_zero_two v.toNat
    rw [hv] at h0 h1
    refine ⟨(s.setF (txuBase u) TXU_STATUS_COUNT 0).setF (txuBase u) TXU_STATUS_STATE 0, ?_,
      State.getF_setF_same _ _ _ _ (by decide), ?_, ?_⟩
    · refine exec_registerWrite_txu (t := (s.setF (txuBase u) TXU_STATUS_COUNT 0).setF (txuBase u) TXU_STATUS_STATE 0) (o := 0)
        hs hu hr u.isLt (by decide) (by decide) (by decide) ha ?_ rfl sets
      simp only [txuRegWrite, ← h0, ← h1]
      exact txuClear_staged (s := { s with writes := [] }) hst
    · rw [txuCount, State.getF_setF_apart _ _ _ _ _ _ (by decide) (.inr (.inl (by decide)))]
      exact State.getF_setF_same s _ _ _ (by decide)
    · exact ((OnlyRegs.refl s _).setF 0 List.mem_cons_self).setF 0 List.mem_cons_self
  · obtain ⟨hf, hw⟩ := txuFence_one_fenced { s with writes := [] } u k hh
    refine ⟨{ txuFence { s with writes := [] } u (2 ^ k.val) with writes := s.writes }, ?_, hf⟩
    rw [exec_registerWrite_txu_carried (o := 0x10) hs hu hr (by omega) (by decide) (by decide) (by decide) ha]
    have he : txuRegWrite { s with writes := [] } u 0x10 (txuBase u + 0x10) v.toNat =
        txuFence { s with writes := [] } u (2 ^ k.val) := by simp [txuRegWrite, hv]
    rw [carryOut_of_writes_nil (by rw [he]; exact hw), he]

end Sys2Proof.Machine
end

section
/-! Accesses of memory (R283 to R289, R308): the pieces an access takes, what a write leaves in memory, and a read that meets no
fault. -/

namespace Sys2Proof.Machine
open Sys2Proof Sys2Proof.Machine.Reg

/-! ### Bytes put piece by piece -/

@[simp] theorem State.putByte_dies (s : State) (a : Nat) (b : Byte) : (s.putByte a b).dies = s.dies := by
  unfold State.putByte
  split <;> rfl

@[simp] theorem State.putBytes_dies (s : State) (a : Nat) (l : Bytes) : (s.putBytes a l).dies = s.dies := by
  induction l generalizing s a with
  | nil => rfl
  | cons b t ih => rw [State.putBytes, ih, State.putByte_dies]

theorem State.putBytes_append (s : State) (a : Nat) (l m : Bytes) :
    s.putBytes a (l ++ m) = (s.putBytes a l).putBytes (a + l.length) m := by
  induction l generalizing s a with
  | nil => rfl
  | cons b t ih =>
    rw [List.cons_append, State.putBytes, State.putBytes, ih, List.length_cons, Nat.add_right_comm, Nat.add_assoc]

theorem slice_of_le {b : Bytes} {off len : Nat} (h : off + len ≤ b.length) : slice b off len = (b.drop off).take len := by
  have hl : ((b.drop off).take len).length = len := by
    rw [List.length_take, List.length_drop]
    omega
  simp only [slice, hl, Nat.sub_self, List.replicate_zero, List.append_nil]

/-- The first address of piece i of an access in units of u bytes. -/
theorem pieceStart_le {u a len i : Nat} (hi : i < (a + len - 1) / u - a / u + 1) (hlen : 0 < len) :
    max a ((a / u + i) * u) ≤ a + len - 1 := by
  have hm : (a / u + i) * u ≤ a + len - 1 := by
    have hle : a / u ≤ (a + len - 1) / u := Nat.div_le_div_right (by omega)
    exact (Nat.mul_le_mul_right u (show a / u + i ≤ (a + len - 1) / u by omega)).trans (Nat.div_mul_le_self _ u)
  omega

/-- The pieces of an access lie within it (R61, R285). -/
theorem mem_accesses {u a len : Nat} {p : Nat × Nat} (h : p ∈ accesses u a len) :
    a ≤ p.1 ∧ p.1 < a + len ∧ p.1 + p.2 ≤ a + len := by
  unfold accesses at h
  split at h
  · simp at h
  · obtain ⟨i, hi, rfl⟩ := List.mem_map.mp h
    have := pieceStart_le (List.mem_range.mp hi) (by omega)
    dsimp only
    omega

theorem lt_succ_div_mul {u : Nat} (hu : 0 < u) (a : Nat) : a < (a / u + 1) * u := by
  rw [Nat.mul_comm]
  exact Nat.lt_mul_div_succ a hu

/-- The first pieces of an access put one after another put its first bytes. -/
theorem foldl_pieces_putBytes {u a : Nat} (hu : 0 < u) (b : Bytes) (s : State) (hb : 0 < b.length) {n : Nat}
    (hn : n ≤ (a + b.length - 1) / u - a / u + 1) :
    (((List.range n).map (fun i =>
      (max a ((a / u + i) * u), min (a + b.length) ((a / u + i + 1) * u) - max a ((a / u + i) * u)))).foldl
        (fun t p => t.putBytes p.1 (slice b (p.1 - a) p.2)) s) =
      s.putBytes a (b.take (min (a + b.length) ((a / u + n) * u) - a)) := by
  induction n with
  | zero =>
    have h0 : min (a + b.length) ((a / u + 0) * u) - a = 0 := by
      have := Nat.div_mul_le_self a u
      rw [Nat.add_zero]
      omega
    rw [h0]
    rfl
  | succ n ih =>
    have hx := pieceStart_le (u := u) (a := a) (len := b.length) (i := n) (by omega) hb
    have hy : a < (a / u + (n + 1)) * u :=
      (lt_succ_div_mul hu a).trans_le (Nat.mul_le_mul_right u (by omega))
    have hxy : (a / u + n) * u ≤ (a / u + (n + 1)) * u := Nat.mul_le_mul_right u (by omega)
    rw [List.range_succ, List.map_append, List.foldl_append, ih (by omega), List.map_singleton, List.foldl_cons,
      List.foldl_nil, Nat.add_assoc]
    generalize (a / u + n) * u = x at hx hxy
    generalize (a / u + (n + 1)) * u = y at hy hxy
    have hk : min (a + b.length) x - a = max a x - a := by omega
    have hlen : (b.take (max a x - a)).length = max a x - a := by
      rw [List.length_take]
      omega
    have hlo : max a x = a + (max a x - a) := by omega
    have hsum : min (a + b.length) y - a = (max a x - a) + (min (a + b.length) y - max a x) := by omega
    dsimp only
    rw [hk, slice_of_le (by omega), hsum, List.take_add, State.putBytes_append, hlen, ← hlo]

/-- The pieces of an access put one after another put its bytes. -/
theorem foldl_accesses_putBytes {u : Nat} (hu : 0 < u) (a : Nat) (b : Bytes) (s : State) :
    (accesses u a b.length).foldl (fun t p => t.putBytes p.1 (slice b (p.1 - a) p.2)) s = s.putBytes a b := by
  unfold accesses
  split
  · next h => rw [List.length_eq_zero_iff.mp h]; rfl
  · next h =>
    have he : a + b.length - 1 < ((a + b.length - 1) / u + 1) * u := lt_succ_div_mul hu _
    have hle : a / u ≤ (a + b.length - 1) / u := Nat.div_le_div_right (by omega)
    have hc : a / u + ((a + b.length - 1) / u - a / u + 1) = (a + b.length - 1) / u + 1 := by omega
    rw [foldl_pieces_putBytes hu b s (by omega) le_rfl, hc, List.take_of_length_le (by omega)]

/-! ### Bytes of memory that an operation leaves as if they had been put -/

/-- Bytes put in states with the same memory. -/
theorem SameMem.byteAt_putBytes {s t : State} (h : SameMem s t) (a : Nat) (b : Bytes) (c : Nat) :
    (t.putBytes a b).byteAt c = (s.putBytes a b).byteAt c := by
  by_cases hc : c < a ∨ a + b.length ≤ c
  · rw [State.byteAt_putBytes_out t a c b hc, State.byteAt_putBytes_out s a c b hc, h.byteAt]
  · obtain ⟨i, rfl⟩ := Nat.exists_eq_add_of_le (show a ≤ c by omega)
    rw [State.byteAt_putBytes_in t a i b (by omega), State.byteAt_putBytes_in s a i b (by omega)]

/-- A state whose memory is as if the bytes had been put holds them, and every other byte as before. -/
theorem stored_of_byteAt {s t : State} {a : Nat} {b : Bytes} (h : ∀ c, t.byteAt c = (s.putBytes a b).byteAt c) :
    t.bytesAt a b.length = b ∧ MemKept s t a b.length :=
  ⟨(State.bytesAt_congr a b.length fun i _ => h (a + i)).trans (State.bytesAt_putBytes s a b),
    fun c hc => (h c).trans (State.byteAt_putBytes_out s a c b hc)⟩

/-! ### What the accesses of a bank leave of the dies -/

theorem injected_dies (s : State) (d x : Nat) : (injected s d x).2.dies = s.dies := by
  unfold injected
  dsimp only
  split <;> rfl

theorem bankAccess_dies (s : State) (a len : Nat) : (bankAccess s a len).2.dies = s.dies := by
  have h1 (x : Nat) := injected_dies s 1 x
  have h2 (t : State) (x : Nat) (ht : t.dies = s.dies) := (injected_dies t 2 x).trans ht
  unfold bankAccess
  dsimp only
  split
  · refine h2 _ _ ?_
    split <;> exact h1 _
  · split <;> split <;> exact h2 _ _ (h1 _)

theorem noteMet_dies (s : State) (a len : Nat) : (noteMet s a len).dies = s.dies := by
  unfold noteMet
  split <;> rfl

theorem poison_dies (s : State) (w : Nat) : (poison s w).dies = s.dies := by
  unfold poison
  split <;> rfl

theorem badRegion_congr {s t : State} (h : t.dies = s.dies) (a len : Nat) : badRegion t a len = badRegion s a len := by
  simp only [badRegion, State.die, h]

/-! ### Where SRAM lies (R280, R281) -/

theorem placeOf_sramPart {a : Nat} (hlo : 0x800000000000 ≤ a) (hhi : a < 0x840000000000) :
    placeOf a = if bits a 36 4 < 4 ∧ bits a 32 4 < 8 ∧ a % 2 ^ 32 < 0x600000 then
        .scratch (32 * bits a 40 2 + 8 * bits a 36 4 + bits a 32 4)
      else if bits a 36 4 < 4 ∧ bits a 32 4 = 15 ∧ a % 2 ^ 32 < 0x1000000 then .cmem (4 * bits a 40 2 + bits a 36 4)
      else .unmapped := by
  rw [placeOf, if_neg (by omega), if_pos ⟨hlo, hhi⟩]

/-- The memory of a core or a cluster. -/
def Place.isSram : Place → Bool
  | .scratch _ | .cmem _ => true
  | _ => false

theorem Place.isSram_cases {p : Place} (h : p.isSram = true) : (∃ c, p = .scratch c) ∨ ∃ c, p = .cmem c := by
  cases p with
  | scratch c => exact .inl ⟨c, rfl⟩
  | cmem c => exact .inr ⟨c, rfl⟩
  | lpddr _ | hubSram | dieReg | hubReg | unmapped => cases h

theorem sramPart_of_isSram {a : Nat} (h : (placeOf a).isSram = true) : 0x800000000000 ≤ a ∧ a < 0x840000000000 := by
  by_contra hn
  unfold placeOf at h
  dsimp only at h
  rw [if_neg hn] at h
  split at h
  · split at h <;> cases h
  · split at h
    · cases h
    · split at h <;> cases h

/-- Two addresses of one SRAM lie in one window: their upper bits are the same. -/
theorem div_eq_of_placeOf_sram {a e : Nat} (h : placeOf a = placeOf e) (hs : (placeOf a).isSram = true) :
    a / 2 ^ 32 = e / 2 ^ 32 := by
  obtain ⟨ha1, ha2⟩ := sramPart_of_isSram hs
  obtain ⟨he1, he2⟩ := sramPart_of_isSram (h ▸ hs)
  rw [placeOf_sramPart ha1 ha2] at h hs
  rw [placeOf_sramPart he1 he2] at h
  simp only [bits_eq_div] at h hs
  split at h
  · split at h
    · simp only [Place.scratch.injEq] at h
      omega
    · split at h <;> cases h
  · next hns =>
    rw [if_neg hns] at hs
    split at h
    · split at h
      · cases h
      · split at h
        · simp only [Place.cmem.injEq] at h
          omega
        · cases h
    · next hnc =>
      rw [if_neg hnc] at hs
      cases hs

/-- An access inside another of the same window meets no bad region where that one meets none (R295). -/
theorem badRegion_inside {s : State} {a len p plen : Nat} (h : badRegion s a len = false) (hw : p / 2 ^ 32 = a / 2 ^ 32)
    (hlo : a ≤ p) (hhi : p + plen ≤ a + len) : badRegion s p plen = false := by
  have hg : groupOf p = ((groupOf a).1, (groupOf a).2.1, p % 2 ^ 32) := by
    have hb (i : Nat) (hi : 32 ≤ i) (w : Nat) : bits p i w = bits a i w := by
      have hs (n : Nat) : n / 2 ^ i = n / 2 ^ 32 / 2 ^ (i - 32) := by
        rw [Nat.div_div_eq_div_mul, ← pow_add, Nat.add_sub_cancel' hi]
      rw [bits_eq_div, bits_eq_div, hs, hs, hw]
    simp only [groupOf, hb 40 (by decide), hb 36 (by decide), hb 32 (by decide)]
  have ho : p % 2 ^ 32 = a % 2 ^ 32 + (p - a) := by omega
  have hga : (groupOf a).2.2 = a % 2 ^ 32 := rfl
  simp only [badRegion, hg, hga, ho, List.any_eq_false, Bool.and_eq_true, decide_eq_true_eq, not_and] at h ⊢
  intro r hr ⟨hrg, hl⟩ hlt
  have := h r hr ⟨hrg, by omega⟩
  omega

/-- The pieces of an access of one SRAM meet no bad region where the access meets none. -/
theorem badRegion_piece {s : State} {u a len : Nat} (h : badRegion s a len = false)
    (hp : placeOf a = placeOf (a + len - 1)) (hs : (placeOf a).isSram = true) {p : Nat × Nat} (hm : p ∈ accesses u a len) :
    badRegion s p.1 p.2 = false := by
  obtain ⟨hlo, hlt, hhi⟩ := mem_accesses hm
  have hw := div_eq_of_placeOf_sram hp hs
  have h1 : a / 2 ^ 32 ≤ p.1 / 2 ^ 32 := Nat.div_le_div_right hlo
  have h2 : p.1 / 2 ^ 32 ≤ (a + len - 1) / 2 ^ 32 := Nat.div_le_div_right (by omega)
  exact badRegion_inside h (by omega) hlo hhi

/-! ### Writes -/

/-- The words that a write of SRAM covers in part, read before it (R288). -/
def mergeReads (s : State) (a len : Nat) : Option Nat × State :=
  (partUnits 8 a len).foldl (fun (st : Option Nat × State) w =>
    if badRegion st.2 w 8 then st
    else
      let q := bankAccess st.2 w 8
      (st.1.or q.1, if q.1.isNone then q.2 else poison q.2 w)) (none, noteMet s a len)

/-- They change no byte and no die. -/
theorem mergeReads_keeps (s : State) (a len : Nat) :
    SameMem s (mergeReads s a len).2 ∧ (mergeReads s a len).2.dies = s.dies := by
  refine List.foldlRecOn (motive := fun st : Option Nat × State => SameMem s st.2 ∧ st.2.dies = s.dies) _ _
    ⟨noteMet_sameMem s a len, noteMet_dies s a len⟩ fun st hst w _ => ?_
  have hq : SameMem s (bankAccess st.2 w 8).2 := hst.1.trans (bankAccess_sameMem st.2 w 8)
  have hd : (bankAccess st.2 w 8).2.dies = s.dies := (bankAccess_dies st.2 w 8).trans hst.2
  split
  · exact hst
  · dsimp only
    split
    · exact ⟨hq, hd⟩
    · exact ⟨hq.trans (poison_sameMem _ w), (poison_dies _ w).trans hd⟩

/-- Pieces that meet no bad region are put. -/
theorem foldl_pieces_good {s : State} (f : Nat × Nat → Bytes) (l : List (Nat × Nat))
    (hl : ∀ p ∈ l, badRegion s p.1 p.2 = false) (t : State) (ht : t.dies = s.dies) :
    l.foldl (fun t p => if badRegion t p.1 p.2 then t else t.putBytes p.1 (f p)) t =
      l.foldl (fun t p => t.putBytes p.1 (f p)) t := by
  induction l generalizing t with
  | nil => rfl
  | cons p l ih =>
    have hp : badRegion t p.1 p.2 = false := (badRegion_congr ht _ _).trans (hl p List.mem_cons_self)
    rw [List.foldl_cons, List.foldl_cons, hp, if_neg (by decide)]
    exact ih (fun q hq => hl q (List.mem_cons_of_mem p hq)) _ ((State.putBytes_dies t p.1 (f p)).trans ht)

/-- A write of SRAM that meets no bad region puts its bytes (R288, R295). -/
theorem sramMerge_byteAt {s : State} {a : Nat} {b : Bytes} (h : badRegion s a b.length = false)
    (hp : placeOf a = placeOf (a + b.length - 1)) (hs : (placeOf a).isSram = true) (c : Nat) :
    (sramMerge s a b).2.byteAt c = (s.putBytes a b).byteAt c := by
  obtain ⟨hm, hd⟩ := mergeReads_keeps s a b.length
  calc (sramMerge s a b).2.byteAt c
    _ = ((accesses 1024 a b.length).foldl (fun t p => if badRegion t p.1 p.2 then t
          else t.putBytes p.1 (slice b (p.1 - a) p.2)) (mergeReads s a b.length).2).byteAt c := rfl
    _ = ((mergeReads s a b.length).2.putBytes a b).byteAt c := by
        rw [foldl_pieces_good (fun p => slice b (p.1 - a) p.2) _ (fun p hm => badRegion_piece h hp hs hm) _ hd,
          foldl_accesses_putBytes (by decide)]
    _ = (s.putBytes a b).byteAt c := hm.byteAt_putBytes a b c

/-- The lines that a write of LPDDR4X covers in part, read before it (R308). -/
def mergeLines (s : State) (a len : Nat) : Option Nat × State :=
  (partUnits 64 a len).foldl (fun (st : Option Nat × State) w =>
    let q := lineAccess st.2 w 64
    (st.1.or q.1, if q.1.isNone then q.2 else poison q.2 w)) (none, noteMet s a len)

theorem mergeLines_sameMem (s : State) (a len : Nat) : SameMem s (mergeLines s a len).2 := by
  refine List.foldlRecOn (motive := fun st : Option Nat × State => SameMem s st.2) _ _
    (noteMet_sameMem s a len) fun st hst w _ => ?_
  have hq : SameMem s (lineAccess st.2 w 64).2 := hst.trans (lineAccess_sameMem st.2 w 64)
  dsimp only
  split
  · exact hq
  · exact hq.trans (poison_sameMem _ w)

/-- A write of LPDDR4X puts its bytes (R308). -/
theorem lineMerge_byteAt (s : State) (a : Nat) {b : Bytes} (hb : b ≠ []) (c : Nat) :
    (lineMerge s a b).2.byteAt c = (s.putBytes a b).byteAt c := by
  have he : b.isEmpty = false := List.isEmpty_eq_false_iff.mpr hb
  rw [lineMerge, he, if_neg (by decide)]
  exact (mergeLines_sameMem s a b.length).byteAt_putBytes a b c

/-- A write of memory in one place, clear of bad regions, puts its bytes. -/
theorem memWrite_byteAt {s : State} {a : Nat} {b : Bytes} (hb : b ≠ []) (ho : oneMemory s a b.length = true)
    (h : (∃ d, placeOf a = .lpddr d) ∨ (placeOf a).isSram = true ∧ badRegion s a b.length = false) (c : Nat) :
    (memWrite s a b).2.byteAt c = (s.putBytes a b).byteAt c := by
  have hp : placeOf a = placeOf (a + b.length - 1) := by
    simp only [oneMemory, Bool.and_eq_true, beq_iff_eq] at ho
    exact ho.2
  rw [memWrite, ho, if_neg (by decide)]
  rcases h with ⟨d, h⟩ | ⟨hs, h⟩
  · rw [h]
    exact lineMerge_byteAt s a hb c
  · have hm := sramMerge_byteAt h hp hs c
    rcases Place.isSram_cases hs with ⟨c, hpl⟩ | ⟨c, hpl⟩ <;>
    · rw [hpl]
      exact hm

/-! ### A read that meets no fault -/

theorem noteMet_of_not_waiting {s : State} {a len : Nat} (h : waitsOn s a len = none) : noteMet s a len = s := by
  unfold noteMet
  split
  · rfl
  · next hm =>
    rw [h, ← Option.not_isSome_iff_eq_none.mp hm]

theorem injected_unarmed {s : State} {d : Nat} (h : s.getF (injBase d) TXU_INJ_COUNT = 0) (x : Nat) :
    injected s d x = (false, s) := by
  simp [injected, h]

/-- No injection point of the memories is armed, and no word is poisoned. -/
structure CleanMemory (s : State) : Prop where
  poison : s.poison = []
  unarmed : ∀ d, 1 ≤ d → d ≤ 4 → s.getF (injBase d) TXU_INJ_COUNT = 0

theorem bankAccess_clean {s : State} (hc : CleanMemory s) {a len : Nat} (h : badRegion s a len = false) :
    bankAccess s a len = (none, s) := by
  have h1 := injected_unarmed (hc.unarmed 1 (by decide) (by decide))
  have h2 := injected_unarmed (hc.unarmed 2 (by decide) (by decide))
  simp [bankAccess, h1, h2, badWord, hc.poison, h]

theorem lineAccess_clean {s : State} (hc : CleanMemory s) (a len : Nat) : lineAccess s a len = (none, s) := by
  have h3 := injected_unarmed (hc.unarmed 3 (by decide) (by decide))
  have h4 := injected_unarmed (hc.unarmed 4 (by decide) (by decide))
  simp [lineAccess, h3, h4, hc.poison]

theorem allAccess_clean {f : State → Nat → Nat → Option Nat × State} {s : State} {l : List (Nat × Nat)}
    (h : ∀ p ∈ l, f s p.1 p.2 = (none, s)) : allAccess f s l = (none, s) := by
  refine List.foldlRecOn (motive := (· = (none, s))) _ _ rfl fun st hst p hp => ?_
  rw [hst, h p hp]
  rfl

/-- A read of memory that waits for nothing and meets no fault returns its bytes and changes nothing. -/
theorem memRead_clean {s : State} (hc : CleanMemory s) {a len : Nat} (ho : oneMemory s a len = true)
    (hw : waitsOn s a len = none) (h : (∃ d, placeOf a = .lpddr d) ∨ (placeOf a).isSram = true)
    (hb : badRegion s a len = false) : memRead s a len = (.ok (s.bytesAt a len), s) := by
  have hp : placeOf a = placeOf (a + len - 1) := by
    simp only [oneMemory, Bool.and_eq_true, beq_iff_eq] at ho
    exact ho.2
  rw [memRead, ho, if_neg (by decide)]
  rcases h with ⟨d, h⟩ | hs
  · rw [h]
    dsimp only
    rw [lineRead, noteMet_of_not_waiting hw, allAccess_clean fun p _ => lineAccess_clean hc p.1 p.2]
    rfl
  · have hr : bankRead s a len = checkedBytes (none, s) a len := by
      rw [bankRead, noteMet_of_not_waiting hw,
        allAccess_clean fun p hm => bankAccess_clean hc (badRegion_piece hb hp hs hm)]
    rw [hr]
    rcases Place.isSram_cases hs with ⟨c, hpl⟩ | ⟨c, hpl⟩ <;>
    · rw [hpl]
      rfl

end Sys2Proof.Machine
end

section
/-! BAR2 (R400): where an access goes, and what it does there. -/

namespace Sys2Proof.Machine
open Sys2Proof Sys2Proof.Machine.Reg

theorem exec_bar2Write (n : BitVec 28) (data : Bytes) (s : State) :
    exec (.bar2Write n data) s = live s (bar2Write s n data) := rfl

theorem exec_bar2Read (n : BitVec 28) (len : Fin 4097) (s : State) :
    exec (.bar2Read n len) s = live s (bar2Read s n len) := rfl

/-! ### The event log changes no byte of memory -/

theorem SameMem.foldl_fst {β γ : Type} (f : State × γ → β → State × γ) (h : ∀ st x, SameMem st.1 (f st x).1)
    (l : List β) (st : State × γ) : SameMem st.1 (l.foldl f st).1 :=
  List.foldlRecOn (motive := fun r => SameMem st.1 r.1) l f (SameMem.refl st.1) fun r hr x _ => hr.trans (h r x)

theorem portXmit_sameMem (s : State) (p : Nat) (f : Flit) : SameMem s (portXmit s p f) := ⟨rfl, rfl⟩

theorem portDrain_sameMem (s : State) (p : Nat) : SameMem s (portDrain s p) := by
  refine (SameMem.foldl_fst _ (fun st f => ?_) _ (s, [])).trans ⟨rfl, rfl⟩
  split
  · exact portXmit_sameMem st.1 p f
  · exact SameMem.refl st.1

theorem flitSend_sameMem (s : State) (f : Flit) : SameMem s (flitSend s f).2 := by
  unfold flitSend
  dsimp only
  split
  · exact SameMem.refl s
  · exact SameMem.trans ⟨rfl, rfl⟩ (portDrain_sameMem _ _)

theorem raiseVector_sameMem (s : State) (v : Nat) : SameMem s (raiseVector s v) := by
  unfold raiseVector
  split
  · exact SameMem.refl s
  · split
    · exact flitSend_sameMem s _
    · split <;> exact ⟨rfl, rfl⟩

theorem logEvent_sameMem (s : State) (code core slot a0 a1 a2 a3 : Nat) :
    SameMem s (logEvent s code core slot a0 a1 a2 a3) :=
  SameMem.trans ⟨rfl, rfl⟩ (raiseVector_sameMem _ 1)

/-! ### Where an access goes -/

/-- Both ends of an access lie in one place that BAR2 reaches. -/
def Bar2One (s : State) (a e : Nat) : Prop := bar2Maps s a = true ∧ bar2Maps s e = true ∧ placeOf a = placeOf e

theorem not_bar2One_iff (s : State) (a e : Nat) :
    ¬ Bar2One s a e ↔ bar2Maps s a = false ∨ bar2Maps s e = false ∨ placeOf a ≠ placeOf e := by
  simp only [Bar2One, ← Bool.not_eq_true]
  tauto

theorem bar2One_bool (s : State) (a e : Nat) :
    (!bar2Maps s a || !bar2Maps s e || placeOf a != placeOf e) = true ↔ ¬ Bar2One s a e := by
  rw [not_bar2One_iff]
  simp [or_assoc]

/-- What BAR2 reaches is memory or a register of a compute die. -/
theorem place_of_bar2Maps {s : State} {a : Nat} (h : bar2Maps s a = true) (hn : placeOf a ≠ .dieReg) :
    (∃ d, placeOf a = .lpddr d) ∨ (placeOf a).isSram = true := by
  unfold bar2Maps at h
  cases hp : placeOf a <;> simp_all [Place.isSram]

theorem oneMemory_of_bar2One {s : State} {a len : Nat} (h : Bar2One s a (a + len - 1)) : oneMemory s a len = true := by
  obtain ⟨ha, he, hp⟩ := h
  simp only [bar2Maps, Bool.and_eq_true] at ha he
  simp [oneMemory, ha.1, he.1, hp]

theorem feedWindow_of_memory {a : Nat} (h : placeOf a ≠ .dieReg) : feedWindow a = none := by
  by_contra hn
  exact h (placeOf_of_feedWindow (Option.isSome_iff_ne_none.mpr hn))

/-! ### Register words and feed windows -/

theorem regAligned_iff {a len : Nat} (hf : feedWindow a = none) :
    regAligned a len = true ↔ len = 4 ∧ a % 4 = 0 ∨ len = 8 ∧ a % 8 = 0 := by
  simp [regAligned, hf]

theorem feedLines_misaligned {s : State} {a : Nat} {b : Bytes} {cl ch o : Nat} (hf : feedWindow a = some (cl, ch, o))
    (h : a % 64 ≠ 0 ∨ b.length % 64 ≠ 0) : feedLines s a b = logBusError s a := by
  simp [feedLines, hf, h]

/-- A write for which the channel's buffer has no room is not taken yet (R259). -/
theorem feedLines_full {s : State} {a : Nat} {b : Bytes} {cl ch o : Nat} (hf : feedWindow a = some (cl, ch, o))
    (ha : a % 64 = 0) (hb : b.length % 64 = 0) (hr : mvrRoom s a b.length = false) : feedLines s a b = s := by
  simp [feedLines, hf, ha, hb, hr]

theorem feedLines_one {s : State} {a : Nat} {b : Bytes} {cl ch o : Nat} (hf : feedWindow a = some (cl, ch, o))
    (ha : a % 64 = 0) (hb : b.length = 64) (hr : mvrRoom s a 64 = true) : feedLines s a b = gustFeed s cl ch o b := by
  have hs : slice b 0 64 = b := by
    rw [slice_of_le (by omega), List.drop_zero, List.take_of_length_le hb.le]
  simp [feedLines, hf, ha, hb, hr, hs]

/-! ### Writes -/

/-- BAR2 takes writes. -/
structure Bar2Writable (s : State) : Prop where
  up : endpointUp s = true
  en : s.getF hubWin MBX_BAR2_CTRL_EN ≠ 0
  wen : s.getF hubWin MBX_BAR2_CTRL_WEN ≠ 0

theorem Bar2Writable.gate {s : State} (h : Bar2Writable s) {b : Bytes} (hb : b ≠ []) :
    ¬ (!endpointUp s || b.isEmpty || s.getF hubWin MBX_BAR2_CTRL_EN = 0 || s.getF hubWin MBX_BAR2_CTRL_WEN = 0) = true := by
  simp [h.up, h.en, h.wen, hb]

theorem bar2Write_discarded {s : State} (h : s.getF hubWin MBX_BAR2_CTRL_EN = 0 ∨ s.getF hubWin MBX_BAR2_CTRL_WEN = 0)
    (n : BitVec 28) (b : Bytes) : bar2Write s n b = s := by
  unfold bar2Write
  dsimp only
  rw [if_pos (by rcases h with h | h <;> simp [h])]

section
variable {s : State} {n : BitVec 28} {b : Bytes} (h : Bar2Writable s) (hb : b ≠ [])
include h hb

theorem bar2Write_bus (ho : ¬ Bar2One s (bar2Addr s n.toNat) (bar2Addr s n.toNat + b.length - 1)) :
    bar2Write s n b = logBusError s (bar2Addr s n.toNat) := by
  unfold bar2Write
  dsimp only
  rw [if_neg (h.gate hb), if_pos ((bar2One_bool _ _ _).mpr ho)]

variable (ho : Bar2One s (bar2Addr s n.toNat) (bar2Addr s n.toNat + b.length - 1))
include ho

theorem bar2Write_feed (hf : (feedWindow (bar2Addr s n.toNat)).isSome = true) :
    bar2Write s n b = feedLines s (bar2Addr s n.toNat) b := by
  unfold bar2Write
  dsimp only
  rw [if_neg (h.gate hb), if_neg (fun hc => (bar2One_bool _ _ _).mp hc ho), if_pos hf]

theorem bar2Write_reg (hp : placeOf (bar2Addr s n.toNat) = .dieReg) (hf : feedWindow (bar2Addr s n.toNat) = none) :
    bar2Write s n b = if regAligned (bar2Addr s n.toNat) b.length then regWrites s (bar2Addr s n.toNat) b (b.length / 4)
      else logBusError s (bar2Addr s n.toNat) := by
  unfold bar2Write
  dsimp only
  rw [if_neg (h.gate hb), if_neg (fun hc => (bar2One_bool _ _ _).mp hc ho), if_neg (by simp [hf]), if_pos hp]

theorem bar2Write_word (hp : placeOf (bar2Addr s n.toNat) = .dieReg) (hf : feedWindow (bar2Addr s n.toNat) = none)
    (hl : b.length = 4) (h4 : bar2Addr s n.toNat % 4 = 0) :
    bar2Write s n b = regWrite s (bar2Addr s n.toNat) (leAt b 0 4) := by
  rw [bar2Write_reg h hb ho hp hf, if_pos ((regAligned_iff hf).mpr (.inl ⟨hl, h4⟩)), hl]
  rfl

theorem bar2Write_twoWords (hp : placeOf (bar2Addr s n.toNat) = .dieReg) (hf : feedWindow (bar2Addr s n.toNat) = none)
    (hl : b.length = 8) (h8 : bar2Addr s n.toNat % 8 = 0) :
    bar2Write s n b = regWrite (regWrite s (bar2Addr s n.toNat) (leAt b 0 4)) (bar2Addr s n.toNat + 4)
      (leAt (b.drop 4) 0 4) := by
  rw [bar2Write_reg h hb ho hp hf, if_pos ((regAligned_iff hf).mpr (.inr ⟨hl, h8⟩)), hl]
  rfl

theorem bar2Write_waits (hp : placeOf (bar2Addr s n.toNat) ≠ .dieReg) {t : State}
    (ha : asleep s (bar2Addr s n.toNat) b.length = some t) :
    bar2Write s n b = stuckAt t (bar2Addr s n.toNat) (.bar2Write n b) := by
  unfold bar2Write
  dsimp only
  rw [if_neg (h.gate hb), if_neg (fun hc => (bar2One_bool _ _ _).mp hc ho), if_neg (by simp [feedWindow_of_memory hp]),
    if_neg hp, ha]

/-- What the log notes of an uncorrectable merge changes no byte: the memory is as the write leaves it. -/
theorem bar2Write_memory (hp : placeOf (bar2Addr s n.toNat) ≠ .dieReg) (ha : asleep s (bar2Addr s n.toNat) b.length = none) :
    SameMem (memWrite s (bar2Addr s n.toNat) b).2 (bar2Write s n b) := by
  unfold bar2Write
  dsimp only
  generalize memWrite s (bar2Addr s n.toNat) b = r
  rw [if_neg (h.gate hb), if_neg (fun hc => (bar2One_bool _ _ _).mp hc ho), if_neg (by simp [feedWindow_of_memory hp]),
    if_neg hp, ha]
  obtain ⟨res, t⟩ := r
  cases res with
  | ue l => exact logEvent_sameMem _ _ _ _ _ _ _ _
  | ok _ => exact SameMem.refl t
  | bus => exact SameMem.refl t

/-- Bytes written to memory in one place, clear of bad regions, are stored, and every other byte stays. -/
theorem bar2Write_stores (hp : placeOf (bar2Addr s n.toNat) ≠ .dieReg) (ha : asleep s (bar2Addr s n.toNat) b.length = none)
    (hg : (∃ d, placeOf (bar2Addr s n.toNat) = .lpddr d) ∨ badRegion s (bar2Addr s n.toNat) b.length = false) :
    (bar2Write s n b).bytesAt (bar2Addr s n.toNat) b.length = b ∧
      MemKept s (bar2Write s n b) (bar2Addr s n.toNat) b.length := by
  have hpl : (∃ d, placeOf (bar2Addr s n.toNat) = .lpddr d) ∨
      (placeOf (bar2Addr s n.toNat)).isSram = true ∧ badRegion s (bar2Addr s n.toNat) b.length = false := by
    rcases place_of_bar2Maps ho.1 hp with hl | hs
    · exact .inl hl
    · exact hg.imp id fun hg => ⟨hs, hg⟩
  exact stored_of_byteAt fun c =>
    ((bar2Write_memory h hb ho hp ha).byteAt c).trans (memWrite_byteAt hb (oneMemory_of_bar2One ho) hpl c)

end

/-! ### Reads -/

/-- BAR2 answers reads. -/
structure Bar2Readable (s : State) (len : Fin 4097) : Prop where
  up : endpointUp s = true
  len : len.val ≠ 0

theorem Bar2Readable.gate {s : State} {len : Fin 4097} (h : Bar2Readable s len) :
    ¬ (!endpointUp s || len.val = 0) = true := by
  simp [h.up, h.len]

section
variable {s : State} {n : BitVec 28} {len : Fin 4097} (h : Bar2Readable s len)
include h

theorem bar2Read_disabled (he : s.getF hubWin MBX_BAR2_CTRL_EN = 0) :
    bar2Read s n len = s.emit (.readData (List.replicate len 0)) := by
  unfold bar2Read
  dsimp only
  rw [if_neg h.gate, if_pos he]

variable (he : s.getF hubWin MBX_BAR2_CTRL_EN ≠ 0)
include he

theorem bar2Read_bus (ho : ¬ Bar2One s (bar2Addr s n.toNat) (bar2Addr s n.toNat + len.val - 1)) :
    bar2Read s n len = (logBusError s (bar2Addr s n.toNat)).emit .completerAbort := by
  unfold bar2Read
  dsimp only
  rw [if_neg h.gate, if_neg he, if_pos ((bar2One_bool _ _ _).mpr ho)]

variable (ho : Bar2One s (bar2Addr s n.toNat) (bar2Addr s n.toNat + len.val - 1))
include ho

/-- One register word read: its value, and what its read clears. -/
theorem bar2Read_word (hp : placeOf (bar2Addr s n.toNat) = .dieReg) (hf : feedWindow (bar2Addr s n.toNat) = none)
    (hl : len.val = 4) (h4 : bar2Addr s n.toNat % 4 = 0) :
    bar2Read s n len = (clearRC s (bar2Addr s n.toNat) none).emit
      (.readData (natToBytes 4 (regView s (bar2Addr s n.toNat)))) := by
  obtain ⟨w, o, hw, hne⟩ := windowOf_of_placeOf hp
  have hlt := (lt_of_windowOf hw hne).2.1
  have hal : aliasOf (bar2Addr s n.toNat) = bar2Addr s n.toNat := aliasOf_of_not_mailbox (.inl hlt)
  have hr : regRead s (bar2Addr s n.toNat) none = (regView s (bar2Addr s n.toNat), clearRC s (bar2Addr s n.toNat) none) := by
    rw [regRead_other s (by omega), hal]
  unfold bar2Read
  dsimp only
  rw [if_neg h.gate, if_neg he, if_neg (fun hc => (bar2One_bool _ _ _).mp hc ho), if_pos hp,
    if_pos ((regAligned_iff hf).mpr (.inl ⟨hl, h4⟩)), hl]
  simp only [Nat.div_self (show 0 < 4 by decide), regReads, hr, List.append_nil]

variable (hp : placeOf (bar2Addr s n.toNat) ≠ .dieReg)
include hp

theorem bar2Read_waits {t : State} (ha : asleep s (bar2Addr s n.toNat) len.val = some t) :
    bar2Read s n len = stuckAt t (bar2Addr s n.toNat) (.bar2Read n len) := by
  unfold bar2Read
  dsimp only
  rw [if_neg h.gate, if_neg he, if_neg (fun hc => (bar2One_bool _ _ _).mp hc ho), if_neg hp, ha]

/-- Memory that meets no fault returns its bytes. -/
theorem bar2Read_memory (ha : asleep s (bar2Addr s n.toNat) len.val = none) (hc : CleanMemory s)
    (hg : badRegion s (bar2Addr s n.toNat) len.val = false) :
    bar2Read s n len = s.emit (.readData (s.bytesAt (bar2Addr s n.toNat) len.val)) := by
  have hw : waitsOn s (bar2Addr s n.toNat) len.val = none := Option.map_eq_none_iff.mp ha
  have hr := memRead_clean hc (oneMemory_of_bar2One ho) hw (place_of_bar2Maps ho.1 hp) hg
  unfold bar2Read
  dsimp only
  rw [if_neg h.gate, if_neg he, if_neg (fun hc => (bar2One_bool _ _ _).mp hc ho), if_neg hp, ha, hr]

end

/-! ### The obligation -/

theorem bar2WritesMemory : Spec.Bar2WritesMemory := by
  intro s n data hs hu hne a e
  have hexec : exec (.bar2Write n data) s = .next (bar2Write s n data) := by rw [exec_bar2Write, live_of_functional hs]
  have hopen (he : s.getF hubWin MBX_BAR2_CTRL_EN = 1) (hw : s.getF hubWin MBX_BAR2_CTRL_WEN = 1) : Bar2Writable s :=
    ⟨hu, by omega, by omega⟩
  rw [hexec]
  refine ⟨fun h => ?_, fun he hw h => ?_, fun he hw hma hme hp => ?_⟩
  · rw [bar2Write_discarded h]
  · exact congrArg _ (bar2Write_bus (hopen he hw) hne ((not_bar2One_iff _ _ _).mpr h))
  · have h := hopen he hw
    have ho : Bar2One s a e := ⟨hma, hme, hp⟩
    refine ⟨fun hn ha hg => ⟨_, rfl, bar2Write_stores h hne ho hn ha hg⟩, fun t hn ha => ?_, fun hd hf hl h4 => ?_,
      fun hd hf hl h8 => ?_, fun hd hf hna => ?_, fun cl ch o hf => ?_⟩
    · exact congrArg _ (bar2Write_waits h hne ho hn ha)
    · exact congrArg _ (bar2Write_word h hne ho hd hf hl h4)
    · exact congrArg _ (bar2Write_twoWords h hne ho hd hf hl h8)
    · exact congrArg _ ((bar2Write_reg h hne ho hd hf).trans (if_neg fun hc => hna ((regAligned_iff hf).mp hc)))
    · have hfeed := bar2Write_feed h hne ho (Option.isSome_of_eq_some hf)
      exact ⟨fun hm => congrArg _ (hfeed.trans (feedLines_misaligned hf hm)),
        fun ha hl hr => congrArg _ (hfeed.trans (feedLines_one hf ha hl hr)),
        fun ha hl hr => congrArg _ (hfeed.trans (feedLines_full hf ha hl hr))⟩

theorem bar2Reads : Spec.Bar2Reads := by
  intro s n len hs hu hlen a e
  have hexec : exec (.bar2Read n len) s = .next (bar2Read s n len) := by rw [exec_bar2Read, live_of_functional hs]
  have h : Bar2Readable s len := ⟨hu, hlen⟩
  rw [hexec]
  refine ⟨fun hd => by rw [bar2Read_disabled h hd], fun hen => ?_⟩
  have he : s.getF hubWin MBX_BAR2_CTRL_EN ≠ 0 := by omega
  refine ⟨fun hb => ?_, fun hma hme hp hn ha hpo hg hi => ?_, fun hma hme hp hd hf hl h4 => ?_, fun t hma hme hp hn ha => ?_⟩
  · exact congrArg _ (bar2Read_bus h he ((not_bar2One_iff _ _ _).mpr hb))
  · exact congrArg _ (bar2Read_memory h he ⟨hma, hme, hp⟩ hn ha ⟨hpo, hi⟩ hg)
  · exact congrArg _ (bar2Read_word h he ⟨hma, hme, hp⟩ hd hf hl h4)
  · exact congrArg _ (bar2Read_waits h he ⟨hma, hme, hp⟩ hn ha)

/-- Settles O13: what BAR2 writes, by the place it reaches, and what it reads. -/
theorem bar2Accesses : Obligations.Bar2Accesses := ⟨bar2WritesMemory, bar2Reads⟩

end Sys2Proof.Machine
end

section
/-! The frame that RESULT_PUBLISH takes (R33, R36), and the frame that FRAME_ADMISSION admits (R21 to R24, R31, R32). -/

namespace Sys2Proof.Machine
open Sys2Proof Sys2Proof.Machine.Reg

/-! ### The frame that is due -/

/-- A frame is not due before another (R36): its release time is later, or the same with a slot that is not lower. -/
def NotBefore (g f : Frame) : Prop := f.trel < g.trel ∨ f.trel = g.trel ∧ f.slot ≤ g.slot

theorem not_dueFirst_iff (g f : Frame) : dueFirst g f = false ↔ NotBefore g f := by
  simp only [dueFirst, NotBefore, Bool.or_eq_false_iff, Bool.and_eq_false_iff, decide_eq_false_iff_not]
  omega

theorem notBefore_of_dueFirst {g f : Frame} (h : dueFirst g f = true) : NotBefore f g := by
  simp only [dueFirst, Bool.or_eq_true, Bool.and_eq_true, decide_eq_true_eq] at h
  unfold NotBefore
  omega

theorem NotBefore.refl (f : Frame) : NotBefore f f := .inr ⟨rfl, le_rfl⟩

theorem NotBefore.trans {h g f : Frame} (hg : NotBefore h g) (gf : NotBefore g f) : NotBefore h f := by
  unfold NotBefore at *
  omega

/-- The better of the frame found so far and another. -/
def earlier (o : Option Frame) (f : Frame) : Option Frame :=
  match o with
  | none => some f
  | some g => if dueFirst f g then some f else some g

theorem dueFrame_eq (s : State) :
    dueFrame s =
      (s.frames.filter (fun f => f.held.isSome && decide (f.trel ≤ now s) && !blockedBy s.frames f)).foldl earlier none := rfl

theorem foldl_earlier_some {l : List Frame} {g f : Frame} (h : l.foldl earlier (some g) = some f) :
    f ∈ g :: l ∧ ∀ x ∈ g :: l, NotBefore x f := by
  induction l generalizing g with
  | nil =>
    obtain rfl : g = f := by simpa using h
    simp [NotBefore.refl]
  | cons a l ih =>
    by_cases ha : dueFirst a g = true
    · obtain ⟨hm, hb⟩ := ih (g := a) (by simpa [earlier, ha] using h)
      exact ⟨List.mem_cons_of_mem _ hm,
        List.forall_mem_cons.mpr ⟨(notBefore_of_dueFirst ha).trans (hb a List.mem_cons_self), hb⟩⟩
    · obtain ⟨hm, hb⟩ := ih (g := g) (by simpa [earlier, ha] using h)
      obtain ⟨hg, hl⟩ := List.forall_mem_cons.mp hb
      have hag : NotBefore a g := (not_dueFirst_iff a g).mp (by simpa using ha)
      exact ⟨by simp only [List.mem_cons] at hm ⊢; tauto,
        List.forall_mem_cons.mpr ⟨hg, List.forall_mem_cons.mpr ⟨hag.trans hg, hl⟩⟩⟩

/-- The fold finds a frame of the list that none of the list comes before. -/
theorem foldl_earlier {l : List Frame} {f : Frame} (h : l.foldl earlier none = some f) : f ∈ l ∧ ∀ g ∈ l, NotBefore g f := by
  cases l with
  | nil => simp at h
  | cons g l => exact foldl_earlier_some h

/-- Settles O21: of the frames that may be published the fold keeps one that none comes before. -/
theorem publishedFrameIsFirst : Obligations.PublishedFrameIsFirst := by
  intro s f h
  obtain ⟨hm, hb⟩ := foldl_earlier (dueFrame_eq s ▸ h)
  simp only [List.mem_filter, Bool.and_eq_true, decide_eq_true_eq, Bool.not_eq_true'] at hm hb
  obtain ⟨hf, ⟨hh, ht⟩, hn⟩ := hm
  exact ⟨hf, hh, ht, hn, fun g hg gh gt gn => hb g ⟨hg, ⟨gh, gt⟩, gn⟩⟩

/-! ### FRAME_ADMISSION -/

theorem exec_frameAdmission (p : Fin 8) (s : State) : exec (.frameAdmission p) s = live s (frameAdmission s p) := rfl

theorem frameAdmission_idle {s : State} {p : Nat}
    (h : planState s p ≠ 3 ∨ heldByDie s p = true ∨ paceOk s p = false ∨ pickStream s p = none) : frameAdmission s p = s := by
  unfold frameAdmission
  rcases h with h | h | h | h
  · exact if_pos (.inl h)
  · exact if_pos (.inr (.inl h))
  · exact if_pos (by simp [h])
  · rw [h]
    exact ite_self s

theorem frameAdmission_admits {s : State} {p k : Nat} (hst : planState s p = 3) (hd : heldByDie s p = false)
    (hr : (s.plan p).reloc = none) (hw : (s.plan p).switch = 0) (hp : paceOk s p = true) (hk : pickStream s p = some k) :
    frameAdmission s p = admitOne s p k := by
  simp [frameAdmission, hst, hd, hr, hw, hp, hk]

/-- A FIFO whose spent frames leave: nothing else changes. -/
theorem fifClean_eq (s : State) (k : Nat) : ∃ x, fifClean s k = { s with fifos := x } := by
  unfold fifClean
  refine List.foldlRecOn (motive := fun t => ∃ x : SMap FifoSt, t = { s with fifos := x }) _ _ ⟨s.fifos, rfl⟩ ?_
  rintro _ ⟨x, rfl⟩ _ _
  dsimp only
  split
  · exact ⟨x, rfl⟩
  · split
    · exact ⟨_, rfl⟩
    · split
      · exact ⟨_, rfl⟩
      · exact ⟨x, rfl⟩

@[simp] theorem fifClean_frames (s : State) (k : Nat) : (fifClean s k).frames = s.frames := by
  obtain ⟨x, hx⟩ := fifClean_eq s k
  rw [hx]

@[simp] theorem fifClean_streams (s : State) (k : Nat) : (fifClean s k).streams = s.streams := by
  obtain ⟨x, hx⟩ := fifClean_eq s k
  rw [hx]

/-- The release time on a plan without a grid (R32). -/
theorem releaseTime_free {s : State} {p t : Nat} (h : s.getF (cadBase p) CAD_GRID_PERIOD = 0) :
    releaseTime s p t = t + s.getF (cadBase p) CAD_LATENCY_L_PLAN := by
  simp [releaseTime, h]

/-- The least value not below r that has the remainder o. -/
theorem roundUp_spec {q o r : Nat} (hq : 0 < q) :
    r ≤ r + (o % q + q - r % q) % q ∧ r + (o % q + q - r % q) % q < r + q ∧ (r + (o % q + q - r % q) % q) % q = o % q := by
  have hr := Nat.mod_lt r hq
  have ho := Nat.mod_lt o hq
  refine ⟨Nat.le_add_right _ _, Nat.add_lt_add_left (Nat.mod_lt _ hq) _, ?_⟩
  have e : r % q + (o % q + q - r % q) = o % q + q := by omega
  calc (r + (o % q + q - r % q) % q) % q = (r % q + (o % q + q - r % q)) % q := by simp [Nat.add_mod]
    _ = o % q := by rw [e, Nat.add_mod_right, Nat.mod_mod]

/-- The release time on a plan with a grid (R32): the first point of the grid from the latency's end on. -/
theorem releaseTime_grid {s : State} {p t : Nat} (h : 0 < s.getF (cadBase p) CAD_GRID_PERIOD) :
    releaseTime s p t = t + s.getF (cadBase p) CAD_LATENCY_L_PLAN +
      ((s.plan p).origin % s.getF (cadBase p) CAD_GRID_PERIOD + s.getF (cadBase p) CAD_GRID_PERIOD -
        (t + s.getF (cadBase p) CAD_LATENCY_L_PLAN) % s.getF (cadBase p) CAD_GRID_PERIOD) %
          s.getF (cadBase p) CAD_GRID_PERIOD := by
  simp [releaseTime, Nat.ne_of_gt h]

/-- The frame that an admission enters (R31). -/
def admitted (s : State) (p k : Nat) (f : FFrame) : Frame :=
  { plan := p, slot := k, seq := (s.stream k).next, desc := f.desc, ring := f.ring, tsub := now s
    trel := releaseTime s p (now s), flags := withFlag (if f.src.isSome then f.upFlags else 0) fINGEST f.bad
    cores := [], held := none, aborted := false, runs := [], ports := [], doneP := [], outHi := 0
    starved := false, src := f.src, fend := f.fend, relayed := none }

theorem admitOne_spec {s : State} {p k : Nat} {f : FFrame} (hf : nextUnadmitted s k = some f) :
    (admitOne s p k).frames = s.frames ++ [admitted s p k f] ∧
      ((admitOne s p k).stream k).next = ((s.stream k).next + 1) % 2 ^ 32 ∧
      ((admitOne s p k).stream k).last = (s.stream k).next ∧
      ((admitOne s p k).plan p).lastAdm = some (now s) ∧ ((admitOne s p k).plan p).rr = k := by
  refine ⟨?_, ?_, ?_, ?_, ?_⟩ <;>
    simp [admitOne, hf, admitted, State.stream, State.setStream, State.setFifo, apply_ite State.frames, apply_ite State.streams]

/-- Settles O19: an admission enters the frame of the stream in turn, with its release time by the plan's grid. -/
theorem framesAdmitted : Obligations.FramesAdmitted := by
  intro s p hs
  refine ⟨fun h => ?_, fun k f hst hd hr hw hp hk hf => ?_⟩
  · rw [exec_frameAdmission, live_of_functional hs, frameAdmission_idle h]
  · obtain ⟨hfr, hn, hl, ha, hrr⟩ := admitOne_spec (p := p) hf
    refine ⟨admitOne s p k, admitted s p k f, ?_, hfr, rfl, rfl, rfl, rfl, rfl, rfl, rfl, fun h0 => releaseTime_free h0,
      fun h0 => ?_, hn, hl, ha, hrr⟩
    · rw [exec_frameAdmission, live_of_functional hs, frameAdmission_admits hst hd hr hw hp hk]
    · rw [show (admitted s p k f).trel = releaseTime s p (now s) from rfl, releaseTime_grid h0]
      exact roundUp_spec h0

end Sys2Proof.Machine
end

section
/-! A step of the block: the front command, or a nanosecond (R30). -/

namespace Sys2Proof.Machine
open Sys2Proof Sys2Proof.Machine.Reg

theorem step_of_idle {s : State} (h : s.pending = []) : step s = .next (tick s) := by
  unfold step
  rw [h]

theorem tick_porLow {s : State} (h : s.boot.porLow = true) : tick s = s := if_pos h

theorem tick_eq {s : State} (h : s.boot.porLow = false) :
    tick s = tickWaits (bootAdvance ((List.range 8).foldl portTick
      ((List.range 8).foldl starveTick (slewTick { s with boot := { s.boot with upNs := s.boot.upNs + 1 } })))) :=
  if_neg (by simp [h])

theorem tickWaits_eq (s : State) :
    tickWaits s = if (resetGo s).stuck = [] then resetGo s else serveStuck (resetGo s) := by
  simp [tickWaits]

/-- The four ways the time base counts (R474), one for each state of the slew. -/
theorem slewTick_eq {s u : State}
    (h : (s.slew = 0 ∧ u = { s with timeBase := s.timeBase + 1 }) ∨
      (s.slew ≠ 0 ∧ s.slewN + 1 < 10000 ∧ u = { s with timeBase := s.timeBase + 1, slewN := s.slewN + 1 }) ∨
      (0 < s.slew ∧ 10000 ≤ s.slewN + 1 ∧ u = { s with timeBase := s.timeBase + 2, slewN := 0, slew := s.slew - 1 }) ∨
      (s.slew < 0 ∧ 10000 ≤ s.slewN + 1 ∧ u = { s with slewN := 0, slew := s.slew + 1 })) :
    slewTick s = u := by
  unfold slewTick
  rcases h with ⟨h, rfl⟩ | ⟨h, hn, rfl⟩ | ⟨h, hn, rfl⟩ | ⟨h, hn, rfl⟩
  · rw [if_pos h]
  · rw [if_neg h, if_pos hn]
  · rw [if_neg h.ne', if_neg (not_lt.mpr hn), if_pos h]
  · rw [if_neg h.ne, if_neg (not_lt.mpr hn), if_neg (not_lt.mpr h.le)]

/-! ### The boot's own moves (Table 15.7) -/

/-- The ROM fetches an image from the boot flash: it is not told to wait for the host. -/
abbrev bootsFromSpi (s : State) : Prop := policyBit s 4 = false ∧ (s.boot.bootsel = false ∨ policyBit s 3 = true)

theorem bootAdvance_eq (s : State) :
    bootAdvance s =
      if (romRuns s = true ∧ s.getF hubWin MBX_STATUS_HOSTBOOT = 0) ∧ (s.getF hubWin MBX_BOOT_STAGE_STAGE = 0 ∨
          bootsFromSpi s ∧ (s.getF hubWin MBX_BOOT_STAGE_STAGE = 1 ∨ s.getF hubWin MBX_BOOT_STAGE_STAGE = 2)) then
        s.setF hubWin MBX_BOOT_STAGE_STAGE
          (if s.getF hubWin MBX_BOOT_STAGE_STAGE = 2 then 4 else s.getF hubWin MBX_BOOT_STAGE_STAGE + 1)
      else if s.getF hubWin MBX_BOOT_STAGE_STAGE = 5 ∧ released s = true then s.setF hubWin MBX_BOOT_STAGE_STAGE 6 else s := by
  simp only [bootAdvance, bootsFromSpi, Bool.and_eq_true, Bool.or_eq_true, Bool.not_eq_true', decide_eq_true_eq,
    Bool.and_eq_false_iff, Bool.not_eq_false']

/-- Settles O56: the queue's front, POR_N, the nanosecond part by part, and the boot stage by stage. -/
theorem stepRunsFrontCommand : Obligations.StepRunsFrontCommand := by
  refine ⟨fun c rest s => rfl, fun s hq hp => ?_, fun s u hq hp hu v w hv hw => ?_, fun s => ?_⟩
  · rw [step_of_idle hq, tick_porLow hp]
  · have hstep : step s = .next (if w.stuck = [] then w else serveStuck w) := by
      rw [step_of_idle hq, tick_eq hp, slewTick_eq hu, tickWaits_eq, hw, hv]
      rfl
    exact ⟨fun h => by rw [hstep, if_pos h], fun h => by rw [hstep, if_neg h]⟩
  · intro st goes spi rom
    have he := bootAdvance_eq s
    change bootAdvance s = if rom ∧ (st = 0 ∨ spi ∧ (st = 1 ∨ st = 2)) then
      s.setF hubWin MBX_BOOT_STAGE_STAGE (if st = 2 then 4 else st + 1)
      else if st = 5 ∧ released s = true then s.setF hubWin MBX_BOOT_STAGE_STAGE 6 else s at he
    refine ⟨fun hr h => ?_, fun hr hs h => ?_, fun hr hs h => ?_, fun hr h => ?_, fun h hr => ?_, fun h hr => ?_, fun h => ?_,
      fun hs h => ?_⟩
    · exact he.trans (by simp [hr, h])
    · exact he.trans (by simp [hr, hs, h])
    · exact he.trans (by simp [hr, hs, h])
    · simp [he, hr, h]
    · exact he.trans (by simp [hr, h])
    · simp [he, hr, h]
    · rw [he, if_neg (by omega), if_neg (by omega)]
    · rw [he, if_neg (fun hc => hc.2.elim (fun h0 => by omega) (fun hx => hs hx.1)), if_neg (by omega)]

/-- Settles O58. -/
theorem resetMeetsInvariant : Obligations.ResetMeetsInvariant :=
  ⟨⟨rfl, Nat.zero_le _, fun _ h => h, .inl rfl⟩, rfl, rfl⟩

end Sys2Proof.Machine
end

section
/-! Plans between frames (R43, R44, R47, R162): when a stop, a switch or a kiln pass begins, and the commands of a plan slot. -/

namespace Sys2Proof.Machine
open Sys2Proof Sys2Proof.Machine.Reg

/-! ### Fields of one block -/

theorem planState_setPlan (s : State) (p q : Nat) (x : PlanSt) : planState (s.setPlan p x) q = planState s q := rfl

/-- The state of a slot that was set (Table 1.1). -/
theorem planState_setF {s : State} {p st : Nat} (h : st < 8) : planState (s.setF (cadBase p) CAD_STATE_SLOT st) p = st :=
  (State.getF_setF_same s _ _ _ (by decide)).trans (Nat.mod_eq_of_lt h)

/-! ### Frames a plan works on -/

/-- The frames a plan works on depend on its image, its configuration and its moved cores alone. -/
theorem working_congr {s t : State} {p : Nat} (hf : t.frames = s.frames) (hi : (t.plan p).img = (s.plan p).img)
    (hc : (t.plan p).cfg = (s.plan p).cfg) (hm : (t.plan p).moved = (s.plan p).moved) : working t p = working s p := by
  have hmv : movedTo (t.plan p) = movedTo (s.plan p) := by
    funext n c
    simp [movedTo, hm]
  have hpc : pathCores t p = pathCores s p := by simp [pathCores, hi, hc, hmv]
  unfold working
  rw [hf]
  refine List.filter_congr fun f _ => ?_
  by_cases h : f.plan = p
  · simp [segDone, h, hpc]
  · simp [h]

theorem working_setPlan (s : State) {p : Nat} {x : PlanSt} (hi : x.img = (s.plan p).img) (hc : x.cfg = (s.plan p).cfg)
    (hm : x.moved = (s.plan p).moved) : working (s.setPlan p x) p = working s p :=
  working_congr rfl (by rw [State.plan_setPlan_same, hi]) (by rw [State.plan_setPlan_same, hc])
    (by rw [State.plan_setPlan_same, hm])

/-- A frame of the plan that has not passed the segment in force is one the plan works on. -/
theorem working_ne_nil {s : State} {p : Nat}
    (h : s.frames.any (fun f => f.plan = p && f.held.isNone && !segDone s f) = true) : working s p ≠ [] := by
  obtain ⟨f, hf, h⟩ := List.any_eq_true.mp h
  exact List.ne_nil_of_mem (List.mem_filter.mpr ⟨hf, h⟩)

theorem working_subset {s : State} {p : Nat} {f : Frame} (h : f ∈ working s p) : f ∈ s.frames ∧ f.plan = p := by
  simp only [working, List.mem_filter, Bool.and_eq_true, decide_eq_true_eq] at h
  exact ⟨h.1, h.2.1.1⟩

/-! ### What a plan does next -/

/-- A slot that is STOPPING waits for its frames in flight (R47). -/
theorem planCheck_stopping {s : State} {p : Nat} (hst : planState s p = 5) (h : s.frames.any (fun f => f.plan = p) = true) :
    planCheck s p = s := by
  simp only [planCheck, hst, h, if_true, ite_self]

/-- A slot that is not STOPPING does nothing while it works on a frame (R43). -/
theorem planCheck_working {s : State} {p : Nat} (hst : planState s p ≠ 5) (h : working s p ≠ []) : planCheck s p = s := by
  have hw : (working s p).isEmpty = false := by simpa using h
  simp [planCheck, hst, hw]

/-- A round whose window is closed and whose frames are done is followed by a switch to the next segment (R43, R44). -/
theorem planCheck_round {s : State} {p : Nat} (hst : planState s p = 3) (hr : (s.plan p).reloc = none)
    (hsw : (s.plan p).switch = 0) (hw : working s p = []) (hk : (s.plan p).kiln = none) (hn : 1 < piNSEG (s.plan p).img)
    (hwin : (s.plan p).window = false) (hrn : (s.plan p).roundN ≠ 0) :
    planCheck s p = startSwitch s p (((s.plan p).cfg + 1) % piNSEG (s.plan p).img) := by
  simp [planCheck, hst, hr, hsw, hw, hk, hwin, hrn, Nat.not_le.mpr hn]

/-! ### Commands taken -/

/-- A command that starts is the one at its place among those taken. -/
theorem taken_of_cmdAt {s : State} {i opc : Nat} {c : Taken} (h : cmdAt s i opc = some c) : s.taken[i]? = some c := by
  unfold cmdAt at h
  split at h
  · cases h
  · next t ht =>
    split at h
    · cases h
    · rw [ht, h]

theorem startTaken_eq {s : State} {i : Nat} {c : Taken} (h : s.taken[i]? = some c) (v0 v1 : Nat) :
    startTaken s i v0 v1 = { s with taken := s.taken.set i { c with started := true, v0 := v0, v1 := v1 } } := by
  simp [startTaken, h]

theorem exec_planStart (i : Nat) (s : State) : exec (.planStart i) s = live s (planStart s i) := rfl
theorem exec_planStop (i : Nat) (s : State) : exec (.planStop i) s = live s (planStop s i) := rfl
theorem exec_planUnload (i : Nat) (s : State) : exec (.planUnload i) s = live s (planUnload s i) := rfl
theorem exec_kilnRun (i : Nat) (s : State) : exec (.kilnRun i) s = live s (kilnRun s i) := rfl

/-- A slot of the device in a state that allows the command. -/
theorem slotBad_none {s : State} {c : Taken} {ok : Nat → Bool} (hp : tkArg c 8 1 < 8)
    (h : ok (planState s (tkArg c 8 1)) = true) : slotBad s c ok = none := by
  simp [slotBad, Nat.not_lt.mpr (Nat.le_of_lt_succ hp), h]

/-! ### PLAN_START -/

/-- A slot that runs, with the grid origin and the relay output of now in force (R40, R464). -/
def started (s : State) (p : Nat) : State :=
  (s.setF (cadBase p) CAD_STATE_SLOT 3).setPlan p { s.plan p with
    origin := s.getF (cadBase p) CAD_ORIGIN_OFFSET, outCfg := s.reg (hubWin + 0x60A00 + 8 * p)
    outLen := s.getF (hubWin + 0x60000 + 8 * p) RLY_OUT_LEN_BYTES, lastDone := now s }

/-- The words that a start reads stand apart from the slot's state. -/
theorem planStart_eq {s : State} {i : Nat} {c : Taken} (hc : cmdAt s i 3 = some c) (hp : tkArg c 8 1 < 8)
    (hst : planState s (tkArg c 8 1) = 2) :
    planStart s i = finish (restartAges (holdFromDies (started s (tkArg c 8 1)) (tkArg c 8 1)) (tkArg c 8 1)) i 0 0
      (natToBytes 8 (now s)) := by
  simp only [planStart, hc, slotBad_none hp (ok := fun st => st = 2) (by simpa using hst)]
  generalize tkArg c 8 1 = p at hp
  have horigin : (s.setF (cadBase p) CAD_STATE_SLOT 3).getF (cadBase p) CAD_ORIGIN_OFFSET = s.getF (cadBase p) CAD_ORIGIN_OFFSET :=
    State.getF_setF_apart _ _ _ _ _ _ (by decide) (.inl (by simp [CAD_ORIGIN_OFFSET, CAD_STATE_SLOT]))
  have hcfg : (s.setF (cadBase p) CAD_STATE_SLOT 3).reg (rlyBase + 0xA00 + 8 * p) = s.reg (hubWin + 0x60A00 + 8 * p) :=
    State.reg_setF_ne _ _ _ _ _ (by
      unfold rlyBase cadBase
      show _ ≠ hubWin + 0x10000 + 0x100 * p + 0x10
      omega)
  have hlen : (s.setF (cadBase p) CAD_STATE_SLOT 3).getF (rlyBase + 8 * p) RLY_OUT_LEN_BYTES =
      s.getF (hubWin + 0x60000 + 8 * p) RLY_OUT_LEN_BYTES :=
    State.getF_setF_apart _ _ _ _ _ _ (by decide)
      (.inl (by
        unfold rlyBase cadBase
        show hubWin + 0x60000 + 8 * p + 0xA04 ≠ hubWin + 0x10000 + 0x100 * p + 0x10
        omega))
  rw [horigin, hcfg, hlen]
  rfl

/-! ### PLAN_STOP -/

theorem planState_startTaken (s : State) (i v0 v1 p : Nat) : planState (startTaken s i v0 v1) p = planState s p := by
  unfold startTaken
  split <;> rfl

theorem plan_startTaken (s : State) (i v0 v1 p : Nat) : (startTaken s i v0 v1).plan p = s.plan p := by
  unfold startTaken
  split <;> rfl

theorem frames_startTaken (s : State) (i v0 v1 : Nat) : (startTaken s i v0 v1).frames = s.frames := by
  unfold startTaken
  split <;> rfl

theorem working_startTaken (s : State) (i v0 v1 p : Nat) : working (startTaken s i v0 v1) p = working s p :=
  working_congr (frames_startTaken s i v0 v1) (by rw [plan_startTaken]) (by rw [plan_startTaken]) (by rw [plan_startTaken])

/-- A slot that enters STOPPING with a frame at work stays so. -/
theorem planCheck_enters_stopping {s : State} {p : Nat} (x : PlanSt) (hw : working s p ≠ []) :
    planCheck ((s.setF (cadBase p) CAD_STATE_SLOT 5).setPlan p x) p = (s.setF (cadBase p) CAD_STATE_SLOT 5).setPlan p x := by
  obtain ⟨f, hf⟩ := List.exists_mem_of_ne_nil _ hw
  obtain ⟨hm, hp⟩ := working_subset hf
  exact planCheck_stopping ((planState_setPlan _ _ _ _).trans (planState_setF (by decide)))
    (List.any_eq_true.mpr ⟨f, hm, decide_eq_true hp⟩)

/-- A stop with a frame at work (R47): at once where no other segment is to follow, else once the round is over. -/
theorem planStop_eq {s : State} {i : Nat} {c : Taken} (hc : cmdAt s i 4 = some c) (hp : tkArg c 8 1 < 8)
    (hst : planState s (tkArg c 8 1) = 3) (hsw : (s.plan (tkArg c 8 1)).switch = 0) (hw : working s (tkArg c 8 1) ≠ []) :
    planStop s i =
      if piNSEG (s.plan (tkArg c 8 1)).img ≤ 1 ∨ ((s.plan (tkArg c 8 1)).cfg = 0 ∧ (s.plan (tkArg c 8 1)).roundN = 0) then
        ((startTaken s i 0 0).setF (cadBase (tkArg c 8 1)) CAD_STATE_SLOT 5).setPlan (tkArg c 8 1)
          { s.plan (tkArg c 8 1) with window := false }
      else (startTaken s i 0 0).setPlan (tkArg c 8 1) { s.plan (tkArg c 8 1) with stopPend := true, window := false } := by
  have hgood : slotBad s c (fun st => st = 3 || st = 4) = none := slotBad_none hp (by simp [hst])
  simp only [planStop, hc, hgood]
  generalize tkArg c 8 1 = p at *
  have hst' : planState (startTaken s i 0 0) p = 3 := (planState_startTaken s i 0 0 p).trans hst
  have hw' : working (startTaken s i 0 0) p ≠ [] := (working_startTaken s i 0 0 p).trans_ne hw
  have hx := plan_startTaken s i 0 0 p
  generalize startTaken s i 0 0 = u at *
  have hnow : (planState u p = 3 ∧ (s.plan p).switch = 0 ∧
      (piNSEG (s.plan p).img ≤ 1 ∨ ((s.plan p).cfg = 0 ∧ (s.plan p).roundN = 0))) ↔
      (piNSEG (s.plan p).img ≤ 1 ∨ ((s.plan p).cfg = 0 ∧ (s.plan p).roundN = 0)) := by
    simp [hst', hsw]
  rw [if_congr hnow rfl rfl, ← hx, planCheck_enters_stopping _ hw', planCheck_working]
  · exact (planState_setPlan u p p _).trans_ne (by rw [hst']; decide)
  · refine (working_setPlan u ?_ ?_ ?_).trans_ne hw' <;> rfl

/-! ### PLAN_UNLOAD and KILN_RUN -/

theorem planUnload_eq {s : State} {i : Nat} {c : Taken} (hc : cmdAt s i 5 = some c) (hp : tkArg c 8 1 < 8)
    (hst : planState s (tkArg c 8 1) = 2 ∨ planState s (tkArg c 8 1) = 6)
    (hk : ∀ k, k < 128 → (s.stream k).plan ≠ some (tkArg c 8 1)) :
    planUnload s i = finish (idleMemories (releasePlan s (tkArg c 8 1))) i 0 0 [] := by
  have hb : boundTo s (tkArg c 8 1) = none := by
    simp only [boundTo, List.find?_eq_none, List.mem_range, decide_eq_true_eq]
    exact hk
  simp only [planUnload, hc, slotBad_none hp (ok := fun st => st = 2 || st = 6) (by simpa using hst), hb]

theorem kilnRun_eq {s : State} {i : Nat} {c : Taken} (hc : cmdAt s i 8 = some c) (hp : tkArg c 8 1 < 8)
    (hst : planState s (tkArg c 8 1) = 3) (hk : imKiln (s.plan (tkArg c 8 1)).img = true)
    (hm : tkArg c 0xA 2 < 2 ^ piNSEG (s.plan (tkArg c 8 1)).img) :
    kilnRun s i = if tkArg c 0xA 2 = 0 then finish s i 0 0 []
      else planCheck ((startTaken s i 0 0).setPlan (tkArg c 8 1)
        { s.plan (tkArg c 8 1) with kiln := some ⟨maskBits 16 (tkArg c 0xA 2), 0, [], none⟩ }) (tkArg c 8 1) := by
  simp only [kilnRun, hc, slotBad_none hp (ok := fun st => st = 3) (by simpa using hst), hk, Bool.not_true, Bool.false_eq_true,
    if_false, if_neg (Nat.not_le.mpr hm)]

/-- Settles O5, command by command. -/
theorem planSlotCommandsComplete : Obligations.PlanSlotCommandsComplete := by
  refine ⟨fun s i c hs hc hp hst => ⟨?_, ?_⟩, fun s i c hs hc hp hst hr hsw hw => ?_, fun s i c hs hc hp hst hk => ?_,
    fun s i c hs hc hp hst hk hm => ?_⟩
  · exact (planState_setPlan _ _ _ _).trans (planState_setF (by decide))
  · rw [exec_planStart, live_of_functional hs, planStart_eq hc hp hst]
    rfl
  · rw [exec_planStop, live_of_functional hs, planStop_eq hc hp hst hsw (working_ne_nil hw), startTaken_eq (taken_of_cmdAt hc)]
  · rw [exec_planUnload, live_of_functional hs, planUnload_eq hc hp hst hk]
  · rw [exec_kilnRun, live_of_functional hs, kilnRun_eq hc hp hst hk hm, startTaken_eq (taken_of_cmdAt hc)]
    rfl

end Sys2Proof.Machine
end

section
/-! What the hub sends (results, events, interrupts, flits): the few fields that sending changes. -/

namespace Sys2Proof.Machine
open Sys2Proof Sys2Proof.Machine.Reg

/-- A state after sends: registers, the log, ports, streams, what is sent and what waits to be sent may differ, nothing else. -/
def Sent (s t : State) : Prop :=
  ∃ (regs : SMap (BitVec 32)) (log : List LogRec) (streams : SMap StreamSt) (ports : SMap PortSt) (relayq : List Flit)
    (grants : SMap Nat) (out : List Out),
    t = { s with regs := regs, log := log, streams := streams, ports := ports, relayq := relayq, grants := grants, out := out }

theorem Sent.refl (s : State) : Sent s s := ⟨_, _, _, _, _, _, _, rfl⟩

theorem Sent.trans {s t u : State} (h : Sent s t) (g : Sent t u) : Sent s u := by
  obtain ⟨_, _, _, _, _, _, _, rfl⟩ := h
  obtain ⟨_, _, _, _, _, _, _, rfl⟩ := g
  exact ⟨_, _, _, _, _, _, _, rfl⟩

theorem Sent.foldl_fst {β γ : Type} (f : State × γ → β → State × γ) (h : ∀ st x, Sent st.1 (f st x).1) (l : List β)
    (st : State × γ) : Sent st.1 (l.foldl f st).1 := by
  induction l generalizing st with
  | nil => exact .refl st.1
  | cons x l ih => exact (h st x).trans (ih (f st x))

theorem Sent.frames {s t : State} (h : Sent s t) : t.frames = s.frames := by
  obtain ⟨_, _, _, _, _, _, _, rfl⟩ := h
  rfl

theorem portXmit_sent (s : State) (p : Nat) (f : Flit) : Sent s (portXmit s p f) := ⟨_, _, _, _, _, _, _, rfl⟩

theorem portDrain_sent (s : State) (p : Nat) : Sent s (portDrain s p) := by
  refine Sent.trans (Sent.foldl_fst _ (fun st f => ?_) (s.port p).sendq (s, [])) ⟨_, _, _, _, _, _, _, rfl⟩
  split
  · exact portXmit_sent st.1 p f
  · exact .refl st.1

theorem flitSend_sent (s : State) (f : Flit) : Sent s (flitSend s f).2 := by
  unfold flitSend
  dsimp only
  split
  · exact .refl s
  · exact Sent.trans ⟨_, _, _, _, _, _, _, rfl⟩ (portDrain_sent _ _)

theorem raiseVector_sent (s : State) (v : Nat) : Sent s (raiseVector s v) := by
  unfold raiseVector
  split
  · exact .refl s
  · split
    · exact flitSend_sent s _
    · split <;> exact ⟨_, _, _, _, _, _, _, rfl⟩

theorem logEvent_sent (s : State) (code core slot a0 a1 a2 a3 : Nat) : Sent s (logEvent s code core slot a0 a1 a2 a3) :=
  Sent.trans ⟨_, _, _, _, _, _, _, rfl⟩ (raiseVector_sent _ 1)

theorem hostWrite_sent (s : State) (addr : Nat) (data : Bytes) : Sent s (hostWrite s addr data) := by
  unfold hostWrite hostPut
  split
  · exact .refl s
  · split
    · exact ⟨_, _, _, _, _, _, _, rfl⟩
    · exact Sent.foldl_fst _ (fun st _ => flitSend_sent st.1 _) _ (s, addr)

theorem countResult_sent (s : State) (k : Nat) : Sent s (countResult s k) := by
  unfold countResult
  dsimp only
  split
  · exact Sent.trans ⟨_, _, _, _, _, _, _, rfl⟩ (raiseVector_sent _ _)
  · exact ⟨_, _, _, _, _, _, _, rfl⟩

theorem writeResult_sent (s : State) (k user seq outBytes flags ring : Nat) (noirq : Bool) :
    Sent s (writeResult s k user seq outBytes flags ring noirq) := by
  unfold writeResult
  dsimp only
  have hw := fun a d => hostWrite_sent s a d
  split
  · exact (hw _ _).trans ⟨_, _, _, _, _, _, _, rfl⟩
  · exact ((hw _ _).trans ⟨_, _, _, _, _, _, _, rfl⟩).trans (countResult_sent _ k)

theorem relayPump_sent (s : State) : Sent s (relayPump s) := by
  refine Sent.trans (Sent.foldl_fst _ (fun st f => ?_) s.relayq (s, [])) ⟨_, _, _, _, _, _, _, rfl⟩
  dsimp only
  split
  · exact .refl st.1
  · split
    · exact .refl st.1
    · exact Sent.trans ⟨_, _, _, _, _, _, _, rfl⟩ (flitSend_sent _ _)

theorem relaySend_sent (s : State) (f : Flit) : Sent s (relaySend s f) :=
  Sent.trans ⟨_, _, _, _, _, _, _, rfl⟩ (relayPump_sent _)

theorem publish_sent (s : State) (f : Frame) (flags : Nat) : Sent s (publish s f flags) := by
  unfold publish
  dsimp only
  split
  · exact (writeResult_sent _ _ _ _ _ _ _ _).trans (relaySend_sent _ _)
  · exact writeResult_sent _ _ _ _ _ _ _ _

/-- A release sends, and takes the frame's entry away. -/
theorem release_frames (s : State) (f : Frame) :
    (release s f).frames = s.frames.filter (fun g => !(g.slot = f.slot && g.seq = f.seq)) := by
  unfold release
  dsimp only
  have hcount : Sent s (if bit f.flags fLATE then s.addF (cadBase f.plan) CAD_LATE_CNT_COUNT 1 else s) := by
    split <;> exact ⟨_, _, _, _, _, _, _, rfl⟩
  generalize (if bit f.flags fLATE then s.addF (cadBase f.plan) CAD_LATE_CNT_COUNT 1 else s) = t at hcount ⊢
  have hrisk : Sent t (if bit f.flags fLRISK then t.addF (cadBase f.plan) CAD_LRISK_CNT_COUNT 1 else t) := by
    split <;> exact ⟨_, _, _, _, _, _, _, rfl⟩
  generalize (if bit f.flags fLRISK then t.addF (cadBase f.plan) CAD_LRISK_CNT_COUNT 1 else t) = u at hrisk ⊢
  rw [(publish_sent _ f f.flags).frames]
  split
  · rw [(logEvent_sent _ _ _ _ _ _ _ _).frames, hrisk.frames, hcount.frames]
  · rw [hrisk.frames, hcount.frames]

end Sys2Proof.Machine
end

section
/-! The cadence gate: reports, releases, timeouts and timers (R34 to R38, R43, R154, R419, R424, R433). -/

namespace Sys2Proof.Machine
open Sys2Proof Sys2Proof.Machine.Reg

theorem exec_roundWindowClose (p : Fin 8) (s : State) : exec (.roundWindowClose p) s = live s (windowClose s p) := rfl
theorem exec_resultModerationTimer (k : Fin 128) (s : State) :
    exec (.resultModerationTimer k) s = live s (moderation s k) := rfl
theorem exec_frameEndReport (k : Nat) (s : State) : exec (.frameEndReport k) s = live s (frameEndReport s k) := rfl
theorem exec_resultPublish (s : State) : exec .resultPublish s = live s (resultPublish s) := rfl
theorem exec_outputTimeout (k : Fin 128) (seq : BitVec 32) (s : State) :
    exec (.outputTimeout k seq) s = live s (outputTimeout s k seq.toNat) := rfl

/-! ### Timers (R43, R424) -/

theorem windowClose_closes {s : State} {p : Nat} (h : (s.plan p).window = true) (ht : windowEnd (s.plan p) ≤ now s) :
    windowClose s p = planCheck (s.setPlan p { s.plan p with window := false }) p := if_pos ⟨h, ht⟩

theorem windowClose_early {s : State} {p : Nat} (h : (s.plan p).window = false ∨ now s < windowEnd (s.plan p)) :
    windowClose s p = s := by
  refine if_neg fun hc => ?_
  obtain ⟨hw, ht⟩ := hc
  rcases h with h | h
  · simp [h] at hw
  · omega

theorem moderation_due {s : State} {k t : Nat} (h : (s.stream k).sinceT = some t) (hm : (s.stream k).modus ≠ 0)
    (ht : t + 1000 * (s.stream k).modus ≤ now s) :
    moderation s k = raiseVector (s.setStream k { s.stream k with since := 0, sinceT := none }) (s.stream k).ivec := by
  simp only [moderation, h]
  exact if_neg (by omega)

theorem moderation_early {s : State} {k t : Nat} (h : (s.stream k).sinceT = some t)
    (ht : (s.stream k).modus = 0 ∨ now s < t + 1000 * (s.stream k).modus) : moderation s k = s := by
  simp only [moderation, h]
  exact if_pos ht

theorem gateTimers : Spec.GateTimers := by
  refine ⟨fun s p hs => ⟨fun hw ht => ?_, fun h => ?_⟩, fun s k hs => ⟨fun t h hm ht => ?_, fun t h ht => ?_⟩⟩
  · have hx : exec (.roundWindowClose p) s = .next (planCheck (s.setPlan p { s.plan p with window := false }) p) := by
      rw [exec_roundWindowClose, live_of_functional hs, windowClose_closes hw ht]
    have hwork : working (s.setPlan p { s.plan p with window := false }) p = working s p := working_setPlan s rfl rfl rfl
    refine ⟨hx, fun hb hst => ?_, fun hb hst hr hsw hk hn hrn => ?_⟩
    · rw [hx, planCheck_working (by rw [planState_setPlan, hst]; decide) (hwork.trans_ne hb)]
    · refine hx.trans (congrArg _ ((planCheck_round (s := s.setPlan p { s.plan p with window := false }) hst ?_ ?_ (hwork.trans hb) ?_ ?_ ?_ ?_).trans ?_)) <;>
        rw [State.plan_setPlan_same] <;> assumption
  · rw [exec_roundWindowClose, live_of_functional hs, windowClose_early h]
  · rw [exec_resultModerationTimer, live_of_functional hs, moderation_due h hm ht]
  · rw [exec_resultModerationTimer, live_of_functional hs, moderation_early h ht]

/-! ### Reports (R154, R419) -/

theorem frameEndReport_none {s : State} {k : Nat} (h : s.reports[k]? = none) : frameEndReport s k = s := by
  simp [frameEndReport, h]

/-- A frame with one more report: its core, and its flags unless the frame is aborted or held. -/
def withReport (f : Frame) (r : Report) : Frame :=
  { f with
    flags := if f.aborted ∨ f.held.isSome then f.flags
      else withFlag (withFlag (withFlag f.flags fSAT r.sat) fUFL r.ufl) fTRUNC r.trunc
    cores := if r.core ∈ f.cores then f.cores else r.core :: f.cores }

theorem withFlag_eq_or (w f : Nat) (b : Bool) : withFlag w f b = w ||| if b then 2 ^ f else 0 := by
  cases b <;> simp [withFlag]

theorem withReport_live {f : Frame} (r : Report) (ha : f.aborted = false) (hh : f.held = none) :
    withReport f r = { f with
      flags := (((f.flags ||| if r.sat then 4 else 0) ||| if r.ufl then 8 else 0) ||| if r.trunc then 16 else 0)
      cores := if r.core ∈ f.cores then f.cores else r.core :: f.cores } := by
  simp [withReport, withFlag_eq_or, ha, hh, fSAT, fUFL, fTRUNC]

theorem withReport_aborted {f : Frame} (r : Report) (ha : f.aborted = true) :
    withReport f r = { f with cores := if r.core ∈ f.cores then f.cores else r.core :: f.cores } := by
  simp [withReport, ha]

/-- The state once a report has reached its frame. -/
def afterReport (s : State) (k : Nat) (r : Report) (f : Frame) : State :=
  setFrame { s with reports := s.reports.eraseIdx k } (withReport f r)

/-- The state once a frame has passed the last core of its segment. -/
def afterSegment (s : State) (k : Nat) (r : Report) (f : Frame) : State :=
  ((afterReport s k r f).setPlan f.plan { s.plan f.plan with lastDone := now s }).setStream f.slot
    { s.stream f.slot with closeT := now s }

theorem frameEndReport_eq {s : State} {k : Nat} {r : Report} {f : Frame} (hr : s.reports[k]? = some r)
    (hf : frameOf s r.slot r.seq = some f) :
    frameEndReport s k =
      if !segDone (afterReport s k r f) (withReport f r) then afterReport s k r f
      else streamCheck (planCheck
        (if !lastCfg (s.plan f.plan) then afterSegment s k r f
        else if f.aborted then { afterSegment s k r f with
          frames := (afterSegment s k r f).frames.filter (fun g => !(g.slot = f.slot && g.seq = f.seq)) }
        else tryHold (setFrame (afterSegment s k r f) { withReport f r with cores := 128 :: (withReport f r).cores })
          f.slot f.seq) f.plan) f.slot := by
  have hf' : frameOf { s with reports := s.reports.eraseIdx k } r.slot r.seq = some f := hf
  have hc : (if f.cores.contains r.core then f.cores else r.core :: f.cores) =
    if r.core ∈ f.cores then f.cores else r.core :: f.cores := by simp
  simp only [frameEndReport, hr, hf', hc]
  rfl

/-! ### The gate (R34, R38, R419) -/

theorem frameOf_slot_seq {s : State} {k seq : Nat} {f : Frame} (h : frameOf s k seq = some f) : f.slot = k ∧ f.seq = seq := by
  simpa using List.find?_some h

theorem relayFill_of_no_output {s : State} {k seq : Nat} {f : Frame} (h : frameOf s k seq = some f)
    (ho : outEN (s.plan f.plan) = false) : relayFill s k seq = s := by
  simp [relayFill, h, ho]

theorem fend_came {f : Frame} (h : f.src.isSome = true → f.fend.isSome = true) : (f.src.isSome && f.fend.isNone) = false := by
  cases hs : f.src <;> cases hf : f.fend <;> simp_all

theorem State.maxF_frames (s : State) (b : Nat) (f : Fld) (v : Nat) : (s.maxF b f v).frames = s.frames := by
  unfold State.maxF
  split <;> rfl

theorem tryHold_holds {s : State} {f : Frame} (hf : frameOf s f.slot f.seq = some f) (hh : f.held = none)
    (ha : f.aborted = false) (hc : 128 ∈ f.cores) (hp : ∀ q ∈ f.ports, portDone s f q = true)
    (hs : f.src.isSome = true → f.fend.isSome = true) (ho : outEN (s.plan f.plan) = false) :
    tryHold s f.slot f.seq = hold s f 0 := by
  have hports : f.ports.any (fun q => !portDone s f q) = false := by simpa using hp
  simp [tryHold, hf, hh, ha, hc, hports, fend_came hs, relayFill_of_no_output hf ho]

/-- A frame that has its result in time is held. -/
theorem hold_intime {s : State} {f : Frame} (h : now s ≤ f.trel) :
    hold s f 0 = setFrame (s.maxF (cadBase f.plan) CAD_MAX_RUN_NS (min (now s - f.tsub) (2 ^ 32 - 1)))
      { f with held := some (now s), flags := f.flags ||| f.fend.getD 0 } := by
  simp [hold, Nat.not_lt.mpr h]

/-- A frame that has its result late is held with LATE, and what may be published of its stream is. -/
theorem hold_late {s : State} {f : Frame} (extra : Nat) (h : f.trel < now s) :
    hold s f extra = releaseLate
      (setFrame (s.maxF (cadBase f.plan) CAD_MAX_RUN_NS (min (now s - f.tsub) (2 ^ 32 - 1)))
        { f with held := some (now s), flags := (f.flags ||| extra ||| f.fend.getD 0) ||| 2 ^ fLATE })
      f.slot s.frames.length := by
  have hl : (setFrame (s.maxF (cadBase f.plan) CAD_MAX_RUN_NS (min (now s - f.tsub) (2 ^ 32 - 1)))
      { f with held := some (now s), flags := (f.flags ||| extra ||| f.fend.getD 0) ||| 2 ^ fLATE }).frames.length =
      s.frames.length := by simp [setFrame, State.maxF_frames]
  rw [← hl]
  exact (if_pos h).trans (by simp only [if_pos h])

theorem resultPublish_due {s : State} {f : Frame} (hh : s.hubHot = false) (hd : dueFrame s = some f) :
    resultPublish s = releaseLate (afterRelease (release s f) f) f.slot s.frames.length := by
  simp [resultPublish, hh, hd]

theorem resultPublish_idle {s : State} (h : dueFrame s = none ∨ s.hubHot = true) : resultPublish s = s := by
  unfold resultPublish
  rcases h with h | h
  · rw [h]
    exact ite_self s
  · exact if_pos h

theorem outputTimeout_early {s : State} {k seq : Nat} {f : Frame} (hf : frameOf s k seq = some f)
    (h : now s < f.trel + 10000000) : outputTimeout s k seq = s := by
  simp [outputTimeout, hf, h]

theorem outputTimeout_due {s : State} {k seq : Nat} {f : Frame} (hf : frameOf s k seq = some f) (hh : f.held = none)
    (ha : f.aborted = false) (hc : 128 ∈ f.cores) (hp : ∃ q ∈ f.ports, portDone s f q = false) (hhot : s.hubHot = false)
    (hs : f.src.isSome = true → f.fend.isSome = true) (ho : outEN (s.plan f.plan) = false)
    (ht : f.trel + 10000000 ≤ now s) :
    outputTimeout s k seq = hold s { f with doneP := f.ports } (2 ^ 8 ||| 2 ^ 0) := by
  have hports : f.ports.all (portDone s f) = false := by simpa [List.all_eq_false] using hp
  simp [outputTimeout, hf, hhot, hh, ha, hc, hports, fend_came hs, relayFill_of_no_output hf ho, Nat.not_lt.mpr ht, fOUTCUT, fLATE]

theorem resultsReleased : Spec.ResultsReleased := by
  refine ⟨fun s k r f hs hr hf => ?_, fun s k hs h => ?_, fun s f hf hh ha hc hp hsrc ho => ⟨fun ht => ?_, fun ht => ?_⟩,
    fun s f hs hh hd => ⟨?_, fun g hg => ?_⟩, fun s hs h => ?_,
    fun s k seq f hs hf hh ha hc hp hhot hsrc ho ht => ?_, fun s k seq f hs hf ht => ?_⟩
  · intro x cores
    have hx : exec (.frameEndReport k) s = _ :=
      (live_of_functional hs _).trans (congrArg _ (frameEndReport_eq hr hf))
    refine ⟨fun ha hh => ?_, fun ha => ?_⟩
    · intro g u w v
      have hg : withReport f r = g := withReport_live r ha hh
      have hu : afterReport s k r f = u := congrArg _ hg
      have hv : afterSegment s k r f = v := by rw [afterSegment, hu]
      rw [hg, hu, hv] at hx
      refine ⟨fun hd => ?_, fun hd hl => ?_, fun hd hl => ?_⟩
      · rw [hx, if_pos (by simp [hd])]
      · rw [hx, if_neg (by simp [hd]), if_pos (by simpa using hl)]
      · rw [hx, if_neg (by simp [hd]), if_neg (by simpa using hl), if_neg (by simp [ha])]
    · intro g u w v
      have hg : withReport f r = g := withReport_aborted r ha
      have hu : afterReport s k r f = u := congrArg _ hg
      have hv : afterSegment s k r f = v := by rw [afterSegment, hu]
      rw [hg, hu, hv] at hx
      refine ⟨fun hd => ?_, fun hd hl => ?_⟩
      · rw [hx, if_pos (by simp [hd])]
      · rw [hx, if_neg (by simp [hd]), if_neg (by simpa using hl), if_pos ha]
  · rw [exec_frameEndReport, live_of_functional hs, frameEndReport_none h]
  · rw [tryHold_holds hf hh ha hc hp hsrc ho, hold_intime ht]
  · rw [tryHold_holds hf hh ha hc hp hsrc ho, hold_late 0 ht, Nat.or_zero]
    rfl
  · rw [exec_resultPublish, live_of_functional hs, resultPublish_due hh hd]
  · obtain ⟨hm, hn⟩ := List.mem_filter.mp (release_frames s f ▸ hg)
    exact ⟨hm, fun hc => by simp [hc] at hn⟩
  · rw [exec_resultPublish, live_of_functional hs, resultPublish_idle h]
  · rw [exec_outputTimeout, live_of_functional hs, outputTimeout_due hf hh ha hc hp hhot hsrc ho ht]
  · rw [exec_outputTimeout, live_of_functional hs, outputTimeout_early hf ht]

/-- Settles O20: what brings a frame to the gate and what releases it, and the gate's timers. -/
theorem gateReleases : Obligations.GateReleases := ⟨resultsReleased, gateTimers⟩

end Sys2Proof.Machine
end

section
/-! Drains, the flush of a relocation (R42, R262 to R264, R441), notices of aborted frames and what they invalidate (R434, R435). -/

namespace Sys2Proof.Machine
open Sys2Proof Sys2Proof.Machine.Reg

theorem awaited_self (s : State) : awaited s s = s := awaited_of_met_eq rfl

theorem exec_drainProbeStart (p : Fin 8) (s : State) :
    exec (.drainProbeStart p) s = live s (awaited s (startGroup (drainProbe s p))) := rfl
theorem exec_drainTimeout (p : Fin 8) (s : State) : exec (.drainTimeout p) s = live s (drainTimeout s p) := rfl
theorem exec_flushSettleEnd (p : Fin 8) (s : State) :
    exec (.flushSettleEnd p) s = live s (awaited s (flushSettleEnd s p)) := rfl
theorem exec_abortNotice (c : Fin 128) (k : Nat) (s : State) : exec (.abortNotice c k) s = live s (abortNotice s c k) := rfl
theorem exec_abortHistoryInvalidate (k : Nat) (s : State) :
    exec (.abortHistoryInvalidate k) s = live s (awaited s (historyInvalidate s k)) := rfl

/-! ### Drains (R262, R264) -/

/-- SEEN of the plan's cores cleared (R262 step 2). -/
def probesCleared (s : State) (p : Nat) : State :=
  (liveCores s p).foldl (fun t c => t.setF (coreWin c) STU_PROBE_SEEN 0) s

/-- A probe on every route that the plan's cores send probes on, with the core's epoch as payload (R262 step 2). -/
def probesSent (s : State) (p : Nat) : State :=
  (liveCores s p).foldl (fun t c =>
    ((List.range 32).filter (fun r => (t.getF (coreWin c) STU_PSEND_MASK).testBit r)).foldl
      (fun t r => originate t c 4 r (t.getF (coreWin c) SEQ_EPOCH_EPOCH)) t) s

theorem drainProbe_starts {s : State} {p : Nat} (hsw : (s.plan p).switch = 1) (hst : planState s p = 4)
    (hr : (s.plan p).reloc = none) (hq : planQuiet s p = true) :
    drainProbe s p = drainCheck ((probesSent (probesCleared s p) p).setPlan p
      { (probesSent (probesCleared s p) p).plan p with switch := 2 }) p :=
  if_neg (by simp [hsw, hst, hr, hq])

theorem drainTimeout_faults {s : State} {p : Nat} (hr : (s.plan p).reloc = none) (hd : s.boot.down = false)
    (h : (planState s p = 4 ∧ ((s.plan p).switch = 1 ∨ (s.plan p).switch = 2) ∧ (s.plan p).lastDone + 10000000 ≤ now s) ∨
      (planState s p ≠ 6 ∧ closeDrains s p = true)) : drainTimeout s p = planFault s p 4 0xFF 0 :=
  if_pos ⟨by simp [hr], by simp [hd], h⟩

theorem drainTimeout_early {s : State} {p : Nat}
    (hsw : planState s p = 4 → (s.plan p).switch = 1 ∨ (s.plan p).switch = 2 → now s < (s.plan p).lastDone + 10000000)
    (hcl : closeDrains s p = false) : drainTimeout s p = s := by
  refine if_neg fun hc => ?_
  obtain ⟨-, -, ⟨hst, h, ht⟩ | ⟨-, h⟩⟩ := hc
  · exact absurd ht (not_le.mpr (hsw hst h))
  · simp [hcl] at h

theorem closeDrains_iff (s : State) (p : Nat) :
    closeDrains s p = true ↔ ∃ k < 128, (s.stream k).plan = some p ∧ ((s.stream k).closing = 1 ∨ (s.stream k).closing = 2) ∧
      (s.stream k).closeT + 10000000 ≤ now s ∧ ∀ f ∈ working s p, f.slot ≠ k := by
  simp [closeDrains, and_assoc]

/-! ### The flush of a relocation (Table 12.6) -/

/-- The plan's history and the configuration writes of the moved stages, once the flush has settled. -/
def flushed (s : State) (p : Nat) (r : Reloc) : State :=
  (writeList (purgePlan (settle s p) p) (moveWrites (s.plan p) r.cores ++
    (detourSplit (detourList (s.plan p) (s.plan p).cfg r.cores)).2)).1

/-- The moved stages seeded and the join sequences as configured. -/
def reseeded (s : State) (p : Nat) (r : Reloc) : State :=
  restartSequences (r.cores.foldl (fun t c => moveSeeds t (s.plan p) (s.plan p).cfg c) (flushed s p r)) p

/-- The relocation with its group ready. -/
def regrouped (s : State) (p : Nat) (r : Reloc) : State :=
  (reseeded s p r).setPlan p { (reseeded s p r).plan p with reloc := some { r with stage := 2 } }

theorem flushSettleEnd_ends {s : State} {p : Nat} {r : Reloc} (hr : (s.plan p).reloc = some r) (hg : r.stage = 1)
    (hd : s.boot.down = false) (ht : r.start ≤ now s) (hst : planState s p ≠ 6) :
    flushSettleEnd s p = startGroup (queueGroup (regrouped s p r) (planGroup (regrouped s p r) p 2
      (detourSplit (detourList (s.plan p) (s.plan p).cfg r.cores)).1 (rearmList (regrouped s p r) p (s.plan p)))) := by
  simp only [flushSettleEnd, hr]
  exact if_neg (by simp [hg, hd, Nat.not_lt.mpr ht, hst])

theorem flushSettleEnd_early {s : State} {p : Nat} {r : Reloc} (hr : (s.plan p).reloc = some r) (ht : now s < r.start) :
    flushSettleEnd s p = s := by
  simp only [flushSettleEnd, hr]
  exact if_pos (.inr (.inr (.inl ht)))

theorem drainsAndFlushes : Spec.DrainsAndFlushes := by
  refine ⟨fun s p hs hsw hst hr hq => ?_, fun s p hs hr hst hsw hd ht => ?_,
    fun s p k hs hr hst hk hp hc hw hd ht => ?_, fun s p hs hsw hcl => ?_, fun s p r hs hr hg hd ht hst => ?_,
    fun s p r hs hr ht => ?_⟩
  · rw [exec_drainProbeStart, live_of_functional hs, drainProbe_starts hsw hst hr hq]
    rfl
  · rw [exec_drainTimeout, live_of_functional hs, drainTimeout_faults hr hd (.inl ⟨hst, hsw, ht⟩)]
  · rw [exec_drainTimeout, live_of_functional hs,
      drainTimeout_faults hr hd (.inr ⟨hst, (closeDrains_iff s p).mpr ⟨k, hk, hp, hc, ht, hw⟩⟩)]
  · have hno : closeDrains s p = false := by
      rw [Bool.eq_false_iff, ne_eq, closeDrains_iff]
      rintro ⟨k, hk, hp, hc, ht, hw⟩
      rcases hcl k hk hp hc with h | ⟨f, hf, h⟩
      · omega
      · exact hw f hf h
    rw [exec_drainTimeout, live_of_functional hs, drainTimeout_early hsw hno]
  · rw [exec_flushSettleEnd, live_of_functional hs, flushSettleEnd_ends hr hg hd ht hst]
    rfl
  · rw [exec_flushSettleEnd, live_of_functional hs, flushSettleEnd_early hr ht, awaited_self]

/-! ### Aborted frames (Table 12.4) -/

/-- A notice that has reached a core is no longer on its way to it. -/
def noticeTaken (s : State) (c k p slot seq : Nat) (l : List Nat) : State :=
  { s with notices := if (l.filter (fun d => d ≠ c)).isEmpty then s.notices.eraseIdx k
      else s.notices.set k (p, slot, seq, l.filter (fun d => d ≠ c)) }

section
variable {s : State} {c k p slot seq : Nat} {l : List Nat} (hn : s.notices[k]? = some (p, slot, seq, l)) (hc : c ∈ l)
include hn hc

theorem abortNotice_ended (h : 3 ≤ seqStateOf s c ∨ endedIn s c slot seq = true) :
    abortNotice s c k = noticeTaken s c k p slot seq l := by
  have hl : l.contains c = true := List.contains_iff_mem.mpr hc
  simp only [abortNotice, hn, hl, Bool.not_true, Bool.false_eq_true, if_false]
  exact if_pos h

theorem abortNotice_kept (hq : seqStateOf s c < 3) (he : endedIn s c slot seq = false) (hr : (s.core c).notices.length < 32) :
    abortNotice s c k = (noticeTaken s c k p slot seq l).setCore c { s.core c with
      notices := (s.core c).notices ++ [(slot, seq)]
      dark := (s.core c).dark || (s.getF (coreWin c) SEQ_FRAME_VALID = 1 && s.getF (coreWin c) SEQ_FRAME_SLOT = slot &&
        s.getF (coreWin c) SEQ_FRAME_SEQ_SEQ = seq) } := by
  have hl : l.contains c = true := List.contains_iff_mem.mpr hc
  have hno : ¬ (3 ≤ seqStateOf s c ∨ endedIn s c slot seq = true) := by simp [he, hq]
  simp only [abortNotice, hn, hl, Bool.not_true, Bool.false_eq_true, if_false]
  exact (if_neg hno).trans (if_neg (Nat.not_le.mpr hr))

end

theorem historyInvalidate_entry {s : State} {k p slot seq : Nat} (h : s.purge[k]? = some (p, slot, seq))
    (hd : s.boot.down = false) :
    historyInvalidate s k = streamCheck (purgeOne { s with purge := s.purge.eraseIdx k } (p, slot, seq)) slot := by
  simp [historyInvalidate, h, hd]

theorem historyInvalidate_down {s : State} (k : Nat) (hd : s.boot.down = true) : historyInvalidate s k = s := by
  unfold historyInvalidate
  split
  · rfl
  · exact if_pos hd

theorem abortsNoticed : Spec.AbortsNoticed := by
  refine ⟨fun s c k p slot seq l hs hn hc => ⟨fun h => ?_, fun hq he hr => ?_⟩, fun s k p slot seq hs h hd => ?_,
    fun s k hs hd => ?_⟩
  · rw [exec_abortNotice, live_of_functional hs, abortNotice_ended hn hc h]
    rfl
  · rw [exec_abortNotice, live_of_functional hs, abortNotice_kept hn hc hq he hr]
    rfl
  · rw [exec_abortHistoryInvalidate, live_of_functional hs, historyInvalidate_entry h hd]
    rfl
  · rw [exec_abortHistoryInvalidate, live_of_functional hs, historyInvalidate_down k hd, awaited_self]

/-- Settles O25: drains, the flush of a relocation, and what follows aborted frames. -/
theorem drainsFlushesAborts : Obligations.DrainsFlushesAborts := ⟨drainsAndFlushes, abortsNoticed⟩

end Sys2Proof.Machine
end

section
/-! Feeders: the CONTROL, DATA and EOF tokens of a frame (R46, R351 to R355). -/

namespace Sys2Proof.Machine
open Sys2Proof Sys2Proof.Machine.Reg

theorem exec_feederBufferStart (p : Fin 8) (s : State) : exec (.feederBufferStart p) s = live s (feederStart s p) := rfl
theorem exec_feederWord (p : Fin 8) (s : State) : exec (.feederWord p) s = live s (feederWord s p) := rfl
theorem exec_feederEof (p : Fin 8) (s : State) : exec (.feederEof p) s = live s (feederEof s p) := rfl

/-! ### What waits in front of the feeder is of another kind -/

theorem feeder_empty {s : State} {p : Nat} (h : (s.feed p).todo = []) :
    feederStart s p = s ∧ feederWord s p = s ∧ feederEof s p = s := by
  refine ⟨?_, ?_, ?_⟩
  · simp only [feederStart, h]
  · simp only [feederWord, h]
  · simp only [feederEof, h, ite_self]

theorem feederEof_at_frame {s : State} {p slot seq : Nat} {rest : List (Nat × Option Nat)}
    (h : (s.feed p).todo = (slot, some seq) :: rest) : feederEof s p = s := by
  simp only [feederEof, h, ite_self]

theorem feeder_at_eof {s : State} {p slot : Nat} {rest : List (Nat × Option Nat)} (h : (s.feed p).todo = (slot, none) :: rest) :
    feederStart s p = s ∧ feederWord s p = s := by
  refine ⟨?_, ?_⟩
  · simp only [feederStart, h]
  · simp only [feederWord, h]

/-! ### A frame in front (R352 to R354) -/

/-- The feeder starves for a word of a frame, and the frame is marked (Table 9.11). -/
def feederStarved (s : State) (p slot seq : Nat) : State :=
  match frameOf (s.setF (fdBase p) FIF_FD_STATUS_STARVED 1) slot seq with
  | some g => setFrame (s.setF (fdBase p) FIF_FD_STATUS_STARVED 1) { g with starved := true }
  | none => s.setF (fdBase p) FIF_FD_STATUS_STARVED 1

section
variable {s : State} {p slot seq : Nat} {rest : List (Nat × Option Nat)} (h : (s.feed p).todo = (slot, some seq) :: rest)
include h

/-- A buffer of the target in turn cannot start: one is in progress, the port is taken, or there is no credit. -/
theorem feederStart_waits
    (hw : (s.feed p).left ≠ 0 ∨ feedFree s p (feedTarget s p) = false ∨ SMap.get [] (s.feed p).credits (feedTarget s p) = []) :
    feederStart s p = s := by
  simp only [feederStart, h]
  rcases hw with hw | hw | hw
  · exact if_pos (.inl hw)
  · exact if_pos (.inr (by simp [hw]))
  · simp only [hw, ite_self]

/-- A buffer starts with the CONTROL token that names the handle of the credit (R352 steps 1 and 2). -/
theorem feederStart_sends {c : BitVec 64} {cs : List (BitVec 64)} (hl : (s.feed p).left = 0)
    (hf : feedFree s p (feedTarget s p) = true) (hc : SMap.get [] (s.feed p).credits (feedTarget s p) = c :: cs) :
    feederStart s p =
      ((((feedSend s p (feedTarget s p) 2 (c.toNat % 2 ^ 16 + slot * 2 ^ 16 + 2 ^ 23 + seq * 2 ^ 32 + 2 ^ 81)).setFeed p
        { s.feed p with
          credits := (s.feed p).credits.put (feedTarget s p) cs
          left := s.getF (fdtBase p (feedTarget s p)) FIF_FDT_BUF_SIZE + 1 }).setF (fdBase p) FIF_FD_STATUS_SLOT slot).setF
        (fdBase p) FIF_FD_STATUS_BUSY 1).setF (fdBase p) FIF_FD_STATUS_TARGET (feedTarget s p) := by
  conv_lhs => simp only [feederStart, h, hc]
  exact if_neg (by simp [hl, hf])

/-- No word goes out outside a buffer or on a port that is taken. -/
theorem feederWord_waits (hw : (s.feed p).left = 0 ∨ feedFree s p (feedTarget s p) = false) : feederWord s p = s := by
  simp only [feederWord, h]
  exact if_pos (by simpa using hw)

section
variable (hl : (s.feed p).left ≠ 0) (hf : feedFree s p (feedTarget s p) = true)
include hl hf

/-- Every word of the frame has been handed out: the last buffer is filled with zeros. -/
theorem feederWord_fills (hn : feedFrame s slot seq = none) :
    feederWord s p = feederSent (feedSend s p (feedTarget s p) 0 0) p (feedTarget s p) 0 := by
  simp only [feederWord, h, hn]
  exact if_neg (by simp [hl, hf])

/-- The DATA token of a frame by the place of its next word: the header, a word beyond the frame, a word that is there, or one
that is still to come. -/
theorem feederWord_frame {j : Nat} {f : FFrame} (hj : feedFrame s slot seq = some (j, f)) :
    feederWord s p =
      if (s.feed p).word < feedHdr s p then
        feederSent (feedSend s p (feedTarget s p) 0 (headerWord slot seq f.len)) p (feedTarget s p) (feedHdr s p + f.words64)
      else if feedHdr s p + f.words64 ≤ (s.feed p).word then
        feederSent (feedSend s p (feedTarget s p) 0 0) p (feedTarget s p) (feedHdr s p + f.words64)
      else if wordReady f ((s.feed p).word - feedHdr s p) then
        feederSent (wordTaken (feedSend s p (feedTarget s p) 0 (bytesToNat (wordAt s slot f ((s.feed p).word - feedHdr s p))))
          slot j) p (feedTarget s p) (feedHdr s p + f.words64)
      else feederStarved s p slot seq := by
  simp only [feederWord, h, hj]
  exact if_neg (by simp [hl, hf])

end
end

/-! ### An EOF in front (R46, R355) -/

section
variable {s : State} {p slot : Nat} {rest : List (Nat × Option Nat)} (h : (s.feed p).todo = (slot, none) :: rest)
include h

theorem feederEof_waits
    (hw : (s.plan p).reloc.isSome = true ∨ feedFree s p (s.feed p).buf = false ∨
      (s.getF (fifBase slot) FIF_CFG_READER = 1 ∧ ∃ f ∈ (s.fifo slot).frames, f.seq.isSome = true)) : feederEof s p = s := by
  simp only [feederEof, h]
  rcases hw with hw | hw | ⟨hr, hw⟩
  · exact if_pos hw
  · simp [hw]
  · simp only [hr, List.any_eq_true.mpr hw, and_self, if_true, ite_self]

theorem feederEof_sends (hr : (s.plan p).reloc = none) (hf : feedFree s p (s.feed p).buf = true)
    (hn : ¬ (s.getF (fifBase slot) FIF_CFG_READER = 1 ∧ ∃ f ∈ (s.fifo slot).frames, f.seq.isSome = true)) :
    feederEof s p =
      if (s.feed p).buf < s.getF (fdBase p) FIF_FD_CTRL_NT then
        (feedSend s p (s.feed p).buf 5 (slot + (s.stream slot).last * 2 ^ 32)).setFeed p
          { s.feed p with buf := (s.feed p).buf + 1 }
      else ((feedSend s p (s.feed p).buf 5 (slot + (s.stream slot).last * 2 ^ 32)).setFeed p
          { s.feed p with todo := rest, buf := 0 }).setStream slot { s.stream slot with closing := 2 } := by
  have hn' : ¬ (s.getF (fifBase slot) FIF_CFG_READER = 1 ∧ (s.fifo slot).frames.any (fun f => f.seq.isSome) = true) := by
    rwa [List.any_eq_true]
  have hnt (t : State) (e : t.regs = s.regs) : (s.feed p).buf + 1 < feedNT t p ↔
      (s.feed p).buf < s.getF (fdBase p) FIF_FD_CTRL_NT := by
    rw [feedNT, State.getF_congr e, Nat.add_lt_add_iff_right]
  conv_lhs => simp only [feederEof, h, hr, hf, Bool.not_true, Bool.false_eq_true, if_false, Option.isSome_none]
  refine (if_neg hn').trans (if_congr (hnt _ rfl) rfl rfl)

end

/-- Settles O46: what the feeder does by what stands in front of it, a frame or an EOF. -/
theorem feedersSend : Obligations.FeedersSend := by
  intro s p hs
  have hstart : exec (.feederBufferStart p) s = .next (feederStart s p) := live_of_functional hs _
  have hword : exec (.feederWord p) s = .next (feederWord s p) := live_of_functional hs _
  have heof : exec (.feederEof p) s = .next (feederEof s p) := live_of_functional hs _
  rw [hstart, hword, heof]
  refine ⟨fun h => ?_, fun slot seq rest h => ⟨?_, fun c cs hl hf hc => ?_, fun hw => ?_, fun hw => ?_, fun hl hf hn => ?_,
    fun j f hl hf hj => ?_⟩, fun slot rest h => ⟨?_, ?_, fun hw => ?_, fun hr hf hn => ?_⟩⟩
  · obtain ⟨h1, h2, h3⟩ := feeder_empty h
    exact ⟨congrArg _ h1, congrArg _ h2, congrArg _ h3⟩
  · rw [feederEof_at_frame h]
  · rw [feederStart_sends h hl hf hc]
    rfl
  · rw [feederStart_waits h hw]
  · rw [feederWord_waits h hw]
  · rw [feederWord_fills h hl hf hn]
    rfl
  · have he := feederWord_frame h hl hf hj
    refine ⟨fun hh => ?_, fun hh => ?_, fun hh hn hr => ?_, fun hh hn hr => ?_⟩
    · exact congrArg _ (he.trans (if_pos hh))
    · exact congrArg _ (he.trans ((if_neg (not_lt.mpr (le_trans (Nat.le_add_right _ _) hh))).trans (if_pos hh)))
    · exact congrArg _ (he.trans ((if_neg (not_lt.mpr hh)).trans ((if_neg (not_le.mpr hn)).trans (if_pos hr))))
    · have hst := he.trans ((if_neg (not_lt.mpr hh)).trans ((if_neg (not_le.mpr hn)).trans (if_neg (ne_true_of_eq_false hr))))
      exact ⟨fun hg => by rw [hst, feederStarved, hg], fun g hg => by rw [hst, feederStarved, hg]⟩
  · rw [(feeder_at_eof h).1]
  · rw [(feeder_at_eof h).2]
  · rw [feederEof_waits h hw]
  · rw [feederEof_sends h hr hf hn]
    exact ⟨fun hl => congrArg _ (if_pos hl), fun hl => congrArg _ (if_neg (not_lt.mpr hl))⟩

end Sys2Proof.Machine
end

section
/-! STREAM_OPEN writes the slot maps of the plan's history areas (R145), and that write is an access of a bank group: an injection
point armed on it (R449, R450) fires and counts, in registers that are none of the stream slot's. -/

namespace Sys2Proof.Machine
open Sys2Proof Sys2Proof.Machine.Reg

theorem exec_streamOpen (i : Nat) (s : State) : exec (.streamOpen i) s = live s (awaited s (streamOpen s i)) := rfl

/-- Work that may have to wait is done, or has requested wake. -/
theorem awaited_cases (s t : State) : awaited s t = t ∨ ∃ d g, awaited s t = wakeByAccess s d g := by
  unfold awaited
  split
  · next g _ _ => exact .inr ⟨g.1, g.2, rfl⟩
  · exact .inl rfl

theorem maRequest_wake_taken (s : State) (d g : Nat) : (maRequest s d g 3).taken = s.taken := by
  unfold maRequest
  dsimp only
  rw [if_neg (by omega)]
  split <;> rfl

theorem wakeByAccess_taken (s : State) (d g : Nat) : (wakeByAccess s d g).taken = s.taken := by
  unfold wakeByAccess setHold
  dsimp only
  split
  · rfl
  · split
    · split <;> rfl
    · rw [maRequest_wake_taken]
      split <;> rfl
    · rfl

/-- A command of this module's ring that completes while the completion ring is not open: its completion waits. -/
theorem finish_closed {s : State} {i : Nat} {c : Taken} (hc : s.taken[i]? = some c) (hf : c.from_ = none)
    (ho : ccOpen s = false) (status detail : Nat) (result : Bytes) :
    (finish s i status detail result).met = s.met ∧ (finish s i status detail result).regs = s.regs ∧
      (finish s i status detail result).taken = s.taken.eraseIdx i := by
  have ho' : ccOpen { s with taken := s.taken.eraseIdx i } = false := ho
  simp [finish, hc, hf, writeCompletion, ho']

theorem streamOpen_accepts {s : State} {i : Nat} {c : Taken} (hcmd : cmdAt s i 6 = some c) (hfield : openField c = none)
    (hplan : (s.stream (tkArg c 8 1)).plan = none) (hst : planState s (tkArg c 9 1) = 2) (hbad : openBad s c = none)
    (hmates : mates s (tkArg c 9 1) = [])
    (hrate : rateOk (piPADM (s.plan (tkArg c 9 1)).img) [tkArg c 0x1C 4] = true) :
    streamOpen s i = finish (bindStream s c) i 0 0 (natToBytes 2 (tkArg c 0xA 1)) := by
  simp [streamOpen, hcmd, hfield, hplan, hst, hbad, hmates, hrate]

/-! ### Stage programs that were never written -/

theorem onRow_le {reps : List (Nat × Nat)} {d : Nat} (h : onRow reps d = true) :
    d ≤ (reps.map (fun r => r.1 * (r.2 - 1))).sum := by
  induction reps generalizing d with
  | nil => simp_all [onRow]
  | cons r reps ih =>
    have hrest := ih h
    have hstep : min (d / r.1) (r.2 - 1) * r.1 ≤ r.1 * (r.2 - 1) := by
      rw [Nat.mul_comm]
      exact Nat.mul_le_mul_left _ (Nat.min_le_right _ _)
    rw [List.map_cons, List.sum_cons]
    omega

theorem windowOf_core {c o : Nat} (hc : c < 128) (ho : o < 2 ^ 32) : windowOf (coreWin c + o) = some (.core, o) := by
  have hhub := hubWin_eq
  have ha : coreWin c + o = 0xF00000000000 + (c / 32 * 2 ^ 40 + c / 8 % 4 * 2 ^ 36 + c % 8 * 2 ^ 32) + o := rfl
  rw [windowOf_dies (by omega), if_pos (by omega), bits_eq_div, bits_eq_div, if_neg (by omega), if_neg (by omega),
    if_pos (by omega)]
  simp only [Option.some.injEq, Prod.mk.injEq, true_and]
  omega

/-- No word of a core from its stage-program store on has a reset value that is not zero. -/
theorem resetWord_program {c o : Nat} (hc : c < 128) (hlo : 0x10000 ≤ o) (ho : o < 2 ^ 32) :
    resetWord (coreWin c + o) = 0 := by
  have hbelow : ∀ f ∈ regNonzero, f.win = .core → f.off + (f.reps.map (fun r => r.1 * (r.2 - 1))).sum < 0x10000 := by decide
  have hnone : rowsAt regNonzero .core o = [] := by
    refine List.filter_eq_nil_iff.mpr fun f hf hrow => ?_
    simp only [Bool.and_eq_true, decide_eq_true_eq] at hrow
    have hend := hbelow f hf hrow.1.1
    have hreps := onRow_le hrow.2
    omega
  rw [resetWord, windowOf_core hc ho]
  simp only [hnone, List.foldl_nil]

theorem SMap.find_eq_none {α : Type} {m : SMap α} {k : Nat} (h : ∀ e ∈ m, e.1 ≠ k) : SMap.find m k = none := by
  induction m with
  | nil => rfl
  | cons e m ih =>
    rw [SMap.find, if_neg (h e List.mem_cons_self)]
    exact ih fun x hx => h x (List.mem_cons_of_mem _ hx)

section
variable {s : State} {c : Nat} (hc : c < 128)
  (hregs : ∀ e ∈ s.regs, e.1 < coreWin c + 0x10000 ∨ coreWin c + 0x14000 ≤ e.1)
include hc hregs

theorem reg_program {o : Nat} (hlo : 0x10000 ≤ o) (ho : o < 0x14000) : s.reg (coreWin c + o) = 0 := by
  have hfind : s.regs.find (coreWin c + o) = none := SMap.find_eq_none fun e he heq => by
    rcases hregs e he with hb | hb <;> omega
  rw [State.reg, hfind]
  exact resetWord_program hc hlo (by omega)

theorem progWord_unwritten {i : Nat} (hi : i < 1024) : progWord s c i = 0 := by
  have word {j : Nat} (hj : j < 16) : s.reg (coreWin c + 0x10000 + 16 * i + j) = 0 := by
    rw [Nat.add_assoc, Nat.add_assoc]
    exact reg_program hc hregs (by omega) (by omega)
  have first : s.reg (coreWin c + 0x10000 + 16 * i) = 0 := word (j := 0) (by omega)
  simp [progWord, first, word]

/-- A program store of which no word is listed holds no relation operation. -/
theorem relAreas_unwritten : relAreas s c = [] := by
  refine List.filterMap_eq_nil_iff.mpr fun i hi => ?_
  simp [progWord_unwritten hc hregs (List.mem_range.mp hi), wOPC, bits]

end

/-- The history areas of a plan of one configuration that holds one core, whose stage program keeps no history. -/
theorem histAreas_one {s : State} {p c : Nat} {a : Nat × Nat × Nat} (hcfg : planConfigs (s.plan p).img = [(s.plan p).cfg])
    (hheld : heldCores s p = [c]) (hppu : ppuAreas s c = [a]) (hrel : relAreas s c = []) : histAreas s p = [a] := by
  simp [histAreas, viewAs, hcfg, hheld, hppu, hrel, List.eraseDups_cons]

/-! ### A device with a history area and an armed injection point -/

/-- A plan image: PLANINFO (P_ADM 1,000, one segment) and the CLAIMS of core 0. -/
def historyImage : Bytes :=
  natToBytes 48 (2 * 2 ^ 96) ++ natToBytes 16 64 ++ natToBytes 32 (1 + 128 * 2 ^ 64) ++ natToBytes 32 (4 + 160 * 2 ^ 64) ++
    natToBytes 32 (1000 + 2 ^ 112) ++ natToBytes 16 1

/-- STREAM_OPEN of stream 5 to plan slot 0 with history block 3: vector 4, FIFO read by a mover, MODCNT 1, LEVEL and ADMIT 64,
INTERVAL 1,000, ring bases 4,096 and 8,192, RSIZE 4. -/
def openFive : Taken :=
  ⟨natToBytes 16 (6 + 2 ^ 64 * (5 + 3 * 2 ^ 16 + 4 * 2 ^ 24 + 0x400 * 2 ^ 32 + 2 ^ 48)) ++
    natToBytes 16 (64 + 64 * 2 ^ 32 + 1000 * 2 ^ 96) ++ natToBytes 32 (4096 + 8192 * 2 ^ 64 + 4 * 2 ^ 128), 0, none, false, 0, 0⟩

/-- A head that is up with the plan READY in slot 0. PPU 0 of core 0 keeps a history, and the point of correctable errors is armed
once on the scratch of core 0. -/
def armedDevice : State :=
  (((({ State.reset with plans := [(0, { PlanSt.reset with img := historyImage })], taken := [openFive] }.setF
    hubWin MBX_STATUS_READY 1).setF hubWin MBX_STATUS_HEAD 1).setF (cadBase 0) CAD_STATE_SLOT 2).setF
    (ppuBase 0 0) PPU_CTRL_RSMODE 2).setF (injBase 1) TXU_INJ_COUNT 1

theorem openFive_arguments : tkArg openFive 8 1 = 5 ∧ tkArg openFive 9 1 = 0 ∧ tkArg openFive 0xA 1 = 3 ∧
    tkArg openFive 0x1C 4 = 1000 := by decide +kernel

/-- STREAM_OPEN accepts the stream. -/
theorem armedDevice_accepts : cmdAt armedDevice 0 6 = some openFive ∧ openField openFive = none ∧
    (armedDevice.stream 5).plan = none ∧ planState armedDevice 0 = 2 ∧ openBad armedDevice openFive = none ∧
    mates armedDevice 0 = [] ∧ rateOk (piPADM (armedDevice.plan 0).img) [1000] = true := by decide +kernel

theorem armedDevice_met : armedDevice.met = none := rfl

theorem armedDevice_taken : armedDevice.taken = [openFive] := rfl

theorem armedDevice_registers : armedDevice.getF (injBase 1) TXU_INJ_COUNT = 1 ∧
    armedDevice.getF hubWin MBX_CC_CFG_EN = 0 := by decide +kernel

/-- What a state in which the slot map is written shows: no access has to wait, the command is still taken, the completion ring is
disabled, and the injection point has fired. -/
def MapFired (t : State) : Prop :=
  t.met = none ∧ t.taken = [openFive] ∧ ccOpen t = false ∧ t.getF (injBase 1) TXU_INJ_COUNT = 0

/-- The device with the slot bound has one history area, whose slot map lies at the start of the scratch of core 0; the write of
its byte for stream 5 fires the injection point. -/
theorem bindStream_writesMap : ∃ u, bindStream armedDevice openFive =
      mapStream u (tkArg openFive 9 1) (tkArg openFive 8 1) (tkArg openFive 0xA 1) ∧
    histAreas u 0 = [(scratchWin 0, scratchWin 0, 1)] ∧ MapFired (stewardWrite u (scratchWin 0 + 5) [3]) := by
  refine ⟨_, rfl, ?_, ?_⟩
  · exact histAreas_one (c := 0) (by decide +kernel) (by decide +kernel) (by decide +kernel)
      (relAreas_unwritten (by decide) (by decide +kernel))
  · unfold MapFired
    decide +kernel

theorem bindStream_fires : MapFired (bindStream armedDevice openFive) := by
  obtain ⟨hk, hp, hb, -⟩ := openFive_arguments
  obtain ⟨u, hbind, hareas, hfired⟩ := bindStream_writesMap
  rw [hbind, hk, hp, hb, mapStream, hareas]
  exact hfired

theorem streamOpen_armedDevice : streamOpen armedDevice 0 = finish (bindStream armedDevice openFive) 0 0 0 (natToBytes 2 3) := by
  obtain ⟨hcmd, hfield, hplan, hst, hbad, hmates, hrate⟩ := armedDevice_accepts
  obtain ⟨hk, hp, hb, hint⟩ := openFive_arguments
  have haccept := streamOpen_accepts hcmd hfield
  rw [hk, hp, hb, hint] at haccept
  exact haccept hplan hst hbad hmates hrate

/-- STREAM_OPEN on the device completes; its registers are those after the slot-map write. -/
theorem exec_streamOpen_fires : ∃ t, exec (.streamOpen 0) armedDevice = .next t ∧ t.taken = [] ∧
    t.getF (injBase 1) TXU_INJ_COUNT = 0 := by
  obtain ⟨hmet, htaken, hclosed, hcount⟩ := bindStream_fires
  obtain ⟨hstay, hregs, hgone⟩ := finish_closed (i := 0) (c := openFive) (by rw [htaken]; rfl) rfl hclosed 0 0
    (natToBytes 2 3)
  have hdone : awaited armedDevice (streamOpen armedDevice 0) = streamOpen armedDevice 0 :=
    awaited_of_met_eq (by rw [streamOpen_armedDevice, hstay, hmet, armedDevice_met])
  refine ⟨streamOpen armedDevice 0, ?_, ?_, ?_⟩
  · rw [exec_streamOpen, live_of_functional (s := armedDevice) rfl, hdone]
  · rw [streamOpen_armedDevice, hgone, htaken]
    rfl
  · rw [streamOpen_armedDevice, State.getF_congr hregs, hcount]

theorem not_streamsOpened : ¬ Spec.StreamsOpened := by
  intro h
  obtain ⟨hcmd, hfield, hplan, hst, hbad, hmates, hrate⟩ := armedDevice_accepts
  obtain ⟨hk, hp, -, hint⟩ := openFive_arguments
  obtain ⟨harmed, hoff⟩ := armedDevice_registers
  obtain ⟨t, ht, hdone, hfired⟩ := exec_streamOpen_fires
  have hspec := h armedDevice 0 openFive rfl hcmd
  simp only [hk, hp, hint, hmates, List.map_nil] at hspec
  obtain ⟨u, hx, htaken, -, -, -, -, -, -, -, -, -, hkept⟩ :=
    ((hspec.2 hfield).2.2 hplan (.inl hst)).2 hbad (by simp) |>.2 hrate
  have hclosed : ccOpen u = false := by
    rw [ccOpen, State.getF, hkept _ (by decide), ← State.getF, hoff]
    rfl
  have hcount : u.getF (injBase 1) TXU_INJ_COUNT = 1 := by
    rw [State.getF, hkept _ (by decide), ← State.getF, harmed]
  obtain ⟨-, hregs, -⟩ := finish_closed (i := 0) (c := openFive) (by rw [htaken]; rfl) rfl hclosed 0 0
    (natToBytes 2 (tkArg openFive 0xA 1))
  rw [ht, Host.Outcome.next.injEq] at hx
  rcases awaited_cases armedDevice (finish u 0 0 0 (natToBytes 2 (tkArg openFive 0xA 1))) with hw | ⟨d, g, hw⟩
  · rw [hx, hw, State.getF_congr hregs, hcount] at hfired
    exact absurd hfired (by decide)
  · rw [hx, hw, wakeByAccess_taken] at hdone
    exact absurd hdone (by simp [armedDevice_taken])

/-- Refutes O8: the slot-map write of STREAM_OPEN meets an injection point armed on its bank group, whose count goes down, and the
statement keeps every register but the slot's own. -/
theorem not_streamsOpenedAndClosed : ¬ Obligations.StreamsOpenedAndClosed := fun h => not_streamsOpened h.1

end Sys2Proof.Machine
end

section
/-! ENG_SEED_WRITE: the seed of an engine is written in a drained core only (R122). -/

namespace Sys2Proof.Machine
open Sys2Proof Sys2Proof.Machine.Reg

theorem exec_engSeedWrite (c : Fin 128) (e : Fin 8) (v : BitVec 32) (s : State) :
    exec (.engSeedWrite c e v) s = live s (engSeedWrite s c e v.toNat) := rfl

theorem engSeedWrite_drained {s : State} {c : Nat} (h : drained s c = true) (e v : Nat) :
    engSeedWrite s c e v = s.setF (engBase c e) ENG_SEED_SEED v := if_pos h

theorem engSeedWrite_not_drained {s : State} {c : Nat} (h : drained s c = false) (e v : Nat) :
    engSeedWrite s c e v = s.setF (coreWin c) SEQ_ERR_CFG_BUSY 1 := if_neg (by simp [h])

/-- A core that has loaded a frame is not drained (R73). -/
theorem not_drained_of_frame_valid {s : State} {c : Nat} (h : s.getF (coreWin c) SEQ_FRAME_VALID = 1) :
    drained s c = false := by
  simp [drained, h]

/-- Core windows are aligned to 2^32 and engine blocks to 2^8, and SEQ_ERR and ENG_SEED differ in the bits below. -/
theorem engSeed_ne_seqErr (d f c : Nat) : engBase d f + ENG_SEED_SEED.off ≠ coreWin c + SEQ_ERR_CFG_BUSY.off := by
  simp only [engBase, coreWin, windowBits, ENG_SEED_SEED, SEQ_ERR_CFG_BUSY]
  omega

/-- SEQ_ERR.CFG_BUSY set leaves every seed. -/
theorem getF_seed_setF_cfgBusy (s : State) (c v d f : Nat) :
    (s.setF (coreWin c) SEQ_ERR_CFG_BUSY v).getF (engBase d f) ENG_SEED_SEED = s.getF (engBase d f) ENG_SEED_SEED :=
  State.getF_setF_apart s _ _ _ _ _ (by decide) (.inl (engSeed_ne_seqErr d f c))

/-- Settles O36: the write is one test of `drained`; a loaded frame makes that test fail, and the refusal writes SEQ_ERR, which is
no seed. -/
theorem seedWritten : Obligations.SeedWritten := by
  intro s c e v hs
  have hbusy (h : drained s c = false) : exec (.engSeedWrite c e v) s = .next (s.setF (coreWin c) SEQ_ERR_CFG_BUSY 1) := by
    rw [exec_engSeedWrite, live_of_functional hs, engSeedWrite_not_drained h]
  refine ⟨fun h => ?_, hbusy, fun hframe => ?_⟩
  · rw [exec_engSeedWrite, live_of_functional hs, engSeedWrite_drained h]
  · exact ⟨_, hbusy (not_drained_of_frame_valid hframe), getF_seed_setF_cfgBusy s c 1⟩

end Sys2Proof.Machine
end

section
/-! HUB_TOKEN_RECEIVE: a token whose check code matches is taken and sorted by its type and its epoch (R236, R351, R417, R418). -/

namespace Sys2Proof.Machine
open Sys2Proof Sys2Proof.Machine.Reg

theorem exec_hubTokenReceive (c : Fin 128) (p : Fin 4) (noise : BitVec 560) (s : State) :
    exec (.hubTokenReceive c p noise) s = live s (hubToken s c p noise.toNat) := rfl

/-- The hub has taken the token that core c held out of edge port p: the port is free and its refusals count from zero again. -/
def edgeTaken (s : State) (c p : Nat) : State :=
  s.setCore c { s.core c with outp := SMap.erase (s.core c).outp p, refus := (s.core c).refus.put (p + 4) 0 }

/-- What the hub does with a token that plan q sent on port n, once it has taken it from core c (R351, R417, R418). -/
def sortToken (u : State) (c q n : Nat) (t : Token) : State :=
  match (if t.typ = 1 then creditTarget u q n t.tag.toNat else none) with
  | some g => feedCredit u c q g (t.payload.toNat % 2 ^ 64)
  | none =>
    if t.typ = 5 then gateEof u (bits t.payload.toNat 0 7)
    else if t.typ = 4 then u
    else if t.epoch.toNat ≠ u.getF (fdBase q) FIF_FD_EPOCH_EPOCH then planFault u q 5 0xFF n
    else if t.typ = 2 then outControl u q n (64 * n + t.tag.toNat) t.payload.toNat t.jseq.toNat
    else if t.typ = 0 ∨ t.typ = 3 then outData u q (64 * n + t.tag.toNat) (natToBytes 64 t.payload.toNat)
    else if t.typ = 1 ∧ (frameOf u (eSLOT (t.payload.toNat % 2 ^ 64)) (eSEQ (t.payload.toNat % 2 ^ 64))).isNone then
      logEvent u 0x800A 0xFF q (eSLOT (t.payload.toNat % 2 ^ 64)) (eSEQ (t.payload.toNat % 2 ^ 64)) 0 0
    else u

/-! ### Taken or refused (R236) -/

section
variable {s : State} {c p noise n q : Nat} {t0 t : Token} (hn : edgeIndex c p = some n) (hq : edgeOwner s c p = some q)
  (ht : SMap.find (s.core c).outp p = some t0) (hk : portKind s c p ≠ 0)
include hn hq ht hk

theorem hubToken_refused (hl : linkToken (linkBits t0 ^^^ noise) = (t, false)) : hubToken s c p noise = hubRefuse s c p := by
  simp only [hubToken, hn, hq, ht, hl, if_neg hk]

theorem hubToken_dropped (hl : linkToken (linkBits t0 ^^^ noise) = (t, true))
    (h : planState s q = 6 ∨ (s.plan q).reloc.isSome = true) : hubToken s c p noise = edgeTaken s c p := by
  have h' : (planState (edgeTaken s c p) q = 6 || ((edgeTaken s c p).plan q).reloc.isSome) = true := by
    rw [Bool.or_eq_true, decide_eq_true_eq]
    exact h
  simp only [hubToken, hn, hq, ht, hl, if_neg hk]
  exact if_pos h'

theorem hubToken_sorted (hl : linkToken (linkBits t0 ^^^ noise) = (t, true)) (h6 : planState s q ≠ 6)
    (hr : (s.plan q).reloc = none) : hubToken s c p noise = sortToken (edgeTaken s c p) c q n t := by
  have h' : ¬ (planState (edgeTaken s c p) q = 6 || ((edgeTaken s c p).plan q).reloc.isSome) = true := by
    rw [Bool.or_eq_true, decide_eq_true_eq]
    exact not_or.mpr ⟨h6, Option.not_isSome_iff_eq_none.mpr hr⟩
  simp only [hubToken, hn, hq, ht, hl, if_neg hk]
  exact if_neg h'

end

/-! ### Sorted by type and epoch (R351, R417, R418) -/

section
variable {u : State} {c q n : Nat} {t : Token}

theorem sortToken_credit {g : Nat} (h1 : t.typ = 1) (hg : creditTarget u q n t.tag.toNat = some g) :
    sortToken u c q n t = feedCredit u c q g (t.payload.toNat % 2 ^ 64) := by
  simp only [sortToken, if_pos h1, hg]

theorem sortToken_eof (h : t.typ = 5) : sortToken u c q n t = gateEof u (t.payload.toNat % 128) := by
  simp [sortToken, h, bits_eq_div]

theorem sortToken_probe (h : t.typ = 4) : sortToken u c q n t = u := by
  simp [sortToken, h]

/-- A token of the other types that carries another epoch than its plan's faults the plan. -/
theorem sortToken_other_epoch
    (h : t.typ = 0 ∨ t.typ = 2 ∨ t.typ = 3 ∨ t.typ = 1 ∧ creditTarget u q n t.tag.toNat = none)
    (he : t.epoch.toNat ≠ u.getF (fdBase q) FIF_FD_EPOCH_EPOCH) : sortToken u c q n t = planFault u q 5 0xFF n := by
  rcases h with h | h | h | ⟨h, hg⟩
  iterate 3 simp [sortToken, h, he]
  simp [sortToken, h, hg, he]

theorem sortToken_output (h : t.typ = 0 ∨ t.typ = 2 ∨ t.typ = 3)
    (he : t.epoch.toNat = u.getF (fdBase q) FIF_FD_EPOCH_EPOCH) :
    sortToken u c q n t = if t.typ = 2 then outControl u q n (64 * n + t.tag.toNat) t.payload.toNat t.jseq.toNat
      else outData u q (64 * n + t.tag.toNat) (natToBytes 64 t.payload.toNat) := by
  rcases h with h | h | h <;> simp [sortToken, h, he]

/-- A handle token of the plan's epoch that is no credit does nothing but leave a record where it belongs to no frame. -/
theorem sortToken_handle (h : t.typ = 1) (hg : creditTarget u q n t.tag.toNat = none)
    (he : t.epoch.toNat = u.getF (fdBase q) FIF_FD_EPOCH_EPOCH) :
    sortToken u c q n t =
      if frameOf u (eSLOT (t.payload.toNat % 2 ^ 64)) (eSEQ (t.payload.toNat % 2 ^ 64)) = none then
        logEvent u 0x800A 0xFF q (eSLOT (t.payload.toNat % 2 ^ 64)) (eSEQ (t.payload.toNat % 2 ^ 64)) 0 0
      else u := by
  simp [sortToken, h, hg, he]

end

/-! ### The obligation -/

/-- Settles O22, by what the hub finds: a bad check code, a plan that takes tokens without effect, or a token to sort. -/
theorem hubTokensSorted : Obligations.HubTokensSorted := by
  intro s c p noise n q t0 t ok hs hn hq ht hk hl
  rw [exec_hubTokenReceive, live_of_functional hs]
  refine ⟨?_, ?_, ?_⟩
  · rintro rfl
    rw [hubToken_refused hn hq ht hk hl]
  · rintro rfl h
    rw [hubToken_dropped hn hq ht hk hl h]
    rfl
  · rintro rfl h6 hr
    rw [hubToken_sorted hn hq ht hk hl h6 hr]
    exact ⟨fun h => congrArg _ (sortToken_eof h), fun h => congrArg _ (sortToken_probe h),
      fun g h hg => congrArg _ (sortToken_credit h hg),
      fun h hg he hf => congrArg _ ((sortToken_handle h hg he).trans (if_pos hf)),
      fun h hg he hf => congrArg _ ((sortToken_handle h hg he).trans (if_neg (Option.isSome_iff_ne_none.mp hf))),
      fun h he => congrArg _ (sortToken_other_epoch h he), fun h he => congrArg _ (sortToken_output h he)⟩

end Sys2Proof.Machine
end

section
/-! LULL_TICK: cores grow older, and the closed cycles of a tick are declared in the order of their lowest core (R267 to R273). -/

namespace Sys2Proof.Machine
open Sys2Proof Sys2Proof.Machine.Reg

theorem exec_lullTick (p : Fin 8) (s : State) : exec (.lullTick p) s = live s (lullTick s p) := rfl

/-- Every core of a slot is a microsecond older (R267). -/
def agedCores (s : State) (p : Nat) : State :=
  (heldCores s p).foldl (fun t c => t.setCore c { t.core c with age := (t.core c).age + 1 }) s

theorem agedCores_regs (s : State) (p : Nat) : (agedCores s p).regs = s.regs :=
  List.foldlRecOn (motive := fun t : State => t.regs = s.regs) _ _ rfl fun _ ht _ _ => ht

/-- The detector looks no further: disabled, outside RUNNING, SWITCHING and STOPPING, or under a notice of a die (R267, R486). -/
def LullsOff (s : State) (p : Nat) : Prop :=
  s.getF (lulBase p) LUL_CTRL_EN = 0 ∨ planState s p < 3 ∨ 5 < planState s p ∨ heldByDie s p = true

/-- Cycles in the order of their lowest core, of those below n. -/
def byLowest (n : Nat) (all : List (List Nat)) : List (List Nat) :=
  (List.range n).flatMap (fun c => all.filter (fun y => y.head? = some c))

/-- Cycles declared in turn until the plan stops. -/
def declareAll (t : State) (p : Nat) (l : List (List Nat)) : State :=
  l.foldl (fun t y => if planState t p = 6 then t else declareLull t p y) t

theorem lullTick_off {s : State} {p : Nat} (h : LullsOff (agedCores s p) p) : lullTick s p = agedCores s p := if_pos h

theorem lullTick_on {s : State} {p : Nat} (h : ¬ LullsOff (agedCores s p) p) :
    lullTick s p = declareAll (injectedCycles (agedCores s p) p).2 p
      (byLowest 128 ((injectedCycles (agedCores s p) p).1 ++ cycles (injectedCycles (agedCores s p) p).2 p)) := if_neg h

/-! ### The cores of a cycle -/

theorem cyclesFrom_lt {edges : Nat → List Nat} {lo n : Nat} {path y : List Nat} {c d : Nat}
    (hy : y ∈ cyclesFrom edges lo n path c) (hd : d ∈ y) : d < 128 := by
  induction n generalizing path c with
  | zero => simp [cyclesFrom] at hy
  | succ n ih =>
    obtain ⟨e, -, he⟩ := List.mem_flatMap.mp hy
    split at he
    · rw [List.mem_singleton.mp he] at hd
      exact List.mem_range.mp (List.mem_of_mem_filter hd)
    · split at he
      · simp at he
      · exact ih he

theorem cycles_lt {s : State} {p d : Nat} {y : List Nat} (hy : y ∈ cycles s p) (hd : d ∈ y) : d < 128 := by
  obtain ⟨c, -, hc⟩ := List.mem_flatMap.mp hy
  exact cyclesFrom_lt hc hd

/-- An injection point declares a cycle of cores of the plan only (Table 12.9). -/
theorem injectedCycles_lt {s : State} {p d : Nat} {y : List Nat} (hy : y ∈ (injectedCycles s p).1) (hd : d ∈ y) : d < 128 := by
  simp only [injectedCycles, List.mem_append, List.mem_ite_nil_right, List.mem_singleton] at hy
  rcases hy with ⟨hfires, rfl⟩ | ⟨-, rfl⟩
  · rw [List.mem_singleton.mp hd]
    by_contra hlt
    simp [hlt] at hfires
  · exact List.mem_range.mp (List.mem_of_mem_filter hd)

/-- The lowest core of every cycle of a tick is a core of the device. -/
theorem lowest_lt {s t : State} {p c : Nat} {y : List Nat} (hy : y ∈ (injectedCycles s p).1 ++ cycles t p)
    (hc : y.head? = some c) : c < 128 := by
  have hmem := List.mem_of_mem_head? hc
  rcases List.mem_append.mp hy with h | h
  · exact injectedCycles_lt h hmem
  · exact cycles_lt h hmem

/-! ### The order of declaration (R269) -/

theorem byLowest_nil (n : Nat) : byLowest n [] = [] := by simp [byLowest]

theorem byLowest_succ (n : Nat) (all : List (List Nat)) :
    byLowest (n + 1) all = byLowest n all ++ all.filter (fun y => y.head? = some n) := by
  simp [byLowest, List.range_succ]

theorem byLowest_one {x : List Nat} {a : Nat} (hx : x.head? = some a) (n : Nat) :
    byLowest n [x] = if a < n then [x] else [] := by
  induction n with
  | zero => simp [byLowest]
  | succ n ih =>
    rw [byLowest_succ, ih]
    rcases lt_trichotomy a n with h | h | h
    · simp [hx, h, h.ne, h.trans (Nat.lt_succ_self n)]
    · simp [hx, h]
    · simp [hx, h.ne', h.not_gt, Nat.not_lt.mpr (Nat.succ_le_of_lt h)]

theorem byLowest_two {x y : List Nat} {a b : Nat} (hx : x.head? = some a) (hy : y.head? = some b) (hab : a < b)
    {all : List (List Nat)} (hall : all = [x, y] ∨ all = [y, x]) (n : Nat) :
    byLowest n all = (if a < n then [x] else []) ++ (if b < n then [y] else []) := by
  have hfilter (c : Nat) : all.filter (fun z => z.head? = some c) = if c = a then [x] else if c = b then [y] else [] := by
    rcases hall with rfl | rfl <;> simp only [List.filter_cons, List.filter_nil, hx, hy] <;> grind
  induction n with
  | zero => simp [byLowest]
  | succ n ih =>
    rw [byLowest_succ, ih, hfilter]
    grind

theorem declareAll_one {t : State} {p : Nat} (h : planState t p ≠ 6) (x : List Nat) :
    declareAll t p [x] = declareLull t p x := if_neg h

theorem declareAll_two {t : State} {p : Nat} (h : planState t p ≠ 6) (x y : List Nat) :
    declareAll t p [x, y] =
      if planState (declareLull t p x) p = 6 then declareLull t p x else declareLull (declareLull t p x) p y := by
  simp [declareAll, h]

/-! ### What a declared cycle leads to (R271 to R273) -/

theorem declareLull_stops {t : State} {p c d : Nat} {l : List Nat} (h : victim t (c :: d :: l) = none) :
    declareLull t p (c :: d :: l) = planFault (lullStatus t p (c :: d :: l) 3 c 0) p 6 0xFF
      ((lullStatus t p (c :: d :: l) 3 c 0).reg (lulBase p + 4)) := by
  simp only [declareLull, h]

/-- The victim queue enters spill mode, and its newest entries wait for the lull channel (R273). -/
def spillMode (u : State) (v q : Nat) : State :=
  let w := u.setHq v q { u.hq v q with spilling := true }
  w.setCluster (v / 8) { w.cluster (v / 8) with lull := (w.cluster (v / 8)).lull ++
    [(v, q, none, min (u.hq v q).entries.length (u.getF (hqBase v q) STU_HQ_CEL_HI_CAP - 1))] }

theorem declareLull_spills {t : State} {p c d v q : Nat} {l : List Nat} (h : victim t (c :: d :: l) = some (v, q)) :
    declareLull t p (c :: d :: l) = spillMode (lullStatus t p (c :: d :: l) 1 v q) v q := by
  simp only [declareLull, h]
  rfl

/-- Where the detector looks, what a tick declares: nothing, its one cycle, or of two cycles the lower and then, unless that stops
the plan, the other. -/
theorem lullsDeclared : Spec.LullsDeclared := by
  intro s p hs aged off
  rw [exec_lullTick, live_of_functional hs]
  have hoff : off ↔ LullsOff (agedCores s p) p := by
    simp only [LullsOff, State.getF_congr (agedCores_regs s p)]
    exact Iff.rfl
  refine ⟨fun h => congrArg _ (lullTick_off (hoff.mp h)), ?_⟩
  intro h t all ht
  have htick : lullTick s p = declareAll t p (byLowest 128 all) := lullTick_on (mt hoff.mpr h)
  have hone {x : List Nat} {c : Nat} (hx : all = [x]) (hc : x.head? = some c) : lullTick s p = declareLull t p x := by
    have hlt : c < 128 := lowest_lt (hx ▸ List.mem_singleton_self x : x ∈ all) hc
    rw [htick, hx, byLowest_one hc, if_pos hlt, declareAll_one ht]
  refine ⟨fun h0 => ?_, fun c hc => congrArg _ (hone hc rfl), fun c d l hl => ⟨fun hv => ?_, fun v q hv => ?_⟩,
    fun x y a b hxy hx hy hab => ?_⟩
  · rw [htick, h0, byLowest_nil]
    rfl
  · exact congrArg _ ((hone hl rfl).trans (declareLull_stops hv))
  · exact congrArg _ ((hone hl rfl).trans (declareLull_spills hv))
  · have hb : b < 128 := by
      refine lowest_lt (show y ∈ all from ?_) hy
      rcases hxy with h | h <;> simp [h]
    rw [htick, byLowest_two hx hy hab hxy, if_pos (hab.trans hb), if_pos hb, List.singleton_append, declareAll_two ht]
    exact ⟨fun h => by rw [if_neg h], fun h => by rw [if_pos h]⟩

end Sys2Proof.Machine
end

section
/-! Cellars: SPILL_COMPLETE, ROTATION_COMPLETE and REFILL_COMPLETE at the head of a cluster's lull channel (R273 to R276, R291). -/

namespace Sys2Proof.Machine
open Sys2Proof Sys2Proof.Machine.Reg

theorem exec_spillComplete (cl : Fin 16) (s : State) : exec (.spillComplete cl) s = live s (awaited s (spillComplete s cl)) := rfl

theorem exec_rotationComplete (cl : Fin 16) (s : State) :
    exec (.rotationComplete cl) s = live s (awaited s (rotationComplete s cl)) := rfl

theorem exec_refillComplete (cl : Fin 16) (s : State) :
    exec (.refillComplete cl) s = live s (awaited s (refillComplete s cl)) := rfl

/-- Records in turn as the newest of a ring, until one fails (R273). -/
def writeRecords (s : State) (c q : Nat) (l : List (BitVec 64)) : Bool × State :=
  l.foldl (fun st e => if st.1 then celWrite st.2 c q e.toNat else st) (true, s)

/-- The markers now at the head of a queue's ring are pushed (R274). -/
def takeMarkers (s : State) (c q : Nat) : State := celMarkers s c q (s.hq c q).celCount

/-- The handles of entries that are no markers go back as credits. -/
def returnHandles (s : State) (c q : Nat) (l : List (BitVec 64)) : State :=
  (l.filter (fun e => !eEOF e.toNat)).foldl (fun t e => originate t c 1 (s.getF (hqBase c q) STU_HQ_CFG_CRT) (eHANDLE e.toNat)) s

theorem returnHandles_eq (s : State) (c q : Nat) (l : List (BitVec 64)) :
    returnHandles s c q l = l.foldl (fun t e => if eEOF e.toNat then t
      else originate t c 1 (s.getF (hqBase c q) STU_HQ_CFG_CRT) (eHANDLE e.toNat)) s := by
  rw [returnHandles, List.foldl_filter]
  congr 1
  funext t e
  cases eEOF e.toNat <;> rfl

/-! ### The head of the ring into a buffer (R274, R276) -/

section
variable {s t : State} {c q hd e : Nat} {d : Bytes}

theorem celRefill_empty (h : (s.hq c q).celCount = 0) :
    celRefill s c q hd = originate s c 1 (s.getF (hqBase c q) STU_HQ_CFG_CRT) hd := if_pos h

theorem celRefill_unread (h : (s.hq c q).celCount ≠ 0) (hr : celRead s c q = (none, t)) : celRefill s c q hd = t := by
  simp only [celRefill, if_neg h, hr]

theorem celRefill_outside (h : (s.hq c q).celCount ≠ 0) (hr : celRead s c q = (some (e, d), t)) (ha : bufAddr t c q hd = none) :
    celRefill s c q hd = lullBounds t c q hd := by
  simp only [celRefill, if_neg h, hr, ha]

theorem celRefill_moved {a : Nat} (h : (s.hq c q).celCount ≠ 0) (hr : celRead s c q = (some (e, d), t))
    (ha : bufAddr t c q hd = some a) :
    celRefill s c q hd =
      takeMarkers (pushEntry (celPop (sramWrite t a d) c q) c q (BitVec.ofNat 64 (setBits e 0 16 hd)) q) c q := by
  simp only [celRefill, if_neg h, hr, ha, takeMarkers]

end

/-! ### Completions -/

section
variable {s t : State} {cl c q : Nat}

/-- A spill waits for its bursts. -/
theorem spillComplete_early {k : Nat} (h : lullHead s cl = some (c, q, none, k)) (hm : ¬ lullMoved s cl = true) :
    spillComplete s cl = s := by
  simp [spillComplete, h, hm]

/-- Work of another kind is no spill. -/
theorem spillComplete_other {k : Nat} {e : BitVec 64} (h : lullHead s cl = some (c, q, some e, k)) : spillComplete s cl = s := by
  simp only [spillComplete, h]

theorem spillComplete_failed {k : Nat} (h : lullHead s cl = some (c, q, none, k)) (hm : lullMoved s cl = true)
    (hw : writeRecords s c q ((s.hq c q).entries.rtake k) = (false, t)) : spillComplete s cl = lullTake t cl := by
  unfold writeRecords List.rtake at hw
  simp [spillComplete, h, hm, hw]

theorem spillComplete_written {k : Nat} (h : lullHead s cl = some (c, q, none, k)) (hm : lullMoved s cl = true)
    (hw : writeRecords s c q ((s.hq c q).entries.rtake k) = (true, t)) :
    spillComplete s cl =
      spillOver (takeMarkers (lullTake (returnHandles (t.setHq c q { t.hq c q with entries := (s.hq c q).entries.rdrop k }) c q
        ((s.hq c q).entries.rtake k)) cl) c q) c q := by
  unfold writeRecords List.rtake at hw
  simp only [spillComplete, h, hm, hw, returnHandles_eq, takeMarkers]
  rfl

theorem rotationComplete_early {e : BitVec 64} (h : lullHead s cl = some (c, q, some e, 0)) (hm : ¬ lullMoved s cl = true) :
    rotationComplete s cl = s := by
  simp [rotationComplete, h, hm]

theorem rotationComplete_spill {k : Nat} (h : lullHead s cl = some (c, q, none, k)) : rotationComplete s cl = s := by
  simp only [rotationComplete, h]

theorem rotationComplete_refill {e : BitVec 64} (h : lullHead s cl = some (c, q, some e, 1)) : rotationComplete s cl = s := by
  simp only [rotationComplete, h]

theorem rotationComplete_failed {e : BitVec 64} (h : lullHead s cl = some (c, q, some e, 0)) (hm : lullMoved s cl = true)
    (hw : celWrite s c q e.toNat = (false, t)) : rotationComplete s cl = lullTake t cl := by
  simp [rotationComplete, h, hm, hw]

theorem rotationComplete_marker {e : BitVec 64} (h : lullHead s cl = some (c, q, some e, 0)) (hm : lullMoved s cl = true)
    (hw : celWrite s c q e.toNat = (true, t)) (he : eEOF e.toNat = true) :
    rotationComplete s cl = spillOver (lullTake (takeMarkers t c q) cl) c q := by
  simp [rotationComplete, h, hm, hw, he, takeMarkers]

theorem rotationComplete_entry {e : BitVec 64} (h : lullHead s cl = some (c, q, some e, 0)) (hm : lullMoved s cl = true)
    (hw : celWrite s c q e.toNat = (true, t)) (he : eEOF e.toNat = false) :
    rotationComplete s cl = spillOver (lullTake (celRefill t c q (eHANDLE e.toNat)) cl) c q := by
  simp [rotationComplete, h, hm, hw, he]

theorem refillComplete_early {hd : BitVec 64} (h : lullHead s cl = some (c, q, some hd, 1)) (hm : ¬ lullMoved s cl = true) :
    refillComplete s cl = s := by
  simp [refillComplete, h, hm]

theorem refillComplete_spill {k : Nat} (h : lullHead s cl = some (c, q, none, k)) : refillComplete s cl = s := by
  simp only [refillComplete, h]

theorem refillComplete_rotation {e : BitVec 64} (h : lullHead s cl = some (c, q, some e, 0)) : refillComplete s cl = s := by
  simp only [refillComplete, h]

theorem refillComplete_moved {hd : BitVec 64} (h : lullHead s cl = some (c, q, some hd, 1)) (hm : lullMoved s cl = true) :
    refillComplete s cl = spillOver (lullTake (celRefill s c q (eHANDLE hd.toNat)) cl) c q := by
  simp [refillComplete, h, hm]

end

/-- By the work at the head of the channel: a spill, a rotation or a refill. -/
theorem cellarTransfers : Spec.CellarTransfers := by
  intro s cl c q hs h moved ends markers
  have hspill {t : State} (e : spillComplete s cl = t) : exec (.spillComplete cl) s = ends t := by
    rw [exec_spillComplete, live_of_functional hs, e]
  have hrotation {t : State} (e : rotationComplete s cl = t) : exec (.rotationComplete cl) s = ends t := by
    rw [exec_rotationComplete, live_of_functional hs, e]
  have hrefill {t : State} (e : refillComplete s cl = t) : exec (.refillComplete cl) s = ends t := by
    rw [exec_refillComplete, live_of_functional hs, e]
  have hsame : ends s = .next s := congrArg _ (awaited_self s)
  refine ⟨fun k hk => ⟨⟨?_, ?_, fun hm => ?_⟩, fun hm => ⟨fun hw => ?_, fun hw => ?_⟩⟩,
    fun e he => ⟨⟨?_, ?_, fun hm => ?_⟩, fun t hm => ⟨fun hw => ?_, fun hw => ⟨fun hmark => ?_, fun hmark => ?_⟩⟩⟩,
    fun hd hh => ⟨⟨?_, ?_, fun hm => ?_⟩, fun hm h0 => ?_, fun t hm h0 hr => ?_,
      fun e d t hm h0 hr => ⟨fun ha => ?_, fun a ha => ?_⟩⟩⟩
  · exact (hrotation (rotationComplete_spill hk)).trans hsame
  · exact (hrefill (refillComplete_spill hk)).trans hsame
  · exact (hspill (spillComplete_early hk hm)).trans hsame
  · exact hspill (spillComplete_failed hk hm (Prod.ext hw rfl))
  · exact hspill (spillComplete_written hk hm (Prod.ext hw rfl))
  · exact (hspill (spillComplete_other he)).trans hsame
  · exact (hrefill (refillComplete_rotation he)).trans hsame
  · exact (hrotation (rotationComplete_early he hm)).trans hsame
  · exact hrotation (rotationComplete_failed he hm hw)
  · exact hrotation (rotationComplete_marker he hm hw hmark)
  · exact hrotation (rotationComplete_entry he hm hw hmark)
  · exact (hspill (spillComplete_other hh)).trans hsame
  · exact (hrotation (rotationComplete_refill hh)).trans hsame
  · exact (hrefill (refillComplete_early hh hm)).trans hsame
  · exact hrefill ((refillComplete_moved hh hm).trans (by rw [celRefill_empty h0]))
  · exact hrefill ((refillComplete_moved hh hm).trans (by rw [celRefill_unread h0 hr]))
  · exact hrefill ((refillComplete_moved hh hm).trans (by rw [celRefill_outside h0 hr ha]))
  · exact hrefill ((refillComplete_moved hh hm).trans (by rw [celRefill_moved h0 hr ha]; rfl))

/-- Settles O41, by what a tick declares and by the transfer at the head of the lull channel. -/
theorem lullsAndCellars : Obligations.LullsAndCellars := ⟨lullsDeclared, cellarTransfers⟩

end Sys2Proof.Machine
end

section
/-! The maintenance of the memories (R290 to R300, R306, R309): what asks the arbiter, which request it grants, and what an activity
leaves as it ends. -/

namespace Sys2Proof.Machine
open Sys2Proof Sys2Proof.Machine.Reg

theorem exec_retentionRequest (d : Fin 4) (g : Fin 36) (s : State) : exec (.retentionRequest d g) s =
    live s (serveStuck (if diePowered s d then retentionRequest s d g else s)) := rfl
theorem exec_wakeRequest (d : Fin 4) (g : Fin 36) (s : State) : exec (.wakeRequest d g) s =
    live s (if diePowered s d then wakeRequest s d g else s) := rfl
theorem exec_retentionEntryDone (d : Fin 4) (g : Fin 36) (s : State) :
    exec (.retentionEntryDone d g) s = live s (holdCheck (retentionEntryDone s d g)) := rfl
theorem exec_wakeDone (d : Fin 4) (g : Fin 36) (s : State) :
    exec (.wakeDone d g) s = live s (serveStuck (activeCheck (wakeDone s d g))) := rfl
theorem exec_bankSweepClaim (d : Fin 4) (g : Fin 36) (s : State) :
    exec (.bankSweepClaim d g) s = live s (sweepClaim s d g) := rfl
theorem exec_sweepRegionDone (d : Fin 4) (g : Fin 36) (pass : Bool) (s : State) :
    exec (.sweepRegionDone d g pass) s = live s (serveStuck (sweepDone s d g pass)) := rfl
theorem exec_maintenanceGrant (d : Fin 4) (g : Fin 52) (s : State) :
    exec (.maintenanceGrant d g) s = live s (maGrant s d g) := rfl
theorem exec_lpddrRefresh (d : Fin 4) (c : Fin 16) (s : State) : exec (.lpddrRefresh d c) s = live s s := rfl
theorem exec_zqCalibration (d : Fin 4) (c : Fin 16) (s : State) :
    exec (.zqCalibration d c) s = live s (channelDue s d c 5) := rfl
theorem exec_dqsOscCheck (d : Fin 4) (c : Fin 16) (s : State) :
    exec (.dqsOscCheck d c) s = live s (channelDue s d c 6) := rfl
theorem exec_patrolScrubStep (d : Fin 4) (c : Fin 16) (s : State) :
    exec (.patrolScrubStep d c) s = live s (patrolScrub s d c) := rfl
theorem exec_mr4Poll (d : Fin 4) (c : Fin 16) (rate : BitVec 3) (s : State) :
    exec (.mr4Poll d c rate) s = live s (mr4Poll s d c rate.toNat) := rfl

/-- A field of one bit that is not zero is one. -/
theorem State.getF_eq_one {s : State} {b : Nat} {f : Fld} (hw : f.width = 1) (h : s.getF b f ≠ 0) : s.getF b f = 1 := by
  have hlt : s.getF b f < 2 ^ f.width := bits_lt _ _ _
  rw [hw] at hlt
  omega

/-! ### The time base through reads of LPDDR4X -/

theorem injected_timeBase (s : State) (p x : Nat) : (injected s p x).2.timeBase = s.timeBase := by
  unfold injected
  dsimp only
  split <;> rfl

/-- The time base of `t` is that of `s`. -/
def SameClock (s t : State) : Prop := t.timeBase = s.timeBase

theorem SameClock.refl (s : State) : SameClock s s := rfl

theorem SameClock.trans {s t u : State} (h : SameClock s t) (g : SameClock t u) : SameClock s u := Eq.trans g h

theorem SameClock.now {s t : State} (h : SameClock s t) : now t = now s := congrArg BitVec.toNat h

theorem SameClock.withMet {s t : State} (h : SameClock s t) (m : Option (Nat × Nat)) : SameClock s { t with met := m } := h

theorem Sent.sameClock {s t : State} (h : Sent s t) : SameClock s t := by
  obtain ⟨_, _, _, _, _, _, _, rfl⟩ := h
  rfl

theorem lineAccess_sameClock (s : State) (a len : Nat) : SameClock s (lineAccess s a len).2 := by
  have hce {i : Bool × State} (b : Nat) (h : SameClock s i.2) :
      SameClock s (if i.1 then i.2.addF b LPC_CE_CNT_COUNT 1 else i.2) := by split <;> exact h
  unfold lineAccess
  dsimp only
  generalize 16 * (a / 2 ^ 36) + channelOf a = x
  have h := (hce (lpcBase (a / 2 ^ 36)) (injected_timeBase s 3 x)).trans (injected_timeBase _ 4 x)
  generalize injected _ 4 x = j at h ⊢
  split <;> exact h

theorem noteMet_sameClock (s : State) (a len : Nat) : SameClock s (noteMet s a len) := by
  unfold noteMet
  split <;> rfl

theorem lineRead_sameClock (s : State) (a len : Nat) : SameClock s (lineRead s a len).2 :=
  List.foldlRecOn (motive := fun r : Option Nat × State => SameClock s r.2) _ _ (noteMet_sameClock s a len)
    fun r hr _ _ => hr.trans (lineAccess_sameClock r.2 _ _)

theorem scrubBlock_sameClock (s : State) (d c blk : Nat) : SameClock s (scrubBlock s d c blk) := by
  unfold scrubBlock
  refine SameClock.withMet (List.foldlRecOn (motive := SameClock s) _ _ (.refl s) fun t ht i _ => ht.trans ?_) s.met
  have hread := lineRead_sameClock t (lineAddr d c (15 * blk + i)) 64
  generalize lineRead t (lineAddr d c (15 * blk + i)) 64 = q at hread ⊢
  obtain ⟨l | b, u⟩ := q
  · exact hread.trans (logEvent_sent _ _ _ _ _ _ _ _).sameClock
  · exact hread
/-! ### Requests (R298, R299) -/

section
variable {s : State} {d g code : Nat}

theorem maRequest_free (h : maRunning s d g = 0) : maRequest s d g code =
    s.setDie d { s.die d with waiting := (s.die d).waiting ++ [(g, code, now s)] } := by
  simp [maRequest, h]

theorem maRequest_busy (h : maRunning s d g ≠ 0)
    (hp : ¬ ((code = 1 ∨ code = 2) ∧ (maRunning s d g = 7 ∨ maRunning s d g = 8))) : maRequest s d g code =
    (s.setDie d { s.die d with waiting := (s.die d).waiting ++ [(g, code, now s)] }).addF (maBase d) BNK_MA_WAITS_COUNT 1 := by
  simp only [maRequest, if_neg hp, if_neg h]

theorem maRequest_preempts_sweep (hc : code = 1 ∨ code = 2) (h : maRunning s d g = 7) : maRequest s d g code =
    let t := maEnd (sweepSave s d g) d g
    (t.setDie d { t.die d with waiting := (t.die d).waiting ++ [(g, code, 0)] }).addF (maBase d) BNK_MA_ABORTS_COUNT 1 := by
  simp [maRequest, hc, h]

theorem maRequest_preempts_scrub (hc : code = 1 ∨ code = 2) (h : maRunning s d g = 8) : maRequest s d g code =
    let t := maEnd (scrubBlock s d (g - 36) (s.getF (lpcBase d) LPC_SCRUB_POS_BLOCK)) d g
    (t.setDie d { t.die d with waiting := (t.die d).waiting ++ [(g, code, 0), (g, 8, now s)] }).addF (maBase d)
      BNK_MA_ABORTS_COUNT 1 := by
  have hnow (blk : Nat) : now (scrubBlock s d (g - 36) blk) = now s := (scrubBlock_sameClock s d (g - 36) blk).now
  simp [maRequest, hc, h, hnow]

end

/-! ### Grants (R298, R300) -/

/-- The order in which the arbiter grants requests: by age, and then by code. -/
def grantOrder (w : Nat × Nat × Nat) : Nat ×ₗ Nat := toLex (w.2.2, w.2.1)

theorem maNext_eq_argmin (s : State) (d g : Nat) :
    maNext s d g = ((s.die d).waiting.filter (fun w => w.1 = g)).argmin grantOrder := by
  unfold maNext List.argmin
  congr 1
  funext o w
  cases o with
  | none => rfl
  | some v => simp only [List.argAux, grantOrder, Prod.Lex.toLex_lt_toLex]

/-- The request granted next waits for the group, and none that waits for it is older, or as old with a lower code. -/
theorem maNext_first {s : State} {d g : Nat} {w : Nat × Nat × Nat} (h : maNext s d g = some w) :
    w ∈ (s.die d).waiting ∧ w.1 = g ∧
      ∀ v ∈ (s.die d).waiting, v.1 = g → w.2.2 < v.2.2 ∨ (w.2.2 = v.2.2 ∧ w.2.1 ≤ v.2.1) := by
  rw [maNext_eq_argmin] at h
  obtain ⟨hw, hg⟩ := List.mem_filter.mp (List.argmin_mem h)
  refine ⟨hw, of_decide_eq_true hg, fun v hv hvg => ?_⟩
  exact Prod.Lex.toLex_le_toLex.mp (List.le_of_mem_argmin (List.mem_filter.mpr ⟨hv, decide_eq_true hvg⟩) h)

theorem maGrant_idle {s : State} {d g : Nat} (h : maRunning s d g ≠ 0 ∨ maNext s d g = none) : maGrant s d g = s := by
  unfold maGrant
  split
  · rfl
  · next hr => rw [h.resolve_left hr]

theorem maGrant_grants {s : State} {d g : Nat} {w : Nat × Nat × Nat} (hr : maRunning s d g = 0) (h : maNext s d g = some w) :
    maGrant s d g = maBegin (s.setDie d { s.die d with waiting := (s.die d).waiting.erase w }) d g w.2.1 := by
  simp [maGrant, hr, h]

/-! ### Retention (R290, R291) -/

section
variable {s : State} {d g : Nat}

theorem retentionRequest_set (h : s.getF (bnkBase d g) BNK_CTRL_RET_REQ = 1) : retentionRequest s d g = s := if_pos h

theorem retentionRequest_clear (h : s.getF (bnkBase d g) BNK_CTRL_RET_REQ = 0) :
    retentionRequest s d g = maRequest (s.setF (bnkBase d g) BNK_CTRL_RET_REQ 1) d g 1 := if_neg (by omega)

theorem wakeRequest_clear (h : s.getF (bnkBase d g) BNK_CTRL_RET_REQ = 0) : wakeRequest s d g = s := if_pos h

theorem wakeRequest_set (h : s.getF (bnkBase d g) BNK_CTRL_RET_REQ = 1) :
    wakeRequest s d g = if maWaits (s.setF (bnkBase d g) BNK_CTRL_RET_REQ 0) d g 1
      then maWithdraw (s.setF (bnkBase d g) BNK_CTRL_RET_REQ 0) d g 1
      else maRequest (s.setF (bnkBase d g) BNK_CTRL_RET_REQ 0) d g 3 := if_neg (by omega)

/-- The group as its entry ends: in retention, with no activity. -/
def inRetention (s : State) (d g : Nat) : State := maEnd (s.setF (bnkBase d g) BNK_STATE_STATE 2) d g

theorem retentionEntryDone_unmet (h : maRunning s d g = 1) (hw : ((inRetention s d g).die d).wakes.contains g = false) :
    retentionEntryDone s d g = inRetention s d g := (if_pos h).trans (if_neg (Bool.eq_false_iff.mp hw))

theorem retentionEntryDone_met (h : maRunning s d g = 1) (hw : ((inRetention s d g).die d).wakes.contains g = true) :
    retentionEntryDone s d g =
      let t := inRetention s d g
      wakeByAccess (t.setDie d { t.die d with wakes := (t.die d).wakes.filter (· ≠ g) }) d g := (if_pos h).trans (if_pos hw)

theorem wakeDone_running (h : maRunning s d g = 3) :
    wakeDone s d g = maEnd (s.setF (bnkBase d g) BNK_STATE_STATE 0) d g := if_pos h

end

/-! ### The bank sweep (R292, R293, R295) -/

theorem sweepDue_iff (s : State) (d g : Nat) : sweepDue s d g = true ↔ ∀ t, SMap.find (s.die d).swept g = some t →
    t + 1000 * max 100 (s.getF (bnkBase d g) BNK_SWEEP_INTERVAL) ≤ now s := by
  unfold sweepDue
  split
  · next h => simp [h]
  · next t h => simp [h]

section
variable {s : State} {d g : Nat}

theorem sweepClaim_unpowered (h : diePowered s d = false) : sweepClaim s d g = s := if_pos (by simp [h])

/-- A claim is one test of what lets the sweep go on to its next region. -/
theorem sweepClaim_powered (h : diePowered s d = true) :
    sweepClaim s d g = if s.getF (bnkBase d g) BNK_CTRL_SWEEP_EN = 1 ∧ groupAwake s d g = true ∧ maRunning s d g ≠ 7 ∧
        maWaits s d g 7 = false ∧ sweepDue s d g = true then
      maRequest ((s.setF (bnkBase d g) BNK_SWEEP_POS_REGION
        (nextRegion s d g (groupRegions g) (s.getF (bnkBase d g) BNK_SWEEP_POS_REGION))).setDie d
        { s.die d with swept := (s.die d).swept.put g (now s) }) d g 7
    else s := by
  unfold sweepClaim
  dsimp only
  rw [← ite_not]
  refine if_congr ?_ rfl rfl
  have hen : s.getF (bnkBase d g) BNK_CTRL_SWEEP_EN ≠ 0 ↔ s.getF (bnkBase d g) BNK_CTRL_SWEEP_EN = 1 :=
    ⟨State.getF_eq_one rfl, fun e => by omega⟩
  simp [h, ← hen]
  tauto

/-- What a region that is done leaves: it is counted, the sweep goes on to the next good region, and the group is given up. -/
def sweepGoesOn (s : State) (d g pos : Nat) : State :=
  maEnd ((s.addF (bnkBase d g) BNK_SWEEPS_COUNT 1).setF (bnkBase d g) BNK_SWEEP_POS_REGION
    (nextRegion s d g (groupRegions g) ((pos + 1) % groupRegions g))) d g

theorem sweepDone_running (h : maRunning s d g = 7) (pass : Bool) :
    sweepDone s d g pass = sweepGoesOn (if pass then sweepSave s d g
      else regionFails (sweepSave s d g) d g (s.getF (bnkBase d g) BNK_SWEEP_POS_REGION)) d g
        (s.getF (bnkBase d g) BNK_SWEEP_POS_REGION) := if_neg (not_not.mpr h)

theorem regionFails_spare {r : Nat} (h : SMap.get 0 (s.die d).spares (128 * g + r / 128) < 2) :
    regionFails s d g r =
      let key := 128 * g + r / 128
      let n := SMap.get 0 (s.die d).spares key
      (s.setDie d { s.die d with spares := (s.die d).spares.put key (n + 1) }).addF (bnkBase d g) BNK_REPAIRS_USED 1 := if_pos h

theorem regionFails_bad {r : Nat} (h : 2 ≤ SMap.get 0 (s.die d).spares (128 * g + r / 128)) :
    regionFails s d g r = logUncorrectable ((s.setDie d { s.die d with bad := (s.die d).bad ++ [(g, r)] }).addF (bnkBase d g)
      BNK_REPAIRS_BAD 1) (regionAddr d g r) 6 0xFF := if_neg (not_lt.mpr h)

end

/-! ### LPDDR4X (R301, R306, R309) -/

section
variable {s : State} {d c : Nat}

theorem channelDue_inactive (h : channelActive s d c = false) (code : Nat) : channelDue s d c code = s := if_pos (by simp [h])

theorem channelDue_asks {code : Nat} (h : channelActive s d c = true) (hw : maWaits s d (36 + c) code = false) :
    channelDue s d c code = maRequest s d (36 + c) code := if_neg (by simp [h, hw])

theorem mr4Poll_inactive (h : channelActive s d c = false) (rate : Nat) : mr4Poll s d c rate = s := if_pos (by simp [h])

theorem mr4Poll_active (h : channelActive s d c = true) (rate : Nat) :
    mr4Poll s d c rate =
      let t := s.setReg (lpcBase d + 0x20) (setBits (s.reg (lpcBase d + 0x20)) (2 * c) 2 (mr4Mult rate))
      if 6 < rate then logEvent t 0x800E 0xFF 0xFF (16 * d + c) rate 0 0 else t := if_neg (by simp [h])

theorem patrolScrub_granted (h : maRunning s d (36 + c) = 8) :
    patrolScrub s d c =
      let t := maEnd (scrubBlock s d c (s.getF (lpcBase d) LPC_SCRUB_POS_BLOCK)) d (36 + c)
      if scrubOpen t d then t
      else t.setF (lpcBase d) LPC_SCRUB_POS_BLOCK ((s.getF (lpcBase d) LPC_SCRUB_POS_BLOCK + 1) % 4194304) := if_pos h

theorem patrolScrub_claims (h : maRunning s d (36 + c) ≠ 8) (he : s.getF (lpcBase d) LPC_SCRUB_EN = 1)
    (ho : scrubOpen s d = false) (hd : scrubDue s d = true) (ha : ∀ j, j < 16 → channelActive s d j = true) :
    patrolScrub s d c = (List.range 16).foldl (fun t i => maRequest t d (36 + i) 8)
      (s.setDie d { s.die d with scrubAt := some (now s) }) := by
  have hall : (List.range 16).all (channelActive s d) = true :=
    List.all_eq_true.mpr fun j hj => ha j (List.mem_range.mp hj)
  simp [patrolScrub, h, he, ho, hd, hall]

end

/-- Settles O47, command by command. -/
theorem memoriesMaintained : Obligations.MemoriesMaintained := by
  intro s d hs
  refine ⟨fun g => ⟨fun hp => ⟨?_, ?_, ?_⟩, fun hp hr => ⟨?_, ?_⟩, fun hp hr => ⟨?_, fun hw => ?_, fun hw => ?_⟩,
      fun hr => ⟨fun hw => ?_, fun hw => ?_⟩, fun hr => ?_, fun hp => ⟨fun hd => ?_, fun hd => ?_⟩,
      fun hr => ⟨?_, fun hn => ?_, fun hn => ?_⟩⟩,
    fun g code => ⟨maRequest_free, maRequest_busy, maRequest_preempts_sweep, maRequest_preempts_scrub⟩,
    fun g => ⟨fun h => ?_, fun w hr hw => ?_⟩,
    fun c => ⟨?_, fun ha => ⟨fun hw => ?_, fun hw => ?_, fun rate => ⟨fun hr => ?_, fun hr => ?_⟩⟩,
      fun ha => ⟨fun rate => ?_, ?_, ?_⟩, fun hr => ⟨fun ho => ?_, fun ho => ?_⟩, fun hr he ho hd ha => ?_⟩⟩
  · rw [exec_retentionRequest, live_of_functional hs, hp, if_neg (by decide)]
  · rw [exec_wakeRequest, live_of_functional hs, hp, if_neg (by decide)]
  · rw [exec_bankSweepClaim, live_of_functional hs, sweepClaim_unpowered hp]
  · rw [exec_wakeRequest, live_of_functional hs, if_pos hp, wakeRequest_clear hr]
  · rw [exec_retentionRequest, live_of_functional hs, if_pos hp, retentionRequest_clear hr]
  · rw [exec_retentionRequest, live_of_functional hs, if_pos hp, retentionRequest_set hr]
  · rw [exec_wakeRequest, live_of_functional hs, if_pos hp, wakeRequest_set hr, if_pos hw]
    rfl
  · rw [exec_wakeRequest, live_of_functional hs, if_pos hp, wakeRequest_set hr, hw, if_neg (by decide)]
  · rw [exec_retentionEntryDone, live_of_functional hs, retentionEntryDone_unmet hr hw]
    rfl
  · rw [exec_retentionEntryDone, live_of_functional hs, retentionEntryDone_met hr hw]
    rfl
  · rw [exec_wakeDone, live_of_functional hs, wakeDone_running hr]
  · rw [exec_bankSweepClaim, live_of_functional hs, sweepClaim_powered hp, if_neg (by rwa [sweepDue_iff])]
  · rw [exec_bankSweepClaim, live_of_functional hs, sweepClaim_powered hp, if_pos (by rwa [sweepDue_iff])]
  · rw [exec_sweepRegionDone, live_of_functional hs, sweepDone_running hr, if_pos rfl]
    rfl
  · rw [exec_sweepRegionDone, live_of_functional hs, sweepDone_running hr, if_neg (by decide), regionFails_spare hn]
    rfl
  · rw [exec_sweepRegionDone, live_of_functional hs, sweepDone_running hr, if_neg (by decide), regionFails_bad hn]
    rfl
  · rw [exec_maintenanceGrant, live_of_functional hs, maGrant_idle h]
  · obtain ⟨hm, hg, hfirst⟩ := maNext_first hw
    exact ⟨hm, hg, hfirst, by rw [exec_maintenanceGrant, live_of_functional hs, maGrant_grants hr hw]⟩
  · rw [exec_lpddrRefresh, live_of_functional hs]
  · rw [exec_zqCalibration, live_of_functional hs, channelDue_asks ha hw]
  · rw [exec_dqsOscCheck, live_of_functional hs, channelDue_asks ha hw]
  · rw [exec_mr4Poll, live_of_functional hs, mr4Poll_active ha]
    exact congrArg _ (if_neg (by omega))
  · rw [exec_mr4Poll, live_of_functional hs, mr4Poll_active ha, hr]
    rfl
  · rw [exec_mr4Poll, live_of_functional hs, mr4Poll_inactive ha]
  · rw [exec_zqCalibration, live_of_functional hs, channelDue_inactive ha]
  · rw [exec_dqsOscCheck, live_of_functional hs, channelDue_inactive ha]
  · rw [exec_patrolScrubStep, live_of_functional hs, patrolScrub_granted hr]
    exact congrArg _ (if_pos ho)
  · rw [exec_patrolScrubStep, live_of_functional hs, patrolScrub_granted hr]
    exact congrArg _ (if_neg (Bool.eq_false_iff.mp ho))
  · rw [exec_patrolScrubStep, live_of_functional hs, patrolScrub_claims hr he ho hd ha]

end Sys2Proof.Machine
end

section
/-! Boot from flash and from the host, the training of the memory (R304, R461, R513 to R516), and the steward's watchdog and restart
(R502). -/

namespace Sys2Proof.Machine
open Sys2Proof Sys2Proof.Machine.Reg

theorem exec_hostBootGo (s : State) : exec .hostBootGo s = live s (hostBootGo s) := rfl
theorem exec_firmwareVerified (flash : Bytes) (x y : Bool) (rec_ : Option (Bytes × Bytes)) (s : State) :
    exec (.firmwareVerified flash x y rec_) s = live s (firmwareVerified s flash x y rec_) := rfl
theorem exec_memoryTrainingDone (trained ms : BitVec 64) (rate : Fin 3) (net : List Bytes) (s : State) :
    exec (.memoryTrainingDone trained ms rate net) s =
      live s (spdmResume (memoryTrained s trained.toNat ms.toNat rate net)) := rfl
theorem exec_wdogKick (s : State) : exec .wdogKick s = live s (wdogKick s) := rfl
theorem exec_stewardWatchdogExpiry (s : State) : exec .stewardWatchdogExpiry s = live s (watchdogExpiry s) := rfl
theorem exec_stewardRestartComplete (s : State) :
    exec .stewardRestartComplete s = live s (spdmResume (awaited s (stewardRestarted s))) := rfl

/-! ### Host boot (R515) -/

theorem hostBootGo_goes {s : State} (hr : romRuns s = true) (hb : s.getF hubWin MBX_STATUS_HOSTBOOT = 1)
    (hc : s.boot.checking = none) : hostBootGo s =
      let t := (s.setF hubWin MBX_BAR2_CTRL_WEN 0).setF hubWin MBX_BOOT_STAGE_STAGE 4
      let q := stewardBytes t (clusterMem 0) (t.getF hubWin MBX_HB_LEN_BYTES)
      { q.2 with met := s.met, boot := { t.boot with checking := some (2, q.1.getD []) } } := if_neg (by simp [hr, hb, hc])

theorem hostBootGo_ignored {s : State}
    (h : romRuns s = false ∨ s.getF hubWin MBX_STATUS_HOSTBOOT = 0 ∨ s.boot.checking.isSome = true) : hostBootGo s = s := by
  refine if_pos ?_
  rcases h with h | h | h <;> simp [h]

/-! ### One image of the flash (R513, R514) -/

theorem readImage_fuses0 (s : State) (flash : Bytes) (field r : Nat) : (readImage s flash field r).fuses0 = s.fuses0 := by
  unfold readImage
  dsimp only
  split <;> rfl

/-- The reasons with which an image boots are those the fuses of the last power-on reset allow (R514). -/
theorem fwBoots_iff {s t : State} (h : t.fuses0 = s.fuses0) (r : Nat) :
    fwBoots t r = true ↔ r = 0 ∨ (policyBit s 0 = true ∧ 5 ≤ r) := by
  have hp : policyBit t 0 = policyBit s 0 := congrArg (fun f => bit f 2124) h
  simp [fwBoots, hp]

/-- The directory entry of a slot, its reason register, and the number that BOOT_STAGE.SRC gives it. -/
structure SpiSlot where
  field : Nat
  reason : Fld
  src : Nat

def spiSlot0 : SpiSlot := ⟨0x08, MBX_BOOT_REASON_SLOT0, 0⟩
def spiSlot1 : SpiSlot := ⟨0x0C, MBX_BOOT_REASON_SLOT1, 1⟩

/-- The state with the image of a slot read and its reason recorded. -/
def slotRead (s : State) (flash : Bytes) (k : SpiSlot) (r : Nat) : State :=
  (readImage s flash k.field r).setF hubWin k.reason r

/-- The ROM tries one slot: whether its image starts, and the state after it. -/
def trySlot (s : State) (flash : Bytes) (k : SpiSlot) (fails : Bool) (id : Option (Bytes × Bytes)) : Bool × State :=
  match spiSlot s flash k.field fails with
  | none => (false, s)
  | some (img, r) =>
    let t := slotRead s flash k r
    if fwBoots t r && !(r = 13) then (true, startSteward t k.src img r id) else (false, t)

section
variable {s t : State} {flash img : Bytes} {k : SpiSlot} {fails : Bool} {id : Option (Bytes × Bytes)} {r : Nat}

theorem slotRead_fuses0 : (slotRead s flash k r).fuses0 = s.fuses0 := readImage_fuses0 s flash k.field r

theorem trySlot_none (h : spiSlot t flash k.field fails = none) : trySlot t flash k fails id = (false, t) := by
  simp only [trySlot, h]

theorem trySlot_some (h : spiSlot t flash k.field fails = some (img, r)) :
    trySlot t flash k fails id = if fwBoots (slotRead t flash k r) r && !(r = 13) then
      (true, startSteward (slotRead t flash k r) k.src img r id) else (false, slotRead t flash k r) := by
  simp only [trySlot, h]

theorem trySlot_boots (hf : t.fuses0 = s.fuses0) (h : spiSlot t flash k.field fails = some (img, r))
    (hb : r = 0 ∨ (policyBit s 0 = true ∧ 5 ≤ r)) (h13 : r ≠ 13) :
    trySlot t flash k fails id = (true, startSteward (slotRead t flash k r) k.src img r id) :=
  (trySlot_some h).trans (if_pos (by simp [(fwBoots_iff (slotRead_fuses0.trans hf) r).mpr hb, h13]))

theorem trySlot_refused (hf : t.fuses0 = s.fuses0) (h : spiSlot t flash k.field fails = some (img, r))
    (hb : ¬ (r = 0 ∨ (policyBit s 0 = true ∧ 5 ≤ r)) ∨ r = 13) :
    trySlot t flash k fails id = (false, slotRead t flash k r) := by
  refine (trySlot_some h).trans (if_neg fun hc => ?_)
  simp only [Bool.and_eq_true, Bool.not_eq_true', decide_eq_false_iff_not] at hc
  exact hb.elim (fun hn => hn ((fwBoots_iff (slotRead_fuses0.trans hf) r).mp hc.1)) hc.2

end

/-- The ROM tries SLOT1 after SLOT0 where that one starts nothing. -/
theorem trySpi_eq (s : State) (flash : Bytes) (x y : Bool) (id : Option (Bytes × Bytes)) : trySpi s flash x y id =
    if (trySlot s flash spiSlot0 x id).1 then trySlot s flash spiSlot0 x id
    else trySlot (trySlot s flash spiSlot0 x id).2 flash spiSlot1 y id := by
  unfold trySpi
  split
  · next h =>
    rw [trySlot_none (k := spiSlot0) h]
    rfl
  · next img r h =>
    rw [trySlot_some (k := spiSlot0) h]
    by_cases hb : (fwBoots (slotRead s flash spiSlot0 r) r && !(r = 13)) = true
    · rw [if_pos hb]
      exact if_pos hb
    · rw [if_neg hb]
      exact if_neg hb

/-! ### What the ROM goes on with (R513 to R516) -/

/-- The steward that an image started reads its identity record; without an image that boots the ROM enters host boot, or stops. -/
def romGoesOn (s : State) (flash : Bytes) (id : Option (Bytes × Bytes)) (t : Bool × State) : State :=
  if t.1 then readIdentity t.2 flash id
  else if !policyBit s 3 then enterHostBoot t.2
  else bootFail t.2 14

section
variable {s : State} {flash : Bytes} {x y : Bool} {rec_ : Option (Bytes × Bytes)}

theorem firmwareVerified_idle (h : romRuns s = false) : firmwareVerified s flash x y rec_ = s := if_pos (by simp [h])

/-- The reason of an image that the host has left in cluster memory: its length counts too. -/
def hostImageReason (s : State) (img : Bytes) : Nat :=
  if img.length = 1280 + leAt img 8 4 then fwReason s img else max (sigHeader s (slice img 0 1280) 1 false) 1

section
variable {n : Nat} {img : Bytes}

theorem firmwareVerified_hostBoots (hr : romRuns s = true) (hc : s.boot.checking = some (n, img))
    (hb : hostImageReason s img = 0 ∨ (policyBit s 0 = true ∧ 5 ≤ hostImageReason s img)) :
    firmwareVerified s flash x y rec_ =
      let t := s.setF hubWin MBX_BOOT_REASON_HOST (hostImageReason s img)
      let w := readIdentity (readDirectory t) flash (flashIdentity flash rec_)
      startSteward ((w.setF hubWin MBX_BAR2_CTRL_EN 0).setF hubWin MBX_STATUS_HOSTBOOT 0) 2 img (hostImageReason s img)
        (flashIdentity flash rec_) := by
  simp only [firmwareVerified, hr, hc, Bool.not_true, Bool.false_eq_true, if_false]
  exact if_pos ((fwBoots_iff rfl _).mpr hb)

theorem firmwareVerified_hostRefused (hr : romRuns s = true) (hc : s.boot.checking = some (n, img))
    (hb : ¬ (hostImageReason s img = 0 ∨ (policyBit s 0 = true ∧ 5 ≤ hostImageReason s img))) :
    firmwareVerified s flash x y rec_ =
      let t := s.setF hubWin MBX_BOOT_REASON_HOST (hostImageReason s img)
      { (t.setF hubWin MBX_BAR2_CTRL_WEN 1).setF hubWin MBX_BOOT_STAGE_STAGE 3 with
        boot := { s.boot with checking := none } } := by
  simp only [firmwareVerified, hr, hc, Bool.not_true, Bool.false_eq_true, if_false]
  exact if_neg fun h => hb ((fwBoots_iff rfl _).mp h)

end

theorem firmwareVerified_inHostBoot (hc : s.boot.checking = none) (hb : s.getF hubWin MBX_STATUS_HOSTBOOT = 1) :
    firmwareVerified s flash x y rec_ = s := by
  simp [firmwareVerified, hc, hb]

theorem firmwareVerified_bootsel (hr : romRuns s = true) (hc : s.boot.checking = none)
    (hb : s.getF hubWin MBX_STATUS_HOSTBOOT = 0) (hs : s.boot.bootsel = true) (hp : policyBit s 3 = false) :
    firmwareVerified s flash x y rec_ = enterHostBoot s := by
  simp [firmwareVerified, hr, hc, hb, hs, hp]

theorem firmwareVerified_flash (hr : romRuns s = true) (hc : s.boot.checking = none)
    (hb : s.getF hubWin MBX_STATUS_HOSTBOOT = 0) (hs : s.boot.bootsel = false ∨ policyBit s 3 = true) :
    firmwareVerified s flash x y rec_ = romGoesOn s flash (flashIdentity flash rec_)
      (if policyBit s 4 then (false, s) else trySpi (readDirectory s) flash x y (flashIdentity flash rec_)) := by
  have hsel : ¬ (s.boot.bootsel = true ∧ (!policyBit s 3) = true) := by
    rcases hs with h | h <;> simp [h]
  simp only [firmwareVerified, hr, hc, hb, if_neg hsel, Bool.not_true, Bool.false_eq_true, if_false, zero_ne_one]
  rfl

end

theorem readFlash_eq (s : State) (flash : Bytes) (addr len : Nat) : readFlash s flash addr len =
    s.emit (.spiRead (if leAt flash 4 1 = 1 then 0x3B else if leAt flash 4 1 = 2 then 0x6B else 0x03)
      (if 1 ≤ leAt flash 5 1 ∧ leAt flash 5 1 ≤ 50 then 1000 * leAt flash 5 1 else 12000) addr len) := by
  have hmode : spiMode flash = if leAt flash 4 1 = 1 then 0x3B else if leAt flash 4 1 = 2 then 0x6B else 0x03 := by
    unfold spiMode
    split <;> simp_all
  have hclock : spiClock flash = if 1 ≤ leAt flash 5 1 ∧ leAt flash 5 1 ≤ 50 then 1000 * leAt flash 5 1 else 12000 := by
    simp only [spiClock, mul_ite]
  rw [readFlash, hmode, hclock]

/-! ### The training of the memory (R304, R516) -/

/-- What the training of each die leaves in its controller's registers. -/
def trainingNoted (s : State) (trained ms rate : Nat) : State :=
  (List.range 4).foldl (fun t d =>
    ((t.setF (lpcBase d) LPC_CFG_RATE rate).setF (lpcBase d) LPC_STATUS_TRAINED (bits trained (16 * d) 16)).setF (lpcBase d)
      LPC_TRAIN_MS_MS (bits ms (16 * d) 16)) s

theorem trainingNoted_boot (s : State) (trained ms rate : Nat) : (trainingNoted s trained ms rate).boot = s.boot :=
  List.foldlRecOn (motive := fun t : State => t.boot = s.boot) _ _ rfl fun _ h _ _ => h

section
variable {s : State} {ms rate : Nat} {net : List Bytes}

theorem memoryTrained_outOfPlace {trained : Nat} (h : s.boot.image = [] ∨
      (s.getF hubWin MBX_BOOT_STAGE_STAGE ≠ 5 ∧ s.getF hubWin MBX_BOOT_STAGE_STAGE ≠ 6) ∨ s.boot.waits = true ∨
      released s = false) : memoryTrained s trained ms rate net = s := by
  refine if_pos ?_
  rcases h with h | h | h | h <;> simp [h]

/-- The steward has started, trains, and nothing holds the device in reset. -/
structure Training (s : State) : Prop where
  image : s.boot.image ≠ []
  stage : s.getF hubWin MBX_BOOT_STAGE_STAGE = 5 ∨ s.getF hubWin MBX_BOOT_STAGE_STAGE = 6
  fresh : s.boot.waits = false
  released : released s = true

/-- The steward waits for READY. -/
def waitsForReady (s : State) : State := readyCheck { s with boot := { s.boot with waits := true } }

theorem memoryTrained_eq (h : Training s) (trained : BitVec 64) :
    memoryTrained s trained.toNat ms rate net =
      let t := trainingNoted s trained.toNat ms rate
      if trained ≠ BitVec.allOnes 64 then bootFail t 15
      else waitsForReady
        (if t.boot.scope ≠ 1 then t else if isHead t then (discover t net).1 else takeRecord t net) := by
  have hplace : ¬ (s.boot.image.isEmpty || (s.getF hubWin MBX_BOOT_STAGE_STAGE != 5 && s.getF hubWin MBX_BOOT_STAGE_STAGE != 6) ||
      s.boot.waits || !released s) = true := by
    rcases h.stage with hs | hs <;> simp [h.image, h.fresh, h.released, hs]
  have hall : trained.toNat % 2 ^ 64 ≠ 2 ^ 64 - 1 ↔ trained ≠ BitVec.allOnes 64 := by
    rw [Nat.mod_eq_of_lt trained.isLt, ← BitVec.toNat_allOnes, ne_eq, BitVec.toNat_inj]
  exact (if_neg hplace).trans (if_congr hall rfl rfl)

theorem memoryTrained_untrained (h : Training s) {trained : BitVec 64} (ht : trained ≠ BitVec.allOnes 64) :
    memoryTrained s trained.toNat ms rate net = bootFail (trainingNoted s trained.toNat ms rate) 15 :=
  (memoryTrained_eq h trained).trans (if_pos ht)

/-- With every channel trained READY is next, after what the first boot since a power-on reset does. -/
theorem memoryTrained_allOnes (h : Training s) {trained : BitVec 64} (ht : trained = BitVec.allOnes 64) :
    memoryTrained s trained.toNat ms rate net =
      let t := trainingNoted s trained.toNat ms rate
      waitsForReady (if s.boot.scope ≠ 1 then t else if isHead t then (discover t net).1 else takeRecord t net) := by
  refine (memoryTrained_eq h trained).trans ((if_neg (not_not.mpr ht)).trans ?_)
  rw [trainingNoted_boot]

end

/-- By the source of the image: cluster memory, the flash, or neither. -/
theorem bootProceeds : Spec.BootProceeds := by
  refine ⟨fun s hs => ⟨fun hr hb hc => ?_, fun h => ?_⟩, fun s flash x y rec' hs => ?_,
    fun s flash addr len _ => ⟨rfl, readFlash_eq s flash addr len⟩, fun s trained ms rate net hs h => ?_,
    fun s trained ms rate net hs hi hst hw hrel => ?_⟩
  · rw [exec_hostBootGo, live_of_functional hs, hostBootGo_goes hr hb hc]
  · rw [exec_hostBootGo, live_of_functional hs, hostBootGo_ignored h]
  · intro does id boots
    have hdoes {t : State} (e : firmwareVerified s flash x y rec' = t) : does t := by
      show exec _ s = _
      rw [exec_firmwareVerified, live_of_functional hs, e]
    refine ⟨fun hr => hdoes (firmwareVerified_idle hr), fun hr => ⟨fun n img hc => ⟨fun hb => ?_, fun hb => ?_⟩,
      fun hc hb => hdoes (firmwareVerified_inHostBoot hc hb), fun hc hb => ?_⟩⟩
    · exact hdoes (firmwareVerified_hostBoots hr hc hb)
    · exact hdoes (firmwareVerified_hostRefused hr hc hb)
    · intro failed try1 b
      refine ⟨fun hsel hp => hdoes (firmwareVerified_bootsel hr hc hb hsel hp), fun hsel => ?_⟩
      have hflash := firmwareVerified_flash (flash := flash) (x := x) (y := y) (rec_ := rec') hr hc hb hsel
      have hfailed {t : State} (e : firmwareVerified s flash x y rec' = romGoesOn s flash id (false, t)) : failed t :=
        ⟨fun hp => hdoes (e.trans (by simp [romGoesOn, hp])), fun hp => hdoes (e.trans (by simp [romGoesOn, hp]))⟩
      refine ⟨fun h4 => hfailed (by rw [hflash, if_pos h4]), fun h4 => ?_⟩
      rw [if_neg (by simp [h4]), trySpi_eq] at hflash
      have htry1 {t : State} (hf : t.fuses0 = s.fuses0)
          (e : firmwareVerified s flash x y rec' = romGoesOn s flash id (trySlot t flash spiSlot1 y id)) : try1 t :=
        ⟨fun hk => hfailed (by rw [e, trySlot_none hk]), fun img r hk =>
          ⟨fun hb h13 => hdoes (by rw [e, trySlot_boots hf hk hb h13]; rfl),
            fun hb => hfailed (by rw [e, trySlot_refused hf hk hb]; rfl)⟩⟩
      have hfuses : (readDirectory s).fuses0 = s.fuses0 := rfl
      refine ⟨fun hk => htry1 hfuses ?_, fun img r hk => ⟨fun hb h13 => hdoes ?_, fun hb =>
        htry1 (t := slotRead b flash spiSlot0 r) (slotRead_fuses0.trans hfuses) ?_⟩⟩
      · rw [hflash, trySlot_none (k := spiSlot0) hk]
        rfl
      · rw [hflash, trySlot_boots (k := spiSlot0) hfuses hk hb h13]
        rfl
      · rw [hflash, trySlot_refused (k := spiSlot0) hfuses hk hb]
        rfl
  · rw [exec_memoryTrainingDone, live_of_functional hs, memoryTrained_outOfPlace h]
  · intro t ready
    have htrain : Training s := ⟨hi, hst, hw, hrel⟩
    have hready {u : State} (ht : trained = BitVec.allOnes 64)
        (e : (if s.boot.scope ≠ 1 then t else if isHead t then (discover t net).1 else takeRecord t net) = u) : ready u := by
      show exec _ s = _
      rw [exec_memoryTrainingDone, live_of_functional hs, memoryTrained_allOnes htrain ht]
      exact congrArg (fun u => Host.Outcome.next (spdmResume (waitsForReady u))) e
    refine ⟨fun ht => ?_, fun ht h1 => hready ht (if_pos h1),
      fun ht h1 hh => hready ht ((if_neg (not_not.mpr h1)).trans (if_pos hh)),
      fun ht h1 hh => hready ht ((if_neg (not_not.mpr h1)).trans (if_neg (Bool.eq_false_iff.mp hh)))⟩
    rw [exec_memoryTrainingDone, live_of_functional hs, memoryTrained_untrained htrain ht]
    rfl

/-! ### The watchdog (R502) -/

theorem injected_boot (s : State) (p x : Nat) : (injected s p x).2.boot = s.boot := by
  unfold injected
  dsimp only
  split <;> rfl

/-- An expiry: a second one within ten seconds resets the device warm. -/
def watchdogFires (s : State) : State :=
  match s.boot.expiry with
  | some t => if now s < t + 10000000000 then deviceReset s rsWARM 6 0 else stewardFalls s
  | none => stewardFalls s

section
variable {s : State}

theorem watchdogExpiry_unready (h : s.getF hubWin MBX_STATUS_READY = 0) : watchdogExpiry s = s := if_pos h

theorem watchdogExpiry_early (h : s.getF hubWin MBX_STATUS_READY = 1) (hi : (injected s 0x11 0).1 = false)
    (hl : s.getF pwrHub PWR_WDOG_LIMIT = 0 ∨ now s < s.boot.kick + s.getF pwrHub PWR_WDOG_LIMIT * 1000000) :
    watchdogExpiry s = s := (if_neg (by omega)).trans (if_pos (by simpa [hi] using hl))

theorem watchdogExpiry_fires (h : s.getF hubWin MBX_STATUS_READY = 1)
    (hl : (injected s 0x11 0).1 = true ∨ (s.getF pwrHub PWR_WDOG_LIMIT ≠ 0 ∧
      s.boot.kick + s.getF pwrHub PWR_WDOG_LIMIT * 1000000 ≤ now s)) :
    watchdogExpiry s = watchdogFires (injected s 0x11 0).2 := by
  refine (if_neg (by omega)).trans (if_neg fun hc => ?_)
  simp only [Bool.and_eq_true, Bool.not_eq_true', Bool.or_eq_true, decide_eq_true_eq] at hc
  obtain ⟨hi, hn⟩ := hc
  rcases hl with hl | hl
  · simp [hl] at hi
  · omega

theorem watchdogFires_first (h : s.boot.expiry = none) : watchdogFires s = stewardFalls s := by
  simp only [watchdogFires, h]

theorem watchdogFires_again {t : Nat} (h : s.boot.expiry = some t) :
    watchdogFires s = if now s < t + 10000000000 then deviceReset s rsWARM 6 0 else stewardFalls s := by
  simp only [watchdogFires, h]

/-! ### The steward's restart (R502) -/

theorem stewardRestarted_waits (h : s.boot.down = false ∨ released s = false) : stewardRestarted s = s := by
  refine if_pos ?_
  rcases h with h | h <;> simp [h]

theorem stewardRestarted_eq (hd : s.boot.down = true) (hr : released s = true) :
    stewardRestarted s =
      if s.boot.scope = 4 then readyCheck { s with boot := { s.boot with down := false, waits := true } } else stewardBack s :=
  if_neg (by simp [hd, hr])

end

theorem becomeReady_met (s : State) : (becomeReady s).met = s.met := by
  unfold becomeReady
  dsimp only
  split <;> split <;> rfl

theorem readyCheck_met (s : State) : (readyCheck s).met = s.met := by
  unfold readyCheck
  split
  · exact becomeReady_met s
  · rfl

/-- By what READY, the period and the last expiry say, and by what the restart followed. -/
theorem stewardWatched : Spec.StewardWatched := by
  intro s hs
  refine ⟨(exec_wdogKick s).trans (live_of_functional hs _), fun h => ?_, fun h => ?_, fun h => ?_,
    fun hd hr => ⟨fun h4 => ?_, fun h4 => ?_⟩⟩
  · rw [exec_stewardWatchdogExpiry, live_of_functional hs, watchdogExpiry_unready h]
  · intro i limit
    have hnow : now i.2 = now s := SameClock.now (injected_timeBase s 0x11 0)
    refine ⟨fun hi hl => ?_, fun hl => ?_⟩
    · rw [exec_stewardWatchdogExpiry, live_of_functional hs, watchdogExpiry_early h hi hl]
    · rw [exec_stewardWatchdogExpiry, live_of_functional hs, watchdogExpiry_fires h hl]
      have hboot : i.2.boot = s.boot := injected_boot s 0x11 0
      refine ⟨fun he => ?_, fun t he => ⟨fun ht => ?_, fun ht => ?_⟩⟩
      · rw [watchdogFires_first (by rw [hboot, he])]
      · rw [watchdogFires_again (by rw [hboot, he]), if_pos (by rwa [hnow])]
      · rw [watchdogFires_again (by rw [hboot, he]), if_neg (by rwa [hnow, not_lt])]
  · rw [exec_stewardRestartComplete, live_of_functional hs, stewardRestarted_waits h, awaited_self]
  · rw [exec_stewardRestartComplete, live_of_functional hs, stewardRestarted_eq hd hr, if_pos h4]
    exact congrArg (fun t => Host.Outcome.next (spdmResume t)) (awaited_of_met_eq (readyCheck_met _))
  · rw [exec_stewardRestartComplete, live_of_functional hs, stewardRestarted_eq hd hr, if_neg h4]
    rfl

/-- Settles O48: how a boot proceeds, and what the watchdog and a restart do. -/
theorem bootAndWatchdog : Obligations.BootAndWatchdog := ⟨bootProceeds, stewardWatched⟩

end Sys2Proof.Machine
end

section
/-! The instructions of a mover program (R319 to R326, R333): what each does at its opcode, check by check. -/

namespace Sys2Proof.Machine
open Sys2Proof Sys2Proof.Machine.Reg

theorem exec_mvrNop (u : Fin 17) (n : Fin 32) (s : State) : exec (.mvrNop u n) s = live s (mvrNop s u n) := rfl
theorem exec_mvrLoop (u : Fin 17) (n : Fin 32) (s : State) : exec (.mvrLoop u n) s = live s (mvrLoop s u n) := rfl
theorem exec_mvrWait (u : Fin 17) (n : Fin 32) (s : State) : exec (.mvrWait u n) s = live s (mvrWait s u n) := rfl
theorem exec_mvrSignal (u : Fin 17) (n : Fin 32) (s : State) : exec (.mvrSignal u n) s = live s (mvrSignal s u n) := rfl
theorem exec_mvrMove (u : Fin 17) (n : Fin 32) (s : State) : exec (.mvrMove u n) s = live s (mvrBeginMove s u n 1) := rfl
theorem exec_mvrMove2d (u : Fin 17) (n : Fin 32) (s : State) : exec (.mvrMove2d u n) s = live s (mvrBeginMove s u n 7) := rfl
theorem exec_mvrReservedOpcode (u : Fin 17) (n : Fin 32) (s : State) :
    exec (.mvrReservedOpcode u n) s = live s (mvrReservedOp s u n) := rfl

theorem mvrErr_eq (s : State) (u n d : Nat) : mvrErr s u n d = mvrFail s u n 3 d := rfl
theorem mvrGoto_eq (s : State) (u n i : Nat) : mvrGoto s u n i = Spec.channelAt s u n i := rfl

/-! ### NOP and reserved opcodes (R326) -/

theorem mvrNop_eq {s : State} {u n : Nat} (h : mvrAtOp s u n 0 = true) :
    mvrNop s u n = if mvrWord s u n / 16 ≠ 0 then mvrFail s u n 3 4 else Spec.channelAt s u n (mvrPC s u n + 1) := by
  simp only [mvrNop, h, Bool.not_true, Bool.false_eq_true, if_false, mvrErr_eq, mvrGoto_eq]

/-- A channel is at the one opcode that its word holds. -/
theorem mvOP_of_mvrAtOp {s : State} {u n o : Nat} (h : mvrAtOp s u n o = true) : mvOP (mvrWord s u n) = o := by
  simp only [mvrAtOp, Bool.and_eq_true, decide_eq_true_eq] at h
  exact h.2

theorem mvrReservedOp_eq {s : State} {u n o : Nat} (ho : o = 6 ∨ 8 ≤ o) (h : mvrAtOp s u n o = true) :
    mvrReservedOp s u n = mvrFail s u n 3 3 := by
  simp only [mvrReservedOp, mvOP_of_mvrAtOp h]
  exact if_pos ⟨ho, h⟩

/-! ### LOOP (R322) -/

/-- The runs that a LOOP has left once this one is counted: those its channel keeps, or those of a loop that starts, 2^24 where it has
no end (log 33). -/
def loopLeft (s : State) (u n : Nat) : Nat :=
  match (s.mvr u n).loop with
  | some l => l.2
  | none => if bits (mvrWord s u n) 16 24 = 0 then 2 ^ 24 else bits (mvrWord s u n) 16 24 - 1

/-- A LOOP back to its target with its increments added to the offsets, and `k` runs left. -/
def loopJump (s : State) (u n k : Nat) : State :=
  Spec.channelAt (s.setMvr u n { s.mvr u n with
    loop := some (mvrPC s u n, k)
    soff := signed 48 (unsigned 48 ((s.mvr u n).soff + signed 32 (bits (mvrWord s u n) 64 32)))
    doff := signed 48 (unsigned 48 ((s.mvr u n).doff + signed 32 (bits (mvrWord s u n) 96 32))) }) u n (bits (mvrWord s u n) 4 6)

theorem loopLeft_kept {s : State} {u n : Nat} {l : Nat × Nat} (h : (s.mvr u n).loop = some l) : loopLeft s u n = l.2 := by
  simp only [loopLeft, h]

theorem loopLeft_starts {s : State} {u n k : Nat} (h : (s.mvr u n).loop = none) (hk : bits (mvrWord s u n) 16 24 = k + 1) :
    loopLeft s u n = k := by
  simp only [loopLeft, h, hk, Nat.succ_ne_zero, if_false, Nat.add_sub_cancel]

theorem loopLeft_endless {s : State} {u n : Nat} (h : (s.mvr u n).loop = none) (hk : bits (mvrWord s u n) 16 24 = 0) :
    loopLeft s u n = 2 ^ 24 := by
  simp only [loopLeft, h, hk, if_true]

/-- The loop that is open, if any, is the one at this LOOP. -/
theorem loop_here {s : State} {u n k : Nat} (h : (s.mvr u n).loop = none ∨ (s.mvr u n).loop = some (mvrPC s u n, k)) :
    ∀ l, (s.mvr u n).loop = some l → l.1 = mvrPC s u n := by
  intro l hl
  rcases h with h | h <;> rw [h] at hl
  · cases hl
  · exact congrArg Prod.fst (Option.some.inj hl).symm

section
variable {s : State} {u n : Nat} (h : mvrAtOp s u n 2 = true)
include h

theorem mvrLoop_reserved (hw : bits (mvrWord s u n) 10 6 ≠ 0 ∨ bits (mvrWord s u n) 40 24 ≠ 0) :
    mvrLoop s u n = mvrFail s u n 3 4 := by
  simp only [mvrLoop, h, Bool.not_true, Bool.false_eq_true, if_false, if_pos hw, mvrErr_eq]

variable (hw : ¬ (bits (mvrWord s u n) 10 6 ≠ 0 ∨ bits (mvrWord s u n) 40 24 ≠ 0))
include hw

theorem mvrLoop_unaligned (ho : bits (mvrWord s u n) 64 32 % 64 ≠ 0 ∨ bits (mvrWord s u n) 96 32 % 64 ≠ 0) :
    mvrLoop s u n = mvrFail s u n 3 2 := by
  simp only [mvrLoop, h, Bool.not_true, Bool.false_eq_true, if_false, if_neg hw, if_pos ho, mvrErr_eq]

variable (ho : ¬ (bits (mvrWord s u n) 64 32 % 64 ≠ 0 ∨ bits (mvrWord s u n) 96 32 % 64 ≠ 0))
include ho

theorem mvrLoop_beyond (hb : mvrLen s u n ≤ bits (mvrWord s u n) 4 6) : mvrLoop s u n = mvrFail s u n 3 6 := by
  simp only [mvrLoop, h, Bool.not_true, Bool.false_eq_true, if_false, if_neg hw, if_neg ho, if_pos hb, mvrErr_eq]

variable (hb : ¬ mvrLen s u n ≤ bits (mvrWord s u n) 4 6)
include hb

theorem mvrLoop_nested {l : Nat × Nat} (hl : (s.mvr u n).loop = some l) (hpc : l.1 ≠ mvrPC s u n) :
    mvrLoop s u n = mvrFail s u n 3 5 := by
  simp only [mvrLoop, h, Bool.not_true, Bool.false_eq_true, if_false, if_neg hw, if_neg ho, if_neg hb, hl, bne_iff_ne.mpr hpc,
    if_true, mvrErr_eq]

/-- A LOOP that no other loop is open around goes on after its last run, and jumps while runs are left. -/
theorem mvrLoop_checked (hl : ∀ l, (s.mvr u n).loop = some l → l.1 = mvrPC s u n) :
    mvrLoop s u n =
      if loopLeft s u n = 0 then Spec.channelAt (s.setMvr u n { s.mvr u n with loop := none }) u n (mvrPC s u n + 1)
      else loopJump s u n (if loopLeft s u n = 2 ^ 24 then loopLeft s u n else loopLeft s u n - 1) := by
  simp only [mvrLoop, h, Bool.not_true, Bool.false_eq_true, if_false, if_neg hw, if_neg ho, if_neg hb, mvrGoto_eq]
  unfold loopJump loopLeft
  cases hx : (s.mvr u n).loop with
  | none => rfl
  | some l => simp [hl l hx]

end

/-! ### WAIT (R323, R333) -/

section
variable {s : State} {u n : Nat} (h : mvrAtOp s u n 3 = true)
include h

theorem mvrWait_reserved (hw : 2 ≤ bits (mvrWord s u n) 4 2 ∨ mvrWord s u n / 2 ^ 18 ≠ 0) :
    mvrWait s u n = mvrFail s u n 3 4 := by
  simp only [mvrWait, h, Bool.not_true, Bool.false_eq_true, if_false, if_pos hw, mvrErr_eq]

variable (hw : ¬ (2 ≤ bits (mvrWord s u n) 4 2 ∨ mvrWord s u n / 2 ^ 18 ≠ 0))
include hw

theorem mvrWait_line (hm : bits (mvrWord s u n) 4 2 = 0) :
    mvrWait s u n =
      let t := s.setMvr u n { s.mvr u n with outFor := none }
      let ev := t.getF (mvrBase u n) MVR_EVT_PEND
      let line := bits (mvrWord s u n) 6 5
      if bit ev line = true then
        Spec.channelAt (t.setF (mvrBase u n) MVR_EVT_PEND (setBits ev line 1 0)) u n (mvrPC s u n + 1)
      else t.setF (mvrBase u n) MVR_STATUS_STATE 3 := by
  have hq : ¬ (bits (mvrWord s u n) 4 2 = 1 ∧ (16 ≤ u ∨ (s.mvr u n).held.isSome = true)) := by omega
  simp only [mvrWait, h, Bool.not_true, Bool.false_eq_true, if_false, if_neg hw, if_neg hq, if_pos hm, mvrGoto_eq]

variable (hm : bits (mvrWord s u n) 4 2 = 1)
include hm

/-- The hub mover has no handle queues, and a channel holds one entry. -/
theorem mvrWait_refused (hu : 16 ≤ u ∨ (s.mvr u n).held.isSome = true) : mvrWait s u n = mvrFail s u n 3 7 := by
  have hq : bits (mvrWord s u n) 4 2 = 1 ∧ (16 ≤ u ∨ (s.mvr u n).held.isSome = true) := ⟨hm, hu⟩
  simp only [mvrWait, h, Bool.not_true, Bool.false_eq_true, if_false, if_neg hw, if_pos hq, mvrErr_eq]

/-- A WAIT on a queue: an entry popped is the one the channel holds from now on, and its core's queue makes progress. -/
theorem mvrWait_queue (hu : ¬ (16 ≤ u ∨ (s.mvr u n).held.isSome = true)) :
    mvrWait s u n =
      let t := s.setMvr u n { s.mvr u n with outFor := none }
      let c := 8 * u + bits (mvrWord s u n) 11 3
      let q := bits (mvrWord s u n) 14 4
      match (t.hq c q).entries with
      | [] => t.setF (mvrBase u n) MVR_STATUS_STATE 3
      | e :: rest =>
        let p := progress ((t.setHq c q { t.hq c q with entries := rest }).addF (hqBase c q) STU_HQ_POPS_COUNT 1) c
        Spec.channelAt ((p.setMvr u n { p.mvr u n with held := some (e, c, q), outFor := some c }).setF (mvrBase u n)
          MVR_STATUS_HELD 1) u n (mvrPC s u n + 1) := by
  have hq : ¬ (bits (mvrWord s u n) 4 2 = 1 ∧ (16 ≤ u ∨ (s.mvr u n).held.isSome = true)) := fun hx => hu hx.2
  have h0 : bits (mvrWord s u n) 4 2 ≠ 0 := by omega
  unfold mvrWait
  rw [h, if_neg (by decide)]
  dsimp only
  rw [if_neg hw, if_neg hq, if_neg h0]
  rfl

end

/-! ### SIGNAL (R324) -/

section
variable {s : State} {u n : Nat} (h : mvrAtOp s u n 4 = true)
include h

theorem mvrSignal_reserved (hw : bits (mvrWord s u n) 4 2 = 3 ∨ mvrWord s u n / 2 ^ 18 ≠ 0) :
    mvrSignal s u n = mvrFail s u n 3 4 := by
  simp only [mvrSignal, h, Bool.not_true, Bool.false_eq_true, if_false, if_pos hw, mvrErr_eq]

variable (hw : ¬ (bits (mvrWord s u n) 4 2 = 3 ∨ mvrWord s u n / 2 ^ 18 ≠ 0))
include hw

theorem mvrSignal_line (hm : bits (mvrWord s u n) 4 2 = 0) :
    mvrSignal s u n = Spec.channelAt (mvrPulse s u (bits (mvrWord s u n) 6 5)) u n (mvrPC s u n + 1) := by
  simp only [mvrSignal, h, Bool.not_true, Bool.false_eq_true, if_false, if_neg hw, if_pos hm, mvrGoto_eq]

variable (hm : bits (mvrWord s u n) 4 2 ≠ 0)
include hm

theorem mvrSignal_hub (hu : 16 ≤ u) : mvrSignal s u n = mvrFail s u n 3 7 := by
  simp only [mvrSignal, h, Bool.not_true, Bool.false_eq_true, if_false, if_neg hw, if_neg hm, if_pos hu, mvrErr_eq]

variable (hu : u < 16)
include hu

theorem mvrSignal_unheld (hheld : (s.mvr u n).held = none) : mvrSignal s u n = mvrFail s u n 3 8 := by
  simp only [mvrSignal, h, Bool.not_true, Bool.false_eq_true, if_false, if_neg hw, if_neg hm, if_neg (Nat.not_le.mpr hu), hheld,
    mvrErr_eq]

/-- A SIGNAL that pushes the held entry, or its handle. -/
theorem mvrSignal_push {x : BitVec 64 × Nat × Nat} (hheld : (s.mvr u n).held = some x) :
    mvrSignal s u n =
      let c := 8 * u + bits (mvrWord s u n) 11 3
      let q := bits (mvrWord s u n) 14 4
      let e := if bits (mvrWord s u n) 4 2 = 1 then x.1.toNat else eHANDLE x.1.toNat
      let t := pushQueue s c q (BitVec.ofNat 64 e) q
      if pushRefused s c q e = true then mvrFail t u n 2 4
      else Spec.channelAt ((t.setMvr u n { t.mvr u n with held := none }).setF (mvrBase u n) MVR_STATUS_HELD 0) u n
        (mvrPC s u n + 1) := by
  simp only [mvrSignal, h, Bool.not_true, Bool.false_eq_true, if_false, if_neg hw, if_neg hm, if_neg (Nat.not_le.mpr hu), hheld,
    mvrGoto_eq]

end

/-! ### MOVE and MOVE2D (R320, R321, R326) -/

/-- The current instruction is relative to the held entry. -/
abbrev MoveRelative (s : State) (u n : Nat) : Prop := mvSREL (mvrWord s u n) = true ∨ mvDREL (mvrWord s u n) = true

/-- The first row does not start on words. -/
abbrev MoveOdd (s : State) (u n : Nat) : Prop := mvrSrc s u n 0 % 64 ≠ 0 ∨ mvrDst s u n 0 % 64 ≠ 0

/-- A stride of the second slot is no number of words. -/
abbrev StrideOdd (s : State) (u n : Nat) : Prop :=
  mv2SSTR (mvrAt s u n (mvrPC s u n + 1)) % 64 ≠ 0 ∨ mv2DSTR (mvrAt s u n (mvrPC s u n + 1)) % 64 ≠ 0

/-- Row `r` lies within 48 bits at its source and at its destination. -/
abbrev RowFits (s : State) (u n r : Nat) : Prop :=
  mvrFits (mvrSrc s u n r) (64 * mvUNITS (mvrWord s u n)) = true ∧ mvrFits (mvrDst s u n r) (64 * mvUNITS (mvrWord s u n)) = true

theorem mvrBeginMove_early {s : State} {u n : Nat} (h : mvrAtOp s u n 7 = true) (hb : s.b0 = false) :
    mvrBeginMove s u n 7 = mvrFail s u n 3 3 := by
  simp only [mvrBeginMove, h, hb, Bool.not_true, Bool.not_false, Bool.false_eq_true, if_false, decide_true, true_and, if_true,
    mvrErr_eq]

section
variable {s : State} {u n : Nat} (h : mvrAtOp s u n 7 = true) (hb : s.b0 = true)
include h hb

theorem mvrBeginMove_lastSlot (hl : mvrLen s u n ≤ mvrPC s u n + 1) : mvrBeginMove s u n 7 = mvrFail s u n 3 6 := by
  simp only [mvrBeginMove, h, hb, Bool.not_true, Bool.false_eq_true, if_false, decide_true, true_and, if_pos hl, mvrErr_eq]

theorem mvrBeginMove_reserved (hl : ¬ mvrLen s u n ≤ mvrPC s u n + 1)
    (hv : bits (mvrAt s u n (mvrPC s u n + 1)) 24 40 ≠ 0) : mvrBeginMove s u n 7 = mvrFail s u n 3 4 := by
  simp only [mvrBeginMove, h, hb, Bool.not_true, Bool.false_eq_true, if_false, decide_true, true_and, if_neg hl, if_pos hv, mvrErr_eq]

end

/-- The checks of a move whose slots are sound, in their order. -/
theorem mvrBeginMove_eq {s : State} {u n op : Nat} (h : mvrAtOp s u n op = true)
    (hslots : op = 7 → s.b0 = true ∧ mvrPC s u n + 1 < mvrLen s u n ∧ bits (mvrAt s u n (mvrPC s u n + 1)) 24 40 = 0) :
    mvrBeginMove s u n op =
      if MoveRelative s u n ∧ (s.mvr u n).held = none then mvrFail s u n 3 8
      else if MoveOdd s u n then mvrFail s u n 3 1
      else if op = 7 ∧ StrideOdd s u n then mvrFail s u n 3 2
      else if MoveRelative s u n ∧ heldMarker s u n = true then Spec.channelAt s u n (mvrPC s u n + if op = 7 then 2 else 1)
      else if RowFits s u n 0 ∧ RowFits s u n ((if op = 7 then mv2ROWS (mvrAt s u n (mvrPC s u n + 1)) else 1) - 1) then
        s.setMvr u n { s.mvr u n with moving := true, row := 0, done := 0 }
      else mvrFail s u n 3 2 := by
  have h3 : ¬ (op = 7 ∧ (!s.b0) = true) := by
    rintro ⟨h7, hb⟩
    simp [(hslots h7).1] at hb
  have h6 : ¬ (op = 7 ∧ mvrLen s u n ≤ mvrPC s u n + 1) := fun hx => Nat.not_le.mpr (hslots hx.1).2.1 hx.2
  have h4 : ¬ (op = 7 ∧ bits (mvrAt s u n (mvrPC s u n + 1)) 24 40 ≠ 0) := fun hx => hx.2 (hslots hx.1).2.2
  simp only [mvrBeginMove, h, Bool.not_true, Bool.false_eq_true, if_false, decide_eq_true_eq, if_neg h3, if_neg h6, if_neg h4,
    Bool.or_eq_true, Option.isNone_iff_eq_none, mvrErr_eq, mvrGoto_eq]
  simp only [Bool.not_eq_true', ← Bool.not_eq_true, Bool.and_eq_true, ite_not, RowFits, and_assoc, and_left_comm]

/-! ### The obligation -/

/-- Settles O43, instruction by instruction: each clause is the branch of the instruction that its checks lead to. -/
theorem channelInstructions : Obligations.ChannelInstructions := by
  intro s u n hs
  simp only [exec_mvrNop, exec_mvrLoop, exec_mvrWait, exec_mvrSignal, exec_mvrMove, exec_mvrMove2d, exec_mvrReservedOpcode,
    live_of_functional hs, Host.Outcome.next.injEq]
  have hu : u.val ≤ 16 := Nat.le_of_lt_succ u.isLt
  refine ⟨fun h => ?nop, fun h => ?loop, fun h => ?wait, fun h => ?signal, ⟨fun h => ?move, fun h => ?move2d⟩,
    fun o ho h => mvrReservedOp_eq ho h⟩
  case nop =>
    rw [mvrNop_eq h]
    exact ⟨fun hw => if_neg (not_not.mpr hw), fun hw => if_pos hw⟩
  case loop =>
    refine ⟨mvrLoop_reserved h, mvrLoop_unaligned h, mvrLoop_beyond h, fun hw ho hb => ⟨fun l => mvrLoop_nested h hw ho hb, ?_, ?_⟩⟩
    · intro k hk hlt
      have hleft : loopLeft s u n = k := hk.elim (fun x => loopLeft_starts x.1 x.2) loopLeft_kept
      rw [mvrLoop_checked h hw ho hb (loop_here (hk.imp_left And.left)), hleft]
      refine ⟨fun h0 => if_pos h0, fun h0 => ?_⟩
      rw [if_neg h0, if_neg hlt.ne]
      rfl
    · intro hk
      have hleft : loopLeft s u n = 2 ^ 24 := hk.elim (fun x => loopLeft_endless x.1 x.2) loopLeft_kept
      rw [mvrLoop_checked h hw ho hb (loop_here (hk.imp_left And.left)), hleft, if_neg (by decide), if_pos rfl]
      rfl
  case wait =>
    refine ⟨mvrWait_reserved h, fun hm hw => ?_, fun hm hw => ⟨fun hx => ?_, fun hlt hheld => ?_⟩⟩
    · rw [mvrWait_line h (by omega) hm]
      exact ⟨fun hp => if_pos hp, fun hp => if_neg (Bool.not_eq_true _ ▸ hp)⟩
    · exact mvrWait_refused h (by omega) hm (hx.imp_left Eq.ge)
    · rw [mvrWait_queue h (by omega) hm (by simp [hheld, hlt])]
      refine ⟨fun hq => ?_, fun e rest hq => ?_⟩ <;> simp only [hq]
  case signal =>
    refine ⟨mvrSignal_reserved h, fun hm hw => mvrSignal_line h (by omega) hm, fun hm hw => ?_⟩
    have hw' : ¬ (bits (mvrWord s u n) 4 2 = 3 ∨ mvrWord s u n / 2 ^ 18 ≠ 0) := by omega
    have hm' : bits (mvrWord s u n) 4 2 ≠ 0 := by omega
    refine ⟨fun hhub => mvrSignal_hub h hw' hm' hhub.ge, mvrSignal_unheld h hw' hm', fun x e hlt hheld he => ?_⟩
    have he' : (if bits (mvrWord s u n) 4 2 = 1 then x.1.toNat else eHANDLE x.1.toNat) = e := by
      rcases he with ⟨hmode, rfl⟩ | ⟨hmode, rfl⟩ <;> simp [hmode]
    rw [mvrSignal_push h hw' hm' hlt hheld, he']
    exact ⟨fun hp => if_neg (Bool.not_eq_true _ ▸ hp), fun hp => if_pos hp⟩
  case move =>
    rw [mvrBeginMove_eq h (fun h7 => absurd h7 (by decide))]
    simp only [show ¬ (1 = 7) by decide, false_and, if_false, Nat.sub_self, and_self]
    exact ⟨fun hr hx => if_pos ⟨hr, hx⟩, fun hx => ⟨fun ho => by rw [if_neg hx, if_pos ho],
      fun ho hr hk => by rw [if_neg hx, if_neg ho, if_pos ⟨hr, hk⟩],
      fun ho hk hf => by rw [if_neg hx, if_neg ho, if_neg hk, if_neg hf],
      fun ho hk hf => by rw [if_neg hx, if_neg ho, if_neg hk, if_pos hf]⟩⟩
  case move2d =>
    refine ⟨mvrBeginMove_early h, mvrBeginMove_lastSlot h, fun hb hl => ⟨fun hv => ?_, ?_⟩⟩
    · exact mvrBeginMove_reserved h hb (Nat.not_le.mpr hl) hv
    rw [← forall_and]
    intro hv
    rw [mvrBeginMove_eq h (fun _ => ⟨hb, hl, hv⟩)]
    simp only [if_true, true_and]
    exact ⟨fun hr hx => if_pos ⟨hr, hx⟩, fun hx => ⟨fun ho => by rw [if_neg hx, if_pos ho],
      fun ho hst => by rw [if_neg hx, if_neg ho, if_pos hst],
      fun ho hst hr hk => by rw [if_neg hx, if_neg ho, if_neg hst, if_pos ⟨hr, hk⟩],
      fun ho hst hk => ⟨fun hf => by rw [if_neg hx, if_neg ho, if_neg hst, if_neg hk, if_neg hf],
        fun hf hg => by rw [if_neg hx, if_neg ho, if_neg hst, if_neg hk, if_pos ⟨hf, hg⟩]⟩⟩⟩

end Sys2Proof.Machine
end

section
/-! Ingest FIFOs: aperture writes, configuration, and the pull engine (R341 to R343, R345, R349). -/

namespace Sys2Proof.Machine
open Sys2Proof Sys2Proof.Machine.Reg

theorem exec_fifApertureWrite (k : Fin 128) (off : BitVec 7) (data : List (BitVec 8)) (s : State) :
    exec (.fifApertureWrite k off data) s = live s (fifAperture s k off.toNat data) := rfl
theorem exec_fifConfigWrite (k : Fin 128) (j : Fin 3) (v : BitVec 32) (s : State) :
    exec (.fifConfigWrite k j v) s = live s (fifConfigWrite s k j v.toNat) := rfl
theorem exec_pullRequest (k : Fin 128) (s : State) : exec (.pullRequest k) s = live s (pullRequest s k) := rfl
theorem exec_pullCompletion (k : Fin 128) (j : Nat) (d : Option (List (BitVec 8))) (s : State) :
    exec (.pullCompletion k j d) s = live s (pullComplete s k j d) := rfl
theorem exec_pullTimeout (k : Fin 128) (j : Nat) (s : State) :
    exec (.pullTimeout k j) s = live s (pullComplete s k j none) := rfl

/-- An injection point that does not fire changes nothing (R449). -/
theorem injected_silent {s : State} {d x : Nat} (h : (injected s d x).1 = false) : (injected s d x).2 = s := by
  unfold injected at h ⊢
  dsimp only at h ⊢
  split at h
  · cases h
  · next hn => rw [if_neg hn]

/-! ### Flags and drops leave the FIFOs (R342, R348) -/

theorem Sent.fifos {s t : State} (h : Sent s t) : t.fifos = s.fifos := by
  obtain ⟨_, _, _, _, _, _, _, rfl⟩ := h
  rfl

theorem fifPend_sent (s : State) (k : Nat) : Sent s (fifPend s k) := by
  unfold fifPend
  dsimp only
  split
  · exact Sent.trans ⟨_, _, _, _, _, _, _, rfl⟩ (raiseVector_sent _ 2)
  · exact ⟨_, _, _, _, _, _, _, rfl⟩

theorem fifFlag_sent (s : State) (k : Nat) (f : Fld) : Sent s (fifFlag s k f) :=
  Sent.trans ⟨_, _, _, _, _, _, _, rfl⟩ (fifPend_sent _ k)

theorem fifDrop_sent (s : State) (k : Nat) (err : Bool) : Sent s (fifDrop s k err) := by
  unfold fifDrop
  dsimp only
  split
  · exact Sent.trans ⟨_, _, _, _, _, _, _, rfl⟩ (fifFlag_sent _ k _)
  · exact ⟨_, _, _, _, _, _, _, rfl⟩

/-- The open frame depends on the FIFOs alone. -/
theorem fifOpenFrame_congr {s t : State} (h : t.fifos = s.fifos) (k : Nat) : fifOpenFrame t k = fifOpenFrame s k := by
  simp only [fifOpenFrame, State.fifo, h]

theorem fifOpenFrame_fifDrop (s : State) (k : Nat) (err : Bool) : fifOpenFrame (fifDrop s k err) k = fifOpenFrame s k :=
  fifOpenFrame_congr (fifDrop_sent s k err).fifos k

/-! ### Bytes for the open frame (R342) -/

/-- The open frame with the bytes `d` stored behind those it has, the write position and FIF_BYTES behind them. -/
def fifStored (s : State) (k : Nat) (f : FFrame) (d : Bytes) : State :=
  (fifAdvance (fifSetLast (fifStore s k (s.fifo k).wr d) k { f with got := f.got + d.length }) k d.length).addF (fifBase k)
    FIF_BYTES_COUNT d.length

/-- Bytes taken from REMAIN: a frame that needs no more closes. -/
def fifCount (s : State) (k n : Nat) (rem : Nat) : State :=
  if rem ≤ n then fifClose (s.setF (fifBase k) FIF_REMAIN_BYTES (rem - n)) k else s.setF (fifBase k) FIF_REMAIN_BYTES (rem - n)

section
variable {s : State} {k : Nat} {f : FFrame} (hf : fifOpenFrame s k = some f)
include hf

theorem fifAccept_eq (d : Bytes) :
    fifAccept s k d = fifCount (fifStored s k f d) k d.length ((fifStored s k f d).getF (fifBase k) FIF_REMAIN_BYTES) := by
  simp only [fifAccept, hf, Nat.sub_eq_zero_iff_le]
  rfl

/-- Bytes for an aborted frame are discarded, and count against REMAIN. -/
theorem fifTake_bad (hb : f.bad = true) (d : Bytes) :
    fifTake s k d = fifCount (fifDrop s k (decide (s.getF (fifBase k) FIF_REMAIN_BYTES < d.length))) k d.length
      (s.getF (fifBase k) FIF_REMAIN_BYTES) := by
  simp only [fifTake, hf, hb, if_true, Nat.sub_eq_zero_iff_le]
  rfl

theorem fifTake_fits (hb : f.bad = false) {d : Bytes} (hd : d.length ≤ s.getF (fifBase k) FIF_REMAIN_BYTES) :
    fifTake s k d = fifAccept s k (d.take (s.getF (fifBase k) FIF_REMAIN_BYTES)) := by
  simp only [fifTake, hf, hb, Bool.false_eq_true, if_false, decide_eq_true_eq, if_neg (Nat.not_lt.mpr hd)]

/-- Bytes beyond REMAIN are discarded with ERR. -/
theorem fifTake_exceeds (hb : f.bad = false) {d : Bytes} (hd : s.getF (fifBase k) FIF_REMAIN_BYTES < d.length) :
    fifTake s k d = fifAccept (fifDrop s k true) k (d.take (s.getF (fifBase k) FIF_REMAIN_BYTES)) := by
  simp only [fifTake, hf, hb, Bool.false_eq_true, if_false, decide_eq_true_eq, if_pos hd]

end

/-! ### Aperture writes (R342) -/

/-- A write of the aperture that is no whole number of elements within it, or to a slot of another source. -/
abbrev ApertureWrong (s : State) (k off : Nat) (d : Bytes) : Prop :=
  128 < off + d.length ∨ d.length % fifElem s k ≠ 0 ∨ off % fifElem s k ≠ 0 ∨ fifSrc s k ≠ 0

theorem fifAperture_nil (s : State) (k off : Nat) : fifAperture s k off [] = s := rfl

section
variable {s : State} {k off : Nat} {d : Bytes} (hd : d ≠ [])
include hd

theorem fifAperture_refused (h : ApertureWrong s k off d ∨ fifOpenFrame s k = none) :
    fifAperture s k off d = fifDrop s k true := by
  simp only [fifAperture, List.isEmpty_iff, if_neg hd]
  split
  · rfl
  · next hw => simp only [h.resolve_left hw]

variable (hw : ¬ ApertureWrong s k off d) {f : FFrame} (hf : fifOpenFrame s k = some f)
include hw hf

theorem fifAperture_overflows (hb : f.bad = false) (hn : fifFree s k < d.length) :
    fifAperture s k off d = fifSpoil (fifFlag (fifDrop s k false) k FIF_STATUS_OVF) k := by
  simp only [fifAperture, List.isEmpty_iff, if_neg hd, if_neg hw, hf, hb, hn, Bool.not_false, decide_true, Bool.and_self, if_true]

theorem fifAperture_takes (h : f.bad = true ∨ d.length ≤ fifFree s k) : fifAperture s k off d = fifTake s k d := by
  have h' : ¬ (!f.bad && decide (fifFree s k < d.length)) = true := by
    rcases h with h | h <;> simp [h]
  simp only [fifAperture, List.isEmpty_iff, if_neg hd, if_neg hw, hf, if_neg h']

end

/-! ### Configuration (R349) -/

theorem fifConfigWrite_bound {s : State} {k : Nat} (h : (s.stream k).plan.isSome = true) (j v : Nat) :
    fifConfigWrite s k j v = s := if_pos h

theorem fifConfigWrite_unbound {s : State} {k : Nat} (h : (s.stream k).plan = none) (j v : Nat) :
    fifConfigWrite s k j v = s.writeRW (fifBase k + 4 * j) v := if_neg (by simp [bound, h])

/-! ### Pull (R343) -/

theorem pullRequest_closed {s : State} {k : Nat} (h : fifOpenFrame s k = none) : pullRequest s k = s := by
  simp only [pullRequest, h]

theorem pullComplete_closed {s : State} {k : Nat} (h : fifOpenFrame s k = none) (j : Nat) (d : Option Bytes) :
    pullComplete s k j d = s := by
  simp only [pullComplete, h]

/-- A request goes out for bytes that are still to be asked for and that the FIFO has room for. -/
theorem pullRequest_open {s : State} {k : Nat} {f : FFrame} (h : fifOpenFrame s k = some f) :
    pullRequest s k =
      if fifSrc s k ≠ 1 ∨ f.bad = true ∨ pullLen s k f = 0 ∨ fifFree s k < pullLen s k f then s
      else (s.setFifo k { s.fifo k with
          asked := (s.fifo k).asked + pullLen s k f
          pulls := (s.fifo k).pulls ++ [⟨(s.fifo k).asked, pullLen s k f, none⟩] }).emit
        (.hostRead (fdINADDR f.desc + (s.fifo k).asked) (pullLen s k f) (relaxOn s)) := by
  simp only [pullRequest, h]

section
variable {s : State} {k j : Nat} {f : FFrame} {p : Pull} (hf : fifOpenFrame s k = some f) (hp : (s.fifo k).pulls[j]? = some p)
  (hd : p.data = none)
include hf hp hd

theorem pullComplete_bad (hb : f.bad = true) (d : Option Bytes) : pullComplete s k j d = pullGone s k j := by
  simp only [pullComplete, hf, hp, hd, hb, Option.isSome_none, Bool.false_eq_true, if_false, if_true]

variable (hb : f.bad = false)
include hb

/-- A request without data aborts the frame: there are none, or the injection point fires. -/
theorem pullComplete_fails {d : Option Bytes} (h : (injected s 0x0E k).1 = true ∨ d = none) :
    pullComplete s k j d =
      pullGone (fifFlag (fifSpoil (injected s 0x0E k).2 k) k FIF_STATUS_PULL_ERR) k j := by
  have hnone : (if (injected s 0x0E k).1 = true then none else d) = none := by
    rcases h with h | h <;> simp [h]
  simp only [pullComplete, hf, hp, hd, hb, Option.isSome_none, Bool.false_eq_true, if_false, hnone]

theorem pullComplete_arrives {b : Bytes} (h : (injected s 0x0E k).1 = false) :
    pullComplete s k j (some b) = pullPlace (s.setFifo k { s.fifo k with
      pulls := (s.fifo k).pulls.set j { p with data := some (slice b 0 p.len) } }) k := by
  simp only [pullComplete, hf, hp, hd, hb, h, injected_silent h, Option.isSome_none, Bool.false_eq_true, if_false]

end

/-! ### The obligation -/

/-- Settles O45: what a write finds of the open frame, and what the pull engine asks for and gets. -/
theorem fifoWrites : Obligations.FifoWrites := by
  intro s k hs
  simp only [exec_fifApertureWrite, exec_fifConfigWrite, exec_pullRequest, exec_pullCompletion, exec_pullTimeout,
    live_of_functional hs, Host.Outcome.next.injEq]
  refine ⟨fun off => fifAperture_nil s k _, fun off data hd => ⟨fifAperture_refused hd, fun f hw hf => ⟨?overflow, ?takes, ?bad⟩⟩,
    fun j v => ⟨fun h => fifConfigWrite_bound h j _, fun h => fifConfigWrite_unbound h j _⟩,
    fun h => ⟨pullRequest_closed h, fun j d => ⟨pullComplete_closed h j d, pullComplete_closed h j none⟩⟩,
    fun f hf => ⟨fun h => ?idle, fun hsrc hb hn hfree => ?asks⟩, fun f j p hf hp hd => ⟨fun hb => ?gone, fun hb => ?answered⟩⟩
  case overflow => exact fun hb hn => fifAperture_overflows hd hw hf hb hn
  case takes =>
    rintro base hb hn (⟨hle, rfl⟩ | ⟨hlt, rfl⟩)
    · rw [fifAperture_takes hd hw hf (.inr hn), fifTake_fits hf hb hle, fifAccept_eq hf]
      exact ⟨fun h => if_pos h, fun h => if_neg h⟩
    · rw [fifAperture_takes hd hw hf (.inr hn), fifTake_exceeds hf hb hlt,
        fifAccept_eq ((fifOpenFrame_fifDrop s k true).trans hf)]
      exact ⟨fun h => if_pos h, fun h => if_neg h⟩
  case bad =>
    rintro base hb (⟨hle, rfl⟩ | ⟨hlt, rfl⟩)
    · rw [fifAperture_takes hd hw hf (.inl hb), fifTake_bad hf hb, decide_eq_false (Nat.not_lt.mpr hle)]
      exact ⟨fun h => if_pos h, fun h => if_neg h⟩
    · rw [fifAperture_takes hd hw hf (.inl hb), fifTake_bad hf hb, decide_eq_true hlt]
      exact ⟨fun h => if_pos h, fun h => if_neg h⟩
  case idle => exact (pullRequest_open hf).trans (if_pos h)
  case asks =>
    exact (pullRequest_open hf).trans (if_neg (not_or.mpr ⟨not_not.mpr hsrc, not_or.mpr ⟨ne_true_of_eq_false hb,
      not_or.mpr ⟨hn, Nat.not_lt.mpr hfree⟩⟩⟩))
  case gone => exact ⟨pullComplete_bad hf hp hd hb, pullComplete_bad hf hp hd hb none⟩
  case answered =>
    exact ⟨fun d h => pullComplete_arrives hf hp hd hb h, fun d h => pullComplete_fails hf hp hd hb (.inl h),
      pullComplete_fails hf hp hd hb (.inr rfl), pullComplete_fails hf hp hd hb (.inr rfl)⟩

end Sys2Proof.Machine
end

section
/-! The states of a relay port, and the flits of a link that do their work on the port alone (R450, R454, R455, R458 to R460, R475). -/

namespace Sys2Proof.Machine
open Sys2Proof Sys2Proof.Machine.Reg

/-! ### Flits that arrive (R454, R458) -/

theorem flitSound_iff (w : Nat) : flitSound w = true ↔ crc32 (natToBytes 252 w) = bits w 2016 32 := decide_eq_true_iff

/-- A flit that an injection spoils is lost, one whose CRC fails is discarded, and any other is taken in the state as it stands. -/
theorem arrives_cases (s : State) (p w : Nat) (good : State → State) :
    ((injected s 0x12 p).1 = true → arrives s p w good = flitLost (injected s 0x12 p).2 p) ∧
    ((injected s 0x12 p).1 = false → ¬ crc32 (natToBytes 252 w) = bits w 2016 32 → arrives s p w good = flitDropped s p) ∧
    ((injected s 0x12 p).1 = false → crc32 (natToBytes 252 w) = bits w 2016 32 → arrives s p w good = good s) := by
  simp only [← flitSound_iff]
  refine ⟨fun hi => if_pos hi, fun hi hc => ?_, fun hi hc => ?_⟩
  · simp only [arrives, hi, injected_silent hi, hc, Bool.false_eq_true, if_false, Bool.not_eq_true', if_true]
  · simp only [arrives, hi, injected_silent hi, hc, Bool.false_eq_true, if_false, Bool.not_true]

/-! ### States and training (R459, R460) -/

/-- Words of other blocks and of the module stand apart from the state of a port. -/
theorem trainFlitOut_setPortState (s : State) {p : Nat} (hp : p < 8) (n : Nat) :
    trainFlitOut (setPortState s p n) p = trainFlitOut s p := by
  have hid : rlyBase + RLY_ID_DEVNUM.off ≠ rlyPort p + RLY_P_STATUS_STATE.off := by
    unfold rlyPort
    generalize rlyBase = b
    simp only [RLY_ID_DEVNUM, RLY_P_STATUS_STATE]
    omega
  have hstatus : hubWin + MBX_STATUS_HEAD.off ≠ rlyPort p + RLY_P_STATUS_STATE.off := by
    unfold rlyPort rlyBase
    generalize hubWin = b
    simp only [MBX_STATUS_HEAD, RLY_P_STATUS_STATE]
    omega
  have hdev : myDev (setPortState s p n) = myDev s := State.getF_setF_apart s _ _ _ RLY_ID_DEVNUM n (by decide) (.inl hid)
  have hheadF : (setPortState s p n).getF hubWin MBX_STATUS_HEAD = s.getF hubWin MBX_STATUS_HEAD :=
    State.getF_setF_apart s _ _ _ MBX_STATUS_HEAD n (by decide) (.inl hstatus)
  have hhead : isHead (setPortState s p n) = isHead s := by simp only [isHead, hheadF]
  have hstep : stepByte (setPortState s p n) = stepByte s := rfl
  simp only [trainFlitOut, mkFlit, hdev, hhead, hstep]

theorem portStep_from {s : State} {p a : Nat} (h : portState s p = a) (b : Nat) : portStep s p a b = setPortState s p b :=
  if_pos (.inl h)

/-- An event of another state changes nothing. -/
theorem portStep_other {s : State} {p a : Nat} (h : portState s p ≠ a) (ha : a ≠ 1) (b : Nat) : portStep s p a b = s :=
  if_neg (not_or.mpr ⟨h, fun hx => ha hx.1⟩)

/-- A signal is detected in DETECT, and in DOWN on a port that is enabled (log 138). -/
theorem portStep_detect (s : State) (p b : Nat) :
    portStep s p 1 b =
      if portState s p = 1 ∨ (portState s p = 0 ∧ s.getF (rlyPort p) RLY_P_CTRL_EN = 1) then setPortState s p b else s := by
  simp only [portStep, true_and]

theorem lockDone_locked {s : State} {p : Nat} (hp : p < 8) (h : portState s p = 3) :
    lockDone s p = emitFlit (setPortState s p 4) p (trainFlitOut (setPortState s p 4) p) := by
  rw [trainFlitOut_setPortState s hp]
  exact if_pos h

theorem lockDone_other {s : State} {p : Nat} (h : portState s p ≠ 3) : lockDone s p = s := if_neg h

/-- A port that leaves a state other than UP leaves nothing behind. -/
theorem portLeaves_other {s : State} {p : Nat} (h : portState s p ≠ 5) (n : Nat) :
    portLeaves s p n = (setPortState s p n).setF (rlyPort p) RLY_P_STATUS_PEER 0x3F := if_pos h

/-- A port that leaves UP is counted and logged, and what needed it is broken (R475). -/
theorem portLeaves_up {s : State} {p : Nat} (h : portState s p = 5) (n : Nat) :
    portLeaves s p n =
      let u := (setPortState s p n).setF (rlyPort p) RLY_P_STATUS_PEER 0x3F
      let v := (u.setPort p PortSt.reset).addF (rlyPort p) RLY_P_DOWNS_COUNT 1
      (u.port p).sendq.foldl deadFlit (brokenPaths (logEvent v 0x800C 0xFF 0xFF (myDev v) p 0 0)) := if_neg (not_not.mpr h)

theorem portRetrain_down {s : State} {p : Nat} (h : portState s p < 2) : portRetrain s p = s := if_pos h

theorem portRetrain_leaves {s : State} {p : Nat} (h : 2 ≤ portState s p) : portRetrain s p = portLeaves s p 1 :=
  if_neg (Nat.not_lt.mpr h)

/-! ### TRAIN flits (R460) -/

/-- What a peer's TRAIN flit tells of it. -/
def trainNote (s : State) (p : Nat) (f : Flit) : State :=
  (s.setF (rlyPort p) RLY_P_STATUS_PEER (bits (leAt f.args 0 1) 0 6)).setF (rlyPort p) RLY_P_STATUS_PEERPORT (leAt f.args 1 1)

/-- The ends agree and the port is UP, or both are heads and it stays in ID. -/
def trainTaken (s : State) (p : Nat) (f : Flit) : State :=
  if portState s p = 5 then trainNote s p f
  else if (bit (leAt f.args 2 1) 0 && isHead s) = true then
    if s.getF (rlyPort p) RLY_P_STATUS_PEER = bits (leAt f.args 0 1) 0 6 then trainNote s p f
    else logEvent (trainNote s p f) 0x800C 0xFF 0xFF (myDev s) p 0 0
  else (setPortState (trainNote s p f) p 5).setPort p PortSt.reset

theorem trainFlit_other {s : State} {p w : Nat}
    (h : (parseFlit w).kind ≠ 1 ∨ flitReserved w = true ∨ portState s p < 4) : trainFlit s p w = s := if_pos h

theorem trainFlit_arrives {s : State} {p w : Nat} (hk : (parseFlit w).kind = 1) (hr : flitReserved w = false)
    (hst : 4 ≤ portState s p) : trainFlit s p w = arrives s p w (fun t => trainTaken t p (parseFlit w)) :=
  if_neg (by simp [hk, hr, hst])

/-! ### The obligation's first part -/

theorem exec_rlyPortEnable (p : Fin 8) (s : State) : exec (.rlyPortEnable p) s = live s (portEnable s p) := rfl
theorem exec_rlyPortDisable (p : Fin 8) (s : State) :
    exec (.rlyPortDisable p) s = live s (portLeaves (s.setF (rlyPort p) RLY_P_CTRL_EN 0) p 0) := rfl
theorem exec_rlyRetrain (p : Fin 8) (s : State) : exec (.rlyRetrain p) s = live s (portRetrain s p) := rfl
theorem exec_rlySignalDetect (p : Fin 8) (s : State) : exec (.rlySignalDetect p) s = live s (portStep s p 1 2) := rfl
theorem exec_rlyTrainingDone (p : Fin 8) (s : State) : exec (.rlyTrainingDone p) s = live s (portStep s p 2 3) := rfl
theorem exec_rlyTrainingTimeout (p : Fin 8) (s : State) : exec (.rlyTrainingTimeout p) s = live s (portStep s p 2 1) := rfl
theorem exec_rlyLockDone (p : Fin 8) (s : State) : exec (.rlyLockDone p) s = live s (lockDone s p) := rfl
theorem exec_rlyLockTimeout (p : Fin 8) (s : State) : exec (.rlyLockTimeout p) s = live s (portStep s p 3 1) := rfl
theorem exec_trainFlit (p : Fin 8) (w : BitVec 2048) (ce : BitVec 4) (s : State) :
    exec (.trainFlit p w ce) s = live s (trainFlit (s.addF (rlyPort p) RLY_P_FEC_CE_COUNT ce.toNat) p w.toNat) := rfl

/-- The states of a relay port, event by event. -/
theorem portStates : Spec.PortStates := by
  intro s p hs
  simp only [exec_rlyPortEnable, exec_rlyPortDisable, exec_rlyRetrain, exec_rlySignalDetect, exec_rlyTrainingDone,
    exec_rlyTrainingTimeout, exec_rlyLockDone, exec_rlyLockTimeout, exec_trainFlit, live_of_functional hs,
    Host.Outcome.next.injEq]
  refine ⟨⟨fun h => if_pos h, fun h => if_neg h⟩, fun h => (portStep_detect s p 2).trans (if_pos h),
    fun h => (portStep_detect s p 2).trans (if_neg h), fun h => ⟨portStep_from h 3, portStep_from h 1⟩,
    fun h => ⟨portStep_from h 1, lockDone_locked p.isLt h⟩,
    fun h => ⟨portStep_other h (by decide) 3, portStep_other h (by decide) 1⟩,
    fun h => ⟨lockDone_other h, portStep_other h (by decide) 1⟩, fun w ce => ⟨trainFlit_other, fun hk hr hst => ?train⟩,
    ⟨fun h => portLeaves_other h 0, fun h => portLeaves_up h 0⟩, portRetrain_down,
    fun h => ⟨fun h5 => (portRetrain_leaves h).trans (portLeaves_other h5 1),
      fun h5 => (portRetrain_leaves h).trans (portLeaves_up h5 1)⟩⟩
  case train =>
    obtain ⟨hlost, hdrop, hgood⟩ := arrives_cases (s.addF (rlyPort p) RLY_P_FEC_CE_COUNT ce.toNat) p w.toNat
      (fun t => trainTaken t p (parseFlit w.toNat))
    rw [trainFlit_arrives hk hr hst]
    refine ⟨hlost, fun hi => ⟨hdrop hi, fun hc => ?_⟩⟩
    rw [hgood hi hc]
    exact ⟨fun h5 => if_pos h5, fun h5 hh => (if_neg h5).trans (if_neg (ne_true_of_eq_false hh)),
      fun h5 hh => ⟨fun he => (if_neg h5).trans ((if_pos hh).trans (if_pos he)),
        fun he => (if_neg h5).trans ((if_pos hh).trans (if_neg he))⟩⟩

end Sys2Proof.Machine
end

section
/-! The other events of a relay port: replays, SYNC and credit returns, IDLE, reserved and FHDR flits, and flits that waited
(R341, R414, R450, R454 to R458, R469, R470, R474). -/

namespace Sys2Proof.Machine
open Sys2Proof Sys2Proof.Machine.Reg

/-! ### Replays and timers (R456, R458, R474) -/

/-- The flits not acknowledged, each counted once more. -/
def replayList (s : State) (p : Nat) : List (Flit × Nat) := (s.port p).unacked.map (fun u => (u.1, u.2 + 1))

/-- Every flit not acknowledged sent again with the credits it carried. -/
def replayed (s : State) (p : Nat) : State :=
  (replayList s p).foldl (fun t u => emitFlit t p { u.1 with ack := (s.port p).rx, nak := (s.port p).nak })
    ((s.setPort p { s.port p with unacked := replayList s p, ackT := now s }).addF (rlyPort p) RLY_P_REPLAY_COUNT
      (replayList s p).length)

theorem replay_eq {s : State} {p : Nat} (h : (s.port p).unacked ≠ []) :
    replay s p = if ∃ u ∈ replayList s p, 8 ≤ u.2 then portLeaves (replayed s p) p 1 else replayed s p := by
  have hany : ((replayList s p).any (fun u => decide (8 ≤ u.2)) = true) = ∃ u ∈ replayList s p, 8 ≤ u.2 := by
    simp only [List.any_eq_true, decide_eq_true_eq]
  unfold replay
  dsimp only
  rw [if_neg (by simpa using h)]
  exact if_congr (Iff.of_eq hany) rfl rfl

theorem replayTimeout_down {s : State} {p : Nat} (h : portState s p ≠ 5) : replayTimeout s p = s := if_pos (.inl h)

/-- Nothing is replayed while nothing waits for its acknowledgement, or not for 1 µs yet. -/
theorem replayTimeout_early {s : State} {p : Nat} (h : ¬ ((s.port p).unacked ≠ [] ∧ (s.port p).ackT + 1000 ≤ now s)) :
    replayTimeout s p = s := by
  unfold replayTimeout
  split
  · rfl
  · next hn =>
    have hempty : (s.port p).unacked = [] := not_not.mp fun hx => h ⟨hx, Nat.not_lt.mp (not_or.mp hn).2⟩
    simp [replay, hempty]

theorem replayTimeout_due {s : State} {p : Nat} (h5 : portState s p = 5) (ht : (s.port p).ackT + 1000 ≤ now s) :
    replayTimeout s p = replay s p := if_neg (not_or.mpr ⟨not_not.mpr h5, Nat.not_lt.mpr ht⟩)

theorem syncTimer_down {s : State} {p : Nat} (h : portState s p ≠ 5) : syncTimer s p = s := if_pos h

theorem syncTimer_up {s : State} {p : Nat} (h : portState s p = 5) :
    syncTimer s p = portDrain (s.setPort p { s.port p with sendq := (s.port p).sendq ++
      [mkFlit s 2 (s.getF (rlyPort p) RLY_P_STATUS_PEER) 0
        (natToBytes 8 (now s) ++ natToBytes 8 (s.port p).sync.1 ++ natToBytes 8 (s.port p).sync.2) [0]] }) p :=
  if_neg (not_not.mpr h)

theorem creditReturn_nothing {s : State} {p : Nat} (h : portState s p ≠ 5 ∨ (s.port p).ret.all (fun r => r = 0) = true) :
    creditReturn s p = s := if_pos h

theorem creditReturn_sends {s : State} {p : Nat} (h5 : portState s p = 5)
    (hr : (s.port p).ret.all (fun r => r = 0) = false) :
    creditReturn s p = portXmit s p (mkFlit s 0 (s.getF (rlyPort p) RLY_P_STATUS_PEER) 0 [] [0]) :=
  if_neg (not_or.mpr ⟨not_not.mpr h5, ne_true_of_eq_false hr⟩)

/-! ### IDLE and reserved flits (R455, R456) -/

theorem idleFlit_other {s : State} {p w : Nat}
    (h : (parseFlit w).kind ≠ 0 ∨ portState s p ≠ 5 ∨ flitReserved w = true) : idleFlit s p w = s := if_pos h

theorem idleFlit_arrives {s : State} {p w : Nat} (hk : (parseFlit w).kind = 0) (h5 : portState s p = 5)
    (hr : flitReserved w = false) :
    idleFlit s p w = arrives s p w (fun t => linkPart (takeCredits t p (parseFlit w)) p (parseFlit w)) :=
  if_neg (by simp [hk, h5, hr])

theorem inOrder_next {s : State} {p : Fin 8} {f : Flit} (h : f.fseq = ((s.port p).rx + 1) % 65536) :
    inOrder s p f = some (Spec.taken s p f) := if_pos h

theorem inOrder_gap {s : State} {p : Nat} {f : Flit} (h : f.fseq ≠ ((s.port p).rx + 1) % 65536) : inOrder s p f = none :=
  if_neg h

/-- A reserved flit whose link part is taken: counted with its credits, and a numbered one in order with its buffer. -/
def reservedTaken (u : State) (p : Fin 8) (f : Flit) : State :=
  if f.kind < 2 then (takeCredits u p f).addF (rlyPort p) RLY_P_PROTO_COUNT 1
  else if f.fseq = ((u.port p).rx + 1) % 65536 then
    (freeBuffer (Spec.taken u p f) p f.vc).addF (rlyPort p) RLY_P_PROTO_COUNT 1
  else outOfOrder u p f

theorem reservedFlit_other {s : State} {p w : Nat} (h : portState s p < 4 ∨ flitReserved w = false) :
    reservedFlit s p w = s := if_pos (h.imp_right (by simp))

theorem reservedFlit_arrives {s : State} {p : Fin 8} {w : Nat} (hst : 4 ≤ portState s p) (hr : flitReserved w = true) :
    reservedFlit s p w = arrives s p w (fun t => reservedTaken (linkPart t p (parseFlit w)) p (parseFlit w)) := by
  refine (if_neg (by simp [hr, hst])).trans (congrArg (arrives s p w) (funext fun t => ?_))
  unfold reservedTaken
  by_cases hn : (parseFlit w).fseq = (((linkPart t p (parseFlit w)).port p).rx + 1) % 65536
  · simp only [inOrder_next hn, if_pos hn]
  · simp only [inOrder_gap hn, if_neg hn]

/-! ### A sequenced flit that is taken at once (R456, R458) -/

/-- A sound flit, next in order, for this module and with nothing to wait for, does its work, and its buffer's credit returns. -/
theorem receive_here {s : State} {p : Fin 8} {w kind : Nat} {waits : State → Flit → Bool} (here : State → Flit → State)
    (hk : (parseFlit w).kind = kind) (hr : flitReserved w = false) (h5 : portState s p = 5)
    (hi : (injected s 0x12 p).1 = false) (hc : crc32 (natToBytes 252 w) = bits w 2016 32)
    (hu : portState (linkPart s p (parseFlit w)) p = 5)
    (hn : (parseFlit w).fseq = (((linkPart s p (parseFlit w)).port p).rx + 1) % 65536)
    (hdst : (parseFlit w).dst = myDev (Spec.taken (linkPart s p (parseFlit w)) p (parseFlit w)))
    (hw : waits (Spec.taken (linkPart s p (parseFlit w)) p (parseFlit w)) (parseFlit w) = false) :
    receive s p w kind waits here =
      freeBuffer (here (Spec.taken (linkPart s p (parseFlit w)) p (parseFlit w)) (parseFlit w)) p (parseFlit w).vc := by
  have hgo : receive s p w kind waits here = arrives s p w _ := if_neg (by simp [hk, h5, hr])
  rw [hgo, (arrives_cases s p w _).2.2 hi hc]
  simp only [hu, ne_eq, not_true_eq_false, if_false, inOrder_next hn, ← hdst, false_and, hw, Bool.false_eq_true, or_self]

/-! ### Frame headers (R341, R414, R469, R470) -/

theorem streamWaits_header {v : State} {p : Fin 8} {f : Flit} (hk : f.kind = 0x30) :
    streamWaits p v f = true ↔ Spec.streamWaits v p f := by
  simp only [streamWaits, hk, Spec.streamWaits, sameStream]
  simp

/-- A header for a slot that takes no relay frames, or that is being closed, is logged and dropped (log 141). -/
theorem fhdrHere_dropped {s : State} {f : Flit}
    (h : ¬ (relaySlot s (leAt f.args 0 1 % 128) = true ∧ (s.stream (leAt f.args 0 1 % 128)).closing = 0)) :
    fhdrHere s f = logEvent s 0x800B 0xFF 0xFF (leAt f.args 0 1 % 128) f.src 0 0 :=
  if_pos (by simpa using not_and_or.mp h)

/-- The rules of Table 11.14 for the descriptor of a relay frame: those of the host address do not apply. -/
theorem descOk_relay {s : State} {k : Nat} (h : relaySlot s k = true) (d : Bytes) :
    descOk s k d = true ↔ 1 ≤ fdINLEN d ∧ fdINLEN d ≤ 67108864 ∧ fdINLEN d % fifElem s k = 0 ∧ fdOUTADDR d % 64 = 0 ∧
      fdOUTLEN d % 64 = 0 := by
  have hsrc : fifSrc s k = 2 := by
    simp only [relaySlot, Bool.and_eq_true, decide_eq_true_eq] at h
    exact h.2
  simp [descOk, hsrc, and_assoc]

/-- A header at a slot that takes relay frames is judged as a descriptor: it opens a frame, or its result says that none ran. -/
theorem fhdrHere_judged {s : State} {f : Flit} (hr : relaySlot s (leAt f.args 0 1 % 128) = true)
    (hc : (s.stream (leAt f.args 0 1 % 128)).closing = 0) :
    fhdrHere s f =
      let k := leAt f.args 0 1 % 128
      let d := relayDesc f.args
      if descOk s k d = true then
        fifGrant (fifOpen s k { newFFrame d 0 (fdINLEN d) with
          src := some f.src, upFlags := leAt f.args 2 2, trel := leAt f.args 40 8 }) k
      else afterNotrun s (writeResult (publishBefore s k) k (fdUSER d) 0xFFFFFFFF 0 ((2 ^ fNOTRUN) ||| leAt f.args 2 2) 0 false) k :=
  if_neg (by simp [hr, hc])

/-! ### Flits that waited (R456, R475) -/

theorem streamHere_eq (s : State) (f : Flit) :
    streamHere s f = if f.kind = 0x30 then fhdrHere s f else if f.kind = 0x31 then fdataHere s f else fendHere s f := by
  unfold streamHere
  split
  · next h => rw [if_pos h]
  · next h => rw [if_neg (by simp [h]), if_pos h]
  · next h1 h2 => rw [if_neg h1, if_neg h2]

theorem flitForward_takes {s : State} {p vc : Nat} {f : Flit} (h : takeable s p vc = some f) :
    flitForward s p vc = unbuffer (streamHere s f) p f := by
  simp only [flitForward, h]

section
variable {s : State} {p vc : Nat} (h : takeable s p vc = none)
include h

theorem flitForward_nothing (hf : (s.port p).bufs.find? (fun f => f.vc = vc && f.dst ≠ myDev s) = none) :
    flitForward s p vc = s := by
  simp only [flitForward, h, hf]

/-- A buffered flit for another module is broken, goes on, or waits. -/
theorem flitForward_first {f : Flit} (hf : (s.port p).bufs.find? (fun f => f.vc = vc && f.dst ≠ myDev s) = some f) :
    flitForward s p vc =
      if 8 ≤ routeTo s f.dst ∨ portUp s (routeTo s f.dst) = false then deadFlit (unbuffer s p f) f
      else if portMay s (routeTo s f.dst) f = true ∧ ∀ g ∈ (s.port (routeTo s f.dst)).sendq, g.vc ≠ f.vc then
        portXmit (unbuffer s p f) (routeTo s f.dst) f
      else s := by
  simp only [flitForward, h, hf, Bool.not_eq_true', Bool.and_eq_true, List.all_eq_true, decide_eq_true_eq]

end

/-! ### The obligation -/

theorem exec_flitCorrupt (p : Fin 8) (ue : Bool) (s : State) : exec (.flitCorrupt p ue) s =
    live s (if 4 ≤ portState s p then (if ue then flitLost s p else flitDropped s p) else s) := rfl
theorem exec_replayTimeout (p : Fin 8) (s : State) : exec (.replayTimeout p) s = live s (replayTimeout s p) := rfl
theorem exec_syncTimer (p : Fin 8) (s : State) : exec (.syncTimer p) s = live s (syncTimer s p) := rfl
theorem exec_creditReturn (p : Fin 8) (s : State) : exec (.creditReturn p) s = live s (creditReturn s p) := rfl
theorem exec_flitForward (p : Fin 8) (vc : Fin 4) (s : State) : exec (.flitForward p vc) s = live s (flitForward s p vc) := rfl
theorem exec_idleFlit (p : Fin 8) (w : BitVec 2048) (ce : BitVec 4) (s : State) :
    exec (.idleFlit p w ce) s = live s (idleFlit (s.addF (rlyPort p) RLY_P_FEC_CE_COUNT ce.toNat) p w.toNat) := rfl
theorem exec_reservedFlit (p : Fin 8) (w : BitVec 2048) (ce : BitVec 4) (s : State) :
    exec (.reservedFlit p w ce) s = live s (reservedFlit (s.addF (rlyPort p) RLY_P_FEC_CE_COUNT ce.toNat) p w.toNat) := rfl
theorem exec_fhdrFlit (p : Fin 8) (w : BitVec 2048) (ce : BitVec 4) (s : State) :
    exec (.fhdrFlit p w ce) s =
      live s (receive (s.addF (rlyPort p) RLY_P_FEC_CE_COUNT ce.toNat) p w.toNat 0x30 (streamWaits p) fhdrHere) := rfl

/-- The other events of a relay port, event by event. -/
theorem portEvents : Spec.PortEvents := by
  intro s p hs
  simp only [exec_flitCorrupt, exec_replayTimeout, exec_syncTimer, exec_creditReturn, exec_flitForward, exec_idleFlit,
    exec_reservedFlit, exec_fhdrFlit, live_of_functional hs, Host.Outcome.next.injEq]
  refine ⟨fun h ue => if_neg (Nat.not_le.mpr h), fun h => ⟨if_pos h, if_pos h⟩,
    fun h => ⟨replayTimeout_down h, syncTimer_down h, creditReturn_nothing (.inl h)⟩, fun h5 => ?timers,
    fun w ce => ⟨idleFlit_other, fun hk h5 hr => ?idle, reservedFlit_other, fun hst hr => ?reserved, ?header⟩,
    fun vc => ⟨fun f hf => ?taken, fun hf => ⟨flitForward_nothing hf, fun f hfirst => ?first⟩⟩⟩
  case timers =>
    refine ⟨replayTimeout_early, fun hdue hl => ?_, fun hdue hl => ?_, syncTimer_up h5, fun hr => creditReturn_nothing (.inr hr),
      creditReturn_sends h5⟩
    · rw [replayTimeout_due h5 hdue.2, replay_eq hdue.1]
      exact if_neg fun ⟨u, hu, h8⟩ => Nat.not_lt.mpr h8 (hl u hu)
    · rw [replayTimeout_due h5 hdue.2, replay_eq hdue.1]
      exact if_pos hl
  case idle =>
    rw [idleFlit_arrives hk h5 hr]
    exact arrives_cases _ _ _ _
  case reserved =>
    obtain ⟨hlost, hdrop, hgood⟩ := arrives_cases (s.addF (rlyPort p) RLY_P_FEC_CE_COUNT ce.toNat) p w.toNat
      (fun t => reservedTaken (linkPart t p (parseFlit w.toNat)) p (parseFlit w.toNat))
    rw [reservedFlit_arrives hst hr]
    refine ⟨hlost, hdrop, fun hi hc => ?_⟩
    rw [hgood hi hc]
    exact ⟨fun hk => if_pos hk, fun hk hn => (if_neg (Nat.not_lt.mpr hk)).trans (if_pos hn),
      fun hk hn => (if_neg (Nat.not_lt.mpr hk)).trans (if_neg hn)⟩
  case header =>
    intro hk hr h5 hi hc hu hn hdst hw
    have hw' : streamWaits p _ _ = false := Bool.eq_false_iff.mpr (fun hx => hw ((streamWaits_header hk).mp hx))
    rw [receive_here fhdrHere hk hr h5 hi hc hu hn hdst hw']
    exact ⟨fun ht => by rw [fhdrHere_dropped ht],
      fun ht hg => congrArg (freeBuffer · p _) ((fhdrHere_judged ht.1 ht.2).trans (if_pos ((descOk_relay ht.1 _).mpr hg))),
      fun ht hg => congrArg (freeBuffer · p _) ((fhdrHere_judged ht.1 ht.2).trans (if_neg (hg ∘ (descOk_relay ht.1 _).mp)))⟩
  case taken =>
    rw [flitForward_takes hf, streamHere_eq]
    rfl
  case first =>
    rw [flitForward_first hf hfirst]
    refine ⟨fun hd => if_pos hd, fun hq hup hm => ?_, fun hq hup hm => ?_⟩
    all_goals rw [if_neg (not_or.mpr ⟨Nat.not_le.mpr hq, ne_false_of_eq_true hup⟩)]
    · exact if_pos hm
    · exact if_neg hm

/-- Settles O51: the states of a port, and its other events. -/
theorem relayPorts : Obligations.RelayPorts := ⟨portStates, portEvents⟩

end Sys2Proof.Machine
end

section
/-! The mailbox rings (R401 to R403): enabled and disabled, indexed by the host, and a command taken from the ring. -/

namespace Sys2Proof.Machine
open Sys2Proof Sys2Proof.Machine.Reg

theorem exec_crEnable (size : BitVec 4) (s : State) : exec (.crEnable size) s = live s (crEnable s size.toNat) := rfl
theorem exec_ccEnable (size : BitVec 4) (s : State) : exec (.ccEnable size) s = live s (ccEnable s size.toNat) := rfl
theorem exec_crDisable (size : BitVec 4) (s : State) : exec (.crDisable size) s = live s (crDisable s size.toNat) := rfl
theorem exec_ccDisable (size : BitVec 4) (s : State) : exec (.ccDisable size) s = live s (ccDisable s size.toNat) := rfl
theorem exec_crTailWrite (v : BitVec 32) (s : State) : exec (.crTailWrite v) s = live s (crTailWrite s v.toNat) := rfl
theorem exec_ccHeadWrite (v : BitVec 32) (s : State) : exec (.ccHeadWrite v) s = live s (ccHeadWrite s v.toNat) := rfl
theorem exec_commandTake (got : Option (BitVec 512)) (s : State) :
    exec (.commandTake got) s = live s (commandTake s (got.map (fun b => natToBytes 64 b.toNat))) := rfl

/-! ### Enabling -/

theorem crOn_iff {s : State} : crOn s = true ↔ s.getF hubWin MBX_CR_CFG_EN = 1 := decide_eq_true_iff
theorem ccOn_iff {s : State} : ccOn s = true ↔ s.getF hubWin MBX_CC_CFG_EN = 1 := decide_eq_true_iff

/-- A ring is enabled by its EN bit alone. -/
theorem crOn_congr {s t : State} (h : t.getF hubWin MBX_CR_CFG_EN = s.getF hubWin MBX_CR_CFG_EN) : crOn t = crOn s := by
  simp only [crOn, h]

theorem ccOn_congr {s t : State} (h : t.getF hubWin MBX_CC_CFG_EN = s.getF hubWin MBX_CC_CFG_EN) : ccOn t = ccOn s := by
  simp only [ccOn, h]

theorem ringGood_congr {s t : State} {base : Nat} (h : t.reg (hubWin + base) = s.reg (hubWin + base)) (size : Nat) :
    ringGood t base size = ringGood s base size := by
  simp only [ringGood, h]

/-- A command ring enabled with a SIZE: its indices are zero. -/
def crEnabled (s : State) (size : Nat) : State :=
  (((s.setF hubWin MBX_CR_CFG_SIZE size).setF hubWin MBX_CR_CFG_EN 1).setF hubWin MBX_CR_TAIL_INDEX 0).setF hubWin MBX_CR_HEAD_INDEX 0

/-- A completion ring enabled with a SIZE: its indices are zero, its phase is 1 and nothing in it is unread. -/
def ccEnabled (s : State) (size : Nat) : State :=
  { ((((s.setF hubWin MBX_CC_CFG_SIZE size).setF hubWin MBX_CC_CFG_EN 1).setF hubWin MBX_CC_HEAD_INDEX 0).setF hubWin
      MBX_CC_TAIL_INDEX 0).setF hubWin MBX_CC_TAIL_PHASE 1 with ccUnread := 0 }

theorem crEnable_eq {s : State} (hu : endpointUp s = true) (ho : crOn s = false) (size : Nat) :
    crEnable s size = if ringGood s 0x1000 size then crEnabled s size
      else (s.setF hubWin MBX_CR_CFG_SIZE size).setF hubWin MBX_STATUS_RING_ERR 1 := by
  have hgood : ringGood (s.setF hubWin MBX_CR_CFG_SIZE size) 0x1000 size = ringGood s 0x1000 size :=
    ringGood_congr (State.reg_setF_ne _ _ _ _ _ (by decide)) size
  simp only [crEnable, hu, ho, hgood, crEnabled]
  cases ringGood s 0x1000 size <;> rfl

theorem ccEnable_eq {s : State} (hu : endpointUp s = true) (ho : ccOn s = false) (size : Nat) :
    ccEnable s size = if ringGood s 0x1014 size then resetGo (ccFlush (ccEnabled s size))
      else (s.setF hubWin MBX_CC_CFG_SIZE size).setF hubWin MBX_STATUS_RING_ERR 1 := by
  have hgood : ringGood (s.setF hubWin MBX_CC_CFG_SIZE size) 0x1014 size = ringGood s 0x1014 size :=
    ringGood_congr (State.reg_setF_ne _ _ _ _ _ (by decide)) size
  simp only [ccEnable, hu, ho, hgood, ccEnabled]
  cases ringGood s 0x1014 size <;> rfl

theorem crEnabled_fields (s : State) (size : BitVec 4) :
    crOn (crEnabled s size.toNat) = true ∧ (crEnabled s size.toNat).getF hubWin MBX_CR_CFG_SIZE = size.toNat ∧
      (crEnabled s size.toNat).getF hubWin MBX_CR_HEAD_INDEX = 0 ∧
      (crEnabled s size.toNat).getF hubWin MBX_CR_TAIL_INDEX = 0 := by
  have hsize : size.toNat % 2 ^ MBX_CR_CFG_SIZE.width = size.toNat := Nat.mod_eq_of_lt size.isLt
  rw [crOn_iff]
  simp (disch := decide) only [crEnabled, State.getF_setF_apart, State.getF_setF_same, hsize]
  decide

theorem ccEnabled_fields (s : State) (size : BitVec 4) :
    ccOn (ccEnabled s size.toNat) = true ∧ (ccEnabled s size.toNat).getF hubWin MBX_CC_CFG_SIZE = size.toNat ∧
      (ccEnabled s size.toNat).getF hubWin MBX_CC_HEAD_INDEX = 0 ∧
      (ccEnabled s size.toNat).getF hubWin MBX_CC_TAIL_INDEX = 0 ∧
      (ccEnabled s size.toNat).getF hubWin MBX_CC_TAIL_PHASE = 1 := by
  have hsize : size.toNat % 2 ^ MBX_CC_CFG_SIZE.width = size.toNat := Nat.mod_eq_of_lt size.isLt
  have hregs {b : Nat} {f : Fld} : (ccEnabled s size.toNat).getF b f = _ :=
    State.getF_congr (t := ccEnabled s size.toNat) (s := ((((s.setF hubWin MBX_CC_CFG_SIZE size.toNat).setF hubWin MBX_CC_CFG_EN
      1).setF hubWin MBX_CC_HEAD_INDEX 0).setF hubWin MBX_CC_TAIL_INDEX 0).setF hubWin MBX_CC_TAIL_PHASE 1) rfl b f
  rw [ccOn_iff]
  simp (disch := decide) only [hregs, State.getF_setF_apart, State.getF_setF_same, hsize]
  decide

theorem ccEnabled_frame (s : State) (size : Nat) : ({ ccEnabled s size with regs := s.regs, ccUnread := s.ccUnread } : State) = s := by
  simp [ccEnabled]

/-! ### What waits for the completion ring -/

theorem ccFlush_none {s : State} (h : s.ccWait = []) : ccFlush s = s := by
  have hs : ({ s with ccWait := [] } : State) = s := by rw [← h]
  simp only [ccFlush, h, List.foldl_nil]
  exact hs

/-- No reset begins where no started command resets the device (R410). -/
theorem resetGo_none {s : State} (h : s.taken.any (fun c => c.started && resetsDevice c) = false) : resetGo s = s := by
  have hf : s.taken.findIdx? (fun c => c.started && resetsDevice c) = none := by
    simpa [List.findIdx?_eq_none_iff] using h
  simp only [resetGo, hf]

/-- What flits and host writes leave: every register word. -/
theorem portDrain_regs (s : State) (p : Nat) : (portDrain s p).regs = s.regs := by
  have h : ∀ (l : List Flit) (st : State × List Flit), (l.foldl (fun (st : State × List Flit) f =>
      if (st.2.all (fun g => g.vc ≠ f.vc)) && portMay st.1 p f then (portXmit st.1 p f, st.2) else (st.1, st.2 ++ [f])) st).1.regs =
        st.1.regs := by
    intro l
    induction l with
    | nil => exact fun _ => rfl
    | cons f l ih =>
      intro st
      rw [List.foldl_cons, ih]
      split <;> rfl
  exact h (s.port p).sendq (s, [])

theorem flitSend_regs (s : State) (f : Flit) : (flitSend s f).2.regs = s.regs := by
  unfold flitSend
  dsimp only
  split
  · rfl
  · exact portDrain_regs _ _

theorem hostWrite_regs (s : State) (addr : Nat) (data : Bytes) : (hostWrite s addr data).regs = s.regs := by
  have h : ∀ (l : List Bytes) (st : State × Nat), (l.foldl (fun (st : State × Nat) d =>
      ((flitSend st.1 (mkFlit st.1 0x21 0 1 (natToBytes 8 st.2) d)).2, st.2 + d.length)) st).1.regs = st.1.regs := by
    intro l
    induction l with
    | nil => exact fun _ => rfl
    | cons d l ih =>
      intro st
      rw [List.foldl_cons, ih]
      exact flitSend_regs _ _
  unfold hostWrite hostPut
  split
  · rfl
  · split
    · rfl
    · exact h _ _

/-- An interrupt sets at most its pending bit. -/
theorem raiseVector_reg (s : State) (v : Nat) {a : Nat} (h : a ≠ hubWin + 0x4800 + 4 * (v / 32)) :
    (raiseVector s v).reg a = s.reg a := by
  unfold raiseVector
  split
  · rfl
  · split
    · exact State.reg_congr (flitSend_regs _ _) a
    · split
      · exact State.reg_setReg_ne _ _ h
      · rfl

/-- Sending leaves the commands taken and the completion ring's own state. -/
theorem Sent.rings {s t : State} (h : Sent s t) :
    t.taken = s.taken ∧ t.ccWait = s.ccWait ∧ t.ccUnread = s.ccUnread ∧ t.ccStop = s.ccStop := by
  obtain ⟨_, _, _, _, _, _, _, rfl⟩ := h
  exact ⟨rfl, rfl, rfl, rfl⟩

/-- A completion written to the open ring: one more is unread, and of the words that enable the ring none changes. -/
theorem writeCompletion_open {s : State} (h : ccOpen s = true) (e : Bytes) (noirq : Bool) :
    (writeCompletion s e noirq).ccUnread = s.ccUnread + 1 ∧ (writeCompletion s e noirq).ccWait = s.ccWait ∧
      (writeCompletion s e noirq).taken = s.taken ∧ (writeCompletion s e noirq).ccStop = s.ccStop ∧
      ∀ a, a ∉ [hubWin + 0x1024, hubWin + 0x4800] → (writeCompletion s e noirq).reg a = s.reg a := by
  unfold writeCompletion
  rw [if_neg (by simp [h])]
  extract_lets t ph base u n v w
  obtain ⟨htaken, hwait, hunread, hstop⟩ := (hostWrite_sent s (base + 32 * t) (slice e 0 28 ++ natToBytes 4 (ph * 2 ^ 31))).rings
  have hw : w.taken = s.taken ∧ w.ccWait = s.ccWait ∧ w.ccUnread = s.ccUnread + 1 ∧ w.ccStop = s.ccStop :=
    ⟨htaken, hwait, congrArg (· + 1) hunread, hstop⟩
  have hregs : ∀ a, a ≠ hubWin + 0x1024 → w.reg a = s.reg a := fun a ha =>
    ((State.reg_setF_ne _ _ _ _ a ha).trans (State.reg_setF_ne _ _ _ _ a ha)).trans (State.reg_congr (hostWrite_regs _ _ _) a)
  clear_value w
  split
  · exact ⟨hw.2.2.1, hw.2.1, hw.1, hw.2.2.2, fun a ha => hregs a (by simp_all)⟩
  · obtain ⟨ht', hw', hu', hs'⟩ := (raiseVector_sent w 0).rings
    refine ⟨hu'.trans hw.2.2.1, hw'.trans hw.2.1, ht'.trans hw.1, hs'.trans hw.2.2.2, fun a ha => ?_⟩
    rw [raiseVector_reg w 0 (by simp_all), hregs a (by simp_all)]

/-- A ring is open as its EN bit and its stop say. -/
theorem ccOpen_congr {s t : State} (hr : t.reg (hubWin + 0x101C) = s.reg (hubWin + 0x101C)) (hs : t.ccStop = s.ccStop) :
    ccOpen t = ccOpen s := by
  have hg : t.getF hubWin MBX_CC_CFG_EN = s.getF hubWin MBX_CC_CFG_EN := congrArg (bits · _ _) hr
  simp only [ccOpen, hg, hs]

/-- Completions that waited, written to the open ring one after another. -/
theorem foldl_writeCompletion_open {s : State} (h : ccOpen s = true) (l : List (Bytes × Bool)) :
    let t := l.foldl (fun t e => writeCompletion t e.1 e.2) s
    t.ccUnread = s.ccUnread + l.length ∧ t.ccWait = s.ccWait ∧ t.taken = s.taken ∧
      t.reg (hubWin + 0x101C) = s.reg (hubWin + 0x101C) := by
  induction l generalizing s with
  | nil => exact ⟨rfl, rfl, rfl, rfl⟩
  | cons e l ih =>
    obtain ⟨hunread, hwait, htaken, hstop, hregs⟩ := writeCompletion_open h e.1 e.2
    have hcfg := hregs (hubWin + 0x101C) (by decide)
    obtain ⟨iunread, iwait, itaken, icfg⟩ := ih ((ccOpen_congr hcfg hstop).trans h)
    refine ⟨?_, iwait.trans hwait, itaken.trans htaken, icfg.trans hcfg⟩
    rw [List.foldl_cons, iunread, hunread, List.length_cons]
    omega

/-- CC_ENABLE on a ring that is not stopped writes every completion that waited (R403). -/
theorem ccFlush_open {s : State} (h : ccOpen s = true) :
    (ccFlush s).ccUnread = s.ccUnread + s.ccWait.length ∧ (ccFlush s).ccWait = [] ∧ (ccFlush s).taken = s.taken ∧
      ccOn (ccFlush s) = ccOn s := by
  obtain ⟨hunread, hwait, htaken, hcfg⟩ := foldl_writeCompletion_open (s := { s with ccWait := [] }) h s.ccWait
  exact ⟨hunread, hwait, htaken, ccOn_congr (congrArg (bits · _ _) hcfg)⟩

/-- The completions that waited are written, none waits. -/
theorem waitingCompletionsWritten : Spec.WaitingCompletionsWritten := by
  intro size s hs hu ho hgood hstop hquiet
  have hon := (ccEnabled_fields s size).1
  have hopen : ccOpen (ccEnabled s size.toNat) = true := by
    have hstop' : (ccEnabled s size.toNat).ccStop = false := hstop
    simp [ccOpen, hstop', ccOn_iff.mp hon]
  obtain ⟨hunread, hwait, htaken, hflush⟩ := ccFlush_open hopen
  have hgo : resetGo (ccFlush (ccEnabled s size.toNat)) = ccFlush (ccEnabled s size.toNat) :=
    resetGo_none (by rw [htaken]; exact hquiet)
  refine ⟨ccFlush (ccEnabled s size.toNat), ?_, hwait, hflush.trans hon, ?_⟩
  · rw [exec_ccEnable, live_of_functional hs, ccEnable_eq hu ho, if_pos hgood, hgo]
  · exact hunread.trans (Nat.zero_add _)

/-! ### Disabling -/

/-- A ring that stays enabled keeps what stopped it (R403). -/
theorem ringsOff_eq {s : State} {cr cc : Bool} (hcr : crOn s = cr) (hcc : ccOn s = cc) :
    ringsOff s = { s with crStop := (cr || cc) && s.crStop, ccStop := (cr || cc) && s.ccStop } := by
  subst hcr hcc
  unfold ringsOff
  cases crOn s || ccOn s <;> rfl

/-- The EN bit of one ring cleared: that ring is disabled, and the other is as it was. -/
theorem rings_disabled (s : State) :
    crOn (s.setF hubWin MBX_CR_CFG_EN 0) = false ∧ ccOn (s.setF hubWin MBX_CR_CFG_EN 0) = ccOn s ∧
      ccOn (s.setF hubWin MBX_CC_CFG_EN 0) = false ∧ crOn (s.setF hubWin MBX_CC_CFG_EN 0) = crOn s := by
  simp (disch := decide) only [crOn, ccOn, State.getF_setF_apart, State.getF_setF_same]
  decide +revert

/-- The command ring disabled: a stop stays with the completion ring while that one is enabled (R403). -/
def crDisabled (s : State) : State :=
  { s.setF hubWin MBX_CR_CFG_EN 0 with crStop := false, ccStop := ccOn s && s.ccStop }

/-- The completion ring disabled: nothing in it is unread, and a stop stays with the command ring while that one is enabled (R403). -/
def ccDisabled (s : State) : State :=
  { s.setF hubWin MBX_CC_CFG_EN 0 with ccStop := false, ccUnread := 0, crStop := crOn s && s.crStop }

theorem crDisable_eq {s : State} (hu : endpointUp s = true) (ho : crOn s = true) (size : Nat) :
    crDisable s size = crDisabled s := by
  obtain ⟨hcr, hcc, -, -⟩ := rings_disabled s
  simp only [crDisable, hu, ho, Bool.not_true, Bool.false_eq_true, if_false, if_true]
  refine (ringsOff_eq (s := { s.setF hubWin MBX_CR_CFG_EN 0 with crStop := false }) hcr hcc).trans ?_
  rw [Bool.false_or, Bool.and_false]
  rfl

theorem ccDisable_eq {s : State} (hu : endpointUp s = true) (ho : ccOn s = true) (size : Nat) :
    ccDisable s size = ccDisabled s := by
  obtain ⟨-, -, hcc, hcr⟩ := rings_disabled s
  simp only [ccDisable, hu, ho, Bool.not_true, Bool.false_eq_true, if_false, if_true]
  refine (ringsOff_eq (s := { s.setF hubWin MBX_CC_CFG_EN 0 with ccStop := false, ccUnread := 0 }) hcr hcc).trans ?_
  rw [Bool.or_false, Bool.and_false]
  rfl

/-- Settles O1: each ring enabled and disabled. -/
theorem ringsEnabledAndDisabled : Obligations.RingsEnabledAndDisabled := by
  refine ⟨fun size s hs hu ho => ⟨fun hg => ?crGood, fun hg => ?crBad⟩, fun size s hs hu ho => ⟨fun hg hw hq => ?ccGood, fun hg => ?ccBad⟩,
    fun size s hs hu ho => ?crOff, fun size s hs hu ho => ?ccOff⟩
  case crGood =>
    obtain ⟨hon, hsize, hhead, htail⟩ := crEnabled_fields s size
    refine ⟨crEnabled s size.toNat, ?_, hon, hsize, hhead, htail, ?_⟩
    · rw [exec_crEnable, live_of_functional hs, crEnable_eq hu ho, if_pos hg]
    · exact ((((OnlyRegs.refl s _).setF _ (by decide)).setF _ (by decide)).setF _ (by decide)).setF _ (by decide)
  case crBad =>
    refine ⟨(s.setF hubWin MBX_CR_CFG_SIZE size.toNat).setF hubWin MBX_STATUS_RING_ERR 1, ?_, ?_, ?_, ?_⟩
    · rw [exec_crEnable, live_of_functional hs, crEnable_eq hu ho, if_neg (by simp [hg])]
    · rw [← ho]
      exact crOn_congr (by simp (disch := decide) only [State.getF_setF_apart])
    · exact State.getF_setF_same _ _ _ _ (by decide)
    · exact ((OnlyRegs.refl s _).setF _ (by decide)).setF _ (by decide)
  case ccGood =>
    obtain ⟨hon, hsize, hhead, htail, hphase⟩ := ccEnabled_fields s size
    refine ⟨ccEnabled s size.toNat, ?_, hon, hsize, hhead, htail, hphase, rfl, ccEnabled_frame s _, ?_⟩
    · rw [exec_ccEnable, live_of_functional hs, ccEnable_eq hu ho, if_pos hg, ccFlush_none (s := ccEnabled s size.toNat) hw,
        resetGo_none (s := ccEnabled s size.toNat) hq]
    · exact (((((OnlyRegs.refl s _).setF _ (by decide)).setF _ (by decide)).setF _ (by decide)).setF _ (by decide)).setF _
        (by decide) |>.2
  case ccBad =>
    refine ⟨(s.setF hubWin MBX_CC_CFG_SIZE size.toNat).setF hubWin MBX_STATUS_RING_ERR 1, ?_, ?_, ?_, ?_⟩
    · rw [exec_ccEnable, live_of_functional hs, ccEnable_eq hu ho, if_neg (by simp [hg])]
    · rw [← ho]
      exact ccOn_congr (by simp (disch := decide) only [State.getF_setF_apart])
    · exact State.getF_setF_same _ _ _ _ (by decide)
    · exact ((OnlyRegs.refl s _).setF _ (by decide)).setF _ (by decide)
  case crOff =>
    refine ⟨crDisabled s, by rw [exec_crDisable, live_of_functional hs, crDisable_eq hu ho], (rings_disabled s).1, rfl, rfl, rfl, ?_⟩
    exact ((OnlyRegs.refl s _).setF _ (by decide)).2
  case ccOff =>
    refine ⟨ccDisabled s, by rw [exec_ccDisable, live_of_functional hs, ccDisable_eq hu ho], (rings_disabled s).2.2.1, rfl, rfl, rfl, rfl, ?_⟩
    exact ((OnlyRegs.refl s _).setF _ (by decide)).2

/-! ### Indices (R401, R403) -/

theorem crTailWrite_eq {s : State} (hu : endpointUp s = true) (ho : crOn s = true) (v : Nat) :
    crTailWrite s v = if 2 ^ s.getF hubWin MBX_CR_CFG_SIZE ≤ v % 4096 then ringStop s else s.setF hubWin MBX_CR_TAIL_INDEX v := by
  simp [crTailWrite, hu, ho]

/-- The completions up to an index returned to the completion ring. -/
def ccReturned (s : State) (v : Nat) : State :=
  { s.setF hubWin MBX_CC_HEAD_INDEX v with
    ccUnread := s.ccUnread - (v % 4096 + ccSize s - s.getF hubWin MBX_CC_HEAD_INDEX) % ccSize s }

theorem ccHeadWrite_eq {s : State} (hu : endpointUp s = true) (ho : ccOn s = true) (v : Nat) :
    ccHeadWrite s v = if ccSize s ≤ v % 4096 then ringStop s else ccReturned s v := by
  simp [ccHeadWrite, hu, ho, ccReturned]

/-- Both rings stop with RING_ERR, and nothing else happens (R403). -/
theorem ringStop_stops (s : State) : (ringStop s).getF hubWin MBX_STATUS_RING_ERR = 1 ∧ (ringStop s).crStop = true ∧
    (ringStop s).ccStop = true ∧ { ringStop s with regs := s.regs, crStop := s.crStop, ccStop := s.ccStop } = s ∧
    RegsKept s (ringStop s) [hubWin + 4] :=
  ⟨State.getF_setF_same _ _ _ _ (by decide), rfl, rfl, rfl, ((OnlyRegs.refl s _).setF _ (by decide)).2⟩

theorem ringIndicesWritten : Spec.RingIndicesWritten := by
  refine ⟨fun v s hs hu ho => ?_, fun v s hs hu ho => ?_⟩
  · rw [exec_crTailWrite, live_of_functional hs, crTailWrite_eq hu ho]
    refine ⟨fun hin => ⟨_, by rw [if_neg (Nat.not_le.mpr hin)], ?_, (OnlyRegs.refl s _).setF _ (by decide)⟩,
      fun hout => ⟨_, by rw [if_pos hout], ringStop_stops s⟩⟩
    exact State.getF_setF_same _ _ _ _ (by decide)
  · rw [exec_ccHeadWrite, live_of_functional hs, ccHeadWrite_eq hu ho]
    refine ⟨fun hin => ⟨ccReturned s v.toNat, by rw [if_neg (Nat.not_le.mpr hin)], ?_, rfl, rfl, ((OnlyRegs.refl s _).setF _ (by decide)).2⟩,
      fun hout => ⟨_, by rw [if_pos hout], ringStop_stops s⟩⟩
    exact State.getF_setF_same s _ MBX_CC_HEAD_INDEX _ (by decide)

/-! ### Commands taken (R403 to R405) -/

/-- Where the entry at the head of the command ring lies in host memory. -/
def crEntry (s : State) : Nat :=
  s.getF hubWin MBX_CR_BASE_LO_ADDR + s.getF hubWin MBX_CR_BASE_HI_ADDR * 2 ^ 32 + 64 * s.getF hubWin MBX_CR_HEAD_INDEX

/-- The index of the entry after the head, modulo the ring. -/
def crNext (s : State) : Nat := (s.getF hubWin MBX_CR_HEAD_INDEX + 1) % 2 ^ s.getF hubWin MBX_CR_CFG_SIZE

theorem commandTake_failed {s : State} (hm : mayTake s = true) :
    commandTake s none = ringStop (s.emit (.hostRead (crEntry s) 64 false)) := by
  simp [commandTake, hm, crEntry]

theorem slice_natToBytes (n v : Nat) : slice (natToBytes n v) 0 n = natToBytes n v := by
  simp [slice]

theorem commandTake_read {s : State} (hm : mayTake s = true) (b : BitVec 512) :
    commandTake s (some (natToBytes 64 b.toNat)) =
      routeCommand ((s.emit (.hostRead (crEntry s) 64 false)).setF hubWin MBX_CR_HEAD_INDEX (crNext s))
        ⟨natToBytes 64 b.toNat, crNext s, none, false, 0, 0⟩ := by
  simp only [commandTake, hm, Bool.not_true, Bool.false_eq_true, if_false, slice_natToBytes]
  rfl

/-- A command for this module is taken here. -/
theorem routeCommand_own {s : State} {t : Taken} (h : leAt t.entry 4 1 = myDev s) : routeCommand s t = acceptCommand s t := by
  simp [routeCommand, h]

/-- A command taken waits to be executed, or completes with OPCODE where its code is reserved (Table 11.8). -/
theorem acceptCommand_eq {s : State} {t : Taken} (h : s.taken.any resetsDevice = false) :
    acceptCommand s t = if tkOPC t = 0 ∨ 0xF < tkOPC t then
      finish { s with taken := s.taken ++ [t] } s.taken.length 0x1001 (tkOPC t) [] else { s with taken := s.taken ++ [t] } := by
  simp [acceptCommand, h]

theorem commandTaken : Spec.CommandTaken := by
  intro got s hs hm hq
  extract_lets h base u
  rw [exec_commandTake, live_of_functional hs]
  refine ⟨fun hg => ?failed, fun b hg hdev => ?read⟩
  case failed =>
    subst hg
    obtain ⟨herr, hcr, hcc, hframe, hkept⟩ := ringStop_stops (s.emit (.hostRead (crEntry s) 64 false))
    exact ⟨_, congrArg _ (commandTake_failed hm), herr, hcr, hcc, rfl, rfl, hkept, rfl⟩
  case read =>
    subst hg
    extract_lets e
    have hown : leAt e.entry 4 1 = myDev u := hdev.trans (State.getF_setF_apart _ _ _ _ _ _ (by decide) (by decide)).symm
    have hu : commandTake s (some (natToBytes 64 b.toNat)) = acceptCommand u e := (commandTake_read hm b).trans (routeCommand_own hown)
    rw [Option.map_some, hu, acceptCommand_eq (s := u) hq]
    exact ⟨fun hcode => by rw [if_neg (by omega)]; rfl, fun hcode => by rw [if_pos hcode]; rfl⟩

/-- Settles O2: indices, completions that waited, and commands taken. -/
theorem ringsIndexed : Obligations.RingsIndexed := ⟨ringIndicesWritten, waitingCompletionsWritten, commandTaken⟩

end Sys2Proof.Machine
end

section
/-! A completion while the hub holds the endpoint in reset for heat (R494): the entry is counted and the ring's tail moves, but
nothing goes out to host memory. -/

namespace Sys2Proof.Machine
open Sys2Proof Sys2Proof.Machine.Reg

/-- A hub shut down for heat sends no interrupt and no write to host memory. -/
theorem writeCompletion_hot {s : State} (hopen : ccOpen s = true) (hhot : s.hubHot = true) (e : Bytes) (noirq : Bool) :
    (writeCompletion s e noirq).out = s.out := by
  have hvec (t : State) (v : Nat) (h : t.hubHot = true) : raiseVector t v = t := by simp [raiseVector, h]
  cases noirq <;> simp [writeCompletion, hopen, hostWrite, hostPut, hhot, hvec]

/-- A command DEV_INFO of this module's ring that asks for no interrupt. -/
def quietDevInfo : Taken := ⟨natToBytes 64 0x101, 0, none, false, 0, 0⟩

/-- A head that is shut down for heat, with the completion ring enabled and one command taken. -/
def hotHead : State :=
  ({ State.reset with hubHot := true, taken := [quietDevInfo] }.setF hubWin MBX_STATUS_HEAD 1).setF hubWin MBX_CC_CFG_EN 1

theorem hotHead_ready : isHead hotHead = true ∧ ccOpen hotHead = true ∧ bit (leAt quietDevInfo.entry 1 1) 0 = true := by
  decide +kernel

/-- Refutes O3: a hub shut down for heat writes no completion entry to host memory (R494). -/
theorem not_completionEntryWritten : ¬ Obligations.CompletionEntryWritten := by
  intro h
  obtain ⟨hhead, hopen, hquiet⟩ := hotHead_ready
  obtain ⟨-, -, hout, -⟩ := h hotHead 0 0 0 [] quietDevInfo rfl rfl hhead hopen hquiet
  have hstays : (finish hotHead 0 0 0 []).out = hotHead.out :=
    writeCompletion_hot (s := { hotHead with taken := [] }) hopen rfl _ _
  rw [hstays] at hout
  exact absurd (List.self_eq_append_right.mp hout) (List.cons_ne_nil _ _)

end Sys2Proof.Machine
end

section
/-! Mailbox commands that report (Table 11.8, R406, R407, R524), and what refuses a command before it has an effect (Table 11.12). -/

namespace Sys2Proof.Machine
open Sys2Proof Sys2Proof.Machine.Reg

theorem exec_devInfo (i : Nat) (s : State) : exec (.devInfo i) s = live s (devInfo s i) := rfl
theorem exec_logRead (i : Nat) (s : State) : exec (.logRead i) s = live s (logRead s i) := rfl
theorem exec_attestQuote (i : Nat) (s : State) : exec (.attestQuote i) s = live s (spdmResume (attestQuote s i)) := rfl
theorem exec_relayTopology (i : Nat) (net : List Bytes) (got : Bytes) (failAt : Option Nat) (s : State) :
    exec (.relayTopology i net got failAt) s = live s (relayTopology s i net got failAt) := rfl

/-! ### DEV_INFO (Table 11.9) -/

theorem devInfoBytes_length (s : State) : (devInfoBytes s).length = 256 := by
  have hgale : (galeTable s.b0).length = 32 := rfl
  simp [devInfoBytes, hgale]

theorem devInfo_good {s : State} {i : Nat} {c : Taken} (hc : cmdAt s i 1 = some c) (hb : badBuffer c 8 0x10 256 = none) :
    devInfo s i = finish (hostWrite s (tkArg c 8 8) (devInfoBytes s)) i 0 0 [] := by
  simp only [devInfo, hc, hb]

theorem devInfo_bad {s : State} {i st d : Nat} {c : Taken} (hc : cmdAt s i 1 = some c)
    (hb : badBuffer c 8 0x10 256 = some (st, d)) : devInfo s i = finish s i st d [] := by
  simp only [devInfo, hc, hb]

/-! ### LOG_READ (R411) -/

theorem getF_lt (s : State) (b : Nat) (f : Fld) : s.getF b f < 2 ^ f.width := bits_lt _ _ _

/-- Where no record held is newer than the newest, the records asked for are those from the number on. -/
theorem logFrom_eq {s : State} (h : ∀ r ∈ s.log, r.seq ≤ s.getF hubWin MBX_EVT_SEQ_SEQ) (want : Nat) :
    logFrom s want = s.log.filter (fun r => decide (want ≤ r.seq)) := by
  have hlt : s.getF hubWin MBX_EVT_SEQ_SEQ < 2 ^ 32 := getF_lt s hubWin MBX_EVT_SEQ_SEQ
  have hnone : (s.log.any fun r => decide (s.getF hubWin MBX_EVT_SEQ_SEQ < r.seq)) = false := by
    simpa using h
  unfold logFrom
  simp only [hnone, Bool.false_eq_true, false_and, or_false]
  generalize s.getF hubWin MBX_EVT_SEQ_SEQ = newest at h hlt
  split
  · refine List.filter_congr fun r hr => decide_eq_decide.mpr ?_
    have hr := h r hr
    omega
  · refine (List.filter_eq_nil_iff.mpr fun r hr => ?_).symm
    have hr := h r hr
    simp only [decide_eq_true_eq]
    omega

theorem logRead_good {s : State} {i : Nat} {c : Taken} (hc : cmdAt s i 0xD = some c) (hb : badBuffer c 0x10 0x18 32 = none) :
    let want := tkArg c 8 4
    let l := (logFrom s want).take (tkArg c 0x18 4 / 32)
    logRead s i = if l.isEmpty then finish s i 0 0 (natToBytes 4 want)
      else finish (hostWrite s (tkArg c 0x10 8) (l.flatMap logBytes)) i 0 0
        (natToBytes 4 ((l.head?.map (·.seq)).getD want) ++ natToBytes 4 l.length ++
          natToBytes 4 (((l.head?.map (·.seq)).getD want + 2 ^ 32 - want) % 2 ^ 32)) := by
  simp only [logRead, hc, hb]

theorem logRead_bad {s : State} {i st d : Nat} {c : Taken} (hc : cmdAt s i 0xD = some c)
    (hb : badBuffer c 0x10 0x18 32 = some (st, d)) : logRead s i = finish s i st d [] := by
  simp only [logRead, hc, hb]

/-! ### ATTEST_QUOTE (R521) -/

theorem beBytes_length (len n : Nat) : (beBytes len n).length = len := by
  simp [beBytes]

/-- A quote is its body and a signature of 512 bytes. -/
theorem quote_length (s : State) (nonce : Bytes) (sel : Nat) : (quote s nonce sel).1.length = (quoteBody s nonce sel).length + 512 := by
  simp [quote, signMessage, pssSign, beBytes_length]

theorem attestQuote_good {s : State} {i : Nat} {c : Taken} (hc : cmdAt s i 0xC = some c) (hb : badBuffer c 0x28 0x30 0 = none)
    (hident : s.boot.ident = 0)
    (hroom : ceilDiv ((quoteBody s (slice c.entry 8 32) (tkArg c 0x34 4)).length + 512) 64 * 64 ≤ tkArg c 0x30 4) :
    attestQuote s i = finish (hostWrite (quote s (slice c.entry 8 32) (tkArg c 0x34 4)).2 (tkArg c 0x28 8)
      (quote s (slice c.entry 8 32) (tkArg c 0x34 4)).1) i 0 0
      (natToBytes 4 (quote s (slice c.entry 8 32) (tkArg c 0x34 4)).1.length) := by
  simp only [attestQuote, hc, hb, hident, ne_eq, not_true, if_false, if_neg (Nat.not_lt.mpr hroom)]

theorem attestQuote_bad {s : State} {i st d : Nat} {c : Taken} (hc : cmdAt s i 0xC = some c)
    (hb : badBuffer c 0x28 0x30 0 = some (st, d)) : attestQuote s i = finish s i st d [] := by
  simp only [attestQuote, hc, hb]

/-! ### RELAY_TOPOLOGY in mode 0 (R461) -/

theorem relayTopology_known {s : State} {i : Nat} {c : Taken} (hc : cmdAt s i 0xF = some c) (hm : tkArg c 8 1 = 0)
    (hb : badBuffer c 0x10 0x18 12352 = none) (net : List Bytes) (got : Bytes) (failAt : Option Nat) :
    relayTopology s i net got failAt = finish (hostWrite s (tkArg c 0x10 8) (topologyBytes (knownRecords s net))) i 0 0
      (natToBytes 1 (knownRecords s net).length) := by
  simp [relayTopology, hc, hm, hb]

/-- Settles O4, command by command. -/
theorem reportingCommandsComplete : Obligations.ReportingCommandsComplete := by
  refine ⟨fun s i c hs hc hb => ⟨devInfoBytes_length s, ?_⟩, fun s i c hs hc hb => ?_, fun s i c hs hc hb hident => ?_,
    fun s i c net got failAt hs hc hm hb => ?_⟩
  · rw [exec_devInfo, live_of_functional hs, devInfo_good hc hb]
  · rw [exec_logRead, live_of_functional hs, logRead_good hc hb]
    exact ⟨fun h => logFrom_eq h _, fun hl => by rw [if_pos (List.isEmpty_iff.mpr hl)],
      fun hl => by rw [if_neg (mt List.isEmpty_iff.mp hl)]⟩
  · intro sel q hroom
    exact ⟨quote_length _ _ _, by rw [exec_attestQuote, live_of_functional hs, attestQuote_good hc hb hident hroom]⟩
  · rw [exec_relayTopology, live_of_functional hs, relayTopology_known hc hm hb]

/-! ### Refusals (R406, Table 11.12) -/

theorem badBuffer_some {c : Taken} {dp dl req st d : Nat} (h : badBuffer c dp dl req = some (st, d)) :
    (tkArg c dp 8 % 64 ≠ 0 ∧ st = 0x1003 ∧ d = dp) ∨
      (tkArg c dp 8 % 64 = 0 ∧ tkArg c dl 4 % 64 ≠ 0 ∧ st = 0x1003 ∧ d = dl) ∨
      (tkArg c dp 8 % 64 = 0 ∧ tkArg c dl 4 % 64 = 0 ∧ tkArg c dl 4 < req ∧ st = 0x1002 ∧ d = dl) := by
  unfold badBuffer at h
  split at h
  · simp_all
  · split at h
    · simp_all
    · split at h
      · simp_all
      · cases h

theorem badBuffersRefused : Spec.BadBuffersRefused := by
  refine fun s i st d c hs => ⟨fun hc hb => ?_, fun hc hb => ?_, fun hc hb => ?_, fun _ _ _ => badBuffer_some⟩
  · rw [exec_devInfo, live_of_functional hs, devInfo_bad hc hb]
  · rw [exec_logRead, live_of_functional hs, logRead_bad hc hb]
  · rw [exec_attestQuote, live_of_functional hs, attestQuote_bad hc hb]

/-- A slot number above 7 is FIELD at its offset. -/
theorem slotBad_field {s : State} {c : Taken} (h : 7 < tkArg c 8 1) (ok : Nat → Bool) : slotBad s c ok = some (0x1002, 8) :=
  if_pos h

/-- A slot in a state that does not allow the command is PLAN_STATE. -/
theorem slotBad_state {s : State} {c : Taken} {ok : Nat → Bool} (hp : tkArg c 8 1 ≤ 7)
    (h : ok (planState s (tkArg c 8 1)) = false) : slotBad s c ok = some (0x2001, planState s (tkArg c 8 1)) := by
  simp [slotBad, Nat.not_lt.mpr hp, h]

section
variable {s : State} {i st d : Nat} {c : Taken}

theorem planStart_refused (hc : cmdAt s i 3 = some c) (hb : slotBad s c (fun st => st = 2) = some (st, d)) :
    planStart s i = finish s i st d [] := by
  simp only [planStart, hc, hb]

theorem planStop_refused (hc : cmdAt s i 4 = some c) (hb : slotBad s c (fun st => st = 3 || st = 4) = some (st, d)) :
    planStop s i = finish s i st d [] := by
  simp only [planStop, hc, hb]

theorem planUnload_refused (hc : cmdAt s i 5 = some c) (hb : slotBad s c (fun st => st = 2 || st = 6) = some (st, d)) :
    planUnload s i = finish s i st d [] := by
  simp only [planUnload, hc, hb]

theorem kilnRun_refused (hc : cmdAt s i 8 = some c) (hb : slotBad s c (fun st => st = 3) = some (st, d)) :
    kilnRun s i = finish s i st d [] := by
  simp only [kilnRun, hc, hb]

end

theorem planStateRefusals : Spec.PlanStateRefusals := by
  intro s i c hs
  simp only [exec_planStart, exec_planStop, exec_planUnload, exec_kilnRun, live_of_functional hs]
  refine ⟨fun hc => ⟨fun hp => ?_, fun hp h => ?_⟩, fun hc => ⟨fun hp => ?_, fun hp h h' => ?_⟩,
    fun hc => ⟨fun hp => ?_, fun hp h h' => ?_⟩, fun hc => ⟨fun hp => ?_, fun hp h => ?_⟩⟩
  · rw [planStart_refused hc (slotBad_field hp _)]
  · rw [planStart_refused hc (slotBad_state hp (by simpa using h))]
  · rw [planStop_refused hc (slotBad_field hp _)]
  · rw [planStop_refused hc (slotBad_state hp (by simp [h, h']))]
  · rw [planUnload_refused hc (slotBad_field hp _)]
  · rw [planUnload_refused hc (slotBad_state hp (by simp [h, h']))]
  · rw [kilnRun_refused hc (slotBad_field hp _)]
  · rw [kilnRun_refused hc (slotBad_state hp (by simpa using h))]

/-- Settles O6: bad buffers, and slots in another state. -/
theorem mailboxRefusals : Obligations.MailboxRefusals := ⟨badBuffersRefused, planStateRefusals⟩

end Sys2Proof.Machine
end

section
/-! Stream doorbells (R412), the configuration space (R393, R395, R480), and descriptors fetched (R413, R414, R421). -/

namespace Sys2Proof.Machine
open Sys2Proof Sys2Proof.Machine.Reg

theorem exec_frTailWrite (k : Fin 128) (v : BitVec 32) (s : State) :
    exec (.frTailWrite k v) s = live s (frTailWrite s k v.toNat) := rfl
theorem exec_rrHeadWrite (k : Fin 128) (v : BitVec 32) (s : State) :
    exec (.rrHeadWrite k v) s = live s (rrHeadWrite s k v.toNat) := rfl
theorem exec_configurationRequest (w : Bool) (o : BitVec 12) (v : BitVec 32) (ready : Bool) (s : State) :
    exec (.configurationRequest w o v ready) s = live s (configurationRequest s w o.toNat v.toNat ready) := rfl
theorem exec_descriptorFetch (k : Fin 128) (got : Option Bytes) (s : State) :
    exec (.descriptorFetch k got) s = live s (afterNotrun s (descFetch s k got) k) := rfl

/-! ### Doorbells (R412) -/

theorem bits_index (v : Nat) : bits v 0 12 = v % 4096 := by
  simp [bits]

theorem frTailWrite_unbound {s : State} {k : Nat} (h : (s.stream k).plan = none) (v : Nat) : frTailWrite s k v = s := by
  simp [frTailWrite, bound, h]

theorem rrHeadWrite_unbound {s : State} {k : Nat} (h : (s.stream k).plan = none) (v : Nat) : rrHeadWrite s k v = s := by
  simp [rrHeadWrite, bound, h]

theorem frTailWrite_bound {s : State} {k p : Nat} (h : (s.stream k).plan = some p) (v : Nat) :
    frTailWrite s k v = if 2 ^ (s.stream k).rsize ≤ v % 4096 then logEvent s 0x1002 0xFF p (0x2000 + 0x10 * k) v k 0
      else s.setF (ringBase k) MBX_FR_TAIL_INDEX v := by
  simp [frTailWrite, bound, h, bits_index, logRing]

theorem rrHeadWrite_bound {s : State} {k p : Nat} (h : (s.stream k).plan = some p) (v : Nat) :
    rrHeadWrite s k v = if 2 ^ (s.stream k).rsize ≤ v % 4096 then logEvent s 0x1002 0xFF p (0x2000 + 0x10 * k + 8) v k 0
      else (s.setF (ringBase k) MBX_RR_HEAD_INDEX v).setStream k { s.stream k with
        unread := (s.stream k).unread -
          (v % 4096 + 2 ^ (s.stream k).rsize - s.getF (ringBase k) MBX_RR_HEAD_INDEX) % 2 ^ (s.stream k).rsize } := by
  simp [rrHeadWrite, bound, h, bits_index, logRing]

/-- Settles O9: both doorbells, by the binding of the slot and the range of the index. -/
theorem streamDoorbells : Obligations.StreamDoorbells := by
  intro k v s hs x n h
  simp only [exec_frTailWrite, exec_rrHeadWrite, live_of_functional hs]
  refine ⟨fun hx => ⟨?_, ?_⟩, fun p hx => ⟨fun hin => ⟨?_, ?_⟩, fun hout => ⟨?_, ?_⟩⟩⟩
  · rw [frTailWrite_unbound hx]
  · rw [rrHeadWrite_unbound hx]
  · rw [frTailWrite_bound hx, if_neg (Nat.not_le.mpr hin)]
  · rw [rrHeadWrite_bound hx, if_neg (Nat.not_le.mpr hin)]
  · rw [frTailWrite_bound hx, if_pos hout]
  · rw [rrHeadWrite_bound hx, if_pos hout]

/-! ### The configuration space (R393, R395, R480) -/

section
variable {s : State} (hu : endpointUp s = true)
include hu

/-- Retry status until the space is ready (R480). -/
theorem configurationRequest_retry (hready : s.boot.cfgReady = false) {o : Nat} (ho : o % 4 = 0) (w : Bool) (v : Nat) :
    configurationRequest s w o v false = s.emit .configRetry := by
  simp [configurationRequest, hu, ho, hready]

theorem configurationRequest_becomesReady (v : Nat) : configurationRequest s false 0 v true =
    { s with boot := { s.boot with cfgReady := true } }.emit (.readData (natToBytes 4 0xD1281F2D)) := by
  simp [configurationRequest, hu, cfgView]

theorem configurationRequest_read (hready : s.boot.cfgReady = true) {o d : Nat} (ho : o % 4 = 0) (hd : cfgView s o = some d) (v : Nat) :
    configurationRequest s false o v false = s.emit (.readData (natToBytes 4 d)) := by
  simp [configurationRequest, hu, ho, hready, hd]

theorem configurationRequest_write (hready : s.boot.cfgReady = true) {o : Nat} (ho : o % 4 = 0) (v : Nat) :
    configurationRequest s true o v false = cfgWrite s o v := by
  simp [configurationRequest, hu, ho, hready]

end

/-- A dword with no writable bit and no status bit is not written. -/
theorem cfgWrite_readOnly {s : State} {o : Nat}
    (h : o ∉ [0x04, 0x10, 0x14, 0x18, 0x1C, 0x3C, 0x44, 0x50, 0x78, 0x98, 0x104, 0x108, 0x10C, 0x110, 0x114]) (v : Nat) :
    cfgWrite s o v = s := by
  have hmask : cfgWritable o = 0 := by
    unfold cfgWritable
    split <;> first | rfl | simp at h
  have hclear : cfgClears o = false := by
    simp only [List.mem_cons, not_or] at h
    simp [cfgClears, cfgAERU, cfgAERC, h]
  simp [cfgWrite, hmask, hclear]

/-- A dword whose write has no other effect keeps the bits of its mask. -/
theorem cfgWrite_masked {s : State} {o : Nat} (hclear : cfgClears o = false) (hmask : cfgWritable o ≠ 0) (hpower : o ≠ 0x44)
    (hmsix : o ≠ cfgMSIX) (v : Nat) :
    cfgWrite s o v = { s with cfgSpace := s.cfgSpace.put o (BitVec.ofNat 32 (v &&& cfgWritable o)) } := by
  simp [cfgWrite, hclear, hmask, hpower, hmsix]

/-- A base address register takes every bit. -/
theorem cfgWrite_bar {s : State} {o : Nat} (h : o ∈ [0x10, 0x14, 0x18, 0x1C]) (v : BitVec 32) :
    cfgWrite s o v.toNat = { s with cfgSpace := s.cfgSpace.put o v } := by
  have hkinds : cfgClears o = false ∧ cfgWritable o = 2 ^ 32 - 1 ∧ o ≠ 0x44 ∧ o ≠ cfgMSIX := by
    simp only [List.mem_cons, List.not_mem_nil, or_false] at h
    rcases h with rfl | rfl | rfl | rfl <;> decide
  obtain ⟨hclear, hmask, hpower, hmsix⟩ := hkinds
  rw [cfgWrite_masked hclear (by rw [hmask]; decide) hpower hmsix, hmask, Nat.and_two_pow_sub_one_of_lt_two_pow v.isLt,
    BitVec.ofNat_toNat, BitVec.setWidth_eq]

/-- Ones clear the status bits of AER (R397). -/
theorem cfgWrite_status {s : State} {o : Nat} (h : o ∈ [0x104, 0x110]) (v : BitVec 32) : cfgWrite s o v.toNat =
    { s with cfgSpace := s.cfgSpace.put o (BitVec.ofNat 32 (cfgHeld s o 0 &&& (2 ^ 32 - 1 - v.toNat))) } := by
  have hclear : cfgClears o = true := by
    simp only [List.mem_cons, List.not_mem_nil, or_false] at h
    rcases h with rfl | rfl <;> rfl
  simp only [cfgWrite, hclear, if_true, Nat.mod_eq_of_lt v.isLt]

theorem cfgWrite_command (s : State) (v : Nat) :
    cfgWrite s 0x04 v = { s with cfgSpace := s.cfgSpace.put 0x04 (BitVec.ofNat 32 (v &&& 0x546)) } := rfl

/-- A vector that the MSI-X control word lets go is sent (R423). -/
theorem cfgWrite_msix (s : State) (v : Nat) : cfgWrite s 0x50 v = (List.range 64).foldl sendPending
    { s with cfgSpace := s.cfgSpace.put 0x50 (BitVec.ofNat 32 (v &&& 0xC0000000)) } := rfl

/-- Settles O14: retry, reads, and writes by kind of dword. -/
theorem configurationAnswered : Obligations.ConfigurationAnswered := by
  intro s w o v hs hu ho
  simp only [exec_configurationRequest, live_of_functional hs]
  refine ⟨fun hready => ?_, ?_, fun hready => ⟨?_, ?_, fun h => ?_, fun h => ?_, fun h => ?_, ?_, ?_⟩⟩
  · rw [configurationRequest_retry hu hready ho]
  · exact congrArg _ (configurationRequest_becomesReady hu v.toNat)
  · exact congrArg _ (configurationRequest_read hu hready (by decide) rfl v.toNat)
  · exact congrArg _ (configurationRequest_read hu hready (by decide) rfl v.toNat)
  · rw [configurationRequest_write hu hready ho, cfgWrite_readOnly h]
  · rw [configurationRequest_write hu hready ho, cfgWrite_bar h]
  · rw [configurationRequest_write hu hready ho, cfgWrite_status h]
  · exact congrArg _ ((configurationRequest_write hu hready (by decide) v.toNat).trans (cfgWrite_command s v.toNat))
  · exact congrArg _ ((configurationRequest_write hu hready (by decide) v.toNat).trans (cfgWrite_msix s v.toNat))

/-! ### Descriptors (R413, R414, R421) -/

/-- A release published before a NOTRUN result is of a held frame of the stream. -/
theorem publishBefore_none {s : State} {k : Nat} (h : ∀ f ∈ s.frames, f.slot = k → f.held = none) : publishBefore s k = s := by
  refine List.foldl_fixed' (fun f => ?_) s.frames
  split
  · next g hg =>
    refine if_neg fun ⟨hslot, hheld, _⟩ => ?_
    rw [h g (List.mem_of_find?_eq_some hg) hslot] at hheld
    cases hheld
  · rfl

/-- Where no release came before, nothing follows. -/
theorem afterNotrun_same {s t : State} (h : t.frames = s.frames) (k : Nat) : afterNotrun s t k = t := by
  unfold afterNotrun
  split
  · exact if_pos (by rw [h])
  · rfl

/-- The state once the descriptor at the head of a frame ring is read: the head advances modulo the ring. -/
def descRead (s : State) (k : Nat) : State :=
  (s.emit (.hostRead ((s.stream k).frbase + 64 * s.getF (ringBase k) MBX_FR_HEAD_INDEX) 64 false)).setF (ringBase k) MBX_FR_HEAD_INDEX
    ((s.getF (ringBase k) MBX_FR_HEAD_INDEX + 1) % 2 ^ (s.stream k).rsize)

theorem hostRead_head {s : State} (h : isHead s = true) (addr len : Nat) (got : Option Bytes) :
    hostRead s addr len got = (some (got.map (fun b => slice b 0 len)), s.emit (.hostRead addr len false)) := by
  simp [hostRead, h]

section
variable {s : State} {k : Nat} (hhead : isHead s = true) (hbound : (s.stream k).plan.isSome = true)
  (hclosing : (s.stream k).closing = 0) (hsrc : fifSrc s k ≠ 2) (hopen : fifOpenFrame s k = none)
  (hwork : s.getF (ringBase k) MBX_FR_HEAD_INDEX ≠ s.getF (ringBase k) MBX_FR_TAIL_INDEX)
  (hroom : fetchedFrames s k < 2 ^ (s.stream k).rsize)
include hhead hbound hclosing hsrc hopen hwork hroom

/-- A descriptor that may be fetched is read: it opens its frame, or ends as NOTRUN. -/
theorem descFetch_failed : descFetch s k none =
    logEvent (writeResult (publishBefore (descRead s k) k) k 0 0xFFFFFFFF 0 (2 ^ 9 + 3 * 2 ^ 10)
      (s.getF (ringBase k) MBX_FR_HEAD_INDEX) false) 0x1004 0xFF 0xFF k (s.getF (ringBase k) MBX_FR_HEAD_INDEX) 0 0 := by
  simp [descFetch, bound, hbound, hclosing, hsrc, hwork, hopen, Nat.not_le.mpr hroom, hostRead_head hhead]
  rfl

theorem descFetch_read (b : Bytes) : descFetch s k (some b) =
    if descOk (descRead s k) k (slice b 0 64) then
      fifOpen (descRead s k) k (newFFrame (slice b 0 64) (s.getF (ringBase k) MBX_FR_HEAD_INDEX) (leAt (slice b 0 64) 8 4))
    else writeResult (publishBefore (descRead s k) k) k (leAt (slice b 0 64) 0x20 8) 0xFFFFFFFF 0 (2 ^ 9)
      (s.getF (ringBase k) MBX_FR_HEAD_INDEX) (bit (leAt (slice b 0 64) 0xC 4) 0) := by
  simp [descFetch, bound, hbound, hclosing, hsrc, hwork, hopen, Nat.not_le.mpr hroom, hostRead_head hhead]
  rfl

end

/-- Settles O18: a read that fails, a descriptor that opens its frame, and one that breaks a rule. -/
theorem descriptorsFetched : Obligations.DescriptorsFetched := by
  intro s k hs hhead hbound hclosing hsrc hopen hwork hroom
  extract_lets h u v
  refine ⟨fun hheld => ⟨publishBefore_none hheld, fun t ht => afterNotrun_same ht k⟩, ?_, fun b => ⟨fun hd => ?_, fun hd => ?_⟩⟩
  · rw [exec_descriptorFetch, live_of_functional hs, descFetch_failed hhead hbound hclosing hsrc hopen hwork hroom]
    rfl
  · have hread := (descFetch_read hhead hbound hclosing hsrc hopen hwork hroom b).trans (if_pos hd)
    have hafter := afterNotrun_same (s := s) (t := descFetch s k (some b)) (by rw [hread]; rfl) k
    rw [exec_descriptorFetch, live_of_functional hs, hafter, hread]
    rfl
  · have hread := (descFetch_read hhead hbound hclosing hsrc hopen hwork hroom b).trans (if_neg (ne_true_of_eq_false hd))
    rw [exec_descriptorFetch, live_of_functional hs, hread]
    rfl

end Sys2Proof.Machine
end

section
/-! The commands of the device: INJECT, FENCE_CORE, RESET_DEVICE and POWER_STATE (R410, R441, R449, R450, R496 to R500, R562). -/

namespace Sys2Proof.Machine
open Sys2Proof Sys2Proof.Machine.Reg

theorem exec_inject (i : Nat) (s : State) : exec (.inject i) s = live s (inject s i) := rfl
theorem exec_fenceCore (i : Nat) (s : State) : exec (.fenceCore i) s = live s (fenceCommand s i) := rfl
theorem exec_resetDevice (i : Nat) (s : State) : exec (.resetDevice i) s = live s (resetDevice s i) := rfl
theorem exec_powerState (i : Nat) (s : State) : exec (.powerState i) s = live s (powerState s i) := rfl
theorem exec_powerStateExitDone (s : State) :
    exec .powerStateExitDone s = live s (serveStuck (awaited s (powerExitDone s))) := rfl

theorem mem_maskBits {n m i : Nat} : i ∈ maskBits n m ↔ i < n ∧ bit m i = true := by
  simp [maskBits, bit]

/-! ### INJECT (R449, R450) -/

theorem inject_locked {s : State} {i : Nat} {c : Taken} (hc : cmdAt s i 0xE = some c) (hp : bit s.fuses 2126 = false) :
    inject s i = finish s i 0x5002 0 [] := by
  simp [inject, hc, policyBit, hp]

theorem inject_armed {s : State} {i : Nat} {c : Taken} (hc : cmdAt s i 0xE = some c) (hp : bit s.fuses 2126 = true)
    (hlo : 1 ≤ tkArg c 8 2) (hhi : tkArg c 8 2 ≤ 0x13) (ht : injTargetOk (tkArg c 8 2) (tkArg c 0xC 4) = true) :
    inject s i = finish ((s.setF (injBase (tkArg c 8 2)) TXU_INJ_TARGET (tkArg c 0xC 4)).setF (injBase (tkArg c 8 2)) TXU_INJ_COUNT
      (tkArg c 0x10 2)) i 0 0 [] := by
  have hd : ¬ (tkArg c 8 2 = 0 ∨ 0x13 < tkArg c 8 2) := by omega
  simp [inject, hc, policyBit, hp, hd, ht]

/-! ### FENCE_CORE (R441, R442, Table 12.7) -/

section
variable {s : State} {i : Nat} {c : Taken} (hc : cmdAt s i 9 = some c) (hn : tkArg c 8 1 < 128)
include hc hn

theorem fenceCommand_fenced (hf : fenced s (tkArg c 8 1) = true) :
    fenceCommand s i = finish s i 0 0 (fenceResult 4 0xFF ((holderOf s (tkArg c 8 1)).getD 0xFF) 0) := by
  have hfield : ¬ 127 < tkArg c 8 1 := by omega
  simp only [fenceCommand, hc, hfield, if_false, hf, if_true]

theorem fenceCommand_unheld (hf : fenced s (tkArg c 8 1) = false) (hh : holderOf s (tkArg c 8 1) = none) :
    fenceCommand s i = finish (fenceCore s (tkArg c 8 1)) i 0 0 (fenceResult 1 0xFF 0xFF 0) := by
  have hfield : ¬ 127 < tkArg c 8 1 := by omega
  simp only [fenceCommand, hc, hfield, if_false, hf, Bool.false_eq_true, hh]

theorem fenceCommand_moves {p : Nat} (hf : fenced s (tkArg c 8 1) = false) (hh : holderOf s (tkArg c 8 1) = some p)
    (hi : idleSpare s p (tkArg c 8 1) = false) (hst : planState s p ≠ 6) :
    fenceCommand s i = fenceAndMove (startTaken s i 0 p) (tkArg c 8 1) := by
  have hfield : ¬ 127 < tkArg c 8 1 := by omega
  simp only [fenceCommand, hc, hfield, if_false, hf, Bool.false_eq_true, hh, hi, hst]

end

/-! ### RESET_DEVICE (R410) -/

/-- A command that starts carries the code of its row, and has no reset of the device before it. -/
theorem code_of_cmdAt {s : State} {i opc : Nat} {c : Taken} (h : cmdAt s i opc = some c) :
    tkOPC c = opc ∧ (s.taken.take i).any resetsDevice = false := by
  unfold cmdAt at h
  split at h
  · cases h
  · split at h
    · cases h
    · next hn =>
      cases h
      simp only [not_or, not_not, Bool.not_eq_true] at hn
      exact ⟨hn.1, hn.2.2.2.1⟩

theorem lt_of_cmdAt {s : State} {i opc : Nat} {c : Taken} (h : cmdAt s i opc = some c) : i < s.taken.length :=
  (List.getElem?_eq_some_iff.mp (taken_of_cmdAt h)).1

/-- The first element that satisfies a test, where none before it does. -/
theorem findIdx?_first {α : Type} {l : List α} {p : α → Bool} {i : Nat} {x : α} (hx : l[i]? = some x) (hp : p x = true)
    (hbefore : (l.take i).any p = false) : l.findIdx? p = some i := by
  obtain ⟨hi, rfl⟩ := List.getElem?_eq_some_iff.mp hx
  refine List.findIdx?_eq_some_iff_getElem.mpr ⟨hi, hp, fun j hj => ?_⟩
  rw [List.any_eq_false] at hbefore
  exact fun h => hbefore l[j] (List.mem_take_iff_getElem.mpr ⟨j, by omega, rfl⟩) h

/-- A command completes the same whether or not it was marked as started. -/
theorem finish_startTaken {s : State} {i : Nat} {c : Taken} (h : s.taken[i]? = some c) (v0 v1 status detail : Nat) (result : Bytes) :
    finish (startTaken s i v0 v1) i status detail result = finish s i status detail result := by
  have hi := (List.getElem?_eq_some_iff.mp h).1
  rw [startTaken_eq h]
  simp only [finish, h, List.getElem?_set_self hi, List.eraseIdx_set_eq]
  rfl

/-- The reset of the device that a command asks for waits for the completion ring. -/
theorem resetGo_started {s : State} {i : Nat} {c : Taken} (hc : cmdAt s i 0xA = some c) (hmode : tkArg c 8 1 = 0)
    (hf : c.from_ = none) : resetGo (startTaken s i 0 0) =
      if ccOpen s then deviceReset (finish s i 0 0 []) rsWARM 4 0 else startTaken s i 0 0 := by
  obtain ⟨hopc, hbefore⟩ := code_of_cmdAt hc
  have hat := taken_of_cmdAt hc
  have hi := (List.getElem?_eq_some_iff.mp hat).1
  let x : Taken := { c with started := true, v0 := 0, v1 := 0 }
  have hx : (startTaken s i 0 0).taken[i]? = some x := by
    rw [startTaken_eq hat]
    exact List.getElem?_set_self hi
  have hresets : (x.started && resetsDevice x) = true := by
    show (true && (decide (tkOPC c = 0xA) && decide (tkArg c 8 1 = 0))) = true
    simp [hopc, hmode]
  have hfirst : (startTaken s i 0 0).taken.findIdx? (fun t => t.started && resetsDevice t) = some i := by
    refine findIdx?_first hx hresets ?_
    rw [startTaken_eq hat, List.take_set_of_le (Nat.le_refl i)]
    rw [List.any_eq_false] at hbefore ⊢
    exact fun t ht hq => hbefore t ht ((Bool.and_eq_true _ _).mp hq).2
  have hready : answerReady (startTaken s i 0 0) x = ccOpen s := by
    rw [startTaken_eq hat]
    simp only [answerReady, x, hf]
    rfl
  simp only [resetGo, hfirst, hx, hready, finish_startTaken hat]

theorem resetDevice_whole {s : State} {i : Nat} {c : Taken} (hc : cmdAt s i 0xA = some c) (hmode : tkArg c 8 1 = 0) :
    resetDevice s i = resetGo (startTaken s i 0 0) := by
  simp only [resetDevice, hc, hmode]

theorem resetDevice_cluster {s : State} {i : Nat} {c : Taken} (hc : cmdAt s i 0xA = some c) (hmode : tkArg c 8 1 = 1)
    (hcl : tkArg c 9 1 < 16) (hfree : ∀ n, n < 8 → holderOf s (8 * tkArg c 9 1 + n) = none) :
    resetDevice s i = finish (clusterReset s (tkArg c 9 1)) i 0 0 [] := by
  have hnone : ((List.range 8).map (8 * tkArg c 9 1 + ·)).find? (fun n => (holderOf s n).isSome) = none := by
    simpa [List.find?_eq_none] using hfree
  have hrange : ¬ 15 < tkArg c 9 1 := by omega
  simp only [resetDevice, hc, hmode, hrange, if_false, hnone]

/-! ### POWER_STATE (R496 to R500, R562) -/

section
variable {s : State} {i : Nat} {c : Taken}

theorem powerState_active (hc : cmdAt s i 0xB = some c) (hm : tkArg c 8 1 = 0) : powerState s i = powerActive s i := by
  simp only [powerState, hc, hm]

theorem powerState_hold (hc : cmdAt s i 0xB = some c) (hm : tkArg c 8 1 = 1) :
    powerState s i = powerHold s i (tkArg c 0x10 16) := by
  simp only [powerState, hc, hm]

theorem powerState_off (hc : cmdAt s i 0xB = some c) (hm : tkArg c 8 1 = 2) : powerState s i = powerOff s i (tkArg c 9 1) := by
  simp only [powerState, hc, hm]

theorem powerState_standby (hc : cmdAt s i 0xB = some c) (hm : tkArg c 8 1 = 3) : powerState s i = powerStandby s i := by
  simp only [powerState, hc, hm]

theorem powerState_field (hc : cmdAt s i 0xB = some c) (hm : 3 < tkArg c 8 1) : powerState s i = finish s i 0x1002 8 [] := by
  simp only [powerState, hc]
  split <;> first | rfl | omega

end

/-- No die is off. -/
theorem anyOff_false {s : State} (h : ∀ d, d < 4 → dieOff s d = false) : (List.range 4).any (dieOff s) = false := by
  simpa [List.any_eq_false] using h

theorem anyOff_true {s : State} (h : ∃ d, d < 4 ∧ dieOff s d = true) : (List.range 4).any (dieOff s) = true := by
  simpa [List.any_eq_true] using h

theorem anyHold_false {s : State} (h : ∀ j, j < 4 → s.reg (pwrHub + 0x1C + 4 * j) = 0) : anyHold s = false := by
  simpa [anyHold, List.any_eq_false] using h

theorem anyHold_true {s : State} (h : ∃ j, j < 4 ∧ s.reg (pwrHub + 0x1C + 4 * j) ≠ 0) : anyHold s = true := by
  simpa [anyHold, List.any_eq_true] using h

section
variable {s : State} (i : Nat)

/-- POWER_STATE 0 in ACTIVE completes at once. -/
theorem powerActive_active (hoff : (List.range 4).any (dieOff s) = false) (hstby : s.getF pwrHub PWR_STATE_STANDBY ≠ 1)
    (hhold : anyHold s = false) : powerActive s i = finish s i 0 0 [] := by
  simp [powerActive, hoff, hstby, hhold]

/-- STANDBY is left in 10 ms. -/
theorem powerActive_standby (hstby : s.getF pwrHub PWR_STATE_STANDBY = 1) :
    powerActive s i = activeCheck (startTaken s i (now s + 10000000) 0) := by
  simp [powerActive, hstby]

/-- DIE-OFF is left in 5 ms. -/
theorem powerActive_off (hoff : (List.range 4).any (dieOff s) = true) (hstby : s.getF pwrHub PWR_STATE_STANDBY ≠ 1) :
    powerActive s i = activeCheck (holdOut (startTaken s i (now s + 5000000) 0)) := by
  simp [powerActive, hoff, hstby]

/-- HOLD alone is left in 20 µs. -/
theorem powerActive_hold (hoff : (List.range 4).any (dieOff s) = false) (hstby : s.getF pwrHub PWR_STATE_STANDBY ≠ 1)
    (hhold : anyHold s = true) : powerActive s i = activeCheck (holdOut (startTaken s i (now s + 20000) 1)) := by
  simp [powerActive, hoff, hstby, hhold]

theorem powerHold_free {mask : Nat} (h : ∀ n, n < 128 → bit mask n = true → holderOf s n = none) :
    powerHold s i mask = holdCheck (idleMemories ((maskBits 128 mask).foldl
      (fun t n => retentionRequest (setHold t (n / 32) (n % 32) true) (n / 32) (n % 32)) (startTaken s i 0 0))) := by
  have hnone : (maskBits 128 mask).find? (fun n => (holderOf s n).isSome) = none := by
    rw [List.find?_eq_none]
    intro n hn
    obtain ⟨hlt, hbit⟩ := mem_maskBits.mp hn
    simp [h n hlt hbit]
  simp only [powerHold, hnone]

theorem powerOff_free {mask : Nat} (hmask : mask < 16) (h : ∀ d, d < 4 → bit mask d = true → dieHeld s d = false) :
    powerOff s i mask =
      finish ((maskBits 4 mask).foldl (fun t d => if dieOff t d then t else dieDown t d) s) i 0 0 [] := by
  have hnone : (maskBits 4 mask).find? (dieHeld s) = none := by
    rw [List.find?_eq_none]
    intro d hd
    obtain ⟨hlt, hbit⟩ := mem_maskBits.mp hd
    simp [h d hlt hbit]
  simp only [powerOff, if_neg (Nat.not_le.mpr hmask), hnone]

theorem powerStandby_idle (h : ∀ p, p < 8 → planState s p < 3 ∨ 5 < planState s p) (hstby : s.getF pwrHub PWR_STATE_STANDBY ≠ 1) :
    powerStandby s i = finish (standbyIn s) i 0 0 [] := by
  have hnone : (List.range 8).find? (fun p => 3 ≤ planState s p ∧ planState s p ≤ 5) = none := by
    rw [List.find?_eq_none]
    intro p hp
    have := h p (List.mem_range.mp hp)
    simp only [decide_eq_true_eq]
    omega
  simp only [powerStandby, hnone, if_neg hstby]

end

/-! ### The end of an exit time (R494, R502, R562) -/

theorem powerExitDone_held {s : State} (h : s.hubHot = true ∨ s.boot.down = true) : powerExitDone s = s := by
  rcases h with h | h <;> simp [powerExitDone, h]

theorem powerExitDone_due {s : State} {i : Nat} {c : Taken} (hhot : s.hubHot = false) (hdown : s.boot.down = false)
    (hi : s.taken.findIdx? (fun t => t.started && tkOPC t = 0x0B && tkArg t 8 1 = 0 && t.v1 = 0 && decide (t.v0 ≤ now s)) = some i)
    (hc : s.taken[i]? = some c) : powerExitDone s = activeCheck (holdOut (powerOn (startTaken s i c.v0 1))) := by
  simp only [powerExitDone, hhot, hdown, hi, hc, Bool.or_self, Bool.false_eq_true, if_false]

/-- Settles O10, command by command. -/
theorem deviceCommandsComplete : Obligations.DeviceCommandsComplete := by
  refine ⟨fun s i c hs hc => ?inject, fun s i c hs hc hn => ?fence, fun s i c hs hc => ?reset, fun s i c hs hc => ?power,
    fun s i c hs hhot hdown hi hc => ?exitDone, fun s hs h => ?exitHeld⟩
  case inject =>
    rw [exec_inject, live_of_functional hs]
    exact ⟨fun hp => by rw [inject_locked hc hp], fun hp hlo hhi ht => by rw [inject_armed hc hp hlo hhi ht]⟩
  case fence =>
    rw [exec_fenceCore, live_of_functional hs]
    refine ⟨fun hf => by rw [fenceCommand_fenced hc hn hf], fun hf hh => by rw [fenceCommand_unheld hc hn hf hh],
      fun p hf hh hi hst => ?_⟩
    rw [fenceCommand_moves hc hn hf hh hi hst, startTaken_eq (taken_of_cmdAt hc)]
  case reset =>
    rw [exec_resetDevice, live_of_functional hs]
    refine ⟨fun hm hf => ⟨fun ho => ?_, fun ho => ?_⟩, fun hm hcl hfree => by rw [resetDevice_cluster hc hm hcl hfree]⟩
    · rw [resetDevice_whole hc hm, resetGo_started hc hm hf, if_pos ho]
    · rw [resetDevice_whole hc hm, resetGo_started hc hm hf, if_neg (ne_true_of_eq_false ho), startTaken_eq (taken_of_cmdAt hc)]
  case power =>
    have hv := startTaken_eq (taken_of_cmdAt hc)
    intro v
    rw [exec_powerState, live_of_functional hs]
    refine ⟨fun hm hoff hst hh => ?_, fun hm hst => ?_, fun hm hoff hst => ?_, fun hm hoff hst hh => ?_, fun hm hfree => ?_,
      fun hm hmask hfree => ?_, fun hm hidle hst => ?_, fun hm => by rw [powerState_field hc hm]⟩
    · rw [powerState_active hc hm, powerActive_active i (anyOff_false hoff) hst (anyHold_false hh)]
    · rw [powerState_active hc hm, powerActive_standby i hst, hv]
    · rw [powerState_active hc hm, powerActive_off i (anyOff_true hoff) hst, hv]
    · rw [powerState_active hc hm, powerActive_hold i (anyOff_false hoff) hst (anyHold_true hh), hv]
    · rw [powerState_hold hc hm, powerHold_free i hfree, hv]
    · rw [powerState_off hc hm, powerOff_free i hmask hfree]
    · rw [powerState_standby hc hm, powerStandby_idle i hidle hst]
  case exitDone =>
    rw [exec_powerStateExitDone, live_of_functional hs, powerExitDone_due hhot hdown hi hc, startTaken_eq hc]
  case exitHeld =>
    rw [exec_powerStateExitDone, live_of_functional hs, powerExitDone_held h, awaited_of_met_eq rfl]

end Sys2Proof.Machine
end

section
/-! Why every step keeps the invariants (O59): each operation leaves the queue and the stepping, keeps memory
canonical and the event log within its size, clears no fuse, and leaves the TAP at rest, which is `Steady`. A lemma for each
function that returns a state says so, from the same for the state that it is given; here stand the facts they share: rows of
memory that are erased, fuses that are burned, and what a power-on reset clears. -/
namespace Sys2Proof.Machine
open Sys2Proof Sys2Proof.Machine.Reg

theorem lostAt_isSome_iff (l : List (Nat × Nat × Nat)) (a : Nat) :
    (lostAt l a).isSome = true ↔ ∃ r ∈ l, r.1 ≤ a ∧ a < r.2.1 := by
  unfold lostAt
  cases e : l.find? fun r => decide (r.1 ≤ a) && decide (a < r.2.1) with
  | none => simpa using e
  | some r =>
    have hr := List.find?_some e
    simp only [Bool.and_eq_true, decide_eq_true_eq] at hr
    exact iff_of_true rfl ⟨r, List.mem_of_find?_eq_some e, hr⟩

/-- What is erased was not listed, and what is cut out of the lost ranges was erased. -/
theorem Memory.wf_eraseRange {m : List Host.Cell} {l : List (Nat × Nat × Nat)} (lo hi : Nat) (h : Memory.wf m l = true) :
    Memory.wf (SMap.eraseRange m lo hi) (l.flatMap fun r =>
      (if r.1 < min r.2.1 lo then [(r.1, min r.2.1 lo, r.2.2)] else []) ++
      (if max r.1 hi < r.2.1 then [(max r.1 hi, r.2.1, r.2.2)] else [])) = true := by
  rw [Memory.wf_iff] at h ⊢
  refine ⟨SMap.sortedFrom_filter _ _ _ h.1, fun c hc => ?_⟩
  obtain ⟨hm, hout⟩ := List.mem_filter.mp hc
  refine (h.2 c hm).imp_right fun hl => ?_
  rw [lostAt_isSome_iff] at hl ⊢
  obtain ⟨r, hr, h1, h2⟩ := hl
  simp only [decide_eq_true_eq] at hout
  rcases hout with hlt | hge
  · refine ⟨(r.1, min r.2.1 lo, r.2.2), List.mem_flatMap.mpr ⟨r, hr, ?_⟩, h1, lt_min h2 hlt⟩
    rw [if_pos (by omega)]
    simp
  · refine ⟨(max r.1 hi, r.2.1, r.2.2), List.mem_flatMap.mpr ⟨r, hr, ?_⟩, max_le h1 hge, h2⟩
    rw [if_pos (show max r.1 hi < r.2.1 by omega)]
    simp

theorem testBit_burnSvn (n svn : Nat) {f j : Nat} (h : f.testBit j = true) : (burnSvn n svn f).testBit j = true := by
  induction n generalizing f with
  | zero => exact h
  | succ n ih =>
    unfold burnSvn
    split
    · exact h
    · split
      · exact h
      · exact ih (by rw [Nat.testBit_or, h, Bool.true_or])

/-- Fuses are burned, and none is cleared. -/
theorem Steady.burn {κ : Bool} {s t : State} {f : Nat} (h : Steady κ s t)
    (hf : ∀ j, t.fuses.testBit j = true → f.testBit j = true) : Steady κ s { t with fuses := f } :=
  ⟨h.pending, h.b0, fun j x => hf j (h.fuses j x),
    fun i => ⟨(h.inv i).mem, (h.inv i).log, fun j x => hf j ((h.inv i).fuses j x), (h.inv i).tap.of rfl⟩, h.hot⟩

/-- Of a pair: a head of its own keeps the kernel from evaluating the pair where its two forms are compared. -/
def SteadySnd {α : Type} (κ : Bool) (s : State) (p : α × State) : Prop := Steady κ s p.2

theorem SteadySnd.ofIte {α : Type} {κ : Bool} {s : State} {p q : α × State} {c : Prop} [Decidable c]
    (h : c → SteadySnd κ s p) (g : ¬c → SteadySnd κ s q) : SteadySnd κ s (if c then p else q) := Steady.ofIteSnd h g

/-- Of a pair that begins with the state. -/
def SteadyFst {α : Type} (κ : Bool) (s : State) (p : State × α) : Prop := Steady κ s p.1

/-- What a power-on reset clears first. -/
theorem Steady.powerOn {κ : Bool} {s t : State} (h : Steady κ s t) (hκ : κ ≠ true) :
    Steady κ s { t with timeBase := 0, log := [], fuses0 := t.fuses, hubHot := false, scanned := false } :=
  ⟨h.pending, h.b0, h.fuses, fun i => ⟨(h.inv i).mem, Nat.zero_le _, fun _ x => x, (h.inv i).tap.of rfl⟩,
    fun e => absurd e hκ⟩

end Sys2Proof.Machine
end

section
/-! What the operations of Sys2Proof/Machine/Hub.lean do to the state keeps the invariants. -/
namespace Sys2Proof.Machine
open Sys2Proof Sys2Proof.Machine.Reg
variable {κ : Bool} {s₀ s : State}

theorem release_steady (f : Frame) (h : Steady κ s₀ s) : Steady κ s₀ (release s f) := by
  unfold release
  extract_lets -underBinder _ _ _ t u
  have ht : Steady κ s₀ t := .ofIte (fun _ => State.addF_steady _ _ _ h) fun _ => h
  have hu : Steady κ s₀ u := .ofIte (fun _ => State.addF_steady _ _ _ ht) fun _ => ht
  exact (publish_steady _ _ (.ofIte (fun _ => logEvent_steady _ _ _ _ _ _ _ hu) fun _ => hu)).upd

theorem publishBefore_steady (k : Nat) (h : Steady κ s₀ s) : Steady κ s₀ (publishBefore s k) := by
  unfold publishBefore
  refine .foldl h fun _ _ ht => ?_
  split
  · exact .ofIte (fun _ => release_steady _ ht) fun _ => ht
  · exact ht

end Sys2Proof.Machine
end

section
/-! What the operations of Sys2Proof/Machine/Bus.lean do to the state keeps the invariants. -/
namespace Sys2Proof.Machine
open Sys2Proof Sys2Proof.Machine.Reg
variable {κ : Bool} {s₀ s : State}

theorem maWithdraw_steady (d g code : Nat) (h : Steady κ s₀ s) : Steady κ s₀ (maWithdraw s d g code) :=
  State.setDie_steady _ _ h

theorem setSref_steady (d c : Nat) (on : Bool) (h : Steady κ s₀ s) : Steady κ s₀ (setSref s d c on) :=
  State.setReg_steady _ _ h

theorem maBegin_steady (d g code : Nat) (h : Steady κ s₀ s) : Steady κ s₀ (maBegin s d g code) := by
  unfold maBegin
  extract_lets -underBinder _ t
  have ht : Steady κ s₀ t := State.setF_steady _ _ _ (State.setF_steady _ _ _ (State.setDie_steady _ _ h))
  split
  · exact State.setF_steady _ _ _ (maWithdraw_steady _ _ _ ht)
  · exact maEnd_steady _ _ (setSref_steady _ _ _ ht)
  · exact State.setF_steady _ _ _ ht
  · exact maEnd_steady _ _ (setSref_steady _ _ _ ht)
  · exact maEnd_steady _ _ (State.addF_steady _ _ _ ht)
  · exact maEnd_steady _ _ ht
  · exact ht

theorem maGrant_steady (d g : Nat) (h : Steady κ s₀ s) : Steady κ s₀ (maGrant s d g) := by
  unfold maGrant
  refine .ofIte (fun _ => h) fun _ => ?_
  split
  · exact h
  · exact maBegin_steady _ _ _ (State.setDie_steady _ _ h)

theorem maGrants_steady (d g : Nat) (h : Steady κ s₀ s) : Steady κ s₀ (maGrants d g s) :=
  .foldl h fun _ _ ht => maGrant_steady _ _ ht

theorem srefChannel_steady (d : Nat) (on : Bool) (c : Nat) (h : Steady κ s₀ s) : Steady κ s₀ (srefChannel d on s c) :=
  .ofIte (fun _ => h) fun _ => maGrants_steady _ _ (maRequest_steady _ _ _ h)

theorem asleep_steady (a len : Nat) {u : State} (h : Steady κ s₀ s) (e : asleep s a len = some u) : Steady κ s₀ u := by
  obtain ⟨g, -, rfl⟩ := Option.map_eq_some_iff.mp e
  exact wakeByAccess_steady _ _ h

theorem awaited_steady {t : State} (h : Steady κ s₀ s) (ht : Steady κ s₀ t) : Steady κ s₀ (awaited s t) := by
  unfold awaited
  split
  · exact wakeByAccess_steady _ _ h
  · exact ht

end Sys2Proof.Machine
end

section
/-! What the operations of Sys2Proof/Machine/Banks.lean do to the state keeps the invariants. -/
namespace Sys2Proof.Machine
open Sys2Proof Sys2Proof.Machine.Reg
variable {κ : Bool} {s₀ s : State}

theorem retentionRequest_steady (d g : Nat) (h : Steady κ s₀ s) : Steady κ s₀ (retentionRequest s d g) :=
  .ofIte (fun _ => h) fun _ => maRequest_steady _ _ _ (State.setF_steady _ _ _ h)

theorem wakeRequest_steady (d g : Nat) (h : Steady κ s₀ s) : Steady κ s₀ (wakeRequest s d g) := by
  unfold wakeRequest
  extract_lets -underBinder _ t
  have ht : Steady κ s₀ t := State.setF_steady _ _ _ h
  exact .ofIte (fun _ => h) fun _ => .ofIte (fun _ => maWithdraw_steady _ _ _ ht) fun _ => maRequest_steady _ _ _ ht

theorem bankCtrlWrite_steady (d g v : Nat) (h : Steady κ s₀ s) : Steady κ s₀ (bankCtrlWrite s d g v) := by
  unfold bankCtrlWrite
  extract_lets -underBinder t
  have ht : Steady κ s₀ t := State.setF_steady _ _ _ h
  exact .ofIte (fun _ => retentionRequest_steady _ _ ht) fun _ => wakeRequest_steady _ _ ht

theorem retentionEntryDone_steady (d g : Nat) (h : Steady κ s₀ s) : Steady κ s₀ (retentionEntryDone s d g) := by
  unfold retentionEntryDone
  refine .ofIte (fun _ => ?_) fun _ => h
  extract_lets -underBinder t
  have ht : Steady κ s₀ t := maEnd_steady _ _ (State.setF_steady _ _ _ h)
  exact .ofIte (fun _ => wakeByAccess_steady _ _ (State.setDie_steady _ _ ht)) fun _ => ht

theorem wakeDone_steady (d g : Nat) (h : Steady κ s₀ s) : Steady κ s₀ (wakeDone s d g) :=
  .ofIte (fun _ => maEnd_steady _ _ (State.setF_steady _ _ _ h)) fun _ => h

theorem sweepClaim_steady (d g : Nat) (h : Steady κ s₀ s) : Steady κ s₀ (sweepClaim s d g) :=
  .ofIte (fun _ => h) fun _ => maRequest_steady _ _ _ (State.setDie_steady _ _ (State.setF_steady _ _ _ h))

theorem regionFails_steady (d g r : Nat) (h : Steady κ s₀ s) : Steady κ s₀ (regionFails s d g r) :=
  .ofIte (fun _ => State.addF_steady _ _ _ (State.setDie_steady _ _ h)) fun _ =>
    logUncorrectable_steady _ _ _ (State.addF_steady _ _ _ (State.setDie_steady _ _ h))

theorem sweepDone_steady (d g : Nat) (pass : Bool) (h : Steady κ s₀ s) : Steady κ s₀ (sweepDone s d g pass) := by
  unfold sweepDone
  refine .ofIte (fun _ => h) fun _ => ?_
  extract_lets -underBinder _ _ t u
  have ht : Steady κ s₀ t := sweepSave_steady _ _ h
  have hu : Steady κ s₀ u := .ofIte (fun _ => ht) fun _ => regionFails_steady _ _ _ ht
  exact maEnd_steady _ _ (State.setF_steady _ _ _ (State.addF_steady _ _ _ hu))

theorem channelDue_steady (d c code : Nat) (h : Steady κ s₀ s) : Steady κ s₀ (channelDue s d c code) :=
  .ofIte (fun _ => h) fun _ => maRequest_steady _ _ _ h

theorem patrolScrub_steady (d c : Nat) (h : Steady κ s₀ s) : Steady κ s₀ (patrolScrub s d c) := by
  unfold patrolScrub
  extract_lets -underBinder _ _ t
  have ht : Steady κ s₀ t := maEnd_steady _ _ (scrubBlock_steady _ _ _ h)
  exact .ofIte (fun _ => .ofIte (fun _ => ht) fun _ => State.setF_steady _ _ _ ht) fun _ => .ofIte (fun _ => h) fun _ =>
      .foldl (State.setDie_steady _ _ h) fun _ _ hu => maRequest_steady _ _ _ hu

theorem mr4Poll_steady (d c rate : Nat) (h : Steady κ s₀ s) : Steady κ s₀ (mr4Poll s d c rate) := by
  unfold mr4Poll
  refine .ofIte (fun _ => h) fun _ => ?_
  extract_lets -underBinder _ t
  have ht : Steady κ s₀ t := State.setReg_steady _ _ h
  exact .ofIte (fun _ => logEvent_steady _ _ _ _ _ _ _ ht) fun _ => ht

end Sys2Proof.Machine
end

section
/-! What the operations of Sys2Proof/Machine/MvrOps.lean do to the state keeps the invariants. -/
namespace Sys2Proof.Machine
open Sys2Proof Sys2Proof.Machine.Reg
variable {κ : Bool} {s₀ s : State}

theorem setPosts_steady (u n : Nat) (l : List (Nat × Bytes)) (h : Steady κ s₀ s) : Steady κ s₀ (setPosts s u n l) :=
  State.setMvr_steady _ _ _ h

theorem landList_steady (u n : Nat) {fail : State → Nat → State} (l : List (Nat × Bytes))
    (hfail : ∀ t a, Steady κ s₀ t → Steady κ s₀ (fail t a)) (h : Steady κ s₀ s) : Steady κ s₀ (landList u n fail l s) := by
  induction l generalizing s with
  | nil => exact setPosts_steady _ _ _ h
  | cons p rest ih =>
    unfold landList
    split
    · rename_i t e
      exact setPosts_steady _ _ _ (asleep_steady _ _ h e)
    · split
      · rename_i t e
        exact ih (hfail _ _ (.ofPair e (memWrite_steady _ _ h)))
      · rename_i t _ e
        exact ih (.ofPair e (memWrite_steady _ _ h))

theorem landPosts_steady (u n : Nat) (h : Steady κ s₀ s) : Steady κ s₀ (landPosts s u n) :=
  landList_steady _ _ _ (fun _ _ ht => logBusError_steady _ ht) h

theorem noteFault_steady (c code info : Nat) (off : Option Nat) (h : Steady κ s₀ s) :
    Steady κ s₀ (noteFault s c code info off) := by
  unfold noteFault
  extract_lets -underBinder _ t u
  have ht : Steady κ s₀ t := State.setF_steady _ _ _ (State.setF_steady _ _ _ h)
  have hu : Steady κ s₀ u := by
    unfold u
    split
    · exact State.setF_steady _ _ _ ht
    · exact ht
  exact .ofIte (fun _ => State.setF_steady _ _ _ h) fun _ => .ofIte (fun _ => hu) fun _ => State.setF_steady _ _ _ hu

theorem mvrHalt_steady (u n cause detail : Nat) (h : Steady κ s₀ s) : Steady κ s₀ (mvrHalt s u n cause detail) := by
  unfold mvrHalt
  extract_lets -underBinder _ t _ _ v t₁ t₂ t₃
  have ht : Steady κ s₀ t := landPosts_steady _ _ h
  have hv : Steady κ s₀ v := .foldl ht fun _ _ ht₄ => State.setReg_steady _ _ ht₄
  have ht₁ : Steady κ s₀ t₁ := by
    unfold t₁
    split
    · exact noteFault_steady _ _ _ _ (logBusError_steady _ hv)
    · exact landList_steady _ _ _ (fun _ _ ht₄ => logBusError_steady _ ht₄) hv
  have ht₂ : Steady κ s₀ t₂ := State.setF_steady _ _ _ (State.setF_steady _ _ _ ht₁)
  have ht₃ : Steady κ s₀ t₃ := State.setF_steady _ _ _ (State.setF_steady _ _ _ (State.setF_steady _ _ _ ht₂))
  exact State.setF_steady _ _ _ (State.setMvr_steady _ _ _ ht₃)

end Sys2Proof.Machine
end

section
/-! What the operations of Sys2Proof/Machine/Recover.lean do to the state keeps the invariants. -/
namespace Sys2Proof.Machine
open Sys2Proof Sys2Proof.Machine.Reg
variable {κ : Bool} {s₀ s : State}

theorem resetRegs_steady (lo hi : Nat) (keep : List Nat) (h : Steady κ s₀ s) : Steady κ s₀ (resetRegs s lo hi keep) :=
  h.upd

theorem sweepGroup_steady (g : Nat × Nat) (images : List Bytes) (h : Steady κ s₀ s) : Steady κ s₀ (sweepGroup s g images) :=
  State.setF_steady _ _ _ (.ofIte (fun _ => State.setF_steady _ _ _ h) fun _ => h)

theorem dropChallenge_steady (h : Steady κ s₀ s) : Steady κ s₀ (dropChallenge s) :=
  State.setF_steady _ _ _ h.upd

theorem fenceReset_steady (c : Nat) (h : Steady κ s₀ s) : Steady κ s₀ (fenceReset s c) := by
  unfold fenceReset
  extract_lets -underBinder _ _ _ t u _ v
  have ht : Steady κ s₀ t := State.setF_steady _ _ _ (resetRegs_steady _ _ _ h)
  have hu : Steady κ s₀ u := .foldl ht fun _ _ ht₁ => State.setReg_steady _ _ ht₁
  have hv : Steady κ s₀ v := State.setCore_steady _ _ hu
  exact .ofIte (fun _ => State.setF_steady _ _ _ hv) fun _ => hv

theorem logCoreFault_steady (c : Nat) (h : Steady κ s₀ s) : Steady κ s₀ (logCoreFault s c) :=
  logEvent_steady _ _ _ _ _ _ _ h

theorem dropWork_steady (c : Nat) (h : Steady κ s₀ s) : Steady κ s₀ (dropWork s c) :=
  State.setCluster_steady _ _ h

theorem keepSeeds_steady (c : Nat) (h : Steady κ s₀ s) : Steady κ s₀ (keepSeeds s c) := by
  unfold keepSeeds
  split
  · exact h
  · exact .foldl h fun _ _ ht => State.setPlan_steady _ _ ht

theorem fenceCore_steady (c : Nat) (h : Steady κ s₀ s) : Steady κ s₀ (fenceCore s c) := by
  unfold fenceCore
  extract_lets -underBinder _ _ v w
  have hv : Steady κ s₀ v := keepSeeds_steady _ (State.setF_steady _ _ _ h)
  have hw : Steady κ s₀ w := fenceReset_steady _ (State.setF_steady _ _ _ (dropWork_steady _ (dropChallenge_steady hv)))
  exact sweepGroup_steady _ _ hw

theorem abortOne_steady (f : Frame) (extra : Nat) (h : Steady κ s₀ s) : Steady κ s₀ (abortOne s f extra) :=
  setFrame_steady _ (publish_steady _ _ (publishBefore_steady _ h))

theorem fifoTrim_steady (k : Nat) (h : Steady κ s₀ s) : Steady κ s₀ (fifoTrim s k) := by
  unfold fifoTrim
  extract_lets -underBinder
  split
  · exact h
  · exact .ofIte (fun _ => h) fun _ => .ofIte (fun _ => State.setFifo_steady _ _ h) fun _ => State.setFifo_steady _ _ h

theorem fifoDrop_steady (k seq : Nat) (h : Steady κ s₀ s) : Steady κ s₀ (fifoDrop s k seq) :=
  fifoTrim_steady _ (State.setFifo_steady _ _ h)

theorem abortPlanFrames_steady (p : Nat) (h : Steady κ s₀ s) : Steady κ s₀ (abortPlanFrames s p).1 :=
  .foldl h fun _ _ ht => (fifoDrop_steady _ _ (abortOne_steady _ _ ht)).upd

theorem emptyFeeder_steady (p : Nat) (h : Steady κ s₀ s) : Steady κ s₀ (emptyFeeder s p) :=
  State.setF_steady _ _ _ (State.setF_steady _ _ _ (State.setFeed_steady _ _ h))

theorem planFault_steady (p cause core a1 : Nat) (h : Steady κ s₀ s) : Steady κ s₀ (planFault s p cause core a1) := by
  unfold planFault
  extract_lets -underBinder _ _ t _ v _ w _ _ t₂ _ _ t₅
  have ht : Steady κ s₀ t := State.setF_steady _ _ _ h
  have hv : Steady κ s₀ v.1 := abortPlanFrames_steady _ (logEvent_steady _ _ _ _ _ _ _ ht)
  have hw : Steady κ s₀ w := .foldl hv fun _ _ ht₆ => State.setCore_steady _ _ (.ofIte (fun _ =>
      State.setF_steady _ _ _ ht₆) fun _ => ht₆)
  have ht₂ : Steady κ s₀ t₂ := State.setPlan_steady _ _ (emptyFeeder_steady _ hw)
  have ht₅ : Steady κ s₀ t₅ := finishAll_steady _ _ (finishAll_steady _ _ ht₂.upd)
  exact .ofIte (fun _ => h) fun _ => .foldl ht₅ fun _ _ ht₆ => .ofIte (fun _ =>
      (State.setStream_steady _ _ ht₆).upd) fun _ => ht₆

/-- The equation is of functions: the kernel compares the two without evaluating the address that the first match looks at. -/
theorem haltChannel_steady (u n cause detail : Nat) (h : Steady κ s₀ s) : Steady κ s₀ (haltChannel s u n cause detail) := by
  rw [show haltChannel = delta% haltChannel from rfl]
  beta_reduce
  extract_lets -underBinder t
  have ht : Steady κ s₀ t := mvrHalt_steady _ _ _ _ h
  split
  · exact ht
  · refine .ofIte (fun _ => ht) fun _ => ?_
    extract_lets -underBinder v
    have hv : Steady κ s₀ v := logCoreFault_steady _ ht
    split
    · exact hv
    · exact planFault_steady _ _ _ _ hv

theorem mvrAbort_steady (u n : Nat) (h : Steady κ s₀ s) : Steady κ s₀ (mvrAbort s u n) :=
  .ofIte (fun _ => h) fun _ => haltChannel_steady _ _ _ _ h

theorem engineIdle_steady (c : Nat) (h : Steady κ s₀ s) : Steady κ s₀ (engineIdle s c) := by
  unfold engineIdle
  extract_lets -underBinder t
  have ht : Steady κ s₀ t := .foldl h fun _ _ hu => State.setF_steady _ _ _ (State.setF_steady _ _ _
      (State.setF_steady _ _ _ hu))
  exact .foldl ht fun _ _ hu => State.setF_steady _ _ _ hu

theorem flushCore_steady (c : Nat) (h : Steady κ s₀ s) : Steady κ s₀ (flushCore s c) := by
  unfold flushCore
  extract_lets -underBinder _ _ t u
  have ht : Steady κ s₀ t := engineIdle_steady _ (dropWork_steady _ h)
  have hu : Steady κ s₀ u := State.setF_steady _ _ _ (State.setF_steady _ _ _ (State.setF_steady _ _ _ ht))
  exact State.setCore_steady _ _ hu

theorem flushPlan_steady (p c : Nat) (later : List Nat) (h : Steady κ s₀ s) : Steady κ s₀ (flushPlan s p c later) := by
  unfold flushPlan
  extract_lets -underBinder t u v
  have ht : Steady κ s₀ t.1 := abortPlanFrames_steady _ h
  have hu : Steady κ s₀ u := .foldl ht fun _ _ ht₁ => flushCore_steady _ ht₁
  have hv : Steady κ s₀ v := .foldl hu fun _ _ ht₁ => mvrAbort_steady _ _ ht₁
  exact State.setPlan_steady _ _ (emptyFeeder_steady _ hv)

theorem dropGroup_steady (p : Nat) (h : Steady κ s₀ s) : Steady κ s₀ (dropGroup s p) := by
  unfold dropGroup
  split
  · exact h
  · extract_lets -underBinder _ t
    have ht : Steady κ s₀ t := State.addF_steady _ _ _ (State.setF_steady _ _ _ h)
    exact .ofIte (fun _ => .ofIte (fun _ => h.upd) fun _ => .ofIte (fun _ => h.upd) fun _ => ht.upd) fun _ => h.upd

theorem takeDetour_steady (p c : Nat) (l : List (Nat × Nat)) (h : Steady κ s₀ s) : Steady κ s₀ (takeDetour s p c l) :=
  State.setPlan_steady _ _ h

theorem startReloc_steady (p c : Nat) (h : Steady κ s₀ s) : Steady κ s₀ (startReloc s p c) := by
  unfold startReloc
  split
  · refine .ofIte (fun _ => State.setPlan_steady _ _ h) fun _ => ?_
    split
    · exact planFault_steady _ _ _ _ h
    · exact State.setPlan_steady _ _ (takeDetour_steady _ _ _ (dropGroup_steady _ h))
  · split
    · exact planFault_steady _ _ _ _ h
    · exact flushPlan_steady _ _ _ (takeDetour_steady _ _ _ (dropGroup_steady _ h))

theorem relocReady_steady (p c : Nat) (h : Steady κ s₀ s) : Steady κ s₀ (relocReady s p c) := by
  unfold relocReady
  split
  · refine .ofIte (fun _ => State.setPlan_steady _ _ h) fun _ => ?_
    split
    · exact planFault_steady _ _ _ _ h
    · exact State.setPlan_steady _ _ (takeDetour_steady _ _ _ (dropGroup_steady _ h))
  · split
    · exact planFault_steady _ _ _ _ h
    · exact State.setPlan_steady _ _ (takeDetour_steady _ _ _ h)

theorem fenceAndMove_steady (c : Nat) (h : Steady κ s₀ s) : Steady κ s₀ (fenceAndMove s c) := by
  unfold fenceAndMove
  extract_lets -underBinder t
  have ht : Steady κ s₀ t := fenceCore_steady _ h
  split
  · exact ht
  · exact .ofIte (fun _ => ht) fun _ => .ofIte (fun _ => relocReady_steady _ _ ht) fun _ => startReloc_steady _ _ ht

theorem faultConsequence_steady (c code : Nat) (h : Steady κ s₀ s) : Steady κ s₀ (faultConsequence s c code) := by
  unfold faultConsequence
  extract_lets -underBinder t
  have ht : Steady κ s₀ t := logCoreFault_steady _ h
  refine .ofIte (fun _ => ?_) fun _ => fenceAndMove_steady _ ht
  split
  · exact ht
  · exact planFault_steady _ _ _ _ ht

theorem abortFrame_steady (slot seq : Nat) (h : Steady κ s₀ s) : Steady κ s₀ (abortFrame s slot seq) := by
  unfold abortFrame
  split
  · exact h
  · exact .ofIte (fun _ => h) fun _ => (abortOne_steady _ _ h).upd

end Sys2Proof.Machine
end

section
/-! What the operations of Sys2Proof/Machine/CoreOps.lean do to the state keeps the invariants. -/
namespace Sys2Proof.Machine
open Sys2Proof Sys2Proof.Machine.Reg
variable {κ : Bool} {s₀ s : State}

theorem coreFault_steady (c code info : Nat) (off : Option Nat) (h : Steady κ s₀ s) :
    Steady κ s₀ (coreFault s c code info off) := by
  unfold coreFault
  extract_lets -underBinder t
  have ht : Steady κ s₀ t := noteFault_steady _ _ _ _ h
  exact .ofIte (fun _ => ht) fun _ => faultConsequence_steady _ _ ht

theorem scratchRead_steady (c : Nat) (off : Int) (len info : Nat) (h : Steady κ s₀ s) :
    Steady κ s₀ (scratchRead s c off len info).2 := by
  unfold scratchRead
  refine .ofIteSnd (fun _ => coreFault_steady _ _ _ _ h) fun _ => ?_
  split
  · rename_i e
    exact .ofPair e (bankRead_steady _ _ h)
  · rename_i u e
    have hu : Steady κ s₀ u := .ofPair e (bankRead_steady _ _ h)
    exact coreFault_steady _ _ _ _ (logUncorrectable_steady _ _ _ hu)

theorem areaRead_steady (c off len info : Nat) (h : Steady κ s₀ s) : Steady κ s₀ (areaRead s c off len info).2 := by
  unfold areaRead
  refine .ofIteSnd (fun _ => coreFault_steady _ _ _ _ h) fun _ => ?_
  split
  · rename_i e
    exact .ofPair e (bankRead_steady _ _ h)
  · rename_i u e
    have hu : Steady κ s₀ u := .ofPair e (bankRead_steady _ _ h)
    exact coreFault_steady _ _ _ _ (logUncorrectable_steady _ _ _ hu)

theorem areaWrite_steady (c off : Nat) (b : Bytes) (info : Nat) (h : Steady κ s₀ s) :
    Steady κ s₀ (areaWrite s c off b info) :=
  .ofIte (fun _ => sramWrite_steady _ _ h) fun _ => coreFault_steady _ _ _ _ h

theorem areaEdit_steady (c off len info : Nat) (f : Nat → Nat) (h : Steady κ s₀ s) :
    Steady κ s₀ (areaEdit s c off len info f) := by
  unfold areaEdit
  split
  · rename_i e
    exact .ofPair e (areaRead_steady _ _ _ _ h)
  · rename_i e
    exact areaWrite_steady _ _ _ _ (.ofPair e (areaRead_steady _ _ _ _ h))

theorem whileRunning_steady {α : Type} {f : State → α → State} (c : Nat) (l : List α)
    (hf : ∀ t a, Steady κ s₀ t → Steady κ s₀ (f t a)) (h : Steady κ s₀ s) : Steady κ s₀ (whileRunning c f s l) :=
  .foldl h fun _ _ ht => .ofIte (fun _ => ht) fun _ => hf _ _ ht

theorem steerWrite_steady (c : Nat) (off : Int) (b : Bytes) (info : Nat) (h : Steady κ s₀ s) :
    Steady κ s₀ (steerWrite s c off b info).2 := by
  unfold steerWrite
  refine .ofIteSnd (fun _ => coreFault_steady _ _ _ _ h) fun _ => ?_
  split
  · rename_i e
    exact .ofPair e (sramMerge_steady _ _ h)
  · rename_i u e
    have hu : Steady κ s₀ u := .ofPair e (sramMerge_steady _ _ h)
    exact coreFault_steady _ _ _ _ (logUncorrectable_steady _ _ _ hu)

theorem scratchWrite_steady (c : Nat) (off : Int) (b : Bytes) (info : Nat) (h : Steady κ s₀ s) :
    Steady κ s₀ (scratchWrite s c off b info).2 :=
  .ofIteSnd (fun _ => coreFault_steady _ _ _ _ h) fun _ => sramWrite_steady _ _ h

theorem resetQueue_steady (c q : Nat) (h : Steady κ s₀ s) : Steady κ s₀ (resetQueue s c q) :=
  State.maxF_steady _ _ _ (State.setHq_steady _ _ _ h)

theorem progress_steady (c : Nat) (h : Steady κ s₀ s) : Steady κ s₀ (progress s c) :=
  State.setCore_steady _ _ h

theorem coreFaults_steady (c : Nat) (l : List (Nat × Nat)) (h : Steady κ s₀ s) : Steady κ s₀ (coreFaults s c l) :=
  .foldl h fun _ _ ht => coreFault_steady _ _ _ _ ht

theorem pushEntry_steady (c q : Nat) (e : BitVec 64) (info : Nat) (h : Steady κ s₀ s) :
    Steady κ s₀ (pushEntry s c q e info) := by
  unfold pushEntry
  extract_lets -underBinder _ _ _ t u
  have ht : Steady κ s₀ t := State.setHq_steady _ _ _ h
  have hu : Steady κ s₀ u := State.maxF_steady _ _ _ (State.addF_steady _ _ _ ht)
  exact .ofIte (fun _ => coreFaults_steady _ _ h) fun _ => progress_steady _ hu

theorem pushQueue_steady (c q : Nat) (e : BitVec 64) (info : Nat) (h : Steady κ s₀ s) :
    Steady κ s₀ (pushQueue s c q e info) :=
  .ofIte (fun _ => .ofIte (fun _ => coreFault_steady _ _ _ _ h) fun _ => State.setCluster_steady _ _ h) fun _ =>
    pushEntry_steady _ _ _ _ h

theorem oseqStep_steady (c t : Nat) (h : Steady κ s₀ s) : Steady κ s₀ (oseqStep s c t) :=
  State.setReg_steady _ _ h

theorem governed_steady (c t typ : Nat) (h : Steady κ s₀ s) : Steady κ s₀ (governed s c t typ) := by
  unfold governed
  refine .ofIte (fun _ => oseqStep_steady _ _ h) fun _ => ?_
  split
  · exact State.setCore_steady _ _ h
  · exact .ofIte (fun _ => h) fun _ => oseqStep_steady _ _ (State.setCore_steady _ _ h)

theorem originate_steady (c typ tag payload : Nat) (h : Steady κ s₀ s) : Steady κ s₀ (originate s c typ tag payload) :=
  State.setCore_steady _ _ h

end Sys2Proof.Machine
end

section
/-! What the operations of Sys2Proof/Machine/Sag.lean do to the state keeps the invariants. -/
namespace Sys2Proof.Machine
open Sys2Proof Sys2Proof.Machine.Reg
variable {κ : Bool} {s₀ s : State}

theorem sagStart_steady (num c n : Nat) (h : Steady κ s₀ s) : Steady κ s₀ (sagStart s num c n) :=
  State.setF_steady _ _ _ (State.setF_steady _ _ _ (State.setSag_steady _ _ _ h))

theorem sagFree_steady (c n : Nat) (h : Steady κ s₀ s) : Steady κ s₀ (sagFree s c n) :=
  State.setF_steady _ _ _ (State.setSag_steady _ _ _ h)

theorem sagFault_steady (c n : Nat) (h : Steady κ s₀ s) : Steady κ s₀ (sagFault s c n) :=
  coreFault_steady _ _ _ _ (State.setSag_steady _ _ _ h)

theorem sendVector_steady (c n tag : Nat) (v : Bytes) (h : Steady κ s₀ s) : Steady κ s₀ (sendVector s c n tag v) :=
  State.setSag_steady _ _ _ (originate_steady _ _ _ _ h)

theorem haloLeave_steady (c n : Nat) (h : Steady κ s₀ s) : Steady κ s₀ (haloLeave s c n) := by
  unfold haloLeave
  split
  · exact h
  · split
    · exact h
    · exact .ofIte (fun _ => sagFree_steady _ _ h) fun _ => h

theorem afterDelivery_steady (c n : Nat) (h : Steady κ s₀ s) : Steady κ s₀ (afterDelivery s c n) := by
  unfold afterDelivery
  split
  · exact h
  · split
    · exact h
    · extract_lets -underBinder _ _ _ _ _ _ u
      have hu : Steady κ s₀ u := State.setSag_steady _ _ _ (State.setSag_steady _ _ _ h)
      refine .ofIte (fun _ => ?_) fun _ => ?_
      · refine .ofIte (fun _ => State.setOp_steady _ _ hu) fun _ => .ofIte (fun _ => ?_) fun _ => h
        split
        · exact h
        · extract_lets -underBinder v
          have hv : Steady κ s₀ v := State.setOp_steady _ _ (sendVector_steady _ _ _ _ h)
          exact .ofIte (fun _ => governed_steady _ _ _ hv) fun _ => hv
      · refine .ofIte (fun _ => ?_) fun _ => h
        split
        · exact h
        · exact .ofIte (fun _ => State.setOp_steady _ _ (sendVector_steady _ _ _ _ h)) fun _ => .ofIte (fun _ =>
              State.setOp_steady _ _ (sendVector_steady _ _ _ _ h)) fun _ => h

theorem afterDeliveries_steady (c n : Nat) (h : Steady κ s₀ s) : Steady κ s₀ (afterDeliveries s c n) :=
  .foldl h fun _ _ ht => afterDelivery_steady _ _ ht

theorem sagAccess_steady (c n : Nat) (addr : Int) (len : Nat) (done : SagSt → SagSt) (emitted : Nat) (h : Steady κ s₀ s) :
    Steady κ s₀ (sagAccess s c n addr len done emitted) := by
  unfold sagAccess
  extract_lets -underBinder _ _ count
  have hcount : ∀ (s : State), Steady κ s₀ s → Steady κ s₀ (count s) := fun _ ht => State.setF_steady _ _ _ ht
  refine .ofIte (fun _ => ?_) fun _ => ?_
  · split
    · rename_i e
      exact .ofPair e (scratchRead_steady _ _ _ _ h)
    · rename_i u e
      have hu : Steady κ s₀ u := .ofPair e (scratchRead_steady _ _ _ _ h)
      exact afterDeliveries_steady _ _ (hcount _ (State.setSag_steady _ _ _ hu))
  · split
    · rename_i e
      exact .ofPair e (scratchWrite_steady _ _ _ _ h)
    · rename_i u e
      have hu : Steady κ s₀ u := .ofPair e (scratchWrite_steady _ _ _ _ h)
      exact haloLeave_steady _ _ (hcount _ (State.setSag_steady _ _ _ hu))

theorem sagStepDescriptor_steady (c n : Nat) (h : Steady κ s₀ s) : Steady κ s₀ (sagStepDescriptor s c n) :=
  .ofIte (fun _ => .ofIte (fun _ => h) fun _ => sagAccess_steady _ _ _ _ _ _ h) fun _ => .ofIte (fun _ => h) fun _ =>
    .ofIte (fun _ => sagAccess_steady _ _ _ _ _ _ h) fun _ => sagAccess_steady _ _ _ _ _ _ h

theorem sagStepProgram_steady (c n : Nat) (h : Steady κ s₀ s) : Steady κ s₀ (sagStepProgram s c n) := by
  unfold sagStepProgram
  extract_lets -underBinder _ _ _ _ t
  have ht : Steady κ s₀ t := sagAccess_steady _ _ _ _ _ _ h
  exact .ofIte (fun _ => h) fun _ => .ofIte (fun _ => h) fun _ => .ofIte (fun _ => sagFault_steady _ _ ht) fun _ => ht

theorem sagStep_steady (c n : Nat) (h : Steady κ s₀ s) : Steady κ s₀ (sagStep s c n) :=
  .ofIte (fun _ => sagStepDescriptor_steady _ _ h) fun _ => .ofIte (fun _ => sagStepProgram_steady _ _ h) fun _ => h

theorem apNext_steady (c n : Nat) (x : SagSt) (pc : Nat) (h : Steady κ s₀ s) : Steady κ s₀ (apNext s c n x pc) := by
  unfold apNext
  extract_lets -underBinder t
  have ht : Steady κ s₀ t := State.setSag_steady _ _ _ h
  exact .ofIte (fun _ => sagFault_steady _ _ ht) fun _ => ht

theorem apSet_steady (c n opc : Nat) (f : SagSt → Nat → BitVec 32) (h : Steady κ s₀ s) : Steady κ s₀ (apSet s c n opc f) :=
  .ofIte (fun _ => apNext_steady _ _ _ _ h) fun _ => h

theorem sagNop_steady (c n : Nat) (h : Steady κ s₀ s) : Steady κ s₀ (sagNop s c n) :=
  .ofIte (fun _ => apNext_steady _ _ _ _ h) fun _ => h

theorem sagSeti_steady (c n : Nat) (h : Steady κ s₀ s) : Steady κ s₀ (sagSeti s c n) :=
  apSet_steady _ _ _ _ h

theorem sagAddi_steady (c n : Nat) (h : Steady κ s₀ s) : Steady κ s₀ (sagAddi s c n) :=
  apSet_steady _ _ _ _ h

theorem sagAdd_steady (c n : Nat) (h : Steady κ s₀ s) : Steady κ s₀ (sagAdd s c n) :=
  apSet_steady _ _ _ _ h

theorem sagModi_steady (c n : Nat) (h : Steady κ s₀ s) : Steady κ s₀ (sagModi s c n) :=
  .ofIte (fun _ => sagFault_steady _ _ h) fun _ => apSet_steady _ _ _ _ h

theorem sagEmit_steady (c n : Nat) (h : Steady κ s₀ s) : Steady κ s₀ (sagEmit s c n) :=
  .ofIte (fun _ => State.setSag_steady _ _ _ h) fun _ => h

theorem sagEmitz_steady (c n : Nat) (h : Steady κ s₀ s) : Steady κ s₀ (sagEmitz s c n) := by
  unfold sagEmitz
  extract_lets -underBinder _ _ _ t u
  have ht : Steady κ s₀ t := State.setSag_steady _ _ _ h
  have hu : Steady κ s₀ u := afterDeliveries_steady _ _ (State.setF_steady _ _ _ ht)
  exact .ofIte (fun _ => .ofIte (fun _ => apNext_steady _ _ _ _ hu) fun _ => .ofIte (fun _ => h) fun _ =>
      apNext_steady _ _ _ _ h) fun _ => h

theorem sagSetc_steady (c n : Nat) (h : Steady κ s₀ s) : Steady κ s₀ (sagSetc s c n) :=
  .ofIte (fun _ => .ofIte (fun _ => sagFault_steady _ _ h) fun _ => apNext_steady _ _ _ _ h) fun _ => h

theorem sagLoop_steady (c n : Nat) (h : Steady κ s₀ s) : Steady κ s₀ (sagLoop s c n) :=
  .ofIte (fun _ => .ofIte (fun _ => sagFault_steady _ _ h) fun _ => .ofIte (fun _ => apNext_steady _ _ _ _ h) fun _ =>
    apNext_steady _ _ _ _ h) fun _ => h

theorem sagJmp_steady (c n : Nat) (h : Steady κ s₀ s) : Steady κ s₀ (sagJmp s c n) :=
  .ofIte (fun _ => apNext_steady _ _ _ _ h) fun _ => h

theorem sagEnd_steady (c n : Nat) (h : Steady κ s₀ s) : Steady κ s₀ (sagEnd s c n) :=
  .ofIte (fun _ => afterDeliveries_steady _ _ (State.setSag_steady _ _ _ h)) fun _ => h

theorem sagReserved_steady (c n : Nat) (h : Steady κ s₀ s) : Steady κ s₀ (sagReserved s c n) :=
  .ofIte (fun _ => sagFault_steady _ _ h) fun _ => h

end Sys2Proof.Machine
end

section
/-! What the operations of Sys2Proof/Machine/Steering.lean do to the state keeps the invariants. -/
namespace Sys2Proof.Machine
open Sys2Proof Sys2Proof.Machine.Reg
variable {κ : Bool} {s₀ s : State}

theorem State.setJoin_steady (c r : Nat) (j : JoinSt) (h : Steady κ s₀ s) : Steady κ s₀ (State.setJoin s c r j) :=
  State.setCore_steady _ _ h

theorem State.setInq_steady (c p : Nat) (l : List Token) (h : Steady κ s₀ s) : Steady κ s₀ (State.setInq s c p l) :=
  State.setCore_steady _ _ h

theorem coreConfigSet_steady (c off v : Nat) (h : Steady κ s₀ s) : Steady κ s₀ (coreConfigSet s c off v) := by
  unfold coreConfigSet
  extract_lets -underBinder t
  have ht : Steady κ s₀ t := State.writeRW_steady _ _ h
  exact .ofIte (fun _ => State.setF_steady _ _ _ ht) fun _ => .ofIte (fun _ => resetQueue_steady _ _ ht) fun _ => ht

theorem coreConfigWrite_steady (c off v : Nat) (h : Steady κ s₀ s) : Steady κ s₀ (coreConfigWrite s c off v) :=
  .ofIte (fun _ => h) fun _ => .ofIte (fun _ => coreConfigSet_steady _ _ _ h) fun _ => State.setF_steady _ _ _ h

theorem engSeedWrite_steady (c e v : Nat) (h : Steady κ s₀ s) : Steady κ s₀ (engSeedWrite s c e v) :=
  .ofIte (fun _ => State.setF_steady _ _ _ h) fun _ => State.setF_steady _ _ _ h

theorem gustMaskWrite_steady (cl ch v : Nat) (h : Steady κ s₀ s) : Steady κ s₀ (gustMaskWrite s cl ch v) :=
  .ofIte (fun _ => State.setF_steady _ _ _ h) fun _ => h

theorem emptyFeeds_steady (c : Nat) (h : Steady κ s₀ s) : Steady κ s₀ (emptyFeeds s c) :=
  .foldl h fun _ _ ht => .ofIte (fun _ => State.setCluster_steady _ _ ht) fun _ => ht

theorem stuFault_steady (c code r : Nat) (h : Steady κ s₀ s) : Steady κ s₀ (stuFault s c code r) :=
  coreFault_steady _ _ _ _ h

theorem giveEngines_steady (c mask : Nat) (f : EngSt → EngSt) (h : Steady κ s₀ s) : Steady κ s₀ (giveEngines s c mask f) :=
  .foldl h fun _ _ ht => State.setEng_steady _ _ _ ht

theorem forwardOut_steady (c r port retag : Nat) (x : Token) {u : State} (h : Steady κ s₀ s)
    (e : forwardOut s c r port retag x = some u) : Steady κ s₀ u := by
  unfold forwardOut at e
  split_ifs at e <;> cases e
  · exact stuFault_steady _ _ _ h
  · exact State.addF_steady _ _ _ (State.setCore_steady _ _ h)

theorem giveSag_steady (c n : Nat) (x : Token) {u : State} (h : Steady κ s₀ s) (e : giveSag s c n x = some u) :
    Steady κ s₀ u := by
  unfold giveSag at e
  extract_lets -underBinder q at e
  split at e
  · cases e
  · extract_lets -underBinder give at e
    have hg : Steady κ s₀ (give s) := State.setSag_steady _ _ _ h
    split at e
    · cases e
      exact hg
    · split_ifs at e
      · split at e <;> cases e
        exact haloLeave_steady _ _ (State.setOp_steady _ _ hg)
      · cases e
        exact hg

theorem storeScale_steady (c n p : Nat) {u : State} (h : Steady κ s₀ s) (e : storeScale s c n p = some u) :
    Steady κ s₀ u := by
  unfold storeScale at e
  split at e
  · cases e
  · split at e <;> cases e
    · exact h
    · exact whileRunning_steady _ _ (fun _ _ ht => steerWrite_steady _ _ _ _ ht) h

theorem fillWrite_steady (c r q : Nat) (ctl t : Token) (i run : Nat) (h : Steady κ s₀ s) :
    Steady κ s₀ (fillWrite s c r q ctl t i run) := by
  unfold fillWrite
  extract_lets -underBinder
  refine .ofIte (fun _ => coreFault_steady _ _ _ _ h) fun _ => ?_
  split
  · rename_i e
    exact .ofPair e (steerWrite_steady _ _ _ _ h)
  · rename_i v e
    have hv : Steady κ s₀ v := .ofPair e (steerWrite_steady _ _ _ _ h)
    exact .ofIte (fun _ => pushQueue_steady _ _ _ _ hv) fun _ => hv

theorem deliver_steady (c r : Nat) (x : Token) {u : State} (h : Steady κ s₀ s) (e : deliver s c r x = some u) :
    Steady κ s₀ u := by
  unfold deliver at e
  dsimp only at e
  split at e
  · split_ifs at e <;> cases e
    · exact giveEngines_steady _ _ _ h
    · exact stuFault_steady _ _ _ h
    · exact giveEngines_steady _ _ _ h
    · exact h
  · split_ifs at e
    · exact storeScale_steady _ _ _ h e
    · cases e
      exact stuFault_steady _ _ _ h
    · exact giveSag_steady _ _ _ h e
    · cases e
      exact h
  · split_ifs at e <;> cases e
    · exact pushQueue_steady _ _ _ _ h
    · exact pushQueue_steady _ _ _ _ h
    · exact h
  · exact forwardOut_steady _ _ _ _ _ h e
  · cases e
    exact .ofIte (fun _ => State.setCore_steady _ _ h) fun _ => h
  · split_ifs at e <;> cases e
    · exact giveEngines_steady _ _ _ h
    · exact stuFault_steady _ _ _ h
    · exact h
  · cases e
    exact h

theorem joinCheck_steady (c r : Nat) (h : Steady κ s₀ s) : Steady κ s₀ (joinCheck s c r) := by
  unfold joinCheck
  extract_lets -underBinder
  split
  · exact .ofIte (fun _ => h) fun _ => stuFault_steady _ _ _ h
  · exact h

theorem tryArm_steady (c r : Nat) (h : Steady κ s₀ s) : Steady κ s₀ (tryArm s c r) := by
  unfold tryArm
  extract_lets -underBinder
  refine .ofIte (fun _ => h) fun _ => .ofIte (fun _ => h) fun _ => ?_
  split
  · exact h
  · refine .ofIte (fun _ => h) fun _ => ?_
    extract_lets -underBinder _ _ t
    have ht : Steady κ s₀ t := State.setJoin_steady _ _ _ h
    exact .ofIte (fun _ => stuFault_steady _ _ _ ht) fun _ => joinCheck_steady _ _ ht

theorem runOver_steady (c r : Nat) (h : Steady κ s₀ s) : Steady κ s₀ (runOver s c r) :=
  tryArm_steady _ _ (State.setF_steady _ _ _ (State.setJoin_steady _ _ _ h))

theorem joinFire_steady (c r : Nat) (h : Steady κ s₀ s) : Steady κ s₀ (joinFire s c r) := by
  unfold joinFire
  extract_lets -underBinder
  refine .ofIte (fun _ => h) fun _ => ?_
  split
  · exact h
  · split
    · split
      · exact h
      · rename_i e₁
        exact State.setJoin_steady _ _ _ (deliver_steady _ _ _ h e₁)
    · split
      · exact h
      · refine .ofIte (fun _ => stuFault_steady _ _ _ h) fun _ => ?_
        extract_lets -underBinder _ take
        have htake : ∀ (u : State), Steady κ s₀ u → Steady κ s₀ (take u) := by
          unfold take
          refine fun _ ht => ?_
          extract_lets -underBinder _ u
          have hu : Steady κ s₀ u := State.setJoin_steady _ _ _ ht
          exact .ofIte (fun _ => hu) fun _ => .ofIte (fun _ => runOver_steady _ _ hu) fun _ => joinCheck_steady _ _ hu
        refine .ofIte (fun _ => ?_) fun _ => ?_
        · split
          · exact h
          · exact htake _ (fillWrite_steady _ _ _ _ _ _ _ h)
        · split
          · exact h
          · rename_i e₂
            exact htake _ (deliver_steady _ _ _ h e₂)

theorem joinHold_steady (c r : Nat) (x : Token) {u : State} (h : Steady κ s₀ s) (e : joinHold s c r x = some u) :
    Steady κ s₀ u := by
  unfold joinHold at e
  dsimp only at e
  have hi : Steady κ s₀ (injected s 0x0B c).2 := injected_steady _ _ h
  split_ifs at e
  any_goals cases e
  · exact joinCheck_steady _ _ (State.setJoin_steady _ _ _ h)
  · exact stuFault_steady _ _ _ hi
  · exact stuFault_steady _ _ _ h
  · exact tryArm_steady _ _ (State.setJoin_steady _ _ _ h)
  · exact stuFault_steady _ _ _ hi
  · exact stuFault_steady _ _ _ h
  · exact tryArm_steady _ _ (State.setJoin_steady _ _ _ h)
  · exact deliver_steady _ _ _ h e

theorem steer_steady (c : Nat) (fromLink : Bool) (x : Token) {u : State} (h : Steady κ s₀ s)
    (e : steer s c fromLink x = some u) : Steady κ s₀ u := by
  unfold steer at e
  extract_lets -underBinder r b dest code typ inj at e
  have hi : Steady κ s₀ inj.2 := .ofIteSnd (fun _ => injected_steady _ _ h) fun _ => h
  split_ifs at e
  any_goals cases e
  · exact stuFault_steady _ _ _ hi
  · exact stuFault_steady _ _ _ h
  · exact stuFault_steady _ _ _ h
  · exact deliver_steady _ _ _ h e
  · exact State.setF_steady _ _ _ h
  · exact stuFault_steady _ _ _ h
  · exact stuFault_steady _ _ _ h
  · exact stuFault_steady _ _ _ h
  · exact stuFault_steady _ _ _ h
  · exact joinHold_steady _ _ _ h e
  · exact deliver_steady _ _ _ h e

theorem tokenSteer_steady (c src : Nat) (h : Steady κ s₀ s) : Steady κ s₀ (tokenSteer s c src) := by
  unfold tokenSteer
  extract_lets -underBinder
  refine .ofIte (fun _ => ?_) fun _ => ?_
  · split
    · exact h
    · refine .ofIte (fun _ => State.setInq_steady _ _ _ h) fun _ => .ofIte (fun _ => h) fun _ => ?_
      split
      · exact h
      · rename_i u e'
        have hu : Steady κ s₀ u := steer_steady _ _ _ h e'
        exact progress_steady _ (State.addF_steady _ _ _ (State.setInq_steady _ _ _ hu))
  · split
    · exact h
    · refine .ofIte (fun _ => h) fun _ => ?_
      split
      · exact h
      · rename_i e'
        extract_lets -underBinder _ v
        have hv : Steady κ s₀ v := State.setCore_steady _ _ (steer_steady _ _ _ h e')
        exact .ofIte (fun _ => State.setCore_steady _ _ hv) fun _ => hv

theorem takeOut_steady (c p : Nat) (h : Steady κ s₀ s) : Steady κ s₀ (takeOut s c p) := by
  unfold takeOut
  split
  · exact State.setCore_steady _ _ h
  · exact h.upd

theorem killLink_steady (c p : Nat) (h : Steady κ s₀ s) : Steady κ s₀ (killLink s c p) := by
  unfold killLink
  extract_lets -underBinder kill
  have hkill : ∀ (t : State) (d q : Nat), Steady κ s₀ t → Steady κ s₀ (kill t d q) := fun _ _ _ ht =>
      State.setCore_steady _ _ ht
  split
  · exact hkill _ _ _ (hkill _ _ _ h)
  · exact hkill _ _ _ h

theorem refuse_steady (c p : Nat) (sender : Option Nat) (h : Steady κ s₀ s) : Steady κ s₀ (refuse s c p sender) := by
  unfold refuse
  extract_lets -underBinder _ _ _ t u
  have ht : Steady κ s₀ t := State.setCore_steady _ _ (State.addF_steady _ _ _ h)
  have hu : Steady κ s₀ u := killLink_steady _ _ ht
  refine .ofIte (fun _ => ht) fun _ => ?_
  split
  · exact .ofIte (fun _ => coreFault_steady _ _ _ _ hu) fun _ => coreFault_steady _ _ _ _ hu
  · exact coreFault_steady _ _ _ _ hu

theorem passDead_steady (c p r : Nat) (h : Steady κ s₀ s) : Steady κ s₀ (passDead s c p r) := by
  unfold passDead
  extract_lets -underBinder o _ t
  have ht : Steady κ s₀ t := logEvent_steady _ _ _ _ _ _ _ h
  clear_value o
  split
  · exact planFault_steady _ _ _ _ ht
  · exact ht

theorem tokenArrive_steady (c p noise : Nat) (h : Steady κ s₀ s) : Steady κ s₀ (tokenArrive s c p noise) := by
  unfold tokenArrive
  refine .ofIte (fun _ => h) fun _ => ?_
  split
  · exact h
  · extract_lets -underBinder _ _ t
    have ht : Steady κ s₀ t.2 := injected_steady _ _ h
    refine .ofIte (fun _ => h) fun _ => .ofIte (fun _ => refuse_steady _ _ _ ht) fun _ => ?_
    split
    · exact refuse_steady _ _ _ h
    · extract_lets -underBinder _ _ v
      have hv : Steady κ s₀ v := State.setCore_steady _ _ (takeOut_steady _ _ h)
      exact .ofIte (fun _ => .ofIte (fun _ => passDead_steady _ _ _ hv) fun _ => State.setCore_steady _ _ hv) fun _ =>
          State.setInq_steady _ _ _ hv

theorem passForward_steady (c p : Nat) (h : Steady κ s₀ s) : Steady κ s₀ (passForward s c p) := by
  unfold passForward
  split
  · exact h
  · exact .ofIte (fun _ => passDead_steady _ _ _ (State.setCore_steady _ _ h)) fun _ => .ofIte (fun _ => h) fun _ =>
        State.setCore_steady _ _ h

theorem gustFeed_steady (cl ch off : Nat) (data : Bytes) (h : Steady κ s₀ s) : Steady κ s₀ (gustFeed s cl ch off data) :=
  .ofIte (fun _ => h) fun _ => State.setCluster_steady _ _ h

theorem gustBeat_steady (cl ch : Nat) (h : Steady κ s₀ s) : Steady κ s₀ (gustBeat s cl ch) := by
  unfold gustBeat
  extract_lets -underBinder
  split
  · exact h
  · extract_lets -underBinder _ t u
    have ht : Steady κ s₀ t := State.setCluster_steady _ _ h
    have hu : Steady κ s₀ u := .foldl ht fun _ _ hv => State.setCore_steady _ _ hv
    exact .ofIte (fun _ => State.addF_steady _ _ _ hu) fun _ => h

end Sys2Proof.Machine
end

section
/-! What the operations of Sys2Proof/Machine/Engine.lean do to the state keeps the invariants. -/
namespace Sys2Proof.Machine
open Sys2Proof Sys2Proof.Machine.Reg
variable {κ : Bool} {s₀ s : State}

theorem fetchEl_steady (c w : Nat) (r : WinRec) (ch : Nat) (iy ix : Int) (h : Steady κ s₀ s) :
    Steady κ s₀ (fetchEl s c w r ch iy ix).2 := by
  unfold fetchEl
  extract_lets -underBinder
  split
  · refine .ofIteSnd (fun _ => coreFault_steady _ _ _ _ h) fun _ => ?_
    extract_lets -underBinder
    split
    · rename_i e₁
      exact .ofPair e₁ (scratchRead_steady _ _ _ _ h)
    · rename_i u e₁
      have hu : Steady κ s₀ u := .ofPair e₁ (scratchRead_steady _ _ _ _ h)
      extract_lets -underBinder
      refine .ofIteSnd (fun _ => ?_) fun _ => hu
      split <;> rename_i e₂ <;> exact .ofPair e₂ (scratchRead_steady _ _ _ _ hu)
  · exact h

theorem fetchAll_steady {α β : Type} {f : State → β → Option α × State} (l : List β)
    (hf : ∀ t b, Steady κ s₀ t → Steady κ s₀ (f t b).2) (h : Steady κ s₀ s) : Steady κ s₀ (fetchAll f s l).2 := by
  induction l generalizing s with
  | nil => exact h
  | cons b l ih =>
    unfold fetchAll
    split
    · rename_i u e
      exact .ofPair e (hf _ _ h)
    · rename_i a u e
      have hl := ih (.ofPair e (hf _ _ h))
      split <;> rename_i e' <;> exact .ofPair e' hl

theorem fetchPositions_steady (c w : Nat) (r : WinRec) (l : List (Option (Nat × Int × Int))) (h : Steady κ s₀ s) :
    Steady κ s₀ (fetchPositions s c w r l).2 := by
  unfold fetchPositions
  refine fetchAll_steady _ (fun _ _ ht => ?_) h
  split
  · exact ht
  · exact fetchEl_steady _ _ _ _ _ _ ht

theorem woVec_steady (c w : Nat) (r : WinRec) (v k c0 ty tx p : Nat) (h : Steady κ s₀ s) :
    Steady κ s₀ (woVec s c w r v k c0 ty tx p).2 := by
  unfold woVec
  extract_lets -underBinder
  split
  · rename_i e
    exact .ofPair e (fetchPositions_steady _ _ _ _ h)
  · rename_i u e
    have hu : Steady κ s₀ u := .ofPair e (fetchPositions_steady _ _ _ _ h)
    exact .ofIteSnd (fun _ => hu) fun _ => hu

theorem foldVector_steady (c e dst : Nat) (o : Op) (pl : VecPlace) (v : ActVec) (h : Steady κ s₀ s) :
    Steady κ s₀ (foldVector s c e dst o pl v) :=
  State.addF_steady _ _ _ (State.addF_steady _ _ _ (State.setEng_steady _ _ _ h))

/-- The state an input vector comes with. -/
def VecSteady (κ : Bool) (s₀ : State) : VecIn → Prop
  | .wait => True
  | .stop t => Steady κ s₀ t
  | .vec _ _ t => Steady κ s₀ t

theorem matmulVec_steady (c e : Nat) (o : Op) (v : Nat) (h : Steady κ s₀ s) : VecSteady κ s₀ (matmulVec s c e o v) := by
  unfold matmulVec
  extract_lets -underBinder
  split_ifs
  · trivial
  · exact State.setEng_steady _ _ _ h
  · split
    · exact h
    · trivial

theorem engVec_steady (c e : Nat) (o : Op) (n i tile vec : Nat) (h : Steady κ s₀ s) :
    VecSteady κ s₀ (engVec s c e o n i tile vec) := by
  unfold engVec
  extract_lets -underBinder w b f k segs r casc order nx pack
  have hpack : ∀ xb p, Steady κ s₀ p.2 → VecSteady κ s₀ (pack xb p) := fun xb p hp => by
    obtain ⟨_ | l, t⟩ := p <;> exact hp
  clear_value pack
  split
  · trivial
  split
  · extract_lets -underBinder
    split_ifs
    · exact h
    · exact hpack _ _ (fetchPositions_steady _ _ _ _ h)
  · extract_lets -underBinder
    split_ifs
    · exact h
    · exact hpack _ _ (fetchPositions_steady _ _ _ _ h)
  · extract_lets -underBinder v ps ch blocks t sl tx
    split_ifs
    · exact h
    · have hv := woVec_steady c w r v k (t / ps.length * k) (r.oy0 / woM v + sl / blocks) tx (ps.getD (t % ps.length) 0) h
      split <;> rename_i e <;> exact .ofPair e hv
  · exact matmulVec_steady _ _ _ _ h

theorem engineVector_steady (c e : Nat) (h : Steady κ s₀ s) : Steady κ s₀ (engineVector s c e) := by
  unfold engineVector
  refine .ofIte (fun _ => h) fun _ => ?_
  split
  · exact h
  rename_i o _
  refine .ofIte (fun _ => h) fun _ => ?_
  extract_lets -underBinder es n i casc x dst pl
  refine .ofIte (fun _ => h) fun _ => .ofIte (fun _ => h) fun _ => .ofIte (fun _ => coreFault_steady _ _ _ _ h) fun _ => ?_
  have hv := engVec_steady c e o n i (x.tile - 1) x.vec h
  split
  · exact h
  · rename_i hq
    rw [hq] at hv
    exact hv
  · rename_i v sat t hq
    rw [hq] at hv
    exact State.setOp_steady _ _ (State.addF_steady _ _ _ (State.addF_steady _ _ _ (State.setEng_steady _ _ _
      (.ofIte (fun _ => hv) fun _ => foldVector_steady _ _ _ _ _ _ hv))))

theorem takeBeat_steady (c e : Nat) (o : Op) (b : Bytes) (h : Steady κ s₀ s) : Steady κ s₀ (takeBeat s c e o b) :=
  .ofIte (fun _ => State.setF_steady _ _ _ (State.setEng_steady _ _ _ h)) fun _ => State.setEng_steady _ _ _ h

theorem shadowBeat_steady (c e : Nat) (h : Steady κ s₀ s) : Steady κ s₀ (shadowBeat s c e) := by
  unfold shadowBeat
  refine .ofIte (fun _ => h) fun _ => ?_
  split
  · exact h
  · refine .ofIte (fun _ => h) fun _ => .ofIte (fun _ => ?_) fun _ => ?_
    · split
      · exact h
      · exact takeBeat_steady _ _ _ _ (State.setCore_steady _ _ h)
    · extract_lets -underBinder
      split
      · exact h
      · exact takeBeat_steady _ _ _ _ (State.setSag_steady _ _ _ h)

theorem shadowSwap_steady (c e : Nat) (h : Steady κ s₀ s) : Steady κ s₀ (shadowSwap s c e) := by
  unfold shadowSwap
  refine .ofIte (fun _ => h) fun _ => ?_
  split
  · exact h
  · extract_lets -underBinder _ _ t
    have ht : Steady κ s₀ t := State.setEng_steady _ _ _ h
    exact .ofIte (fun _ => State.setF_steady _ _ _ (State.setF_steady _ _ _ ht)) fun _ => h

end Sys2Proof.Machine
end

section
/-! What the operations of Sys2Proof/Machine/Ppu.lean do to the state keeps the invariants. -/
namespace Sys2Proof.Machine
open Sys2Proof Sys2Proof.Machine.Reg
variable {κ : Bool} {s₀ s : State}

theorem opFault_steady (c : Nat) (o : Op) (h : Steady κ s₀ s) : Steady κ s₀ (opFault s c o) :=
  coreFault_steady _ _ _ _ h

theorem paramRead_steady (c : Nat) (o : Op) (off len : Nat) (h : Steady κ s₀ s) :
    Steady κ s₀ (paramRead s c o off len).2 := by
  unfold paramRead
  split <;> rename_i e <;> exact .ofPair e (scratchRead_steady _ _ _ _ h)

theorem rescaleEntry_steady (c e : Nat) (o : Op) (ch : Nat) (h : Steady κ s₀ s) : Steady κ s₀ (rescaleEntry s c e o ch).2 :=
  paramRead_steady _ _ _ _ h

theorem kilnLS_steady (c e : Nat) (o : Op) (ch : Nat) (h : Steady κ s₀ s) : Steady κ s₀ (kilnLS s c e o ch).2 := by
  unfold kilnLS
  refine .ofIteSnd (fun _ => h) fun _ => ?_
  split <;> rename_i e' <;> exact .ofPair e' (paramRead_steady _ _ _ _ h)

/-- The reader is given another name before the matches are split: the kernel would evaluate it otherwise. -/
theorem activate_steady (c e : Nat) (o : Op) (act : Nat) (flt : Bool) (v : FV) (h : Steady κ s₀ s) :
    Steady κ s₀ (activate s c e o act flt v).2 := by
  have hp : ∀ t off n, Steady κ s₀ t → Steady κ s₀ (paramRead t c o off n).2 := fun _ _ _ => paramRead_steady _ _ _ _
  show SteadySnd κ s₀ (activate s c e o act flt v)
  rw [show activate = delta% activate by delta activate; rfl]
  obtain ⟨read, hread⟩ : ∃ f, paramRead = f := ⟨_, rfl⟩
  rw [hread] at hp ⊢
  beta_reduce
  split
  · exact h
  · exact h
  · obtain ⟨base, hbase⟩ : ∃ b, 64 * ppuF s c e { PPU_ACT_BASE with off := PPU_ACT_BASE.off + 4 * (act - 2) } = b := ⟨_, rfl⟩
    rw [hbase]
    refine .ofIte (fun _ => opFault_steady _ _ h) fun _ => .ofIte (fun _ => h) fun _ => ?_
    extract_lets -underBinder
    split <;> rename_i e₁
    · exact .ofPair e₁ (hp _ _ _ h)
    · have hu := Steady.ofPair e₁ (hp _ _ _ h)
      split
      · exact opFault_steady _ _ hu
      · extract_lets -underBinder
        split <;> rename_i e₂
        · exact .ofPair e₂ (hp _ _ _ hu)
        · have ht := Steady.ofPair e₂ (hp _ _ _ hu)
          exact .ofIteSnd (fun _ => .ofIteSnd (fun _ => ht) fun _ => ht) fun _ => ht

theorem steps_steady (c e : Nat) (o : Op) (ch : Nat) (a rs : Acc) (h : Steady κ s₀ s) :
    Steady κ s₀ (steps s c e o ch a rs).2 := by
  have hp : ∀ t off n, Steady κ s₀ t → Steady κ s₀ (paramRead t c o off n).2 := fun _ _ _ => paramRead_steady _ _ _ _
  have hr : Steady κ s₀ (rescaleEntry s c e o ch).2 := rescaleEntry_steady _ _ _ _ h
  have hk : ∀ t, Steady κ s₀ t → Steady κ s₀ (kilnLS t c e o ch).2 := fun _ => kilnLS_steady _ _ _ _
  have ha : ∀ t act flt v, Steady κ s₀ t → Steady κ s₀ (activate t c e o act flt v).2 :=
    fun _ _ _ _ => activate_steady _ _ _ _ _ _
  show SteadySnd κ s₀ (steps s c e o ch a rs)
  rw [show steps = delta% steps by delta steps; rfl]
  obtain ⟨read, hread⟩ : ∃ f, paramRead = f := ⟨_, rfl⟩
  obtain ⟨entry, hentry⟩ : ∃ f, rescaleEntry = f := ⟨_, rfl⟩
  obtain ⟨ls, hls⟩ : ∃ f, kilnLS = f := ⟨_, rfl⟩
  obtain ⟨act, hact⟩ : ∃ f, activate = f := ⟨_, rfl⟩
  rw [hread] at hp ⊢
  rw [hentry] at hr ⊢
  rw [hls] at hk ⊢
  rw [hact] at ha ⊢
  beta_reduce
  extract_lets -underBinder
  split <;> rename_i e₁
  · exact .ofPair e₁ hr
  have h₁ := Steady.ofPair e₁ hr
  split <;> rename_i e₂
  · exact .ofPair e₂ (hp _ _ _ h₁)
  have h₂ := Steady.ofPair e₂ (hp _ _ _ h₁)
  split <;> rename_i e₃
  · exact .ofPair e₃ (hk _ h₂)
  have h₃ := Steady.ofPair e₃ (hk _ h₂)
  extract_lets -underBinder
  refine .ofIte (fun _ => opFault_steady _ _ h₃) fun _ => ?_
  split <;> rename_i e₄
  · exact .ofPair e₄ (ha _ _ _ _ h₃)
  have h₄ := Steady.ofPair e₄ (ha _ _ _ _ h₃)
  split <;> rename_i e₅
  · exact .ofPair e₅ (hp _ _ _ h₄)
  have h₅ := Steady.ofPair e₅ (hp _ _ _ h₄)
  split <;> rename_i e₆ <;> exact .ofPair e₆ (hp _ _ _ h₅)

theorem pushCode_steady (c n w code : Nat) (h : Steady κ s₀ s) : Steady κ s₀ (pushCode s c n w code) := by
  unfold pushCode
  extract_lets -underBinder
  refine .ofIte (fun _ => ?_) fun _ => State.setSag_steady _ _ _ h
  split <;> exact State.setSag_steady _ _ _ h

theorem drainRows_steady (c : Nat) (o : Op) (h : Steady κ s₀ s) : Steady κ s₀ (drainRows s c o) := by
  unfold drainRows
  extract_lets -underBinder
  refine .foldl h fun _ _ ht => ?_
  split
  · exact ht
  · extract_lets -underBinder _ _ u v
    have hu : Steady κ s₀ u := State.setEng_steady _ _ _ ht
    have hv : Steady κ s₀ v := .foldl hu fun _ _ hw => pushCode_steady _ _ _ _ hw
    exact .ofIte (fun _ => ht) fun _ => State.setOp_steady _ _ hv

theorem storePlanar_steady (c : Nat) (o : Op) (d : Nat × Nat × Nat × Nat) (code : Nat) (h : Steady κ s₀ s) :
    Steady κ s₀ (storePlanar s c o d code) := by
  unfold storePlanar
  extract_lets -underBinder
  refine .ofIte (fun _ => scratchWrite_steady _ _ _ _ h) fun _ => ?_
  refine .ofIte (fun _ => coreFault_steady _ _ _ _ h) fun _ => ?_
  split
  · rename_i e
    exact .ofPair e (areaRead_steady _ _ _ _ h)
  · rename_i e
    exact scratchWrite_steady _ _ _ _ (.ofPair e (areaRead_steady _ _ _ _ h))

theorem countFlags_steady (c e : Nat) (fl : CFlags) (asat : Nat) (h : Steady κ s₀ s) :
    Steady κ s₀ (countFlags s c e fl asat) := by
  unfold countFlags
  extract_lets -underBinder _ _ t
  have ht : Steady κ s₀ t := State.addF_steady _ _ _ (State.addF_steady _ _ _ h)
  exact State.addF_steady _ _ _ (State.addF_steady _ _ _ (State.addF_steady _ _ _ ht))

theorem sideFlush_steady (c e : Nat) (o : Op) (h : Steady κ s₀ s) : Steady κ s₀ (sideFlush s c e o) := by
  unfold sideFlush
  extract_lets -underBinder _ _ t
  have ht : Steady κ s₀ t := originate_steady _ _ _ _ h
  exact .ofIte (fun _ => h) fun _ => State.setEng_steady _ _ _ (governed_steady _ _ _ ht)

theorem sideByte_steady (c e : Nat) (o : Op) (v : Nat) (h : Steady κ s₀ s) : Steady κ s₀ (sideByte s c e o v) := by
  unfold sideByte
  extract_lets -underBinder _ _ _ _ t
  have ht : Steady κ s₀ t := State.setEng_steady _ _ _ h
  exact .ofIte (fun _ => h) fun _ => .ofIte (fun _ => State.setSag_steady _ _ _ h) fun _ => .ofIte (fun _ =>
      sideFlush_steady _ _ _ ht) fun _ => ht

theorem histBlock_steady (c e info : Nat) (h : Steady κ s₀ s) : Steady κ s₀ (histBlock s c e info).2 := by
  unfold histBlock
  split <;> rename_i e' <;> exact .ofPair e' (areaRead_steady _ _ _ _ h)

theorem histShift_steady (c e ch fmt : Nat) (zp : Int) (info : Nat) (h : Steady κ s₀ s) :
    Steady κ s₀ (histShift s c e ch fmt zp info).2 := by
  unfold histShift
  extract_lets -underBinder
  split
  · rename_i e'
    exact .ofPair e' (histBlock_steady _ _ _ h)
  · rename_i u e'
    have hu : Steady κ s₀ u := .ofPair e' (histBlock_steady _ _ _ h)
    refine .ofIteSnd (fun _ => hu) fun _ => ?_
    split
    · rename_i e₁
      exact .ofPair e₁ (areaRead_steady _ _ _ _ hu)
    · rename_i e₁
      split <;> exact (.ofPair e₁ (areaRead_steady _ _ _ _ hu))

theorem takeRnd_steady (c e : Nat) (rnd : Bool) (h : Steady κ s₀ s) : Steady κ s₀ (takeRnd s c e rnd).2 :=
  .ofIteSnd (fun _ => State.setF_steady _ _ _ h) fun _ => h

theorem freeAcc_steady (c e : Nat) (o : Op) (n : Nat) (el : OutEl) (k : Nat) (h : Steady κ s₀ s) :
    Steady κ s₀ (freeAcc s c e o n el k) :=
  .ofIte (fun _ => .ofIte (fun _ => .foldl h fun _ _ ht => State.setEng_steady _ _ _ ht) fun _ => h) fun _ =>
    .ofIte (fun _ => State.setEng_steady _ _ _ h) fun _ => h

theorem zpEntry_steady (c e : Nat) (o : Op) (ch : Nat) (h : Steady κ s₀ s) : Steady κ s₀ (zpEntry s c e o ch).2 :=
  .ofIteSnd (fun _ => h) fun _ => rescaleEntry_steady _ _ _ _ h

/-- The state a step-6 value comes with. -/
def SixSteady (κ : Bool) (s₀ : State) : Six → Prop
  | .wait => True
  | .stop t => Steady κ s₀ t
  | .val _ _ _ t => Steady κ s₀ t

/-- The state a search for a row's maximum ends with. -/
def MaxSteady (κ : Bool) (s₀ : State) : RowMax → Prop
  | .stop t => Steady κ s₀ t
  | _ => True

/-- The state a choice of shift comes with. -/
def ShiftSteady (κ : Bool) (s₀ : State) : ShiftIn → Prop
  | .wait => True
  | .stop t => Steady κ s₀ t
  | .shift _ _ t => Steady κ s₀ t

theorem poolSix_steady (c : Nat) (o : Op) (ch oy ox : Nat) (h : Steady κ s₀ s) :
    SixSteady κ s₀ (poolSix s c o ch oy ox) := by
  unfold poolSix
  extract_lets -underBinder b w r f global isMax pos real pos' divisor
  have hf := fetchAll_steady pos' (fun t p ht => fetchEl_steady (s := t) c w
    { r with h := if global then max r.h (r.iy0 + r.ihr) else r.h } ch p.1 p.2 ht) h
  split <;> rename_i e <;> exact .ofPair e hf

theorem sampleSix_steady (c w : Nat) (r : WinRec) (za : Int) (ch : Nat) (ty tx : List (Int × Nat)) (h : Steady κ s₀ s) :
    SixSteady κ s₀ (sampleSix s c w r za ch ty tx) := by
  unfold sampleSix
  extract_lets -underBinder taps
  have hf := fetchAll_steady taps (fun t p ht => fetchEl_steady (s := t) c w r ch p.1 p.2.1 ht) h
  split <;> rename_i e <;> exact .ofPair e hf

theorem cropSix_steady (c : Nat) (o : Op) (ch y x bx : Nat) (h : Steady κ s₀ s) :
    SixSteady κ s₀ (cropSix s c o ch y x bx) := by
  unfold cropSix
  extract_lets -underBinder
  split
  · trivial
  · extract_lets -underBinder
    split_ifs
    · exact h
    · exact h
    · exact sampleSix_steady _ _ _ _ _ _ _ h

theorem sixOf_steady (c e : Nat) (o : Op) (n : Nat) (el : OutEl) (h : Steady κ s₀ s) :
    SixSteady κ s₀ (sixOf s c e o n el) := by
  have hp : ∀ ch a rs, Steady κ s₀ (steps s c e o ch a rs).2 := fun _ _ _ => steps_steady _ _ _ _ _ _ h
  rw [show sixOf = delta% sixOf by delta sixOf; rfl]
  obtain ⟨st, hst⟩ : ∃ f, steps = f := ⟨_, rfl⟩
  rw [hst] at hp ⊢
  obtain ⟨out, hout⟩ : ∃ f, woOutput = f := ⟨_, rfl⟩
  obtain ⟨fin, hfin⟩ : ∃ f, finalAcc = f := ⟨_, rfl⟩
  rw [hout, hfin]
  beta_reduce
  extract_lets -underBinder ofSteps
  have hs : ∀ a rs sat, SixSteady κ s₀ (ofSteps a rs sat) := fun a rs sat => by
    unfold ofSteps
    split <;> rename_i q <;> exact .ofPair q (hp _ _ _)
  clear_value ofSteps
  split
  · exact poolSix_steady _ _ _ _ _ h
  · exact sampleSix_steady _ _ _ _ _ _ _ h
  · exact cropSix_steady _ _ _ _ _ _ h
  · split
    · trivial
    · exact hs _ _ _
  · split
    · trivial
    · exact hs _ _ _

theorem maxOver_steady (c e : Nat) (o : Op) (n i k0 m : Nat) (h : Steady κ s₀ s) :
    MaxSteady κ s₀ (maxOver s c e o n i k0 m) := by
  unfold maxOver
  refine List.foldlRecOn _ _ (show MaxSteady κ s₀ (.val _) from trivial) fun acc ha j _ => ?_
  cases acc with
  | wait => exact trivial
  | stop t => exact ha
  | val mx =>
    dsimp only
    split_ifs
    · trivial
    · have hx := sixOf_steady c e o n (outEl s c e o n i (k0 + j)) h
      split
      · trivial
      · rename_i q
        rw [q] at hx
        exact hx
      · trivial

theorem pickShift_steady (c e id : Nat) (first : Bool) {m : RowMax} (f : FV → Int) (hm : MaxSteady κ s₀ m)
    (h : Steady κ s₀ s) :
    ShiftSteady κ s₀ (pickShift s c e id first m f) := by
  cases m with
  | wait => trivial
  | stop t => exact hm
  | val v => exact State.setEng_steady _ _ _ h

theorem chooseShift_steady (c e : Nat) (o : Op) (n i k : Nat) (el : OutEl) (zp : Int) (h : Steady κ s₀ s) :
    ShiftSteady κ s₀ (chooseShift s c e o n i k el zp) := by
  unfold chooseShift
  extract_lets -underBinder f x g id fresh first
  split
  · have hf : ShiftSteady κ s₀ fresh := pickShift_steady _ _ _ _ _ (maxOver_steady _ _ _ _ _ _ _ h) h
    clear_value fresh
    split
    · split_ifs
      · exact h
      · exact hf
    · exact hf
  · split
    · extract_lets -underBinder fresh
      have hf : ShiftSteady κ s₀ fresh := pickShift_steady _ _ _ _ _ (maxOver_steady _ _ _ _ _ _ _ h) h
      clear_value fresh
      split
      · split_ifs
        · exact h
        · exact hf
      · exact hf
    · split
      · exact h
      · have hh := histShift_steady c e el.ch f zp o.pcAt h
        split <;> rename_i q
        · exact .ofPair q hh
        · exact State.setEng_steady _ _ _ (.ofPair q hh)
    · exact h

theorem ppuPipeline_steady (c e : Nat) (o : Op) (n i : Nat) (h : Steady κ s₀ s) : Steady κ s₀ (ppuPipeline s c e o n i) := by
  unfold ppuPipeline
  extract_lets -underBinder w f k el bump ready
  have hb : ∀ t, Steady κ s₀ t → Steady κ s₀ (bump t) := fun t ht => State.setEng_steady _ _ _ ht
  clear_value bump
  refine .ofIte (fun _ => h) fun _ => .ofIte (fun _ => h) fun _ => .ofIte (fun _ =>
      hb _ (freeAcc_steady _ _ _ _ _ _ h)) fun _ => ?_
  have hx := sixOf_steady c e o n el h
  split <;> rename_i q
  · exact h
  · rw [q] at hx
    exact hx
  rename_i v fl asat t
  rw [q] at hx
  have hz := zpEntry_steady c e o el.ch hx
  split <;> rename_i q
  · exact .ofPair q hz
  rename_i re u
  have hu : Steady κ s₀ u := .ofPair q hz
  extract_lets -underBinder zp
  refine .ofIte (fun _ => opFault_steady _ _ hu) fun _ => ?_
  have hc := chooseShift_steady c e o n i k el zp hu
  split <;> rename_i q
  · exact hu
  · rw [q] at hc
    exact hc
  rename_i r first s1
  rw [q] at hc
  extract_lets -underBinder rn cv fl' s2 x s3 s4 s5
  have h2 : Steady κ s₀ s2 := countFlags_steady _ _ _ _ (takeRnd_steady _ _ _ hc)
  have h3 : Steady κ s₀ s3 := State.setEng_steady _ _ _ h2
  have h4 : Steady κ s₀ s4 := .ofIte (fun _ => sideByte_steady _ _ _ _ h3) fun _ => h3
  have h5 : Steady κ s₀ s5 := hb _ (freeAcc_steady _ _ _ _ _ _ h4)
  clear_value s2 s3 s4 s5
  split
  · exact storePlanar_steady _ _ _ _ h5
  · exact drainRows_steady _ _ (State.setEng_steady _ _ _ h5)

theorem finishPlain_steady (c e : Nat) (o : Op) (v : FV) (fl : CFlags) (ex : Int) (ch : Nat) (first : Bool)
    (h : Steady κ s₀ s) : Steady κ s₀ (finishPlain s c e o v fl ex ch first).2 := by
  unfold finishPlain
  extract_lets -underBinder _ _ t _ _ _ _ _ _ t₁
  have ht : Steady κ s₀ t.2 := takeRnd_steady _ _ _ h
  have ht₁ : Steady κ s₀ t₁ := State.setEng_steady _ _ _ (countFlags_steady _ _ _ _ ht)
  exact .ofIte (fun _ => .ofIte (fun _ => sideByte_steady _ _ _ _ ht₁) fun _ => ht₁) fun _ => .ofIte (fun _ =>
      sideByte_steady _ _ _ _ ht₁) fun _ => ht₁

theorem ppuEltwise_steady (c e : Nat) (o : Op) (n i : Nat) (h : Steady κ s₀ s) : Steady κ s₀ (ppuEltwise s c e o n i) := by
  unfold ppuEltwise
  extract_lets -underBinder
  refine .ofIte (fun _ => h) fun _ => ?_
  split
  · exact h
  · extract_lets -underBinder _ m
    clear_value m
    split
    · exact h
    · extract_lets -underBinder t _ t₁
      have ht : Steady κ s₀ t.2 := finishPlain_steady _ _ _ _ _ _ _ _ h
      have ht₁ : Steady κ s₀ t₁ := State.setOp_steady _ _ (pushCode_steady _ _ _ _ ht)
      exact .ofIte (fun _ => pushCode_steady _ _ _ _ ht₁) fun _ => ht₁

theorem reduceOut_steady (c e : Nat) (o : Op) (h : Steady κ s₀ s) : Steady κ s₀ (reduceOut s c e o) :=
  State.setOp_steady _ _ (.foldl h fun _ _ ht => pushCode_steady _ _ _ _ (finishPlain_steady _ _ _ _ _ _ _ _ ht))

theorem finishIndex_steady (c e : Nat) (o : Op) (h : Steady κ s₀ s) : Steady κ s₀ (finishIndex s c e o) := by
  unfold finishIndex
  extract_lets -underBinder _ t
  have ht : Steady κ s₀ t := State.setEng_steady _ _ _ h
  exact .ofIte (fun _ => sideByte_steady _ _ _ _ ht) fun _ => ht

theorem ppuReduce_steady (c e : Nat) (o : Op) (n i : Nat) (h : Steady κ s₀ s) : Steady κ s₀ (ppuReduce s c e o n i) := by
  unfold ppuReduce
  extract_lets -underBinder
  refine .ofIte (fun _ => h) fun _ => ?_
  split
  · exact h
  · extract_lets -underBinder _ _ _ _ _ _ _ _ _ _ t₁ t₂
    have ht₁ : Steady κ s₀ t₁ := State.setOp_steady _ _ h
    have ht₂ : Steady κ s₀ t₂ := reduceOut_steady _ _ _ ht₁
    exact .ofIte (fun _ => State.setOp_steady _ _ h) fun _ => .ofIte (fun _ =>
        pushCode_steady _ _ _ _ (finishIndex_steady _ _ _ (State.setOp_steady _ _ h))) fun _ => .ofIte (fun _ =>
        ht₁) fun _ => .ofIte (fun _ => pushCode_steady _ _ _ _ ht₂) fun _ => ht₂

theorem ppuKiln_steady (c e : Nat) (o : Op) (i : Nat) (h : Steady κ s₀ s) : Steady κ s₀ (ppuKiln s c e o i) := by
  unfold ppuKiln
  extract_lets -underBinder
  refine .ofIte (fun _ => h) fun _ => ?_
  split
  · extract_lets -underBinder
    refine .ofIte (fun _ => coreFault_steady _ _ _ _ h) fun _ => ?_
    split
    · rename_i e₂
      exact .ofPair e₂ (rescaleEntry_steady _ _ _ _ h)
    · rename_i e₂
      exact State.setOp_steady _ _ (.ofPair e₂ (rescaleEntry_steady _ _ _ _ h))
  · exact h

theorem kilnDone_steady (c : Nat) (h : Steady κ s₀ s) : Steady κ s₀ (kilnDone s c) := by
  unfold kilnDone
  split
  · exact h
  · split
    · exact h
    · exact .ofIte (fun _ => h) fun _ => State.setPlan_steady _ _ h

theorem kilnStandby_steady (c info b st rOld bOld rNew bNew j : Nat) (h : Steady κ s₀ s) :
    Steady κ s₀ (kilnStandby s c info b st rOld bOld rNew bNew j) := by
  unfold kilnStandby
  split
  · rename_i e
    exact .ofPair e (areaRead_steady _ _ _ _ h)
  · rename_i u e
    have hu : Steady κ s₀ u := .ofPair e (areaRead_steady _ _ _ _ h)
    split
    · rename_i e'
      exact .ofPair e' (areaRead_steady _ _ _ _ hu)
    · rename_i w e'
      have hw : Steady κ s₀ w := .ofPair e' (areaRead_steady _ _ _ _ hu)
      split
      · rename_i e₁
        exact .ofPair e₁ (areaRead_steady _ _ _ _ hw)
      · rename_i e₁
        extract_lets -underBinder t₃
        have ht₃ : Steady κ s₀ t₃ := areaWrite_steady _ _ _ _ (.ofPair e₁ (areaRead_steady _ _ _ _ hw))
        exact .ofIte (fun _ => ht₃) fun _ => areaWrite_steady _ _ _ _ ht₃

theorem kilnFinish_steady (c e : Nat) (o : Op) (h : Steady κ s₀ s) : Steady κ s₀ (kilnFinish s c e o) := by
  unfold kilnFinish
  extract_lets -underBinder
  split
  · rename_i e'
    exact .ofPair e' (areaRead_steady _ _ _ _ h)
  · rename_i u e'
    have hu : Steady κ s₀ u := .ofPair e' (areaRead_steady _ _ _ _ h)
    extract_lets -underBinder _ _ _ v w _ _ _ t₁
    have hv : Steady κ s₀ v := whileRunning_steady _ _ (fun _ _ ht₂ => .ofIte (fun _ => ht₂) fun _ => .ofIte (fun _ =>
        State.addF_steady _ _ _ ht₂) fun _ => areaEdit_steady _ _ _ _ _ ht₂) hu
    have hw : Steady κ s₀ w := areaWrite_steady _ _ _ _ hv
    have ht₁ : Steady κ s₀ t₁ := whileRunning_steady _ _ (fun _ _ ht₂ => kilnStandby_steady _ _ _ _ _ _ _ _ _ ht₂) hw
    exact .ofIte (fun _ => hu) fun _ => .ofIte (fun _ => hv) fun _ => .ofIte (fun _ => hw) fun _ => .ofIte (fun _ =>
        ht₁) fun _ => kilnDone_steady _ ht₁

theorem ppuElement_steady (c e : Nat) (h : Steady κ s₀ s) : Steady κ s₀ (ppuElement s c e) := by
  unfold ppuElement
  refine .ofIte (fun _ => h) fun _ => ?_
  split
  · exact h
  · extract_lets -underBinder
    split
    · exact ppuEltwise_steady _ _ _ _ _ h
    · exact ppuReduce_steady _ _ _ _ _ h
    · exact ppuKiln_steady _ _ _ _ h
    · exact h
    · exact ppuPipeline_steady _ _ _ _ _ h

end Sys2Proof.Machine
end

section
/-! What the operations of Sys2Proof/Machine/Sequencer.lean do to the state keeps the invariants. -/
namespace Sys2Proof.Machine
open Sys2Proof Sys2Proof.Machine.Reg
variable {κ : Bool} {s₀ s : State}

theorem seqFault_steady (c code : Nat) (h : Steady κ s₀ s) : Steady κ s₀ (seqFault s c code) :=
  coreFault_steady _ _ _ _ h

theorem goTo_steady (c pc : Nat) (h : Steady κ s₀ s) : Steady κ s₀ (goTo s c pc) := by
  unfold goTo
  extract_lets -underBinder _ t
  have ht : Steady κ s₀ t := progress_steady _ (State.setF_steady _ _ _ (State.setF_steady _ _ _ h))
  exact State.setCore_steady _ _ ht

theorem claim_steady (c w : Nat) (block : Bytes) (h : Steady κ s₀ s) : Steady κ s₀ (claim s c w block) := by
  unfold claim
  extract_lets -underBinder _ _ _ _ t u v
  have ht : Steady κ s₀ t := State.setCore_steady _ _ h
  have hu : Steady κ s₀ u := .foldl ht fun _ _ ht₁ => sagStart_steady _ _ _ ht₁
  have hv : Steady κ s₀ v := by
    unfold v
    refine .ofIte (fun _ => (.foldl hu fun _ _ ht₁ => ?_)) fun _ => hu
    extract_lets -underBinder _ t₂ _ t₃ t₄
    have ht₂ : Steady κ s₀ t₂ := State.setEng_steady _ _ _ ht₁
    have ht₃ : Steady κ s₀ t₃ := State.setF_steady _ _ _ (State.setF_steady _ _ _ ht₂)
    have ht₄ : Steady κ s₀ t₄ := State.setF_steady _ _ _ (State.setF_steady _ _ _ (State.setF_steady _ _ _ ht₃))
    exact State.setF_steady _ _ _ ht₄
  exact State.setF_steady _ _ _ (State.setF_steady _ _ _ hv)

theorem readBlock_steady (c w : Nat) (h : Steady κ s₀ s) : Steady κ s₀ (readBlock s c w).2 :=
  scratchRead_steady _ _ _ _ h

theorem issue_steady (c opc : Nat) (hasBlock : Bool) (h : Steady κ s₀ s) : Steady κ s₀ (issue s c opc hasBlock) := by
  unfold issue
  extract_lets -underBinder
  refine .ofIte (fun _ => h) fun _ => ?_
  refine .ofIte (fun _ => seqFault_steady _ _ h) fun _ => .ofIte (fun _ => h) fun _ => ?_
  split
  · rename_i e
    exact .ofPair e (.ofIteSnd (fun _ => readBlock_steady _ _ h) fun _ => h)
  · rename_i u e
    have hu : Steady κ s₀ u := .ofPair e (.ofIteSnd (fun _ => readBlock_steady _ _ h) fun _ => h)
    exact .ofIte (fun _ => claim_steady _ _ _ hu) fun _ => coreFaults_steady _ _ hu

theorem copyControl_steady (c : Nat) (h : Steady κ s₀ s) : Steady κ s₀ (copyControl s c) := by
  unfold copyControl
  split
  · exact h
  · extract_lets -underBinder
    refine .ofIte (fun _ => h) fun _ => ?_
    split
    · exact h
    · extract_lets -underBinder _ _ _ u
      have hu : Steady κ s₀ u := State.setOp_steady _ _ (originate_steady _ _ _ _ h)
      exact .ofIte (fun _ => hu) fun _ => State.setHq_steady _ _ _ hu

theorem issueCopy_steady (c : Nat) (h : Steady κ s₀ s) : Steady κ s₀ (issueCopy s c) := by
  unfold issueCopy
  extract_lets -underBinder t
  have ht : Steady κ s₀ t := issue_steady _ _ _ h
  exact .ofIte (fun _ => copyControl_steady _ ht) fun _ => ht

theorem releaseStream_steady (c slot : Nat) (h : Steady κ s₀ s) : Steady κ s₀ (releaseStream s c slot) := by
  unfold releaseStream
  refine whileRunning_steady _ _ (fun _ _ ht => (.ofIte (fun _ => ht) fun _ => ?_)) h
  extract_lets -underBinder
  split
  · rename_i e
    exact .ofPair e (areaRead_steady _ _ _ _ ht)
  · rename_i v e
    have hv : Steady κ s₀ v := .ofPair e (areaRead_steady _ _ _ _ ht)
    extract_lets -underBinder _ _ w
    have hw : Steady κ s₀ w := whileRunning_steady _ _ (fun _ _ ht₁ => areaEdit_steady _ _ _ _ _ ht₁) hv
    exact .ofIte (fun _ => hv) fun _ => .ofIte (fun _ => hw) fun _ => areaWrite_steady _ _ _ _ hw

theorem eofHandle_steady (c slot seq : Nat) (h : Steady κ s₀ s) : Steady κ s₀ (eofHandle s c slot seq) := by
  unfold eofHandle
  extract_lets -underBinder t
  have ht : Steady κ s₀ t := releaseStream_steady _ _ h
  exact .ofIte (fun _ => ht) fun _ => .foldl ht fun _ _ hu => .ofIte (fun _ => originate_steady _ _ _ _ hu) fun _ => hu

theorem loadFrame_steady (c e : Nat) (h : Steady κ s₀ s) : Steady κ s₀ (loadFrame s c e) := by
  unfold loadFrame
  extract_lets -underBinder _ t u v
  have ht : Steady κ s₀ t := State.setF_steady _ _ _ (State.setF_steady _ _ _ h)
  have hu : Steady κ s₀ u := State.setF_steady _ _ _ ht
  have hv : Steady κ s₀ v := .foldl hu fun _ _ ht₁ => State.setF_steady _ _ _ (State.setEng_steady _ _ _ ht₁)
  exact State.setCore_steady _ _ hv

theorem seqWait_steady (c : Nat) (h : Steady κ s₀ s) : Steady κ s₀ (seqWait s c) := by
  unfold seqWait
  extract_lets -underBinder
  refine .ofIte (fun _ => h) fun _ => .ofIte (fun _ => seqFault_steady _ _ h) fun _ => ?_
  refine .ofIte (fun _ => h) fun _ => .ofIte (fun _ => seqFault_steady _ _ h) fun _ => ?_
  split
  · exact State.setF_steady _ _ _ h
  · extract_lets -underBinder t u _ v
    have ht : Steady κ s₀ t := State.addF_steady _ _ _ (State.setHq_steady _ _ _ h)
    have hu : Steady κ s₀ u := .ofIte (fun _ => eofHandle_steady _ _ _ ht) fun _ => ht
    have hv : Steady κ s₀ v := State.setHq_steady _ _ _ ht
    exact .ofIte (fun _ => .ofIte (fun _ => hu) fun _ => progress_steady _ (State.setF_steady _ _ _ hu)) fun _ =>
        goTo_steady _ _ (.ofIte (fun _ => loadFrame_steady _ _ hv) fun _ => hv)

theorem seqSignal_steady (c : Nat) (h : Steady κ s₀ s) : Steady κ s₀ (seqSignal s c) := by
  unfold seqSignal
  extract_lets -underBinder
  refine .ofIte (fun _ => h) fun _ => ?_
  refine .ofIte (fun _ => seqFault_steady _ _ h) fun _ => .ofIte (fun _ => h) fun _ => ?_
  split
  · exact seqFault_steady _ _ h
  · exact goTo_steady _ _ (State.setHq_steady _ _ _ (originate_steady _ _ _ _ h))

theorem seqRelease_steady (c : Nat) (h : Steady κ s₀ s) : Steady κ s₀ (seqRelease s c) := by
  unfold seqRelease
  extract_lets -underBinder
  refine .ofIte (fun _ => h) fun _ => ?_
  refine .ofIte (fun _ => seqFault_steady _ _ h) fun _ => .ofIte (fun _ => h) fun _ => ?_
  split
  · exact seqFault_steady _ _ h
  · extract_lets -underBinder _ clear _ t
    have hclear : ∀ (t : State), Steady κ s₀ t → Steady κ s₀ (clear t) := fun _ hu => State.setHq_steady _ _ _ hu
    have ht : Steady κ s₀ t := State.setCluster_steady _ _ h
    exact .ofIte (fun _ => .ofIte (fun _ => seqFault_steady _ _ h) fun _ => goTo_steady _ _ (hclear _ ht)) fun _ =>
        goTo_steady _ _ (hclear _ (originate_steady _ _ _ _ h))

theorem seqLoop_steady (c : Nat) (h : Steady κ s₀ s) : Steady κ s₀ (seqLoop s c) :=
  .ofIte (fun _ => h) fun _ => .ofIte (fun _ => seqFault_steady _ _ h) fun _ => .ofIte (fun _ => h) fun _ =>
    .ofIte (fun _ => goTo_steady _ _ (State.setCore_steady _ _ h)) fun _ => goTo_steady _ _ (State.setCore_steady _ _ h)

theorem seqGo_steady (c opc target : Nat) (h : Steady κ s₀ s) : Steady κ s₀ (seqGo s c opc target) :=
  .ofIte (fun _ => h) fun _ => .ofIte (fun _ => seqFault_steady _ _ h) fun _ => .ofIte (fun _ => h) fun _ =>
    goTo_steady _ _ h

theorem seqBarrier_steady (c : Nat) (h : Steady κ s₀ s) : Steady κ s₀ (seqBarrier s c) :=
  .ofIte (fun _ => h) fun _ => .ofIte (fun _ => seqFault_steady _ _ h) fun _ => .ofIte (fun _ => h) fun _ =>
    goTo_steady _ _ h

theorem channelRecords_steady (c e ch : Nat) (st : ChStat) (h : Steady κ s₀ s) :
    Steady κ s₀ (channelRecords s c e ch st) := by
  unfold channelRecords
  extract_lets -underBinder _ _ t
  have ht : Steady κ s₀ t := areaWrite_steady _ _ _ _ h
  refine .ofIte (fun _ => ht) fun _ => ?_
  split
  · rename_i e'
    exact .ofPair e' (histBlock_steady _ _ _ ht)
  · rename_i v e'
    have hv : Steady κ s₀ v := .ofPair e' (histBlock_steady _ _ _ ht)
    exact .ofIte (fun _ => hv) fun _ => areaEdit_steady _ _ _ _ _ hv

theorem ppuFrameEnd_steady (c e : Nat) (h : Steady κ s₀ s) : Steady κ s₀ (ppuFrameEnd s c e) := by
  unfold ppuFrameEnd
  extract_lets -underBinder _ t _ _ _ u
  have ht : Steady κ s₀ t := .ofIte (fun _ => h) fun _ => whileRunning_steady _ _ (fun _ _ hw =>
      channelRecords_steady _ _ _ _ hw) h
  have hu : Steady κ s₀ u := State.setF_steady _ _ _ (State.setF_steady _ _ _ ht)
  exact .ofIte (fun _ => ht) fun _ => State.setCore_steady _ _ (State.setF_steady _ _ _ hu)

theorem seqEnd_steady (c : Nat) (h : Steady κ s₀ s) : Steady κ s₀ (seqEnd s c) := by
  unfold seqEnd
  extract_lets -underBinder _ _ _ _ _ t _ _ _ v t₁ _ t₃
  have ht : Steady κ s₀ t := whileRunning_steady _ _ (fun _ _ ht₄ => ppuFrameEnd_steady _ _ ht₄) h
  have hv : Steady κ s₀ v := State.setCore_steady _ _ (.ofIte (fun _ => ht.upd) fun _ => ht)
  have ht₁ : Steady κ s₀ t₁ := .foldl hv fun _ _ ht₄ => State.setEng_steady _ _ _ ht₄
  have ht₃ : Steady κ s₀ t₃ := goTo_steady _ _ (State.setF_steady _ _ _ (State.addF_steady _ _ _ ht₁))
  exact .ofIte (fun _ => h) fun _ => .ofIte (fun _ => seqFault_steady _ _ h) fun _ => .ofIte (fun _ => h) fun _ =>
      .ofIte (fun _ => ht) fun _ => State.setF_steady _ _ _ ht₃

theorem seqReserved_steady (c : Nat) (h : Steady κ s₀ s) : Steady κ s₀ (seqReserved s c) :=
  .ofIte (fun _ => seqFault_steady _ _ h) fun _ => h

theorem retire_steady (c : Nat) (o : Op) (h : Steady κ s₀ s) : Steady κ s₀ (retire s c o) := by
  unfold retire
  extract_lets -underBinder _ t u
  have ht : Steady κ s₀ t := .ofIte (fun _ => .foldl h fun _ _ hv =>
      State.setF_steady _ _ _ (sideFlush_steady _ _ _ hv)) fun _ => h
  have hu : Steady κ s₀ u := .foldl ht fun _ _ hv => .ofIte (fun _ => sagFree_steady _ _ hv) fun _ => hv
  exact State.setCore_steady _ _ hu

theorem opComplete_steady (c k : Nat) (h : Steady κ s₀ s) : Steady κ s₀ (opComplete s c k) := by
  unfold opComplete
  split
  · exact h
  · refine .ofIte (fun _ => h) fun _ => ?_
    extract_lets -underBinder _ t
    have ht : Steady κ s₀ t := .ofIte (fun _ => kilnFinish_steady _ _ _ h) fun _ => h
    exact .ofIte (fun _ => ht) fun _ => retire_steady _ _ ht

theorem seqEof_steady (c : Nat) (h : Steady κ s₀ s) : Steady κ s₀ (seqEof s c) := by
  unfold seqEof
  extract_lets -underBinder
  split
  · exact h
  · exact .ofIte (fun _ => h) fun _ => eofHandle_steady _ _ _ (State.setCore_steady _ _ h)

theorem watchdogTick_steady (c : Nat) (h : Steady κ s₀ s) : Steady κ s₀ (watchdogTick s c) := by
  unfold watchdogTick
  extract_lets -underBinder _ _ t _ u
  have ht : Steady κ s₀ t.2 := injected_steady _ _ h
  have hu : Steady κ s₀ u := State.setCore_steady _ _ h
  exact .ofIte (fun _ => h) fun _ => .ofIte (fun _ => h) fun _ => .ofIte (fun _ => coreFault_steady _ _ _ _ ht) fun _ =>
      .ofIte (fun _ => coreFault_steady _ _ _ _ hu) fun _ => hu

theorem regroupStep_steady (c : Nat) (o : Op) (h : Steady κ s₀ s) : Steady κ s₀ (regroupStep s c o) := by
  unfold regroupStep
  extract_lets -underBinder _ _ _ _ _ _ _ _ _ _ t
  have ht : Steady κ s₀ t.2 := .ofIteSnd (fun _ => h) fun _ => fetchEl_steady _ _ _ _ _ _ h
  refine .ofIte (fun _ => h) fun _ => ?_
  clear_value t
  split
  · exact ht
  · rename_i u
    have hu : Steady κ s₀ u := ht
    exact .ofIte (fun _ => coreFault_steady _ _ _ _ hu) fun _ => State.setOp_steady _ _ (storePlanar_steady _ _ _ _ hu)

theorem sagStepAny_steady (c n : Nat) (h : Steady κ s₀ s) : Steady κ s₀ (sagStepAny s c n) := by
  unfold sagStepAny
  split
  · exact h
  · split
    · exact sagStep_steady _ _ h
    · exact .ofIte (fun _ => .ofIte (fun _ => h) fun _ => regroupStep_steady _ _ h) fun _ => .ofIte (fun _ =>
          sagStep_steady _ _ h) fun _ => h

theorem onProgram_steady (c n : Nat) (f : State → Nat → Nat → State)
    (hf : ∀ (a : State) (a_1 a_2 : Nat), Steady κ s₀ a → Steady κ s₀ (f a a_1 a_2)) (h : Steady κ s₀ s) :
    Steady κ s₀ (onProgram s c n f) := by
  unfold onProgram
  split
  · exact .ofIte (fun _ => hf _ _ _ h) fun _ => h
  · exact hf _ _ _ h

end Sys2Proof.Machine
end

section
/-! What the operations of Sys2Proof/Machine/Relation.lean do to the state keeps the invariants. -/
namespace Sys2Proof.Machine
open Sys2Proof Sys2Proof.Machine.Reg
variable {κ : Bool} {s₀ s : State}

theorem relIssue_steady (c opc : Nat) (h : Steady κ s₀ s) : Steady κ s₀ (relIssue s c opc) := by
  unfold relIssue
  extract_lets -underBinder
  refine .ofIte (fun _ => h) fun _ => ?_
  refine .ofIte (fun _ => seqFault_steady _ _ h) fun _ => .ofIte (fun _ => h) fun _ => ?_
  split
  · rename_i e
    exact .ofPair e (readBlock_steady _ _ h)
  · rename_i u e
    have hu : Steady κ s₀ u := .ofPair e (readBlock_steady _ _ h)
    exact .ofIte (fun _ => State.setCluster_steady _ _ hu) fun _ => coreFaults_steady _ _ hu

theorem rluAccept_steady (cl : Nat) (h : Steady κ s₀ s) : Steady κ s₀ (rluAccept s cl) := by
  unfold rluAccept
  extract_lets -underBinder
  split
  · exact h
  · exact .ofIte (fun _ => State.setCluster_steady _ _ h) fun _ => .ofIte (fun _ => h) fun _ =>
        claim_steady _ _ _ (State.setCluster_steady _ _ h)

theorem State.setRop_steady (cl : Nat) (r : RluOp) (h : Steady κ s₀ s) : Steady κ s₀ (State.setRop s cl r) :=
  State.setCluster_steady _ _ h

theorem relRead_steady (r : RluOp) (a len : Nat) (h : Steady κ s₀ s) : Steady κ s₀ (relRead s r a len).2 := by
  unfold relRead
  split
  · exact coreFault_steady _ _ _ _ h
  · split
    · rename_i e'
      exact .ofPair e' (memRead_steady _ _ h)
    · rename_i e'
      exact logBusError_steady _ (.ofPair e' (memRead_steady _ _ h))
    · rename_i u e'
      have hu : Steady κ s₀ u := .ofPair e' (memRead_steady _ _ h)
      exact coreFault_steady _ _ _ _ (logUncorrectable_steady _ _ _ hu)

theorem relWrite_steady (r : RluOp) (a : Nat) (v : Bytes) (h : Steady κ s₀ s) : Steady κ s₀ (relWrite s r a v) := by
  unfold relWrite
  split
  · exact coreFault_steady _ _ _ _ h
  · split
    · rename_i e'
      exact .ofPair e' (memWrite_steady _ _ h)
    · rename_i e'
      exact logBusError_steady _ (.ofPair e' (memWrite_steady _ _ h))
    · rename_i u e'
      have hu : Steady κ s₀ u := .ofPair e' (memWrite_steady _ _ h)
      exact coreFault_steady _ _ _ _ (logUncorrectable_steady _ _ _ hu)

theorem relBlock_steady (r : RluOp) (h : Steady κ s₀ s) : Steady κ s₀ (relBlock s r).2 := by
  unfold relBlock
  refine .ofIteSnd (fun _ => h) fun _ => ?_
  split <;> rename_i e <;> exact .ofPair e (relRead_steady _ _ _ h)

theorem relShift_steady (r : RluOp) (ch : Nat) (h : Steady κ s₀ s) : Steady κ s₀ (relShift s r ch).2 := by
  unfold relShift
  extract_lets -underBinder
  refine .ofIteSnd (fun _ => h) fun _ => ?_
  split
  · rename_i e
    exact .ofPair e (relBlock_steady _ h)
  · rename_i u e
    have hu : Steady κ s₀ u := .ofPair e (relBlock_steady _ h)
    refine .ofIteSnd (fun _ => hu) fun _ => ?_
    split
    · rename_i e'
      exact .ofPair e' (relRead_steady _ _ _ hu)
    · rename_i e'
      split <;> exact (.ofPair e' (relRead_steady _ _ _ hu))

theorem relConv_steady (r : RluOp) (ch code : Nat) (v : FV) (o : Bool) (h : Steady κ s₀ s) :
    Steady κ s₀ (relConv s r ch code v o).2 := by
  unfold relConv
  refine .ofIteSnd (fun _ => h) fun _ => ?_
  extract_lets -underBinder _ t
  have ht : Steady κ s₀ t.2 := by
    unfold t
    split
    · exact h
    · exact relShift_steady _ _ h
  clear_value t
  split <;> exact ht

theorem relStore_steady (r : RluOp) (addr : Int) (v : Bytes) (h : Steady κ s₀ s) : Steady κ s₀ (relStore s r addr v) := by
  unfold relStore
  extract_lets -underBinder
  refine .ofIte (fun _ => h) fun _ => ?_
  split
  · exact sramWrite_steady _ _ h
  · exact coreFault_steady _ _ _ _ (.ofIte (fun _ => h) fun _ => sramWrite_steady _ _ h)

theorem relOutRow_steady (cl : Nat) (r : RluOp) (addr : Int) (vals : List (Nat × FV × Bool)) (h : Steady κ s₀ s) :
    Steady κ s₀ (relOutRow s cl r addr vals) := by
  unfold relOutRow
  refine .ofIte (fun _ => h) fun _ => ?_
  extract_lets -underBinder t
  have ht : Steady κ s₀ t.2 := by
    unfold t
    refine .foldlSnd h fun _ _ hu => ?_
    split
    · exact hu
    · split <;> rename_i e' <;> exact .ofPair e' (relConv_steady _ _ _ _ _ hu)
  clear_value t
  split
  · exact ht
  · extract_lets -underBinder v
    have hv : Steady κ s₀ v := State.setRop_steady _ _ ht
    exact relStore_steady _ _ _ (State.addF_steady _ _ _ (State.addF_steady _ _ _ hv))

theorem relZero_steady (r : RluOp) (addr : Int) (h : Steady κ s₀ s) : Steady κ s₀ (relZero s r addr) :=
  relStore_steady _ _ _ h

theorem countOor_steady (cl k : Nat) (h : Steady κ s₀ s) : Steady κ s₀ (countOor s cl k) :=
  State.addF_steady _ _ _ h

theorem nbLane_steady (cl : Nat) (r : RluOp) (pos first last : Nat) (h : Steady κ s₀ s) :
    Steady κ s₀ (nbLane s cl r pos first last).1 :=
  .ofIteFst (fun _ => h) fun _ => State.maxF_steady _ _ _ (sramWrite_steady _ _ h)

theorem nbIssue_steady (cl : Nat) (r : RluOp) (i id : Nat) (h : Steady κ s₀ s) : Steady κ s₀ (nbIssue s cl r i id) := by
  unfold nbIssue
  extract_lets -underBinder _ _ node take
  have hnode : ∀ (s : State) (r : RluOp) (first h : Nat) (lane : Bool), Steady κ s₀ s → Steady κ s₀
      (node s r first h lane) := fun _ _ _ _ _ hu => State.setRop_steady _ _ hu
  have htake : ∀ (s : State) (first d : Nat), Steady κ s₀ s → Steady κ s₀ (take s first d) := by
    unfold take
    refine fun _ _ _ hu => ?_
    extract_lets -underBinder
    refine .ofIte (fun _ => hnode _ _ _ _ _ hu) fun _ => ?_
    split
    · extract_lets -underBinder _ v
      have hv : Steady κ s₀ v.1 := nbLane_steady _ _ _ _ _ hu
      exact .ofIte (fun _ => hnode _ _ _ _ _ hu) fun _ => hnode _ _ _ _ _ hv
    · exact hnode _ _ _ _ _ (nbLane_steady _ _ _ _ _ hu)
  refine .ofIte (fun _ => htake _ _ _ h) fun _ => ?_
  refine .ofIte (fun _ => htake _ _ _ (countOor_steady _ _ h)) fun _ => ?_
  split
  · rename_i e
    exact .ofPair e (relRead_steady _ _ _ h)
  · rename_i v e
    have hv : Steady κ s₀ v := .ofPair e (relRead_steady _ _ _ h)
    exact .ofIte (fun _ => htake _ _ _ (countOor_steady _ _ hv)) fun _ => htake _ _ _ hv

theorem nbIndex_steady (r : RluOp) (e : Nat) (h : Steady κ s₀ s) : Steady κ s₀ (nbIndex s r e).2 := by
  unfold nbIndex
  split <;> rename_i e' <;> exact .ofPair e' (relRead_steady _ _ _ h)

theorem nbRow_steady (cl : Nat) (r : RluOp) (id : Nat) (h : Steady κ s₀ s) : Steady κ s₀ (nbRow s cl r id).2 := by
  unfold nbRow
  extract_lets -underBinder
  refine .ofIteSnd (fun _ => h) fun _ => .ofIteSnd (fun _ => countOor_steady _ _ h) fun _ => ?_
  split
  · rename_i e
    exact .ofPair e (relRead_steady _ _ _ h)
  · rename_i e
    exact State.addF_steady _ _ _ (.ofPair e (relRead_steady _ _ _ h))

theorem nbWrite_steady (cl : Nat) (r : RluOp) (i : Nat) (parts : List Acc) (n : Nat) (h : Steady κ s₀ s) :
    Steady κ s₀ (nbWrite s cl r i parts n) :=
  relOutRow_steady _ _ _ _ h

theorem nbSlots_steady (cl : Nat) (r : RluOp) (i : Nat) (rows : List Bytes) (h : Steady κ s₀ s) :
    Steady κ s₀ (nbSlots s cl r i rows) := by
  unfold nbSlots
  extract_lets -underBinder
  refine whileRunning_steady _ _ (fun _ _ ht => ?_) h
  extract_lets -underBinder
  split
  · exact relZero_steady _ _ ht
  · exact relOutRow_steady _ _ _ _ ht

theorem nbNode_steady (cl : Nat) (r : RluOp) (i : Nat) (h : Steady κ s₀ s) : Steady κ s₀ (nbNode s cl r i) := by
  unfold nbNode
  extract_lets -underBinder _ _ _ t
  have ht : Steady κ s₀ t := State.setRop_steady _ _ h
  exact .ofIte (fun _ => nbSlots_steady _ _ _ _ ht) fun _ => .ofIte (fun _ => State.setRop_steady _ _ ht) fun _ =>
      nbWrite_steady _ _ _ _ _ ht

theorem nbBack_steady (cl : Nat) (r : RluOp) (key : Nat) (row : Bytes) (h : Steady κ s₀ s) :
    Steady κ s₀ (nbBack s cl r key row) :=
  .ofIte (fun _ => State.setRop_steady _ _ h) fun _ => nbNode_steady _ _ _ (State.setRop_steady _ _ h)

theorem nbFetch_steady (cl : Nat) (r : RluOp) (h : Steady κ s₀ s) : Steady κ s₀ (nbFetch s cl r) :=
  .ofIte (fun _ => nbBack_steady _ _ _ _ (.ofIte (fun _ => h) fun _ => countOor_steady _ _ h)) fun _ =>
    State.setRop_steady _ _ h

theorem nbHand_steady (cl : Nat) (r : RluOp) (first : Nat) (h : Steady κ s₀ s) : Steady κ s₀ (nbHand s cl r first) := by
  unfold nbHand
  refine .ofIte (fun _ => State.setRop_steady _ _ h) fun _ => ?_
  refine .ofIte (fun _ => nbFetch_steady _ _ h) fun _ => ?_
  split
  · rename_i e
    exact .ofPair e (nbIndex_steady _ _ h)
  · rename_i u e
    have hu : Steady κ s₀ u := .ofPair e (nbIndex_steady _ _ h)
    exact .ofIte (fun _ => State.setRop_steady _ _ hu) fun _ => .ofIte (fun _ => nbFetch_steady _ _ hu) fun _ =>
        State.setRop_steady _ _ hu

theorem nbHandshake_steady (cl : Nat) (r : RluOp) (id : Nat) (h : Steady κ s₀ s) : Steady κ s₀ (nbHandshake s cl r id) := by
  unfold nbHandshake
  extract_lets -underBinder
  split
  · exact nbHand_steady _ _ _ h
  · extract_lets -underBinder t
    have ht : Steady κ s₀ t := nbIssue_steady _ _ _ _ h
    exact .ofIte (fun _ => ht) fun _ => .ofIte (fun _ => ht) fun _ => nbNode_steady _ _ _ (State.setRop_steady _ _ ht)

theorem laneEdges_steady (cl : Nat) (r : RluOp) (m e : Nat) (w : LaneWork) (h : Steady κ s₀ s) :
    Steady κ s₀ (laneEdges cl r m e w s).2 := by
  induction m generalizing s e w with
  | zero => exact h
  | succ m ih =>
    unfold laneEdges
    refine .ofIteSnd (fun _ => h) fun _ => ?_
    extract_lets -underBinder w
    split
    · rename_i u e
      exact .ofPair e (nbIndex_steady _ _ h)
    · rename_i id u e
      have hu : Steady κ s₀ u := .ofPair e (nbIndex_steady _ _ h)
      extract_lets -underBinder cost w
      refine .ofIteSnd (fun _ => hu) fun _ => ?_
      have hr := nbRow_steady cl r id hu
      split <;> rename_i e'
      · exact .ofPair e' hr
      · exact ih _ _ (.ofPair e' hr)
      · exact ih _ _ (.ofPair e' hr)

theorem laneEntry_steady (cl : Nat) (r : RluOp) (st : State × Nat × Bool) (en : LaneEntry) (h : Steady κ s₀ st.1) :
    Steady κ s₀ (laneEntry cl r st en).1 := by
  unfold laneEntry
  refine .ofIteFst (fun _ => h) fun _ => ?_
  extract_lets -underBinder r p w
  have hw : Steady κ s₀ (if st.2.2 then laneEdges cl r (en.last - en.first) en.first w st.1 else (some w, st.1)).2 :=
    .ofIteSnd (fun _ => laneEdges_steady _ _ _ _ _ h) fun _ => h
  split
  · rename_i e
    exact .ofPair e hw
  · rename_i e
    exact nbWrite_steady _ _ _ _ _ (State.setRop_steady _ _ (.ofPair e hw))

theorem overflowPass_steady (cl k : Nat) (h : Steady κ s₀ s) : Steady κ s₀ (overflowPass s cl k) := by
  unfold overflowPass
  split
  · exact h
  · refine .ofIte (fun _ => h) fun _ => ?_
    extract_lets -underBinder t _ u
    have ht : Steady κ s₀ t.2 := injected_steady _ _ h
    have hu : Steady κ s₀ u.1 := .foldlFst ht fun _ _ hv => laneEntry_steady _ _ _ _ hv
    exact .ofIte (fun _ => hu) fun _ => State.setRop_steady _ _ hu

theorem flushRows_steady (cl : Nat) (r : RluOp) (n : Nat) (h : Steady κ s₀ s) : Steady κ s₀ (flushRows cl r n s) := by
  induction n generalizing s with
  | zero => exact h
  | succ n ih =>
    unfold flushRows
    refine .ofIte (fun _ => h) fun _ => ?_
    split
    · exact h
    · exact ih (relOutRow_steady _ _ _ _ (State.setRop_steady _ _ h))

theorem rowBack_steady (cl : Nat) (r : RluOp) (j : Nat) (row : Bytes) (h : Steady κ s₀ s) :
    Steady κ s₀ (rowBack s cl r j row) :=
  flushRows_steady _ _ _ (State.setRop_steady _ _ h)

theorem unitIssued_steady (cl : Nat) (r : RluOp) (id : Nat) (h : Steady κ s₀ s) : Steady κ s₀ (unitIssued s cl r id) := by
  unfold unitIssued
  extract_lets -underBinder _ _ t
  have ht : Steady κ s₀ t := .ofIte (fun _ => h) fun _ => countOor_steady _ _ h
  exact .ofIte (fun _ => .ofIte (fun _ => rowBack_steady _ _ _ _ ht) fun _ => State.setRop_steady _ _ ht) fun _ =>
      State.setRop_steady _ _ h

theorem issueUnit_steady (cl : Nat) (r : RluOp) (h : Steady κ s₀ s) : Steady κ s₀ (issueUnit s cl r) :=
  .ofIte (fun _ => State.setRop_steady _ _ h) fun _ => .ofIte (fun _ => nbHandshake_steady _ _ _ h) fun _ =>
    .ofIte (fun _ => State.setRop_steady _ _ h) fun _ => .ofIte (fun _ => unitIssued_steady _ _ _ h) fun _ =>
    .ofIte (fun _ => unitIssued_steady _ _ _ h) fun _ => State.setRop_steady _ _ h

theorem gatherIssue_steady (cl : Nat) (h : Steady κ s₀ s) : Steady κ s₀ (gatherIssue s cl) := by
  unfold gatherIssue
  extract_lets -underBinder
  split
  · exact h
  · split
    · exact h
    · exact issueUnit_steady _ _ (State.setCluster_steady _ _ h)

theorem scatterReturn_steady (cl : Nat) (r : RluOp) (u a : Nat) (row : Bytes) (h : Steady κ s₀ s) :
    Steady κ s₀ (scatterReturn s cl r u a row) :=
  relWrite_steady _ _ _ (State.addF_steady _ _ _ (State.setRop_steady _ _ h))

theorem gatherReturn_steady (cl k j : Nat) (h : Steady κ s₀ s) : Steady κ s₀ (gatherReturn s cl k j) := by
  unfold gatherReturn
  split
  · exact h
  · split
    · exact h
    · refine .ofIte (fun _ => h) fun _ => ?_
      extract_lets -underBinder _ _ _ u
      have hu : Steady κ s₀ u := State.setRop_steady _ _ h
      split
      · rename_i e₁
        exact .ofPair e₁ (relRead_steady _ _ _ hu)
      · rename_i e₁
        extract_lets -underBinder t₁
        have ht₁ : Steady κ s₀ t₁ := State.addF_steady _ _ _ (.ofPair e₁ (relRead_steady _ _ _ hu))
        exact .ofIte (fun _ => nbBack_steady _ _ _ _ ht₁) fun _ => .ofIte (fun _ => rowBack_steady _ _ _ _ ht₁) fun _ =>
            scatterReturn_steady _ _ _ _ _ ht₁

theorem readPoints_steady (r : RluOp) (h : Steady κ s₀ s) : Steady κ s₀ (readPoints s r).2 := by
  unfold readPoints
  extract_lets -underBinder
  refine fetchAll_steady _ (fun _ _ hu => ?_) h
  split <;> rename_i e <;> exact .ofPair e (relRead_steady _ _ _ hu)

theorem segmentRows_steady (cl : Nat) (r : RluOp) (h : Steady κ s₀ s) : Steady κ s₀ (segmentRows s cl r) := by
  unfold segmentRows
  extract_lets -underBinder _ _ _ _ _ _ _ _ _ _ t
  have ht : Steady κ s₀ t := State.addF_steady _ _ _ (countOor_steady _ _ h)
  exact whileRunning_steady _ _ (fun _ _ hu => relOutRow_steady _ _ _ _ hu) ht

theorem relCompute_steady (cl : Nat) (r : RluOp) (h : Steady κ s₀ s) : Steady κ s₀ (relCompute s cl r) := by
  unfold relCompute
  extract_lets -underBinder _ _ out
  have hout : ∀ (t : State) (j : Nat) (v : Bytes), Steady κ s₀ t → Steady κ s₀ (out t j v) := fun _ _ _ ht =>
      relStore_steady _ _ _ ht
  split
  · exact segmentRows_steady _ _ h
  · exact .foldl h fun _ _ ht => hout _ _ _ ht
  · exact hout _ _ _ h
  · split
    · rename_i e'
      exact .ofPair e' (readPoints_steady _ h)
    · rename_i e'
      exact .foldl (.ofPair e' (readPoints_steady _ h)) fun _ _ hv => hout _ _ _ hv
  · split
    · rename_i e'
      exact .ofPair e' (readPoints_steady _ h)
    · rename_i e'
      exact hout _ _ _ (.ofPair e' (readPoints_steady _ h))
  · split
    · rename_i e'
      exact .ofPair e' (readPoints_steady _ h)
    · rename_i e'
      exact .foldl (.ofPair e' (readPoints_steady _ h)) fun _ _ hv => hout _ _ _ hv
  · exact h

theorem relHistory_steady (r : RluOp) (h : Steady κ s₀ s) : Steady κ s₀ (relHistory s r) := by
  unfold relHistory
  extract_lets -underBinder
  refine .ofIte (fun _ => h) fun _ => ?_
  split
  · rename_i e
    exact .ofPair e (relBlock_steady _ h)
  · rename_i u e
    have hu : Steady κ s₀ u := .ofPair e (relBlock_steady _ h)
    refine .ofIte (fun _ => hu) fun _ => whileRunning_steady _ _ (fun _ _ hv => ?_) hu
    extract_lets -underBinder
    split
    · rename_i e'
      exact .ofPair e' (relRead_steady _ _ _ hv)
    · rename_i e'
      exact relWrite_steady _ _ _ (.ofPair e' (relRead_steady _ _ _ hv))

theorem nbExcess_steady (cl : Nat) (r : RluOp) (h : Steady κ s₀ s) : Steady κ s₀ (nbExcess s cl r) := by
  unfold nbExcess
  refine .ofIte (fun _ => h) fun _ => ?_
  extract_lets -underBinder _ _ t _ _ v _ w
  have ht : Steady κ s₀ t := countOor_steady _ _ h
  have hv : Steady κ s₀ v := State.setCore_steady _ _ (State.addF_steady _ _ _ ht)
  have hw : Steady κ s₀ w := .foldl hv fun _ _ ht₁ => .ofIte (fun _ =>
      .foldl ht₁ fun _ _ ht₂ => relZero_steady _ _ ht₂) fun _ => relZero_steady _ _ ht₁
  exact .ofIte (fun _ => ht) fun _ => .ofIte (fun _ => .ofIte (fun _ => abortFrame_steady _ _ hw) fun _ => hw) fun _ => hv

theorem relLeave_steady (cl : Nat) (r : RluOp) (h : Steady κ s₀ s) : Steady κ s₀ (relLeave s cl r) :=
  State.setCluster_steady _ _ (State.setCore_steady _ _ h)

theorem rluComplete_steady (cl k : Nat) (h : Steady κ s₀ s) : Steady κ s₀ (rluComplete s cl k) := by
  unfold rluComplete
  split
  · exact h
  · refine .ofIte (fun _ => h) fun _ => ?_
    extract_lets -underBinder t _ u v
    have ht : Steady κ s₀ t := relCompute_steady _ _ h
    have hu : Steady κ s₀ u := relHistory_steady _ ht
    have hv : Steady κ s₀ v := nbExcess_steady _ _ hu
    exact .ofIte (fun _ => ht) fun _ => .ofIte (fun _ => hu) fun _ => .ofIte (fun _ => hv) fun _ => relLeave_steady _ _ hv

end Sys2Proof.Machine
end

section
/-! What the operations of Sys2Proof/Machine/History.lean do to the state keeps the invariants. -/
namespace Sys2Proof.Machine
open Sys2Proof Sys2Proof.Machine.Reg
variable {κ : Bool} {s₀ s : State}

theorem stewardBytes_steady (a len : Nat) (h : Steady κ s₀ s) : Steady κ s₀ (stewardBytes s a len).2 := by
  unfold stewardBytes
  split
  · rename_i e
    exact .ofPair e (bankRead_steady _ _ h)
  · rename_i e
    exact logUncorrectable_steady _ _ _ (.ofPair e (bankRead_steady _ _ h))

theorem stewardWrite_steady (a : Nat) (b : Bytes) (h : Steady κ s₀ s) : Steady κ s₀ (stewardWrite s a b) := by
  unfold stewardWrite
  split
  · rename_i e
    exact .ofPair e (sramMerge_steady _ _ h)
  · rename_i e
    exact logUncorrectable_steady _ _ _ (.ofPair e (sramMerge_steady _ _ h))

theorem eachRecord_steady (slot : Nat) (a : Nat × Nat × Nat) (f : Nat → Nat) (h : Steady κ s₀ s) :
    Steady κ s₀ (eachRecord s slot a f) := by
  unfold eachRecord
  extract_lets -underBinder t
  have ht : Steady κ s₀ t.2 := stewardBytes_steady _ _ h
  refine .ofIte (fun _ => ht) fun _ => .foldl ht fun _ _ hu => ?_
  extract_lets -underBinder
  split
  · rename_i e
    exact stewardWrite_steady _ _ (.ofPair e (stewardBytes_steady _ _ hu))
  · rename_i e
    exact .ofPair e (stewardBytes_steady _ _ hu)

theorem forgetFrame_steady (p slot seq : Nat) (h : Steady κ s₀ s) : Steady κ s₀ (forgetFrame s p slot seq) :=
  .foldl h fun _ _ ht => eachRecord_steady _ _ _ ht

theorem forgetStream_steady (p slot : Nat) (h : Steady κ s₀ s) : Steady κ s₀ (forgetStream s p slot) :=
  .foldl h fun _ _ ht => stewardWrite_steady _ _ (eachRecord_steady _ _ _ ht)

theorem mapStream_steady (p slot blk : Nat) (h : Steady κ s₀ s) : Steady κ s₀ (mapStream s p slot blk) :=
  .foldl h fun _ _ ht => stewardWrite_steady _ _ ht

theorem purgeOne_steady (e : Nat × Nat × Nat) (h : Steady κ s₀ s) : Steady κ s₀ (purgeOne s e) :=
  .ofIte (fun _ => forgetStream_steady _ _ h) fun _ => forgetFrame_steady _ _ _ h

theorem purgePlan_steady (p : Nat) (h : Steady κ s₀ s) : Steady κ s₀ (purgePlan s p) :=
  .foldl h.upd fun _ _ ht => purgeOne_steady _ ht

theorem purgeStream_steady (p k : Nat) (h : Steady κ s₀ s) : Steady κ s₀ (purgeStream s p k) :=
  .foldl h.upd fun _ _ ht => purgeOne_steady _ ht

end Sys2Proof.Machine
end

section
/-! What the operations of Sys2Proof/Machine/Ingest.lean do to the state keeps the invariants. -/
namespace Sys2Proof.Machine
open Sys2Proof Sys2Proof.Machine.Reg
variable {κ : Bool} {s₀ s : State}

theorem fifFlag_steady (k : Nat) (f : Fld) (h : Steady κ s₀ s) : Steady κ s₀ (fifFlag s k f) :=
  fifPend_steady _ (State.setF_steady _ _ _ h)

theorem fifAdvance_steady (k n : Nat) (h : Steady κ s₀ s) : Steady κ s₀ (fifAdvance s k n) := by
  unfold fifAdvance
  extract_lets -underBinder _ _ _ t
  have ht : Steady κ s₀ t := State.setFifo_steady _ _ h
  exact .ofIte (fun _ => fifFlag_steady _ _ ht) fun _ => ht

theorem fifStore_steady (k pos : Nat) (b : Bytes) (h : Steady κ s₀ s) : Steady κ s₀ (fifStore s k pos b) :=
  State.putBytes_steady _ _ (State.putBytes_steady _ _ h)

theorem fifSetLast_steady (k : Nat) (f : FFrame) (h : Steady κ s₀ s) : Steady κ s₀ (fifSetLast s k f) :=
  State.setFifo_steady _ _ h

theorem fifClean_steady (k : Nat) (h : Steady κ s₀ s) : Steady κ s₀ (fifClean s k) := by
  unfold fifClean
  refine .foldl h fun _ _ ht => ?_
  extract_lets -underBinder
  split
  · exact ht
  · exact .ofIte (fun _ => State.setFifo_steady _ _ ht) fun _ => .ofIte (fun _ => State.setFifo_steady _ _ ht) fun _ => ht

theorem fifPad_steady (k : Nat) (f : FFrame) (h : Steady κ s₀ s) : Steady κ s₀ (fifPad s k f) :=
  .ofIte (fun _ => h) fun _ => fifAdvance_steady _ _ (fifStore_steady _ _ _ h)

theorem fifOpen_steady (k : Nat) (f : FFrame) (h : Steady κ s₀ s) : Steady κ s₀ (fifOpen s k f) :=
  State.setF_steady _ _ _ (State.setF_steady _ _ _ (State.setFifo_steady _ _ h))

theorem fifClose_steady (k : Nat) (h : Steady κ s₀ s) : Steady κ s₀ (fifClose s k) := by
  unfold fifClose
  split
  · exact h
  · extract_lets -underBinder _ _ _ _ v w
    have hv : Steady κ s₀ v := State.setFifo_steady _ _ (fifSetLast_steady _ _ (fifPad_steady _ _ h))
    have hw : Steady κ s₀ w := State.setF_steady _ _ _ (State.setF_steady _ _ _ (State.setF_steady _ _ _ hv))
    exact fifClean_steady _ (State.addF_steady _ _ _ hw)

theorem fifAccept_steady (k : Nat) (d : Bytes) (h : Steady κ s₀ s) : Steady κ s₀ (fifAccept s k d) := by
  unfold fifAccept
  split
  · exact h
  · extract_lets -underBinder _ _ u _ _ w
    have hu : Steady κ s₀ u := fifSetLast_steady _ _ (fifStore_steady _ _ _ h)
    have hw : Steady κ s₀ w := State.setF_steady _ _ _ (State.addF_steady _ _ _ (fifAdvance_steady _ _ hu))
    exact .ofIte (fun _ => fifClose_steady _ hw) fun _ => hw

theorem fifSpoil_steady (k : Nat) (h : Steady κ s₀ s) : Steady κ s₀ (fifSpoil s k) := by
  unfold fifSpoil
  split
  · exact h
  · extract_lets -underBinder t
    have ht : Steady κ s₀ t := fifSetLast_steady _ _ (fifPad_steady _ _ h)
    split
    · exact .ofIte (fun _ => setFrame_steady _ ht) fun _ => ht
    · exact ht

theorem fifDrop_steady (k : Nat) (err : Bool) (h : Steady κ s₀ s) : Steady κ s₀ (fifDrop s k err) := by
  unfold fifDrop
  extract_lets -underBinder t
  have ht : Steady κ s₀ t := State.addF_steady _ _ _ h
  exact .ofIte (fun _ => fifFlag_steady _ _ ht) fun _ => ht

theorem fifTake_steady (k : Nat) (d : Bytes) (h : Steady κ s₀ s) : Steady κ s₀ (fifTake s k d) := by
  unfold fifTake
  split
  · exact fifDrop_steady _ _ h
  · extract_lets -underBinder _ _ _ _ _ u v
    have hu : Steady κ s₀ u := State.setF_steady _ _ _ (fifDrop_steady _ _ h)
    have hv : Steady κ s₀ v := .ofIte (fun _ => fifDrop_steady _ _ h) fun _ => h
    exact .ofIte (fun _ => .ofIte (fun _ => fifClose_steady _ hu) fun _ => hu) fun _ => fifAccept_steady _ _ hv

theorem fifAperture_steady (k off : Nat) (d : Bytes) (h : Steady κ s₀ s) : Steady κ s₀ (fifAperture s k off d) := by
  unfold fifAperture
  refine .ofIte (fun _ => h) fun _ => .ofIte (fun _ => fifDrop_steady _ _ h) fun _ => ?_
  split
  · exact fifDrop_steady _ _ h
  · exact .ofIte (fun _ => fifSpoil_steady _ (fifFlag_steady _ _ (fifDrop_steady _ _ h))) fun _ => fifTake_steady _ _ h

theorem fifConfigWrite_steady (k i v : Nat) (h : Steady κ s₀ s) : Steady κ s₀ (fifConfigWrite s k i v) :=
  .ofIte (fun _ => h) fun _ => State.writeRW_steady _ _ h

theorem pullRequest_steady (k : Nat) (h : Steady κ s₀ s) : Steady κ s₀ (pullRequest s k) := by
  unfold pullRequest
  split
  · exact h
  · exact .ofIte (fun _ => h) fun _ => State.emit_steady _ (State.setFifo_steady _ _ h)

theorem pullPlace_steady (k : Nat) (h : Steady κ s₀ s) : Steady κ s₀ (pullPlace s k) := by
  unfold pullPlace
  refine .foldl h fun _ _ ht => ?_
  extract_lets -underBinder
  split
  · exact fifAccept_steady _ _ (State.setFifo_steady _ _ ht)
  · exact ht

theorem pullGone_steady (k i : Nat) (h : Steady κ s₀ s) : Steady κ s₀ (pullGone s k i) := by
  unfold pullGone
  extract_lets -underBinder _ t
  have ht : Steady κ s₀ t := State.setFifo_steady _ _ h
  exact .ofIte (fun _ => fifClose_steady _ ht) fun _ => ht

theorem pullComplete_steady (k i : Nat) (d : Option Bytes) (h : Steady κ s₀ s) : Steady κ s₀ (pullComplete s k i d) := by
  unfold pullComplete
  split
  · refine .ofIte (fun _ => h) fun _ => .ofIte (fun _ => pullGone_steady _ _ h) fun _ => ?_
    extract_lets -underBinder t
    have ht : Steady κ s₀ t.2 := injected_steady _ _ h
    split
    · exact pullGone_steady _ _ (fifFlag_steady _ _ (fifSpoil_steady _ ht))
    · exact pullPlace_steady _ (State.setFifo_steady _ _ ht)
  · exact h

theorem fifGrant_steady (k : Nat) (h : Steady κ s₀ s) : Steady κ s₀ (fifGrant s k) := by
  unfold fifGrant
  split
  · exact h
  · split
    · exact h
    · exact .ofIte (fun _ => h) fun _ => flitSend_steady _ (State.setFifo_steady _ _ h)

theorem wordTaken_steady (k i : Nat) (h : Steady κ s₀ s) : Steady κ s₀ (wordTaken s k i) := by
  unfold wordTaken
  extract_lets -underBinder
  split
  · exact h
  · exact fifGrant_steady _ (fifClean_steady _ (State.setFifo_steady _ _ h))

theorem fifWord_steady (k : Nat) {b : Bytes} {v : Nat} {u : State} (h : Steady κ s₀ s)
    (e : fifWord s k = some (b, v, u)) : Steady κ s₀ u := by
  unfold fifWord at e
  split at e
  · cases e
  · split at e
    · cases e
    · obtain ⟨-, e'⟩ := Option.ite_none_right_eq_some.mp e
      cases e'
      exact wordTaken_steady _ _ h

theorem fifWords_steady (k n : Nat) {l : List (Bytes × Nat)} {u : State} (h : Steady κ s₀ s)
    (e : fifWords s k n = some (l, u)) : Steady κ s₀ u := by
  induction n generalizing s l with
  | zero =>
    cases e
    exact h
  | succ n ih =>
    unfold fifWords at e
    split at e
    · cases e
    · rename_i b v t e'
      obtain ⟨r, hr, hu⟩ := Option.map_eq_some_iff.mp e
      cases hu
      exact ih (fifWord_steady _ h e') hr

theorem logRing_steady (k off v : Nat) (h : Steady κ s₀ s) : Steady κ s₀ (logRing s k off v) :=
  logEvent_steady _ _ _ _ _ _ _ h

theorem frTailWrite_steady (k v : Nat) (h : Steady κ s₀ s) : Steady κ s₀ (frTailWrite s k v) :=
  .ofIte (fun _ => h) fun _ => .ofIte (fun _ => logRing_steady _ _ _ h) fun _ => State.setF_steady _ _ _ h

theorem rrHeadWrite_steady (k v : Nat) (h : Steady κ s₀ s) : Steady κ s₀ (rrHeadWrite s k v) :=
  .ofIte (fun _ => h) fun _ => .ofIte (fun _ => logRing_steady _ _ _ h) fun _ =>
    State.setStream_steady _ _ (State.setF_steady _ _ _ h)

theorem descFetch_steady (k : Nat) (got : Option Bytes) (h : Steady κ s₀ s) : Steady κ s₀ (descFetch s k got) := by
  unfold descFetch
  extract_lets -underBinder _ _ _ t
  have ht : Steady κ s₀ t.2 := hostRead_steady _ _ _ h
  refine .ofIte (fun _ => h) fun _ => ?_
  split
  · exact ht
  · extract_lets -underBinder u
    have hu : Steady κ s₀ u := State.setF_steady _ _ _ ht
    split
    · exact logEvent_steady _ _ _ _ _ _ _ (writeResult_steady _ _ _ _ _ _ _ (publishBefore_steady _ hu))
    · exact .ofIte (fun _ => fifOpen_steady _ _ hu) fun _ => writeResult_steady _ _ _ _ _ _ _ (publishBefore_steady _ hu)

theorem feedSend_steady (p t typ payload : Nat) (h : Steady κ s₀ s) : Steady κ s₀ (feedSend s p t typ payload) :=
  h.upd

theorem feederStart_steady (p : Nat) (h : Steady κ s₀ s) : Steady κ s₀ (feederStart s p) := by
  unfold feederStart
  extract_lets -underBinder
  split
  · extract_lets -underBinder
    refine .ofIte (fun _ => h) fun _ => ?_
    split
    · exact h
    · extract_lets -underBinder _ _ _ v
      have hv : Steady κ s₀ v := State.setFeed_steady _ _ (feedSend_steady _ _ _ _ h)
      exact State.setF_steady _ _ _ (State.setF_steady _ _ _ (State.setF_steady _ _ _ hv))
  · exact h

theorem feederSent_steady (p t nwords : Nat) (h : Steady κ s₀ s) : Steady κ s₀ (feederSent s p t nwords) := by
  unfold feederSent
  extract_lets -underBinder _ u _ _ v
  have hu : Steady κ s₀ u := State.setF_steady _ _ _ (State.addF_steady _ _ _ h)
  have hv : Steady κ s₀ v := State.addF_steady _ _ _ hu
  exact .ofIte (fun _ => State.setFeed_steady _ _ hu) fun _ => .ofIte (fun _ => State.setFeed_steady _ _ hv) fun _ =>
      State.setF_steady _ _ _ (State.setFeed_steady _ _ hv)

theorem feederWord_steady (p : Nat) (h : Steady κ s₀ s) : Steady κ s₀ (feederWord s p) := by
  unfold feederWord
  extract_lets -underBinder
  split
  · extract_lets -underBinder
    refine .ofIte (fun _ => h) fun _ => ?_
    split
    · exact feederSent_steady _ _ _ (feedSend_steady _ _ _ _ h)
    · extract_lets -underBinder _ _ u
      have hu : Steady κ s₀ u := State.setF_steady _ _ _ h
      refine .ofIte (fun _ => feederSent_steady _ _ _ (feedSend_steady _ _ _ _ h)) fun _ => ?_
      refine .ofIte (fun _ => feederSent_steady _ _ _ (feedSend_steady _ _ _ _ h)) fun _ => ?_
      refine .ofIte (fun _ => feederSent_steady _ _ _ (wordTaken_steady _ _ (feedSend_steady _ _ _ _ h))) fun _ => ?_
      split
      · exact setFrame_steady _ hu
      · exact hu
  · exact h

theorem feederEof_steady (p : Nat) (h : Steady κ s₀ s) : Steady κ s₀ (feederEof s p) := by
  unfold feederEof
  extract_lets -underBinder
  refine .ofIte (fun _ => h) fun _ => ?_
  split
  · refine .ofIte (fun _ => h) fun _ => .ofIte (fun _ => h) fun _ => ?_
    extract_lets -underBinder t
    have ht : Steady κ s₀ t := feedSend_steady _ _ _ _ h
    exact .ofIte (fun _ => State.setFeed_steady _ _ ht) fun _ => State.setStream_steady _ _ (State.setFeed_steady _ _ ht)
  · exact h

end Sys2Proof.Machine
end

section
/-! What the operations of Sys2Proof/Machine/Gate.lean do to the state keeps the invariants. -/
namespace Sys2Proof.Machine
open Sys2Proof Sys2Proof.Machine.Reg
variable {κ : Bool} {s₀ s : State}

theorem freeStream_steady (k : Nat) (h : Steady κ s₀ s) : Steady κ s₀ (freeStream s k) := by
  unfold freeStream
  extract_lets -underBinder _ _ _ u v
  have hu : Steady κ s₀ u := State.setF_steady _ _ _ (State.setStream_steady _ _ h.upd)
  have hv : Steady κ s₀ v := State.setF_steady _ _ _ (State.setF_steady _ _ _ (State.setFifo_steady _ _ hu))
  exact finishAll_steady _ _ hv

theorem streamCheck_steady (k : Nat) (h : Steady κ s₀ s) : Steady κ s₀ (streamCheck s k) := by
  unfold streamCheck
  extract_lets -underBinder
  split
  · exact h
  · exact .ofIte (fun _ => h) fun _ => .ofIte (fun _ => h) fun _ =>
        awaited_steady h (freeStream_steady _ (purgeStream_steady _ _ h))

theorem startSwitch_steady (p target : Nat) (h : Steady κ s₀ s) : Steady κ s₀ (startSwitch s p target) :=
  State.setPlan_steady _ _ (State.setF_steady _ _ _ h)

theorem planCheck_steady (p : Nat) (h : Steady κ s₀ s) : Steady κ s₀ (planCheck s p) := by
  unfold planCheck
  extract_lets -underBinder
  refine .ofIte (fun _ => h) fun _ => ?_
  refine .ofIte (fun _ => .ofIte (fun _ => h) fun _ => finishAll_steady _ _ (State.setF_steady _ _ _ h)) fun _ => ?_
  refine .ofIte (fun _ => h) fun _ => ?_
  split
  · exact .ofIte (fun _ => .ofIte (fun _ => startSwitch_steady _ _ h) fun _ => .ofIte (fun _ =>
        startSwitch_steady _ _ h) fun _ => h) fun _ => .ofIte (fun _ => .ofIte (fun _ => h) fun _ =>
        startSwitch_steady _ _ h) fun _ => startSwitch_steady _ _ h
  · exact .ofIte (fun _ => h) fun _ => startSwitch_steady _ _ h

theorem afterRelease_steady (f : Frame) (h : Steady κ s₀ s) : Steady κ s₀ (afterRelease s f) :=
  streamCheck_steady _ (planCheck_steady _ h)

theorem releaseLate_steady (k n : Nat) (h : Steady κ s₀ s) : Steady κ s₀ (releaseLate s k n) := by
  induction n generalizing s with
  | zero => exact h
  | succ n ih =>
    unfold releaseLate
    split
    · exact h
    · exact ih (afterRelease_steady _ (release_steady _ h))

theorem hold_steady (f : Frame) (extra : Nat) (h : Steady κ s₀ s) : Steady κ s₀ (hold s f extra) := by
  unfold hold
  extract_lets -underBinder _ _ _ _ v
  have hv : Steady κ s₀ v := setFrame_steady _ (State.maxF_steady _ _ _ h)
  exact .ofIte (fun _ => releaseLate_steady _ _ hv) fun _ => hv

theorem outcut_steady (f : Frame) (h : Steady κ s₀ s) : Steady κ s₀ (outcut s f) :=
  setFrame_steady _ h

theorem relayBegin_steady (x : PlanSt) (f : Frame) (h : Steady κ s₀ s) : Steady κ s₀ (relayBegin s x f).1 :=
  .ofIteFst (fun _ => h) fun _ => relaySend_steady _ (setFrame_steady _ h)

theorem relayUnit_steady (x : PlanSt) (f : Frame) (n : Nat) (d : Bytes) (h : Steady κ s₀ s) :
    Steady κ s₀ (relayUnit s x f n d) :=
  relaySend_steady _ (setFrame_steady _ h)

theorem outputUnit_steady (f : Frame) (n : Nat) (d : Bytes) (h : Steady κ s₀ s) : Steady κ s₀ (outputUnit s f n d) :=
  .ofIte (fun _ => .ofIte (fun _ => outcut_steady _ h) fun _ => relayUnit_steady _ _ _ _ h) fun _ => .ofIte (fun _ =>
    outcut_steady _ h) fun _ => hostPut_steady _ _ _ (setFrame_steady _ h)

theorem relayFill_steady (slot seq : Nat) (h : Steady κ s₀ s) : Steady κ s₀ (relayFill s slot seq) := by
  unfold relayFill
  split
  · exact h
  · extract_lets -underBinder _ t
    have ht : Steady κ s₀ t.1 := relayBegin_steady _ _ h
    refine .ofIte (fun _ => h) fun _ => ?_
    refine .ofIte (fun _ => outcut_steady _ h) fun _ => .foldl ht fun _ _ hu => ?_
    split
    · exact hu
    · exact relayUnit_steady _ _ _ _ hu

theorem tryHold_steady (slot seq : Nat) (h : Steady κ s₀ s) : Steady κ s₀ (tryHold s slot seq) := by
  unfold tryHold
  split
  · exact h
  · refine .ofIte (fun _ => h) fun _ => ?_
    extract_lets -underBinder t
    have ht : Steady κ s₀ t := relayFill_steady _ _ h
    split
    · exact ht
    · exact hold_steady _ _ ht

theorem frameEndReport_steady (k : Nat) (h : Steady κ s₀ s) : Steady κ s₀ (frameEndReport s k) := by
  unfold frameEndReport
  split
  · exact h
  · extract_lets -underBinder t
    have ht : Steady κ s₀ t := h.upd
    split
    · exact ht
    · extract_lets -underBinder _ _ u _ _ _ w t₁
      have hu : Steady κ s₀ u := setFrame_steady _ ht
      have hw : Steady κ s₀ w := State.setStream_steady _ _ (State.setPlan_steady _ _ hu)
      have ht₁ : Steady κ s₀ t₁ := .ofIte (fun _ => hw) fun _ => .ofIte (fun _ => hw.upd) fun _ =>
          tryHold_steady _ _ (setFrame_steady _ hw)
      exact .ofIte (fun _ => hu) fun _ => streamCheck_steady _ (planCheck_steady _ ht₁)

theorem admitOne_steady (p k : Nat) (h : Steady κ s₀ s) : Steady κ s₀ (admitOne s p k) := by
  unfold admitOne
  split
  · exact h
  · extract_lets -underBinder _ _ _ _ u _ _ _ w
    have hu : Steady κ s₀ u := h.upd
    have hw : Steady κ s₀ w := State.setStream_steady _ _ (fifClean_steady _ (State.setFifo_steady _ _ hu))
    exact State.setPlan_steady _ _ (.ofIte (fun _ => State.setFeed_steady _ _ hw) fun _ => hw)

theorem frameAdmission_steady (p : Nat) (h : Steady κ s₀ s) : Steady κ s₀ (frameAdmission s p) := by
  unfold frameAdmission
  extract_lets -underBinder
  refine .ofIte (fun _ => h) fun _ => ?_
  split
  · exact h
  · exact admitOne_steady _ _ h

theorem windowClose_steady (p : Nat) (h : Steady κ s₀ s) : Steady κ s₀ (windowClose s p) :=
  .ofIte (fun _ => planCheck_steady _ (State.setPlan_steady _ _ h)) fun _ => h

theorem resultPublish_steady (h : Steady κ s₀ s) : Steady κ s₀ (resultPublish s) := by
  unfold resultPublish
  refine .ofIte (fun _ => h) fun _ => ?_
  split
  · exact h
  · exact releaseLate_steady _ _ (afterRelease_steady _ (release_steady _ h))

theorem moderation_steady (k : Nat) (h : Steady κ s₀ s) : Steady κ s₀ (moderation s k) := by
  unfold moderation
  extract_lets -underBinder
  split
  · exact h
  · exact .ofIte (fun _ => h) fun _ => raiseVector_steady _ (State.setStream_steady _ _ h)

theorem outputTimeout_steady (slot seq : Nat) (h : Steady κ s₀ s) : Steady κ s₀ (outputTimeout s slot seq) := by
  unfold outputTimeout
  split
  · exact h
  · refine .ofIte (fun _ => h) fun _ => ?_
    extract_lets -underBinder t
    have ht : Steady κ s₀ t := relayFill_steady _ _ h
    split
    · exact ht
    · exact hold_steady _ _ ht

theorem feedCredit_steady (c q t e : Nat) (h : Steady κ s₀ s) : Steady κ s₀ (feedCredit s c q t e) := by
  unfold feedCredit
  split
  · exact planFault_steady _ _ _ _ (logEvent_steady _ _ _ _ _ _ _ h)
  · exact State.setFeed_steady _ _ h

theorem gateEof_steady (k : Nat) (h : Steady κ s₀ s) : Steady κ s₀ (gateEof s k) := by
  unfold gateEof
  extract_lets -underBinder
  split
  · exact h
  · exact .ofIte (fun _ => streamCheck_steady _ ((State.setStream_steady _ _ h).upd)) fun _ => h

theorem endRuns_steady (q key : Nat) (h : Steady κ s₀ s) : Steady κ s₀ (endRuns s q key) :=
  h.upd

theorem tryHolds_steady (q : Nat) (h : Steady κ s₀ s) : Steady κ s₀ (tryHolds s q) :=
  .foldl h fun _ _ ht => tryHold_steady _ _ ht

theorem outputLost_steady (q slot seq : Nat) (h : Steady κ s₀ s) : Steady κ s₀ (outputLost s q slot seq) :=
  logEvent_steady _ _ _ _ _ _ _ h

theorem outControl_steady (q n key p j : Nat) (h : Steady κ s₀ s) : Steady κ s₀ (outControl s q n key p j) := by
  unfold outControl
  extract_lets -underBinder _ _ _ _ u
  have hu : Steady κ s₀ u := tryHolds_steady _ (State.setPlan_steady _ _ (endRuns_steady _ _ h))
  split
  · exact outputLost_steady _ _ _ hu
  · refine .ofIte (fun _ => outputLost_steady _ _ _ hu) fun _ => ?_
    extract_lets -underBinder _ _ v _ w
    have hv : Steady κ s₀ v := setFrame_steady _ hu
    have hw : Steady κ s₀ w := .ofIte (fun _ => relayBegin_steady _ _ hv) fun _ => hv
    exact .ofIte (fun _ => setFrame_steady _ hu) fun _ => tryHold_steady _ _ hw

theorem outData_steady (q key : Nat) (d : Bytes) (h : Steady κ s₀ s) : Steady κ s₀ (outData s q key d) := by
  unfold outData
  split
  · split
    · exact outputLost_steady _ _ _ h
    · exact outputLost_steady _ _ _ h.upd
  · extract_lets -underBinder _ _ t
    have ht : Steady κ s₀ t := setFrame_steady _ h
    exact .ofIte (fun _ => ht) fun _ => tryHold_steady _ _ (outputUnit_steady _ _ _ ht)

theorem hubRefuse_steady (c p : Nat) (h : Steady κ s₀ s) : Steady κ s₀ (hubRefuse s c p) := by
  unfold hubRefuse
  extract_lets -underBinder _ _ t
  have ht : Steady κ s₀ t := State.setCore_steady _ _ h
  exact .ofIte (fun _ => ht) fun _ => coreFault_steady _ _ _ _ (killLink_steady _ _ ht)

theorem hubToken_steady (c p noise : Nat) (h : Steady κ s₀ s) : Steady κ s₀ (hubToken s c p noise) := by
  unfold hubToken
  split
  · refine .ofIte (fun _ => h) fun _ => ?_
    split
    · exact hubRefuse_steady _ _ h
    · extract_lets -underBinder _ t
      have ht : Steady κ s₀ t := State.setCore_steady _ _ h
      refine .ofIte (fun _ => ht) fun _ => ?_
      split
      · exact feedCredit_steady _ _ _ _ ht
      · exact .ofIte (fun _ => gateEof_steady _ ht) fun _ => .ofIte (fun _ => ht) fun _ => .ofIte (fun _ =>
            planFault_steady _ _ _ _ ht) fun _ => .ofIte (fun _ => outControl_steady _ _ _ _ _ ht) fun _ => .ofIte (fun _ =>
            outData_steady _ _ _ ht) fun _ => .ofIte (fun _ => logEvent_steady _ _ _ _ _ _ _ ht) fun _ => ht
  · exact h

theorem afterNotrun_steady {t : State} (k : Nat) (ht : Steady κ s₀ t) : Steady κ s₀ (afterNotrun s t k) := by
  unfold afterNotrun
  split
  · exact .ofIte (fun _ => ht) fun _ => streamCheck_steady _ (planCheck_steady _ ht)
  · exact ht

theorem fetchDescriptor_steady (k : Nat) (got : Option Bytes) (h : Steady κ s₀ s) : Steady κ s₀ (fetchDescriptor s k got) :=
  afterNotrun_steady _ (descFetch_steady _ _ h)

end Sys2Proof.Machine
end

section
/-! What the operations of Sys2Proof/Machine/Mover.lean do to the state keeps the invariants. -/
namespace Sys2Proof.Machine
open Sys2Proof Sys2Proof.Machine.Reg
variable {κ : Bool} {s₀ s : State}

theorem mvrFail_steady (u n cause detail : Nat) (h : Steady κ s₀ s) : Steady κ s₀ (mvrFail s u n cause detail) := by
  unfold mvrFail
  extract_lets -underBinder _ t
  have ht : Steady κ s₀ t := haltChannel_steady _ _ _ _ h
  exact .ofIte (fun _ => ht) fun _ => planFault_steady _ _ _ _ (logEvent_steady _ _ _ _ _ _ _ ht)

theorem mvrStart_steady (u n addr slots : Nat) (h : Steady κ s₀ s) : Steady κ s₀ (mvrStart s u n addr slots) := by
  unfold mvrStart
  extract_lets -underBinder _ _ _ t
  have ht : Steady κ s₀ t := State.setMvr_steady _ _ _ h
  exact State.setF_steady _ _ _ (State.setF_steady _ _ _ (State.setF_steady _ _ _ ht))

theorem armChannel_steady (u n : Nat) (h : Steady κ s₀ s) : Steady κ s₀ (armChannel s u n) :=
  .ofIte (fun _ => State.addF_steady _ _ _ (State.setF_steady _ _ _ h)) fun _ => .ofIte (fun _ =>
    mvrStart_steady _ _ _ _ (State.setF_steady _ _ _ h)) fun _ => State.setF_steady _ _ _ (State.setMvr_steady _ _ _ h)

theorem mvrArm_steady (u n v : Nat) (h : Steady κ s₀ s) : Steady κ s₀ (mvrArm s u n v) :=
  .ofIte (fun _ => h) fun _ => armChannel_steady _ _ (.ofIte (fun _ => h) fun _ => State.writeRW_steady _ _ h)

theorem mvrAbortWrite_steady (u n : Nat) (h : Steady κ s₀ s) : Steady κ s₀ (mvrAbortWrite s u n) :=
  .ofIte (fun _ => h) fun _ => mvrFail_steady _ _ _ _ h

theorem mvrErr_steady (u n detail : Nat) (h : Steady κ s₀ s) : Steady κ s₀ (mvrErr s u n detail) :=
  mvrFail_steady _ _ _ _ h

theorem mvrGoto_steady (u n i : Nat) (h : Steady κ s₀ s) : Steady κ s₀ (mvrGoto s u n i) :=
  .ofIte (fun _ => mvrErr_steady _ _ _ h) fun _ => State.setF_steady _ _ _ (State.setF_steady _ _ _
    (State.setMvr_steady _ _ _ h))

theorem mvrNop_steady (u n : Nat) (h : Steady κ s₀ s) : Steady κ s₀ (mvrNop s u n) :=
  .ofIte (fun _ => h) fun _ => .ofIte (fun _ => mvrErr_steady _ _ _ h) fun _ => mvrGoto_steady _ _ _ h

theorem mvrBeginMove_steady (u n op : Nat) (h : Steady κ s₀ s) : Steady κ s₀ (mvrBeginMove s u n op) :=
  .ofIte (fun _ => h) fun _ => .ofIte (fun _ => mvrErr_steady _ _ _ h) fun _ => .ofIte (fun _ =>
    mvrErr_steady _ _ _ h) fun _ => .ofIte (fun _ => mvrErr_steady _ _ _ h) fun _ => .ofIte (fun _ =>
    mvrErr_steady _ _ _ h) fun _ => .ofIte (fun _ => mvrErr_steady _ _ _ h) fun _ => .ofIte (fun _ =>
    mvrErr_steady _ _ _ h) fun _ => .ofIte (fun _ => mvrGoto_steady _ _ _ h) fun _ => .ofIte (fun _ =>
    mvrErr_steady _ _ _ h) fun _ => State.setMvr_steady _ _ _ h

theorem mvrLoop_steady (u n : Nat) (h : Steady κ s₀ s) : Steady κ s₀ (mvrLoop s u n) :=
  .ofIte (fun _ => h) fun _ => .ofIte (fun _ => mvrErr_steady _ _ _ h) fun _ => .ofIte (fun _ =>
    mvrErr_steady _ _ _ h) fun _ => .ofIte (fun _ => mvrErr_steady _ _ _ h) fun _ => .ofIte (fun _ =>
    mvrErr_steady _ _ _ h) fun _ => .ofIte (fun _ => mvrGoto_steady _ _ _ (State.setMvr_steady _ _ _ h)) fun _ =>
    mvrGoto_steady _ _ _ (State.setMvr_steady _ _ _ h)

theorem mvrWait_steady (u n : Nat) (h : Steady κ s₀ s) : Steady κ s₀ (mvrWait s u n) := by
  unfold mvrWait
  refine .ofIte (fun _ => h) fun _ => ?_
  extract_lets -underBinder _ _ _ _ _ _ _ _ t
  have ht : Steady κ s₀ t := State.setMvr_steady _ _ _ h
  refine .ofIte (fun _ => mvrErr_steady _ _ _ h) fun _ => ?_
  refine .ofIte (fun _ => mvrErr_steady _ _ _ h) fun _ => ?_
  refine .ofIte (fun _ => .ofIte (fun _ => mvrGoto_steady _ _ _ (State.setF_steady _ _ _ ht)) fun _ =>
      State.setF_steady _ _ _ ht) fun _ => ?_
  split
  · exact State.setF_steady _ _ _ ht
  · extract_lets -underBinder v
    have hv : Steady κ s₀ v := progress_steady _ (State.addF_steady _ _ _ (State.setHq_steady _ _ _ ht))
    exact mvrGoto_steady _ _ _ (State.setF_steady _ _ _ (State.setMvr_steady _ _ _ hv))

theorem mvrPulse_steady (u line : Nat) (h : Steady κ s₀ s) : Steady κ s₀ (mvrPulse s u line) :=
  .foldl h fun _ _ ht => State.setF_steady _ _ _ ht

theorem mvrSignal_steady (u n : Nat) (h : Steady κ s₀ s) : Steady κ s₀ (mvrSignal s u n) := by
  unfold mvrSignal
  refine .ofIte (fun _ => h) fun _ => ?_
  extract_lets -underBinder
  refine .ofIte (fun _ => mvrErr_steady _ _ _ h) fun _ => ?_
  refine .ofIte (fun _ => mvrGoto_steady _ _ _ (mvrPulse_steady _ _ h)) fun _ => ?_
  refine .ofIte (fun _ => mvrErr_steady _ _ _ h) fun _ => ?_
  split
  · exact mvrErr_steady _ _ _ h
  · extract_lets -underBinder _ _ t _ v
    have ht : Steady κ s₀ t := pushQueue_steady _ _ _ _ h
    have hv : Steady κ s₀ v := State.setF_steady _ _ _ (State.setMvr_steady _ _ _ ht)
    exact .ofIte (fun _ => mvrFail_steady _ _ _ _ ht) fun _ => mvrGoto_steady _ _ _ hv

theorem mvrEnd_steady (u n : Nat) (h : Steady κ s₀ s) : Steady κ s₀ (mvrEnd s u n) := by
  unfold mvrEnd
  refine .ofIte (fun _ => h) fun _ => ?_
  refine .ofIte (fun _ => mvrErr_steady _ _ _ h) fun _ => .ofIte (fun _ => h) fun _ => ?_
  extract_lets -underBinder _ _ v
  have hv : Steady κ s₀ v := State.setMvr_steady _ _ _ (mvrPulse_steady _ _ h)
  split
  · exact mvrStart_steady _ _ _ _ hv
  · exact State.setF_steady _ _ _ hv

theorem mvrReservedOp_steady (u n : Nat) (h : Steady κ s₀ s) : Steady κ s₀ (mvrReservedOp s u n) :=
  .ofIte (fun _ => mvrErr_steady _ _ _ h) fun _ => h

theorem mvrRead_steady (u a len : Nat) (h : Steady κ s₀ s) : Steady κ s₀ (mvrRead s u a len).2 := by
  unfold mvrRead
  split
  · rename_i e
    exact asleep_steady _ _ h e
  · split
    · split
      · exact h
      · rename_i e₁
        exact fifWords_steady _ _ h e₁
    · refine .ofIteSnd (fun _ => logBusError_steady _ h) fun _ => ?_
      refine .ofIteSnd (fun _ => logBusError_steady _ h) fun _ => ?_
      extract_lets -underBinder
      refine .ofIteSnd (fun _ => h) fun _ => ?_
      split
      · rename_i e₁
        exact .ofPair e₁ (memRead_steady _ _ h)
      · rename_i e₁
        exact logBusError_steady _ (.ofPair e₁ (memRead_steady _ _ h))
      · rename_i e₁
        exact logUncorrectable_steady _ _ _ (.ofPair e₁ (memRead_steady _ _ h))

theorem mvrWrite_steady (u a : Nat) (b : Bytes) (late : Option Nat) (h : Steady κ s₀ s) :
    Steady κ s₀ (mvrWrite s u a b late).2 := by
  unfold mvrWrite
  split
  · exact .ofIteSnd (fun _ => logBusError_steady _ h) fun _ => .foldl h fun _ _ ht => gustFeed_steady _ _ _ _ ht
  · refine .ofIteSnd (fun _ => logBusError_steady _ h) fun _ => ?_
    refine .ofIteSnd (fun _ => logBusError_steady _ h) fun _ => ?_
    extract_lets -underBinder
    refine .ofIteSnd (fun _ => h) fun _ => ?_
    refine .ofIteSnd (fun _ => State.setMvr_steady _ _ _ h) fun _ => ?_
    split
    · rename_i e'
      exact logBusError_steady _ (.ofPair e' (memWrite_steady _ _ h))
    · rename_i e'
      exact .ofPair e' (memWrite_steady _ _ h)

theorem mvrIssued_steady (u n : Nat) (h : Steady κ s₀ s) : Steady κ s₀ (mvrIssued s u n) :=
  .ofIte (fun _ => State.addF_steady _ _ _ (State.setMvr_steady _ _ _ h)) fun _ => State.setMvr_steady _ _ _ h

theorem mvrRetry_steady (u n detail : Nat) (h : Steady κ s₀ s) : Steady κ s₀ (mvrRetry s u n detail) :=
  .ofIte (fun _ => State.setMvr_steady _ _ _ h) fun _ => mvrFail_steady _ _ _ _ h

theorem mvrBounds_steady (u n c off : Nat) (h : Steady κ s₀ s) : Steady κ s₀ (mvrBounds s u n c off) :=
  mvrFail_steady _ _ _ _ (coreFault_steady _ _ _ _ h)

theorem mvrLoadBurst_steady (u n : Nat) (h : Steady κ s₀ s) : Steady κ s₀ (mvrLoadBurst s u n) := by
  unfold mvrLoadBurst
  extract_lets -underBinder _ _ _ t
  have ht : Steady κ s₀ t.2 := injected_steady _ _ h
  refine .ofIte (fun _ => mvrRetry_steady _ _ _ (mvrIssued_steady _ _ ht)) fun _ => ?_
  split
  · rename_i e
    exact .ofPair e (mvrRead_steady _ _ _ h)
  · rename_i e
    exact mvrRetry_steady _ _ _ (mvrIssued_steady _ _ (.ofPair e (mvrRead_steady _ _ _ h)))
  · rename_i e
    exact mvrBounds_steady _ _ _ _ (mvrIssued_steady _ _ (.ofPair e (mvrRead_steady _ _ _ h)))
  · rename_i e
    extract_lets -underBinder t₁ _ _ _ t₂
    have ht₁ : Steady κ s₀ t₁ := mvrIssued_steady _ _ (.ofPair e (mvrRead_steady _ _ _ h))
    have ht₂ : Steady κ s₀ t₂ := State.addF_steady _ _ _ (State.setMvr_steady _ _ _ ht₁)
    exact .ofIte (fun _ => State.setF_steady _ _ _ (State.setF_steady _ _ _ ht₂)) fun _ => ht₂

theorem mvrSource_steady (u n a len : Nat) (h : Steady κ s₀ s) : Steady κ s₀ (mvrSource s u n a len).2 := by
  unfold mvrSource
  split
  · exact h
  · split
    · rename_i v e'
      have hv : Steady κ s₀ v := .ofPair e' (mvrRead_steady _ _ _ h)
      exact .ofIte (fun _ => hv) fun _ => State.setMvr_steady _ _ _ hv
    · exact mvrRead_steady _ _ _ h

theorem mvrDataBurst_steady (u n : Nat) (h : Steady κ s₀ s) : Steady κ s₀ (mvrDataBurst s u n) := by
  unfold mvrDataBurst
  extract_lets -underBinder _ _ _ _ _ _ _ t
  have ht : Steady κ s₀ t.2 := injected_steady _ _ h
  refine .ofIte (fun _ => mvrRetry_steady _ _ _ (mvrIssued_steady _ _ ht)) fun _ => ?_
  refine .ofIte (fun _ => h) fun _ => ?_
  split
  · rename_i e
    exact asleep_steady _ _ h e
  · split
    · rename_i e'
      exact .ofPair e' (mvrSource_steady _ _ _ _ h)
    · rename_i e'
      exact mvrRetry_steady _ _ _ (mvrIssued_steady _ _ (.ofPair e' (mvrSource_steady _ _ _ _ h)))
    · rename_i t₂ e'
      have ht₂ : Steady κ s₀ t₂ := .ofPair e' (mvrSource_steady _ _ _ _ h)
      exact mvrBounds_steady _ _ _ _ (mvrIssued_steady _ _ ht₂)
    · rename_i t₂ e'
      have ht₂ : Steady κ s₀ t₂ := .ofPair e' (mvrSource_steady _ _ _ _ h)
      extract_lets -underBinder _ t₃
      have ht₃ : Steady κ s₀ t₃ := mvrIssued_steady _ _ (.ofIte (fun _ => ht₂) fun _ => ht₂.upd)
      split
      · rename_i e₁
        exact .ofPair e₁ (mvrWrite_steady _ _ _ _ ht₃)
      · rename_i t₅ e₁
        have ht₅ : Steady κ s₀ t₅ := .ofPair e₁ (mvrWrite_steady _ _ _ _ ht₃)
        exact mvrRetry_steady _ _ _ (State.setMvr_steady _ _ _ ht₅)
      · rename_i e₁
        exact mvrBounds_steady _ _ _ _ (.ofPair e₁ (mvrWrite_steady _ _ _ _ ht₃))
      · rename_i e₁
        extract_lets -underBinder _ t₆
        have ht₆ : Steady κ s₀ t₆ := State.addF_steady _ _ _ (.ofPair e₁ (mvrWrite_steady _ _ _ _ ht₃))
        exact .ofIte (fun _ => State.setMvr_steady _ _ _ ht₆) fun _ => .ofIte (fun _ =>
            State.setMvr_steady _ _ _ ht₆) fun _ => mvrGoto_steady _ _ _ (State.setMvr_steady _ _ _ ht₆)

theorem lullError_steady (c cause detail : Nat) (h : Steady κ s₀ s) : Steady κ s₀ (lullError s c cause detail) := by
  unfold lullError
  extract_lets -underBinder _ _ _ _ v
  have hv : Steady κ s₀ v := State.setCluster_steady _ _ (haltChannel_steady _ _ _ _ h)
  exact .ofIte (fun _ => hv) fun _ => planFault_steady _ _ _ _ (logEvent_steady _ _ _ _ _ _ _ hv)

theorem lullBurst_steady (u : Nat) (h : Steady κ s₀ s) : Steady κ s₀ (lullBurst s u) := by
  unfold lullBurst
  extract_lets -underBinder _ v
  have hv : Steady κ s₀ v := mvrIssued_steady _ _ (injected_steady _ _ h)
  exact .ofIte (fun _ => .ofIte (fun _ => State.setMvr_steady _ _ _ hv) fun _ => lullError_steady _ _ _ hv) fun _ =>
      State.addF_steady _ _ _ (State.setCluster_steady _ _ hv)

theorem lullTry_steady (u : Nat) (failed : MemRes → Bool) {f : State → MemRes × State} (n : Nat)
    (hf : ∀ t, Steady κ s₀ t → Steady κ s₀ (f t).2) (h : Steady κ s₀ s) : Steady κ s₀ (lullTry u failed f n s).2 := by
  induction n generalizing s with
  | zero => exact hf _ h
  | succ n ih =>
    unfold lullTry
    exact .ofIteSnd (fun _ => ih (mvrIssued_steady _ _ (State.setMvr_steady _ _ _ (hf _ h)))) fun _ => hf _ h

theorem lateFails_steady (u n a : Nat) (h : Steady κ s₀ s) : Steady κ s₀ (lateFails u n s a) := by
  unfold lateFails
  extract_lets -underBinder t
  have ht : Steady κ s₀ t := logBusError_steady _ h
  exact .ofIte (fun _ => ht) fun _ => mvrFail_steady _ _ _ _ (State.addF_steady _ _ _ (State.setMvr_steady _ _ _ ht))

theorem landAll_steady (u : Nat) (h : Steady κ s₀ s) : Steady κ s₀ (landAll s u) :=
  .foldl h fun _ _ ht => .ofIte (fun _ => ht) fun _ => landList_steady _ _ _ (fun _ _ hv =>
    lateFails_steady _ _ _ hv) (setPosts_steady _ _ _ ht)

theorem mvrBurst_steady (u : Nat) (h : Steady κ s₀ s) : Steady κ s₀ (mvrBurst s u) := by
  unfold mvrBurst
  extract_lets -underBinder t
  have ht : Steady κ s₀ t := landAll_steady _ h
  split
  · exact ht
  · extract_lets -underBinder v
    have hv : Steady κ s₀ v := ht.upd
    exact .ofIte (fun _ => lullBurst_steady _ hv) fun _ => .ofIte (fun _ => mvrLoadBurst_steady _ _ hv) fun _ =>
        mvrDataBurst_steady _ _ hv

end Sys2Proof.Machine
end

section
/-! What the operations of Sys2Proof/Machine/Switch.lean do to the state keeps the invariants. -/
namespace Sys2Proof.Machine
open Sys2Proof Sys2Proof.Machine.Reg
variable {κ : Bool} {s₀ s : State}

theorem cfgReg_steady (a v : Nat) (h : Steady κ s₀ s) : Steady κ s₀ (cfgReg s a v) := by
  unfold cfgReg
  split
  · extract_lets -underBinder
    refine .ofIte (fun _ => coreConfigWrite_steady _ _ _ h) fun _ => ?_
    split
    · exact engSeedWrite_steady _ _ _ h
    · exact State.writePlain_steady _ _ h
  · split
    · exact mvrArm_steady _ _ _ h
    · exact .ofIte (fun _ => mvrAbortWrite_steady _ _ h) fun _ => h
    · exact gustMaskWrite_steady _ _ _ h
    · exact State.writePlain_steady _ _ h
  · exact h

theorem cfgStep_steady (st : State × List (Nat × Nat)) (w : CfgWrite) (h : Steady κ s₀ st.1) :
    Steady κ s₀ (cfgStep st w).1 := by
  unfold cfgStep
  split
  · exact stewardWrite_steady _ _ h
  · split
    · exact State.writeRW_steady _ _ h
    · exact cfgReg_steady _ _ h

theorem writeList_steady (l : List CfgWrite) (h : Steady κ s₀ s) : Steady κ s₀ (writeList s l).1 :=
  .foldlFst h fun _ _ ht => cfgStep_steady _ _ ht

theorem kilnPpu_steady (st : State × Bytes × List (Nat × Nat × Bytes)) (seg c d e : Nat) (h : Steady κ s₀ st.1) :
    Steady κ s₀ (kilnPpu st seg c d e).1 := by
  have hb : ∀ t a n, Steady κ s₀ t → Steady κ s₀ (stewardBytes t a n).2 := fun _ _ _ => stewardBytes_steady _ _
  show SteadyFst κ s₀ (kilnPpu st seg c d e)
  rw [show kilnPpu = delta% kilnPpu by delta kilnPpu; rfl]
  obtain ⟨read, hread⟩ : ∃ f, stewardBytes = f := ⟨_, rfl⟩
  rw [hread] at hb ⊢
  beta_reduce
  extract_lets -underBinder t r sel n rt bt q1 q2
  have h2 : Steady κ s₀ q2.2 := hb _ _ _ (hb _ _ _ h)
  split <;> exact h2

theorem kilnImage_steady (p : Nat) (h : Steady κ s₀ s) : Steady κ s₀ (kilnImage s p).1 := by
  have hk : ∀ m seg c d e, Steady κ s₀ m.1 → Steady κ s₀ (kilnPpu m seg c d e).1 := fun _ _ _ _ _ => kilnPpu_steady _ _ _ _ _
  show SteadyFst κ s₀ (kilnImage s p)
  rw [show kilnImage = delta% kilnImage by delta kilnImage; rfl]
  obtain ⟨ppu, hppu⟩ : ∃ f, kilnPpu = f := ⟨_, rfl⟩
  rw [hppu] at hk ⊢
  beta_reduce
  extract_lets -underBinder x
  exact .ofIteFst (fun _ => h) fun _ => .foldlFst h fun _ _ ht => .foldlFst ht fun _ _ hu => hk _ _ _ _ _ hu

theorem zeroKiln_steady (p cfg : Nat) (h : Steady κ s₀ s) : Steady κ s₀ (zeroKiln s p cfg) :=
  .foldl h fun _ _ ht => .foldl ht fun _ _ hu => .ofIte (fun _ => hu) fun _ => stewardWrite_steady _ _ hu

theorem txuFence_steady (u mask : Nat) (h : Steady κ s₀ s) : Steady κ s₀ (txuFence s u mask) :=
  .ofIte (fun _ => h) fun _ => .foldl h fun _ _ ht => .ofIte (fun _ => ht) fun _ => fenceAndMove_steady _ ht

theorem txuOwnWrite_steady (u o a v : Nat) (h : Steady κ s₀ s) : Steady κ s₀ (txuOwnWrite s u o a v) :=
  .ofIte (fun _ => State.setF_steady _ _ _ h) fun _ => .ofIte (fun _ => txuFence_steady _ _ h) fun _ =>
    State.writePlain_steady _ _ h

theorem mvrRegWrite_steady (u n o a v : Nat) (h : Steady κ s₀ s) : Steady κ s₀ (mvrRegWrite s u n o a v) :=
  .ofIte (fun _ => .ofIte (fun _ => mvrAbortWrite_steady _ _ h) fun _ => h) fun _ => .ofIte (fun _ =>
    mvrArm_steady _ _ _ h) fun _ => State.writePlain_steady _ _ h

theorem actReg_steady (u a v : Nat) (h : Steady κ s₀ s) : Steady κ s₀ (actReg s u a v) := by
  unfold actReg
  split
  · extract_lets -underBinder
    refine .ofIte (fun _ => coreConfigSet_steady _ _ _ h) fun _ => ?_
    refine .ofIte (fun _ => bankCtrlWrite_steady _ _ _ h) fun _ => ?_
    split
    · exact State.setF_steady _ _ _ h
    · exact State.writePlain_steady _ _ h
  · refine .ofIte (fun _ => txuOwnWrite_steady _ _ _ _ h) fun _ => ?_
    refine .ofIte (fun _ => mvrRegWrite_steady _ _ _ _ _ h) fun _ => ?_
    refine .ofIte (fun _ => bankCtrlWrite_steady _ _ _ h) fun _ => ?_
    split
    · exact gustMaskWrite_steady _ _ _ h
    · exact State.writePlain_steady _ _ h
  · refine .ofIte (fun _ => txuOwnWrite_steady _ _ _ _ h) fun _ => ?_
    refine .ofIte (fun _ => mvrRegWrite_steady _ _ _ _ _ h) fun _ => ?_
    refine .ofIte (fun _ => h.upd) fun _ => ?_
    split
    · exact State.setF_steady _ _ _ h
    · exact State.writePlain_steady _ _ h
  · exact h

theorem applyAction_steady (u a : Nat) (h : Steady κ s₀ s) : Steady κ s₀ (applyAction s u a) := by
  unfold applyAction
  split
  · exact actReg_steady _ _ _ h
  · split
    · exact mvrArm_steady _ _ _ (State.writeRW_steady _ _ h)
    · exact h
  · split
    · exact pushQueue_steady _ _ _ _ h
    · exact h
  · refine .foldl h fun _ _ ht => ?_
    extract_lets -underBinder v w
    have hv : Steady κ s₀ v := State.setF_steady _ _ _ ht
    have hw : Steady κ s₀ w := .foldl hv fun _ _ ht₁ => resetQueue_steady _ _ ht₁
    exact emptyFeeds_steady _ (State.setCore_steady _ _ hw)
  · exact h

theorem applyGroup_steady (u : Nat) (l : List (BitVec 128)) (h : Steady κ s₀ s) : Steady κ s₀ (applyGroup s u l) :=
  .foldl h fun _ _ ht => applyAction_steady _ _ ht

theorem lockGroup_steady (u : Nat) (l : List (BitVec 128)) (on : Bool) (h : Steady κ s₀ s) :
    Steady κ s₀ (lockGroup s u l on) := by
  unfold lockGroup
  extract_lets -underBinder t
  have ht : Steady κ s₀ t := .foldl h fun _ _ hv => State.setCore_steady _ _ hv
  exact .foldl ht fun _ _ hv => State.setMvr_steady _ _ _ hv

theorem stageActs_steady (u : Nat) (l : List (BitVec 128)) (h : Steady κ s₀ s) : Steady κ s₀ (stageActs s u l) := by
  unfold stageActs
  extract_lets -underBinder t
  have ht : Steady κ s₀ t := .foldl h fun _ _ hv => .foldl hv fun _ _ hw => State.setReg_steady _ _ hw
  exact State.setF_steady _ _ _ (State.setF_steady _ _ _ ht)

theorem txuActWrite_steady (u i k v : Nat) (h : Steady κ s₀ s) : Steady κ s₀ (txuActWrite s u i k v) := by
  unfold txuActWrite
  extract_lets -underBinder _ t
  have ht : Steady κ s₀ t := State.setReg_steady _ _ h
  exact .ofIte (fun _ => State.setF_steady _ _ _ h) fun _ => State.setF_steady _ _ _ (State.maxF_steady _ _ _ ht)

theorem txuClear_steady (u : Nat) (h : Steady κ s₀ s) : Steady κ s₀ (txuClear s u) :=
  .ofIte (fun _ => State.setF_steady _ _ _ (State.setF_steady _ _ _ h)) fun _ => h

theorem txuDone_steady (u : Nat) (h : Steady κ s₀ s) : Steady κ s₀ (txuDone s u) :=
  State.addF_steady _ _ _ (State.setF_steady _ _ _ (State.setF_steady _ _ _ h))

theorem txuFail_steady (u idx why : Nat) (h : Steady κ s₀ s) : Steady κ s₀ (txuFail s u idx why) :=
  State.setF_steady _ _ _ (State.setF_steady _ _ _ h)

theorem localCommit_steady (u : Nat) (h : Steady κ s₀ s) : Steady κ s₀ (localCommit s u) := by
  unfold localCommit
  extract_lets -underBinder
  refine .ofIte (fun _ => State.setF_steady _ _ _ h) fun _ => ?_
  split
  · exact State.addF_steady _ _ _ (State.setF_steady _ _ _ (txuFail_steady _ _ _ h))
  · exact txuDone_steady _ (txuFail_steady _ _ _ (applyGroup_steady _ _ h))

theorem beginGroup_steady (h : Steady κ s₀ s) : Steady κ s₀ (beginGroup s) := by
  unfold beginGroup
  split
  · exact h
  · refine .ofIte (fun _ => h) fun _ => ?_
    extract_lets -underBinder _ t _ u v
    have ht : Steady κ s₀ t := .foldl (stageActs_steady _ _ h) fun _ _ hw => .ofIte (fun _ => hw) fun _ =>
        stageActs_steady _ _ hw
    have hu : Steady κ s₀ u := State.setF_steady _ _ _ ht
    have hv : Steady κ s₀ v := State.setF_steady _ _ _ (txuFail_steady _ _ _ (State.setF_steady _ _ _
        (State.setF_steady _ _ _ hu)))
    exact hv.upd

theorem queueGroup_steady (g : Group) (h : Steady κ s₀ s) : Steady κ s₀ (queueGroup s g) :=
  beginGroup_steady h.upd

theorem moveSeeds_steady (x : PlanSt) (cfg c : Nat) (h : Steady κ s₀ s) : Steady κ s₀ (moveSeeds s x cfg c) := by
  unfold moveSeeds
  refine .foldl h fun _ _ ht => ?_
  extract_lets -underBinder
  split
  · exact State.setF_steady _ _ _ ht
  · exact ht

theorem switchConfig_steady (p : Nat) (h : Steady κ s₀ s) : Steady κ s₀ (switchConfig s p) := by
  unfold switchConfig
  extract_lets -underBinder _ _ _ u _ _ v w
  have hu : Steady κ s₀ u := .ofIte (fun _ => (kilnImage_steady _ h)) fun _ => h
  have hv : Steady κ s₀ v.1 := writeList_steady _ (State.setPlan_steady _ _ hu)
  have hw : Steady κ s₀ w := .foldl (.ofIte (fun _ => zeroKiln_steady _ _ hv) fun _ =>
      hv) fun _ _ ht₁ => moveSeeds_steady _ _ _ ht₁
  exact queueGroup_steady _ (State.setPlan_steady _ _ hw)

theorem drainCheck_steady (p : Nat) (h : Steady κ s₀ s) : Steady κ s₀ (drainCheck s p) :=
  .ofIte (fun _ => switchConfig_steady _ h) fun _ => h

theorem drainProbe_steady (p : Nat) (h : Steady κ s₀ s) : Steady κ s₀ (drainProbe s p) := by
  unfold drainProbe
  refine .ofIte (fun _ => h) fun _ => ?_
  extract_lets -underBinder t u
  have ht : Steady κ s₀ t := .foldl h fun _ _ hv => State.setF_steady _ _ _ hv
  have hu : Steady κ s₀ u := .foldl ht fun _ _ hv => .foldl hv fun _ _ hw => originate_steady _ _ _ _ hw
  exact drainCheck_steady _ (State.setPlan_steady _ _ hu)

theorem drainTimeout_steady (p : Nat) (h : Steady κ s₀ s) : Steady κ s₀ (drainTimeout s p) :=
  .ofIte (fun _ => planFault_steady _ _ _ _ h) fun _ => h

theorem steerToken_steady (c src : Nat) (h : Steady κ s₀ s) : Steady κ s₀ (steerToken s c src) := by
  unfold steerToken
  extract_lets -underBinder t
  have ht : Steady κ s₀ t := tokenSteer_steady _ _ h
  split
  · exact drainCheck_steady _ ht
  · exact ht

theorem commitSwitch_steady (p : Nat) (h : Steady κ s₀ s) : Steady κ s₀ (commitSwitch s p) :=
  (State.setPlan_steady _ _ h).upd

theorem commitReloc_steady (p : Nat) (h : Steady κ s₀ s) : Steady κ s₀ (commitReloc s p) :=
  (State.setPlan_steady _ _ h).upd

theorem decideCommit_steady (h : Steady κ s₀ s) : Steady κ s₀ (decideCommit s) := by
  unfold decideCommit
  extract_lets -underBinder
  split
  · exact h
  · extract_lets -underBinder _ u _ v
    have hu : Steady κ s₀ u := applyGroup_steady _ _ (State.setF_steady _ _ _ (State.setF_steady _ _ _ h))
    have hv : Steady κ s₀ v := .ofIte (fun _ => commitSwitch_steady _ hu) fun _ => .ofIte (fun _ =>
        commitReloc_steady _ hu) fun _ => hu
    exact hv.upd

theorem decideAbort_steady (h : Steady κ s₀ s) : Steady κ s₀ (decideAbort s) := by
  unfold decideAbort
  extract_lets -underBinder
  split
  · exact h
  · exact (State.addF_steady _ _ _ (State.setF_steady _ _ _ h)).upd

theorem afterSwitch_steady (p : Nat) (h : Steady κ s₀ s) : Steady κ s₀ (afterSwitch s p) := by
  unfold afterSwitch
  extract_lets -underBinder _ _ _ _ u v
  have hu : Steady κ s₀ u := State.setPlan_steady _ _ (State.setF_steady _ _ _ h)
  have hv : Steady κ s₀ v := .ofIte (fun _ => finishAll_steady _ _ hu) fun _ => hu
  exact .ofIte (fun _ => h) fun _ => planCheck_steady _ hv

theorem resetFeeder_steady (p : Nat) (h : Steady κ s₀ s) : Steady κ s₀ (resetFeeder s p) :=
  State.setFeed_steady _ _ (State.setF_steady _ _ _ (State.setF_steady _ _ _ h))

theorem resendEof_steady (p : Nat) (h : Steady κ s₀ s) : Steady κ s₀ (resendEof s p) :=
  .ofIte (fun _ => h) fun _ => .foldl h fun _ _ ht => .ofIte (fun _ =>
    State.setFeed_steady _ _ (State.setStream_steady _ _ ht)) fun _ => ht

theorem afterReloc_steady (p : Nat) (h : Steady κ s₀ s) : Steady κ s₀ (afterReloc s p) := by
  unfold afterReloc
  extract_lets -underBinder
  split
  · exact h
  · extract_lets -underBinder t u _ w t₁
    have ht : Steady κ s₀ t := State.setPlan_steady _ _ h
    have hu : Steady κ s₀ u := .ofIte (fun _ => zeroKiln_steady _ _ ht) fun _ => ht
    have hw : Steady κ s₀ w := finishAll_steady _ _ (resendEof_steady _ (resetFeeder_steady _ hu))
    have ht₁ : Steady κ s₀ t₁ := .foldl hw fun _ _ ht₃ => .ofIte (fun _ => relocReady_steady _ _ ht₃) fun _ =>
        startReloc_steady _ _ ht₃
    exact .foldl (planCheck_steady _ ht₁) fun _ _ ht₃ => streamCheck_steady _ ht₃

theorem idleMemories_steady (h : Steady κ s₀ s) : Steady κ s₀ (idleMemories s) :=
  .foldl h fun _ _ ht => .ofIte (fun _ => retentionRequest_steady _ _ ht) fun _ => ht

theorem clearTransit_steady (r : Nat × Nat × Nat) (h : Steady κ s₀ s) : Steady κ s₀ (clearTransit s r) :=
  State.setReg_steady _ _ h

theorem releaseChannel_steady (q : Nat × Nat) (h : Steady κ s₀ s) : Steady κ s₀ (releaseChannel s q) :=
  State.setMvr_steady _ _ _ (resetRegs_steady _ _ _ (mvrAbort_steady _ _ h))

theorem releaseGust_steady (g : Nat) (h : Steady κ s₀ s) : Steady κ s₀ (releaseGust s g) :=
  State.setF_steady _ _ _ h

theorem releasePlan_steady (p : Nat) (h : Steady κ s₀ s) : Steady κ s₀ (releasePlan s p) := by
  unfold releasePlan
  extract_lets -underBinder _ _ _ t u v _ w _ t₂ t₃ t₄
  have ht : Steady κ s₀ t := .foldl h fun _ _ ht₆ => sweepGroup_steady _ _ (State.setF_steady _ _ _ ht₆)
  have hu : Steady κ s₀ u := .foldl ht fun _ _ ht₆ => releaseChannel_steady _ ht₆
  have hv : Steady κ s₀ v := .foldl hu fun _ _ ht₆ => releaseGust_steady _ ht₆
  have hw : Steady κ s₀ w := resetRegs_steady _ _ _ hv
  have ht₂ : Steady κ s₀ t₂ := resetRegs_steady _ _ _ (resetRegs_steady _ _ _ hw)
  have ht₃ : Steady κ s₀ t₃ := State.setFeed_steady _ _ (State.setPlan_steady _ _ ht₂)
  have ht₄ : Steady κ s₀ t₄ := .foldl ht₃ fun _ _ ht₆ => clearTransit_steady _ ht₆
  exact .foldl ht₄.upd fun _ _ ht₆ => fenceReset_steady _ ht₆

theorem refuseLoad_steady (i p : Nat) (r : Nat × Nat) (h : Steady κ s₀ s) : Steady κ s₀ (refuseLoad s i p r) :=
  finish_steady _ _ _ _ (logEvent_steady _ _ _ _ _ _ _ h)

theorem endLoad_steady (g : Group) (ok : Bool) (h : Steady κ s₀ s) : Steady κ s₀ (endLoad s g ok) := by
  unfold endLoad
  extract_lets -underBinder
  split
  · exact h
  · refine .ofIte (fun _ => h) fun _ => ?_
    extract_lets -underBinder refuse
    have hrefuse : ∀ (r : Nat × Nat), Steady κ s₀ (refuse r) := fun _ =>
        refuseLoad_steady _ _ _ (idleMemories_steady (releasePlan_steady _ h))
    refine .ofIte (fun _ => hrefuse _) fun _ => ?_
    split
    · exact hrefuse _
    · split
      · exact hrefuse _
      · extract_lets -underBinder _ _ t u
        have ht : Steady κ s₀ t.1 := writeList_steady _ (State.setPlan_steady _ _ h)
        have hu : Steady κ s₀ u := .foldl ht fun _ _ hv => moveSeeds_steady _ _ _ hv
        exact .ofIte (fun _ => finish_steady _ _ _ _ (State.setF_steady _ _ _ h)) fun _ => hu.upd

theorem abandonLoad_steady (p : Nat) (h : Steady κ s₀ s) : Steady κ s₀ (abandonLoad s p) := by
  unfold abandonLoad
  refine .ofIte (fun _ => h) fun _ => ?_
  extract_lets -underBinder t
  have ht : Steady κ s₀ t := .foldl h fun _ _ hv => .foldl hv fun _ _ hw => lockGroup_steady _ _ _ hw
  exact idleMemories_steady (releasePlan_steady _ ht.upd)

theorem endGroup_steady (h : Steady κ s₀ s) : Steady κ s₀ (endGroup s) := by
  unfold endGroup
  split
  · exact h
  · extract_lets -underBinder _ _ t u v
    have ht : Steady κ s₀ t := h.upd
    have hu : Steady κ s₀ u := .ofIte (fun _ => txuDone_steady _ ht) fun _ =>
        State.setF_steady _ _ _ (State.setF_steady _ _ _ ht)
    have hv : Steady κ s₀ v := by
      unfold v
      refine .ofIte (fun _ => .ofIte (fun _ => afterSwitch_steady _ hu) fun _ => planFault_steady _ _ _ _ hu) fun _ => ?_
      refine .ofIte (fun _ => ?_) fun _ => .ofIte (fun _ => endLoad_steady _ _ hu) fun _ => hu
      split
      · exact .ofIte (fun _ => afterReloc_steady _ hu) fun _ => planFault_steady _ _ _ _ hu
      · exact hu
    exact beginGroup_steady hv

theorem publishDue_steady (h : Steady κ s₀ s) : Steady κ s₀ (publishDue s) :=
  .foldl h fun _ _ ht => resultPublish_steady ht

theorem tryDecide_steady (h : Steady κ s₀ s) : Steady κ s₀ (tryDecide s) := by
  unfold tryDecide
  extract_lets -underBinder
  refine .ofIte (fun _ => h) fun _ => ?_
  split
  · exact h
  · extract_lets -underBinder t u
    have ht : Steady κ s₀ t := by
      unfold t
      refine .ofIte (fun _ => h) fun _ => ?_
      split
      · exact txuFail_steady _ _ _ h
      · exact h
    have hu : Steady κ s₀ u := .ofIte (fun _ => decideCommit_steady (publishDue_steady ht)) fun _ => decideAbort_steady ht
    exact .ofIte (fun _ => endGroup_steady hu) fun _ => hu

theorem startGroup_steady (h : Steady κ s₀ s) : Steady κ s₀ (startGroup s) :=
  .ofIte (fun _ => tryDecide_steady h) fun _ => h

theorem txuCommit_steady (u : Nat) (h : Steady κ s₀ s) : Steady κ s₀ (txuCommit s u) :=
  .ofIte (fun _ => State.setF_steady _ _ _ h) fun _ => .ofIte (fun _ => localCommit_steady _ h) fun _ => .ofIte (fun _ =>
    State.setF_steady _ _ _ h) fun _ => startGroup_steady (beginGroup_steady h.upd)

theorem txuPrepare_steady (u : Nat) (h : Steady κ s₀ s) : Steady κ s₀ (txuPrepare s u) := by
  unfold txuPrepare
  refine .ofIte (fun _ => h) fun _ => ?_
  extract_lets -underBinder _ t _ _ t₁ _ _ _ vote
  have ht : Steady κ s₀ t := h.upd
  have ht₁ : Steady κ s₀ t₁ := injected_steady _ _ ht
  have hvote : ∀ (t : State) (yes : Bool), Steady κ s₀ t → Steady κ s₀ (vote t yes) := fun _ _ ht₂ => ht₂.upd
  refine .ofIte (fun _ => ht) fun _ => .ofIte (fun _ => (injected_steady _ _ ht)) fun _ => ?_
  split
  · exact hvote _ _ (txuFail_steady _ _ _ ht₁)
  · exact .ofIte (fun _ => hvote _ _ (txuFail_steady _ _ _ ht₁)) fun _ =>
        hvote _ _ (State.setF_steady _ _ _ (lockGroup_steady _ _ _ ht₁))

theorem txuVote_steady (k : Nat) (h : Steady κ s₀ s) : Steady κ s₀ (txuVote s k) := by
  unfold txuVote
  extract_lets -underBinder
  split
  · exact h
  · extract_lets -underBinder _ t u
    have ht : Steady κ s₀ t := h.upd
    have hu : Steady κ s₀ u := .ofIte (fun _ => State.setF_steady _ _ _ ht) fun _ => .ofIte (fun _ =>
        txuFail_steady _ _ _ ht) fun _ => ht
    exact tryDecide_steady hu

theorem txuTimeout_steady (h : Steady κ s₀ s) : Steady κ s₀ (txuTimeout s) :=
  .ofIte (fun _ => h) fun _ => decideAbort_steady (.ofIte (fun _ => txuFail_steady _ _ _ h) fun _ => h)

theorem txuAcked_steady (u : Nat) (h : Steady κ s₀ s) : Steady κ s₀ (txuAcked s u) :=
  h.upd

theorem txuApply_steady (u : Nat) (h : Steady κ s₀ s) : Steady κ s₀ (txuApply s u) :=
  .ofIte (fun _ => h) fun _ => txuAcked_steady _ (txuDone_steady _ (applyGroup_steady _ _ (lockGroup_steady _ _ _ h)))

theorem txuDiscard_steady (u : Nat) (h : Steady κ s₀ s) : Steady κ s₀ (txuDiscard s u) := by
  unfold txuDiscard
  refine .ofIte (fun _ => h) fun _ => ?_
  extract_lets -underBinder _ t
  have ht : Steady κ s₀ t := lockGroup_steady _ _ _ h
  exact txuAcked_steady _ (State.addF_steady _ _ _ (State.setF_steady _ _ _ (State.setF_steady _ _ _ ht)))

theorem txuAck_steady (k : Nat) (h : Steady κ s₀ s) : Steady κ s₀ (txuAck s k) := by
  unfold txuAck
  split
  · exact h
  · extract_lets -underBinder _ t
    have ht : Steady κ s₀ t := h.upd
    exact .ofIte (fun _ => startGroup_steady (endGroup_steady ht)) fun _ => ht

theorem abortNotice_steady (c k : Nat) (h : Steady κ s₀ s) : Steady κ s₀ (abortNotice s c k) := by
  unfold abortNotice
  split
  · exact h
  · refine .ofIte (fun _ => h) fun _ => ?_
    extract_lets -underBinder _ t
    have ht : Steady κ s₀ t := h.upd
    exact .ofIte (fun _ => ht) fun _ => .ofIte (fun _ => planFault_steady _ _ _ _ ht) fun _ => State.setCore_steady _ _ ht

theorem historyInvalidate_steady (k : Nat) (h : Steady κ s₀ s) : Steady κ s₀ (historyInvalidate s k) := by
  unfold historyInvalidate
  split
  · exact h
  · exact .ofIte (fun _ => h) fun _ => streamCheck_steady _ (purgeOne_steady _ h.upd)

theorem settle_steady (p : Nat) (h : Steady κ s₀ s) : Steady κ s₀ (settle s p) := by
  unfold settle
  extract_lets -underBinder _ _ _ t
  have ht : Steady κ s₀ t := h.upd
  exact .foldl ht fun _ _ hu => .ofIte (fun _ => hu) fun _ => State.setCore_steady _ _ hu

theorem restartSequences_steady (p : Nat) (h : Steady κ s₀ s) : Steady κ s₀ (restartSequences s p) := by
  unfold restartSequences
  extract_lets -underBinder
  refine .foldl h fun _ _ ht => ?_
  extract_lets -underBinder _ u
  have hu : Steady κ s₀ u := .foldl ht fun _ _ hv => State.setReg_steady _ _ hv
  exact .foldl hu fun _ _ hv => State.setF_steady _ _ _ hv

theorem flushSettleEnd_steady (p : Nat) (h : Steady κ s₀ s) : Steady κ s₀ (flushSettleEnd s p) := by
  unfold flushSettleEnd
  extract_lets -underBinder
  split
  · exact h
  · refine .ofIte (fun _ => h) fun _ => ?_
    extract_lets -underBinder _ _ u v w
    have hu : Steady κ s₀ u := writeList_steady _ (purgePlan_steady _ (settle_steady _ h))
    have hv : Steady κ s₀ v := .foldl hu fun _ _ ht₂ => moveSeeds_steady _ _ _ ht₂
    have hw : Steady κ s₀ w := restartSequences_steady _ hv
    exact startGroup_steady (queueGroup_steady _ (State.setPlan_steady _ _ hw))

end Sys2Proof.Machine
end

section
/-! What the operations of Sys2Proof/Machine/PlanLoad.lean do to the state keeps the invariants. -/
namespace Sys2Proof.Machine
open Sys2Proof Sys2Proof.Machine.Reg
variable {κ : Bool} {s₀ s : State}

theorem sweepSettings_steady (p : Nat) (b : Bytes) (h : Steady κ s₀ s) : Steady κ s₀ (sweepSettings s p b) :=
  .foldl h fun _ _ ht => sweepGroup_steady _ _ ht

theorem regionContents_steady (b : Bytes) (bases : List Nat) (h : Steady κ s₀ s) :
    Steady κ s₀ (regionContents s b bases) := by
  refine .foldl (.foldl h fun t r ht => .ofIte (fun _ => ht) fun _ => ?_) fun _ _ ht => lineWrite_steady _ _ ht
  exact ⟨ht.pending, ht.b0, ht.fuses,
    fun i => ⟨Memory.wf_eraseRange _ _ (ht.inv i).mem, (ht.inv i).log, (ht.inv i).fuses, (ht.inv i).tap.of rfl⟩, ht.hot⟩

theorem setTransits_steady (p : Nat) (b : Bytes) (h : Steady κ s₀ s) : Steady κ s₀ (setTransits s p b) :=
  .foldl h fun _ _ ht => State.setReg_steady _ _ ht

theorem seedEngines_steady (b : Bytes) (h : Steady κ s₀ s) : Steady κ s₀ (seedEngines s b) := by
  unfold seedEngines
  refine .foldl h fun _ _ ht => .foldl ht fun _ _ hu => ?_
  split
  · exact State.setF_steady _ _ _ hu
  · exact (State.setF_steady _ _ _ hu).upd

theorem writeFeeder_steady (p : Nat) (b : Bytes) (h : Steady κ s₀ s) : Steady κ s₀ (writeFeeder s p b) := by
  unfold writeFeeder
  split
  · exact h
  · extract_lets -underBinder _ t
    have ht : Steady κ s₀ t := State.writeRW_steady _ _ h
    exact .foldl ht fun _ _ hu => .foldl hu fun _ _ hv => State.writeRW_steady _ _ hv

theorem placePlan_steady (p : Nat) (img orig : Bytes) (first : Nat) (bases : List Nat) (h : Steady κ s₀ s) :
    Steady κ s₀ (placePlan s p img orig first bases) := by
  unfold placePlan
  extract_lets -underBinder _ _ t _ _ _ v w _ t₂ t₃ t₄ t₅
  have ht : Steady κ s₀ t := regionContents_steady _ _ h.upd
  have hv : Steady κ s₀ v := State.setPlan_steady _ _ (resetRegs_steady _ _ _ ht)
  have hw : Steady κ s₀ w := State.setF_steady _ _ _ (State.setF_steady _ _ _ (State.setF_steady _ _ _
      (State.setF_steady _ _ _ hv)))
  have ht₂ : Steady κ s₀ t₂.1 := writeList_steady _ (setTransits_steady _ _ hw)
  have ht₃ : Steady κ s₀ t₃ := State.setF_steady _ _ _ (State.setF_steady _ _ _ ht₂)
  have ht₄ : Steady κ s₀ t₄ := resetFeeder_steady _ (writeFeeder_steady _ _ ht₃)
  have ht₅ : Steady κ s₀ t₅ := .foldl (sweepSettings_steady _ _ (seedEngines_steady _ ht₄)) fun _ _ ht₆ =>
      moveSeeds_steady _ _ _ ht₆
  exact ht₅.upd

theorem loadImage_steady (p : Nat) (b : Bytes) (len : Nat) (imgRange : List (Nat × Nat)) (h : Steady κ s₀ s) :
    Steady κ s₀ (loadImage s p b len imgRange).2 := by
  unfold loadImage
  split
  · exact h
  · extract_lets -underBinder _ u
    have hu : Steady κ s₀ u := injected_steady _ _ h
    split
    · exact hu
    · extract_lets -underBinder _ _ _ _ w
      have hw : Steady κ s₀ w := hu.upd.upd
      split
      · exact hw
      · split
        · exact hw
        · exact placePlan_steady _ _ _ _ _ hw

end Sys2Proof.Machine
end

section
/-! What the operations of Sys2Proof/Machine/Reset.lean do to the state keeps the invariants. -/
namespace Sys2Proof.Machine
open Sys2Proof Sys2Proof.Machine.Reg
variable {κ : Bool} {s₀ s : State}

theorem refence_steady (l : List Nat) (h : Steady κ s₀ s) : Steady κ s₀ (refence s l) :=
  .foldl h fun _ _ ht => State.setF_steady _ _ _ ht

theorem resetDie_steady (d : Nat) (h : Steady κ s₀ s) : Steady κ s₀ (resetDie s d) :=
  refence_steady _ (State.setDie_steady _ _ h.upd)

theorem srefDie_steady (d : Nat) (on : Bool) (h : Steady κ s₀ s) : Steady κ s₀ (srefDie s d on) :=
  .foldl h fun _ _ ht => srefChannel_steady _ _ _ ht

theorem loseDie_steady (d : Nat) (h : Steady κ s₀ s) : Steady κ s₀ (loseDie s d) :=
  State.loseRange_steady _ _ h

theorem thermPin_steady (h : Steady κ s₀ s) : Steady κ s₀ (thermPin s) :=
  .ofIte (fun _ => h) fun _ => State.emit_steady _ h.upd

theorem dieReturn_steady (d : Nat) (h : Steady κ s₀ s) : Steady κ s₀ (dieReturn s d) := by
  unfold dieReturn
  extract_lets -underBinder t
  have ht : Steady κ s₀ t := srefDie_steady _ _ (resetDie_steady _ h)
  exact thermPin_steady (State.emit_steady _ (State.setF_steady _ _ _ (State.setF_steady _ _ _ ht)))

theorem logPorts_steady (h : Steady κ s₀ s) : Steady κ s₀ (logPorts s) :=
  .foldl h fun _ _ ht => logEvent_steady _ _ _ _ _ _ _ ht

theorem resetAll_steady (scope cause die : Nat) (hκ : κ = true → scope ≠ rsPOR) (h : Steady κ s₀ s) :
    Steady κ s₀ (resetAll s scope cause die) := by
  unfold resetAll
  extract_lets -underBinder up t shut back fences head dev boot m₁ m₂ u v w x y z a b c d e
  have ht : Steady κ s₀ t := .ofIte (fun hp => State.loseRange_steady _ _ (h.powerOn fun k => hκ k hp)) fun _ =>
    .ofIte (fun _ => h) fun _ => logPorts_steady h
  have hu : Steady κ s₀ u := ht.upd
  have hv : Steady κ s₀ v := .foldl hu fun _ _ hs => State.setF_steady _ _ _ hs
  have hw : Steady κ s₀ w := State.setF_steady _ _ _ (State.setF_steady _ _ _ hv)
  have hx : Steady κ s₀ x := .ofIte (fun _ => State.setF_steady _ _ _ hw) fun _ => hw
  have hy : Steady κ s₀ y := State.setF_steady _ _ _ (State.setF_steady _ _ _ hx)
  have hz : Steady κ s₀ z := State.setF_steady _ _ _ (State.setF_steady _ _ _ hy)
  have ha : Steady κ s₀ a := .foldl hz fun _ _ hs => State.setReg_steady _ _ hs
  have hb : Steady κ s₀ b := .foldl ha fun _ _ hs => State.setF_steady _ _ _ (State.setF_steady _ _ _ hs)
  have hc : Steady κ s₀ c := .foldl hb fun _ _ hs => State.setF_steady _ _ _ (State.setF_steady _ _ _ hs)
  have hd : Steady κ s₀ d := .foldl hc fun _ _ hs => State.emit_steady _ (srefDie_steady _ _ hs)
  have he : Steady κ s₀ e := .ofIte (fun _ => State.setF_steady _ _ _ hd) fun _ => hd
  exact thermPin_steady (refence_steady _ he)

theorem deviceReset_steady (scope cause die : Nat) (hs : scope ≠ rsPOR) (h : Steady κ s₀ s) :
    Steady κ s₀ (deviceReset s scope cause die) := by
  unfold deviceReset
  exact .ofIte (fun _ => h) fun _ => resetAll_steady _ _ _ (fun _ => hs) h

theorem sweepsOff_steady (cl : Nat) (h : Steady κ s₀ s) : Steady κ s₀ (sweepsOff s cl) :=
  State.setDie_steady _ _ h

theorem clusterReset_steady (cl : Nat) (h : Steady κ s₀ s) : Steady κ s₀ (clusterReset s cl) := by
  unfold clusterReset
  extract_lets -underBinder _ _ u
  have hu : Steady κ s₀ u := dropChallenge_steady (sweepsOff_steady _ h.upd)
  exact .foldl hu fun _ _ hv => .foldl hv fun _ _ hw => State.setReg_steady _ _ hw

theorem functionReset_steady (cause : Nat) (h : Steady κ s₀ s) : Steady κ s₀ (functionReset s cause) :=
  .ofIte (fun _ => h) fun _ => deviceReset_steady _ _ _ (by decide) h

theorem endpointTrains_steady (trains : Bool) (h : Steady κ s₀ s) : Steady κ s₀ (endpointTrains s trains) :=
  State.setF_steady _ _ _ (State.setF_steady _ _ _ h)

theorem porRelease_steady (bootsel trains : Bool) (h : Steady κ s₀ s) : Steady κ s₀ (porRelease s bootsel trains) :=
  .ofIte (fun _ => h) fun _ => endpointTrains_steady _ h.upd

theorem perstAssert_steady (h : Steady κ s₀ s) : Steady κ s₀ (perstAssert s) :=
  (Steady.ofIte (fun _ => h) fun _ => deviceReset_steady _ _ _ (by decide) h).upd

theorem perstRelease_steady (bootsel trains : Bool) (h : Steady κ s₀ s) : Steady κ s₀ (perstRelease s bootsel trains) :=
  .ofIte (fun _ => h) fun _ => .ofIte (fun _ => h.upd) fun _ => .ofIte (fun _ => endpointTrains_steady _ h.upd) fun _ =>
    .ofIte (fun _ => endpointTrains_steady _ h.upd) fun _ => h.upd

end Sys2Proof.Machine
end

section
/-! What the operations of Sys2Proof/Machine/Topology.lean do to the state keeps the invariants. -/
namespace Sys2Proof.Machine
open Sys2Proof Sys2Proof.Machine.Reg
variable {κ : Bool} {s₀ s : State}

theorem takeNumbers_steady (net : List Bytes) (l : List Found) (h : Steady κ s₀ s) : Steady κ s₀ (takeNumbers s net l) := by
  unfold takeNumbers
  extract_lets -underBinder t u v
  have ht : Steady κ s₀ t := State.setF_steady _ _ _ (State.setF_steady _ _ _ (State.setF_steady _ _ _ h))
  have hu : Steady κ s₀ u := State.setF_steady _ _ _ ht
  have hv : Steady κ s₀ v := .foldl hu fun _ _ hw => State.setReg_steady _ _ hw
  exact .foldl hv fun _ _ hw => .ofIte (fun _ => hw) fun _ => State.setF_steady _ _ _ (State.setF_steady _ _ _ hw)

theorem takeRecord_steady (net : List Bytes) (h : Steady κ s₀ s) : Steady κ s₀ (takeRecord s net) := by
  unfold takeRecord
  split
  · exact h
  · extract_lets -underBinder _ t u
    have ht : Steady κ s₀ t := State.setF_steady _ _ _ (State.setF_steady _ _ _ (State.setF_steady _ _ _ h))
    have hu : Steady κ s₀ u := .foldl ht fun _ _ hv => State.setReg_steady _ _ hv
    exact .foldl hu fun _ _ hv => .ofIte (fun _ => hv) fun _ => State.setF_steady _ _ _ (State.setF_steady _ _ _ hv)

theorem discover_steady (net : List Bytes) (h : Steady κ s₀ s) : Steady κ s₀ (discover s net).1 := by
  unfold discover
  dsimp only
  exact takeNumbers_steady _ _ h

theorem writeTopology_steady (b : Bytes) (h : Steady κ s₀ s) : Steady κ s₀ (writeTopology s b) := by
  unfold writeTopology
  extract_lets -underBinder _ t u
  have ht : Steady κ s₀ t := .foldl h fun _ _ hv => State.setReg_steady _ _ hv
  have hu : Steady κ s₀ u := .foldl ht fun _ _ hv => State.setReg_steady _ _ (State.setReg_steady _ _ hv)
  exact .foldl hu fun _ _ hv => State.setReg_steady _ _ hv

theorem brokenSources_steady (h : Steady κ s₀ s) : Steady κ s₀ (brokenSources s) := by
  unfold brokenSources
  extract_lets -underBinder gone t lost hit u
  have ht : Steady κ s₀ t := .foldl h fun v k hv => by
    extract_lets -underBinder w x
    have hw : Steady κ s₀ w := by
      unfold w
      split
      · exact .ofIte (fun _ => fifClose_steady _ (fifSpoil_steady _ hv)) fun _ => hv
      · exact hv
    exact .ofIte (fun _ => State.setFifo_steady _ _ hw) fun _ => hw
  have hu : Steady κ s₀ u := ht.upd
  exact .foldl hu fun _ _ hv => tryHold_steady _ _ hv

theorem brokenOutputs_steady (h : Steady κ s₀ s) : Steady κ s₀ (brokenOutputs s) :=
  relayPump_steady h.upd

theorem brokenPaths_steady (h : Steady κ s₀ s) : Steady κ s₀ (brokenPaths s) :=
  brokenOutputs_steady (brokenSources_steady h)

end Sys2Proof.Machine
end

section
/-! What the operations of Sys2Proof/Machine/Boot.lean do to the state keeps the invariants. -/
namespace Sys2Proof.Machine
open Sys2Proof Sys2Proof.Machine.Reg
variable {κ : Bool} {s₀ s : State}

theorem vsetWrite_steady (d mv : Nat) (h : Steady κ s₀ s) : Steady κ s₀ (vsetWrite s d mv) :=
  State.emit_steady _ (State.setF_steady _ _ _ h)

theorem becomeReady_steady (h : Steady κ s₀ s) : Steady κ s₀ (becomeReady s) := by
  unfold becomeReady
  extract_lets -underBinder img wide t u b v
  have ht : Steady κ s₀ t := State.setF_steady _ _ _ (State.setF_steady _ _ _ (State.setF_steady _ _ _ h))
  have hu : Steady κ s₀ u := .ofIte (fun _ => State.setF_steady _ _ _ ht) fun _ => ht
  have hv : Steady κ s₀ v := hu.upd
  exact .ofIte (fun _ => hv.burn fun _ => testBit_burnSvn _ _) fun _ => hv

theorem readyCheck_steady (h : Steady κ s₀ s) : Steady κ s₀ (readyCheck s) :=
  .ofIte (fun _ => becomeReady_steady h) fun _ => h

theorem boardRecord_steady (img : Bytes) (h : Steady κ s₀ s) : Steady κ s₀ (boardRecord s img) := by
  unfold boardRecord
  extract_lets -underBinder _ _ _ t
  have ht : Steady κ s₀ t := State.setF_steady _ _ _ (State.setF_steady _ _ _ h)
  exact .foldl ht.upd fun _ _ hv => vsetWrite_steady _ _ hv

theorem startSteward_steady (src : Nat) (img : Bytes) (reason : Nat) (rec_ : Option (Bytes × Bytes)) (h : Steady κ s₀ s) :
    Steady κ s₀ (startSteward s src img reason rec_) := by
  unfold startSteward
  extract_lets -underBinder _ _ _ _ u v w
  have hu : Steady κ s₀ u := State.setF_steady _ _ _ (State.setF_steady _ _ _ h.upd)
  have hv : Steady κ s₀ v := .ofIte (fun _ => hu) fun _ => State.setF_steady _ _ _ hu
  have hw : Steady κ s₀ w := State.setF_steady _ _ _ (State.setF_steady _ _ _ hv)
  exact boardRecord_steady _ (State.setF_steady _ _ _ (State.setF_steady _ _ _ hw))

theorem enterHostBoot_steady (h : Steady κ s₀ s) : Steady κ s₀ (enterHostBoot s) := by
  unfold enterHostBoot
  extract_lets -underBinder t u
  have ht : Steady κ s₀ t := State.setF_steady _ _ _ (State.setF_steady _ _ _ (State.setF_steady _ _ _ h))
  have hu : Steady κ s₀ u := State.setF_steady _ _ _ (State.setF_steady _ _ _ ht)
  exact State.setF_steady _ _ _ (State.setF_steady _ _ _ hu)

theorem bootFail_steady (reason : Nat) (h : Steady κ s₀ s) : Steady κ s₀ (bootFail s reason) :=
  State.setF_steady _ _ _ (State.setF_steady _ _ _ (State.setF_steady _ _ _ h))

theorem readDirectory_steady (h : Steady κ s₀ s) : Steady κ s₀ (readDirectory s) :=
  State.emit_steady _ h

theorem readFlash_steady (flash : Bytes) (addr len : Nat) (h : Steady κ s₀ s) : Steady κ s₀ (readFlash s flash addr len) :=
  State.emit_steady _ h

theorem readImage_steady (flash : Bytes) (field r : Nat) (h : Steady κ s₀ s) : Steady κ s₀ (readImage s flash field r) := by
  unfold readImage
  extract_lets -underBinder _ t
  have ht : Steady κ s₀ t := readFlash_steady _ _ _ h
  exact .ofIte (fun _ => readFlash_steady _ _ _ ht) fun _ => ht

theorem readIdentity_steady (flash : Bytes) (rec_ : Option (Bytes × Bytes)) (h : Steady κ s₀ s) :
    Steady κ s₀ (readIdentity s flash rec_) := by
  unfold readIdentity
  split
  · exact readFlash_steady _ _ _ h
  · exact h

theorem trySpi_steady (flash : Bytes) (fail0 fail1 : Bool) (rec_ : Option (Bytes × Bytes)) (h : Steady κ s₀ s) :
    Steady κ s₀ (trySpi s flash fail0 fail1 rec_).2 := by
  unfold trySpi
  extract_lets -underBinder try1
  have htry1 : ∀ (s : State), Steady κ s₀ s → Steady κ s₀ (try1 s).2 := by
    unfold try1
    refine fun _ ht => ?_
    split
    · exact ht
    · extract_lets -underBinder u
      have hu : Steady κ s₀ u := State.setF_steady _ _ _ (readImage_steady _ _ _ ht)
      exact .ofIteSnd (fun _ => startSteward_steady _ _ _ _ hu) fun _ => hu
  split
  · exact htry1 _ h
  · extract_lets -underBinder t
    have ht : Steady κ s₀ t := State.setF_steady _ _ _ (readImage_steady _ _ _ h)
    exact .ofIteSnd (fun _ => startSteward_steady _ _ _ _ ht) fun _ => htry1 _ ht

theorem firmwareVerified_steady (flash : Bytes) (fail0 fail1 : Bool) (rec_ : Option (Bytes × Bytes)) (h : Steady κ s₀ s) :
    Steady κ s₀ (firmwareVerified s flash fail0 fail1 rec_) := by
  unfold firmwareVerified
  extract_lets -underBinder
  refine .ofIte (fun _ => h) fun _ => ?_
  split
  · extract_lets -underBinder _ t u v
    have ht : Steady κ s₀ t := State.setF_steady _ _ _ h
    have hu : Steady κ s₀ u := readIdentity_steady _ _ (readDirectory_steady ht)
    have hv : Steady κ s₀ v := State.setF_steady _ _ _ (State.setF_steady _ _ _ ht)
    exact .ofIte (fun _ => startSteward_steady _ _ _ _ (State.setF_steady _ _ _ (State.setF_steady _ _ _ hu))) fun _ =>
        hv.upd
  · refine .ofIte (fun _ => h) fun _ => .ofIte (fun _ => enterHostBoot_steady h) fun _ => ?_
    extract_lets -underBinder t
    have ht : Steady κ s₀ t.2 := .ofIteSnd (fun _ => h) fun _ => trySpi_steady _ _ _ _ (readDirectory_steady h)
    exact .ofIte (fun _ => readIdentity_steady _ _ ht) fun _ => .ofIte (fun _ => enterHostBoot_steady ht) fun _ =>
        bootFail_steady _ ht

theorem hostBootGo_steady (h : Steady κ s₀ s) : Steady κ s₀ (hostBootGo s) :=
  .ofIte (fun _ => h) fun _ => (stewardBytes_steady _ _ (State.setF_steady _ _ _ (State.setF_steady _ _ _ h))).upd

theorem memoryTrained_steady (trained ms rate : Nat) (net : List Bytes) (h : Steady κ s₀ s) :
    Steady κ s₀ (memoryTrained s trained ms rate net) := by
  unfold memoryTrained
  refine .ofIte (fun _ => h) fun _ => ?_
  extract_lets -underBinder t u
  have ht : Steady κ s₀ t := .foldl h fun _ _ hv => State.setF_steady _ _ _ (State.setF_steady _ _ _
      (State.setF_steady _ _ _ hv))
  have hu : Steady κ s₀ u := .ofIte (fun _ => ht) fun _ => .ofIte (fun _ => discover_steady _ ht) fun _ =>
      takeRecord_steady _ ht
  exact .ofIte (fun _ => bootFail_steady _ ht) fun _ => readyCheck_steady hu.upd

theorem bootAdvance_steady (h : Steady κ s₀ s) : Steady κ s₀ (bootAdvance s) :=
  .ofIte (fun _ => State.setF_steady _ _ _ h) fun _ => .ofIte (fun _ => State.setF_steady _ _ _ h) fun _ => h

theorem wdogKick_steady (h : Steady κ s₀ s) : Steady κ s₀ (wdogKick s) :=
  h.upd

theorem stopFalls_steady (p : Nat) (h : Steady κ s₀ s) : Steady κ s₀ (stopFalls s p) :=
  .ofIte (fun _ => h) fun _ => State.setPlan_steady _ _ h

theorem relocFalls_steady (p : Nat) (h : Steady κ s₀ s) : Steady κ s₀ (relocFalls s p) := by
  unfold relocFalls
  split
  · exact .ofIte (fun _ => State.setPlan_steady _ _ (.ofIte (fun _ => dropGroup_steady _ h) fun _ => h)) fun _ => h
  · exact h

theorem stewardFalls_steady (h : Steady κ s₀ s) : Steady κ s₀ (stewardFalls s) := by
  unfold stewardFalls
  extract_lets -underBinder
  refine .foldl (dropChallenge_steady (State.addF_steady _ _ _ h)).upd fun _ _ hv => ?_
  extract_lets -underBinder w t₁
  have hw : Steady κ s₀ w := abandonLoad_steady _ hv
  have ht₁ : Steady κ s₀ t₁ := .ofIte (fun _ => State.setPlan_steady _ _ hw) fun _ => hw
  exact relocFalls_steady _ (stopFalls_steady _ ht₁)

theorem watchdogExpiry_steady (h : Steady κ s₀ s) : Steady κ s₀ (watchdogExpiry s) := by
  unfold watchdogExpiry
  refine .ofIte (fun _ => h) fun _ => ?_
  extract_lets -underBinder _ _ u
  have hu : Steady κ s₀ u := injected_steady _ _ h
  refine .ofIte (fun _ => h) fun _ => ?_
  split
  · exact .ofIte (fun _ => deviceReset_steady _ _ _ (by decide) hu) fun _ => stewardFalls_steady hu
  · exact stewardFalls_steady hu

theorem stewardBack_steady (h : Steady κ s₀ s) : Steady κ s₀ (stewardBack s) := by
  unfold stewardBack
  extract_lets -underBinder _ _ _ v
  have hv : Steady κ s₀ v := by
    unfold v
    refine .foldl (.foldl h.upd fun _ _ hw => finish_steady _ _ _ _ hw) fun _ _ hw => ?_
    split
    · exact .ofIte (fun _ => State.setPlan_steady _ _ hw) fun _ => hw
    · exact drainCheck_steady _ hw
  exact .foldl (startGroup_steady hv) fun _ _ hw => streamCheck_steady _ hw

theorem stewardRestarted_steady (h : Steady κ s₀ s) : Steady κ s₀ (stewardRestarted s) :=
  .ofIte (fun _ => h) fun _ => .ofIte (fun _ => readyCheck_steady h.upd) fun _ => stewardBack_steady h

end Sys2Proof.Machine
end

section
/-! What the operations of Sys2Proof/Machine/Lull.lean do to the state keeps the invariants. -/
namespace Sys2Proof.Machine
open Sys2Proof Sys2Proof.Machine.Reg
variable {κ : Bool} {s₀ s : State}

theorem lullStatus_steady (p : Nat) (l : List Nat) (last c q : Nat) (h : Steady κ s₀ s) :
    Steady κ s₀ (lullStatus s p l last c q) := by
  unfold lullStatus
  extract_lets -underBinder _ _ t u
  have ht : Steady κ s₀ t := State.setF_steady _ _ _ (State.setF_steady _ _ _ (State.setF_steady _ _ _ h))
  have hu : Steady κ s₀ u := .foldl (State.setF_steady _ _ _ ht) fun _ _ hw => State.setReg_steady _ _ hw
  exact logEvent_steady _ _ _ _ _ _ _ (State.maxF_steady _ _ _ (State.addF_steady _ _ _ hu))

theorem declareLull_steady (p : Nat) (l : List Nat) (h : Steady κ s₀ s) : Steady κ s₀ (declareLull s p l) := by
  unfold declareLull
  split
  · exact h
  · exact coreFault_steady _ _ _ _ (lullStatus_steady _ _ _ _ _ h)
  · split
    · exact planFault_steady _ _ _ _ (lullStatus_steady _ _ _ _ _ h)
    · exact State.setCluster_steady _ _ (State.setHq_steady _ _ _ (lullStatus_steady _ _ _ _ _ h))

theorem injectedCycles_steady (p : Nat) (h : Steady κ s₀ s) : Steady κ s₀ (injectedCycles s p).2 := by
  unfold injectedCycles
  extract_lets -underBinder _ _ t
  have ht : Steady κ s₀ t.2 := .ofIteSnd (fun _ => injected_steady _ _ h) fun _ => h
  exact .ofIteSnd (fun _ => injected_steady _ _ ht) fun _ => ht

theorem lullTick_steady (p : Nat) (h : Steady κ s₀ s) : Steady κ s₀ (lullTick s p) := by
  unfold lullTick
  extract_lets -underBinder t _ u
  have ht : Steady κ s₀ t := .foldl h fun _ _ hv => State.setCore_steady _ _ hv
  have hu : Steady κ s₀ u.2 := injectedCycles_steady _ ht
  exact .ofIte (fun _ => ht) fun _ => .foldl hu fun _ _ hv => .ofIte (fun _ => hv) fun _ => declareLull_steady _ _ hv

theorem lullAccess_steady (c a : Nat) (write : Bool) (f : State → MemRes × State)
    (hf : ∀ (a : State), Steady κ s₀ a → Steady κ s₀ (f a).2) (h : Steady κ s₀ s) :
    Steady κ s₀ (lullAccess s c a write f).2 := by
  unfold lullAccess
  extract_lets -underBinder one
  have hone : ∀ (t : State), Steady κ s₀ t → Steady κ s₀ (one t).2 := by
    unfold one
    refine fun _ ht => ?_
    split
    · rename_i e
      exact .ofPair e (hf _ ht)
    · rename_i v e
      have hv : Steady κ s₀ v := .ofPair e (hf _ ht)
      exact .ofIteSnd (fun _ => hv) fun _ => logUncorrectable_steady _ _ _ hv
    · rename_i e
      exact logBusError_steady _ (.ofPair e (hf _ ht))
  split
  · rename_i e
    exact .ofPair e (lullTry_steady _ _ _ (fun _ hv => hone _ hv) (mvrIssued_steady _ _ h))
  · rename_i u e
    have hu : Steady κ s₀ u := .ofPair e (lullTry_steady _ _ _ (fun _ hv => hone _ hv) (mvrIssued_steady _ _ h))
    exact lullError_steady _ _ _ hu
  · rename_i u e
    have hu : Steady κ s₀ u := .ofPair e (lullTry_steady _ _ _ (fun _ hv => hone _ hv) (mvrIssued_steady _ _ h))
    exact lullError_steady _ _ _ hu

theorem lullBounds_steady (c q h' : Nat) (h : Steady κ s₀ s) : Steady κ s₀ (lullBounds s c q h') :=
  lullError_steady _ _ _ (coreFault_steady _ _ _ _ h)

theorem markSpilled_steady (e : Nat) (h : Steady κ s₀ s) : Steady κ s₀ (markSpilled s e) := by
  unfold markSpilled
  refine .ofIte (fun _ => h) fun _ => ?_
  split
  · exact .ofIte (fun _ => h) fun _ => setFrame_steady _ h
  · exact h

theorem bufRead_steady (c q h' len : Nat) (h : Steady κ s₀ s) : Steady κ s₀ (bufRead s c q h' len).2 := by
  unfold bufRead
  split
  · exact lullBounds_steady _ _ _ h
  · exact lullAccess_steady _ _ _ _ (fun _ ht => memRead_steady _ _ ht) h

theorem celWrite_steady (c q e : Nat) (h : Steady κ s₀ s) : Steady κ s₀ (celWrite s c q e).2 := by
  have hr : ∀ hd n, Steady κ s₀ (bufRead s c q hd n).2 := fun _ _ => bufRead_steady _ _ _ _ h
  have ha : ∀ t a b, Steady κ s₀ t → Steady κ s₀ (lullAccess t c a true fun u => memWrite u a b).2 :=
    fun _ _ _ ht => lullAccess_steady _ _ _ _ (fun _ hu => memWrite_steady _ _ hu) ht
  show SteadySnd κ s₀ (celWrite s c q e)
  rw [show celWrite = delta% celWrite by delta celWrite; rfl]
  obtain ⟨read, hread⟩ : ∃ f, bufRead = f := ⟨_, rfl⟩
  obtain ⟨acc, hacc⟩ : ∃ f, lullAccess = f := ⟨_, rfl⟩
  rw [hread] at hr ⊢
  rw [hacc] at ha ⊢
  beta_reduce
  extract_lets -underBinder hq len e hdr
  have hb : Steady κ s₀ (if len = 0 then (some [], s) else read s c q (eHANDLE e) len).2 :=
    .ofIteSnd (fun _ => h) fun _ => hr _ _
  split <;> rename_i e₁
  · exact .ofPair e₁ hb
  extract_lets -underBinder a
  split <;> rename_i e₂
  · exact .ofPair e₂ (ha _ _ _ (.ofPair e₁ hb))
  have hu := Steady.ofPair e₂ (ha _ _ _ (.ofPair e₁ hb))
  refine markSpilled_steady _ ?_
  split
  · exact State.addF_steady _ _ _ (State.addF_steady _ _ _ (State.setHq_steady _ _ _ hu))
  · exact State.addF_steady _ _ _ (State.setHq_steady _ _ _ hu)

theorem lullRead_steady (c a len : Nat) (h : Steady κ s₀ s) : Steady κ s₀ (lullRead s c a len).2 :=
  lullAccess_steady _ _ _ _ (fun _ ht => memRead_steady _ _ ht) h

theorem celRead_steady (c q : Nat) (h : Steady κ s₀ s) : Steady κ s₀ (celRead s c q).2 := by
  unfold celRead
  extract_lets -underBinder
  split
  · rename_i e
    exact .ofPair e (lullRead_steady _ _ _ h)
  · rename_i u e
    have hu : Steady κ s₀ u := .ofPair e (lullRead_steady _ _ _ h)
    extract_lets -underBinder
    refine .ofIteSnd (fun _ => hu) fun _ => ?_
    split <;> rename_i e' <;> exact .ofPair e' (lullRead_steady _ _ _ hu)

theorem celPop_steady (c q : Nat) (h : Steady κ s₀ s) : Steady κ s₀ (celPop s c q) :=
  State.setHq_steady _ _ _ h

theorem celMarkers_steady (c q n : Nat) (h : Steady κ s₀ s) : Steady κ s₀ (celMarkers s c q n) := by
  induction n generalizing s with
  | zero => exact h
  | succ n ih =>
    unfold celMarkers
    refine .ofIte (fun _ => h) fun _ => ?_
    have hr := celRead_steady c q h
    split <;> rename_i e
    · exact .ofPair e hr
    · have ht := Steady.ofPair e hr
      exact .ofIte (fun _ => ih (pushEntry_steady _ _ _ _ (celPop_steady _ _ ht))) fun _ => ht

theorem spillOver_steady (c q : Nat) (h : Steady κ s₀ s) : Steady κ s₀ (spillOver s c q) :=
  .ofIte (fun _ => State.setHq_steady _ _ _ h) fun _ => h

theorem celRefill_steady (c q hd : Nat) (h : Steady κ s₀ s) : Steady κ s₀ (celRefill s c q hd) := by
  unfold celRefill
  refine .ofIte (fun _ => originate_steady _ _ _ _ h) fun _ => ?_
  split
  · rename_i e
    exact .ofPair e (celRead_steady _ _ h)
  · rename_i u e
    have hu : Steady κ s₀ u := .ofPair e (celRead_steady _ _ h)
    split
    · exact lullBounds_steady _ _ _ hu
    · extract_lets -underBinder v
      have hv : Steady κ s₀ v := pushEntry_steady _ _ _ _ (celPop_steady _ _ (sramWrite_steady _ _ hu))
      exact celMarkers_steady _ _ _ hv

theorem lullTake_steady (cl : Nat) (h : Steady κ s₀ s) : Steady κ s₀ (lullTake s cl) :=
  State.setCluster_steady _ _ h

theorem spillComplete_steady (cl : Nat) (h : Steady κ s₀ s) : Steady κ s₀ (spillComplete s cl) := by
  unfold spillComplete
  split
  · refine .ofIte (fun _ => h) fun _ => ?_
    extract_lets -underBinder _ _ _ t _ u _ v w
    have ht : Steady κ s₀ t.2 := .foldlSnd h fun _ _ ht₁ => .ofIteSnd (fun _ => celWrite_steady _ _ _ ht₁) fun _ => ht₁
    have hu : Steady κ s₀ u := State.setHq_steady _ _ _ ht
    have hv : Steady κ s₀ v := .foldl hu fun _ _ ht₁ => .ofIte (fun _ => ht₁) fun _ => originate_steady _ _ _ _ ht₁
    have hw : Steady κ s₀ w := lullTake_steady _ hv
    exact .ofIte (fun _ => lullTake_steady _ ht) fun _ => spillOver_steady _ _ (celMarkers_steady _ _ _ hw)
  · exact h

theorem rotationComplete_steady (cl : Nat) (h : Steady κ s₀ s) : Steady κ s₀ (rotationComplete s cl) := by
  unfold rotationComplete
  split
  · refine .ofIte (fun _ => h) fun _ => ?_
    split
    · rename_i e'
      exact lullTake_steady _ (.ofPair e' (celWrite_steady _ _ _ h))
    · rename_i u e'
      have hu : Steady κ s₀ u := .ofPair e' (celWrite_steady _ _ _ h)
      extract_lets -underBinder v
      have hv : Steady κ s₀ v := .ofIte (fun _ => celMarkers_steady _ _ _ hu) fun _ => celRefill_steady _ _ _ hu
      exact spillOver_steady _ _ (lullTake_steady _ hv)
  · exact h

theorem refillComplete_steady (cl : Nat) (h : Steady κ s₀ s) : Steady κ s₀ (refillComplete s cl) := by
  unfold refillComplete
  split
  · exact .ofIte (fun _ => h) fun _ => spillOver_steady _ _ (lullTake_steady _ (celRefill_steady _ _ _ h))
  · exact h

end Sys2Proof.Machine
end

section
/-! What the operations of Sys2Proof/Machine/Power.lean do to the state keeps the invariants. -/
namespace Sys2Proof.Machine
open Sys2Proof Sys2Proof.Machine.Reg
variable {κ : Bool} {s₀ s : State}

theorem riskFrames_steady (p : Nat) (h : Steady κ s₀ s) : Steady κ s₀ (riskFrames s p) :=
  h.upd

theorem restartAges_steady (p : Nat) (h : Steady κ s₀ s) : Steady κ s₀ (restartAges s p) :=
  .foldl h fun _ _ ht => State.setCore_steady _ _ ht

theorem squallBegins_steady (d : Nat) (h : Steady κ s₀ s) : Steady κ s₀ (squallBegins s d) := by
  unfold squallBegins
  extract_lets -underBinder _ _ t u
  have ht : Steady κ s₀ t := State.setF_steady _ _ _ (State.setDie_steady _ _ h)
  have hu : Steady κ s₀ u := State.addF_steady _ _ _ ht
  exact .foldl hu fun _ _ hv => riskFrames_steady _ (State.setPlan_steady _ _ hv)

theorem squallBegin_steady (d : Nat) (h : Steady κ s₀ s) : Steady κ s₀ (squallBegin s d) :=
  .ofIte (fun _ => h) fun _ => squallBegins_steady _ h

theorem squallEnds_steady (d : Nat) (h : Steady κ s₀ s) : Steady κ s₀ (squallEnds s d) := by
  unfold squallEnds
  split
  · exact h
  · extract_lets -underBinder _ _ _ t u
    have ht : Steady κ s₀ t := State.addF_steady _ _ _ (State.setF_steady _ _ _ (State.setDie_steady _ _ h))
    have hu : Steady κ s₀ u := .foldl ht fun _ _ hv => .ofIte (fun _ =>
        restartAges_steady _ (State.setPlan_steady _ _ hv)) fun _ => hv
    exact logEvent_steady _ _ _ _ _ _ _ hu

theorem squallEnd_steady (d : Nat) (h : Steady κ s₀ s) : Steady κ s₀ (squallEnd s d) := by
  unfold squallEnd
  split
  · exact .ofIte (fun _ => squallEnds_steady _ h) fun _ => h
  · exact h

theorem dipSample_steady (d : Nat) (h : Steady κ s₀ s) : Steady κ s₀ (dipSample s d).2 := by
  unfold dipSample
  extract_lets -underBinder _ _ _ t
  have ht : Steady κ s₀ t := State.setDie_steady _ _ h
  exact .ofIte (fun _ => State.addF_steady _ _ _ (State.setF_steady _ _ _ ht)) fun _ => ht

theorem vddSample_steady (d mv : Nat) (h : Steady κ s₀ s) : Steady κ s₀ (vddSample s d mv) := by
  unfold vddSample
  extract_lets -underBinder _ _ _ _ w t₁
  have hw : Steady κ s₀ w := State.setF_steady _ _ _ (dipSample_steady _ h)
  have ht₁ : Steady κ s₀ t₁ := .ofIte (fun _ => State.setF_steady _ _ _ hw) fun _ => hw
  exact State.setDie_steady _ _ (.ofIte (fun _ => squallBegin_steady _ ht₁) fun _ => ht₁)

theorem holdDies_steady (dies : List Nat) (h : Steady κ s₀ s) : Steady κ s₀ (holdDies s dies) :=
  .foldl h fun _ _ ht => State.setDie_steady _ _ (loseDie_steady _ ht)

theorem brownOut_steady (d below : Nat) (h : Steady κ s₀ s) : Steady κ s₀ (brownOut s d below) :=
  .ofIte (fun _ => h) fun _ => .ofIte (fun _ => State.setDie_steady _ _ h) fun _ => .ofIte (fun _ =>
    holdDies_steady _ h) fun _ => holdDies_steady _ (deviceReset_steady _ _ _ (by decide) (State.setDie_steady _ _ h))

theorem brownoutRecovery_steady (d : Nat) (h : Steady κ s₀ s) : Steady κ s₀ (brownoutRecovery s d) :=
  .ofIte (fun _ => readyCheck_steady (State.setDie_steady _ _ h)) fun _ => h

theorem dieDown_steady (d : Nat) (h : Steady κ s₀ s) : Steady κ s₀ (dieDown s d) := by
  unfold dieDown
  extract_lets -underBinder t u
  have ht : Steady κ s₀ t := squallEnds_steady _ h
  have hu : Steady κ s₀ u := loseDie_steady _ (resetDie_steady _ (srefDie_steady _ _ ht))
  exact State.emit_steady _ (State.setF_steady _ _ _ hu)

theorem heatDown_steady (d : Nat) (h : Steady κ s₀ s) : Steady κ s₀ (heatDown s d) := by
  unfold heatDown
  refine .ofIte (fun _ => h) fun _ => ?_
  extract_lets -underBinder t u
  have ht : Steady κ s₀ t := .foldl h fun _ _ hv => planFault_steady _ _ _ _ hv
  have hu : Steady κ s₀ u := .ofIte (fun _ => ht) fun _ => dieDown_steady _ ht
  exact thermPin_steady (State.setF_steady _ _ _ hu)

theorem overtempEnds_steady (d : Nat) (h : Steady κ s₀ s) : Steady κ s₀ (overtempEnds s d) := by
  unfold overtempEnds
  split
  · exact h
  · extract_lets -underBinder _ t u
    have ht : Steady κ s₀ t := State.setF_steady _ _ _ (State.setDie_steady _ _ h)
    have hu : Steady κ s₀ u := .foldl ht fun _ _ hv => .ofIte (fun _ =>
        restartAges_steady _ (State.setPlan_steady _ _ hv)) fun _ => hv
    exact logEvent_steady _ _ _ _ _ _ _ hu

theorem overtempEnd_steady (d : Nat) (h : Steady κ s₀ s) : Steady κ s₀ (overtempEnd s d) := by
  unfold overtempEnd
  split
  · exact .ofIte (fun _ => overtempEnds_steady _ h) fun _ => h
  · exact h

theorem overtempSample_steady (d : Nat) (hot : Int) (h : Steady κ s₀ s) : Steady κ s₀ (overtempSample s d hot) := by
  unfold overtempSample
  extract_lets -underBinder
  split
  · exact State.setDie_steady _ _ h
  · refine .ofIte (fun _ => h) fun _ => ?_
    extract_lets -underBinder _ t
    have ht : Steady κ s₀ t := State.addF_steady _ _ _ (State.setF_steady _ _ _ (State.setDie_steady _ _ h))
    exact .foldl ht fun _ _ hu => riskFrames_steady _ (State.setPlan_steady _ _ hu)

theorem dieTemps_steady (d w : Nat) (h : Steady κ s₀ s) : Steady κ s₀ (dieTemps s d w) := by
  unfold dieTemps
  extract_lets -underBinder _ _ _ _ t u v
  have ht : Steady κ s₀ t := State.setF_steady _ _ _ (State.setF_steady _ _ _ (State.setDie_steady _ _ h))
  have hu : Steady κ s₀ u := .ofIte (fun _ => State.setF_steady _ _ _ ht) fun _ => ht
  have hv : Steady κ s₀ v := overtempSample_steady _ _ hu
  exact .ofIte (fun _ => heatDown_steady _ hv) fun _ => hv

theorem hubTempSample_steady (w : Nat) (h : Steady κ s₀ s) : Steady κ s₀ (hubTempSample s w) := by
  unfold hubTempSample
  extract_lets -underBinder l t
  refine .ofIte (fun _ => h.upd) fun _ => thermPin_steady ?_
  have hu : Steady κ s₀ (((List.range 4).foldl heatDown t).setF hubWin MBX_STATUS_READY 0) :=
    State.setF_steady _ _ _ (.foldl h.upd fun _ _ hv => heatDown_steady _ hv)
  exact ⟨hu.pending, hu.b0, hu.fuses, fun i => ⟨(hu.inv i).mem, (hu.inv i).log, (hu.inv i).fuses, (hu.inv i).tap⟩,
    fun _ _ => rfl⟩

theorem pmbusAnswer_steady (addr w : Nat) (h : Steady κ s₀ s) : Steady κ s₀ (pmbusAnswer s addr w) := by
  unfold pmbusAnswer
  extract_lets -underBinder t
  have ht : Steady κ s₀ t := State.emit_steady _ h
  exact .ofIte (fun _ => logEvent_steady _ _ _ _ _ _ _ ht) fun _ => ht

theorem pmbusPoll_steady (addr w : Nat) (h : Steady κ s₀ s) : Steady κ s₀ (pmbusPoll s addr w) :=
  pmbusAnswer_steady _ _ (.foldl h fun _ _ ht => State.emit_steady _ ht)

theorem holdCheck_steady (h : Steady κ s₀ s) : Steady κ s₀ (holdCheck s) :=
  finishAll_steady _ _ h

theorem activeCheck_steady (h : Steady κ s₀ s) : Steady κ s₀ (activeCheck s) :=
  .ofIte (fun _ => h) fun _ => finishAll_steady _ _ h

theorem rewritePlan_steady (p : Nat) (h : Steady κ s₀ s) : Steady κ s₀ (rewritePlan s p) := by
  unfold rewritePlan
  extract_lets -underBinder _ _ u v w
  have hu : Steady κ s₀ u.1 := writeList_steady _ (setTransits_steady _ _ h)
  have hv : Steady κ s₀ v := .foldl (sweepSettings_steady _ _ (seedEngines_steady _ hu)) fun _ _ ht₁ =>
      moveSeeds_steady _ _ _ ht₁
  have hw : Steady κ s₀ w := .foldl hv fun _ _ ht₁ => .foldl (State.setF_steady _ _ _ ht₁) fun _ _ ht₂ =>
      resetQueue_steady _ _ ht₂
  exact .foldl hw fun _ _ ht₁ => armChannel_steady _ _ ht₁

theorem dieRetained_steady (d : Nat) (on : Bool) (h : Steady κ s₀ s) : Steady κ s₀ (dieRetained s d on) :=
  .foldl h fun _ _ ht => State.setF_steady _ _ _ ht

theorem standbyIn_steady (h : Steady κ s₀ s) : Steady κ s₀ (standbyIn s) := by
  unfold standbyIn
  extract_lets -underBinder t
  have ht : Steady κ s₀ t := .foldl h fun _ _ hu => .ofIte (fun _ => hu) fun _ =>
      State.emit_steady _ (dieRetained_steady _ _ (resetDie_steady _ (srefDie_steady _ _ (squallEnds_steady _ hu))))
  exact State.setF_steady _ _ _ ht

theorem standbyOut_steady (h : Steady κ s₀ s) : Steady κ s₀ (standbyOut s) := by
  unfold standbyOut
  extract_lets -underBinder t u
  have ht : Steady κ s₀ t := State.setF_steady _ _ _ h
  have hu : Steady κ s₀ u := .foldl ht fun _ _ hv => .ofIte (fun _ => hv) fun _ =>
      State.emit_steady _ (srefDie_steady _ _ (dieRetained_steady _ _ hv))
  exact .foldl hu fun _ _ hv => .ofIte (fun _ => rewritePlan_steady _ hv) fun _ => hv

theorem holdOut_steady (h : Steady κ s₀ s) : Steady κ s₀ (holdOut s) := by
  unfold holdOut
  extract_lets -underBinder t
  have ht : Steady κ s₀ t := .foldl h fun _ _ hu => State.setReg_steady _ _ hu
  exact .foldl ht fun _ _ hu => .foldl hu fun _ _ hv => .ofIte (fun _ => hv) fun _ => wakeRequest_steady _ _ hv

theorem powerOn_steady (h : Steady κ s₀ s) : Steady κ s₀ (powerOn s) := by
  unfold powerOn
  extract_lets -underBinder t
  have ht : Steady κ s₀ t := .foldl h fun _ _ hu => .ofIte (fun _ => dieReturn_steady _ hu) fun _ => hu
  exact .ofIte (fun _ => standbyOut_steady ht) fun _ => ht

theorem powerActive_steady (i : Nat) (h : Steady κ s₀ s) : Steady κ s₀ (powerActive s i) := by
  unfold powerActive
  extract_lets -underBinder _ _ _ t
  have ht : Steady κ s₀ t := startTaken_steady _ _ _ h
  exact .ofIte (fun _ => finish_steady _ _ _ _ h) fun _ => activeCheck_steady (.ofIte (fun _ => ht) fun _ =>
      holdOut_steady ht)

theorem powerExitDone_steady (h : Steady κ s₀ s) : Steady κ s₀ (powerExitDone s) := by
  unfold powerExitDone
  refine .ofIte (fun _ => h) fun _ => ?_
  split
  · exact activeCheck_steady h
  · split
    · exact h
    · exact activeCheck_steady (holdOut_steady (powerOn_steady (startTaken_steady _ _ _ h)))

theorem heatRecovery_steady (d : Nat) (h : Steady κ s₀ s) : Steady κ s₀ (heatRecovery s d) :=
  .ofIte (fun _ => h) fun _ => activeCheck_steady (readyCheck_steady (dieReturn_steady _ h))

theorem powerHold_steady (i mask : Nat) (h : Steady κ s₀ s) : Steady κ s₀ (powerHold s i mask) := by
  unfold powerHold
  extract_lets -underBinder
  split
  · exact finish_steady _ _ _ _ h
  · extract_lets -underBinder t u
    have ht : Steady κ s₀ t := startTaken_steady _ _ _ h
    have hu : Steady κ s₀ u := .foldl ht fun _ _ hv => retentionRequest_steady _ _ (setHold_steady _ _ _ hv)
    exact holdCheck_steady (idleMemories_steady hu)

theorem powerOff_steady (i mask : Nat) (h : Steady κ s₀ s) : Steady κ s₀ (powerOff s i mask) := by
  unfold powerOff
  refine .ofIte (fun _ => finish_steady _ _ _ _ h) fun _ => ?_
  split
  · exact finish_steady _ _ _ _ h
  · exact finish_steady _ _ _ _ (.foldl h fun _ _ ht => .ofIte (fun _ => ht) fun _ => dieDown_steady _ ht)

theorem powerStandby_steady (i : Nat) (h : Steady κ s₀ s) : Steady κ s₀ (powerStandby s i) := by
  unfold powerStandby
  split
  · exact finish_steady _ _ _ _ h
  · exact finish_steady _ _ _ _ (.ofIte (fun _ => h) fun _ => standbyIn_steady h)

end Sys2Proof.Machine
end

section
/-! What the operations of Sys2Proof/Machine/Attest.lean do to the state keeps the invariants. -/
namespace Sys2Proof.Machine
open Sys2Proof Sys2Proof.Machine.Reg
variable {κ : Bool} {s₀ s : State}

theorem drawBytes_steady (n : Nat) (h : Steady κ s₀ s) : Steady κ s₀ (drawBytes s n).2 :=
  h.upd

theorem signMessage_steady (m : Bytes) (h : Steady κ s₀ s) : Steady κ s₀ (signMessage s m).2 := by
  unfold signMessage
  exact h.upd

theorem quote_steady (nonce : Bytes) (sel : Nat) (h : Steady κ s₀ s) : Steady κ s₀ (quote s nonce sel).2 :=
  State.addF_steady _ _ _ (signMessage_steady _ h)

end Sys2Proof.Machine
end

section
/-! What the operations of Sys2Proof/Machine/Mailbox.lean do to the state keeps the invariants. -/
namespace Sys2Proof.Machine
open Sys2Proof Sys2Proof.Machine.Reg
variable {κ : Bool} {s₀ s : State}

theorem ringStop_steady (h : Steady κ s₀ s) : Steady κ s₀ (ringStop s) :=
  (State.setF_steady _ _ _ h).upd

theorem ringsOff_steady (h : Steady κ s₀ s) : Steady κ s₀ (ringsOff s) :=
  .ofIte (fun _ => h) fun _ => h.upd

theorem crEnable_steady (size : Nat) (h : Steady κ s₀ s) : Steady κ s₀ (crEnable s size) := by
  unfold crEnable
  refine .ofIte (fun _ => h) fun _ => ?_
  extract_lets -underBinder t
  have ht : Steady κ s₀ t := State.setF_steady _ _ _ h
  exact .ofIte (fun _ => State.setF_steady _ _ _ ht) fun _ =>
      State.setF_steady _ _ _ (State.setF_steady _ _ _ (State.setF_steady _ _ _ ht))

theorem crDisable_steady (size : Nat) (h : Steady κ s₀ s) : Steady κ s₀ (crDisable s size) :=
  .ofIte (fun _ => h) fun _ => .ofIte (fun _ => ringsOff_steady ((State.setF_steady _ _ _ h).upd)) fun _ =>
    State.setF_steady _ _ _ h

theorem ccFlush_steady (h : Steady κ s₀ s) : Steady κ s₀ (ccFlush s) :=
  .foldl h.upd fun _ _ ht => writeCompletion_steady _ _ ht

theorem resetGo_steady (h : Steady κ s₀ s) : Steady κ s₀ (resetGo s) := by
  unfold resetGo
  split
  · exact h
  · split
    · exact h
    · exact .ofIte (fun _ => deviceReset_steady _ _ _ (by decide) (finish_steady _ _ _ _ h)) fun _ => h

theorem ccEnable_steady (size : Nat) (h : Steady κ s₀ s) : Steady κ s₀ (ccEnable s size) := by
  unfold ccEnable
  refine .ofIte (fun _ => h) fun _ => ?_
  extract_lets -underBinder t u v
  have ht : Steady κ s₀ t := State.setF_steady _ _ _ h
  have hu : Steady κ s₀ u := State.setF_steady _ _ _ (State.setF_steady _ _ _ ht)
  have hv : Steady κ s₀ v := State.setF_steady _ _ _ (State.setF_steady _ _ _ hu)
  exact .ofIte (fun _ => State.setF_steady _ _ _ ht) fun _ => resetGo_steady (ccFlush_steady hv.upd)

theorem ccDisable_steady (size : Nat) (h : Steady κ s₀ s) : Steady κ s₀ (ccDisable s size) :=
  .ofIte (fun _ => h) fun _ => .ofIte (fun _ => ringsOff_steady ((State.setF_steady _ _ _ h).upd)) fun _ =>
    State.setF_steady _ _ _ h

theorem crTailWrite_steady (v : Nat) (h : Steady κ s₀ s) : Steady κ s₀ (crTailWrite s v) :=
  .ofIte (fun _ => h) fun _ => .ofIte (fun _ => ringStop_steady h) fun _ => State.setF_steady _ _ _ h

theorem ccHeadWrite_steady (v : Nat) (h : Steady κ s₀ s) : Steady κ s₀ (ccHeadWrite s v) := by
  unfold ccHeadWrite
  extract_lets -underBinder _ _ t
  have ht : Steady κ s₀ t := State.setF_steady _ _ _ h
  exact .ofIte (fun _ => h) fun _ => .ofIte (fun _ => ringStop_steady h) fun _ => ht.upd

theorem acceptCommand_steady (t : Taken) (h : Steady κ s₀ s) : Steady κ s₀ (acceptCommand s t) := by
  unfold acceptCommand
  extract_lets -underBinder _ u
  have hu : Steady κ s₀ u := h.upd
  exact .ofIte (fun _ => finish_steady _ _ _ _ hu) fun _ => hu

theorem unreachable_steady (t : Taken) (dev : Nat) (h : Steady κ s₀ s) : Steady κ s₀ (unreachable s t dev) :=
  writeCompletion_steady _ _ h

theorem routeCommand_steady (t : Taken) (h : Steady κ s₀ s) : Steady κ s₀ (routeCommand s t) := by
  unfold routeCommand
  extract_lets -underBinder _ u v
  have hu : Steady κ s₀ u.2 := flitSend_steady _ h
  have hv : Steady κ s₀ v := hu
  exact .ofIte (fun _ => acceptCommand_steady _ h) fun _ => .ofIte (fun _ => writeCompletion_steady _ _ h) fun _ =>
      .ofIte (fun _ => hv.upd) fun _ => unreachable_steady _ _ hu

theorem commandTake_steady (got : Option Bytes) (h : Steady κ s₀ s) : Steady κ s₀ (commandTake s got) := by
  unfold commandTake
  refine .ofIte (fun _ => h) fun _ => ?_
  extract_lets -underBinder _ _ t
  have ht : Steady κ s₀ t := State.emit_steady _ h
  split
  · exact ringStop_steady ht
  · exact routeCommand_steady _ (State.setF_steady _ _ _ ht)

theorem devInfo_steady (i : Nat) (h : Steady κ s₀ s) : Steady κ s₀ (devInfo s i) := by
  unfold devInfo
  split
  · exact h
  · split
    · exact finish_steady _ _ _ _ h
    · exact finish_steady _ _ _ _ (hostWrite_steady _ _ h)

theorem logRead_steady (i : Nat) (h : Steady κ s₀ s) : Steady κ s₀ (logRead s i) := by
  unfold logRead
  split
  · exact h
  · split
    · exact finish_steady _ _ _ _ h
    · exact .ofIte (fun _ => finish_steady _ _ _ _ h) fun _ => finish_steady _ _ _ _ (hostWrite_steady _ _ h)

theorem attestQuote_steady (i : Nat) (h : Steady κ s₀ s) : Steady κ s₀ (attestQuote s i) := by
  unfold attestQuote
  split
  · exact h
  · split
    · exact finish_steady _ _ _ _ h
    · refine .ofIte (fun _ => finish_steady _ _ _ _ h) fun _ => ?_
      extract_lets -underBinder _ _ t
      have ht : Steady κ s₀ t.2 := quote_steady _ _ h
      exact .ofIte (fun _ => finish_steady _ _ _ _ h) fun _ => finish_steady _ _ _ _ (hostWrite_steady _ _ ht)

theorem inject_steady (i : Nat) (h : Steady κ s₀ s) : Steady κ s₀ (inject s i) := by
  unfold inject
  split
  · exact h
  · exact .ofIte (fun _ => finish_steady _ _ _ _ h) fun _ => .ofIte (fun _ => finish_steady _ _ _ _ h) fun _ =>
        .ofIte (fun _ => finish_steady _ _ _ _ h) fun _ => finish_steady _ _ _ _ (State.setF_steady _ _ _
        (State.setF_steady _ _ _ h))

theorem cmdRead_steady (addr len : Nat) (got : Bytes) (failAt : Option Nat) (h : Steady κ s₀ s) :
    Steady κ s₀ (cmdRead s addr len got failAt).2 :=
  hostRead_steady _ _ _ h

theorem imageLines_steady (a n : Nat) (h : Steady κ s₀ s) : Steady κ s₀ (imageLines s a n).2 := by
  induction n generalizing s a with
  | zero => exact h
  | succ n ih =>
    unfold imageLines
    split
    · rename_i e
      exact .ofPair e (lineRead_steady _ _ h)
    · rename_i e
      have hl := ih (a + 64) (.ofPair e (lineRead_steady _ _ h))
      split <;> rename_i e' <;> exact .ofPair e' hl

theorem holdFromDies_steady (p : Nat) (h : Steady κ s₀ s) : Steady κ s₀ (holdFromDies s p) :=
  State.setPlan_steady _ _ h

theorem loadBytes_steady (i p : Nat) (b : Bytes) (len : Nat) (rng : List (Nat × Nat)) (h : Steady κ s₀ s) :
    Steady κ s₀ (loadBytes s i p b len rng) := by
  unfold loadBytes
  split
  · rename_i e
    exact refuseLoad_steady _ _ _ (.ofPair e (loadImage_steady _ _ _ _ h))
  · rename_i u e
    have hu : Steady κ s₀ u := .ofPair e (loadImage_steady _ _ _ _ h)
    exact startGroup_steady (beginGroup_steady (startTaken_steady _ _ _ (holdFromDies_steady _ hu)))

theorem imageRead_steady (i : Nat) (t : Taken) (a len : Nat) (got : Bytes) (failAt : Option Nat) (h : Steady κ s₀ s) :
    Steady κ s₀ (imageRead s i t a len got failAt).2 := by
  unfold imageRead
  extract_lets -underBinder body
  have hbody : ∀ (s : State) (il : Nat), Steady κ s₀ s → Steady κ s₀ (body s il).2 := fun _ _ hu => cmdRead_steady _ _ _ _ hu
  refine Steady.ofIteSnd (fun _ => hbody _ _ h) fun _ => Steady.ofIteSnd (fun _ => hbody _ _ h) fun _ => ?_
  split
  · rename_i e
    exact hbody _ _ (Steady.ofPair e (cmdRead_steady _ _ _ _ h)).upd
  · exact cmdRead_steady _ _ _ _ h

theorem loadWaits_steady (i p : Nat) (h : Steady κ s₀ s) : Steady κ s₀ (loadWaits s i p) := by
  unfold loadWaits
  split
  · exact State.setF_steady _ _ _ h.upd
  · exact h

theorem planLoad_steady (i : Nat) (got : Bytes) (failAt : Option Nat) (h : Steady κ s₀ s) :
    Steady κ s₀ (planLoad s i got failAt) := by
  unfold planLoad
  split
  · exact h
  · extract_lets -underBinder
    split
    · exact finish_steady _ _ _ _ h
    · extract_lets -underBinder t
      have ht : Steady κ s₀ t := .ofIte (fun _ => State.setF_steady _ _ _ h) fun _ => h
      refine .ofIte (fun _ => refuseLoad_steady _ _ _ ht) fun _ => .ofIte (fun _ => ?_) fun _ => ?_
      · split
        · rename_i v e₁
          have hv : Steady κ s₀ v := .ofPair e₁ (imageLines_steady _ _ ht)
          exact finish_steady _ _ _ _ (logUncorrectable_steady _ _ _ hv)
        · rename_i e₁
          exact loadBytes_steady _ _ _ _ _ (.ofPair e₁ (imageLines_steady _ _ ht))
      · split
        · rename_i e₁
          exact loadWaits_steady _ _ (.ofPair e₁ (imageRead_steady _ _ _ _ _ _ ht))
        · rename_i e₁
          exact finish_steady _ _ _ _ (.ofPair e₁ (imageRead_steady _ _ _ _ _ _ ht))
        · rename_i e₁
          exact loadBytes_steady _ _ _ _ _ (.ofPair e₁ (imageRead_steady _ _ _ _ _ _ ht))

theorem planStart_steady (i : Nat) (h : Steady κ s₀ s) : Steady κ s₀ (planStart s i) := by
  unfold planStart
  split
  · exact h
  · extract_lets -underBinder
    split
    · exact finish_steady _ _ _ _ h
    · extract_lets -underBinder _ _ u
      have hu : Steady κ s₀ u := State.setPlan_steady _ _ (State.setF_steady _ _ _ h)
      exact finish_steady _ _ _ _ (restartAges_steady _ (holdFromDies_steady _ hu))

theorem planStop_steady (i : Nat) (h : Steady κ s₀ s) : Steady κ s₀ (planStop s i) := by
  unfold planStop
  split
  · exact h
  · extract_lets -underBinder
    split
    · exact finish_steady _ _ _ _ h
    · extract_lets -underBinder _ t
      have ht : Steady κ s₀ t := startTaken_steady _ _ _ h
      exact .ofIte (fun _ => planCheck_steady _ (State.setPlan_steady _ _ (State.setF_steady _ _ _ ht))) fun _ =>
          planCheck_steady _ (State.setPlan_steady _ _ ht)

theorem planUnload_steady (i : Nat) (h : Steady κ s₀ s) : Steady κ s₀ (planUnload s i) := by
  unfold planUnload
  split
  · exact h
  · extract_lets -underBinder
    split
    · exact finish_steady _ _ _ _ h
    · split
      · exact finish_steady _ _ _ _ h
      · exact finish_steady _ _ _ _ (idleMemories_steady (releasePlan_steady _ h))

theorem kilnRun_steady (i : Nat) (h : Steady κ s₀ s) : Steady κ s₀ (kilnRun s i) := by
  unfold kilnRun
  split
  · exact h
  · extract_lets -underBinder
    split
    · exact finish_steady _ _ _ _ h
    · exact .ofIte (fun _ => finish_steady _ _ _ _ h) fun _ => .ofIte (fun _ => finish_steady _ _ _ _ h) fun _ =>
          .ofIte (fun _ => finish_steady _ _ _ _ h) fun _ =>
          planCheck_steady _ (State.setPlan_steady _ _ (startTaken_steady _ _ _ h))

theorem bindStream_steady (t : Taken) (h : Steady κ s₀ s) : Steady κ s₀ (bindStream s t) := by
  unfold bindStream
  extract_lets -underBinder _ _ _ _ u _ v _ w
  have hu : Steady κ s₀ u := State.setStream_steady _ _ h
  have hv : Steady κ s₀ v := State.setReg_steady _ _ (State.setReg_steady _ _ (State.setReg_steady _ _
      (State.setReg_steady _ _ hu)))
  have hw : Steady κ s₀ w := State.setF_steady _ _ _ (State.setReg_steady _ _ (State.setFifo_steady _ _ hv))
  exact mapStream_steady _ _ _ (State.setF_steady _ _ _ hw)

theorem streamOpen_steady (i : Nat) (h : Steady κ s₀ s) : Steady κ s₀ (streamOpen s i) := by
  unfold streamOpen
  split
  · exact h
  · extract_lets -underBinder
    split
    · exact finish_steady _ _ _ _ h
    · split
      · exact finish_steady _ _ _ _ h
      · refine .ofIte (fun _ => finish_steady _ _ _ _ h) fun _ => ?_
        split
        · exact finish_steady _ _ _ _ h
        · split
          · exact finish_steady _ _ _ _ h
          · exact .ofIte (fun _ => finish_steady _ _ _ _ h) fun _ => finish_steady _ _ _ _ (bindStream_steady _ h)

theorem dropUnadmitted_steady (k : Nat) (h : Steady κ s₀ s) : Steady κ s₀ (dropUnadmitted s k) := by
  unfold dropUnadmitted
  extract_lets -underBinder _ gone t
  have ht : Steady κ s₀ t := .foldl h fun _ _ hu => writeResult_steady _ _ _ _ _ _ _ (publishBefore_steady _ hu)
  clear_value gone
  split
  · exact ht
  · exact State.setF_steady _ _ _ (State.setF_steady _ _ _ (State.setFifo_steady _ _ ht))

theorem streamClose_steady (i : Nat) (h : Steady κ s₀ s) : Steady κ s₀ (streamClose s i) := by
  unfold streamClose
  split
  · exact h
  · extract_lets -underBinder
    refine .ofIte (fun _ => finish_steady _ _ _ _ h) fun _ => ?_
    split
    · exact finish_steady _ _ _ _ h
    · extract_lets -underBinder _ t _ _ v _ _ w
      have ht : Steady κ s₀ t := startTaken_steady _ _ _ h
      have hv : Steady κ s₀ v := dropUnadmitted_steady _ (State.setStream_steady _ _ ht)
      have hw : Steady κ s₀ w := State.setStream_steady _ _ hv
      exact afterNotrun_steady _ (.ofIte (fun _ => State.setFeed_steady _ _ (State.setStream_steady _ _ hv)) fun _ =>
          streamCheck_steady _ hw.upd)

theorem fenceCommand_steady (i : Nat) (h : Steady κ s₀ s) : Steady κ s₀ (fenceCommand s i) := by
  unfold fenceCommand
  split
  · exact h
  · extract_lets -underBinder
    refine .ofIte (fun _ => finish_steady _ _ _ _ h) fun _ => ?_
    refine .ofIte (fun _ => finish_steady _ _ _ _ h) fun _ => ?_
    split
    · exact finish_steady _ _ _ _ (fenceCore_steady _ h)
    · exact .ofIte (fun _ => finish_steady _ _ _ _ (fenceAndMove_steady _ h)) fun _ => .ofIte (fun _ =>
          finish_steady _ _ _ _ (fenceAndMove_steady _ h)) fun _ => fenceAndMove_steady _ (startTaken_steady _ _ _ h)

theorem resetDevice_steady (i : Nat) (h : Steady κ s₀ s) : Steady κ s₀ (resetDevice s i) := by
  unfold resetDevice
  split
  · exact h
  · extract_lets -underBinder
    split
    · exact resetGo_steady (startTaken_steady _ _ _ h)
    · refine .ofIte (fun _ => finish_steady _ _ _ _ h) fun _ => ?_
      split
      · exact finish_steady _ _ _ _ h
      · exact finish_steady _ _ _ _ (clusterReset_steady _ h)
    · exact finish_steady _ _ _ _ h

theorem powerState_steady (i : Nat) (h : Steady κ s₀ s) : Steady κ s₀ (powerState s i) := by
  unfold powerState
  split
  · exact h
  · split
    · exact powerActive_steady _ h
    · exact powerHold_steady _ _ h
    · exact powerOff_steady _ _ h
    · exact powerStandby_steady _ h
    · exact finish_steady _ _ _ _ h

theorem spread_steady (t : Taken) (devs : List Nat) (h : Steady κ s₀ s) : Steady κ s₀ (spread s t devs) :=
  .ofIte (fun _ => h) fun _ => .foldl h fun _ _ hu => flitSend_steady _ hu

theorem topologyWrite_steady (i : Nat) (t : Taken) (b : Bytes) (net : List Bytes) (h : Steady κ s₀ s) :
    Steady κ s₀ (topologyWrite s i t b net) := by
  unfold topologyWrite
  extract_lets -underBinder _ write
  have hwrite : ∀ (s : State), Steady κ s₀ s → Steady κ s₀ (write s) := fun _ hu =>
      finish_steady _ _ _ _ (brokenPaths_steady (writeTopology_steady _ (spread_steady _ _ hu)))
  split
  · exact finish_steady _ _ _ _ h
  · split
    · exact finish_steady _ _ _ _ h
    · split
      · exact .ofIte (fun _ => finish_steady _ _ _ _ h) fun _ => hwrite _ h
      · exact hwrite _ h

theorem discoverHere_steady (x : Taken) (net : List Bytes) (h : Steady κ s₀ s) :
    Steady κ s₀ (discoverHere s x net).1 := by
  unfold discoverHere
  refine .ofIteFst (fun _ => ?_) fun _ => .ofIteFst (fun _ => h) fun _ => ?_
  · rw [Prod.map_fst]
    exact brokenPaths_steady (discover_steady _ (spread_steady _ _ h))
  · dsimp only
    exact brokenPaths_steady (takeRecord_steady _ h)

theorem relayTopology_steady (i : Nat) (net : List Bytes) (got : Bytes) (failAt : Option Nat) (h : Steady κ s₀ s) :
    Steady κ s₀ (relayTopology s i net got failAt) := by
  unfold relayTopology
  split
  · exact h
  · extract_lets -underBinder
    refine .ofIte (fun _ => finish_steady _ _ _ _ h) fun _ => ?_
    split
    · exact finish_steady _ _ _ _ h
    · refine .ofIte (fun _ => ?_) fun _ => ?_
      · split
        · rename_i e₁
          exact .ofPair e₁ (cmdRead_steady _ _ _ _ h)
        · rename_i e₁
          exact finish_steady _ _ _ _ (.ofPair e₁ (cmdRead_steady _ _ _ _ h))
        · rename_i e₁
          exact topologyWrite_steady _ _ _ _ (.ofPair e₁ (cmdRead_steady _ _ _ _ h))
      · extract_lets -underBinder t
        have ht : Steady κ s₀ t.1 := .ofIteFst (fun _ => discoverHere_steady _ _ h) fun _ => h
        exact finish_steady _ _ _ _ (hostWrite_steady _ _ ht)

end Sys2Proof.Machine
end

section
/-! What the operations of Sys2Proof/Machine/Pins.lean do to the state keeps the invariants. -/
namespace Sys2Proof.Machine
open Sys2Proof Sys2Proof.Machine.Reg
variable {κ : Bool} {s₀ s : State}

theorem smbAnswer_steady (b : BitVec 8) (h : Steady κ s₀ s) : Steady κ s₀ (smbAnswer s b) :=
  .ofIte (fun _ => State.emit_steady _ h) fun _ => h

theorem smbDieTemp_steady (h : Steady κ s₀ s) : Steady κ s₀ (smbDieTemp s) :=
  smbAnswer_steady _ h

theorem smbHubTemp_steady (h : Steady κ s₀ s) : Steady κ s₀ (smbHubTemp s) :=
  smbAnswer_steady _ h

theorem smbStatus_steady (h : Steady κ s₀ s) : Steady κ s₀ (smbStatus s) :=
  smbAnswer_steady _ h

theorem smbStepping_steady (h : Steady κ s₀ s) : Steady κ s₀ (smbStepping s) :=
  smbAnswer_steady _ h

theorem smbUnsupported_steady (readByte : Bool) (command : Nat) (h : Steady κ s₀ s) :
    Steady κ s₀ (smbUnsupported s readByte command) :=
  .ofIte (fun _ => .ofIte (fun _ => h) fun _ => smbAnswer_steady _ h) fun _ => .ofIte (fun _ =>
    State.emit_steady _ h) fun _ => h

theorem tapReset_steady (h : Steady κ s₀ s) : Steady κ s₀ (tapReset s) := h.tap rfl fun _ => .inl rfl

/-- Of t nothing but the TAP, the boundary register and what it shifts out is another than in s. -/
def AwayFromTap (s t : State) : Prop :=
  { t with jtagIr := s.jtagIr, bscan := s.bscan, scanned := s.scanned, fresh := s.fresh, out := s.out } = s

theorem AwayFromTap.upd (s : State) (ir : Nat) (b : BScanSt) (sc : Bool) (fr : Nat) (o : List Out) :
    AwayFromTap s { s with jtagIr := ir, bscan := b, scanned := sc, fresh := fr, out := o } := rfl

theorem AwayFromTap.trans {t u : State} (h : AwayFromTap s t) (g : AwayFromTap t u) : AwayFromTap s u := by
  unfold AwayFromTap at *
  exact (congrArg (fun x : State => { x with
      jtagIr := s.jtagIr, bscan := s.bscan, scanned := s.scanned, fresh := s.fresh, out := s.out }) g).trans h

theorem tapClock_away (s : State) (tms : Bool) : AwayFromTap s (tapClock s tms) := by
  unfold tapClock
  dsimp only
  split <;> exact .upd ..

theorem tapWalk_away (s : State) (l : List Bool) : AwayFromTap s (tapWalk s l) := by
  induction l generalizing s with
  | nil => rfl
  | cons b l ih => exact AwayFromTap.trans (tapClock_away s b) (ih _)

theorem tapLoad_away (s : State) (code drive : Nat) : AwayFromTap s (tapLoad s code drive) := by
  unfold tapLoad
  exact AwayFromTap.trans (tapWalk_away s tapToIr) (.upd ..)

theorem tapShift_away (s : State) (n c : Nat) : AwayFromTap s (tapShift s n c) := by
  unfold tapShift State.emit
  exact AwayFromTap.trans (tapWalk_away s (tapToDr n ++ [false])) (.upd ..)

/-- An instruction is loaded, and a register is shifted behind it: the controller rests again. -/
theorem tapShift_tapLoad_steady (code drive : Nat) {f : State → State} (n c : Nat)
    (hu : ∀ x, AwayFromTap x (f x) ∧ (f x).bscan.tap = x.bscan.tap) (h : Steady κ s₀ s) :
    Steady κ s₀ (tapShift (f (tapLoad s code drive)) n c) := by
  obtain ⟨ha, ht⟩ := hu (tapLoad s code drive)
  refine h.tap (AwayFromTap.trans (AwayFromTap.trans (tapLoad_away s code drive) ha) (tapShift_away _ n c)) fun r => ?_
  rw [tapShift_eq _ _ _ (by rw [ht, tapLoad_eq _ _ _ r])]
  exact .inr rfl

/-- The boundary register as a scan leaves it. -/
def captured (x : State) : State :=
  { x with bscan := { x.bscan with cap := landLevels x, latch := Config.tdiBits x.fresh &&& latchMask }, fresh :=
      x.fresh + 1 }

theorem tapScan_eq (x : State) : tapScan x = tapShift (captured x) 128 (landLevels x).toNat := rfl

theorem tapScan_tapLoad_steady (code drive : Nat) (h : Steady κ s₀ s) :
    Steady κ s₀ (tapScan (tapLoad s code drive)) := by
  rw [tapScan_eq]
  exact tapShift_tapLoad_steady code drive _ _ (fun _ => ⟨rfl, rfl⟩) h

theorem tapScan_tapTest_steady (code drive : Nat) (h : Steady κ s₀ s) :
    Steady κ s₀ (tapScan (tapTest s code drive)) := by
  rw [tapScan_eq, tapTest]
  exact tapShift_tapLoad_steady code drive (f := fun x => captured { x with scanned := true }) _ _ (fun _ => ⟨rfl, rfl⟩) h

theorem tapZero_tapTest_steady (code drive : Nat) (h : Steady κ s₀ s) :
    Steady κ s₀ (tapZero (tapTest s code drive)) := by
  unfold tapZero tapTest
  exact tapShift_tapLoad_steady code drive (f := fun x => { x with scanned := true }) _ _ (fun _ => ⟨rfl, rfl⟩) h

theorem tapIdcode_steady (h : Steady κ s₀ s) : Steady κ s₀ (tapIdcode s) := by
  unfold tapIdcode
  exact tapShift_tapLoad_steady 2 0 (f := id) _ _ (fun _ => ⟨rfl, rfl⟩) h

theorem tapBypass_steady (code : Nat) (h : Steady κ s₀ s) : Steady κ s₀ (tapBypass s code) := by
  unfold tapBypass tapZero
  exact .ofIte (fun _ => h) fun _ => tapShift_tapLoad_steady code 0 (f := id) _ _ (fun _ => ⟨rfl, rfl⟩) h

end Sys2Proof.Machine
end

section
/-! What the operations of Sys2Proof/Machine/Relay.lean do to the state keeps the invariants. -/
namespace Sys2Proof.Machine
open Sys2Proof Sys2Proof.Machine.Reg
variable {κ : Bool} {s₀ s : State}

theorem cplHere_steady (f : Flit) (h : Steady κ s₀ s) : Steady κ s₀ (cplHere s f) := by
  unfold cplHere
  extract_lets -underBinder
  split
  · exact h
  · split
    · exact h
    · exact writeCompletion_steady _ _ h.upd

theorem mcplHere_steady (f : Flit) (h : Steady κ s₀ s) : Steady κ s₀ (mcplHere s f) :=
  h.upd

theorem deadFlit_steady (f : Flit) (h : Steady κ s₀ s) : Steady κ s₀ (deadFlit s f) :=
  .ofIte (fun _ => .ofIte (fun _ => cplHere_steady _ h) fun _ => flitSend_steady _ h) fun _ => .ofIte (fun _ =>
    .ofIte (fun _ => mcplHere_steady _ h) fun _ => flitSend_steady _ h) fun _ => h

theorem flitDropped_steady (p : Nat) (h : Steady κ s₀ s) : Steady κ s₀ (flitDropped s p) :=
  State.setPort_steady _ _ h

theorem flitLost_steady (p : Nat) (h : Steady κ s₀ s) : Steady κ s₀ (flitLost s p) :=
  State.addF_steady _ _ _ (flitDropped_steady _ h)

theorem arrives_steady (p w : Nat) (good : State → State) (hgood : ∀ (a : State), Steady κ s₀ a → Steady κ s₀ (good a))
    (h : Steady κ s₀ s) : Steady κ s₀ (arrives s p w good) := by
  unfold arrives
  extract_lets -underBinder t
  have ht : Steady κ s₀ t.2 := injected_steady _ _ h
  exact .ofIte (fun _ => flitLost_steady _ ht) fun _ => .ofIte (fun _ => flitDropped_steady _ ht) fun _ => hgood _ ht

theorem setPortState_steady (p st : Nat) (h : Steady κ s₀ s) : Steady κ s₀ (setPortState s p st) :=
  State.setF_steady _ _ _ h

theorem portLeaves_steady (p st : Nat) (h : Steady κ s₀ s) : Steady κ s₀ (portLeaves s p st) := by
  unfold portLeaves
  extract_lets -underBinder _ t _ u v
  have ht : Steady κ s₀ t := State.setF_steady _ _ _ (setPortState_steady _ _ h)
  have hu : Steady κ s₀ u := State.addF_steady _ _ _ (State.setPort_steady _ _ ht)
  have hv : Steady κ s₀ v := logEvent_steady _ _ _ _ _ _ _ hu
  exact .ofIte (fun _ => ht) fun _ => .foldl (brokenPaths_steady hv) fun _ _ hw => deadFlit_steady _ hw

theorem portEnable_steady (p : Nat) (h : Steady κ s₀ s) : Steady κ s₀ (portEnable s p) := by
  unfold portEnable
  extract_lets -underBinder t
  have ht : Steady κ s₀ t := State.setF_steady _ _ _ h
  exact .ofIte (fun _ => setPortState_steady _ _ ht) fun _ => ht

theorem portDisable_steady (p : Nat) (h : Steady κ s₀ s) : Steady κ s₀ (portDisable s p) :=
  portLeaves_steady _ _ (State.setF_steady _ _ _ h)

theorem portRetrain_steady (p : Nat) (h : Steady κ s₀ s) : Steady κ s₀ (portRetrain s p) :=
  .ofIte (fun _ => h) fun _ => portLeaves_steady _ _ h

theorem portStep_steady (p a b : Nat) (h : Steady κ s₀ s) : Steady κ s₀ (portStep s p a b) :=
  .ofIte (fun _ => setPortState_steady _ _ h) fun _ => h

theorem lockDone_steady (p : Nat) (h : Steady κ s₀ s) : Steady κ s₀ (lockDone s p) :=
  .ofIte (fun _ => emitFlit_steady _ _ (setPortState_steady _ _ h)) fun _ => h

theorem trainFlit_steady (p w : Nat) (h : Steady κ s₀ s) : Steady κ s₀ (trainFlit s p w) := by
  unfold trainFlit
  extract_lets -underBinder
  refine .ofIte (fun _ => h) fun _ => arrives_steady _ _ _ (fun _ ht => ?_) h
  extract_lets -underBinder _ _ _ u
  have hu : Steady κ s₀ u := State.setF_steady _ _ _ (State.setF_steady _ _ _ ht)
  exact .ofIte (fun _ => hu) fun _ => .ofIte (fun _ => .ofIte (fun _ => hu) fun _ =>
      logEvent_steady _ _ _ _ _ _ _ hu) fun _ => State.setPort_steady _ _ (setPortState_steady _ _ hu)

theorem replay_steady (p : Nat) (h : Steady κ s₀ s) : Steady κ s₀ (replay s p) := by
  unfold replay
  extract_lets -underBinder _ _ t u
  have ht : Steady κ s₀ t := State.addF_steady _ _ _ (State.setPort_steady _ _ h)
  have hu : Steady κ s₀ u := .foldl ht fun _ _ hv => emitFlit_steady _ _ hv
  exact .ofIte (fun _ => h) fun _ => .ofIte (fun _ => portLeaves_steady _ _ hu) fun _ => hu

theorem replayTimeout_steady (p : Nat) (h : Steady κ s₀ s) : Steady κ s₀ (replayTimeout s p) :=
  .ofIte (fun _ => h) fun _ => replay_steady _ h

theorem takeCredits_steady (p : Nat) (f : Flit) (h : Steady κ s₀ s) : Steady κ s₀ (takeCredits s p f) :=
  portDrain_steady _ (State.setPort_steady _ _ h)

theorem linkPart_steady (p : Nat) (f : Flit) (h : Steady κ s₀ s) : Steady κ s₀ (linkPart s p f) := by
  unfold linkPart
  extract_lets -underBinder t
  have ht : Steady κ s₀ t := portDrain_steady _ (State.setPort_steady _ _ h)
  exact .ofIte (fun _ => replay_steady _ ht) fun _ => ht

theorem fecCount_steady (p : Nat) (ce : BitVec 4) (h : Steady κ s₀ s) : Steady κ s₀ (fecCount s p ce) :=
  State.addF_steady _ _ _ h

theorem inOrder_steady (p : Nat) (f : Flit) {u : State} (h : Steady κ s₀ s) (e : inOrder s p f = some u) :
    Steady κ s₀ u := by
  unfold inOrder at e
  dsimp only at e
  split_ifs at e
  cases e
  exact takeCredits_steady _ _ (State.setPort_steady _ _ h)

theorem outOfOrder_steady (p : Nat) (f : Flit) (h : Steady κ s₀ s) : Steady κ s₀ (outOfOrder s p f) :=
  .ofIte (fun _ => h) fun _ => flitDropped_steady _ h

theorem freeBuffer_steady (p vc : Nat) (h : Steady κ s₀ s) : Steady κ s₀ (freeBuffer s p vc) :=
  State.setPort_steady _ _ h

theorem receive_steady (p w kind : Nat) (waits : State → Flit → Bool) (here : State → Flit → State)
    (hhere : ∀ (a : State) (a_1 : Flit), Steady κ s₀ a → Steady κ s₀ (here a a_1)) (h : Steady κ s₀ s) :
    Steady κ s₀ (receive s p w kind waits here) := by
  unfold receive
  extract_lets -underBinder
  refine .ofIte (fun _ => h) fun _ => arrives_steady _ _ _ (fun _ ht => ?_) h
  extract_lets -underBinder u
  have hu : Steady κ s₀ u := linkPart_steady _ _ ht
  refine .ofIte (fun _ => hu) fun _ => ?_
  split
  · exact outOfOrder_steady _ _ hu
  · rename_i t₁ e
    have ht₁ : Steady κ s₀ t₁ := inOrder_steady _ _ hu e
    exact .ofIte (fun _ => State.setPort_steady _ _ ht₁) fun _ => freeBuffer_steady _ _ (hhere _ _ ht₁)

theorem idleFlit_steady (p w : Nat) (h : Steady κ s₀ s) : Steady κ s₀ (idleFlit s p w) :=
  .ofIte (fun _ => h) fun _ => arrives_steady _ _ _ (fun _ ht => linkPart_steady _ _ (takeCredits_steady _ _ ht)) h

theorem reservedFlit_steady (p w : Nat) (h : Steady κ s₀ s) : Steady κ s₀ (reservedFlit s p w) := by
  unfold reservedFlit
  extract_lets -underBinder
  refine .ofIte (fun _ => h) fun _ => arrives_steady _ _ _ (fun t ht => ?_) h
  extract_lets -underBinder u count
  have hu : Steady κ s₀ u := linkPart_steady _ _ ht
  have hcount : ∀ (t : State), Steady κ s₀ t → Steady κ s₀ (count t) := fun _ hv => State.addF_steady _ _ _ hv
  refine .ofIte (fun _ => hcount _ (takeCredits_steady _ _ hu)) fun _ => ?_
  split
  · rename_i e
    exact hcount _ (freeBuffer_steady _ _ (inOrder_steady _ _ hu e))
  · exact outOfOrder_steady _ _ hu

theorem creditReturn_steady (p : Nat) (h : Steady κ s₀ s) : Steady κ s₀ (creditReturn s p) :=
  .ofIte (fun _ => h) fun _ => portXmit_steady _ _ h

theorem cmdHere_steady (f : Flit) (h : Steady κ s₀ s) : Steady κ s₀ (cmdHere s f) :=
  .ofIte (fun _ => flitSend_steady _ h) fun _ => acceptCommand_steady _ h

theorem mrdHere_steady (got : Option Bytes) (f : Flit) (h : Steady κ s₀ s) : Steady κ s₀ (mrdHere got s f) := by
  unfold mrdHere
  refine .ofIte (fun _ => h) fun _ => ?_
  extract_lets -underBinder _ _ _ t mcpl
  have ht : Steady κ s₀ t := State.emit_steady _ h
  have hmcpl : ∀ (s : State) (off bad : Nat) (d : Bytes), Steady κ s₀ s → Steady κ s₀ (mcpl s off bad d) :=
      fun _ _ _ _ hu => flitSend_steady _ hu
  split
  · exact hmcpl _ _ _ _ ht
  · exact .foldlFst ht fun _ _ hu => hmcpl _ _ _ _ hu

theorem mwrHere_steady (f : Flit) (h : Steady κ s₀ s) : Steady κ s₀ (mwrHere s f) :=
  .ofIte (fun _ => State.emit_steady _ h) fun _ => h

theorem irqHere_steady (f : Flit) (h : Steady κ s₀ s) : Steady κ s₀ (irqHere s f) :=
  .ofIte (fun _ => raiseVector_steady _ h) fun _ => h

theorem fcredHere_steady (f : Flit) (h : Steady κ s₀ s) : Steady κ s₀ (fcredHere s f) :=
  relayPump_steady h.upd

theorem fhdrHere_steady (f : Flit) (h : Steady κ s₀ s) : Steady κ s₀ (fhdrHere s f) :=
  .ofIte (fun _ => logEvent_steady _ _ _ _ _ _ _ h) fun _ => .ofIte (fun _ =>
    fifGrant_steady _ (fifOpen_steady _ _ h)) fun _ => afterNotrun_steady _ (writeResult_steady _ _ _ _ _ _ _
    (publishBefore_steady _ h))

theorem fdataHere_steady (f : Flit) (h : Steady κ s₀ s) : Steady κ s₀ (fdataHere s f) := by
  unfold fdataHere
  extract_lets -underBinder _ _ _ t
  have ht : Steady κ s₀ t := State.setFifo_steady _ _ h
  refine .ofIte (fun _ => h) fun _ => .ofIte (fun _ => fifDrop_steady _ _ h) fun _ => ?_
  split
  · exact fifDrop_steady _ _ ht
  · exact .ofIte (fun _ => fifTake_steady _ _ ht) fun _ => fifDrop_steady _ _ ht

theorem fendHere_steady (f : Flit) (h : Steady κ s₀ s) : Steady κ s₀ (fendHere s f) := by
  unfold fendHere
  extract_lets -underBinder k seq fl x t
  have ht : Steady κ s₀ t := by
    unfold t
    split
    · exact h
    · split
      · exact h
      · rename_i i _ _ g _
        have hu : Steady κ s₀ (s.setFifo k { x with frames := x.frames.set i { g with fend := some fl } }) :=
          State.setFifo_steady _ _ h
        exact .ofIte (fun _ => fifClose_steady _ (fifSpoil_steady _ hu)) fun _ => hu
  split
  · exact ht
  · exact tryHold_steady _ _ (setFrame_steady _ ht)

theorem streamHere_steady (f : Flit) (h : Steady κ s₀ s) : Steady κ s₀ (streamHere s f) := by
  unfold streamHere
  split
  · exact fhdrHere_steady _ h
  · exact fdataHere_steady _ h
  · exact fendHere_steady _ h

theorem unbuffer_steady (p : Nat) (f : Flit) (h : Steady κ s₀ s) : Steady κ s₀ (unbuffer s p f) :=
  freeBuffer_steady _ _ (State.setPort_steady _ _ h)

theorem flitForward_steady (p vc : Nat) (h : Steady κ s₀ s) : Steady κ s₀ (flitForward s p vc) := by
  unfold flitForward
  split
  · exact unbuffer_steady _ _ (streamHere_steady _ h)
  · split
    · exact h
    · extract_lets -underBinder _ t
      have ht : Steady κ s₀ t := unbuffer_steady _ _ h
      exact .ofIte (fun _ => deadFlit_steady _ ht) fun _ => .ofIte (fun _ => portXmit_steady _ _ ht) fun _ => h

theorem syncTimer_steady (p : Nat) (h : Steady κ s₀ s) : Steady κ s₀ (syncTimer s p) :=
  .ofIte (fun _ => h) fun _ => portDrain_steady _ (State.setPort_steady _ _ h)

theorem syncHere_steady (p : Nat) (f : Flit) (h : Steady κ s₀ s) : Steady κ s₀ (syncHere p s f) := by
  unfold syncHere
  extract_lets -underBinder _ _ t _ u
  have ht : Steady κ s₀ t := State.setPort_steady _ _ h
  have hu : Steady κ s₀ u := .ofIte (fun _ => ht.upd) fun _ => ht.upd
  exact .ofIte (fun _ => ht) fun _ => State.setF_steady _ _ _ (State.setF_steady _ _ _ hu)

end Sys2Proof.Machine
end

section
/-! What the operations of Sys2Proof/Machine/Registers.lean do to the state keeps the invariants. -/
namespace Sys2Proof.Machine
open Sys2Proof Sys2Proof.Machine.Reg
variable {κ : Bool} {s₀ s : State}

theorem clearRC_steady (a : Nat) (inc : Option (BitVec 32)) (h : Steady κ s₀ s) : Steady κ s₀ (clearRC s a inc) := by
  unfold clearRC
  split
  · exact h
  · exact .ofIte (fun _ => h) fun _ => State.setReg_steady _ _ h

theorem regRead_steady (a : Nat) (inc : Option (BitVec 32)) (h : Steady κ s₀ s) : Steady κ s₀ (regRead s a inc).2 :=
  .ofIteSnd (fun _ => State.setReg_steady _ _ h) fun _ => clearRC_steady _ _ h

theorem txuRegWrite_steady (u o a v : Nat) (h : Steady κ s₀ s) : Steady κ s₀ (txuRegWrite s u o a v) := by
  unfold txuRegWrite
  refine .ofIte (fun _ => ?_) fun _ => .ofIte (fun _ => txuFence_steady _ _ h) fun _ => .ofIte (fun _ =>
      txuActWrite_steady _ _ _ _ h) fun _ => State.writePlain_steady _ _ h
  extract_lets -underBinder t
  have ht : Steady κ s₀ t := .ofIte (fun _ => txuCommit_steady _ h) fun _ => h
  exact .ofIte (fun _ => txuClear_steady _ ht) fun _ => ht

theorem coreRegWrite_steady (c o a v : Nat) (h : Steady κ s₀ s) : Steady κ s₀ (coreRegWrite s c o a v) :=
  .ofIte (fun _ => coreConfigWrite_steady _ _ _ h) fun _ => .ofIte (fun _ => engSeedWrite_steady _ _ _ h) fun _ =>
    .ofIte (fun _ => bankCtrlWrite_steady _ _ _ h) fun _ => State.writePlain_steady _ _ h

theorem clusterRegWrite_steady (cl o a v : Nat) (h : Steady κ s₀ s) : Steady κ s₀ (clusterRegWrite s cl o a v) := by
  unfold clusterRegWrite
  refine .ofIte (fun _ => txuRegWrite_steady _ _ _ _ h) fun _ => ?_
  refine .ofIte (fun _ => mvrRegWrite_steady _ _ _ _ _ h) fun _ => ?_
  refine .ofIte (fun _ => bankCtrlWrite_steady _ _ _ h) fun _ => ?_
  split
  · exact gustMaskWrite_steady _ _ _ h
  · exact State.writePlain_steady _ _ h

theorem sendPending_steady (n : Nat) (h : Steady κ s₀ s) : Steady κ s₀ (sendPending s n) :=
  .ofIte (fun _ => raiseVector_steady _ (State.setReg_steady _ _ h)) fun _ => h

theorem msixWrite_steady (o a v : Nat) (h : Steady κ s₀ s) : Steady κ s₀ (msixWrite s o a v) := by
  unfold msixWrite
  extract_lets -underBinder t
  have ht : Steady κ s₀ t := State.writePlain_steady _ _ h
  exact .ofIte (fun _ => sendPending_steady _ ht) fun _ => ht

theorem fifRegWrite_steady (k o a v : Nat) (h : Steady κ s₀ s) : Steady κ s₀ (fifRegWrite s k o a v) :=
  .ofIte (fun _ => fifConfigWrite_steady _ _ _ h) fun _ => .ofIte (fun _ =>
    fifPend_steady _ (State.writePlain_steady _ _ h)) fun _ => .ofIte (fun _ => fifAperture_steady _ _ _ h) fun _ => h

theorem fifAliasWrite_steady (o v : Nat) (h : Steady κ s₀ s) : Steady κ s₀ (fifAliasWrite s o v) :=
  .ofIte (fun _ => h) fun _ => fifRegWrite_steady _ _ _ _ h

theorem mbxWrite_steady (o a v : Nat) (h : Steady κ s₀ s) : Steady κ s₀ (mbxWrite s o a v) :=
  .ofIte (fun _ => .ofIte (fun _ => crEnable_steady _ h) fun _ => crDisable_steady _ h) fun _ => .ofIte (fun _ =>
    .ofIte (fun _ => ccEnable_steady _ h) fun _ => ccDisable_steady _ h) fun _ => .ofIte (fun _ => .ofIte (fun _ =>
    h) fun _ => State.writePlain_steady _ _ h) fun _ => .ofIte (fun _ => .ofIte (fun _ => h) fun _ =>
    State.writePlain_steady _ _ h) fun _ => .ofIte (fun _ => crTailWrite_steady _ h) fun _ => .ofIte (fun _ =>
    ccHeadWrite_steady _ h) fun _ => .ofIte (fun _ => .ofIte (fun _ => frTailWrite_steady _ _ h) fun _ => .ofIte (fun _ =>
    rrHeadWrite_steady _ _ h) fun _ => h) fun _ => .ofIte (fun _ => .ofIte (fun _ => hostBootGo_steady h) fun _ =>
    h) fun _ => .ofIte (fun _ => msixWrite_steady _ _ _ h) fun _ => .ofIte (fun _ => State.writePlain_steady _ _ h) fun _ =>
    .ofIte (fun _ => fifAliasWrite_steady _ _ h) fun _ => State.writePlain_steady _ _ h

theorem rlyWrite_steady (o v : Nat) (h : Steady κ s₀ s) : Steady κ s₀ (rlyWrite s o v) := by
  unfold rlyWrite
  extract_lets -underBinder _ _ t
  have ht : Steady κ s₀ t := .ofIte (fun _ => portEnable_steady _ h) fun _ => .ofIte (fun _ => h) fun _ =>
      portDisable_steady _ h
  exact .ofIte (fun _ => .ofIte (fun _ => portRetrain_steady _ ht) fun _ => ht) fun _ => h

theorem monitorLock_steady (h : Steady κ s₀ s) : Steady κ s₀ (monitorLock s) :=
  dropChallenge_steady (State.setF_steady _ _ _ h)

theorem hubRegWrite_steady (o a v : Nat) (h : Steady κ s₀ s) : Steady κ s₀ (hubRegWrite s o a v) :=
  .ofIte (fun _ => mbxWrite_steady _ _ _ h) fun _ => .ofIte (fun _ => txuRegWrite_steady _ _ _ _ h) fun _ =>
    .ofIte (fun _ => fifRegWrite_steady _ _ _ _ h) fun _ => .ofIte (fun _ => mvrRegWrite_steady _ _ _ _ _ h) fun _ =>
    .ofIte (fun _ => rlyWrite_steady _ _ h) fun _ => .ofIte (fun _ => vsetWrite_steady _ _ h) fun _ => .ofIte (fun _ =>
    wdogKick_steady h) fun _ => .ofIte (fun _ => .ofIte (fun _ => monitorLock_steady h) fun _ => h) fun _ =>
    State.writePlain_steady _ _ h

theorem regEffect_steady (a v : Nat) (h : Steady κ s₀ s) : Steady κ s₀ (regEffect s a v) := by
  unfold regEffect
  split
  · exact coreRegWrite_steady _ _ _ _ h
  · exact clusterRegWrite_steady _ _ _ _ h
  · exact hubRegWrite_steady _ _ _ h
  · exact State.writePlain_steady _ _ h
  · exact h

theorem carryOut_steady (work : State → State) (hwork : ∀ (a : State), Steady κ s₀ a → Steady κ s₀ (work a))
    (h : Steady κ s₀ s) : Steady κ s₀ (carryOut s work) :=
  (Steady.foldl (hwork _ h.upd).upd fun _ _ hv => regEffect_steady _ _ hv).upd

theorem regWrite_steady (a v : Nat) (h : Steady κ s₀ s) : Steady κ s₀ (regWrite s a v) :=
  carryOut_steady _ (fun _ ht => regEffect_steady _ _ ht) h

theorem stewardRegWrite_steady (a v : Nat) (h : Steady κ s₀ s) : Steady κ s₀ (stewardRegWrite s a v) := by
  unfold stewardRegWrite
  extract_lets -underBinder _ t
  have ht : Steady κ s₀ t := State.setReg_steady _ _ h
  exact .ofIte (fun _ => regWrite_steady _ _ h) fun _ => .ofIte (fun _ => brokenPaths_steady ht) fun _ => ht

theorem bar0Write_steady (n v : Nat) (h : Steady κ s₀ s) : Steady κ s₀ (bar0Write s n v) :=
  regWrite_steady _ _ h

theorem coincide_steady (a v sets : Nat) (write : State → Nat → State)
    (hwrite : ∀ (a : State) (a_1 : Nat), Steady κ s₀ a → Steady κ s₀ (write a a_1)) (h : Steady κ s₀ s) :
    Steady κ s₀ (coincide s a v sets write) :=
  .ofIte (fun _ => hwrite _ _ h) fun _ => hwrite _ _ (State.setReg_steady _ _ h)

theorem aerAdvisory_steady (h : Steady κ s₀ s) : Steady κ s₀ (aerAdvisory s) := by
  unfold aerAdvisory
  extract_lets -underBinder _ _ t
  have ht : Steady κ s₀ t := h.upd
  exact .ofIte (fun _ => ht) fun _ => raiseVector_steady _ (State.emit_steady _ ht)

theorem bar0Invalid_steady (write : Bool) (h : Steady κ s₀ s) : Steady κ s₀ (bar0Invalid s write) :=
  .ofIte (fun _ => h) fun _ => aerAdvisory_steady (.ofIte (fun _ => h) fun _ => State.emit_steady _ h)

theorem noRegister_steady (a : Nat) (h : Steady κ s₀ s) : Steady κ s₀ (noRegister s a) :=
  .ofIte (fun _ => h) fun _ => logBusError_steady _ h

theorem registerWrite_steady (host : Bool) (a v sets : Nat) (h : Steady κ s₀ s) :
    Steady κ s₀ (registerWrite s host a v sets) :=
  .ofIte (fun _ => .ofIte (fun _ => h) fun _ => .ofIte (fun _ => bar0Invalid_steady _ h) fun _ =>
    coincide_steady _ _ _ _ (fun _ _ ht => bar0Write_steady _ _ ht) h) fun _ => .ofIte (fun _ => h) fun _ =>
    .ofIte (fun _ => coincide_steady _ _ _ _ (fun _ _ ht => stewardRegWrite_steady _ _ ht) h) fun _ => noRegister_steady _ h

theorem registerRead_steady (host : Bool) (a : Nat) (inc : Option (BitVec 32)) (h : Steady κ s₀ s) :
    Steady κ s₀ (registerRead s host a inc) :=
  .ofIte (fun _ => .ofIte (fun _ => h) fun _ => .ofIte (fun _ => bar0Invalid_steady _ h) fun _ =>
    State.emit_steady _ (regRead_steady _ _ h)) fun _ => .ofIte (fun _ => h) fun _ => .ofIte (fun _ =>
    regRead_steady _ _ h) fun _ => noRegister_steady _ h

theorem timeLoRead_steady (host : Bool) (h : Steady κ s₀ s) : Steady κ s₀ (timeLoRead s host) :=
  registerRead_steady _ _ _ h

theorem stuckAt_steady (a : Nat) (i : Instr) (h : Steady κ s₀ s) : Steady κ s₀ (stuckAt s a i) :=
  h.upd

theorem regReads_steady (a n : Nat) (h : Steady κ s₀ s) : Steady κ s₀ (regReads s a n).2 := by
  induction n generalizing s a with
  | zero => exact h
  | succ n ih => exact ih _ (regRead_steady _ _ h)

theorem regWrites_steady (a : Nat) (b : Bytes) (n : Nat) (h : Steady κ s₀ s) : Steady κ s₀ (regWrites s a b n) := by
  induction n generalizing s a b with
  | zero => exact h
  | succ n ih => exact ih _ _ (regWrite_steady _ _ h)

theorem bar2Read_steady (n : BitVec 28) (len : Fin 4097) (h : Steady κ s₀ s) : Steady κ s₀ (bar2Read s n len) := by
  have hw : ∀ a k u, asleep s a k = some u → Steady κ s₀ u := fun _ _ _ => asleep_steady _ _ h
  have hr : ∀ a k, Steady κ s₀ (memRead s a k).2 := fun _ _ => memRead_steady _ _ h
  unfold bar2Read
  obtain ⟨waits, hwaits⟩ : ∃ f, asleep = f := ⟨_, rfl⟩
  obtain ⟨read, hread⟩ : ∃ f, memRead = f := ⟨_, rfl⟩
  rw [hwaits] at hw ⊢
  rw [hread] at hr ⊢
  extract_lets +onlyGivenNames i n len
  refine .ofIte (fun _ => h) fun _ => .ofIte (fun _ => State.emit_steady _ h) fun _ => ?_
  extract_lets +onlyGivenNames a
  refine .ofIte (fun _ => State.emit_steady _ (logBusError_steady _ h)) fun _ => ?_
  refine .ofIte (fun _ => ?_) fun _ => ?_
  · exact .ofIte (fun _ => State.emit_steady _ (regReads_steady _ _ h)) fun _ =>
      State.emit_steady _ (logBusError_steady _ h)
  · split
    · rename_i e
      exact stuckAt_steady _ _ (hw _ _ _ e)
    · split <;> rename_i e
      · exact State.emit_steady _ (.ofPair e (hr _ _))
      · exact State.emit_steady _ (logUncorrectable_steady _ _ _ (.ofPair e (hr _ _)))
      · exact State.emit_steady _ (logBusError_steady _ (.ofPair e (hr _ _)))

theorem feedLines_steady (a : Nat) (b : Bytes) (h : Steady κ s₀ s) : Steady κ s₀ (feedLines s a b) := by
  unfold feedLines
  split
  · exact h
  · exact .ofIte (fun _ => logBusError_steady _ h) fun _ => .ofIte (fun _ => h) fun _ =>
        .foldl h fun _ _ ht => gustFeed_steady _ _ _ _ ht

theorem bar2Write_steady (n : BitVec 28) (b : Bytes) (h : Steady κ s₀ s) : Steady κ s₀ (bar2Write s n b) := by
  have hw : ∀ a k u, asleep s a k = some u → Steady κ s₀ u := fun _ _ _ => asleep_steady _ _ h
  have hm : ∀ a, Steady κ s₀ (memWrite s a b).2 := fun _ => memWrite_steady _ _ h
  unfold bar2Write
  obtain ⟨waits, hwaits⟩ : ∃ f, asleep = f := ⟨_, rfl⟩
  obtain ⟨write, hwrite⟩ : ∃ f, memWrite = f := ⟨_, rfl⟩
  rw [hwaits] at hw ⊢
  rw [hwrite] at hm ⊢
  extract_lets +onlyGivenNames i n
  refine .ofIte (fun _ => h) fun _ => ?_
  extract_lets +onlyGivenNames a e
  refine .ofIte (fun _ => logBusError_steady _ h) fun _ => .ofIte (fun _ => feedLines_steady _ _ h) fun _ => ?_
  refine .ofIte (fun _ => ?_) fun _ => ?_
  · exact .ofIte (fun _ => regWrites_steady _ _ _ h) fun _ => logBusError_steady _ h
  · split
    · rename_i e
      exact stuckAt_steady _ _ (hw _ _ _ e)
    · split <;> rename_i e
      · exact logUncorrectable_steady _ _ _ (.ofPair e (hm _))
      · exact .ofPair e (hm _)

theorem cfgWrite_steady (o v : Nat) (h : Steady κ s₀ s) : Steady κ s₀ (cfgWrite s o v) := by
  unfold cfgWrite
  extract_lets -underBinder _ t
  have ht : Steady κ s₀ t := h.upd
  exact .ofIte (fun _ => h.upd) fun _ => .ofIte (fun _ => h) fun _ => .ofIte (fun _ =>
      .foldl ht fun _ _ hu => sendPending_steady _ hu) fun _ => ht

theorem configurationRequest_steady (write : Bool) (o v : Nat) (ready : Bool) (h : Steady κ s₀ s) :
    Steady κ s₀ (configurationRequest s write o v ready) := by
  unfold configurationRequest
  refine .ofIte (fun _ => h) fun _ => ?_
  extract_lets -underBinder _ t
  have ht : Steady κ s₀ t := .ofIte (fun _ => h.upd) fun _ => h
  refine .ofIte (fun _ => State.emit_steady _ ht) fun _ => ?_
  refine .ofIte (fun _ => cfgWrite_steady _ _ ht) fun _ => ?_
  split
  · exact State.emit_steady _ ht
  · exact State.emit_steady _ ht.upd

end Sys2Proof.Machine
end

section
/-! What the operations of Sys2Proof/Machine/Monitor.lean do to the state keeps the invariants. -/
namespace Sys2Proof.Machine
open Sys2Proof Sys2Proof.Machine.Reg
variable {κ : Bool} {s₀ s : State}

theorem monAnswer_steady (lines : List Bytes) (final : Bytes) (h : Steady κ s₀ s) : Steady κ s₀ (monAnswer s lines final) :=
  State.emit_steady _ h

theorem monOk_steady (lines : List Bytes) (h : Steady κ s₀ s) : Steady κ s₀ (monOk s lines) :=
  monAnswer_steady _ _ h

theorem monErr_steady (code : Nat) (extra : Bytes) (h : Steady κ s₀ s) : Steady κ s₀ (monErr s code extra) :=
  monAnswer_steady _ _ h

theorem monCount_steady (h : Steady κ s₀ s) : Steady κ s₀ (monCount s) :=
  State.addF_steady _ _ _ h

theorem monOpen_steady (f : State → State) (hf : ∀ (a : State), Steady κ s₀ a → Steady κ s₀ (f a)) (h : Steady κ s₀ s) :
    Steady κ s₀ (monOpen s f) :=
  .ofIte (fun _ => hf _ h) fun _ => h

theorem monGuard_steady (f : State → State) (hf : ∀ (a : State), Steady κ s₀ a → Steady κ s₀ (f a)) (h : Steady κ s₀ s) :
    Steady κ s₀ (monGuard s f) :=
  monOpen_steady _ (fun _ ht => .ofIte (fun _ => monErr_steady _ _ ht) fun _ => hf _ ht) h

theorem noArgs_steady (args : Bytes) (f : State → State) (hf : ∀ (a : State), Steady κ s₀ a → Steady κ s₀ (f a))
    (h : Steady κ s₀ s) : Steady κ s₀ (noArgs s args f) :=
  .ofIte (fun _ => hf _ h) fun _ => monErr_steady _ _ h

theorem monBusError_steady (a : Nat) (h : Steady κ s₀ s) : Steady κ s₀ (monBusError s a) :=
  monCount_steady (monErr_steady _ _ (logBusError_steady _ h))

theorem monHelp_steady (args : Bytes) (h : Steady κ s₀ s) : Steady κ s₀ (monHelp s args) :=
  monOpen_steady _ (fun _ ht => noArgs_steady _ _ (fun _ hu => monCount_steady (monOk_steady _ hu)) ht) h

theorem monId_steady (args : Bytes) (h : Steady κ s₀ s) : Steady κ s₀ (monId s args) :=
  monOpen_steady _ (fun _ ht => noArgs_steady _ _ (fun _ hu => monCount_steady (monOk_steady _ hu)) ht) h

theorem monStat_steady (args : Bytes) (h : Steady κ s₀ s) : Steady κ s₀ (monStat s args) :=
  monOpen_steady _ (fun _ ht => noArgs_steady _ _ (fun _ hu => monCount_steady (monOk_steady _ hu)) ht) h

theorem monBaud_steady (args : Bytes) (h : Steady κ s₀ s) : Steady κ s₀ (monBaud s args) := by
  unfold monBaud
  refine monOpen_steady _ (fun _ ht => ?_) h
  split
  · exact .ofIte (fun _ => State.setF_steady _ _ _ (monCount_steady (monOk_steady _ ht))) fun _ => monErr_steady _ _ ht
  · exact monErr_steady _ _ ht

theorem monChal_steady (args : Bytes) (h : Steady κ s₀ s) : Steady κ s₀ (monChal s args) := by
  unfold monChal
  refine monOpen_steady _ (fun _ ht => (noArgs_steady _ _ (fun _ hu => ?_) ht)) h
  split
  · exact monCount_steady (monErr_steady _ _ hu)
  · exact monCount_steady (monOk_steady _ (State.setF_steady _ _ _ hu.upd))

theorem monRsp_steady (args : Bytes) (h : Steady κ s₀ s) : Steady κ s₀ (monRsp s args) := by
  unfold monRsp
  refine monOpen_steady _ (fun _ ht => ?_) h
  split
  · split
    · exact .ofIte (fun _ => monCount_steady (monOk_steady _ ht.upd)) fun _ => monErr_steady _ _ ht
    · exact monErr_steady _ _ ht
  · exact monErr_steady _ _ ht

theorem monUnlocked_steady (k : Nat) (h : Steady κ s₀ s) : Steady κ s₀ (monUnlocked s k) := by
  unfold monUnlocked
  extract_lets -underBinder t
  have ht : Steady κ s₀ t := State.setF_steady _ _ _ (State.setF_steady _ _ _ h)
  exact monOk_steady _ (State.addF_steady _ _ _ ht.upd)

theorem monUnlockFails_steady (reason : Nat) (h : Steady κ s₀ s) : Steady κ s₀ (monUnlockFails s reason) := by
  unfold monUnlockFails
  extract_lets -underBinder _ _ _ u
  have hu : Steady κ s₀ u := (State.addF_steady _ _ _ h).upd
  exact monErr_steady _ _ (.ofIte (fun _ => State.setF_steady _ _ _ hu.upd) fun _ => hu)

theorem monUnlk_steady (args : Bytes) (h : Steady κ s₀ s) : Steady κ s₀ (monUnlk s args) := by
  unfold monUnlk
  refine monOpen_steady _ (fun _ ht => ?_) h
  split
  · refine .ofIte (fun _ => monErr_steady _ _ (dropChallenge_steady ht)) fun _ => ?_
    refine .ofIte (fun _ => monCount_steady (monUnlocked_steady _ (dropChallenge_steady ht))) fun _ => ?_
    split
    · exact monCount_steady (monErr_steady _ _ ht)
    · extract_lets -underBinder _ _ _ u
      have hu : Steady κ s₀ u := dropChallenge_steady ht
      exact monCount_steady (.ofIte (fun _ => monUnlocked_steady _ hu) fun _ => monUnlockFails_steady _ hu)
  · exact monErr_steady _ _ (dropChallenge_steady ht)

theorem monLock_steady (args : Bytes) (h : Steady κ s₀ s) : Steady κ s₀ (monLock s args) :=
  monOpen_steady _ (fun _ ht => noArgs_steady _ _ (fun _ hu =>
      monCount_steady (monOk_steady _ (monitorLock_steady hu))) ht) h

theorem monRd_steady (args : Bytes) (h : Steady κ s₀ s) : Steady κ s₀ (monRd s args) := by
  unfold monRd
  refine monGuard_steady _ (fun _ ht => ?_) h
  split
  · exact .ofIte (fun _ => monCount_steady (monOk_steady _ (regRead_steady _ _ ht))) fun _ => monBusError_steady _ ht
  · exact monErr_steady _ _ ht

theorem monPk_steady (args : Bytes) (h : Steady κ s₀ s) : Steady κ s₀ (monPk s args) := by
  unfold monPk
  refine monGuard_steady _ (fun _ ht => ?_) h
  split
  · refine .ofIte (fun _ => monErr_steady _ _ ht) fun _ => ?_
    extract_lets -underBinder
    split
    · exact monBusError_steady _ ht
    · exact monCount_steady (monOk_steady _ ht)
  · exact monErr_steady _ _ ht

theorem monWr_steady (args : Bytes) (h : Steady κ s₀ s) : Steady κ s₀ (monWr s args) := by
  unfold monWr
  refine monGuard_steady _ (fun _ ht => ?_) h
  split
  · exact .ofIte (fun _ => monErr_steady _ _ ht) fun _ => .ofIte (fun _ =>
        monCount_steady (monOk_steady _ (regWrite_steady _ _ ht))) fun _ => monBusError_steady _ ht
  · exact monErr_steady _ _ ht

theorem monMrd_steady (args : Bytes) (h : Steady κ s₀ s) : Steady κ s₀ (monMrd s args) := by
  unfold monMrd
  refine monGuard_steady _ (fun _ ht => ?_) h
  split
  · refine .ofIte (fun _ => monErr_steady _ _ ht) fun _ => ?_
    refine .ofIte (fun _ => monBusError_steady _ ht) fun _ => ?_
    split
    · rename_i e'
      exact stuckAt_steady _ _ (asleep_steady _ _ ht e')
    · split
      · rename_i e₁
        exact monCount_steady (monOk_steady _ (.ofPair e₁ (memRead_steady _ _ ht)))
      · rename_i w e₁
        have hw : Steady κ s₀ w := .ofPair e₁ (memRead_steady _ _ ht)
        exact monCount_steady (monOk_steady _ (logUncorrectable_steady _ _ _ hw.upd))
      · rename_i e₁
        exact monBusError_steady _ (.ofPair e₁ (memRead_steady _ _ ht))
  · exact monErr_steady _ _ ht

theorem monWrite_steady (a : Nat) (b : Bytes) (h : Steady κ s₀ s) : Steady κ s₀ (monWrite s a b) := by
  unfold monWrite
  refine .ofIte (fun _ => State.putBytes_steady _ _ h) fun _ => ?_
  split
  · rename_i e
    exact logUncorrectable_steady _ _ _ (.ofPair e (memWrite_steady _ _ h))
  · rename_i e
    exact .ofPair e (memWrite_steady _ _ h)

theorem monMwr_steady (args : Bytes) (h : Steady κ s₀ s) : Steady κ s₀ (monMwr s args) := by
  unfold monMwr
  refine monGuard_steady _ (fun _ ht => ?_) h
  split
  · split
    · refine .ofIte (fun _ => monErr_steady _ _ ht) fun _ => ?_
      refine .ofIte (fun _ => monBusError_steady _ ht) fun _ => ?_
      split
      · rename_i e₂
        exact stuckAt_steady _ _ (asleep_steady _ _ ht e₂)
      · exact monCount_steady (monOk_steady _ (monWrite_steady _ _ ht))
    · exact monErr_steady _ _ ht
  · exact monErr_steady _ _ ht

theorem monLog_steady (args : Bytes) (h : Steady κ s₀ s) : Steady κ s₀ (monLog s args) := by
  unfold monLog
  refine monGuard_steady _ (fun _ ht => ?_) h
  split
  · exact .ofIte (fun _ => monErr_steady _ _ ht) fun _ => monCount_steady (monOk_steady _ ht)
  · exact monErr_steady _ _ ht

theorem monFuse_steady (args : Bytes) (h : Steady κ s₀ s) : Steady κ s₀ (monFuse s args) :=
  monGuard_steady _ (fun _ ht => noArgs_steady _ _ (fun _ hu => monCount_steady (monOk_steady _ hu)) ht) h

theorem monBurn_steady (args : Bytes) (low : Bool) (h : Steady κ s₀ s) : Steady κ s₀ (monBurn s args low) := by
  refine monGuard_steady _ (fun t ht => ?_) h
  split
  · refine .ofIte (fun _ => monCount_steady (monErr_steady _ _ ht)) fun _ => monCount_steady (monOk_steady _ (ht.burn ?_))
    intro j hj
    rw [Nat.testBit_or, hj, Bool.true_or]
  · exact monErr_steady _ _ ht

theorem lineDiscard_steady (h : Steady κ s₀ s) : Steady κ s₀ (lineDiscard s) :=
  monOpen_steady _ (fun _ ht => monErr_steady _ _ (State.addF_steady _ _ _ ht)) h

theorem monUnknown_steady (line : Bytes) (h : Steady κ s₀ s) : Steady κ s₀ (monUnknown s line) := by
  unfold monUnknown
  split
  · exact .ofIte (fun _ => h) fun _ => monOpen_steady _ (fun _ ht => monErr_steady _ _ ht) h
  · exact monOpen_steady _ (fun _ ht => monErr_steady _ _ ht) h

theorem challengeExpiry_steady (h : Steady κ s₀ s) : Steady κ s₀ (challengeExpiry s) := by
  unfold challengeExpiry
  split
  · exact .ofIte (fun _ => dropChallenge_steady h) fun _ => h
  · exact h

theorem lockoutEnd_steady (h : Steady κ s₀ s) : Steady κ s₀ (lockoutEnd s) := by
  unfold lockoutEnd
  split
  · exact .ofIte (fun _ => State.setF_steady _ _ _ h.upd) fun _ => h
  · exact h

theorem dbgLockWrite_steady (h : Steady κ s₀ s) : Steady κ s₀ (dbgLockWrite s) :=
  .ofIte (fun _ => monitorLock_steady h) fun _ => h

theorem monTake_steady (i : Instr) (f : State → State) (hf : ∀ (a : State), Steady κ s₀ a → Steady κ s₀ (f a))
    (h : Steady κ s₀ s) : Steady κ s₀ (monTake s i f) :=
  .ofIte (fun _ => stuckAt_steady _ _ h) fun _ => hf _ h

end Sys2Proof.Machine
end

section
/-! What the operations of Sys2Proof/Machine/Spdm.lean do to the state keeps the invariants. -/
namespace Sys2Proof.Machine
open Sys2Proof Sys2Proof.Machine.Reg
variable {κ : Bool} {s₀ s : State}

theorem doeRespond_steady (type : Nat) (msg : Bytes) (h : Steady κ s₀ s) : Steady κ s₀ (doeRespond s type msg) :=
  raiseVector_steady _ (State.emit_steady _ h)

theorem doeDiscover_steady (index : Nat) (h : Steady κ s₀ s) : Steady κ s₀ (doeDiscover s index) :=
  .ofIte (fun _ => h) fun _ => doeRespond_steady _ _ h

theorem spdmError_steady (code data : Nat) (h : Steady κ s₀ s) : Steady κ s₀ (spdmError s code data) :=
  doeRespond_steady _ _ h

theorem spdmUnsupported_steady (req : Bytes) (h : Steady κ s₀ s) : Steady κ s₀ (spdmUnsupported s req) :=
  spdmError_steady _ _ h

theorem spdmRequest_steady (req : Bytes) (c : Nat) (inOrder : Bool) (f : State → State)
    (hf : ∀ (a : State), Steady κ s₀ a → Steady κ s₀ (f a)) (h : Steady κ s₀ s) :
    Steady κ s₀ (spdmRequest s req c inOrder f) :=
  .ofIte (fun _ => h) fun _ => .ofIte (fun _ => spdmUnsupported_steady _ h) fun _ => .ofIte (fun _ =>
    spdmError_steady _ _ h) fun _ => hf _ h

theorem spdmIdentity_steady (req : Bytes) (c : Nat) (f : State → State)
    (hf : ∀ (a : State), Steady κ s₀ a → Steady κ s₀ (f a)) (h : Steady κ s₀ s) : Steady κ s₀ (spdmIdentity s req c f) :=
  spdmRequest_steady _ _ _ _ (fun _ ht => .ofIte (fun _ => spdmUnsupported_steady _ ht) fun _ => .ofIte (fun _ =>
      spdmError_steady _ _ ht) fun _ => hf _ ht) h

theorem getVersion_steady (req : Bytes) (h : Steady κ s₀ s) : Steady κ s₀ (getVersion s req) :=
  .ofIte (fun _ => h) fun _ => doeRespond_steady _ _ h.upd

theorem getCapabilities_steady (req : Bytes) (h : Steady κ s₀ s) : Steady κ s₀ (getCapabilities s req) :=
  spdmRequest_steady _ _ _ _ (fun _ ht => doeRespond_steady _ _ ht.upd) h

theorem negotiateAlgorithms_steady (req : Bytes) (h : Steady κ s₀ s) : Steady κ s₀ (negotiateAlgorithms s req) :=
  spdmRequest_steady _ _ _ _ (fun _ ht => doeRespond_steady _ _ ht.upd) h

theorem getDigests_steady (req : Bytes) (h : Steady κ s₀ s) : Steady κ s₀ (getDigests s req) :=
  spdmIdentity_steady _ _ _ (fun _ ht => doeRespond_steady _ _ ht.upd) h

theorem getCertificate_steady (req : Bytes) (h : Steady κ s₀ s) : Steady κ s₀ (getCertificate s req) :=
  spdmIdentity_steady _ _ _ (fun _ ht => .ofIte (fun _ => spdmUnsupported_steady _ ht) fun _ =>
      doeRespond_steady _ _ ht.upd) h

theorem drawNonce_steady (h : Steady κ s₀ s) : Steady κ s₀ (drawNonce s).2 :=
  drawBytes_steady _ h

theorem spdmSign_steady (context : String) (t : Bytes) (h : Steady κ s₀ s) : Steady κ s₀ (spdmSign s context t).2 :=
  State.addF_steady _ _ _ (signMessage_steady _ h)

theorem challenge_steady (req : Bytes) (h : Steady κ s₀ s) : Steady κ s₀ (challenge s req) := by
  unfold challenge
  refine spdmIdentity_steady _ _ _ (fun _ ht => ?_) h
  extract_lets -underBinder _ _ _ _ v
  have hv : Steady κ s₀ v.2 := spdmSign_steady _ _ (drawNonce_steady ht)
  exact .ofIte (fun _ => spdmUnsupported_steady _ ht) fun _ => doeRespond_steady _ _ hv.upd

theorem getMeasurements_steady (req : Bytes) (h : Steady κ s₀ s) : Steady κ s₀ (getMeasurements s req) := by
  unfold getMeasurements
  refine spdmIdentity_steady _ _ _ (fun _ ht => ?_) h
  extract_lets -underBinder _ _ _ _ u _ _ _ w _ t₁
  have hu : Steady κ s₀ u.2 := drawNonce_steady ht
  have hw : Steady κ s₀ w := spdmSign_steady _ _ hu
  have ht₁ : Steady κ s₀ t₁ := hu
  exact .ofIte (fun _ => spdmUnsupported_steady _ ht) fun _ => .ofIte (fun _ => doeRespond_steady _ _ hw.upd) fun _ =>
      doeRespond_steady _ _ ht₁.upd

theorem spdmOther_steady (req : Bytes) (h : Steady κ s₀ s) : Steady κ s₀ (spdmOther s req) :=
  .ofIte (fun _ => h) fun _ => spdmUnsupported_steady _ h

theorem spdmTake_steady (req : Bytes) (h : Steady κ s₀ s) : Steady κ s₀ (spdmTake s req) := by
  unfold spdmTake
  split
  · exact getVersion_steady _ h
  · exact getCapabilities_steady _ h
  · exact negotiateAlgorithms_steady _ h
  · exact getDigests_steady _ h
  · exact getCertificate_steady _ h
  · exact challenge_steady _ h
  · exact getMeasurements_steady _ h
  · exact spdmOther_steady _ h

theorem spdmArrive_steady (req : Bytes) (mine : Bool) (h : Steady κ s₀ s) : Steady κ s₀ (spdmArrive s req mine) :=
  .ofIte (fun _ => h) fun _ => .ofIte (fun _ => spdmTake_steady _ h) fun _ => h.upd

theorem spdmNext_steady (h : Steady κ s₀ s) : Steady κ s₀ (spdmNext s) := by
  unfold spdmNext
  split
  · exact h
  · exact .ofIte (fun _ => spdmTake_steady _ h.upd) fun _ => h

theorem spdmResume_steady (h : Steady κ s₀ s) : Steady κ s₀ (spdmResume s) :=
  .foldl h fun _ _ ht => spdmNext_steady ht

theorem doeAbort_steady (h : Steady κ s₀ s) : Steady κ s₀ (doeAbort s) :=
  h.upd

theorem quoteTurn_steady (i : Nat) (h : Steady κ s₀ s) : Steady κ s₀ (quoteTurn s i) :=
  spdmResume_steady (attestQuote_steady _ h)

end Sys2Proof.Machine
end

section
/-! What the operations of Sys2Proof/Machine/Waits.lean do to the state keeps the invariants. -/
namespace Sys2Proof.Machine
open Sys2Proof Sys2Proof.Machine.Reg
variable {κ : Bool} {s₀ s : State}

theorem takeAgain_steady (i : Instr) (h : Steady κ s₀ s) : Steady κ s₀ (takeAgain s i) := by
  cases i with
  | bar2Read n len => exact bar2Read_steady _ _ h
  | bar2Write n b => exact bar2Write_steady _ _ h
  | monHelp args => exact monTake_steady _ (fun t => monHelp t args) (fun _ ht => monHelp_steady _ ht) h
  | monId args => exact monTake_steady _ (fun t => monId t args) (fun _ ht => monId_steady _ ht) h
  | monStat args => exact monTake_steady _ (fun t => monStat t args) (fun _ ht => monStat_steady _ ht) h
  | monBaud args => exact monTake_steady _ (fun t => monBaud t args) (fun _ ht => monBaud_steady _ ht) h
  | monChal args => exact monTake_steady _ (fun t => monChal t args) (fun _ ht => monChal_steady _ ht) h
  | monRsp args => exact monTake_steady _ (fun t => monRsp t args) (fun _ ht => monRsp_steady _ ht) h
  | monUnlk args => exact monTake_steady _ (fun t => monUnlk t args) (fun _ ht => monUnlk_steady _ ht) h
  | monLock args => exact monTake_steady _ (fun t => monLock t args) (fun _ ht => monLock_steady _ ht) h
  | monRd args => exact monTake_steady _ (fun t => monRd t args) (fun _ ht => monRd_steady _ ht) h
  | monPk args => exact monTake_steady _ (fun t => monPk t args) (fun _ ht => monPk_steady _ ht) h
  | monWr args => exact monTake_steady _ (fun t => monWr t args) (fun _ ht => monWr_steady _ ht) h
  | monMrd args => exact monTake_steady _ (fun t => monMrd t args) (fun _ ht => monMrd_steady _ ht) h
  | monMwr args => exact monTake_steady _ (fun t => monMwr t args) (fun _ ht => monMwr_steady _ ht) h
  | monLog args => exact monTake_steady _ (fun t => monLog t args) (fun _ ht => monLog_steady _ ht) h
  | monFuse args => exact monTake_steady _ (fun t => monFuse t args) (fun _ ht => monFuse_steady _ ht) h
  | monBurn args low => exact monTake_steady _ (fun t => monBurn t args low) (fun _ ht => monBurn_steady _ _ ht) h
  | lineDiscard => exact monTake_steady _ (fun t => lineDiscard t) (fun _ ht => lineDiscard_steady ht) h
  | monitorUnknownCommand line => exact monTake_steady _ (fun t => monUnknown t line) (fun _ ht => monUnknown_steady _ ht) h
  | _ => exact h

theorem serveStuck_steady (h : Steady κ s₀ s) : Steady κ s₀ (serveStuck s) :=
  .foldl h.upd fun _ _ ht => takeAgain_steady _ ht

end Sys2Proof.Machine
end

section
/-! What the operations of Sys2Proof/Machine/Tick.lean do to the state keeps the invariants. -/
namespace Sys2Proof.Machine
open Sys2Proof Sys2Proof.Machine.Reg
variable {κ : Bool} {s₀ s : State}

theorem starveTick_steady (p : Nat) (h : Steady κ s₀ s) : Steady κ s₀ (starveTick s p) :=
  .ofIte (fun _ => State.addF_steady _ _ _ h) fun _ => h

theorem slewTick_steady (h : Steady κ s₀ s) : Steady κ s₀ (slewTick s) :=
  .ofIte (fun _ => h.upd) fun _ => .ofIte (fun _ => h.upd) fun _ => .ofIte (fun _ => h.upd) fun _ => h.upd

theorem portTick_steady (p : Nat) (h : Steady κ s₀ s) : Steady κ s₀ (portTick s p) :=
  .ofIte (fun _ => setPortState_steady _ _ h) fun _ => h

theorem tickWaits_steady (h : Steady κ s₀ s) : Steady κ s₀ (tickWaits s) := by
  unfold tickWaits
  extract_lets -underBinder t
  have ht : Steady κ s₀ t := resetGo_steady h
  exact .ofIte (fun _ => ht) fun _ => serveStuck_steady ht

theorem tick_steady (h : Steady κ s₀ s) : Steady κ s₀ (tick s) := by
  unfold tick
  refine .ofIte (fun _ => h) fun _ => ?_
  extract_lets -underBinder _ t
  have ht : Steady κ s₀ t := .foldl (slewTick_steady h.upd) fun _ _ hu => starveTick_steady _ hu
  exact tickWaits_steady (bootAdvance_steady (.foldl ht fun _ _ hu => portTick_steady _ hu))

end Sys2Proof.Machine
end

section
/-! Every command keeps the invariants: a case for each instruction, by the lemma about what it does to the state. -/
namespace Sys2Proof.Machine
open Sys2Proof Sys2Proof.Machine.Reg
variable {s : State}

/-- From a state that the invariants hold of, an outcome leads to states that they hold of. -/
def Keeps (s : State) (r : Host.Outcome State Fault Refusal) : Prop := ∀ t, r = .next t → Inv s → Inv t

theorem next_keeps {t : State} (h : Steady false s s → Steady false s t) : Keeps s (.next t) := fun _ e i =>
  Host.Outcome.next.inj e ▸ (h (.refl ..)).inv i

theorem live_keeps {t : State} (h : Steady false s s → Steady false s t) : Keeps s (live s t) := fun u e => by
  unfold live at e
  split at e
  · cases e
  · exact next_keeps h u e

theorem execPerstNAssert_keeps (ns : Nat) : Keeps s (execPerstNAssert ns s) := by
  unfold execPerstNAssert
  split_ifs
  · exact live_keeps id
  · exact fun _ e => nomatch e
  · exact live_keeps fun h => perstAssert_steady h

theorem execPorNAssert_keeps (ns : Nat) : Keeps s (execPorNAssert ns s) := by
  unfold execPorNAssert
  split_ifs
  · exact next_keeps id
  · exact fun _ e => nomatch e
  · exact next_keeps fun h => resetAll_steady _ _ _ (fun e => nomatch e) h.upd

theorem exec_keeps : ∀ i : Instr, Keeps s (exec i s)
  | .crEnable _ => live_keeps fun h => crEnable_steady _ h
  | .crDisable _ => live_keeps fun h => crDisable_steady _ h
  | .ccEnable _ => live_keeps fun h => ccEnable_steady _ h
  | .ccDisable _ => live_keeps fun h => ccDisable_steady _ h
  | .crTailWrite _ => live_keeps fun h => crTailWrite_steady _ h
  | .ccHeadWrite _ => live_keeps fun h => ccHeadWrite_steady _ h
  | .commandTake _ => live_keeps fun h => commandTake_steady _ h
  | .devInfo _ => live_keeps fun h => devInfo_steady _ h
  | .planLoad _ _ _ => live_keeps fun h => awaited_steady h (planLoad_steady _ _ _ h)
  | .planStart _ => live_keeps fun h => planStart_steady _ h
  | .planStop _ => live_keeps fun h => planStop_steady _ h
  | .planUnload _ => live_keeps fun h => planUnload_steady _ h
  | .streamOpen _ => live_keeps fun h => awaited_steady h (streamOpen_steady _ h)
  | .streamClose _ => live_keeps fun h => streamClose_steady _ h
  | .kilnRun _ => live_keeps fun h => kilnRun_steady _ h
  | .fenceCore _ => live_keeps fun h => fenceCommand_steady _ h
  | .resetDevice _ => live_keeps fun h => resetDevice_steady _ h
  | .powerState _ => live_keeps fun h => powerState_steady _ h
  | .attestQuote _ => live_keeps fun h => quoteTurn_steady _ h
  | .logRead _ => live_keeps fun h => logRead_steady _ h
  | .inject _ => live_keeps fun h => inject_steady _ h
  | .relayTopology _ _ _ _ => live_keeps fun h => relayTopology_steady _ _ _ _ h
  | .frTailWrite _ _ => live_keeps fun h => frTailWrite_steady _ _ h
  | .rrHeadWrite _ _ => live_keeps fun h => rrHeadWrite_steady _ _ h
  | .descriptorFetch _ _ => live_keeps fun h => fetchDescriptor_steady _ _ h
  | .bar2Read _ _ => live_keeps fun h => bar2Read_steady _ _ h
  | .bar2Write _ _ => live_keeps fun h => bar2Write_steady _ _ h
  | .bar0InvalidAccess _ => live_keeps fun h => bar0Invalid_steady _ h
  | .functionLevelReset => live_keeps fun h => serveStuck_steady (functionReset_steady _ h)
  | .hotReset => live_keeps fun h => serveStuck_steady (functionReset_steady _ h)
  | .perstNAssert _ => execPerstNAssert_keeps _
  | .perstNRelease _ _ => live_keeps fun h => perstRelease_steady _ _ h
  | .frameAdmission _ => live_keeps fun h => frameAdmission_steady _ h
  | .roundWindowClose _ => live_keeps fun h => windowClose_steady _ h
  | .frameEndReport _ => live_keeps fun h => frameEndReport_steady _ h
  | .resultPublish => live_keeps fun h => resultPublish_steady h
  | .resultModerationTimer _ => live_keeps fun h => moderation_steady _ h
  | .outputTimeout _ _ => live_keeps fun h => outputTimeout_steady _ _ h
  | .hubTokenReceive _ _ _ => live_keeps fun h => hubToken_steady _ _ _ h
  | .drainProbeStart _ => live_keeps fun h => awaited_steady h (startGroup_steady (drainProbe_steady _ h))
  | .drainTimeout _ => live_keeps fun h => drainTimeout_steady _ h
  | .txuCommit _ => live_keeps fun h => carryOut_steady _ (fun _ ht => txuCommit_steady _ ht) h
  | .txuClear _ => live_keeps fun h => txuClear_steady _ h
  | .txuActWrite _ _ _ _ => live_keeps fun h => txuActWrite_steady _ _ _ _ h
  | .txuFenceSet _ _ => live_keeps fun h => txuFence_steady _ _ h
  | .txuPrepare _ => live_keeps fun h => txuPrepare_steady _ h
  | .txuVote _ => live_keeps fun h => awaited_steady h (carryOut_steady _ (fun _ ht => txuVote_steady _ ht) h)
  | .txuVoteTimeout => live_keeps fun h => txuTimeout_steady h
  | .txuApply _ => live_keeps fun h => txuApply_steady _ h
  | .txuDiscard _ => live_keeps fun h => txuDiscard_steady _ h
  | .txuAck _ => live_keeps fun h => awaited_steady h (txuAck_steady _ h)
  | .nop _ => live_keeps fun h => seqGo_steady _ _ _ h
  | .conv _ => live_keeps fun h => awaited_steady h (issue_steady _ _ _ h)
  | .wino _ => live_keeps fun h => awaited_steady h (issue_steady _ _ _ h)
  | .dwconv _ => live_keeps fun h => awaited_steady h (issue_steady _ _ _ h)
  | .matmul _ => live_keeps fun h => awaited_steady h (issue_steady _ _ _ h)
  | .pool _ => live_keeps fun h => awaited_steady h (issue_steady _ _ _ h)
  | .resize _ => live_keeps fun h => awaited_steady h (issue_steady _ _ _ h)
  | .eltwise _ => live_keeps fun h => awaited_steady h (issue_steady _ _ _ h)
  | .reduce _ => live_keeps fun h => awaited_steady h (issue_steady _ _ _ h)
  | .gather _ => live_keeps fun h => awaited_steady h (relIssue_steady _ _ h)
  | .scatter _ => live_keeps fun h => awaited_steady h (relIssue_steady _ _ h)
  | .segment _ => live_keeps fun h => awaited_steady h (relIssue_steady _ _ h)
  | .topk _ => live_keeps fun h => awaited_steady h (relIssue_steady _ _ h)
  | .sort _ => live_keeps fun h => awaited_steady h (relIssue_steady _ _ h)
  | .knn _ => live_keeps fun h => awaited_steady h (relIssue_steady _ _ h)
  | .fps _ => live_keeps fun h => awaited_steady h (relIssue_steady _ _ h)
  | .ball _ => live_keeps fun h => awaited_steady h (relIssue_steady _ _ h)
  | .copy _ => live_keeps fun h => awaited_steady h (issueCopy_steady _ h)
  | .halo _ => live_keeps fun h => awaited_steady h (issue_steady _ _ _ h)
  | .crop _ => live_keeps fun h => awaited_steady h (issue_steady _ _ _ h)
  | .s2d _ => live_keeps fun h => awaited_steady h (issue_steady _ _ _ h)
  | .d2s _ => live_keeps fun h => awaited_steady h (issue_steady _ _ _ h)
  | .loadw _ => live_keeps fun h => issue_steady _ _ _ h
  | .kiln _ => live_keeps fun h => awaited_steady h (issue_steady _ _ _ h)
  | .wait _ => live_keeps fun h => awaited_steady h (seqWait_steady _ h)
  | .signal _ => live_keeps fun h => seqSignal_steady _ h
  | .release _ => live_keeps fun h => seqRelease_steady _ h
  | .loop _ => live_keeps fun h => seqLoop_steady _ h
  | .jump _ => live_keeps fun h => seqGo_steady _ _ _ h
  | .barrier _ => live_keeps fun h => seqBarrier_steady _ h
  | .endOp _ => live_keeps fun h => awaited_steady h (seqEnd_steady _ h)
  | .macroOpComplete _ _ => live_keeps fun h => awaited_steady h (opComplete_steady _ _ h)
  | .seqEofToken _ => live_keeps fun h => awaited_steady h (seqEof_steady _ h)
  | .stageWatchdogTick _ => live_keeps fun h => watchdogTick_steady _ h
  | .engineVector _ _ => live_keeps fun h => awaited_steady h (engineVector_steady _ _ h)
  | .shadowBeat _ _ => live_keeps fun h => shadowBeat_steady _ _ h
  | .shadowSwap _ _ => live_keeps fun h => shadowSwap_steady _ _ h
  | .ppuElement _ _ => live_keeps fun h => awaited_steady h (ppuElement_steady _ _ h)
  | .sagStep _ _ => live_keeps fun h => awaited_steady h (sagStepAny_steady _ _ h)
  | .sagNop _ _ => live_keeps fun h => onProgram_steady _ _ _ (fun _ _ _ ht => sagNop_steady _ _ ht) h
  | .sagSeti _ _ => live_keeps fun h => onProgram_steady _ _ _ (fun _ _ _ ht => sagSeti_steady _ _ ht) h
  | .sagAddi _ _ => live_keeps fun h => onProgram_steady _ _ _ (fun _ _ _ ht => sagAddi_steady _ _ ht) h
  | .sagAdd _ _ => live_keeps fun h => onProgram_steady _ _ _ (fun _ _ _ ht => sagAdd_steady _ _ ht) h
  | .sagModi _ _ => live_keeps fun h => onProgram_steady _ _ _ (fun _ _ _ ht => sagModi_steady _ _ ht) h
  | .sagEmit _ _ => live_keeps fun h => onProgram_steady _ _ _ (fun _ _ _ ht => sagEmit_steady _ _ ht) h
  | .sagEmitz _ _ => live_keeps fun h => onProgram_steady _ _ _ (fun _ _ _ ht => sagEmitz_steady _ _ ht) h
  | .sagSetc _ _ => live_keeps fun h => onProgram_steady _ _ _ (fun _ _ _ ht => sagSetc_steady _ _ ht) h
  | .sagLoop _ _ => live_keeps fun h => onProgram_steady _ _ _ (fun _ _ _ ht => sagLoop_steady _ _ ht) h
  | .sagJmp _ _ => live_keeps fun h => onProgram_steady _ _ _ (fun _ _ _ ht => sagJmp_steady _ _ ht) h
  | .sagEnd _ _ => live_keeps fun h => onProgram_steady _ _ _ (fun _ _ _ ht => sagEnd_steady _ _ ht) h
  | .engSeedWrite _ _ _ => live_keeps fun h => engSeedWrite_steady _ _ _ h
  | .coreConfigWrite _ _ _ => live_keeps fun h => coreConfigWrite_steady _ _ _ h
  | .hqConfigWrite _ _ _ _ => live_keeps fun h => coreConfigWrite_steady _ _ _ h
  | .tokenArrive _ _ _ => live_keeps fun h => tokenArrive_steady _ _ _ h
  | .passThroughForward _ _ => live_keeps fun h => passForward_steady _ _ h
  | .tokenSteer _ _ => live_keeps fun h => awaited_steady h (steerToken_steady _ _ h)
  | .joinFire _ _ => live_keeps fun h => awaited_steady h (joinFire_steady _ _ h)
  | .gustFeedWrite _ _ _ _ => live_keeps fun h => gustFeed_steady _ _ _ _ h
  | .gustBeat _ _ => live_keeps fun h => gustBeat_steady _ _ h
  | .lullTick _ => live_keeps fun h => lullTick_steady _ h
  | .spillComplete _ => live_keeps fun h => awaited_steady h (spillComplete_steady _ h)
  | .rotationComplete _ => live_keeps fun h => awaited_steady h (rotationComplete_steady _ h)
  | .refillComplete _ => live_keeps fun h => awaited_steady h (refillComplete_steady _ h)
  | .rluAccept _ => live_keeps fun h => rluAccept_steady _ h
  | .rluGatherIssue _ => live_keeps fun h => awaited_steady h (gatherIssue_steady _ h)
  | .rluGatherReturn _ _ _ => live_keeps fun h => awaited_steady h (gatherReturn_steady _ _ _ h)
  | .overflowPass _ _ => live_keeps fun h => awaited_steady h (overflowPass_steady _ _ h)
  | .rluOpComplete _ _ => live_keeps fun h => awaited_steady h (rluComplete_steady _ _ h)
  | .abortNotice _ _ => live_keeps fun h => abortNotice_steady _ _ h
  | .abortHistoryInvalidate _ => live_keeps fun h => awaited_steady h (historyInvalidate_steady _ h)
  | .mvrArm _ _ _ => live_keeps fun h => mvrArm_steady _ _ _ h
  | .mvrAbort _ _ => live_keeps fun h => mvrAbortWrite_steady _ _ h
  | .mvrBurst _ => live_keeps fun h => mvrBurst_steady _ h
  | .mvrNop _ _ => live_keeps fun h => mvrNop_steady _ _ h
  | .mvrMove _ _ => live_keeps fun h => mvrBeginMove_steady _ _ _ h
  | .mvrMove2d _ _ => live_keeps fun h => mvrBeginMove_steady _ _ _ h
  | .mvrLoop _ _ => live_keeps fun h => mvrLoop_steady _ _ h
  | .mvrWait _ _ => live_keeps fun h => mvrWait_steady _ _ h
  | .mvrSignal _ _ => live_keeps fun h => mvrSignal_steady _ _ h
  | .mvrEnd _ _ => live_keeps fun h => mvrEnd_steady _ _ h
  | .fifApertureWrite _ _ _ => live_keeps fun h => fifAperture_steady _ _ _ h
  | .fifConfigWrite _ _ _ => live_keeps fun h => fifConfigWrite_steady _ _ _ h
  | .pullRequest _ => live_keeps fun h => pullRequest_steady _ h
  | .pullCompletion _ _ _ => live_keeps fun h => pullComplete_steady _ _ _ h
  | .pullTimeout _ _ => live_keeps fun h => pullComplete_steady _ _ _ h
  | .feederBufferStart _ => live_keeps fun h => feederStart_steady _ h
  | .feederWord _ => live_keeps fun h => feederWord_steady _ h
  | .feederEof _ => live_keeps fun h => feederEof_steady _ h
  | .bankSweepClaim _ _ => live_keeps fun h => sweepClaim_steady _ _ h
  | .sweepRegionDone _ _ _ => live_keeps fun h => serveStuck_steady (sweepDone_steady _ _ _ h)
  | .retentionRequest _ _ => live_keeps fun h => serveStuck_steady (.ofIte (fun _ => retentionRequest_steady _ _ h) fun _ =>
      h)
  | .wakeRequest _ _ => live_keeps fun h => .ofIte (fun _ => wakeRequest_steady _ _ h) fun _ => h
  | .retentionEntryDone _ _ => live_keeps fun h => holdCheck_steady (retentionEntryDone_steady _ _ h)
  | .wakeDone _ _ => live_keeps fun h => serveStuck_steady (activeCheck_steady (wakeDone_steady _ _ h))
  | .maintenanceGrant _ _ => live_keeps fun h => maGrant_steady _ _ h
  | .lpddrRefresh _ _ => live_keeps id
  | .zqCalibration _ _ => live_keeps fun h => channelDue_steady _ _ _ h
  | .dqsOscCheck _ _ => live_keeps fun h => channelDue_steady _ _ _ h
  | .patrolScrubStep _ _ => live_keeps fun h => patrolScrub_steady _ _ h
  | .mr4Poll _ _ _ => live_keeps fun h => mr4Poll_steady _ _ _ h
  | .porNAssert _ => execPorNAssert_keeps _
  | .porNRelease _ _ => live_keeps fun h => porRelease_steady _ _ h
  | .hostBootGo => live_keeps fun h => hostBootGo_steady h
  | .firmwareVerified _ _ _ _ => live_keeps fun h => firmwareVerified_steady _ _ _ _ h
  | .memoryTrainingDone _ _ _ _ => live_keeps fun h => spdmResume_steady (memoryTrained_steady _ _ _ _ h)
  | .squallBegin _ => live_keeps fun h => squallBegin_steady _ h
  | .vddMonitorSample _ _ => live_keeps fun h => vddSample_steady _ _ h
  | .squallEnd _ => live_keeps fun h => squallEnd_steady _ h
  | .brownOut _ _ => live_keeps fun h => brownOut_steady _ _ h
  | .dieBrownoutRecovery _ => live_keeps fun h => spdmResume_steady (brownoutRecovery_steady _ h)
  | .tempSample _ _ => live_keeps fun h => .ofIte (fun _ => dieTemps_steady _ _ h) fun _ => hubTempSample_steady _ h
  | .overtempEnd _ => live_keeps fun h => overtempEnd_steady _ h
  | .dieHeatRecovery _ => live_keeps fun h => spdmResume_steady (heatRecovery_steady _ h)
  | .pmbusPoll _ _ => live_keeps fun h => pmbusPoll_steady _ _ h
  | .pmbAlert _ => live_keeps fun h => .foldl h fun _ _ ht => pmbusAnswer_steady _ _ ht
  | .vsetWrite _ _ => live_keeps fun h => vsetWrite_steady _ _ h
  | .stewardWatchdogExpiry => live_keeps fun h => watchdogExpiry_steady h
  | .wdogKick => live_keeps fun h => wdogKick_steady h
  | .flushSettleEnd _ => live_keeps fun h => awaited_steady h (flushSettleEnd_steady _ h)
  | .rlyPortEnable _ => live_keeps fun h => portEnable_steady _ h
  | .rlyPortDisable _ => live_keeps fun h => portDisable_steady _ h
  | .rlyRetrain _ => live_keeps fun h => portRetrain_steady _ h
  | .rlySignalDetect _ => live_keeps fun h => portStep_steady _ _ _ h
  | .rlyTrainingDone _ => live_keeps fun h => portStep_steady _ _ _ h
  | .rlyTrainingTimeout _ => live_keeps fun h => portStep_steady _ _ _ h
  | .rlyLockDone _ => live_keeps fun h => lockDone_steady _ h
  | .rlyLockTimeout _ => live_keeps fun h => portStep_steady _ _ _ h
  | .idleFlit _ _ _ => live_keeps fun h => idleFlit_steady _ _ (fecCount_steady _ _ h)
  | .trainFlit _ _ _ => live_keeps fun h => trainFlit_steady _ _ (fecCount_steady _ _ h)
  | .syncFlit _ _ _ => live_keeps fun h => receive_steady _ _ _ _ _ (fun _ _ ht =>
      syncHere_steady _ _ ht) (fecCount_steady _ _ h)
  | .cmdFlit _ _ _ => live_keeps fun h => receive_steady _ _ _ _ _ (fun _ _ ht =>
      cmdHere_steady _ ht) (fecCount_steady _ _ h)
  | .cplFlit _ _ _ => live_keeps fun h => receive_steady _ _ _ _ _ (fun _ _ ht =>
      cplHere_steady _ ht) (fecCount_steady _ _ h)
  | .fcredFlit _ _ _ => live_keeps fun h => receive_steady _ _ _ _ _ (fun _ _ ht =>
      fcredHere_steady _ ht) (fecCount_steady _ _ h)
  | .mrdFlit _ _ _ _ => live_keeps fun h => receive_steady _ _ _ _ _ (fun _ _ ht =>
      mrdHere_steady _ _ ht) (fecCount_steady _ _ h)
  | .mwrFlit _ _ _ => live_keeps fun h => receive_steady _ _ _ _ _ (fun _ _ ht =>
      mwrHere_steady _ ht) (fecCount_steady _ _ h)
  | .irqFlit _ _ _ => live_keeps fun h => receive_steady _ _ _ _ _ (fun _ _ ht =>
      irqHere_steady _ ht) (fecCount_steady _ _ h)
  | .mcplFlit _ _ _ => live_keeps fun h => receive_steady _ _ _ _ _ (fun _ _ ht =>
      mcplHere_steady _ ht) (fecCount_steady _ _ h)
  | .fhdrFlit _ _ _ => live_keeps fun h => receive_steady _ _ _ _ _ (fun _ _ ht =>
      fhdrHere_steady _ ht) (fecCount_steady _ _ h)
  | .fdataFlit _ _ _ => live_keeps fun h => receive_steady _ _ _ _ _ (fun _ _ ht =>
      fdataHere_steady _ ht) (fecCount_steady _ _ h)
  | .fendFlit _ _ _ => live_keeps fun h => receive_steady _ _ _ _ _ (fun _ _ ht =>
      fendHere_steady _ ht) (fecCount_steady _ _ h)
  | .flitCorrupt _ _ => live_keeps fun h => .ofIte (fun _ => .ofIte (fun _ => flitLost_steady _ h) fun _ =>
      flitDropped_steady _ h) fun _ => h
  | .replayTimeout _ => live_keeps fun h => replayTimeout_steady _ h
  | .syncTimer _ => live_keeps fun h => syncTimer_steady _ h
  | .creditReturn _ => live_keeps fun h => creditReturn_steady _ h
  | .flitForward _ _ => live_keeps fun h => flitForward_steady _ _ h
  | .doeDiscovery _ => live_keeps fun h => doeDiscover_steady _ h
  | .getVersion _ => live_keeps fun h => spdmArrive_steady _ _ h
  | .getCapabilities _ => live_keeps fun h => spdmArrive_steady _ _ h
  | .negotiateAlgorithms _ => live_keeps fun h => spdmArrive_steady _ _ h
  | .getDigests _ => live_keeps fun h => spdmArrive_steady _ _ h
  | .getCertificate _ => live_keeps fun h => spdmArrive_steady _ _ h
  | .challenge _ => live_keeps fun h => spdmArrive_steady _ _ h
  | .getMeasurements _ => live_keeps fun h => spdmArrive_steady _ _ h
  | .doeAbort => live_keeps fun h => doeAbort_steady h
  | .monHelp _ => live_keeps fun h => monTake_steady _ _ (fun _ ht => monHelp_steady _ ht) h
  | .monId _ => live_keeps fun h => monTake_steady _ _ (fun _ ht => monId_steady _ ht) h
  | .monStat _ => live_keeps fun h => monTake_steady _ _ (fun _ ht => monStat_steady _ ht) h
  | .monBaud _ => live_keeps fun h => monTake_steady _ _ (fun _ ht => monBaud_steady _ ht) h
  | .monChal _ => live_keeps fun h => monTake_steady _ _ (fun _ ht => monChal_steady _ ht) h
  | .monRsp _ => live_keeps fun h => monTake_steady _ _ (fun _ ht => monRsp_steady _ ht) h
  | .monUnlk _ => live_keeps fun h => monTake_steady _ _ (fun _ ht => monUnlk_steady _ ht) h
  | .monLock _ => live_keeps fun h => monTake_steady _ _ (fun _ ht => monLock_steady _ ht) h
  | .monRd _ => live_keeps fun h => monTake_steady _ _ (fun _ ht => monRd_steady _ ht) h
  | .monPk _ => live_keeps fun h => monTake_steady _ _ (fun _ ht => monPk_steady _ ht) h
  | .monWr _ => live_keeps fun h => monTake_steady _ _ (fun _ ht => monWr_steady _ ht) h
  | .monMrd _ => live_keeps fun h => monTake_steady _ _ (fun _ ht => monMrd_steady _ ht) h
  | .monMwr _ => live_keeps fun h => monTake_steady _ _ (fun _ ht => monMwr_steady _ ht) h
  | .monLog _ => live_keeps fun h => monTake_steady _ _ (fun _ ht => monLog_steady _ ht) h
  | .monFuse _ => live_keeps fun h => monTake_steady _ _ (fun _ ht => monFuse_steady _ ht) h
  | .monBurn _ _ => live_keeps fun h => monTake_steady _ _ (fun _ ht => monBurn_steady _ _ ht) h
  | .lineDiscard => live_keeps fun h => monTake_steady _ _ (fun _ ht => lineDiscard_steady ht) h
  | .challengeExpiry => live_keeps fun h => challengeExpiry_steady h
  | .lockoutEnd => live_keeps fun h => lockoutEnd_steady h
  | .dbgLockWrite => live_keeps fun h => dbgLockWrite_steady h
  | .jtagExtest => next_keeps fun h => tapScan_tapTest_steady _ _ h
  | .jtagSamplePreload => next_keeps fun h => tapScan_tapLoad_steady _ _ h
  | .jtagIdcode => next_keeps fun h => tapIdcode_steady h
  | .jtagClamp => next_keeps fun h => tapZero_tapTest_steady _ _ h
  | .jtagHighz => next_keeps fun h => tapZero_tapTest_steady _ _ h
  | .jtagExtestPulse => next_keeps fun h => tapScan_tapTest_steady _ _ h
  | .jtagExtestTrain => next_keeps fun h => tapScan_tapTest_steady _ _ h
  | .jtagBypass _ => next_keeps fun h => tapBypass_steady _ h
  | .trstNAssert => next_keeps fun h => tapReset_steady h
  | .smbDieTemp => live_keeps fun h => smbDieTemp_steady h
  | .smbHubTemp => live_keeps fun h => smbHubTemp_steady h
  | .smbStatus => live_keeps fun h => smbStatus_steady h
  | .smbStepping => live_keeps fun h => smbStepping_steady h
  | .cadTimeLoRead _ => live_keeps fun h => timeLoRead_steady _ h
  | .readClear _ _ _ => live_keeps fun h => registerRead_steady _ _ _ h
  | .registerWrite _ _ _ _ => live_keeps fun h => registerWrite_steady _ _ _ _ h
  | .vddHubLow => next_keeps fun h => resetAll_steady _ _ _ (fun e => nomatch e) h
  | .configurationRequest _ _ _ _ => live_keeps fun h => configurationRequest_steady _ _ _ _ h
  | .stewardRestartComplete => live_keeps fun h => spdmResume_steady (awaited_steady h (stewardRestarted_steady h))
  | .powerStateExitDone => live_keeps fun h => serveStuck_steady (awaited_steady h (powerExitDone_steady h))
  | .smbUnsupportedRequest _ _ => live_keeps fun h => smbUnsupported_steady _ _ h
  | .monitorUnknownCommand _ => live_keeps fun h => monTake_steady _ _ (fun _ ht => monUnknown_steady _ ht) h
  | .spdmUnsupportedRequest _ => live_keeps fun h => spdmArrive_steady _ _ h
  | .reservedMacroOperation _ => live_keeps fun h => seqReserved_steady _ h
  | .sagReservedOpcode _ _ => live_keeps fun h => onProgram_steady _ _ _ (fun _ _ _ ht => sagReserved_steady _ _ ht) h
  | .mvrReservedOpcode _ _ => live_keeps fun h => mvrReservedOp_steady _ _ h
  | .reservedFlit _ _ _ => live_keeps fun h => reservedFlit_steady _ _ (fecCount_steady _ _ h)

/-- Settles O59: the command at the front of the queue and a nanosecond of idling both keep the invariants. -/
theorem stepKeepsInvariant : Obligations.StepKeepsInvariant := by
  unfold Obligations.StepKeepsInvariant
  intro s t hi hs
  unfold step at hs
  split at hs
  · exact exec_keeps _ t hs ⟨hi.mem, hi.log, hi.fuses, hi.tap.of rfl⟩
  · exact next_keeps (fun h => tick_steady h) t hs hi

end Sys2Proof.Machine
end
